-- ==== Sys2Proof/Word.lean ====
section
/-! DEFINITION. Word types of the Y96 (spec 00_scope.md R3, R5): bytes, 32-bit and 64-bit words, lane sets. -/

namespace Sys2Proof

/-- One byte. -/
abbrev Byte := BitVec 8
/-- A 32-bit scalar register, vector element or word of memory. -/
abbrev Word := BitVec 32
/-- A 64-bit value: a register pair, an address, an instruction word. -/
abbrev DWord := BitVec 64
/-- A set of lanes of a group: bit L is lane L (R2: lanes 0 to 95). -/
abbrev Lanes := BitVec 96

end Sys2Proof
end

