-- ==== Sys2Proof/Syntax.lean ====
section
/-! DEFINITION. The syntax of the Y96: the operand records of the seven instruction formats
(spec 11_encoding_assembly.md R271-R281, R292) and the ONE inductive `Instr`, with one constructor for each row
of the opcode table: 219 instructions of the Sniusk architecture and 150 steps of the other units. -/

namespace Sys2Proof

/-- The element types of R272, in the order of their codes 0 to 22. -/
inductive Ty where
  | b32 | i32 | n32 | f32 | b64 | i64 | n64 | f64
  | f16x2 | bf16x2 | i16x2 | i8x4 | b8 | i8 | n8 | e4m3
  | b16 | i16 | n16 | f16 | bf16 | e5m2 | b128
  deriving DecidableEq, Repr, Inhabited

/-- Rounding modes, R252. -/
inductive RMode where
  | rn | rz | ru | rd
  deriving DecidableEq, Repr, Inhabited

/-- Condition codes, R281. -/
inductive Cond where
  | eq | ne | lt | le | gt | ge | ord | un
  deriving DecidableEq, Repr, Inhabited

/-- Instruction address spaces, R40. -/
inductive Space where
  | glob | team | clu | reg
  deriving DecidableEq, Repr, Inhabited

/-- Scopes, R105. -/
inductive Scope where
  | grp | team | clu | die | dev | sys | pod
  deriving DecidableEq, Repr, Inhabited

/-- Order codes, R108. -/
inductive Order where
  | rlx | acq | rel | ar
  deriving DecidableEq, Repr, Inhabited

/-- M-format element codes 0 to 14, R275. -/
inductive Elem where
  | n8 | i8 | n16 | i16 | b32 | b64 | b128 | i32 | n32 | f32 | i64 | n64 | f64 | f16x2 | bf16x2
  deriving DecidableEq, Repr, Inhabited

/-- Offset kinds of the M format, R274. -/
inductive OffKind where
  | vec | sca | disp | non
  deriving DecidableEq, Repr, Inhabited

/-- Operations of the atomics, R372. -/
inductive AtomOp where
  | add | min | max | and | or | xor | exch | cas
  deriving DecidableEq, Repr, Inhabited

/-- Operations of `vred`, R292. -/
inductive RedOp where
  | add | min | max | and | or | xor
  deriving DecidableEq, Repr, Inhabited

/-- The guard field, bits 55:50 (R271, R283). -/
structure Guard where
  neg  : Bool
  pred : Nat
  deriving DecidableEq, Repr, Inhabited

/-- S format (R273, R274). -/
structure SOp where
  ty : Ty
  d : Nat
  a : Nat
  b : Nat
  c : Nat
  deriving DecidableEq, Repr, Inhabited

/-- SI format: D, A and the 24-bit immediate of word bits 29:6 (R273, R279). -/
structure SIOp where
  d : Nat
  a : Nat
  imm : Nat
  deriving DecidableEq, Repr, Inhabited

/-- V3 format (R273, R274). -/
structure V3Op where
  g : Guard
  d : Nat
  a : Nat
  b : Nat
  c : Nat
  ty : Ty
  bk : Bool
  ck : Bool
  mode : RMode
  deriving DecidableEq, Repr, Inhabited

/-- The immediate of a VI instruction: bits 29:14, or the tail word's bits 31:0 (R274, R278). -/
inductive VImm where
  | short (n : Nat)
  | tail (n : Nat)
  deriving DecidableEq, Repr, Inhabited

/-- VI format (R273, R274, R278). -/
structure VIOp where
  g : Guard
  d : Nat
  a : Nat
  imm : VImm
  ty : Ty
  mode : RMode
  deriving DecidableEq, Repr, Inhabited

/-- `vicmp` and `vfcmp` (R292, R346): D and C are predicate destinations. -/
structure CmpOp where
  g : Guard
  cond : Cond
  ty : Ty
  d : Nat
  c : Nat
  a : Nat
  b : Nat
  deriving DecidableEq, Repr, Inhabited

/-- Predicate instructions of major 0x4D (R292, R348). -/
structure PredOp where
  g : Guard
  d : Nat
  a : Nat
  b : Nat
  deriving DecidableEq, Repr, Inhabited

/-- `vcvt`, `vpack`, `vunpack` (R292, R349-R351). -/
structure CvtOp where
  g : Guard
  d : Nat
  a : Nat
  b : Nat
  dst : Ty
  src : Ty
  bk : Bool
  nanov : Bool
  mode : RMode
  deriving DecidableEq, Repr, Inhabited

/-- Cross-lane instructions other than `vred` (R292, R354). `grp` names g0 to g7. -/
structure XLaneOp where
  g : Guard
  d : Nat
  a : Nat
  b : Nat
  ty : Ty
  bk : Bool
  grp : Nat
  deriving DecidableEq, Repr, Inhabited

/-- `vred` (R292, R358). -/
structure VRedOp where
  g : Guard
  op : RedOp
  d : Nat
  a : Nat
  ty : Ty
  grp : Nat
  mode : RMode
  deriving DecidableEq, Repr, Inhabited

/-- M format of loads, stores and atomics (R273-R276). `la` is the lookahead, `ctr` the dependence counter,
`x` the C bits 18:14 (the miss predicate, or the no-return bit of an atomic in bit 0). -/
structure MOp where
  g : Guard
  la : Nat
  ctr : Nat
  x : Nat
  d : Nat
  a : Nat
  b : Nat
  elem : Elem
  space : Space
  scope : Scope
  order : Order
  kind : OffKind
  deriving DecidableEq, Repr, Inhabited

/-- `pref` (D is the level) and the cache operations (R360, R371, R382). -/
structure LineOp where
  g : Guard
  d : Nat
  a : Nat
  b : Nat
  kind : OffKind
  deriving DecidableEq, Repr, Inhabited

/-- `wqpop`, `wqpush` (R387): `q` is the scalar queue register. -/
structure WqOp where
  d : Nat
  a : Nat
  b : Nat
  q : Nat
  space : Space
  kind : OffKind
  deriving DecidableEq, Repr, Inhabited

/-- `evwait` (R387): `t` is the scalar timeout register. -/
structure EvOp where
  d : Nat
  a : Nat
  b : Nat
  t : Nat
  elem : Elem
  space : Space
  scope : Scope
  order : Order
  kind : OffKind
  deriving DecidableEq, Repr, Inhabited

/-- Engine commands (R392): queue, and the even scalar naming the completion counter when enabled. -/
structure CmdOp where
  g : Guard
  d : Nat
  a : Nat
  b : Nat
  c : Nat
  queue : Nat
  cnt : Option Nat
  deriving DecidableEq, Repr, Inhabited

/-- A dispatcher of the tree of R209. -/
inductive Node where
  | pod
  | pkg (p : Nat)
  | die (d : Nat)
  | clu (c : Nat)
  | core (g : Nat)
  deriving DecidableEq, Repr, Inhabited

/-- The agent of a request at a home slice (R104, R166): a core's L1 side, a fused cluster, an engine, a host
thread, a stream aperture, a storage port, another package, or control-die firmware. -/
inductive Agent where
  | core (g : Nat)
  | fused (c : Nat)
  | copyEngine (c : Nat)
  | collEngine (d : Nat)
  | matrix (c : Nat)
  | host (port : Nat)
  | stream (k port : Nat)
  | storage (n : Nat)
  | peer (p : Nat)
  | firmware
  deriving DecidableEq, Repr, Inhabited

/-- An atomic request at a home (R95, R372, R373). Operand and new value are the low bits of a number. -/
structure AtomReq where
  agent : Agent
  op : AtomOp
  elem : Elem
  pa : Nat
  x : Nat
  new : Nat
  deriving DecidableEq, Repr, Inhabited

/-- A read (`data = none`) or write of `size` bytes at a device physical address, as a home receives it. -/
structure PhysReq where
  agent : Agent
  pa : Nat
  size : Nat
  data : Option Nat
  deriving DecidableEq, Repr, Inhabited

/-- What a peer access asks of the owner (R38): a read, a write or an atomic of an export. -/
inductive PeerOp where
  | read (size : Nat)
  | write (size : Nat) (data : Nat)
  | atomic (op : AtomOp) (elem : Elem) (x : Nat) (new : Nat)
  deriving DecidableEq, Repr, Inhabited

/-- A peer access as the owner receives it (R38): sender, export index, generation, offset. -/
structure PeerReq where
  src : Nat
  exportIdx : Nat
  gen : Nat
  off : Nat
  op : PeerOp
  tag : Nat
  deriving DecidableEq, Repr, Inhabited

/-- The owner's reply as the importer receives it (R38, R174, R476). -/
inductive PeerReply where
  | data (v : Nat)
  | revoked
  | lost
  deriving DecidableEq, Repr, Inhabited

/-- A CXL.cache or CXL.io response that arrives from the host (R98, R137). -/
inductive HostResp where
  | grantShared (bytes : List Byte)
  | grantOwn (bytes : List Byte)
  | evictDone
  | snoopDone
  | atomicOld (v : Nat)
  | ioData (v : Nat)
  deriving DecidableEq, Repr, Inhabited

/-- A fabric flit as the receiver sees it (R469, R470). -/
structure Flit where
  seq : Nat
  ack : Nat
  kind : Nat
  reserved : Nat
  crcOk : Bool
  deriving DecidableEq, Repr, Inhabited

/-- A fabric port, or the link of die `near` to die `link` (R13, R16). -/
structure LinkEnd where
  near : Nat
  link : Nat
  deriving DecidableEq, Repr, Inhabited

/-- The data of a host's stream write and the CXL port it comes through (R464). -/
structure PortWord where
  port : Nat
  word : Nat
  deriving DecidableEq, Repr, Inhabited

/-- What a package reports of a grid beside the teams dispatched and completed (R216, R217): teams cancelled and dropped, its clock,
its fault counts by cause, and its fault records with linear index, core and frame. -/
structure RestReport where
  cancelled : Nat := 0
  dropped : Nat := 0
  clock : Nat := 0
  faults : List (Nat × Nat) := []
  records : List (Nat × Nat × Nat) := []
  deriving DecidableEq, Repr, Inhabited

/-- What a package reports of a grid to the pod root (R216). -/
structure TeamReport extends RestReport where
  dispatched : Nat := 0
  completed : Nat := 0
  deriving DecidableEq, Repr, Inhabited

/-- An entry of the pod map (R474). State: 0 absent, 1 online, 2 spare, 3 lost. -/
structure PodEntry where
  pkg : Nat
  state : Nat
  replaced : Nat
  deriving DecidableEq, Repr, Inhabited

/-- A host decoder: base, size, CXL port, and whether it claims host-managed device memory of another device (R35, R461). -/
structure HostDecoder where
  base : Nat
  size : Nat
  port : Nat
  hdm : Bool := false
  deriving DecidableEq, Repr, Inhabited

/-- The steps of the Y96, one constructor for each row of the opcode table. The first part is the instruction
set; the second part (from `issueCycle` on) is the steps of the other units, which have no encoding. -/
inductive Instr where
  -- scalar, majors 0x01-0x07 (R304-R307)
  | nop
  | sadd (o : SOp) | ssub (o : SOp) | smul (o : SOp) | smulh (o : SOp) | smin (o : SOp) | smax (o : SOp)
  | sdiv (o : SOp) | srem (o : SOp)
  | sand (o : SOp) | sor (o : SOp) | sxor (o : SOp)
  | sshl (o : SOp) | sshr (o : SOp) | ssar (o : SOp) | srot (o : SOp)
  | sclz (o : SOp) | spop (o : SOp) | sbrev (o : SOp) | sbfx (o : SOp) | sbfi (o : SOp)
  | smov (o : SOp) | ssel (o : SOp) | scmp (cond : Cond) (o : SOp)
  -- scalar immediates, majors 0x10-0x14 (R308)
  | sli (o : SIOp) | slhi (o : SIOp)
  | saddImm (o : SIOp) | smulImm (o : SIOp)
  | sminI32Imm (o : SIOp) | smaxI32Imm (o : SIOp) | sminN32Imm (o : SIOp) | smaxN32Imm (o : SIOp)
  | sandImm (o : SIOp) | sorImm (o : SIOp) | sxorImm (o : SIOp)
  | sshlImm (o : SIOp) | sshrImm (o : SIOp) | ssarImm (o : SIOp) | srotImm (o : SIOp)
  | scmpImm (cond : Cond) (uns : Bool) (o : SIOp)
  -- control (R309-R320)
  | bra (off : Nat) | bz (d : Nat) (off : Nat) | bnz (d : Nat) (off : Nat)
  | call (off : Nat) (k : Nat)
  | vbr (neg : Bool) (p : Nat) (off : Nat)
  | brx (a : Nat) | callx (a : Nat) (k : Nat) | ret
  | vjoin | exit | yield | dwait (k : Nat)
  -- range (R321-R325)
  | unfold | rinfo (d : Nat) | part (n : Nat) (code : Nat)
  | spawn (g : Guard) (d : Nat) (a : Nat) (n : Nat)
  | fold (d : Nat) (n : Nat) (hold : Nat) (preds : Nat)
  -- vector integer (R335-R340)
  | vadd (o : V3Op) | vsub (o : V3Op) | vsadd (o : V3Op) | vssub (o : V3Op) | vabsd (o : V3Op)
  | vmin (o : V3Op) | vmax (o : V3Op) | vabs (o : V3Op) | vneg (o : V3Op)
  | vmul (o : V3Op) | vmulh (o : V3Op) | vmad (o : V3Op)
  | vand (o : V3Op) | vor (o : V3Op) | vxor (o : V3Op) | vandn (o : V3Op) | vlop3 (o : V3Op)
  | vshl (o : V3Op) | vshr (o : V3Op) | vsar (o : V3Op) | vrot (o : V3Op)
  | vclz (o : V3Op) | vctz (o : V3Op) | vpop (o : V3Op) | vbrev (o : V3Op) | vbfx (o : V3Op) | vbfi (o : V3Op)
  | vpdep (o : V3Op) | vpext (o : V3Op) | vbperm (o : V3Op) | vgfmat (o : V3Op)
  -- vector immediates (R341)
  | vaddImm (o : VIOp) | vsubImm (o : VIOp) | vsaddImm (o : VIOp) | vssubImm (o : VIOp) | vabsdImm (o : VIOp)
  | vminImm (o : VIOp) | vmaxImm (o : VIOp) | vmulImm (o : VIOp)
  | vandImm (o : VIOp) | vorImm (o : VIOp) | vxorImm (o : VIOp) | vandnImm (o : VIOp)
  | vshlImm (o : VIOp) | vshrImm (o : VIOp) | vsarImm (o : VIOp) | vrotImm (o : VIOp)
  | vfaddImm (o : VIOp) | vfmulImm (o : VIOp) | vfminImm (o : VIOp) | vfmaxImm (o : VIOp) | vmovImm (o : VIOp)
  -- floating point (R342-R345)
  | vfadd (o : V3Op) | vfmul (o : V3Op) | vfma (o : V3Op) | vfmin (o : V3Op) | vfmax (o : V3Op)
  | vfclass (o : V3Op) | vfrnd (o : V3Op) | vfscale (o : V3Op)
  | vfrcp (o : V3Op) | vfrsq (o : V3Op) | vfsqrt (o : V3Op) | vfdiv (o : V3Op)
  | vfexp2 (o : V3Op) | vflog2 (o : V3Op) | vfsinp (o : V3Op) | vfcosp (o : V3Op)
  -- compares, predicates, conversions, moves, cross-lane (R346-R358)
  | vicmp (o : CmpOp) | vfcmp (o : CmpOp)
  | vpand (o : PredOp) | vpor (o : PredOp) | vpxor (o : PredOp) | vpnot (o : PredOp) | vpmov (o : PredOp)
  | vsetp (o : PredOp)
  | vcvt (o : CvtOp) | vpack (o : CvtOp) | vunpack (o : CvtOp)
  | vmov (o : V3Op) | vsel (o : V3Op) | vbcast (o : V3Op) | vidx (o : V3Op)
  | vshfl (o : XLaneOp) | vbal (o : XLaneOp) | vany (o : XLaneOp) | vall (o : XLaneOp) | vcnt (o : XLaneOp)
  | vmatch (o : XLaneOp) | vred (o : VRedOp)
  -- memory (R360-R375)
  | vld (o : MOp) | vldu (o : MOp) | vgath (o : MOp) | vgathMt (o : MOp) | vst (o : MOp) | vscat (o : MOp)
  | sld (o : MOp) | sst (o : MOp) | pref (o : LineOp)
  | vatomAdd (o : MOp) | vatomMin (o : MOp) | vatomMax (o : MOp) | vatomAnd (o : MOp) | vatomOr (o : MOp)
  | vatomXor (o : MOp) | vatomExch (o : MOp) | vatomCas (o : MOp)
  | satomAdd (o : MOp) | satomMin (o : MOp) | satomMax (o : MOp) | satomAnd (o : MOp) | satomOr (o : MOp)
  | satomXor (o : MOp) | satomExch (o : MOp) | satomCas (o : MOp)
  -- fences, barriers, batches, cache operations, queues, events (R376-R387)
  | fence (order : Order) (scope : Scope) | fencex
  | bari (a : Nat) (b : Nat) | bara (d : Nat) (b : Nat) | barw (a : Nat) (b : Nat) | barx (d : Nat) (b : Nat)
  | bclose (d : Nat) | bwait (a : Nat)
  | cflush (o : LineOp) | cinv (o : LineOp) | cclean (o : LineOp)
  | wqpop (o : WqOp) | wqpush (o : WqOp) | evwait (o : EvOp)
  -- matrix and async (R391-R418)
  | macq (g : Guard) (acc : Nat) (cols : Nat) | mrel (g : Guard) (acc : Nat) | mrelF (g : Guard) (acc : Nat)
  | mzero (g : Guard) (acc : Nat)
  | mmul (g : Guard) (acc : Nat) (a b c e f : Nat) (z : Bool)
  | mrd (g : Guard) (la ctr d acc b logn : Nat) | mwr (g : Guard) (acc a b logn : Nat)
  | mld (g : Guard) (la ctr acc a b : Nat) (space : Space) (scope : Scope)
  | mst (g : Guard) (acc a b : Nat) (space : Space) (scope : Scope)
  | hld (la ctr d a : Nat) (space : Space) | hst (d a : Nat) (space : Space)
  | hset (d a k : Nat) | hget (d a k : Nat)
  | cpyt (o : CmdOp) | cpyl (o : CmdOp) (src dst : Space) | gath (o : CmdOp) | coll (o : CmdOp)
  | qfence (queue mask : Nat) | fwait (a : Nat) | ftest (d a : Nat) | fcancel (a : Nat)
  | glaunch (g : Guard) (d a : Nat) | gcancel (g : Guard) (a : Nat) | gwait (g : Guard) (a : Nat)
  | gwaitAll (g : Guard)
  -- system (R327-R331)
  | trap (n : Nat) | tret | tesc | halt
  | sget (d num : Nat) | sset (a num : Nat)
  | tlbinv (d a b c : Nat) | own (d a b c : Nat)
  -- steps of a core and its holders
  | issueCycle (core : Nat) | longLatencyComplete (core slot idx : Nat) | futureComplete (fut status : Nat)
  | swap (core slot : Nat) | watchdogExpiry (core slot : Nat) | piecePlace (core : Nat)
  | barwPieceHandoff (core slot : Nat) | foldHoldExpiry (core slot : Nat) | foldMerge (core slot other : Nat)
  | binTimerExpiry (core bin : Nat) | compaction (core : Nat)
  -- dispatch and completion
  | capacityReport (child : Node) (grid n : Nat) | dealRound (node : Node) (grid : Nat)
  | rangeReceipt (core grid lo hi : Nat) | launchRecordCheck (idx : Nat)
  | podLaunchAck (pkg grid : Nat) | podAckTimeout (pkg grid : Nat)
  | teamRetire (core grid team : Nat) | completionReport (node : Node) (grid dispatched completed : Nat) (rest : RestReport) | gridComplete (grid : Nat)
  | gridCancel (grid : Nat) | rootFailover (pkg : Nat) | reDeal (grid pkg : Nat)
  -- translation
  | walk (core asid va : Nat) | dirtyBitWalk (core asid va : Nat) | invalidationComplete (id : Nat)
  | invalWalkRestart (id : Nat) | flipComplete (id : Nat)
  -- coherence
  | rds (agent : Agent) (line : Nat) | rdx (agent : Agent) (line : Nat) | upg (agent : Agent) (line : Nat)
  | wbd (agent : Agent) (line : Nat) | evc (agent : Agent) (line : Nat) | engineRead (agent : Agent) (line : Nat)
  | recall (line : Nat) | forwardReceipt (agent : Agent) (line : Nat) | grantReceipt (agent : Agent) (line : Nat)
  | homeAtomic (r : AtomReq) | uncachedAccess (r : PhysReq) | directoryEviction (line : Nat)
  | filterEviction (line : Nat) | snpInv (line : Nat) | snpData (line : Nat) | snpCur (line : Nat)
  | hostAccess (r : PhysReq) | registerSpaceAnswer (core slot : Nat)
  | storageCompletion (core slot : Nat) (data : Option Nat)
  | inboundRequest (port : Nat) (atomicOrPeer : Bool) (x size : Nat) (data : Option Nat)
  | peerAccess (r : PeerReq) | peerReply (core slot : Nat) (r : PeerReply)
  -- checking
  | releaseComplete (core : Nat) | tasterCheck (core : Nat) | epochClose (core : Nat)
  | epochCompare (core die : Nat) | epochTimeout (core die : Nat)
  | flitReceipt (port : Nat) (f : Flit) | retryRequest (port n : Nat)
  | uncorrectableFlit (fabric : Bool) (link : LinkEnd) (header ownership : Bool) (typ : Nat) (lines : List Nat)
  | linkDown (a b : Nat)
  -- synchronisation and engines
  | barrierArrivalCount (core : Nat) | evwaitTimeout (core slot : Nat)
  | commandStart (cmd : Nat) | commandComplete (cmd : Nat) | engineFaultDelivery (core slot : Nat)
  | passFormation (clu : Nat) | aStagingComplete (clu entry : Nat) | bFetchComplete (clu : Nat)
  | passLeavesArray (clu : Nat)
  -- traps, pre-emption, scrub
  | trapEntry (core slot : Nat) | deferredTrap (core slot : Nat)
  | dispositionResume (core slot : Nat) | dispositionEnd (core slot : Nat) | dispositionCancel (core slot : Nat)
  | breakpointHit (core slot bp : Nat) | singleStep (core slot : Nat)
  | preemptionRequest (base dies : Nat) | coreHalted (core : Nat) | contextSave (core : Nat)
  | contextRestore (src dst : Nat)
  | scrubStart (value : Nat) | scrubPerform | quarantineClear
  -- resets, bring-up, power
  | packageColdReset | packageWarmReset | computeDieReset (die : Nat) | firmwareRestart
  | bringup (step : Nat) (ok : Bool) | dieBringup (die step : Nat) (ok : Bool) | clockChange (mhz : Nat)
  | thermalLimit | thermalClearTimeout
  | clusterGate (clu : Nat) | clusterWake (clu : Nat) | dieGate (die : Nat) | dieWake (die : Nat)
  -- command front end
  | launchWindowSeal (slot off : Nat) (bytes : List Byte) | windowRecordAccept (slot : Nat)
  | submit (port value : Nat) | instatClear (port : Nat) | doorbellAccept (port : Nat)
  | semRead (port k : Nat) | semWrite (port k value : Nat)
  | cancelPacket (q : Nat) | ownPacket (q : Nat) | invalPacket (q : Nat) | waitPacket (q : Nat)
  | signalPacket (q : Nat) | fencePacket (q : Nat) | copyPacket (q : Nat) | feedPacket (q : Nat)
  | launchPacket (q : Nat) | predPacket (q : Nat)
  | packetComplete (idx : Nat) | queueRingFault (q va : Nat) | journalAccept (idx : Nat)
  | eventWrite (e value : Nat) | queueDescriptorWrite (q off size value : Nat)
  | workQueueDescriptorWrite (w off size value : Nat)
  -- streams, handles, pod
  | streamWrite (k : Nat) (whole : Bool) (data : PortWord) | streamResync (k value : Nat) | streamGapTimeout (k : Nat)
  | handleInstall (slot handle : Nat) | installReply (slot status : Nat) | handleUninstall (slot : Nat)
  | slotDrained (slot : Nat)
  | packageLoss (pkg : Nat) | heartbeatMiss (pkg : Nat) | mapEpochInstall (epoch : Nat) (entries : List PodEntry)
  -- registers, debug, trace
  | haltResume (core slot : Nat) | haltEnd (core slot : Nat) | tbaseWrite (core value : Nat)
  | estatResume (engine : Nat) | eictlWrite (die value : Nat) | prefetchCounterClear (core k : Nat)
  | ckstatClear (checker : Nat) | unclmClear (die : Nat) | unclaimedAccess (die : Nat) (write : Bool)
  | registerWrite (off size value : Nat) | pcSample (core : Nat) | traceLoss (core : Nat) | deadlockScan
  -- responses and inputs
  | cxlHostResponse (line : Nat) (r : HostResp) | memoryControllerAcceptance (line : Nat) (write : Bool)
  | evwaitReread (core slot : Nat) | workQueueUnitArrival | injectedDelayExpiry (core : Nat)
  | ownerInstallCheck (src handle slot : Nat) | hostDecoderChange (decoders : List HostDecoder)
  | storageLinkChange (port : Nat) (up : Bool) (rate width : Nat) | signedImageUpload (ok : Bool)
  deriving DecidableEq, Repr, Inhabited

end Sys2Proof
end

