-- ==== Sys2Proof/Machine/Bits.lean ====
section
/-! DEFINITION. Bit-field, sign-extension and byte-order helpers (spec 00_scope.md R5, R7; 11 R293). -/

namespace Sys2Proof

/-- Bytes of an element code (R275, R362). -/
def Elem.bytes : Elem → Nat
  | .n8 | .i8 => 1
  | .n16 | .i16 => 2
  | .b64 | .i64 | .n64 | .f64 => 8
  | .b128 => 16
  | _ => 4

/-- Whether a type is 64 bits wide (R302, R332). -/
def Ty.wide : Ty → Bool
  | .b64 | .i64 | .n64 | .f64 => true
  | _ => false

/-- Whether a type reads its operands as signed (R305, R332). -/
def Ty.signed : Ty → Bool
  | .i32 | .i64 | .i16x2 | .i8x4 | .i8 | .i16 => true
  | _ => false

/-- Bits of one element of a type: the element of a packed type (R250, R332). -/
def Ty.bits : Ty → Nat
  | .b64 | .i64 | .n64 | .f64 => 64
  | .f16x2 | .bf16x2 | .i16x2 | .b16 | .i16 | .n16 | .f16 | .bf16 => 16
  | .i8x4 | .b8 | .i8 | .n8 | .e4m3 | .e5m2 => 8
  | .b128 => 128
  | _ => 32

end Sys2Proof

namespace Sys2Proof.Machine

/-- The field of `n` bits whose lowest bit is `l`. -/
def field (x l n : Nat) : Nat := (x / 2 ^ l) % 2 ^ n

/-- Bit `j` of a number. -/
def bitN (x j : Nat) : Bool := (x / 2 ^ j) % 2 == 1

/-- `sext(x, n)` of R293: the low `n` bits read as signed. -/
def sextI (x n : Nat) : Int :=
  let v := x % 2 ^ n
  if v ≥ 2 ^ (n - 1) ∧ n > 0 then (v : Int) - 2 ^ n else v

/-- An integer modulo `2^n`, as a natural number. -/
def wrapI (x : Int) (n : Nat) : Nat := (x % (2 ^ n : Int)).toNat

/-- `rotl(x, k, n)` of R293. -/
def rotlN (x k n : Nat) : Nat :=
  let v := x % 2 ^ n
  (v * 2 ^ (k % n) + v / 2 ^ (n - k % n)) % 2 ^ n

/-- Replace the field of `n` bits at `l` of `x` by the low bits of `v`. -/
def setField (x l n v : Nat) : Nat :=
  x - field x l n * 2 ^ l + (v % 2 ^ n) * 2 ^ l

/-- Little-endian value of a list of bytes (R5). -/
def leValue : List Byte → Nat
  | [] => 0
  | b :: bs => b.toNat + 256 * leValue bs

/-- The `n` bytes of a value, lowest first (R5). -/
def leBytes : Nat → Nat → List Byte
  | 0, _ => []
  | n + 1, v => BitVec.ofNat 8 (v % 256) :: leBytes n (v / 256)

/-- Number of one bits among the low `n` bits. -/
def popN : Nat → Nat → Nat
  | 0, _ => 0
  | n + 1, x => (if bitN x n then 1 else 0) + popN n x

/-- Number of leading zero bits of an `n`-bit value. -/
def clzN : Nat → Nat → Nat
  | 0, _ => 0
  | n + 1, x => if bitN x n then 0 else 1 + clzN n x

/-- Bits of the low `n` bits reversed. -/
def brevN : Nat → Nat → Nat
  | 0, _ => 0
  | n + 1, x => (if bitN x 0 then 2 ^ n else 0) + brevN n (x / 2)

/-- Number of zero bits below the lowest one bit among `n` bits; `n` when there is none. -/
def ctzN (n x : Nat) : Nat := clzN n (brevN n x)

/-- Lane set of lanes lo to hi - 1. -/
def laneRange (lo hi : Nat) : Lanes :=
  BitVec.ofNat 96 (if hi ≤ lo then 0 else 2 ^ hi - 2 ^ lo)

/-- Whether lane L is in the set. -/
def lane (m : Lanes) (L : Nat) : Bool := m.getLsbD L

/-- The lanes of a set in ascending order. -/
def laneList (m : Lanes) : List Nat := (List.range 96).filter (lane m)

/-- The lowest lane of a set. -/
def lowestLane (m : Lanes) : Option Nat := (laneList m).head?

/-- Number of lanes of a set. -/
def laneCount (m : Lanes) : Nat := popN 96 m.toNat

/-- The set that holds one lane. -/
def laneBit (L : Nat) : Lanes := BitVec.ofNat 96 (2 ^ L % 2 ^ 96)

/-- The lane set of the lanes that satisfy a test. -/
def laneSetOf (p : Nat → Bool) : Lanes :=
  BitVec.ofNat 96 ((List.range 96).foldl (fun acc L => if p L then acc + 2 ^ L else acc) 0)

end Sys2Proof.Machine
end

