-- ==== Sys2Proof/Machine/Float.lean ====
section
/-! DEFINITION. Number formats and exact arithmetic (spec 10_number_formats.md R248-R262). A finite value is an exact
dyadic number; every operation rounds once, by R253. Each result comes with the flags of R256. -/

namespace Sys2Proof.Machine

/-- Floating-point formats of R248. -/
inductive Fmt where
  | e4m3 | e5m2 | f16 | bf16 | f32 | f64
  deriving DecidableEq, Repr, Inhabited

/-- Bits of a format. -/
def Fmt.bits : Fmt → Nat
  | .e4m3 | .e5m2 => 8
  | .f16 | .bf16 => 16
  | .f32 => 32
  | .f64 => 64

/-- Precision p, the hidden bit counted (R248). -/
def Fmt.p : Fmt → Nat
  | .e4m3 => 4
  | .e5m2 => 3
  | .f16 => 11
  | .bf16 => 8
  | .f32 => 24
  | .f64 => 53

/-- Exponent bias (R248). -/
def Fmt.bias : Fmt → Nat
  | .e4m3 => 7
  | .e5m2 => 15
  | .f16 => 15
  | .bf16 => 127
  | .f32 => 127
  | .f64 => 1023

/-- Smallest normal exponent (R248). -/
def Fmt.emin (f : Fmt) : Int := 1 - (f.bias : Int)

/-- Largest exponent of a finite value (R248). -/
def Fmt.emax : Fmt → Int
  | .e4m3 => 8
  | .e5m2 => 15
  | .f16 => 15
  | .bf16 => 127
  | .f32 => 127
  | .f64 => 1023

/-- Significand of the largest finite value (R248): all ones, but for E4M3, whose top code is a NaN (R249). -/
def Fmt.maxN (f : Fmt) : Nat := match f with | .e4m3 => 14 | _ => 2 ^ f.p - 1

/-- Canonical NaN (R249). -/
def Fmt.cnan : Fmt → Nat
  | .e4m3 => 0x7F
  | .e5m2 => 0x7E
  | .f16 => 0x7E00
  | .bf16 => 0x7FC0
  | .f32 => 0x7FC00000
  | .f64 => 0x7FF8000000000000

/-- A decoded value: a NaN (signalling or not), an infinity, or plus or minus m × 2^e. -/
inductive Val where
  | nan (signalling : Bool)
  | inf (neg : Bool)
  | fin (neg : Bool) (m : Nat) (e : Int)
  deriving DecidableEq, Repr, Inhabited

/-- Decode a bit pattern (R248, R249). -/
def Fmt.decode (f : Fmt) (x : Nat) : Val :=
  let mb := f.p - 1
  let eb := f.bits - f.p
  let s := bitN x (f.bits - 1)
  let ef := field x mb eb
  let mf := field x 0 mb
  if ef = 2 ^ eb - 1 ∧ f ≠ .e4m3 then
    if mf = 0 then .inf s else .nan (!bitN mf (mb - 1))
  else if f = .e4m3 ∧ ef = 15 ∧ mf = 7 then .nan false
  else if ef = 0 then .fin s mf (f.emin - mb)
  else .fin s (2 ^ mb + mf) ((ef : Int) - f.bias - mb)

/-- The sign bit in place. -/
def Fmt.signBit (f : Fmt) (neg : Bool) : Nat := if neg then 2 ^ (f.bits - 1) else 0

/-- A signed zero. -/
def Fmt.zero (f : Fmt) (neg : Bool) : Nat := f.signBit neg

/-- Largest finite value with a sign. -/
def Fmt.maxFinite (f : Fmt) (neg : Bool) : Nat :=
  f.signBit neg + ((f.emax - f.emin).toNat * 2 ^ (f.p - 1) + f.maxN)

/-- inf_or_max of R253. -/
def Fmt.infOrMax (f : Fmt) (neg : Bool) : Nat :=
  match f with
  | .e4m3 => f.maxFinite neg
  | _ => f.signBit neg + (2 ^ (f.bits - f.p) - 1) * 2 ^ (f.p - 1)

/-- Flags of R256, by bit. -/
def fInexact : Nat := 1
/-- Underflow. -/
def fUnder : Nat := 2
/-- Overflow. -/
def fOver : Nat := 4
/-- Divide by zero. -/
def fDivZero : Nat := 8
/-- Invalid. -/
def fInvalid : Nat := 16

/-- A magnitude of (m + sticky fraction) units rounded down, up or to nearest even after dropping sh bits: the kept
integer and whether it is inexact (R253). -/
def roundShift (md : RMode) (neg : Bool) (m sh : Nat) (sticky : Bool) : Nat × Bool :=
  let q := m / 2 ^ sh
  let r := m % 2 ^ sh
  let inexact := r != 0 || sticky
  let up := match md with
    | .rn => if sh = 0 then false
             else decide (2 * r > 2 ^ sh) || (decide (2 * r = 2 ^ sh) && (sticky || q % 2 == 1))
    | .rz => false
    | .ru => inexact && !neg
    | .rd => inexact && neg
  (if up then q + 1 else q, inexact)

/-- overflow of R253. -/
def Fmt.overflow (f : Fmt) (neg : Bool) (md : RMode) : Nat :=
  match md with
  | .rn => f.infOrMax neg
  | .rz => f.maxFinite neg
  | .ru => if neg then f.maxFinite neg else f.infOrMax neg
  | .rd => if neg then f.infOrMax neg else f.maxFinite neg

/-- The rounding of a magnitude m × 2^e (m > 0, a sticky fraction below its last bit): kept significand, its exponent
E, and inexactness (R253). A sticky value is given with at least p + 2 significant bits. -/
def Fmt.roundParts (f : Fmt) (md : RMode) (neg : Bool) (m : Nat) (e : Int) (sticky : Bool) : Nat × Int × Bool :=
  let ex := (Nat.log2 m : Int) + e
  let big := max ex f.emin
  let u := big - f.p + 1
  let sh := u - e
  if sh ≤ 0 then (m * 2 ^ (-sh).toNat, big, sticky)
  else
    let r := roundShift md neg m sh.toNat sticky
    (r.1, big, r.2)

/-- Whether a rounded significand n at exponent E exceeds the largest finite value. -/
def Fmt.tooBig (f : Fmt) (n : Nat) (big : Int) : Bool :=
  decide (big > f.emax) || (decide (big = f.emax) && decide (n > f.maxN))

/-- round of R253 for a finite exact value, with its flags (R256). An exact zero is given with its sign (R258). -/
def Fmt.round (f : Fmt) (md : RMode) (neg : Bool) (m : Nat) (e : Int) (sticky : Bool) : Nat × Nat :=
  if m = 0 ∧ !sticky then (f.zero neg, 0)
  else
    let r := f.roundParts md neg m e sticky
    if f.tooBig r.1 r.2.1 then (f.overflow neg md, fOver ||| fInexact)
    else
      let bits := (r.2.1 - f.emin).toNat * 2 ^ (f.p - 1) + r.1
      let tiny := r.1 != 0 && decide (bits < 2 ^ (f.p - 1))
      (f.signBit neg + bits, (if r.2.2 then fInexact else 0) ||| (if tiny && r.2.2 then fUnder else 0))

/-- Conversion into an FP8 format (R254): saturating, or the canonical NaN with nanov. -/
def Fmt.round8 (f : Fmt) (md : RMode) (nanov : Bool) (v : Val) : Nat × Nat :=
  match v with
  | .nan s => (f.cnan, if s then fInvalid else 0)
  | .inf n =>
    if nanov then (if f = .e4m3 then f.cnan else f.infOrMax n, 0) else (f.maxFinite n, 0)
  | .fin n m e =>
    if m = 0 then (f.zero n, 0)
    else
      let r := f.roundParts md n m e false
      if f.tooBig r.1 r.2.1 then (if nanov then f.cnan else f.maxFinite n, fOver ||| fInexact)
      else f.round md n m e false

/-- Whether a value is a signalling NaN. -/
def Val.snan : Val → Bool
  | .nan s => s
  | _ => false

/-- Whether a value is a NaN. -/
def Val.isNan : Val → Bool
  | .nan _ => true
  | _ => false

/-- Exact sum of two finite values with the zero rule of R258. -/
def sumFin (md : RMode) (n1 : Bool) (m1 : Nat) (e1 : Int) (n2 : Bool) (m2 : Nat) (e2 : Int) : Bool × Nat × Int :=
  let e := min e1 e2
  let a : Int := (m1 : Int) * 2 ^ (e1 - e).toNat
  let b : Int := (m2 : Int) * 2 ^ (e2 - e).toNat
  let t := (if n1 then -a else a) + (if n2 then -b else b)
  if t = 0 then (if n1 = n2 then n1 else md == .rd, 0, e)
  else (decide (t < 0), t.natAbs, e)

/-- Sum of two values, rounded once (R258, R261). -/
def Fmt.addVals (f : Fmt) (md : RMode) (x y : Val) : Nat × Nat :=
  match x, y with
  | .nan s, y => (f.cnan, if s || y.snan then fInvalid else 0)
  | _, .nan s => (f.cnan, if s then fInvalid else 0)
  | .inf a, .inf b => if a = b then (f.infOrMax a, 0) else (f.cnan, fInvalid)
  | .inf a, _ => (f.infOrMax a, 0)
  | _, .inf b => (f.infOrMax b, 0)
  | .fin n1 m1 e1, .fin n2 m2 e2 =>
    let r := sumFin md n1 m1 e1 n2 m2 e2
    f.round md r.1 r.2.1 r.2.2 false

/-- Exact product of two values that are no NaN; none for 0 × infinity. -/
def mulVals (x y : Val) : Option Val :=
  match x, y with
  | .fin n1 m1 e1, .fin n2 m2 e2 => some (.fin (n1 != n2) (m1 * m2) (e1 + e2))
  | .inf a, .inf b => some (.inf (a != b))
  | .inf a, .fin n m _ => if m = 0 then none else some (.inf (a != n))
  | .fin n m _, .inf b => if m = 0 then none else some (.inf (n != b))
  | _, _ => none

/-- Round a value that is no sum or product of others. -/
def Fmt.ofVal (f : Fmt) (md : RMode) (v : Val) : Nat × Nat :=
  match v with
  | .nan s => (f.cnan, if s then fInvalid else 0)
  | .inf n => (f.infOrMax n, 0)
  | .fin n m e => f.round md n m e false

/-- vfadd (R343). -/
def fpAdd (f : Fmt) (md : RMode) (x y : Nat) : Nat × Nat := f.addVals md (f.decode x) (f.decode y)

/-- vfmul (R343). -/
def fpMul (f : Fmt) (md : RMode) (x y : Nat) : Nat × Nat :=
  let a := f.decode x
  let b := f.decode y
  if a.isNan || b.isNan then (f.cnan, if a.snan || b.snan then fInvalid else 0)
  else
    match mulVals a b with
    | some v => f.ofVal md v
    | none => (f.cnan, fInvalid)

/-- vfma (R257, R258, R343): one rounding. -/
def fpFma (f : Fmt) (md : RMode) (x y z : Nat) : Nat × Nat :=
  let a := f.decode x
  let b := f.decode y
  let c := f.decode z
  let sn := if a.snan || b.snan || c.snan then fInvalid else 0
  if a.isNan || b.isNan then (f.cnan, sn)
  else
    match mulVals a b with
    | none => (f.cnan, fInvalid)
    | some p => if c.isNan then (f.cnan, sn) else f.addVals md p c

/-- Order of R259 on values that are no NaN: whether a is at or below b, −0 below +0. -/
def leVal (a b : Val) : Bool :=
  match a, b with
  | .inf true, _ => true
  | _, .inf false => true
  | .inf false, _ => false
  | _, .inf true => false
  | .fin n1 m1 e1, .fin n2 m2 e2 =>
    let e := min e1 e2
    let p := m1 * 2 ^ (e1 - e).toNat
    let q := m2 * 2 ^ (e2 - e).toNat
    if n1 && !n2 then true
    else if !n1 && n2 then false
    else if n1 then decide (q ≤ p) else decide (p ≤ q)
  | _, _ => false

/-- vfmin (R259). -/
def fpMin (f : Fmt) (x y : Nat) : Nat × Nat :=
  let a := f.decode x
  let b := f.decode y
  let fl := if a.snan || b.snan then fInvalid else 0
  if a.isNan then (if b.isNan then f.cnan else y, fl)
  else if b.isNan then (x, fl)
  else (if leVal a b then x else y, fl)

/-- vfmax (R259). -/
def fpMax (f : Fmt) (x y : Nat) : Nat × Nat :=
  let a := f.decode x
  let b := f.decode y
  let fl := if a.snan || b.snan then fInvalid else 0
  if a.isNan then (if b.isNan then f.cnan else y, fl)
  else if b.isNan then (x, fl)
  else (if leVal b a then x else y, fl)

/-- vfclass (R345). -/
def fpClass (f : Fmt) (x : Nat) : Nat :=
  match f.decode x with
  | .nan true => 1
  | .nan false => 2
  | .inf true => 4
  | .inf false => 2 ^ 9
  | .fin n m _ =>
    if m = 0 then (if n then 2 ^ 5 else 2 ^ 6)
    else if m < 2 ^ (f.p - 1) then (if n then 2 ^ 4 else 2 ^ 7)
    else (if n then 2 ^ 3 else 2 ^ 8)

/-- Round a finite value to an integer: magnitude and inexactness. -/
def roundInt (md : RMode) (neg : Bool) (m : Nat) (e : Int) : Nat × Bool :=
  if e ≥ 0 then (m * 2 ^ e.toNat, false) else roundShift md neg m (-e).toNat false

/-- vfrnd (R344): never inexact. -/
def fpRnd (f : Fmt) (md : RMode) (x : Nat) : Nat × Nat :=
  match f.decode x with
  | .nan s => (f.cnan, if s then fInvalid else 0)
  | .inf _ => (x, 0)
  | .fin n m e => if m = 0 ∨ e ≥ 0 then (x, 0) else ((f.round .rn n (roundInt md n m e).1 0 false).1, 0)

/-- vfscale (R261, R343). -/
def fpScale (f : Fmt) (md : RMode) (x : Nat) (n : Int) : Nat × Nat :=
  match f.decode x with
  | .fin s m e => f.round md s m (e + n) false
  | v => f.ofVal md v

/-- Quotient of two positive finite magnitudes, to more bits than any format keeps: significand, exponent, sticky. -/
def divMag (m1 : Nat) (e1 : Int) (m2 : Nat) (e2 : Int) : Nat × Int × Bool :=
  let k := Nat.log2 m2 + 70
  let a := m1 * 2 ^ k
  (a / m2, e1 - e2 - k, a % m2 != 0)

/-- vfdiv (R260). -/
def fpDiv (f : Fmt) (md : RMode) (x y : Nat) : Nat × Nat :=
  match f.decode x, f.decode y with
  | .nan s, b => (f.cnan, if s || b.snan then fInvalid else 0)
  | _, .nan s => (f.cnan, if s then fInvalid else 0)
  | .inf _, .inf _ => (f.cnan, fInvalid)
  | .inf a, .fin n _ _ => (f.infOrMax (a != n), 0)
  | .fin n _ _, .inf b => (f.zero (n != b), 0)
  | .fin n1 m1 e1, .fin n2 m2 e2 =>
    if m2 = 0 then (if m1 = 0 then (f.cnan, fInvalid) else (f.infOrMax (n1 != n2), fDivZero))
    else if m1 = 0 then (f.zero (n1 != n2), 0)
    else
      let q := divMag m1 e1 m2 e2
      f.round md (n1 != n2) q.1 q.2.1 q.2.2

/-- vfrcp (R260). -/
def fpRcp (f : Fmt) (md : RMode) (x : Nat) : Nat × Nat :=
  match f.decode x with
  | .nan s => (f.cnan, if s then fInvalid else 0)
  | .inf n => (f.zero n, 0)
  | .fin n m e =>
    if m = 0 then (f.infOrMax n, fDivZero)
    else
      let q := divMag 1 0 m e
      f.round md n q.1 q.2.1 q.2.2

/-- Integer square root, bit by bit from the highest. -/
def isqrtFrom : Nat → Nat → Nat → Nat
  | 0, _, r => r
  | n + 1, x, r =>
    let c := r + 2 ^ n
    if c * c ≤ x then isqrtFrom n x c else isqrtFrom n x r

/-- Integer square root. -/
def isqrt (x : Nat) : Nat := isqrtFrom (Nat.log2 x / 2 + 1) x 0

/-- Square root of a positive magnitude: significand, exponent, sticky. -/
def sqrtMag (m : Nat) (e : Int) : Nat × Int × Bool :=
  let odd := e % 2 != 0
  let m1 := if odd then 2 * m else m
  let e1 := if odd then e - 1 else e
  let a := m1 * 2 ^ 140
  let r := isqrt a
  (r, (e1 - 140) / 2, r * r != a)

/-- vfsqrt (R260). -/
def fpSqrt (f : Fmt) (md : RMode) (x : Nat) : Nat × Nat :=
  match f.decode x with
  | .nan s => (f.cnan, if s then fInvalid else 0)
  | .inf n => if n then (f.cnan, fInvalid) else (x, 0)
  | .fin n m e =>
    if m = 0 then (x, 0)
    else if n then (f.cnan, fInvalid)
    else
      let q := sqrtMag m e
      f.round md false q.1 q.2.1 q.2.2

/-- vfrsq (R260): the square root of 1/x, taken on integers. -/
def fpRsq (f : Fmt) (md : RMode) (x : Nat) : Nat × Nat :=
  match f.decode x with
  | .nan s => (f.cnan, if s then fInvalid else 0)
  | .inf n => if n then (f.cnan, fInvalid) else (f.zero false, 0)
  | .fin n m e =>
    if m = 0 then (f.infOrMax n, fDivZero)
    else if n then (f.cnan, fInvalid)
    else
      let odd := e % 2 != 0
      let m1 := if odd then 2 * m else m
      let e1 := if odd then e - 1 else e
      let a := 2 ^ 300 / m1
      let r := isqrt a
      f.round md false r (-150 - e1 / 2) (r * r * m1 != 2 ^ 300)

/-! ## Transcendental functions: fixed point with 400 fraction bits (LOG 11). Their values at the arguments that
reach the general rule are irrational, so the sticky bit is always set. -/

/-- Fraction bits. -/
def fixP : Nat := 400

/-- floor(pi × 2^400). -/
def piFix : Nat := 8112377246730971238862271351300894519161151600179265203591191037615230905373990498745523360926816815427566779727327576236

/-- floor(ln 2 × 2^400). -/
def ln2Fix : Nat := 1789879222497203190815761498240779176894896805856420935579692301363062920687047601279850318367644315849030039181347319086

/-- Sum of the terms t, t·x/(k+1), t·x²/((k+1)(k+2)), … in fixed point. -/
def expTerms : Nat → Nat → Nat → Nat → Nat
  | 0, _, _, _ => 0
  | n + 1, x, k, t => t + expTerms n x (k + 1) (t * x / 2 ^ fixP / (k + 1))

/-- 2^f for a fraction f in fixed point. -/
def exp2Fix (f : Nat) : Nat := expTerms 110 (f * ln2Fix / 2 ^ fixP) 0 (2 ^ fixP)

/-- Sum of z^(2k+1)/(2k+1) in fixed point, z2 = z². -/
def atanhTerms : Nat → Nat → Nat → Nat → Nat
  | 0, _, _, _ => 0
  | n + 1, z2, k, t => t / (2 * k + 1) + atanhTerms n z2 (k + 1) (t * z2 / 2 ^ fixP)

/-- log2 of 1 + g for a fraction g in fixed point. -/
def log2Fix (g : Nat) : Nat :=
  let z := g * 2 ^ fixP / (2 ^ (fixP + 1) + g)
  2 * atanhTerms 140 (z * z / 2 ^ fixP) 0 z * 2 ^ fixP / ln2Fix

/-- Alternating sum of t, t·x²/((k+1)(k+2)), …: the positive terms less the negative ones. -/
def sinTerms : Nat → Nat → Nat → Int → Int
  | 0, _, _, _ => 0
  | n + 1, x2, k, t => t - sinTerms n x2 (k + 2) (t * x2 / 2 ^ fixP / ((k + 1) * (k + 2) : Nat))

/-- sin(pi r) for 0 ≤ r ≤ 1/2 in fixed point. -/
def sinPiFix (r : Nat) : Nat :=
  let x := r * piFix / 2 ^ fixP
  (sinTerms 50 (x * x / 2 ^ fixP) 1 (x : Int)).toNat

/-- vfexp2 (R260). -/
def fpExp2 (f : Fmt) (md : RMode) (x : Nat) : Nat × Nat :=
  match f.decode x with
  | .nan s => (f.cnan, if s then fInvalid else 0)
  | .inf n => if n then (f.zero false, 0) else (f.infOrMax false, 0)
  | .fin n m e =>
    if m = 0 then f.round md false 1 0 false
    else if (Nat.log2 m : Int) + e ≥ 12 then
      if n then f.round md false (2 ^ 80) (-4000) true else f.round md false (2 ^ 80) 4000 true
    else
      let fx : Int := if e ≥ 0 then (m : Int) * 2 ^ (e.toNat + fixP)
                      else (m : Int) * 2 ^ fixP / 2 ^ (-e).toNat
      let v : Int := if n then -fx else fx
      let k := v / 2 ^ fixP
      let fr := (v % 2 ^ fixP).toNat
      if fr = 0 then f.round md false 1 k false
      else f.round md false (exp2Fix fr) (k - fixP) true

/-- vflog2 (R260). -/
def fpLog2 (f : Fmt) (md : RMode) (x : Nat) : Nat × Nat :=
  match f.decode x with
  | .nan s => (f.cnan, if s then fInvalid else 0)
  | .inf n => if n then (f.cnan, fInvalid) else (f.infOrMax false, 0)
  | .fin n m e =>
    if m = 0 then (f.infOrMax true, fDivZero)
    else if n then (f.cnan, fInvalid)
    else
      let l := Nat.log2 m
      let k := (l : Int) + e
      let g := (m - 2 ^ l) * 2 ^ fixP / 2 ^ l
      if m = 2 ^ l then f.round md (decide (k < 0)) k.natAbs 0 false
      else
        let v := k * 2 ^ fixP + (log2Fix g : Int)
        let a := if v < 0 then (-v).toNat - 1 else v.toNat
        f.round md (decide (v < 0)) a (-(fixP : Int)) true

/-- |sin(pi r)| and its sign for r in half turns mod 2, in fixed point. -/
def sinTurn (r : Nat) : Bool × Nat :=
  let one := 2 ^ fixP
  let neg := decide (r ≥ one)
  let h := r % one
  (neg, sinPiFix (if 2 * h ≤ one then h else one - h))

/-- x mod 2 in fixed point, for a finite value. -/
def mod2Fix (neg : Bool) (m : Nat) (e : Int) : Nat :=
  let a := if e ≥ 0 then m * 2 ^ (e.toNat + fixP) else m * 2 ^ fixP / 2 ^ (-e).toNat
  let r := a % 2 ^ (fixP + 1)
  if neg && r != 0 then 2 ^ (fixP + 1) - r else r

/-- vfsinp (R260). -/
def fpSinp (f : Fmt) (md : RMode) (x : Nat) : Nat × Nat :=
  match f.decode x with
  | .nan s => (f.cnan, if s then fInvalid else 0)
  | .inf _ => (f.cnan, fInvalid)
  | .fin n m e =>
    let r := mod2Fix n m e
    if r % 2 ^ fixP = 0 then (f.zero n, 0)
    else if r % 2 ^ fixP = 2 ^ (fixP - 1) then f.round md (decide (r ≥ 2 ^ fixP)) 1 0 false
    else
      let t := sinTurn r
      f.round md t.1 t.2 (-(fixP : Int)) true

/-- vfcosp (R260): the sine a quarter turn on. -/
def fpCosp (f : Fmt) (md : RMode) (x : Nat) : Nat × Nat :=
  match f.decode x with
  | .nan s => (f.cnan, if s then fInvalid else 0)
  | .inf _ => (f.cnan, fInvalid)
  | .fin n m e =>
    let r := mod2Fix n m e
    if r % 2 ^ fixP = 0 then f.round md (decide (r ≥ 2 ^ fixP)) 1 0 false
    else if r % 2 ^ fixP = 2 ^ (fixP - 1) then (f.zero false, 0)
    else
      let t := sinTurn ((r + 2 ^ (fixP - 1)) % 2 ^ (fixP + 1))
      f.round md t.1 t.2 (-(fixP : Int)) true

/-! ## Comparisons and conversions -/

/-- vfcmp (R347): the relation and the invalid flag. -/
def fpCmp (f : Fmt) (c : Cond) (x y : Nat) : Bool × Nat :=
  let a := f.decode x
  let b := f.decode y
  let fl := if a.snan || b.snan then fInvalid else 0
  let nan := a.isNan || b.isNan
  let zero := fun (v : Val) => match v with | .fin _ m _ => m == 0 | _ => false
  let eq := (zero a && zero b) || (leVal a b && leVal b a)
  let le := eq || leVal a b
  let r := match c with
    | .eq => !nan && eq
    | .ne => nan || !eq
    | .lt => !nan && le && !eq
    | .le => !nan && le
    | .gt => !nan && !le
    | .ge => !nan && (eq || !le)
    | .ord => !nan
    | .un => nan
  (r, fl)

/-- Float to integer (R255): a result beyond the range gives its bound and invalid, a NaN gives 0 and invalid. -/
def fpToInt (f : Fmt) (md : RMode) (signed : Bool) (w : Nat) (x : Nat) : Nat × Nat :=
  let lo : Int := if signed then -(2 ^ (w - 1)) else 0
  let hi : Int := if signed then 2 ^ (w - 1) - 1 else 2 ^ w - 1
  match f.decode x with
  | .nan _ => (0, fInvalid)
  | .inf n => (wrapI (if n then lo else hi) w, fInvalid)
  | .fin n m e =>
    let r := roundInt md n m e
    let v : Int := if n then -(r.1 : Int) else r.1
    if v < lo then (wrapI lo w, fInvalid)
    else if v > hi then (wrapI hi w, fInvalid)
    else (wrapI v w, if r.2 then fInexact else 0)

/-- Integer to float (R255), R254 for an FP8 target. -/
def fpOfInt (f : Fmt) (md : RMode) (nanov : Bool) (v : Int) : Nat × Nat :=
  match f with
  | .e4m3 | .e5m2 => f.round8 md nanov (.fin (decide (v < 0)) v.natAbs 0)
  | _ => f.round md (decide (v < 0)) v.natAbs 0 false

/-- Float to float (R254, R255). -/
def fpConvert (src dst : Fmt) (md : RMode) (nanov : Bool) (x : Nat) : Nat × Nat :=
  match dst with
  | .e4m3 | .e5m2 => dst.round8 md nanov (src.decode x)
  | _ => dst.ofVal md (src.decode x)

end Sys2Proof.Machine
end

