-- ==== Sys2Proof/Config.lean ====
section
/-! DEFINITION. What the spec leaves to an implementation and the free values (no body: nothing can evaluate them).
Each is named in notes/assumptions/10.md. -/

namespace Sys2Proof.Config

/-- Which entry a full TLB, L1 set, memory-side set or constant cache gives up (R57, R79, R87): the implementation's
choice. The argument is the counter `State.fresh`; the choice is the value modulo the number of candidates. -/
opaque victim : Nat → Nat

/-- The value of a byte that R409 leaves open when a command's source and destination overlap: true, the value the
command wrote to the source byte earlier; false, the value before the command. Applied to `State.fresh`. -/
opaque overlapNew : Nat → Bool

/-- The hash by which a message chooses one of the fabric ports of a routing mask (R471), from its line address: the
implementation's choice. -/
opaque portHash : Nat → Nat

/-- A byte of a line whose newest value was in a cache of a compute die that is reset (R17): the spec gives it no value.
Applied to `State.fresh`. -/
opaque lostByte : Nat → BitVec 8

/-- Whether the owner's own mapping of the export of an entry of its export table is uncached (R38, R472): the entry does not record
it, and the spec does not say where the owner keeps it. -/
opaque exportUncached : Nat → Bool

/-- Capacities in GiB of the modules of the DDR tier's channels (R12): fixed by how the package is populated. -/
opaque ddrModules : List Nat

/-- The owner's export key (R36): a secret of the implementation, whose value and length the spec does not give. -/
opaque exportKey : List (BitVec 8)

/-- Offset of the ATBASE register in the control die's register block (R45); the spec gives it no offset
(DESIGN CHOICE, LOG 14). -/
def atbaseOffset : Nat := 0x05000000

/-- The package id (`%pkg`, R243): fixed for the machine; the spec gives no number (DESIGN CHOICE, LOG 9). -/
def pkgId : Nat := 0

end Sys2Proof.Config
end

