-- ==== Sys2Proof/WellFormed.lean ====
section
/-! DEFINITION. Which terms of `Instr` an instruction word can stand for: failures 1 to 5 of R282, without the
privilege check (6) and the register-window checks (7), which depend on the holder. A step of another unit is well
formed when the numbers it names lie in the ranges of R2. -/

namespace Sys2Proof

/-- A scalar field (R273): register 0 to 63. -/
def scalarOk (n : Nat) : Bool := n < 64
/-- A vector field: 8 bits. -/
def vecOk (n : Nat) : Bool := n < 256
/-- A predicate (R238): 0 to 23. -/
def predOk (n : Nat) : Bool := n < 24
/-- A guard (R271). -/
def Guard.ok (g : Guard) : Bool := predOk g.pred
/-- Lookahead and counter fields (R276, R284): the counter is 0 unless L is 15, and then 0 to 5. -/
def lookOk (la ctr : Nat) : Bool := la < 16 && (if la = 15 then ctr < 6 else ctr == 0)

/-- The 32- and 64-bit integer types. -/
def tyInt : List Ty := [.b32, .i32, .n32, .b64, .i64, .n64]
/-- The signed and unsigned types of `smulh` and the like. -/
def tySign : List Ty := [.i32, .n32, .i64, .n64]
/-- The raw types. -/
def tyRaw : List Ty := [.b32, .b64]
/-- Types of `vadd`, `vsub`, `vmul` (R335). -/
def tyVAdd : List Ty := [.b32, .i32, .n32, .b64, .i64, .n64, .i16x2, .i8x4]
/-- Types of the saturating family and `vabsd` (R335). -/
def tyVSat : List Ty := [.i32, .n32, .i16x2, .i8x4]
/-- Types of `vmin`, `vmax` (R335). -/
def tyVMin : List Ty := [.i32, .n32, .i64, .n64, .i16x2, .i8x4]
/-- Types of `vabs`, `vneg` (R335). -/
def tyVAbs : List Ty := [.i32, .i64, .i16x2, .i8x4]
/-- Floating-point types of major 0x48 (R342). -/
def tyFp : List Ty := [.f32, .f64, .f16x2, .bf16x2]
/-- Floating-point types of 0x49.4 to 0x49.7 (R342). -/
def tyFpNo64 : List Ty := [.f32, .f16x2, .bf16x2]
/-- Types of R278, which `vmov` with an immediate accepts. -/
def tyImm : List Ty := [.i32, .i64, .n32, .b32, .n64, .b64, .f32, .f64, .f16x2, .bf16x2, .i16x2, .i8x4]
/-- Types `vcvt` converts between (R349). -/
def tyCvt : List Ty := [.i8, .n8, .i16, .n16, .i32, .n32, .i64, .n64, .e4m3, .e5m2, .f16, .bf16, .f32, .f64]

/-- S rows: accepted types, and which of A, B, C are used (R304). -/
def SOp.ok (o : SOp) (tys : List Ty) (ub uc : Bool) : Bool :=
  tys.contains o.ty && scalarOk o.d && scalarOk o.a && scalarOk o.b && scalarOk o.c
    && (ub || o.b == 0) && (uc || o.c == 0)

/-- SI rows (R279). -/
def SIOp.ok (o : SIOp) : Bool := scalarOk o.d && scalarOk o.a && o.imm < 2 ^ 24

/-- SI shifts and rotates (R279): 0 to 31. -/
def SIOp.okShift (o : SIOp) : Bool := o.ok && o.imm < 32

/-- V3 rows (R274, R332): accepted types, whether B and C are used, whether a mode is taken. -/
def V3Op.ok (o : V3Op) (tys : List Ty) (ub uc md : Bool) : Bool :=
  o.g.ok && tys.contains o.ty && vecOk o.d && vecOk o.a
    && (if ub then (if o.bk then scalarOk o.b else vecOk o.b) else o.b == 0 && !o.bk)
    && (if uc then (if o.ck then scalarOk o.c else vecOk o.c) else o.c == 0 && !o.ck)
    && (md || o.mode == .rn)

/-- A VI immediate (R274, R278): 16 bits, or 32 bits in the tail. -/
def VImm.ok (i : VImm) (ty : Ty) : Bool :=
  match i with
  | .short n => n < 2 ^ 16 && (ty != .i8x4 || n < 256)
  | .tail n => n < 2 ^ 32

/-- VI rows (R341). -/
def VIOp.ok (o : VIOp) (tys : List Ty) (md : Bool) : Bool :=
  o.g.ok && tys.contains o.ty && vecOk o.d && vecOk o.a && o.imm.ok o.ty && (md || o.mode == .rn)

/-- Predicate rows (R348): whether B is used. -/
def PredOp.ok (o : PredOp) (ub : Bool) : Bool :=
  o.g.ok && predOk o.d && predOk o.a && predOk o.b && (ub || o.b == 0)

/-- The permitted (destination, source) pairs of `vpack` (R350). -/
def packPairs : List (Ty × Ty) :=
  [(.f16x2, .f32), (.bf16x2, .f32), (.i16x2, .i32), (.i8x4, .i16x2),
   (.e4m3, .f16x2), (.e4m3, .bf16x2), (.e5m2, .f16x2), (.e5m2, .bf16x2)]

/-- The permitted (destination, source) pairs of `vunpack` (R351). -/
def unpackPairs : List (Ty × Ty) :=
  [(.f32, .f16x2), (.f32, .bf16x2), (.f32, .e4m3), (.f32, .e5m2), (.i32, .i16x2), (.i32, .i8x4),
   (.f16x2, .e4m3), (.f16x2, .e5m2), (.i16x2, .i8x4)]

/-- Conversion rows (R349-R351), but for the pairs. -/
def CvtOp.ok (o : CvtOp) (ub : Bool) : Bool :=
  o.g.ok && vecOk o.d && vecOk o.a
    && (if ub then (if o.bk then scalarOk o.b else vecOk o.b) else o.b == 0 && !o.bk)

/-- Cross-lane rows (R354): fields of D by the caller; whether B is used. -/
def XLaneOp.ok (o : XLaneOp) (tys : List Ty) (ub : Bool) : Bool :=
  o.g.ok && tys.contains o.ty && o.grp < 8
    && (if ub then (if o.bk then scalarOk o.b else vecOk o.b) else o.b == 0 && !o.bk)

/-- Types of `vred` by operation (R358). -/
def RedOp.tys : RedOp → List Ty
  | .add | .min | .max => [.i32, .n32, .i64, .n64, .f32, .f64]
  | .and | .or | .xor => tyRaw

/-- Whether a type is a floating-point type. -/
def Ty.isFloat : Ty → Bool
  | .f32 | .f64 | .f16x2 | .bf16x2 | .f16 | .bf16 | .e4m3 | .e5m2 => true
  | _ => false

/-- Element codes 0 to 6 of loads and stores (R360). -/
def Elem.isPlain : Elem → Bool
  | .n8 | .i8 | .n16 | .i16 | .b32 | .b64 | .b128 => true
  | _ => false

/-- Element codes an atomic operation accepts (R374). -/
def AtomOp.elems : AtomOp → List Elem
  | .add | .min | .max => [.i32, .n32, .f32, .i64, .n64, .f64, .f16x2, .bf16x2]
  | _ => [.b32, .b64]

/-- The B field of an M instruction under its offset kind (R274): unused with kind 3. -/
def offOk (k : OffKind) (b : Nat) : Bool :=
  match k with
  | .vec => vecOk b
  | .sca => scalarOk b
  | .disp => b < 256
  | .non => b == 0

/-- Fields of an M instruction shared by loads, stores and atomics. -/
def MOp.base (o : MOp) (kinds : List OffKind) (guarded : Bool) : Bool :=
  o.g.ok && (guarded || o.g == ⟨false, 0⟩) && scalarOk o.a && kinds.contains o.kind && offOk o.kind o.b
    && lookOk o.la o.ctr

/-- Loads (R360): relaxed or acquire. -/
def MOp.okLoad (o : MOp) (kinds : List OffKind) (guarded scalarD : Bool) : Bool :=
  o.base kinds guarded && o.elem.isPlain && o.x == 0 && (o.order == .rlx || o.order == .acq)
    && (if scalarD then scalarOk o.d else vecOk o.d)

/-- Stores (R360): relaxed or release; not long-latency. -/
def MOp.okStore (o : MOp) (kinds : List OffKind) (guarded scalarD : Bool) : Bool :=
  o.base kinds guarded && o.elem.isPlain && o.x == 0 && (o.order == .rlx || o.order == .rel)
    && (if scalarD then scalarOk o.d else vecOk o.d) && o.la == 0

/-- Atomics (R372, R374): C bit 14 is the no-return mark, and then the lookahead is 0. -/
def MOp.okAtom (o : MOp) (op : AtomOp) (kinds : List OffKind) (guarded scalarD : Bool) : Bool :=
  o.base kinds guarded && (AtomOp.elems op).contains o.elem && o.x < 2 && (o.x == 0 || o.la == 0)
    && (if scalarD then scalarOk o.d else vecOk o.d)

/-- The four offset kinds. -/
def allKinds : List OffKind := [.vec, .sca, .disp, .non]
/-- The scalar offset kinds. -/
def scaKinds : List OffKind := [.sca, .disp, .non]

/-- `pref` and cache operations (R360). -/
def LineOp.ok (o : LineOp) (level : Bool) : Bool :=
  o.g.ok && scalarOk o.a && offOk o.kind o.b && (if level then o.d < 2 else o.d == 0)

/-- Work-queue instructions (R387). -/
def WqOp.ok (o : WqOp) : Bool :=
  scalarOk o.d && scalarOk o.a && scalarOk o.q && scaKinds.contains o.kind && offOk o.kind o.b
    && (o.space == .glob || o.space == .team)

/-- `evwait` (R360, R387). -/
def EvOp.ok (o : EvOp) : Bool :=
  scalarOk o.d && scalarOk o.a && scalarOk o.t && scaKinds.contains o.kind && offOk o.kind o.b
    && (o.elem == .b32 || o.elem == .b64) && o.space != .reg && (o.order == .rlx || o.order == .acq)

/-- The optional completion counter of an engine command (R392). -/
def cntOk : Option Nat → Bool
  | none => true
  | some k => scalarOk k

/-- Engine commands (R392): whether A, B and C are shape fields or scalar fields is given by the row. -/
def CmdOp.ok (o : CmdOp) (shapeA shapeB : Bool) : Bool :=
  o.g.ok && scalarOk o.d && scalarOk o.c && o.queue < 16 && cntOk o.cnt
    && (if shapeA then o.a < 16 else scalarOk o.a) && (if shapeB then o.b < 16 else scalarOk o.b)

/-- A space field that takes spaces 0 to 2 (R393). -/
def spaceOk3 (s : Space) : Bool := s != .reg

/-- The number ranges of R2. -/
def coreOk (g : Nat) : Bool := g < 256
/-- A slot of a core (R2). -/
def slotOk (q : Nat) : Bool := q < 32
/-- A compute die or the control die (R2). -/
def dieOk (d : Nat) : Bool := d < 9
/-- A cluster of the package: die x 8 + cluster. -/
def cluOk (c : Nat) : Bool := c < 64
/-- A line of the 52-bit physical space. -/
def lineOk (l : Nat) : Bool := l < 2 ^ 45
/-- A command queue (R447). -/
def queueOk (q : Nat) : Bool := q < 128
/-- A peer slot (R36). -/
def peerSlotOk (i : Nat) : Bool := i < 4096

/-- Well-formed instructions and steps. -/
def wellFormed : Instr → Bool
  | .nop => true
  | .sadd o | .ssub o | .smul o => o.ok tyInt true false
  | .smulh o | .smin o | .smax o | .sdiv o | .srem o => o.ok tySign true false
  | .sand o | .sor o | .sxor o | .sshl o | .sshr o | .ssar o | .srot o => o.ok tyRaw true false
  | .sclz o | .spop o | .sbrev o | .smov o => o.ok tyRaw false false
  | .sbfx o => o.ok tySign true false
  | .sbfi o | .ssel o => o.ok tyRaw true true
  | .scmp c o => o.ok tyInt true false && c != .ord && c != .un
      && (!(o.ty == .b32 || o.ty == .b64) || c == .eq || c == .ne)
  | .sli o | .slhi o => o.ok && o.a == 0
  | .saddImm o | .smulImm o | .sminI32Imm o | .smaxI32Imm o | .sminN32Imm o | .smaxN32Imm o
  | .sandImm o | .sorImm o | .sxorImm o => o.ok
  | .sshlImm o | .sshrImm o | .ssarImm o | .srotImm o => o.okShift
  | .scmpImm c _ o => o.ok && c != .ord && c != .un
  | .bra off => off < 2 ^ 24
  | .bz d off | .bnz d off => scalarOk d && off < 2 ^ 24
  | .call off k => off < 2 ^ 24 && 1 ≤ k && k ≤ 32
  | .vbr _ p off => predOk p && off < 2 ^ 24
  | .brx a => scalarOk a
  | .callx a k => scalarOk a && 1 ≤ k && k ≤ 32
  | .ret | .vjoin | .exit | .yield | .unfold => true
  | .dwait k => k < 6
  | .rinfo d => scalarOk d
  | .part n code => 1 ≤ n && n < 8 && 1 ≤ code && code < 4
  | .spawn g d a n => g.ok && vecOk d && scalarOk a && n ≤ 8 && (n != 0 || d == 0)
  | .fold d n h p => vecOk d && n < 256 && h < 2 ^ 16 && p < 2 ^ 24
  | .vadd o | .vsub o | .vmul o => o.ok tyVAdd true false false
  | .vsadd o | .vssub o | .vabsd o => o.ok tyVSat true false false
  | .vmin o | .vmax o => o.ok tyVMin true false false
  | .vabs o | .vneg o => o.ok tyVAbs false false false
  | .vmulh o => o.ok tySign true false false
  | .vmad o => o.ok tyInt true true false
  | .vand o | .vor o | .vxor o | .vandn o | .vshl o | .vshr o | .vsar o | .vrot o
  | .vpdep o | .vpext o => o.ok tyRaw true false false
  | .vlop3 o | .vbfi o => o.ok tyRaw true true false
  | .vclz o | .vctz o | .vpop o | .vbrev o => o.ok tyRaw false false false
  | .vbfx o => o.ok tySign true false false
  | .vbperm o | .vgfmat o => o.ok [.b64] true false false
  | .vaddImm o | .vsubImm o | .vmulImm o => o.ok tyVAdd false
  | .vsaddImm o | .vssubImm o | .vabsdImm o => o.ok tyVSat false
  | .vminImm o | .vmaxImm o => o.ok tyVMin false
  | .vandImm o | .vorImm o | .vxorImm o | .vandnImm o
  | .vshlImm o | .vshrImm o | .vsarImm o | .vrotImm o => o.ok tyRaw false
  | .vfaddImm o | .vfmulImm o => o.ok tyFp true
  | .vfminImm o | .vfmaxImm o => o.ok tyFp false
  | .vmovImm o => o.ok tyImm false && o.a == 0
  | .vfadd o | .vfmul o | .vfdiv o | .vfscale o => o.ok tyFp true false true
  | .vfma o => o.ok tyFp true true true
  | .vfmin o | .vfmax o => o.ok tyFp true false false
  | .vfclass o => o.ok tyFp false false false
  | .vfrnd o | .vfrcp o | .vfrsq o | .vfsqrt o => o.ok tyFp false false true
  | .vfexp2 o | .vflog2 o | .vfsinp o | .vfcosp o => o.ok tyFpNo64 false false true
  | .vicmp o => o.g.ok && tyInt.contains o.ty && predOk o.d && predOk o.c && vecOk o.a && vecOk o.b
      && o.cond != .ord && o.cond != .un && (!(o.ty == .b32 || o.ty == .b64) || o.cond == .eq || o.cond == .ne)
  | .vfcmp o => o.g.ok && [Ty.f32, .f64, .f16, .bf16].contains o.ty && predOk o.d && predOk o.c
      && vecOk o.a && vecOk o.b
  | .vpand o | .vpor o | .vpxor o => o.ok true
  | .vpnot o | .vpmov o => o.ok false
  | .vsetp o => o.g.ok && predOk o.d && vecOk o.a && o.b == 0
  | .vcvt o => o.ok false && tyCvt.contains o.dst && tyCvt.contains o.src && o.dst != o.src
      && (!o.nanov || o.dst == .e4m3 || o.dst == .e5m2)
  | .vpack o => o.ok true && packPairs.contains (o.dst, o.src) && !o.nanov
  | .vunpack o => o.ok true && unpackPairs.contains (o.dst, o.src) && !o.nanov
  | .vmov o => o.ok tyRaw false false false
  | .vsel o => o.g.ok && tyRaw.contains o.ty && vecOk o.d && vecOk o.a
      && (if o.bk then scalarOk o.b else vecOk o.b) && predOk o.c && !o.ck && o.mode == .rn
  | .vbcast o => o.ok tyRaw false false false && scalarOk o.a
  | .vidx o => o.ok tyRaw false false false && o.a < 3
  | .vshfl o => o.ok tyRaw true && vecOk o.d && vecOk o.a
  | .vbal o | .vcnt o => o.ok [.b32] false && scalarOk o.d && predOk o.a && o.grp == 0
  | .vany o | .vall o => o.ok [.b32] false && predOk o.d && predOk o.a
  | .vmatch o => o.ok [.b32, .f32, .b64] false && vecOk o.d && vecOk o.a
  | .vred o => o.g.ok && o.op.tys.contains o.ty && vecOk o.d && vecOk o.a && o.grp < 8
      && (o.mode == .rn || (o.op == .add && o.ty.isFloat))
  | .vld o => o.okLoad [.vec] true false
  | .vldu o => o.okLoad scaKinds true false
  | .vgath o => o.okLoad [.vec] true false
  | .vgathMt o => MOp.okLoad { o with x := 0 } [.vec] true false && o.space == .glob && 1 ≤ o.x && o.x < 24
  | .vst o | .vscat o => o.okStore [.vec] true false
  | .sld o => o.okLoad scaKinds false true
  | .sst o => o.okStore scaKinds false true
  | .pref o => o.ok true
  | .vatomAdd o => o.okAtom .add allKinds true false
  | .vatomMin o => o.okAtom .min allKinds true false
  | .vatomMax o => o.okAtom .max allKinds true false
  | .vatomAnd o => o.okAtom .and allKinds true false
  | .vatomOr o => o.okAtom .or allKinds true false
  | .vatomXor o => o.okAtom .xor allKinds true false
  | .vatomExch o => o.okAtom .exch allKinds true false
  | .vatomCas o => o.okAtom .cas allKinds true false
  | .satomAdd o => o.okAtom .add scaKinds false true
  | .satomMin o => o.okAtom .min scaKinds false true
  | .satomMax o => o.okAtom .max scaKinds false true
  | .satomAnd o => o.okAtom .and scaKinds false true
  | .satomOr o => o.okAtom .or scaKinds false true
  | .satomXor o => o.okAtom .xor scaKinds false true
  | .satomExch o => o.okAtom .exch scaKinds false true
  | .satomCas o => o.okAtom .cas scaKinds false true
  | .fence ord _ => ord != .rlx
  | .fencex => true
  | .bari a b | .barw a b => scalarOk a && b < 16
  | .bara d b | .barx d b => scalarOk d && b < 16
  | .bclose d => scalarOk d
  | .bwait a => scalarOk a
  | .cflush o | .cinv o | .cclean o => o.ok false
  | .wqpop o | .wqpush o => o.ok
  | .evwait o => o.ok
  | .macq g acc cols => g.ok && acc < 8 && cols < 8
  | .mrel g acc | .mrelF g acc | .mzero g acc => g.ok && acc < 8
  | .mmul g acc a b c e f _ => g.ok && acc < 8 && scalarOk a && scalarOk b && vecOk c && vecOk e && f < 16
  | .mrd g la ctr d acc b n => g.ok && lookOk la ctr && vecOk d && acc < 8 && scalarOk b && n < 4
  | .mwr g acc a b n => g.ok && acc < 8 && vecOk a && scalarOk b && n < 4
  | .mld g la ctr acc a b sp _ => g.ok && lookOk la ctr && acc < 8 && scalarOk a && scalarOk b && spaceOk3 sp
  | .mst g acc a b sp _ => g.ok && acc < 8 && scalarOk a && scalarOk b && spaceOk3 sp
  | .hld la ctr d a sp => lookOk la ctr && d < 16 && scalarOk a && spaceOk3 sp
  | .hst d a sp => d < 16 && scalarOk a && spaceOk3 sp
  | .hset d a k => d < 16 && scalarOk a && k < 8
  | .hget d a k => scalarOk d && a < 16 && k < 8
  | .cpyt o => o.ok true true
  | .cpyl o sp dp => o.ok false false && spaceOk3 sp && spaceOk3 dp
  | .gath o => o.ok true true
  | .coll o => o.ok true false
  | .qfence q m => q < 16 && 1 ≤ m && m < 2 ^ 16
  | .fwait a | .fcancel a => scalarOk a
  | .ftest d a => scalarOk d && scalarOk a && d != a
  | .glaunch g d a => g.ok && scalarOk d && scalarOk a
  | .gcancel g a | .gwait g a => g.ok && scalarOk a
  | .gwaitAll g => g.ok
  | .trap n => n < 64
  | .tret | .tesc | .halt => true
  | .sget d num => scalarOk d && num < 256
  | .sset a num => scalarOk a && num < 256
  | .tlbinv d a b c | .own d a b c => scalarOk d && scalarOk a && scalarOk b && scalarOk c
  -- steps of the other units: the ranges of R2
  | .issueCycle g | .piecePlace g | .compaction g | .releaseComplete g | .tasterCheck g | .epochClose g
  | .barrierArrivalCount g | .coreHalted g | .contextSave g | .pcSample g | .traceLoss g
  | .injectedDelayExpiry g => coreOk g
  | .longLatencyComplete g q _ | .swap g q | .watchdogExpiry g q | .barwPieceHandoff g q
  | .foldHoldExpiry g q | .registerSpaceAnswer g q | .storageCompletion g q _
  | .evwaitTimeout g q | .engineFaultDelivery g q | .trapEntry g q | .deferredTrap g q
  | .dispositionResume g q | .dispositionEnd g q | .dispositionCancel g q | .singleStep g q
  | .haltResume g q | .haltEnd g q | .evwaitReread g q => coreOk g && slotOk q
  | .peerReply u q _ => u < 416 && q < 65536
  | .foldMerge g q r => coreOk g && slotOk q && slotOk r
  | .breakpointHit g q j => coreOk g && slotOk q && j < 4
  | .binTimerExpiry g b => coreOk g && b < 16
  | .futureComplete _ st => st < 2 ^ 32
  | .capacityReport _ _ _ | .dealRound _ _ | .launchRecordCheck _ | .completionReport _ _ _ _ _ | .gridComplete _
  | .gridCancel _ => true
  | .rangeReceipt g _ lo hi => coreOk g && lo < hi && hi ≤ 2 ^ 48
  | .podLaunchAck p _ | .podAckTimeout p _ | .rootFailover p | .reDeal _ p | .packageLoss p
  | .heartbeatMiss p => p < 2048
  | .teamRetire g _ t => coreOk g && t < 2 ^ 48
  | .walk g asid va | .dirtyBitWalk g asid va => coreOk g && asid < 2 ^ 16 && va < 2 ^ 56
  | .invalidationComplete _ | .invalWalkRestart _ | .flipComplete _ => true
  | .rds _ l | .rdx _ l | .upg _ l | .wbd _ l | .evc _ l | .engineRead _ l | .recall l | .forwardReceipt _ l
  | .grantReceipt _ l | .directoryEviction l | .filterEviction l | .snpInv l | .snpData l | .snpCur l
  | .cxlHostResponse l _ | .memoryControllerAcceptance l _ => lineOk l
  | .homeAtomic r => r.pa < 2 ^ 52 && (AtomOp.elems r.op).contains r.elem
  | .uncachedAccess r | .hostAccess r => r.pa < 2 ^ 52 && r.size ≤ 128
  | .inboundRequest p _ _ _ _ => p < 2
  | .peerAccess r => r.src < 2048 && r.exportIdx < 2 ^ 16
  | .epochCompare g d | .epochTimeout g d => coreOk g && dieOk d
  | .flitReceipt p f => p < 64 && f.seq < 4096
  | .retryRequest p n => p < 64 && n < 4096
  | .uncorrectableFlit _ _ _ _ typ lines => typ < 15 && lines.all lineOk
  | .linkDown a b => dieOk a && dieOk b
  | .commandStart _ | .commandComplete _ => true
  | .passFormation c | .bFetchComplete c | .passLeavesArray c | .clusterGate c | .clusterWake c => cluOk c
  | .aStagingComplete c _ => cluOk c
  | .preemptionRequest b dies => b % 2 ^ 30 == 0 && dies < 256
  | .contextRestore a b => coreOk a && coreOk b
  | .scrubStart _ | .scrubPerform | .quarantineClear => true
  | .packageColdReset | .packageWarmReset | .firmwareRestart | .thermalLimit | .thermalClearTimeout => true
  | .computeDieReset d | .dieGate d | .dieWake d => d < 8
  | .bringup st _ => 1 ≤ st && st ≤ 4
  | .dieBringup d st _ => d < 8 && 1 ≤ st && st ≤ 11
  | .clockChange m => m == 1000 || m == 1400
  | .launchWindowSeal sl off bs => sl < 64 && off + bs.length ≤ 128
  | .windowRecordAccept sl => sl < 64
  | .submit p v => p < 2 && v < 2 ^ 64
  | .instatClear p | .doorbellAccept p => p < 2
  | .semRead p k => p < 2 && k < 16
  | .semWrite p k _ => p < 2 && k < 16
  | .cancelPacket q | .ownPacket q | .invalPacket q | .waitPacket q | .signalPacket q | .fencePacket q
  | .copyPacket q | .feedPacket q | .launchPacket q | .predPacket q => queueOk q
  | .packetComplete _ | .journalAccept _ => true
  | .queueRingFault q va => queueOk q && va < 2 ^ 64
  | .eventWrite e v => e < 4096 && v < 2 ^ 64
  | .queueDescriptorWrite q off _ _ => queueOk q && off < 32
  | .workQueueDescriptorWrite w off _ _ => w < 256 && off < 32
  | .streamWrite k _ data => k < 256 ∧ data.port < 4
  | .streamResync k _ | .streamGapTimeout k => k < 256
  | .handleInstall i _ | .installReply i _ | .handleUninstall i | .slotDrained i => peerSlotOk i
  | .mapEpochInstall e es => e < 2 ^ 32 && es.all (fun x => x.pkg < 2048 && x.state < 4 && x.replaced < 2048)
  | .tbaseWrite g _ => coreOk g
  | .estatResume e => e < 72
  | .eictlWrite d _ => d < 8
  | .prefetchCounterClear g k => coreOk g && k < 4
  | .ckstatClear c => c < 2 ^ 16
  | .unclmClear d | .unclaimedAccess d _ => dieOk d
  | .registerWrite off sz _ => off < 2 ^ 36 && (sz == 4 || sz == 8)
  | .deadlockScan | .workQueueUnitArrival => true
  | .ownerInstallCheck src h _ => src < 2048 && h < 2 ^ 64
  | .hostDecoderChange ds => ds.all (fun d => d.port < 4)
  | .storageLinkChange p _ rate width => p < 2 && rate < 8 && width < 16
  | .signedImageUpload _ => true

end Sys2Proof
end

