-- ==== Sys2Proof/Decode.lean ====
section
/-! DEFINITION. The decoder of instruction words (spec 11_encoding_assembly.md R269-R292) and, after it, the
encoder. Decoding is total: a word that stands for no instruction is rejected by name, which at issue is the
illegal-encoding trap of R282. Failure 6 (privilege) and failure 7 (registers) of R282 depend on the holder and are
checked at issue. -/

namespace Sys2Proof

open Sys2Proof.Machine (field leValue leBytes)

/-- Why a word stands for no instruction: the failures 1 to 5 of R282. -/
inductive Reject where
  | unassignedMajor | unassignedMinor | guardField | lookaheadField | reservedField | illegalField | tailField
  deriving DecidableEq, Repr

/-! ### Codes -/

/-- Type codes, R272. -/
def Ty.code : Ty → Nat
  | .b32 => 0 | .i32 => 1 | .n32 => 2 | .f32 => 3 | .b64 => 4 | .i64 => 5 | .n64 => 6 | .f64 => 7
  | .f16x2 => 8 | .bf16x2 => 9 | .i16x2 => 10 | .i8x4 => 11 | .b8 => 12 | .i8 => 13 | .n8 => 14 | .e4m3 => 15
  | .b16 => 16 | .i16 => 17 | .n16 => 18 | .f16 => 19 | .bf16 => 20 | .e5m2 => 21 | .b128 => 22

/-- The type of a code; 23 to 31 are illegal (R272). -/
def Ty.ofCode : Nat → Option Ty
  | 0 => some .b32 | 1 => some .i32 | 2 => some .n32 | 3 => some .f32
  | 4 => some .b64 | 5 => some .i64 | 6 => some .n64 | 7 => some .f64
  | 8 => some .f16x2 | 9 => some .bf16x2 | 10 => some .i16x2 | 11 => some .i8x4
  | 12 => some .b8 | 13 => some .i8 | 14 => some .n8 | 15 => some .e4m3
  | 16 => some .b16 | 17 => some .i16 | 18 => some .n16 | 19 => some .f16
  | 20 => some .bf16 | 21 => some .e5m2 | 22 => some .b128 | _ => none

/-- Rounding-mode codes, R252. -/
def RMode.code : RMode → Nat
  | .rn => 0 | .rz => 1 | .ru => 2 | .rd => 3

/-- The mode of a 2-bit code. -/
def RMode.ofCode : Nat → RMode
  | 1 => .rz | 2 => .ru | 3 => .rd | _ => .rn

/-- Condition codes, R281. -/
def Cond.code : Cond → Nat
  | .eq => 0 | .ne => 1 | .lt => 2 | .le => 3 | .gt => 4 | .ge => 5 | .ord => 6 | .un => 7

/-- The condition of a code; 8 to 15 are illegal (R281). -/
def Cond.ofCode : Nat → Option Cond
  | 0 => some .eq | 1 => some .ne | 2 => some .lt | 3 => some .le | 4 => some .gt | 5 => some .ge
  | 6 => some .ord | 7 => some .un | _ => none

/-- Space codes, R40. -/
def Space.code : Space → Nat
  | .glob => 0 | .team => 1 | .clu => 2 | .reg => 3

/-- The space of a code; 4 to 7 are illegal (R40). -/
def Space.ofCode : Nat → Option Space
  | 0 => some .glob | 1 => some .team | 2 => some .clu | 3 => some .reg | _ => none

/-- Scope codes, R105. -/
def Scope.code : Scope → Nat
  | .grp => 0 | .team => 1 | .clu => 2 | .die => 3 | .dev => 4 | .sys => 5 | .pod => 6

/-- The scope of a code; 7 is illegal (R105). -/
def Scope.ofCode : Nat → Option Scope
  | 0 => some .grp | 1 => some .team | 2 => some .clu | 3 => some .die | 4 => some .dev | 5 => some .sys
  | 6 => some .pod | _ => none

/-- Order codes, R108. -/
def Order.code : Order → Nat
  | .rlx => 0 | .acq => 1 | .rel => 2 | .ar => 3

/-- The order of a 2-bit code. -/
def Order.ofCode : Nat → Order
  | 1 => .acq | 2 => .rel | 3 => .ar | _ => .rlx

/-- Element codes, R275. -/
def Elem.code : Elem → Nat
  | .n8 => 0 | .i8 => 1 | .n16 => 2 | .i16 => 3 | .b32 => 4 | .b64 => 5 | .b128 => 6 | .i32 => 7 | .n32 => 8
  | .f32 => 9 | .i64 => 10 | .n64 => 11 | .f64 => 12 | .f16x2 => 13 | .bf16x2 => 14

/-- The element of a code; 15 is illegal (R275). -/
def Elem.ofCode : Nat → Option Elem
  | 0 => some .n8 | 1 => some .i8 | 2 => some .n16 | 3 => some .i16 | 4 => some .b32 | 5 => some .b64
  | 6 => some .b128 | 7 => some .i32 | 8 => some .n32 | 9 => some .f32 | 10 => some .i64 | 11 => some .n64
  | 12 => some .f64 | 13 => some .f16x2 | 14 => some .bf16x2 | _ => none

/-- Offset-kind codes, R274. -/
def OffKind.code : OffKind → Nat
  | .vec => 0 | .sca => 1 | .disp => 2 | .non => 3

/-- The offset kind of a 2-bit code. -/
def OffKind.ofCode : Nat → OffKind
  | 1 => .sca | 2 => .disp | 3 => .non | _ => .vec

/-- `vred` operation codes, R292. -/
def RedOp.code : RedOp → Nat
  | .add => 0 | .min => 1 | .max => 2 | .and => 3 | .or => 4 | .xor => 5

/-- The operation of a code; 6 and 7 are illegal (R292). -/
def RedOp.ofCode : Nat → Option RedOp
  | 0 => some .add | 1 => some .min | 2 => some .max | 3 => some .and | 4 => some .or | 5 => some .xor | _ => none

/-! ### The common fields -/

/-- The fields every instruction word has (R271). -/
structure RawWord where
  major : Nat
  neg : Nat
  pred : Nat
  la : Nat
  d : Nat
  a : Nat
  b : Nat
  c : Nat
  fn : Nat
  deriving DecidableEq, Repr

/-- The fields of a word, R271. -/
def RawWord.ofNat (w : Nat) : RawWord :=
  { major := field w 56 8, neg := field w 55 1, pred := field w 50 5, la := field w 46 4,
    d := field w 38 8, a := field w 30 8, b := field w 22 8, c := field w 14 8, fn := field w 0 14 }

/-- The word of the fields, R271. -/
def RawWord.toNat (r : RawWord) : Nat :=
  r.major * 2 ^ 56 + r.neg * 2 ^ 55 + r.pred * 2 ^ 50 + r.la * 2 ^ 46 + r.d * 2 ^ 38 + r.a * 2 ^ 30
    + r.b * 2 ^ 22 + r.c * 2 ^ 14 + r.fn

/-- The guard of a word. -/
def RawWord.guard (r : RawWord) : Guard := ⟨r.neg == 1, r.pred⟩

/-- The guard field is zero, as an instruction without a guard requires (R283). -/
def RawWord.noGuard (r : RawWord) : Bool := r.neg == 0 && r.pred == 0

/-- The branch offset, bits 37:14 (R273, R280). -/
def RawWord.offset (r : RawWord) : Nat := r.a * 2 ^ 16 + r.b * 2 ^ 8 + r.c

/-- The 24-bit immediate of the SI format, word bits 29:6 (R273). -/
def RawWord.imm24 (r : RawWord) : Nat := r.b * 2 ^ 16 + r.c * 2 ^ 8 + field r.fn 6 8

/-- imm16 of the VI format, bits 29:14 (R278). -/
def RawWord.imm16 (r : RawWord) : Nat := r.b * 2 ^ 8 + r.c

/-- Function bits 13:9, the minor of V3, VI and S (R274). -/
def RawWord.minor (r : RawWord) : Nat := field r.fn 9 5
/-- Function bits 8:4, the type code (R274). -/
def RawWord.tyCode (r : RawWord) : Nat := field r.fn 4 5

/-! ### Which majors stand for what (R288-R291) -/

/-- S majors with register operands (R288, R304). -/
def sRow (major minor : Nat) : Option (SOp → Instr) :=
  match major, minor with
  | 0x02, 0 => some .sadd
  | 0x02, 1 => some .ssub
  | 0x02, 2 => some .smul
  | 0x02, 3 => some .smulh
  | 0x02, 4 => some .smin
  | 0x02, 5 => some .smax
  | 0x03, 0 => some .sdiv
  | 0x03, 1 => some .srem
  | 0x04, 0 => some .sand
  | 0x04, 1 => some .sor
  | 0x04, 2 => some .sxor
  | 0x05, 0 => some .sshl
  | 0x05, 1 => some .sshr
  | 0x05, 2 => some .ssar
  | 0x05, 3 => some .srot
  | 0x06, 0 => some .sclz
  | 0x06, 1 => some .spop
  | 0x06, 2 => some .sbrev
  | 0x06, 3 => some .sbfx
  | 0x06, 4 => some .sbfi
  | 0x07, 0 => some .smov
  | 0x07, 1 => some .ssel
  | _, _ => none

/-- SI majors but `scmp` (R288, R308). -/
def siRow (major minor : Nat) : Option (SIOp → Instr) :=
  match major, minor with
  | 0x10, 0 => some .sli
  | 0x10, 1 => some .slhi
  | 0x11, 0 => some .saddImm
  | 0x11, 1 => some .smulImm
  | 0x11, 2 => some .sminI32Imm
  | 0x11, 3 => some .smaxI32Imm
  | 0x11, 4 => some .sminN32Imm
  | 0x11, 5 => some .smaxN32Imm
  | 0x12, 0 => some .sandImm
  | 0x12, 1 => some .sorImm
  | 0x12, 2 => some .sxorImm
  | 0x13, 0 => some .sshlImm
  | 0x13, 1 => some .sshrImm
  | 0x13, 2 => some .ssarImm
  | 0x13, 3 => some .srotImm
  | _, _ => none

/-- V3 majors with the default fields (R289). -/
def v3Row (major minor : Nat) : Option (V3Op → Instr) :=
  match major, minor with
  | 0x40, 0 => some .vadd
  | 0x40, 1 => some .vsub
  | 0x40, 2 => some .vsadd
  | 0x40, 3 => some .vssub
  | 0x40, 4 => some .vabsd
  | 0x40, 5 => some .vmin
  | 0x40, 6 => some .vmax
  | 0x40, 7 => some .vabs
  | 0x40, 8 => some .vneg
  | 0x41, 0 => some .vmul
  | 0x41, 1 => some .vmulh
  | 0x41, 2 => some .vmad
  | 0x42, 0 => some .vand
  | 0x42, 1 => some .vor
  | 0x42, 2 => some .vxor
  | 0x42, 3 => some .vandn
  | 0x42, 4 => some .vlop3
  | 0x43, 0 => some .vshl
  | 0x43, 1 => some .vshr
  | 0x43, 2 => some .vsar
  | 0x43, 3 => some .vrot
  | 0x44, 0 => some .vclz
  | 0x44, 1 => some .vctz
  | 0x44, 2 => some .vpop
  | 0x44, 3 => some .vbrev
  | 0x44, 4 => some .vbfx
  | 0x44, 5 => some .vbfi
  | 0x45, 0 => some .vpdep
  | 0x45, 1 => some .vpext
  | 0x45, 2 => some .vbperm
  | 0x45, 3 => some .vgfmat
  | 0x48, 0 => some .vfadd
  | 0x48, 1 => some .vfmul
  | 0x48, 2 => some .vfma
  | 0x48, 3 => some .vfmin
  | 0x48, 4 => some .vfmax
  | 0x48, 5 => some .vfclass
  | 0x48, 6 => some .vfrnd
  | 0x48, 7 => some .vfscale
  | 0x49, 0 => some .vfrcp
  | 0x49, 1 => some .vfrsq
  | 0x49, 2 => some .vfsqrt
  | 0x49, 3 => some .vfdiv
  | 0x49, 4 => some .vfexp2
  | 0x49, 5 => some .vflog2
  | 0x49, 6 => some .vfsinp
  | 0x49, 7 => some .vfcosp
  | 0x54, 0 => some .vmov
  | 0x54, 1 => some .vsel
  | 0x54, 2 => some .vbcast
  | 0x54, 3 => some .vidx
  | _, _ => none

/-- Predicate instructions (R289, R348). -/
def predRow (major minor : Nat) : Option (PredOp → Instr) :=
  match major, minor with
  | 0x4D, 0 => some .vpand
  | 0x4D, 1 => some .vpor
  | 0x4D, 2 => some .vpxor
  | 0x4D, 3 => some .vpnot
  | 0x4D, 4 => some .vpmov
  | 0x4D, 5 => some .vsetp
  | _, _ => none

/-- Conversions (R289, R349-R351). -/
def cvtRow (major minor : Nat) : Option (CvtOp → Instr) :=
  match major, minor with
  | 0x50, 0 => some .vcvt
  | 0x50, 1 => some .vpack
  | 0x50, 2 => some .vunpack
  | _, _ => none

/-- Cross-lane instructions but `vred` (R289, R354). -/
def xlaneRow (major minor : Nat) : Option (XLaneOp → Instr) :=
  match major, minor with
  | 0x58, 0 => some .vshfl
  | 0x58, 1 => some .vbal
  | 0x58, 2 => some .vany
  | 0x58, 3 => some .vall
  | 0x58, 4 => some .vcnt
  | 0x58, 5 => some .vmatch
  | _, _ => none

/-- VI majors with an immediate second source (R289, R341). -/
def viRow (major minor : Nat) : Option (VIOp → Instr) :=
  match major, minor with
  | 0x60, 0 => some .vaddImm
  | 0x60, 1 => some .vsubImm
  | 0x60, 2 => some .vsaddImm
  | 0x60, 3 => some .vssubImm
  | 0x60, 4 => some .vabsdImm
  | 0x60, 5 => some .vminImm
  | 0x60, 6 => some .vmaxImm
  | 0x61, 0 => some .vmulImm
  | 0x62, 0 => some .vandImm
  | 0x62, 1 => some .vorImm
  | 0x62, 2 => some .vxorImm
  | 0x62, 3 => some .vandnImm
  | 0x63, 0 => some .vshlImm
  | 0x63, 1 => some .vshrImm
  | 0x63, 2 => some .vsarImm
  | 0x63, 3 => some .vrotImm
  | 0x68, 0 => some .vfaddImm
  | 0x68, 1 => some .vfmulImm
  | 0x68, 3 => some .vfminImm
  | 0x68, 4 => some .vfmaxImm
  | 0x74, 0 => some .vmovImm
  | _, _ => none

/-- Loads, stores and atomics (R290). -/
def mRow (major : Nat) : Option (MOp → Instr) :=
  match major with
  | 0xA0 => some .vld
  | 0xA1 => some .vldu
  | 0xA2 => some .vgath
  | 0xA3 => some .vgathMt
  | 0xA4 => some .vst
  | 0xA5 => some .vscat
  | 0xA6 => some .sld
  | 0xA7 => some .sst
  | 0xA9 => some .vatomAdd
  | 0xB1 => some .satomAdd
  | 0xAA => some .vatomMin
  | 0xB2 => some .satomMin
  | 0xAB => some .vatomMax
  | 0xB3 => some .satomMax
  | 0xAC => some .vatomAnd
  | 0xB4 => some .satomAnd
  | 0xAD => some .vatomOr
  | 0xB5 => some .satomOr
  | 0xAE => some .vatomXor
  | 0xB6 => some .satomXor
  | 0xAF => some .vatomExch
  | 0xB7 => some .satomExch
  | 0xB0 => some .vatomCas
  | 0xB8 => some .satomCas
  | _ => none
/-- Whether a head word is followed by a tail word (R269, R274, R277, R292): every X instruction, and a VI
instruction whose Tail bit is 1. -/
def hasTail (w : Nat) : Bool :=
  let r := RawWord.ofNat w
  if 0xD0 ≤ r.major ∧ r.major ≤ 0xE6 then true
  else if r.major = 0x25 ∨ r.major = 0x26 ∨ (0x60 ≤ r.major ∧ r.major ≤ 0x63) ∨ r.major = 0x68 ∨ r.major = 0x74 then
    field r.fn 3 1 == 1
  else false

/-- A decoded term, or a rejection. -/
abbrev Decoded := Except Reject Instr

/-- The fields that must be zero, and then the term. -/
def ifZero (zs : List Nat) (i : Instr) : Decoded :=
  if zs.all (· == 0) then .ok i else .error .reservedField

/-- A term that depends on a legal code. -/
def withCode {α : Type} (x : Option α) (f : α → Decoded) : Decoded :=
  match x with
  | some v => f v
  | none => .error .illegalField

/-- S format (R273, R274): the type code, and the operand record. -/
def decodeS (r : RawWord) (f : SOp → Decoded) : Decoded :=
  withCode (Ty.ofCode r.tyCode) fun t => f ⟨t, r.d, r.a, r.b, r.c⟩

/-- V3 format (R273, R274). -/
def decodeV3 (r : RawWord) (f : V3Op → Decoded) : Decoded :=
  withCode (Ty.ofCode r.tyCode) fun t =>
    f ⟨r.guard, r.d, r.a, r.b, r.c, t, field r.fn 3 1 == 1, field r.fn 2 1 == 1, RMode.ofCode (field r.fn 0 2)⟩

/-- VI format (R273, R274, R278): with Tail 1 the immediate is the tail word's bits 31:0. -/
def decodeVI (r : RawWord) (tail : Nat) (f : VIOp → Decoded) : Decoded :=
  withCode (Ty.ofCode r.tyCode) fun t =>
    if field r.fn 2 1 ≠ 0 then .error .reservedField
    else if field r.fn 3 1 = 1 then
      if r.imm16 ≠ 0 then .error .reservedField
      else if field tail 32 32 ≠ 0 then .error .tailField
      else f ⟨r.guard, r.d, r.a, .tail (field tail 0 32), t, RMode.ofCode (field r.fn 0 2)⟩
    else f ⟨r.guard, r.d, r.a, .short r.imm16, t, RMode.ofCode (field r.fn 0 2)⟩

/-- M format of loads, stores and atomics (R273-R276). -/
def decodeM (r : RawWord) (f : MOp → Decoded) : Decoded :=
  withCode (Elem.ofCode (field r.fn 10 4)) fun e =>
  withCode (Space.ofCode (field r.fn 7 3)) fun sp =>
  withCode (Scope.ofCode (field r.fn 4 3)) fun sc =>
    f ⟨r.guard, r.la, field r.c 5 3, field r.c 0 5, r.d, r.a, r.b, e, sp, sc, Order.ofCode (field r.fn 2 2),
       OffKind.ofCode (field r.fn 0 2)⟩

/-- The line operand of `pref` and the cache operations (R360): element, space, scope and order must be 0. -/
def decodeLine (r : RawWord) (f : LineOp → Instr) : Decoded :=
  ifZero [r.la, r.c, field r.fn 2 12] (f ⟨r.guard, r.d, r.a, r.b, OffKind.ofCode (field r.fn 0 2)⟩)

/-- Work-queue operands (R387): C bits 19:14 name the queue register. -/
def decodeWq (r : RawWord) (f : WqOp → Instr) : Decoded :=
  withCode (Space.ofCode (field r.fn 7 3)) fun sp =>
    ifZero [r.la, field r.c 6 2, field r.fn 10 4, field r.fn 2 5]
      (f ⟨r.d, r.a, r.b, field r.c 0 6, sp, OffKind.ofCode (field r.fn 0 2)⟩)

/-- The tail of an engine command (R392): queue in bits 7:4, counter enable in bit 8, its register in 14:9. -/
def decodeCmd (r : RawWord) (tail flags : Nat) (f : CmdOp → Instr) : Decoded :=
  ifZero [r.la, flags, field r.fn 8 6, field tail 0 4, field tail 15 49,
      if field tail 8 1 = 0 then field tail 9 6 else 0]
    (f ⟨r.guard, r.d, r.a, r.b, r.c, field tail 4 4, if field tail 8 1 = 1 then some (field tail 9 6) else none⟩)

/-- The matrix and async majors (R290, R392), all X format with minor 0. -/
def decodeX (r : RawWord) (t : Nat) : Decoded :=
  let g := r.guard
  let fl := field r.fn 0 8
  let mi := field r.fn 8 6
  match r.major with
  | 0xD0 => ifZero [mi, r.la, r.a, r.b, r.c, fl / 8, t] (.macq g r.d (fl % 8))
  | 0xD1 => ifZero [mi, r.la, r.a, r.b, r.c, fl / 2, t] (if fl % 2 = 1 then .mrelF g r.d else .mrel g r.d)
  | 0xD2 => ifZero [mi, r.la, r.a, r.b, r.c, fl, t] (.mzero g r.d)
  | 0xD3 => ifZero [mi, r.la, fl / 2, field t 0 8, field t 20 44]
      (.mmul g r.d r.a r.b r.c (field t 8 8) (field t 16 4) (fl % 2 == 1))
  | 0xD4 => ifZero [mi, r.c, fl / 4, field t 3 61] (.mrd g r.la (field t 0 3) r.d r.a r.b (fl % 4))
  | 0xD5 => ifZero [mi, r.la, r.c, fl / 4, t] (.mwr g r.d r.a r.b (fl % 4))
  | 0xD6 => withCode (Space.ofCode (field t 8 2)) fun sp => withCode (Scope.ofCode (field t 10 3)) fun sc =>
      ifZero [mi, r.c, fl, field t 3 5, field t 13 51] (.mld g r.la (field t 0 3) r.d r.a r.b sp sc)
  | 0xD7 => withCode (Space.ofCode (field t 8 2)) fun sp => withCode (Scope.ofCode (field t 10 3)) fun sc =>
      ifZero [mi, r.la, r.c, fl, field t 0 8, field t 13 51] (.mst g r.d r.a r.b sp sc)
  | 0xD8 => withCode (Space.ofCode (field t 8 2)) fun sp =>
      ifZero [mi, r.neg, r.pred, r.b, r.c, fl, field t 3 5, field t 10 54] (.hld r.la (field t 0 3) r.d r.a sp)
  | 0xD9 => withCode (Space.ofCode (field t 8 2)) fun sp =>
      ifZero [mi, r.neg, r.pred, r.la, r.b, r.c, fl, field t 0 8, field t 10 54] (.hst r.d r.a sp)
  | 0xDA => ifZero [mi, r.neg, r.pred, r.la, r.b, r.c, fl / 8, t] (.hset r.d r.a (fl % 8))
  | 0xDB => ifZero [mi, r.neg, r.pred, r.la, r.b, r.c, fl / 8, t] (.hget r.d r.a (fl % 8))
  | 0xDC => decodeCmd r t fl .cpyt
  | 0xDD => withCode (Space.ofCode (field fl 0 2)) fun sp => withCode (Space.ofCode (field fl 2 2)) fun dp =>
      decodeCmd r t (fl / 16) (fun o => .cpyl o sp dp)
  | 0xDE => decodeCmd r t fl .gath
  | 0xDF => decodeCmd r t fl .coll
  | 0xE0 => ifZero [mi, r.neg, r.pred, r.la, r.d, r.a, r.b, r.c, fl, field t 0 4, field t 24 40]
      (.qfence (field t 4 4) (field t 8 16))
  | 0xE1 => ifZero [mi, r.neg, r.pred, r.la, r.d, r.b, r.c, fl, t] (.fwait r.a)
  | 0xE2 => ifZero [mi, r.neg, r.pred, r.la, r.b, r.c, fl, t] (.ftest r.d r.a)
  | 0xE3 => ifZero [mi, r.neg, r.pred, r.la, r.d, r.b, r.c, fl, t] (.fcancel r.a)
  | 0xE4 => ifZero [mi, r.la, r.b, r.c, fl, t] (.glaunch g r.d r.a)
  | 0xE5 => ifZero [mi, r.la, r.d, r.b, r.c, fl, t] (.gcancel g r.a)
  | 0xE6 => if fl = 1 then ifZero [mi, r.la, r.d, r.a, r.b, r.c, t] (.gwaitAll g)
      else ifZero [mi, r.la, r.d, r.b, r.c, fl, t] (.gwait g r.a)
  | _ => .error .unassignedMajor

/-- Memory majors with fields of their own, 0xA8 and 0xB9 to 0xC6 (R290, R360, R387). -/
def decodeSync (r : RawWord) : Decoded :=
  match r.major with
  | 0xA8 => decodeLine r .pref
  | 0xB9 => withCode (Scope.ofCode (field r.fn 4 3)) fun sc =>
      ifZero [r.neg, r.pred, r.la, r.d, r.a, r.b, r.c, field r.fn 7 7, field r.fn 0 2]
        (.fence (Order.ofCode (field r.fn 2 2)) sc)
  | 0xBA => ifZero [r.neg, r.pred, r.la, r.d, r.a, r.b, r.c, r.fn] .fencex
  | 0xBB => ifZero [r.neg, r.pred, r.la, r.d, r.c, r.fn] (.bari r.a r.b)
  | 0xBC => ifZero [r.neg, r.pred, r.la, r.a, r.c, r.fn] (.bara r.d r.b)
  | 0xBD => ifZero [r.neg, r.pred, r.la, r.d, r.c, r.fn] (.barw r.a r.b)
  | 0xBE => ifZero [r.neg, r.pred, r.la, r.a, r.c, r.fn] (.barx r.d r.b)
  | 0xBF => ifZero [r.neg, r.pred, r.la, r.a, r.b, r.c, r.fn] (.bclose r.d)
  | 0xC0 => ifZero [r.neg, r.pred, r.la, r.d, r.b, r.c, r.fn] (.bwait r.a)
  | 0xC1 => decodeLine r .cflush
  | 0xC2 => decodeLine r .cinv
  | 0xC3 => decodeLine r .cclean
  | 0xC4 => if r.noGuard then decodeWq r .wqpop else .error .guardField
  | 0xC5 => if r.noGuard then decodeWq r .wqpush else .error .guardField
  | 0xC6 => withCode (Elem.ofCode (field r.fn 10 4)) fun e => withCode (Space.ofCode (field r.fn 7 3)) fun sp =>
      withCode (Scope.ofCode (field r.fn 4 3)) fun sc =>
      ifZero [r.neg, r.pred, r.la, field r.c 6 2]
        (.evwait ⟨r.d, r.a, r.b, field r.c 0 6, e, sp, sc, Order.ofCode (field r.fn 2 2),
          OffKind.ofCode (field r.fn 0 2)⟩)
  | _ => .error .unassignedMajor

/-- Control, range and system majors (R288, R291, R292, R309-R331). -/
def decodeCtl (r : RawWord) (t : Nat) : Decoded :=
  match r.major with
  | 0x20 =>
    let arg := field r.fn 0 8
    match field r.fn 8 6 with
    | 0 => ifZero [r.d, arg] (.bra r.offset)
    | 1 => ifZero [arg] (.bz r.d r.offset)
    | 2 => ifZero [arg] (.bnz r.d r.offset)
    | 3 => ifZero [r.d] (.call r.offset arg)
    | 4 => ifZero [arg, field r.d 5 2] (.vbr (field r.d 7 1 == 1) (field r.d 0 5) r.offset)
    | _ => .error .unassignedMinor
  | 0x21 =>
    let rest := field r.fn 0 9
    match r.minor with
    | 0 => ifZero [r.d, r.b, r.c, rest] (.brx r.a)
    | 1 => ifZero [r.d, r.c, rest] (.callx r.a r.b)
    | 2 => ifZero [r.d, r.a, r.b, r.c, rest] .ret
    | _ => .error .unassignedMinor
  | 0x22 =>
    let rest := field r.fn 0 9
    match r.minor with
    | 0 => ifZero [r.d, r.a, r.b, r.c, rest] .vjoin
    | 1 => ifZero [r.d, r.a, r.b, r.c, rest] .exit
    | 2 => ifZero [r.d, r.a, r.b, r.c, rest] .yield
    | 3 => ifZero [r.a, r.b, r.c, rest] (.dwait r.d)
    | _ => .error .unassignedMinor
  | 0x24 =>
    match r.minor with
    | 0 => ifZero [r.d, r.a, r.b, r.c, field r.fn 0 9] .unfold
    | 1 => ifZero [r.a, r.b, r.c, field r.fn 0 9] (.rinfo r.d)
    | 2 => ifZero [r.a, r.b, r.c, field r.fn 2 7] (.part r.d (field r.fn 0 2))
    | _ => .error .unassignedMinor
  | 0x25 =>
    match r.minor with
    | 0 => ifZero [field r.fn 0 9] (.spawn r.guard r.d r.a r.imm16)
    | _ => .error .unassignedMinor
  | 0x26 =>
    match r.minor with
    | 0 => if field r.fn 0 9 ≠ 8 then .error .reservedField
      else if field t 24 40 ≠ 0 then .error .tailField
      else ifZero [r.neg, r.pred] (.fold r.d r.a r.imm16 (field t 0 24))
    | _ => .error .unassignedMinor
  | 0xF0 =>
    let rest := field r.fn 0 9
    match r.minor with
    | 0 => ifZero [r.a, r.b, r.c, rest] (.trap r.d)
    | 1 => ifZero [r.d, r.a, r.b, r.c, rest] .tret
    | 2 => ifZero [r.d, r.a, r.b, r.c, rest] .tesc
    | 3 => ifZero [r.d, r.a, r.b, r.c, rest] .halt
    | _ => .error .unassignedMinor
  | 0xF1 =>
    match r.minor with
    | 0 => ifZero [r.a, r.c, field r.fn 0 9] (.sget r.d r.b)
    | 1 => ifZero [r.d, r.c, field r.fn 0 9] (.sset r.a r.b)
    | _ => .error .unassignedMinor
  | 0xF2 =>
    match r.minor with
    | 0 => ifZero [field r.fn 0 9] (.tlbinv r.d r.a r.b r.c)
    | 1 => ifZero [field r.fn 0 9] (.own r.d r.a r.b r.c)
    | _ => .error .unassignedMinor
  | _ => .error .unassignedMajor

/-- Vector majors with fields of their own: compares, predicates, conversions, cross-lane (R289, R292). -/
def decodeVSpecial (r : RawWord) : Decoded :=
  match r.major with
  | 0x4C =>
    withCode (Ty.ofCode r.tyCode) fun t => withCode (Cond.ofCode (field r.fn 0 4)) fun c =>
      match r.minor with
      | 0 => .ok (.vicmp ⟨r.guard, c, t, r.d, r.c, r.a, r.b⟩)
      | 1 => .ok (.vfcmp ⟨r.guard, c, t, r.d, r.c, r.a, r.b⟩)
      | _ => .error .unassignedMinor
  | 0x4D =>
    match predRow r.major r.minor with
    | some f => ifZero [r.c, field r.fn 0 9] (f ⟨r.guard, r.d, r.a, r.b⟩)
    | none => .error .unassignedMinor
  | 0x50 =>
    match cvtRow r.major r.minor with
    | some f => withCode (Ty.ofCode r.tyCode) fun dt => withCode (Ty.ofCode (field r.c 0 5)) fun st =>
        ifZero [field r.c 5 3] (f ⟨r.guard, r.d, r.a, r.b, dt, st, field r.fn 3 1 == 1, field r.fn 2 1 == 1,
          RMode.ofCode (field r.fn 0 2)⟩)
    | none => .error .unassignedMinor
  | 0x58 =>
    withCode (Ty.ofCode r.tyCode) fun t =>
      match r.minor with
      | 6 => withCode (RedOp.ofCode r.b) fun op =>
          ifZero [field r.fn 2 2] (.vred ⟨r.guard, op, r.d, r.a, t, r.c, RMode.ofCode (field r.fn 0 2)⟩)
      | m => match xlaneRow r.major m with
        | some f => ifZero [field r.fn 0 3] (f ⟨r.guard, r.d, r.a, r.b, t, field r.fn 3 1 == 1, r.c⟩)
        | none => .error .unassignedMinor
  | _ => .error .unassignedMajor

/-- The term of the word's fields and its tail, before the checks of `wellFormed`. -/
def decodeRaw (w t : Nat) : Decoded :=
  let r := RawWord.ofNat w
  if r.major = 0x01 then (if w % 2 ^ 56 = 0 then .ok .nop else .error .reservedField)
  else if 0x02 ≤ r.major ∧ r.major ≤ 0x07 then
    if !r.noGuard then .error .guardField
    else if r.la ≠ 0 then .error .lookaheadField
    else if r.major = 0x07 ∧ r.minor = 2 then
      withCode (Cond.ofCode (field r.fn 0 4)) fun c => decodeS r fun o => .ok (.scmp c o)
    else match sRow r.major r.minor with
      | some f => decodeS r fun o => ifZero [field r.fn 0 4] (f o)
      | none => .error .unassignedMinor
  else if 0x10 ≤ r.major ∧ r.major ≤ 0x14 then
    if !r.noGuard then .error .guardField
    else if r.la ≠ 0 then .error .lookaheadField
    else if r.major = 0x14 then
      withCode (Cond.ofCode (field r.fn 0 4)) fun c =>
        ifZero [field r.fn 5 1] (.scmpImm c (field r.fn 4 1 == 1) ⟨r.d, r.a, r.imm24⟩)
    else match siRow r.major (field r.fn 0 6) with
      | some f => .ok (f ⟨r.d, r.a, r.imm24⟩)
      | none => .error .unassignedMinor
  else if (0x20 ≤ r.major ∧ r.major ≤ 0x26) ∨ (0xF0 ≤ r.major ∧ r.major ≤ 0xF2) then
    if r.la ≠ 0 then .error .lookaheadField
    else if r.major ≠ 0x25 ∧ !r.noGuard then .error .guardField
    else decodeCtl r t
  else if 0x40 ≤ r.major ∧ r.major ≤ 0x9F then
    if r.la ≠ 0 then .error .lookaheadField
    else match v3Row r.major r.minor with
      | some f => decodeV3 r fun o => .ok (f o)
      | none => match viRow r.major r.minor with
        | some f => decodeVI r t fun o => .ok (f o)
        | none => decodeVSpecial r
  else if 0xA0 ≤ r.major ∧ r.major ≤ 0xC6 then
    match mRow r.major with
    | some f => decodeM r fun o => .ok (f o)
    | none => decodeSync r
  else decodeX r t

/-- The instruction of a head word and the word after it (used only when `hasTail`): failures 1 to 5 of R282. -/
def decode (w t : Nat) : Decoded :=
  match decodeRaw w t with
  | .error e => .error e
  | .ok i => if wellFormed i then .ok i else .error .illegalField

/-- The instruction whose bytes start a list, and the rest of the list: 8 bytes, or 16 with a tail (R269). -/
def decodeBytes (bs : List Byte) : Except Reject (Instr × List Byte) :=
  let w := leValue (bs.take 8)
  if hasTail w then
    match decode w (leValue ((bs.drop 8).take 8)) with
    | .ok i => .ok (i, bs.drop 16)
    | .error e => .error e
  else
    match decode w 0 with
    | .ok i => .ok (i, bs.drop 8)
    | .error e => .error e

/-- The instruction whose bits, numbered as the opcode table numbers them, are `w`: bits 63:0 are the head word and
bits 127:64 the tail word, each stored little-endian. -/
def decodeTableWord (_nbits w : Nat) : Option Instr :=
  match decodeBytes (leBytes 16 w) with
  | .ok (i, _) => some i
  | .error _ => none

/-! ### The encoder, from the same tables -/

/-- Major and minor of the S rows with register operands (R288). -/
def sCode : Instr → Option (Nat × Nat × SOp)
  | .sadd o => some (0x02, 0, o)
  | .ssub o => some (0x02, 1, o)
  | .smul o => some (0x02, 2, o)
  | .smulh o => some (0x02, 3, o)
  | .smin o => some (0x02, 4, o)
  | .smax o => some (0x02, 5, o)
  | .sdiv o => some (0x03, 0, o)
  | .srem o => some (0x03, 1, o)
  | .sand o => some (0x04, 0, o)
  | .sor o => some (0x04, 1, o)
  | .sxor o => some (0x04, 2, o)
  | .sshl o => some (0x05, 0, o)
  | .sshr o => some (0x05, 1, o)
  | .ssar o => some (0x05, 2, o)
  | .srot o => some (0x05, 3, o)
  | .sclz o => some (0x06, 0, o)
  | .spop o => some (0x06, 1, o)
  | .sbrev o => some (0x06, 2, o)
  | .sbfx o => some (0x06, 3, o)
  | .sbfi o => some (0x06, 4, o)
  | .smov o => some (0x07, 0, o)
  | .ssel o => some (0x07, 1, o)
  | _ => none

/-- Major and minor of the SI rows but `scmp` (R288). -/
def siCode : Instr → Option (Nat × Nat × SIOp)
  | .sli o => some (0x10, 0, o)
  | .slhi o => some (0x10, 1, o)
  | .saddImm o => some (0x11, 0, o)
  | .smulImm o => some (0x11, 1, o)
  | .sminI32Imm o => some (0x11, 2, o)
  | .smaxI32Imm o => some (0x11, 3, o)
  | .sminN32Imm o => some (0x11, 4, o)
  | .smaxN32Imm o => some (0x11, 5, o)
  | .sandImm o => some (0x12, 0, o)
  | .sorImm o => some (0x12, 1, o)
  | .sxorImm o => some (0x12, 2, o)
  | .sshlImm o => some (0x13, 0, o)
  | .sshrImm o => some (0x13, 1, o)
  | .ssarImm o => some (0x13, 2, o)
  | .srotImm o => some (0x13, 3, o)
  | _ => none

/-- Major and minor of the V3 rows (R289). -/
def v3Code : Instr → Option (Nat × Nat × V3Op)
  | .vadd o => some (0x40, 0, o)
  | .vsub o => some (0x40, 1, o)
  | .vsadd o => some (0x40, 2, o)
  | .vssub o => some (0x40, 3, o)
  | .vabsd o => some (0x40, 4, o)
  | .vmin o => some (0x40, 5, o)
  | .vmax o => some (0x40, 6, o)
  | .vabs o => some (0x40, 7, o)
  | .vneg o => some (0x40, 8, o)
  | .vmul o => some (0x41, 0, o)
  | .vmulh o => some (0x41, 1, o)
  | .vmad o => some (0x41, 2, o)
  | .vand o => some (0x42, 0, o)
  | .vor o => some (0x42, 1, o)
  | .vxor o => some (0x42, 2, o)
  | .vandn o => some (0x42, 3, o)
  | .vlop3 o => some (0x42, 4, o)
  | .vshl o => some (0x43, 0, o)
  | .vshr o => some (0x43, 1, o)
  | .vsar o => some (0x43, 2, o)
  | .vrot o => some (0x43, 3, o)
  | .vclz o => some (0x44, 0, o)
  | .vctz o => some (0x44, 1, o)
  | .vpop o => some (0x44, 2, o)
  | .vbrev o => some (0x44, 3, o)
  | .vbfx o => some (0x44, 4, o)
  | .vbfi o => some (0x44, 5, o)
  | .vpdep o => some (0x45, 0, o)
  | .vpext o => some (0x45, 1, o)
  | .vbperm o => some (0x45, 2, o)
  | .vgfmat o => some (0x45, 3, o)
  | .vfadd o => some (0x48, 0, o)
  | .vfmul o => some (0x48, 1, o)
  | .vfma o => some (0x48, 2, o)
  | .vfmin o => some (0x48, 3, o)
  | .vfmax o => some (0x48, 4, o)
  | .vfclass o => some (0x48, 5, o)
  | .vfrnd o => some (0x48, 6, o)
  | .vfscale o => some (0x48, 7, o)
  | .vfrcp o => some (0x49, 0, o)
  | .vfrsq o => some (0x49, 1, o)
  | .vfsqrt o => some (0x49, 2, o)
  | .vfdiv o => some (0x49, 3, o)
  | .vfexp2 o => some (0x49, 4, o)
  | .vflog2 o => some (0x49, 5, o)
  | .vfsinp o => some (0x49, 6, o)
  | .vfcosp o => some (0x49, 7, o)
  | .vmov o => some (0x54, 0, o)
  | .vsel o => some (0x54, 1, o)
  | .vbcast o => some (0x54, 2, o)
  | .vidx o => some (0x54, 3, o)
  | _ => none

/-- Major and minor of the predicate rows (R289). -/
def predCode : Instr → Option (Nat × Nat × PredOp)
  | .vpand o => some (0x4D, 0, o)
  | .vpor o => some (0x4D, 1, o)
  | .vpxor o => some (0x4D, 2, o)
  | .vpnot o => some (0x4D, 3, o)
  | .vpmov o => some (0x4D, 4, o)
  | .vsetp o => some (0x4D, 5, o)
  | _ => none

/-- Major and minor of the conversion rows (R289). -/
def cvtCode : Instr → Option (Nat × Nat × CvtOp)
  | .vcvt o => some (0x50, 0, o)
  | .vpack o => some (0x50, 1, o)
  | .vunpack o => some (0x50, 2, o)
  | _ => none

/-- Major and minor of the cross-lane rows (R289). -/
def xlaneCode : Instr → Option (Nat × Nat × XLaneOp)
  | .vshfl o => some (0x58, 0, o)
  | .vbal o => some (0x58, 1, o)
  | .vany o => some (0x58, 2, o)
  | .vall o => some (0x58, 3, o)
  | .vcnt o => some (0x58, 4, o)
  | .vmatch o => some (0x58, 5, o)
  | _ => none

/-- Major and minor of the VI rows (R289). -/
def viCode : Instr → Option (Nat × Nat × VIOp)
  | .vaddImm o => some (0x60, 0, o)
  | .vsubImm o => some (0x60, 1, o)
  | .vsaddImm o => some (0x60, 2, o)
  | .vssubImm o => some (0x60, 3, o)
  | .vabsdImm o => some (0x60, 4, o)
  | .vminImm o => some (0x60, 5, o)
  | .vmaxImm o => some (0x60, 6, o)
  | .vmulImm o => some (0x61, 0, o)
  | .vandImm o => some (0x62, 0, o)
  | .vorImm o => some (0x62, 1, o)
  | .vxorImm o => some (0x62, 2, o)
  | .vandnImm o => some (0x62, 3, o)
  | .vshlImm o => some (0x63, 0, o)
  | .vshrImm o => some (0x63, 1, o)
  | .vsarImm o => some (0x63, 2, o)
  | .vrotImm o => some (0x63, 3, o)
  | .vfaddImm o => some (0x68, 0, o)
  | .vfmulImm o => some (0x68, 1, o)
  | .vfminImm o => some (0x68, 3, o)
  | .vfmaxImm o => some (0x68, 4, o)
  | .vmovImm o => some (0x74, 0, o)
  | _ => none

/-- Major of the loads, stores and atomics (R290). -/
def mCode : Instr → Option (Nat × MOp)
  | .vld o => some (0xA0, o)
  | .vldu o => some (0xA1, o)
  | .vgath o => some (0xA2, o)
  | .vgathMt o => some (0xA3, o)
  | .vst o => some (0xA4, o)
  | .vscat o => some (0xA5, o)
  | .sld o => some (0xA6, o)
  | .sst o => some (0xA7, o)
  | .vatomAdd o => some (0xA9, o)
  | .satomAdd o => some (0xB1, o)
  | .vatomMin o => some (0xAA, o)
  | .satomMin o => some (0xB2, o)
  | .vatomMax o => some (0xAB, o)
  | .satomMax o => some (0xB3, o)
  | .vatomAnd o => some (0xAC, o)
  | .satomAnd o => some (0xB4, o)
  | .vatomOr o => some (0xAD, o)
  | .satomOr o => some (0xB5, o)
  | .vatomXor o => some (0xAE, o)
  | .satomXor o => some (0xB6, o)
  | .vatomExch o => some (0xAF, o)
  | .satomExch o => some (0xB7, o)
  | .vatomCas o => some (0xB0, o)
  | .satomCas o => some (0xB8, o)
  | _ => none
/-- Guard fields of a word. -/
def Guard.negBit (g : Guard) : Nat := if g.neg then 1 else 0

/-- A Bool as a bit. -/
def bitOf (b : Bool) : Nat := if b then 1 else 0

/-- A word without guard and lookahead. -/
def plainWord (major d a b c fn : Nat) : Nat := RawWord.toNat ⟨major, 0, 0, 0, d, a, b, c, fn⟩

/-- A word with guard and lookahead. -/
def guardWord (major : Nat) (g : Guard) (la d a b c fn : Nat) : Nat :=
  RawWord.toNat ⟨major, g.negBit, g.pred, la, d, a, b, c, fn⟩

/-- A branch word (R280): the offset in bits 37:14. -/
def branchWord (minor d off arg : Nat) : Nat :=
  plainWord 0x20 d (off / 2 ^ 16) (off / 2 ^ 8 % 256) (off % 256) (minor * 256 + arg)

/-- An SI word: the immediate in bits 29:6. -/
def siWord (major minor : Nat) (o : SIOp) : Nat :=
  plainWord major o.d o.a (o.imm / 2 ^ 16) (o.imm / 2 ^ 8 % 256) (o.imm % 256 * 64 + minor)

/-- The function field of an M word. -/
def mFn (e : Elem) (sp : Space) (sc : Scope) (ord : Order) (k : OffKind) : Nat :=
  e.code * 1024 + sp.code * 128 + sc.code * 16 + ord.code * 4 + k.code

/-- The tail of an engine command (R392). -/
def cmdTail (o : CmdOp) : Nat :=
  o.queue * 16 + (match o.cnt with | some k => 256 + k * 512 | none => 0)

/-- An engine command's words. -/
def cmdWords (major : Nat) (o : CmdOp) (flags : Nat) : List Nat :=
  [guardWord major o.g 0 o.d o.a o.b o.c flags, cmdTail o]

/-- A line-operand word. -/
def lineWord (major : Nat) (o : LineOp) : Nat := guardWord major o.g 0 o.d o.a o.b 0 o.kind.code

/-- A work-queue word. -/
def wqWord (major : Nat) (o : WqOp) : Nat :=
  plainWord major o.d o.a o.b o.q (o.space.code * 128 + o.kind.code)

/-- Words of the rows with fields of their own. A step of another unit has no words. -/
def encodeSpecial : Instr → List Nat
  | .nop => [0x01 * 2 ^ 56]
  | .scmp c o => [plainWord 0x07 o.d o.a o.b o.c (2 * 512 + o.ty.code * 16 + c.code)]
  | .scmpImm c u o => [siWord 0x14 (c.code + 16 * bitOf u) o]
  | .bra off => [branchWord 0 0 off 0]
  | .bz d off => [branchWord 1 d off 0]
  | .bnz d off => [branchWord 2 d off 0]
  | .call off k => [branchWord 3 0 off k]
  | .vbr neg p off => [branchWord 4 (bitOf neg * 128 + p) off 0]
  | .brx a => [plainWord 0x21 0 a 0 0 0]
  | .callx a k => [plainWord 0x21 0 a k 0 (1 * 512)]
  | .ret => [plainWord 0x21 0 0 0 0 (2 * 512)]
  | .vjoin => [plainWord 0x22 0 0 0 0 0]
  | .exit => [plainWord 0x22 0 0 0 0 (1 * 512)]
  | .yield => [plainWord 0x22 0 0 0 0 (2 * 512)]
  | .dwait k => [plainWord 0x22 k 0 0 0 (3 * 512)]
  | .unfold => [plainWord 0x24 0 0 0 0 0]
  | .rinfo d => [plainWord 0x24 d 0 0 0 (1 * 512)]
  | .part n code => [plainWord 0x24 n 0 0 0 (2 * 512 + code)]
  | .spawn g d a n => [guardWord 0x25 g 0 d a (n / 256) (n % 256) 0]
  | .fold d n h p => [plainWord 0x26 d n (h / 256) (h % 256) 8, p]
  | .vicmp o => [guardWord 0x4C o.g 0 o.d o.a o.b o.c (o.ty.code * 16 + o.cond.code)]
  | .vfcmp o => [guardWord 0x4C o.g 0 o.d o.a o.b o.c (512 + o.ty.code * 16 + o.cond.code)]
  | .vred o => [guardWord 0x58 o.g 0 o.d o.a o.op.code o.grp (6 * 512 + o.ty.code * 16 + o.mode.code)]
  | .pref o => [lineWord 0xA8 o]
  | .fence ord sc => [plainWord 0xB9 0 0 0 0 (sc.code * 16 + ord.code * 4)]
  | .fencex => [plainWord 0xBA 0 0 0 0 0]
  | .bari a b => [plainWord 0xBB 0 a b 0 0]
  | .bara d b => [plainWord 0xBC d 0 b 0 0]
  | .barw a b => [plainWord 0xBD 0 a b 0 0]
  | .barx d b => [plainWord 0xBE d 0 b 0 0]
  | .bclose d => [plainWord 0xBF d 0 0 0 0]
  | .bwait a => [plainWord 0xC0 0 a 0 0 0]
  | .cflush o => [lineWord 0xC1 o]
  | .cinv o => [lineWord 0xC2 o]
  | .cclean o => [lineWord 0xC3 o]
  | .wqpop o => [wqWord 0xC4 o]
  | .wqpush o => [wqWord 0xC5 o]
  | .evwait o => [plainWord 0xC6 o.d o.a o.b o.t (mFn o.elem o.space o.scope o.order o.kind)]
  | .macq g acc cols => [guardWord 0xD0 g 0 acc 0 0 0 cols, 0]
  | .mrel g acc => [guardWord 0xD1 g 0 acc 0 0 0 0, 0]
  | .mrelF g acc => [guardWord 0xD1 g 0 acc 0 0 0 1, 0]
  | .mzero g acc => [guardWord 0xD2 g 0 acc 0 0 0 0, 0]
  | .mmul g acc a b c e f z => [guardWord 0xD3 g 0 acc a b c (bitOf z), e * 256 + f * 65536]
  | .mrd g la ctr d acc b n => [guardWord 0xD4 g la d acc b 0 n, ctr]
  | .mwr g acc a b n => [guardWord 0xD5 g 0 acc a b 0 n, 0]
  | .mld g la ctr acc a b sp sc => [guardWord 0xD6 g la acc a b 0 0, ctr + sp.code * 256 + sc.code * 1024]
  | .mst g acc a b sp sc => [guardWord 0xD7 g 0 acc a b 0 0, sp.code * 256 + sc.code * 1024]
  | .hld la ctr d a sp => [guardWord 0xD8 ⟨false, 0⟩ la d a 0 0 0, ctr + sp.code * 256]
  | .hst d a sp => [plainWord 0xD9 d a 0 0 0, sp.code * 256]
  | .hset d a k => [plainWord 0xDA d a 0 0 k, 0]
  | .hget d a k => [plainWord 0xDB d a 0 0 k, 0]
  | .cpyt o => cmdWords 0xDC o 0
  | .cpyl o sp dp => cmdWords 0xDD o (sp.code + dp.code * 4)
  | .gath o => cmdWords 0xDE o 0
  | .coll o => cmdWords 0xDF o 0
  | .qfence q m => [plainWord 0xE0 0 0 0 0 0, q * 16 + m * 256]
  | .fwait a => [plainWord 0xE1 0 a 0 0 0, 0]
  | .ftest d a => [plainWord 0xE2 d a 0 0 0, 0]
  | .fcancel a => [plainWord 0xE3 0 a 0 0 0, 0]
  | .glaunch g d a => [guardWord 0xE4 g 0 d a 0 0 0, 0]
  | .gcancel g a => [guardWord 0xE5 g 0 0 a 0 0 0, 0]
  | .gwait g a => [guardWord 0xE6 g 0 0 a 0 0 0, 0]
  | .gwaitAll g => [guardWord 0xE6 g 0 0 0 0 0 1, 0]
  | .trap n => [plainWord 0xF0 n 0 0 0 0]
  | .tret => [plainWord 0xF0 0 0 0 0 (1 * 512)]
  | .tesc => [plainWord 0xF0 0 0 0 0 (2 * 512)]
  | .halt => [plainWord 0xF0 0 0 0 0 (3 * 512)]
  | .sget d num => [plainWord 0xF1 d 0 num 0 0]
  | .sset a num => [plainWord 0xF1 0 a num 0 (1 * 512)]
  | .tlbinv d a b c => [plainWord 0xF2 d a b c 0]
  | .own d a b c => [plainWord 0xF2 d a b c (1 * 512)]
  | _ => []

/-- The words of a V3 row. -/
def v3Words (mj mn : Nat) (o : V3Op) : List Nat :=
  [guardWord mj o.g 0 o.d o.a o.b o.c (mn * 512 + o.ty.code * 16 + bitOf o.bk * 8 + bitOf o.ck * 4 + o.mode.code)]

/-- The words of a VI row (R278): with an immediate in the tail, Tail is 1 and bits 29:14 are 0. -/
def viWords (mj mn : Nat) (o : VIOp) : List Nat :=
  match o.imm with
  | .short n => [guardWord mj o.g 0 o.d o.a (n / 256) (n % 256) (mn * 512 + o.ty.code * 16 + o.mode.code)]
  | .tail n => [guardWord mj o.g 0 o.d o.a 0 0 (mn * 512 + o.ty.code * 16 + 8 + o.mode.code), n]

/-- The words of a load, store or atomic. -/
def mWords (mj : Nat) (o : MOp) : List Nat :=
  [guardWord mj o.g o.la o.d o.a o.b (o.ctr * 32 + o.x) (mFn o.elem o.space o.scope o.order o.kind)]

/-- The words of a well-formed instruction: the head, and the tail where it has one. -/
def encode (i : Instr) : List Nat :=
  match sCode i with
  | some (mj, mn, o) => [plainWord mj o.d o.a o.b o.c (mn * 512 + o.ty.code * 16)]
  | none =>
  match siCode i with
  | some (mj, mn, o) => [siWord mj mn o]
  | none =>
  match v3Code i with
  | some (mj, mn, o) => v3Words mj mn o
  | none =>
  match viCode i with
  | some (mj, mn, o) => viWords mj mn o
  | none =>
  match mCode i with
  | some (mj, o) => mWords mj o
  | none =>
  match predCode i with
  | some (mj, mn, o) => [guardWord mj o.g 0 o.d o.a o.b 0 (mn * 512)]
  | none =>
  match cvtCode i with
  | some (mj, mn, o) => [guardWord mj o.g 0 o.d o.a o.b o.src.code
      (mn * 512 + o.dst.code * 16 + bitOf o.bk * 8 + bitOf o.nanov * 4 + o.mode.code)]
  | none =>
  match xlaneCode i with
  | some (mj, mn, o) => [guardWord mj o.g 0 o.d o.a o.b o.grp (mn * 512 + o.ty.code * 16 + bitOf o.bk * 8)]
  | none => encodeSpecial i

/-- Whether a term is an instruction of the Sniusk architecture (it has words) or a step of another unit. -/
def Instr.isInstruction (i : Instr) : Bool := !(encode i).isEmpty

/-- Bytes of an instruction: 16 with a tail word, else 8 (R269). -/
def Instr.size (i : Instr) : Nat := 8 * (encode i).length

/-- The instruction as it lies in memory (R269): each word little-endian, the head first. -/
def encodeBytes (i : Instr) : List Byte := (encode i).flatMap (leBytes 8)

end Sys2Proof
end

