-- ==== Sys2Proof/Machine/AMap.lean ====
section
/-! DEFINITION. Sparse tables as plain data: a list of key and value pairs, keys strictly rising. Register files,
slots, cores, lines and descriptors are such tables; a key that is not listed has the table's default. -/

namespace Sys2Proof.Machine

/-- A sparse table keyed by numbers. -/
abbrev AMap (α : Type) := List (Nat × α)

/-- The value listed for a key. -/
def AMap.find? {α : Type} : AMap α → Nat → Option α
  | [], _ => none
  | (k, v) :: rest, n => if k = n then some v else if n < k then none else AMap.find? rest n

/-- The value of a key, or the table's default. -/
def AMap.getD {α : Type} (m : AMap α) (n : Nat) (d : α) : α := (AMap.find? m n).getD d

/-- The table with one key set. -/
def AMap.set {α : Type} : AMap α → Nat → α → AMap α
  | [], n, v => [(n, v)]
  | (k, w) :: rest, n, v =>
    if k = n then (n, v) :: rest
    else if n < k then (n, v) :: (k, w) :: rest
    else (k, w) :: AMap.set rest n v

/-- The table with one key taken out. -/
def AMap.erase {α : Type} : AMap α → Nat → AMap α
  | [], _ => []
  | (k, w) :: rest, n =>
    if k = n then rest
    else if n < k then (k, w) :: rest
    else (k, w) :: AMap.erase rest n

/-- The table with one key changed from its value (or the default). -/
def AMap.upd {α : Type} (m : AMap α) (n : Nat) (d : α) (f : α → α) : AMap α :=
  AMap.set m n (f (AMap.getD m n d))

/-- Whether a key is listed. -/
def AMap.has {α : Type} (m : AMap α) (n : Nat) : Bool := (AMap.find? m n).isSome

/-- The keys rise strictly. -/
def AMap.sorted {α : Type} : AMap α → Bool
  | [] => true
  | [_] => true
  | (k, _) :: (k', w) :: rest => decide (k < k') && AMap.sorted ((k', w) :: rest)

end Sys2Proof.Machine
end

