-- ==== Sys2Proof/Machine/Memory.lean ====
section
/-! DEFINITION. Byte memory: a list of (address, byte) cells in one canonical form, addresses strictly rising and
no cell equal to what an unlisted address reads as (LOG 1: 0). Used for the device physical space (R23) and for the
scratchpad partition of each core (R41, R42). -/

namespace Sys2Proof.Machine

/-- Byte memory. -/
abbrev Memory := List Host.Cell

/-- What an unlisted address reads as. DESIGN CHOICE (LOG 1); a warm reset writes HBM4 to zero (R17). -/
def Memory.blank : Byte := 0#8

/-- One byte. -/
def Memory.read : Memory → Nat → Byte
  | [], _ => Memory.blank
  | (k, v) :: rest, a => if k = a then v else if a < k then Memory.blank else Memory.read rest a

/-- Put one byte, keeping the canonical form: the blank byte is not listed. -/
def Memory.write : Memory → Nat → Byte → Memory
  | [], a, b => if b = Memory.blank then [] else [(a, b)]
  | (k, v) :: rest, a, b =>
    if k = a then (if b = Memory.blank then rest else (a, b) :: rest)
    else if a < k then (if b = Memory.blank then (k, v) :: rest else (a, b) :: (k, v) :: rest)
    else (k, v) :: Memory.write rest a b

/-- `n` bytes from an address up. -/
def Memory.readBytes (m : Memory) : Nat → Nat → List Byte
  | _, 0 => []
  | a, n + 1 => Memory.read m a :: Memory.readBytes m (a + 1) n

/-- Bytes stored from an address up. -/
def Memory.writeBytes (m : Memory) : Nat → List Byte → Memory
  | _, [] => m
  | a, b :: bs => Memory.writeBytes (Memory.write m a b) (a + 1) bs

/-- The little-endian value of `n` bytes (R5). -/
def Memory.readLE (m : Memory) (a n : Nat) : Nat := leValue (Memory.readBytes m a n)

/-- Store the low `n` bytes of a value, little-endian (R5). -/
def Memory.writeLE (m : Memory) (a n v : Nat) : Memory := Memory.writeBytes m a (leBytes n v)

/-- Every byte of [lo, hi) becomes blank. -/
def Memory.clear (m : Memory) (lo hi : Nat) : Memory :=
  m.filter (fun c => decide (c.1 < lo) || decide (hi ≤ c.1))

/-- Every address of `m` is above `a`. -/
def Memory.above (a : Nat) : Memory → Bool
  | [] => true
  | (k, _) :: _ => decide (a < k)

/-- The canonical form: addresses strictly rising, no blank byte listed. -/
def Memory.wf : Memory → Bool
  | [] => true
  | (k, v) :: rest => decide (v ≠ Memory.blank) && Memory.above k rest && Memory.wf rest

end Sys2Proof.Machine
end

