-- ==== Sys2Proof/Machine/State.lean ====
section
/-! DEFINITION. The state of a Y96 package as plain data, and the state after package cold reset (spec 02 to 19, 23;
INVENTORY.md names the rule of each field). Registers are sparse tables: a number not listed has its start value. -/

set_option Elab.async false

namespace Sys2Proof.Machine

/-- A vector register and its form tag (R182, R236). -/
inductive VReg where
  | uni (c : Word)
  | aff (b ts is : Word)
  | dense (xs : List Word)
  deriving DecidableEq, Repr, Inhabited

/-- A predicate register: uniform, threshold (R183) or 96 bits (R238). -/
inductive PReg where
  | uni (b : Bool)
  | thr (c : Nat)
  | dense (m : Lanes)
  deriving DecidableEq, Repr, Inhabited

/-- A step that the machine itself has pending: the row of the opcode table of the same name (LOG 2). Steps that come
from outside (hosts, devices, other packages, firmware commands) stand in `State.inputs` as `Instr`. -/
inductive Event where
  | longLatencyComplete (core slot idx : Nat) | futureComplete (fut status : Nat)
  | swap (core slot : Nat) | watchdogExpiry (core slot : Nat) | piecePlace (core : Nat)
  | barwPieceHandoff (core slot : Nat) | foldHoldExpiry (core slot : Nat) | foldMerge (core slot other : Nat)
  | binTimerExpiry (core bin : Nat) | compaction (core : Nat)
  | capacityReport (child : Node) (grid : Nat) | dealRound (node : Node) (grid : Nat)
  | rangeReceipt (core grid lo hi : Nat) | launchRecordCheck (idx : Nat)
  | teamRetire (core grid team : Nat) | completionReport (node : Node) (grid : Nat) | gridComplete (grid : Nat)
  | gridCancel (grid : Nat) | reDeal (grid pkg : Nat)
  | invalidationComplete (id : Nat) | invalWalkRestart (id : Nat) | flipComplete (id : Nat)
  | rds (agent : Agent) (line : Nat) | rdx (agent : Agent) (line : Nat) | upg (agent : Agent) (line : Nat)
  | wbd (agent : Agent) (line : Nat) | evc (agent : Agent) (line : Nat) | snoop (kind line : Nat)
  | engineRead (agent : Agent) (line : Nat) | forwardReceipt (agent : Agent) (line : Nat)
  | grantReceipt (agent : Agent) (line : Nat) | registerSpaceAnswer (core slot : Nat)
  | releaseComplete (core : Nat) | tasterCheck (core : Nat) | epochClose (core : Nat)
  | epochCompare (core die : Nat) | epochTimeout (core die : Nat) | barrierArrivalCount (core : Nat) | evwaitTimeout (core slot : Nat)
  | commandStart (cmd : Nat) | commandComplete (cmd : Nat) | engineFaultDelivery (core slot : Nat)
  | passFormation (clu : Nat) | aStagingComplete (clu entry : Nat) | bFetchComplete (clu : Nat)
  | passLeavesArray (clu : Nat) | trapEntry (core slot : Nat) | deferredTrap (core slot : Nat)
  | breakpointHit (core slot bp : Nat) | singleStep (core slot : Nat) | coreHalted (core : Nat)
  | windowRecordAccept (slot : Nat) | doorbellAccept (port : Nat)
  | packet (typ q : Nat) | packetComplete (idx : Nat) | queueRingFault (q va : Nat) | journalAccept (idx : Nat)
  | streamGapTimeout (k : Nat) | slotDrained (slot : Nat) | traceLoss (core : Nat) | scrubPerform | rootFailover (pkg : Nat)
  | evwaitReread (core slot : Nat) | workQueueUnitArrival | injectedDelayExpiry (core : Nat)
  | memoryControllerAcceptance (line : Nat) (write : Bool) | deadlockScan | computeDieReset (die : Nat)
  | homeAtomic (r : AtomReq) | uncachedAccess (r : PhysReq) | recall (line : Nat) | directoryEviction (line : Nat)
  | filterEviction (line : Nat)
  deriving DecidableEq, Repr, Inhabited

/-- Kind of a slot holder (R222, R437). -/
inductive HKind where
  | range | group | bin
  deriving DecidableEq, Repr, Inhabited

/-- What a blocked holder waits for. The rule that blocks it stands beside each. -/
inductive Wait where
  /-- open lookahead windows: the (L+1)th instruction (R284), or an instruction of R287 -/
  | window
  /-- `dwait` (R320), or a counter at 63 (R241) -/
  | counter (k : Nat)
  /-- a register written by a counter-tracked operation (R286) or by a counted arrival (R379) -/
  | writer
  /-- a future-tagged scalar register (R242) -/
  | tag (r : Nat)
  /-- 64 tagged registers (R242) -/
  | tagsFull
  /-- an earlier float atomic (R244) -/
  | flags
  /-- earlier accesses, a pending release or held stores (R121, R376) -/
  | earlier
  /-- release buffer full (R161) -/
  | releaseFull
  /-- Taster window full (R149) -/
  | tasterFull
  /-- a read too far back for Dep, until it has been checked (R149) -/
  | checked (place : Nat)
  /-- a translation whose walk is held by a flip or has no context (R61, R73) -/
  | translation
  /-- a line busy at its home (R88) -/
  | lineBusy
  /-- the answer of register space, a storage port or a peer (R29, R32, R38) -/
  | answer
  /-- barrier phase (R379) -/
  | barrier (b p : Nat)
  /-- scratchpad or barrier block at a team cut (R195, R378) -/
  | scratchpad
  /-- 256 closed batches (R381) -/
  | batchesFull
  /-- `bwait` (R381) -/
  | batch (n : Nat)
  /-- `fwait`, `gwait` (R415) -/
  | future (r : Nat)
  /-- `gwait.all` (R418) -/
  | grids
  /-- `macq`: units of the pool (R396) -/
  | units (n : Nat)
  /-- `macq`: passes on a tile (R396) -/
  | tile (t : Nat)
  /-- reservation table (R227) -/
  | table (n : Nat)
  /-- 64 commands of a queue, or 16,128 of an engine (R407, R436) -/
  | queueFull (q : Nat)
  /-- reply of the work-queue unit, or sleep on a queue (R385, R230) -/
  | workQueue (w : Nat)
  /-- `evwait` (R386) -/
  | event
  /-- `fold` until its deadline (R199) -/
  | fold
  /-- 64 invalidations in flight (R64) -/
  | invals
  /-- 16 flips in flight (R74) -/
  | flips
  /-- a translation that would be the core's 33rd miss (R62) -/
  | missPort
  /-- a team record in the die's dispatcher (R180) -/
  | teamRecord
  /-- piece-ring space (R193) -/
  | pieceRing
  deriving DecidableEq, Repr, Inhabited

/-- Status of a holder in its slot (R222-R224, R328, R434). -/
inductive HStatus where
  | ready
  | blocked (w : Wait)
  | halted
  | awaiting
  | stopped
  deriving DecidableEq, Repr, Inhabited

/-- A split-stack entry (R310). -/
structure SplitEntry where
  pc : Nat
  lanes : Lanes
  depth : Nat
  frame : Nat
  waiting : Bool
  deriving DecidableEq, Repr, Inhabited

/-- A frame (R314): return address, parent, depth, logical granules and their ring positions. Granule j > 0 of frame
f has number 32 f + j; granule 0 of a called frame is its parent's last granule. -/
structure Frame where
  ret : Nat := 0
  parent : Nat := 0
  depth : Nat := 0
  grans : List Nat := []
  pos : List Nat := []
  deriving DecidableEq, Repr, Inhabited

/-- One lane's access of a memory instruction: lane, effective address, data or operand, new value of a `cas`. -/
structure LaneAcc where
  lane : Nat
  ea : Nat
  x : Nat := 0
  new : Nat := 0
  deriving DecidableEq, Repr, Inhabited

/-- A long-latency instruction that has issued and not completed (R284): its window (instructions still permitted)
or its counter, the ck before which it does not complete (R97), its lanes' accesses as formed at issue, the values that have arrived, whether a later instruction has issued, and the
lowest lane whose answer is a fault (lane, cause, kind, address) with the payload of a failed check. -/
structure LongOp where
  idx : Nat
  due : Nat := 0
  instr : Instr
  pc : Nat
  active : Lanes
  lanes : List LaneAcc := []
  window : Option Nat := none
  ctr : Option Nat := none
  passed : Bool := false
  done : Lanes := 0#96
  seq : Nat := 0
  lo : Nat := 0
  hi : Nat := 0
  sig : Nat := 0
  sector : Nat := 0
  vals : List (Nat × Nat) := []
  uni : Bool := false
  flags : Nat := 0
  bad : Option (Nat × Nat × Nat × Nat) := none
  badPayload : Nat := 0
  deriving DecidableEq, Repr, Inhabited

/-- A trap that waits for a boundary (R423, R431, R512). -/
structure PendTrap where
  cause : Nat
  kind : Nat := 0
  lane : Nat := 127
  tval : Nat := 0
  pc : Nat := 0
  tpc : Nat := 0
  queued : Bool := false
  engine : Bool := false
  done : Lanes := 0#96
  payload : Nat := 0
  queue : Nat := 0
  command : Nat := 0
  offset : Nat := 0
  engineCode : Nat := 0
  member : Option Nat := none
  enqueue : Bool := false
  deriving DecidableEq, Repr, Inhabited

/-- A replay-queue entry (R428): the instruction and the lanes that performed; `sup` for one of a handler, which pre-emption gave
up (R75). -/
structure ReplayEntry where
  pc : Nat
  done : Lanes
  idx : Nat := 0
  sup : Bool := false
  deriving DecidableEq, Repr, Inhabited

/-- An accumulator name (R239): 0 unbound, 1 group, 2 engine; the tile. -/
structure AccName where
  state : Nat := 0
  tile : Nat := 0
  deriving DecidableEq, Repr, Inhabited

/-- `evwait` in progress (R386). -/
structure EvState where
  comparand : Nat
  last : Nat
  deadline : Option Nat
  ea : Nat
  op : EvOp
  deriving DecidableEq, Repr, Inhabited

/-- A push or pop on its way to the work-queue unit (R385, R388), or asleep there. `data` is the pushed record. -/
structure WqArrival where
  core : Nat
  slot : Nat
  pop : Bool
  w : Nat
  data : List Byte
  ea : Nat
  space : Space
  dest : Nat
  deriving DecidableEq, Repr, Inhabited

/-- An access that waits for an answer from register space, a storage window or a peer (R29, R32, R38): of a
long-latency instruction, of an atomic, of the source of a `wqpush`, or a cache operation of size 0 (R384). `all` are the
lanes of a store's instruction, `failed` the cause and kind with which one of them has been answered (R512), `whole` says
that the line of a read-only import is asked for (R82). `off` is the place of the piece in its element (R111), `part` what
the pieces answered before it have given, `payload` that of a check which the answer has failed (R163). -/
structure ExtAccess where
  idx : Option Nat
  pa : Nat
  size : Nat
  data : Option Nat
  lane : Nat
  ea : Nat
  tag : Nat
  pc : Nat
  atom : Option AtomReq := none
  wq : Option WqArrival := none
  launch : Bool := false
  count : Nat := 0
  order : Nat := 0
  scope : Nat := 0
  all : Lanes := 0#96
  failed : Option (Nat × Nat) := none
  whole : Bool := false
  off : Nat := 0
  part : Nat := 0
  payload : Nat := 0
  deriving DecidableEq, Repr, Inhabited

/-- A slot holder (R232). -/
structure Holder where
  kind : HKind := .group
  status : HStatus := .ready
  grid : Nat := 0
  lo : Nat := 0
  hi : Nat := 0
  team : Nat := 0
  group : Nat := 0
  items : List Nat := []
  live : Lanes := 0#96
  pc : Nat := 0
  sregs : AMap Word := []
  mask : Lanes := 0#96
  path : Lanes := 0#96
  stack : List SplitEntry := []
  spilled : List Nat := []
  frames : AMap Frame := []
  frame : Nat := 0
  outFrames : List Nat := []
  vregs : AMap VReg := []
  ring : AMap Nat := []
  outGrans : List Nat := []
  preds : AMap PReg := []
  accs : AMap AccName := []
  shapes : AMap Nat := []
  gcodes : AMap Nat := []
  dcs : AMap Nat := []
  tags : AMap Nat := []
  writers : List Nat := []
  batchCount : Nat := 0
  openBatch : List Nat := []
  cmds : List Nat := []
  landed : List Nat := []
  batches : AMap (List Nat) := []
  fflags : Nat := 0
  age : Nat := 0
  watchdog : Nat := 0
  deadline : Nat := 0
  mode : Bool := false
  trapLane : Nat := 0
  tcause : Nat := 0
  tval : Nat := 0
  tpc : Nat := 0
  trapFrame : Nat := 0
  escFrame : Nat := 0
  framePC : Nat := 0
  frameDone : Lanes := 0#96
  maskWrites : AMap Word := []
  replay : List ReplayEntry := []
  replaying : Option Lanes := none
  replayPC : Option Nat := none
  pend : List PendTrap := []
  ll : List LongOp := []
  nextIdx : Nat := 0
  ext : List ExtAccess := []
  ev : Option EvState := none
  prio : Nat := 0
  w : Nat := 8
  win : Nat := 0
  depth : Nat := 1
  asid : Nat := 0
  bpSkip : Option Nat := none
  stepping : Bool := false
  queues : AMap (List Nat) := []
  cmdStamp : Nat := 0
  deriving DecidableEq, Repr, Inhabited

/-- A scratchpad allocation of a core (R42) with its barrier block (R378). -/
structure TeamAlloc where
  grid : Nat
  team : Nat
  off : Nat
  size : Nat
  block : Nat
  deriving DecidableEq, Repr, Inhabited

/-- A barrier object (R378), the highest stamp of the arrivals of this phase and of the last one (R158). -/
structure Barrier where
  e : Nat := 0
  arrived : Nat := 0
  drop : Nat := 0
  p : Nat := 0
  stamp : Nat := 0
  last : Nat := 0
  deriving DecidableEq, Repr, Inhabited

/-- State of a line in an L1 (R89); `sr` is the read-only import state of R82. -/
inductive L1State where
  | m | o | e | s | sr
  deriving DecidableEq, Repr, Inhabited

/-- An L1 line, its valid and dirty sectors (R79), and its Cupper's record (R152), which a forward closes. -/
structure L1Line where
  st : L1State
  valid : Nat := 15
  dirty : Nat := 0
  open_ : Bool := true
  interval : Nat := 0
  startDigest : Nat := 0
  startStamp : Nat := 0
  sectors : Nat := 0
  pref : Bool := false
  deriving DecidableEq, Repr, Inhabited

/-- A TLB entry (R57): ASID, virtual base and size, physical base, the low attribute bits 11:0 of the entry, and the
peer field. -/
structure TlbEntry where
  asid : Nat
  va : Nat
  size : Nat
  pa : Nat
  attr : Nat
  peer : Nat := 0
  range : Bool := false
  deriving DecidableEq, Repr, Inhabited

/-- A bin (R200, R201). Each item carries its index and its register values; `first` is the place of its first item among those
that started a bin. -/
structure Bin where
  entry : Nat
  grid : Nat
  team : Nat
  started : Nat
  items : List (Nat × List Word)
  w : Nat
  prio : Nat
  first : Nat := 0
  deriving DecidableEq, Repr, Inhabited

/-- A piece (R193): the holder, the ring offset of its record and the record's length; a piece restored to another core
than the one whose ring holds its record names that core. -/
structure Piece where
  holder : Holder
  off : Nat
  size : Nat
  away : Option Nat := none
  deriving DecidableEq, Repr, Inhabited

/-- A Taster entry (R146); one of kind 3 with `seen` stands for an observed completion, which raises the acquire floor to that
stamp (R158). `cut` is the PC of an instruction of which the entry is the part that performed before a fault, `again` that of
one of which it is the replay (R149). -/
structure TasterEntry where
  max : Nat
  min : Nat
  sig : Nat
  slot : Nat
  kind : Nat
  order : Nat
  scope : Nat
  early : Bool := false
  dep : Nat := 0
  seq : Nat := 0
  sector : Nat := 0
  fencex : Bool := false
  stamped : Bool := true
  seen : Nat := 0
  cut : Option Nat := none
  again : Option Nat := none
  deriving DecidableEq, Repr, Inhabited

/-- A floor of the Taster (R148) with the kind, sector and table row of the access that set it (R147, R168). -/
structure Floor where
  stamp : Nat := 0
  kind : Nat := 0
  sector : Nat := 0
  row : Nat := 0
  deriving DecidableEq, Repr, Inhabited

/-- The floors of a slot in the Taster (R148), the payload of a reorder violation (R163), and the lines its accesses
touched since its releases (R159): line, one more than the widest scope of a release completed since, place. `prov` names the
read on whose value a register depends, by its place; `reads` are the floors of the last 255 places' reads, and `parts` the
entries of parts whose replay is still to come (R146, R149). -/
structure Floors where
  start : Nat := 0
  acqf : Floor := {}
  relf : Floor := {}
  maxrd : Floor := {}
  maxall : Floor := {}
  relw : Floor := {}
  maxreg : Floor := {}
  fxf : Floor := {}
  maxw : AMap Floor := []
  contain : Nat := 0
  covered : List (Nat × Nat × Nat) := []
  prov : AMap Nat := []
  reads : AMap Floor := []
  parts : List TasterEntry := []
  deriving DecidableEq, Repr, Inhabited

/-- What a release-buffer entry does when it leaves (R158-R160). -/
inductive RelKind where
  | fence (ord : Order)
  | fencex
  | store (instr : Instr) (lanes : List LaneAcc)
  | atomic (instr : Instr) (lanes : List LaneAcc)
  | arrive (home obj n drop dest : Nat)
  deriving DecidableEq, Repr, Inhabited

/-- A release-buffer entry (R161): its place in the Taster's order, the bound of the outside accesses before it, and the
issue count after which a failure is deferred (R512). -/
structure Release where
  slot : Nat
  scope : Scope
  kind : RelKind
  pc : Nat
  active : Lanes := 0#96
  idx : Option Nat := none
  seq : Nat := 0
  tag : Nat := 0
  count : Nat := 0
  deriving DecidableEq, Repr, Inhabited

/-- A store, scatter or atomic held by delay injection (R487). -/
structure DelayedOp where
  slot : Nat
  instr : Instr
  pc : Nat
  lanes : List LaneAcc
  due : Nat
  seq : Nat := 0
  count : Nat := 0
  deriving DecidableEq, Repr, Inhabited

/-- A barrier arrival that has left the release buffer (R379). -/
structure Arrival where
  slot : Nat
  home : Nat
  obj : Nat
  n : Nat
  drop : Nat
  dest : Nat
  stamp : Nat
  deriving DecidableEq, Repr, Inhabited

/-- A ring in memory: base, size, head (R477). -/
structure Ring where
  base : Nat := 0
  size : Nat := 0
  head : Nat := 0
  deriving DecidableEq, Repr, Inhabited

/-- The debug window of a core (R477) and its trace FIFO (R489). -/
structure Debug where
  dbgctl : Nat := 0
  rings : AMap Ring := []
  btsync : Nat := 0
  psper : Nat := 0
  bpaddr : AMap Nat := []
  pf : AMap Nat := []
  dlyinj : Nat := 0
  prog : AMap Nat := []
  fifo : List Byte := []
  dropped : Nat := 0
  lastPacket : Nat := 0
  synced : AMap Nat := []
  sampleSlot : Nat := 0
  exited : AMap Nat := []
  deriving DecidableEq, Repr, Inhabited

/-- A core (R1, R222). -/
structure Core where
  slots : AMap Holder := []
  active : List Nat := []
  l1Banks : Nat := 0
  spmBanks : Nat := 0
  spm : Memory := []
  allocs : List TeamAlloc := []
  barriers : AMap Barrier := []
  l1 : AMap L1Line := []
  wbuf : AMap L1Line := []
  ccache : List (Nat × Nat) := []
  icache : List (Nat × Nat) := []
  tlb : List TlbEntry := []
  misses : List (Nat × Nat) := []
  bins : AMap Bin := []
  pieces : List Piece := []
  pieceHead : Nat := 0
  ranges : List (Nat × Nat × Nat) := []
  tbase : Nat := 0
  trapFrames : AMap Nat := []
  lclock : Nat := 0
  taster : List TasterEntry := []
  tasterSeq : Nat := 0
  floors : AMap Floors := []
  releases : List Release := []
  arrivals : List Arrival := []
  delayed : List DelayedOp := []
  frozenBins : Bool := false
  moving : AMap Nat := []
  pipesBusy : List Nat := []
  dbg : Debug := {}
  deriving DecidableEq, Repr, Inhabited

/-- An accumulator tile (R395), the entries outstanding on it, and the pass count and stamps of R483. -/
structure Tile where
  core : Nat
  slot : Nat
  name : Nat
  cols : Nat
  elems : AMap Nat := []
  flags : Nat := 0
  poison : Nat := 0
  payload : Nat := 0
  passes : Nat := 0
  count : Nat := 0
  stamps : AMap Nat := []
  orphan : Bool := false
  deriving DecidableEq, Repr, Inhabited

/-- A reservation-table entry (R227, R228): its key, its octets' active rows, the translated pieces (address, length,
attributes) of its B tile and B scale, staged A rows (little-endian values) and A scales, and the rows whose A scale a
peer still owes. -/
structure MatEntry where
  id : Nat
  core : Nat
  slot : Nat
  grid : Nat
  team : Nat
  tile : Nat
  asid : Nat
  b : Nat
  i : Nat
  fb : Nat
  prio : Nat
  born : Nat
  rows : Lanes
  bsegs : List (Nat × Nat × Nat)
  ssegs : List (Nat × Nat × Nat)
  sspm : Option (Nat × Nat) := none
  aRows : AMap Nat := []
  aScales : AMap Nat := []
  todo : List (Nat × Nat) := []
  zero : Bool
  staged : Bool := false
  poison : Nat := 0
  payload : Nat := 0
  deriving DecidableEq, Repr, Inhabited

/-- A pass in the fetch stage or the array (R402): its entries, the pieces still to be read, the bytes of the B tile and
B scale that have arrived, a poison or containment mark (R403). -/
structure Pass where
  entries : List Nat
  todo : List (Nat × Nat × Nat) := []
  got : List Byte := []
  asked : Bool := false
  started : Bool := false
  poison : Nat := 0
  payload : Nat := 0
  deriving DecidableEq, Repr, Inhabited

/-- Debug registers of an engine (R481): ESTOP, ESTAT, ER, SR, ECTL; `passed`: the named command may start, since ESTAT
has been written. -/
structure EngineDebug where
  estop : Nat := 0
  stopped : Bool := false
  passed : Bool := false
  er : Ring := {}
  sr : Ring := {}
  ectl : Nat := 0
  deriving DecidableEq, Repr, Inhabited

/-- A cluster: power (R101), fusion (R84), accumulator pool, reservation table, matrix engine stages, cluster TLB. -/
structure Cluster where
  powered : Bool := false
  fused : Bool := false
  tiles : AMap Tile := []
  nextTile : Nat := 0
  units : AMap Nat := []
  table : List MatEntry := []
  nextEntry : Nat := 0
  fetch : Option Pass := none
  array : Option Pass := none
  tlb : List TlbEntry := []
  eng : EngineDebug := {}
  deriving DecidableEq, Repr, Inhabited

/-- Directory state (R89). -/
inductive DirState where
  | i | s | x | o | n
  deriving DecidableEq, Repr, Inhabited

/-- A directory entry with the home Cupper's record of the interval (R152, R153), whether it is open, the distinct readers
it has seen, and the payload kept with a line in N (R172). -/
structure DirEntry where
  st : DirState := .i
  sharers : List Agent := []
  owner : Option Agent := none
  kind : Nat := 4
  holder : Nat := 0
  startDigest : Nat := 0
  startStamp : Nat := 0
  open_ : Bool := false
  seen : List Agent := []
  sectors : Nat := 0
  payload : Nat := 0
  deriving DecidableEq, Repr, Inhabited

/-- A checker's window (R175) and running sums toward each peer (R156). -/
structure Checker where
  closed : Nat := 0
  violations : Nat := 0
  last : Nat := 0
  ring : AMap Nat := []
  sentSum : AMap Nat := []
  recvSum : AMap Nat := []
  sentCnt : AMap Nat := []
  recvCnt : AMap Nat := []
  epochs : AMap Nat := []
  clock : Nat := 0
  deriving DecidableEq, Repr, Inhabited

/-- An epoch of a core's L1 Cupper and a home's, closed and not yet compared (R157): sum and count that each side sent and
the other received, the epoch number, the clock at the close, and the lines whose message to the L1 was on its way then and
carries the closing epoch's parity. -/
structure EpochClose where
  core : Nat
  home : Nat
  sent : Nat × Nat
  got : Nat × Nat
  back : Nat × Nat
  ret : Nat × Nat
  epoch : Nat
  at_ : Nat
  late : List Nat := []
  deriving DecidableEq, Repr, Inhabited

/-- A coherence message in flight for a busy line (R88, R90): to an L1, or a grant to the requester. -/
inductive Msg where
  | fwdS (to_ : Agent)
  | fwdX (to_ : Agent)
  | inv (to_ : Agent)
  | grant (to_ : Agent) (st : L1State) (data : Bool)
  deriving DecidableEq, Repr, Inhabited

/-- A busy line (R88): the messages still to be received and the requests that wait; the home's clock in each message it has
sent (R143), and the digest of a forward report, which the requester's acknowledgement is to confirm (R154). -/
structure Busy where
  msgs : List Msg
  queue : List Event := []
  stamps : List (Agent × Nat) := []
  report : Option Nat := none
  deriving DecidableEq, Repr, Inhabited

/-- A die: online state (R505-R508), home structures, TLB, checkers, injector and UNCLM; `links` are the dies to
which its links are trained and up (R14, R506). -/
structure Die where
  online : Bool := false
  failed : Bool := false
  powered : Bool := false
  resetting : Bool := false
  dir : AMap DirEntry := []
  msc : AMap Bool := []
  busy : AMap Busy := []
  tlb : List TlbEntry := []
  rangeTlb : List TlbEntry := []
  checkers : AMap Checker := []
  closes : List EpochClose := []
  quarantined : AMap Nat := []
  reread : List Nat := []
  unclm : Nat := 0
  eiline : Nat := 0
  eixor : Nat := 0
  eictl : Nat := 0
  links : List Nat := []
  eng : EngineDebug := {}
  teamRecords : List (Nat × Nat × Nat) := []
  step_ : Nat := 0
  deriving DecidableEq, Repr, Inhabited

/-- The operation behind a future (R242, R416). -/
inductive FutOp where
  | command (id : Nat)
  | grid (id : Nat)
  | inval (id : Nat)
  | flip (id : Nat)
  | none
  deriving DecidableEq, Repr, Inhabited

/-- A future: its operation, its status when complete, and the completion stamp of a command (R158). -/
structure Future where
  op : FutOp
  status : Option Nat := none
  stamp : Nat := 0
  deriving DecidableEq, Repr, Inhabited

/-- State of an engine command (R407-R409, R431). -/
inductive CmdState where
  | queued | running | suspended
  deriving DecidableEq, Repr, Inhabited

/-- What an engine command does, with its operands as read at issue (R246). -/
inductive CmdBody where
  | cpyt (src dst : Nat) (so do_ : List Int)
  | cpyl (src dst : Nat) (sspace dspace : Space) (len : Nat)
  | gath (src dst : Nat) (list n : Nat) (row : Int)
  | coll (buf : Nat) (ctl t0 n seq : Nat)
  deriving DecidableEq, Repr, Inhabited

/-- An engine command (R407), from a holder or from a COPY packet (R452). `off` counts the bytes of the prefix (R409),
`pos` the elements passed in the command's order; `got` is what has been read for the next bytes, `idx` the row index
of a gather, `asked` a request to a peer; `put` says that a collective's result stands in `got`. `gate` is the place
behind which a `fencex` of the slot holds the command back (R125), `cnt` the counter's address and attributes. `old` holds,
for each byte the command has written, what stood there before it (R409). A saved command waits for its restore. `hi` is the
highest stamp of its accesses, `floor` that of the commands it comes after (R128, R129, R158). -/
structure Command where
  body : CmdBody
  st : CmdState := .queued
  grid : Nat := 0
  team : Nat := 0
  member : Nat := 0
  queue : Nat := 0
  seq : Nat := 0
  asid : Nat := 0
  super : Bool := false
  core : Nat := 0
  slot : Nat := 0
  pc : Nat := 0
  depth : Nat := 1
  engine : Nat := 0
  gate : Nat := 0
  off : Nat := 0
  pos : Nat := 0
  got : Option (List Byte) := none
  idx : Option Nat := none
  asked : Bool := false
  put : Bool := false
  begun : Bool := false
  reported : Bool := false
  fut : Option Nat := none
  packet : Option Nat := none
  cnt : Option (Nat × Nat) := none
  deps : List Nat := []
  cancel : Bool := false
  fault : Option PendTrap := none
  told : Bool := false
  started : Nat := 0
  old : AMap Nat := []
  saved : Bool := false
  hi : Nat := 0
  floor : Nat := 0
  deriving DecidableEq, Repr, Inhabited

/-- A grid (R206-R221). The record is the 1,024-bit number of R206. `undealt` holds the ranges that dispatchers have,
`caps` the capacities last reported (R210), `acked` the packages that have acknowledged (R213), `sent` the ranges sent
to other packages, `pods` their reports (R216, R217, R221); `issuer` the core of its `glaunch`, `ran` the cores its teams reached (R131); `reports` the teams
completed and cancelled that a unit has still to report. `cancel` may be set before the grid is accepted (R219). -/
structure Grid where
  record : Nat
  number : Nat
  parent : Option (Nat × Nat) := none
  fut : Option Nat := none
  packet : Option Nat := none
  window : Bool := false
  accepted : Bool := false
  root : Nat := 0
  undealt : List (Node × Nat × Nat) := []
  caps : List (Node × Nat) := []
  sent : List (Nat × Nat × Nat) := []
  acked : List Nat := []
  pods : AMap TeamReport := []
  issuer : Option Nat := none
  ran : List Nat := []
  dispatched : Nat := 0
  completed : Nat := 0
  cancelled : Nat := 0
  dropped : Nat := 0
  reports : List (Node × Nat × Nat) := []
  faults : AMap Nat := []
  records : List (Nat × Nat × Nat) := []
  cancel : Bool := false
  failed : Bool := false
  done : Option Nat := none
  teams : AMap Nat := []
  teamStopped : List Nat := []
  queueLog : AMap (List Nat) := []
  qseq : AMap Nat := []
  qdeps : AMap (List Nat) := []
  collSeq : AMap Nat := []
  deriving DecidableEq, Repr, Inhabited

/-- An invalidation in flight (R64, R65); `blocks` are those of the TLB entries it removed (ASID, base, size). -/
structure Inval where
  asid : Nat
  all : Bool
  base : Nat
  len : Nat
  fut : Option Nat := none
  packet : Option Nat := none
  blocks : List (Nat × Nat × Nat) := []
  deriving DecidableEq, Repr, Inhabited

/-- A flip in flight (R72, R73); `snoops` are the lines whose back-invalidation the host has not answered, `leaves` the
entries of the range as its check found them, with their addresses. -/
structure Flip where
  asid : Nat
  base : Nat
  len : Nat
  host : Bool
  fut : Option Nat := none
  packet : Option Nat := none
  waiting : Bool := false
  snoops : Option (List Nat) := none
  blocks : List (Nat × Nat × Nat) := []
  leaves : List (TlbEntry × Nat) := []
  deriving DecidableEq, Repr, Inhabited

/-- A walk held by a flip, or restarted by an invalidation (R61, R67, R73): the core that waits (256 for another), the die
whose context it takes, and whether it joined a walk of its page. -/
structure WalkCtx where
  core : Nat
  asid : Nat
  page : Nat
  parked : Bool := false
  die : Nat := 8
  joined : Bool := false
  deriving DecidableEq, Repr, Inhabited

/-- A launch-window slot register LWSLOT (R440). -/
structure LwSlot where
  grid : Nat := 0
  pending : Bool := false
  lastSeal : Nat := 0
  expected : Nat := 1
  captured : Nat := 0
  deriving DecidableEq, Repr, Inhabited

/-- An intake port (R444, R445). -/
structure Port where
  inseq : Nat := 1
  fifo : List (Nat × Nat) := []
  overflow : Bool := false
  lost : Nat := 0
  firstLost : Nat := 0
  deriving DecidableEq, Repr, Inhabited

/-- A command queue (R447) and the Percolator's place in it (R452, R455). -/
structure CmdQueue where
  base : Nat := 0
  asid : Nat := 0
  size : Nat := 0
  head : Nat := 0
  tail : Nat := 0
  enable : Bool := false
  skipTo : List (Nat × Nat) := []
  seqs : List (Nat × Nat × Nat) := []
  deriving DecidableEq, Repr, Inhabited

/-- A journal entry (R456), with what the firmware keeps beside it: completion address, the queue's ASID, the packet, the
operands read before acceptance, the completion status and whether it is known, a cancel that has reached a LAUNCH not yet handed off, whether
memory has accepted the entry, the records a FEED has appended, and whether a change of state has still to be written (R18). -/
structure JEntry where
  result : Nat := 0
  finalTime : Nat := 0
  position : Nat := 0
  state : Nat := 1
  acceptTime : Nat := 0
  digest : Nat := 0
  sequence : Nat := 0
  type : Nat := 0
  queue : Nat := 0
  port : Nat := 0
  completion : Option Nat := none
  asid : Nat := 0
  body : Nat := 0
  extra : List Byte := []
  status : Nat := 0
  cancel : Bool := false
  ended : Bool := false
  accepted : Bool := false
  stepsDone : Nat := 0
  owed : Bool := false
  deriving DecidableEq, Repr, Inhabited

/-- A work queue (R229) with its sleepers (R230), oldest first. -/
structure WorkQueue where
  base : Nat := 0
  asid : Nat := 0
  size : Nat := 0
  record : Nat := 0
  head : Nat := 0
  tail : Nat := 0
  refused : Nat := 0
  enable : Bool := false
  sleepers : List WqArrival := []
  deriving DecidableEq, Repr, Inhabited

/-- A stream aperture (R463); a held write stands with the CXL port it came through. -/
structure Stream where
  target : Nat := 0
  span : Nat := 0
  expected : Nat := 0
  held : AMap (Nat × Nat) := []
  discarded : Nat := 0
  refused : Nat := 0
  gap : Nat := 0
  stalled : Bool := false
  enable : Bool := false
  gapSince : Option Nat := none
  deriving DecidableEq, Repr, Inhabited

/-- A storage port (R467). -/
structure Storage where
  dsb : Nat := 0
  ibbase : Nat := 0
  ibsize : Nat := 0
  ibtgt : Nat := 0
  cto : Nat := 0
  up : Bool := false
  rate : Nat := 0
  width : Nat := 0
  refused : Nat := 0
  deriving DecidableEq, Repr, Inhabited

/-- State of a peer slot (R37). -/
inductive SlotState where
  | empty | installing | active | draining
  deriving DecidableEq, Repr, Inhabited

/-- A peer slot (R37, R473). -/
structure PeerSlot where
  st : SlotState := .empty
  handle : Nat := 0
  status : Nat := 0
  inflight : Nat := 0
  deriving DecidableEq, Repr, Inhabited

/-- A snoop-filter entry (R98); `asked` is a RdShared or RdOwn that the host has not answered. -/
structure FilterEntry where
  host : Option L1State := none
  dir : DirEntry := {}
  interval : Nat := 0
  evicting : Bool := false
  asked : Option Bool := none
  deriving DecidableEq, Repr, Inhabited

/-- A message to a party outside the package (LOG 3). -/
inductive OutMsg where
  | storage (port bus size : Nat) (data : Option Nat)
  | peer (req : PeerReq) (owner : Nat)
  | peerAnswer (to_ : Nat) (tag : Nat) (r : PeerReply)
  | podLaunch (pkg : Nat) (record : Nat)
  | podRange (pkg grid lo hi : Nat)
  | podCancel (pkg grid : Nat)
  | podMirror (pkg grid : Nat) (undealt : List (Nat × Nat)) (sent : List (Nat × Nat × Nat))
  | installAsk (owner handle slot : Nat)
  | installAnswer (to_ slot status : Nat)
  | retry (port n : Nat)
  | replay (port n : Nat)
  | hostSnoop (line : Nat)
  | hostEvict (line : Nat) (data : Option (List Byte))
  | hostRequest (line : Nat) (own : Bool)
  | hostData (pa size : Nat) (v : Option Nat)
  | hostIo (port : Nat) (mem : Bool) (pa size : Nat) (data : Option Nat)
  | hostAtomic (r : AtomReq)
  | snoopAnswer (line code : Nat) (data : Option (List Byte))
  | pcie (port : Nat) (v : Option Nat)
  | semAnswer (port k v : Nat)
  | report (code a b : Nat)
  deriving DecidableEq, Repr, Inhabited

/-- A fabric port (R469, R470) with its logical clock (R144): `unacked` are the numbers of the flits that it keeps, `kept` what
they carry. -/
structure Link where
  up : Bool := false
  txSeq : Nat := 0
  rxExpect : Nat := 0
  unacked : List Nat := []
  kept : AMap OutMsg := []
  replays : Nat := 0
  clock : Nat := 0
  deriving DecidableEq, Repr, Inhabited

/-- An access of Drip on a core, or of the control die (unit 256), that is on its way to a peer or to the host (R35, R38), with
its answer, or the payload of the check that discarded it (R163). -/
structure Away where
  unit : Nat
  pa : Nat
  n : Nat
  data : Option Nat
  tag : Nat
  answer : Option PeerReply := none
  payload : Nat := 0
  deriving DecidableEq, Repr, Inhabited

/-- The control die's own state (R11); ATBASE and what else the spec gives no reset value are 0 at reset (DESIGN CHOICE, LOG 9); `orphans` are accesses to peers that nobody waits for any more: core or unit, slot,
address. -/
structure Control where
  atbase : Nat := 0
  ddrGiB : Nat := 0
  clockMHz : Nat := 1000
  savedMHz : Nat := 1000
  thermal : Bool := false
  bootState : Nat := 0
  bootStep : Nat := 0
  firmwareUp : Bool := false
  walkCache : List ((Nat × Nat × Nat) × Nat) := []
  walks : List WalkCtx := []
  walkQueue : List WalkCtx := []
  bias : List Nat := []
  invals : AMap Inval := []
  flips : AMap Flip := []
  heldHost : List PhysReq := []
  heldPeer : List PeerReq := []
  engineAsks : List (Nat × Nat × Nat) := []
  away : List Away := []
  orphans : List (Nat × Nat × Nat) := []
  filter : AMap FilterEntry := []
  decoders : List HostDecoder := []
  window : Memory := []
  lw : AMap LwSlot := []
  ports : AMap Port := []
  sems : AMap Nat := []
  queues : AMap CmdQueue := []
  events : AMap Nat := []
  journal : AMap JEntry := []
  jnext : Nat := 0
  jtail : Nat := 0
  taken : AMap Nat := []
  wqs : AMap WorkQueue := []
  wqArrivals : List WqArrival := []
  streams : AMap Stream := []
  storage : AMap Storage := []
  peers : AMap PeerSlot := []
  expbase : Nat := 0
  routing : AMap Nat := []
  podMap : AMap PodEntry := []
  podEpoch : Nat := 0
  heartbeats : AMap Nat := []
  links : AMap Link := []
  scraddr : Nat := 0
  scrdata : Nat := 0
  scrBusy : Bool := false
  scrRefused : Bool := false
  dl : Ring := {}
  dlSeen : AMap Nat := []
  dlCycle : Nat := 0
  saveBase : Option Nat := none
  haltDies : Nat := 0
  haltedCores : List Nat := []
  saved : List (Nat × Nat × Holder) := []
  savedCores : AMap Core := []
  savedTiles : AMap Cluster := []
  resetDie : Option (Nat × Nat × List Nat) := none
  bootFailed : Bool := false
  cxl : List Bool := []
  cxlClocks : AMap Nat := []
  reports : List Nat := []
  nextGridNo : Nat := 0
  roots : AMap Nat := []
  lclock : Nat := 0
  deriving DecidableEq, Repr, Inhabited

/-- The package. -/
structure State where
  clock : Nat := 0
  mem : Memory := []
  backing : AMap (List Byte) := []
  poison : List Nat := []
  intervals : AMap Nat := []
  cores : AMap Core := []
  clusters : AMap Cluster := []
  dies : AMap Die := []
  ctl : Control := {}
  grids : AMap Grid := []
  nextGrid : Nat := 0
  futures : AMap Future := []
  nextFuture : Nat := 0
  commands : AMap Command := []
  nextCommand : Nat := 0
  nextOp : Nat := 0
  agenda : List Event := []
  inputs : List Instr := []
  issue : List (Nat × Nat) := []
  cur : Option (Nat × Nat) := none
  turn : Nat := 0
  outbox : List OutMsg := []
  fresh : Nat := 0
  deriving DecidableEq, Repr, Inhabited

/-- Why a step stops with a fault. -/
inductive Fault where
  /-- raised by a step from outside that names an address which R23, R30, R31 or R33 reserves (HOST_ACCESS, UNCACHED_ACCESS,
  HOME_ATOMIC, REGISTER_WRITE, LAUNCH_WINDOW_SEAL); the spec gives such an access no effect. Safe: the package never receives it. -/
  | outsideMap
  deriving DecidableEq, Repr, Inhabited

/-- Why a step is refused. -/
inductive Refusal where
  /-- an arm of `exec` that has no meaning yet. Safe. -/
  | notModelled (mnemonic : String)
  /-- an instruction with no holder that issues it: no core of the machine is in such a state. Safe. -/
  | noHolder
  deriving DecidableEq, Repr, Inhabited

/-- The machine right after package cold reset (R17, R505): nothing online, no holder, every queue and cache empty. -/
def State.reset : State := {}

end Sys2Proof.Machine
end

