-- ==== Sys2Proof/Machine/Ops.lean ====
section
/-! DEFINITION. The named operations over a holder and its package: access to the parts of the state, scalar and
special registers, launch-record fields, blocking, taking a trap and returning from one (spec 09, 12 R302-R331,
16 R421-R430). -/

namespace Sys2Proof.Machine

/-- The outcome of a step. -/
abbrev Out := Host.Outcome State Fault Refusal

/-! ## Parts of the state -/

/-- Global core g. -/
def State.core (s : State) (g : Nat) : Core := AMap.getD s.cores g {}
/-- Replace a core. -/
def State.setCore (s : State) (g : Nat) (c : Core) : State := { s with cores := AMap.set s.cores g c }
/-- Change a core. -/
def State.updCore (s : State) (g : Nat) (f : Core → Core) : State := s.setCore g (f (s.core g))
/-- Global cluster x = die × 8 + cluster. -/
def State.cluster (s : State) (x : Nat) : Cluster := AMap.getD s.clusters x {}
/-- Change a cluster. -/
def State.updCluster (s : State) (x : Nat) (f : Cluster → Cluster) : State :=
  { s with clusters := AMap.set s.clusters x (f (s.cluster x)) }
/-- Die d, 8 for the control die. -/
def State.die (s : State) (d : Nat) : Die := AMap.getD s.dies d {}
/-- Change a die. -/
def State.updDie (s : State) (d : Nat) (f : Die → Die) : State := { s with dies := AMap.set s.dies d (f (s.die d)) }
/-- Change the control die's state. -/
def State.updCtl (s : State) (f : Control → Control) : State := { s with ctl := f s.ctl }
/-- Change a grid, if it exists. -/
def State.updGrid (s : State) (n : Nat) (f : Grid → Grid) : State :=
  match AMap.find? s.grids n with
  | none => s
  | some g => { s with grids := AMap.set s.grids n (f g) }
/-- The holder in a slot. -/
def State.holder? (s : State) (g q : Nat) : Option Holder := AMap.find? (s.core g).slots q
/-- Put a holder into its slot. -/
def State.putHolder (s : State) (g q : Nat) (h : Holder) : State :=
  s.updCore g (fun c => { c with slots := AMap.set c.slots q h })
/-- Add steps at the end of the agenda (LOG 2). -/
def State.push (s : State) (is : List Event) : State := { s with agenda := s.agenda ++ is }
/-- Send a message out of the package (LOG 3). -/
def State.send (s : State) (m : OutMsg) : State := { s with outbox := s.outbox ++ [m] }
/-- Consume one free value (LOG 10). -/
def State.useFresh (s : State) : State := { s with fresh := s.fresh + 1 }

/-- Whether a die is being pre-empted or is halted (R434). -/
def State.dieHalted (s : State) (d : Nat) : Bool := (s.ctl.haltDies / 2 ^ d) % 2 == 1

/-- Cluster of a core. -/
def cluOf (g : Nat) : Nat := g / 4
/-- Die of a core. -/
def dieOf (g : Nat) : Nat := g / 32

/-- Whether a core issues: no pre-emption stops it (R434). -/
def State.coreRuns (s : State) (g : Nat) : Bool := !s.dieHalted (dieOf g) && !s.ctl.haltedCores.contains g

/-- What an access waits for whose translation cannot go on: a walk that is held, or the core's memory port (R61, R62). -/
def State.walkWait (s : State) (g : Nat) : Wait := if 32 ≤ (s.core g).misses.length then .missPort else .translation

/-! ## Launch-record fields (R206) -/

/-- The record of a grid number of the model. -/
def State.grid (s : State) (n : Nat) : Grid := AMap.getD s.grids n { record := 0, number := 0 }

/-- Items per team T. -/
def recT (r : Nat) : Nat := field r 901 11 + 1
/-- Team count. -/
def recTeams (r : Nat) : Nat := field r 912 48 + 1
/-- Window W. -/
def recW (r : Nat) : Nat := 8 * (field r 896 5 + 1)
/-- Priority. -/
def recPrio (r : Nat) : Nat := field r 980 2
/-- ASID. -/
def recAsid (r : Nat) : Nat := field r 992 16
/-- Domain. -/
def recDomain (r : Nat) : Nat := field r 990 2
/-- Dies that may receive teams. -/
def recDieMask (r : Nat) : Nat := if field r 982 8 = 0 then 255 else field r 982 8
/-- Fused. -/
def recFused (r : Nat) : Bool := bitN r 979
/-- No compaction. -/
def recNoCompact (r : Nat) : Bool := bitN r 978
/-- Restartable. -/
def recRestart (r : Nat) : Bool := bitN r 977
/-- Bin timer in ck. -/
def recBinTimer (r : Nat) : Nat := if field r 960 16 = 0 then 2048 else field r 960 16
/-- L1 banks. -/
def recL1 (r : Nat) : Nat := 32 - 8 * field r 894 2
/-- Scratchpad banks. -/
def recSpm (r : Nat) : Nat := field r 889 5
/-- Team scratchpad in bytes. -/
def recTeamSpm (r : Nat) : Nat := 256 * field r 876 13
/-- Watchdog period in ck (R205). -/
def recWatchdog (r : Nat) : Nat := if field r 871 5 = 0 then 2 ^ 24 else 2 ^ field r 871 5
/-- Depth of the grid. -/
def recDepth (r : Nat) : Nat := field r 867 4 + 1
/-- Teams dealt for each unit of capacity. -/
def recGrain (r : Nat) : Nat := if field r 851 16 = 0 then max 1 (1536 / recT r) else field r 851 16
/-- Argument block size in bytes. -/
def recArgSize (r : Nat) : Nat := 64 * field r 837 11
/-- Entry. -/
def recEntry (r : Nat) : Nat := field r 776 56
/-- Argument block. -/
def recArgs (r : Nat) : Nat := field r 712 56
/-- Fault area. -/
def recFaultArea (r : Nat) : Nat := field r 648 56
/-- Completion record. -/
def recCompletion (r : Nat) : Nat := field r 584 56
/-- Spill base S. -/
def recSpillBase (r : Nat) : Nat := field r 520 56
/-- Spill area bytes of one slot. -/
def recSpillSize (r : Nat) : Nat := 65536 * field r 512 8
/-- Piece base P. -/
def recPieceBase (r : Nat) : Nat := field r 456 56
/-- Launch tag. -/
def recTag (r : Nat) : Nat := field r 384 64

/-- The launch record of a holder's grid. -/
def State.recOf (s : State) (h : Holder) : Nat := (s.grid h.grid).record

/-- Registers of a core under its split (R76). -/
def Core.regs (c : Core) : Nat := 8 * ((64 - c.l1Banks - c.spmBanks) * 65536 / 3072)

/-! ## Members (R176, R177) -/

/-- Linear index of lane L of a group. -/
def Holder.member (h : Holder) (t L : Nat) : Nat :=
  match h.kind with
  | .bin => h.team * t + h.items.getD L 0
  | _ => h.team * t + 96 * h.group + L

/-- Lane of a linear index (R177). -/
def laneOf (t m : Nat) : Nat := (m % t) % 96

/-! ## Scalar registers (R233-R235, R181, R425) -/

/-- Beat b of the mask, as a register. -/
def maskBeat (m : Lanes) (b : Nat) : Word := m.extractLsb' (32 * b) 32

/-- The mask with beat b replaced. -/
def setBeat (m : Lanes) (b : Nat) (v : Word) : Lanes :=
  (m &&& ~~~((BitVec.allOnes 32).setWidth 96 <<< (32 * b))) ||| (v.setWidth 96 <<< (32 * b))

/-- Read scalar register n: s61-s63 are the execute mask (R234), all ones in a range context (R181). -/
def Holder.readS (h : Holder) (n : Nat) : Word :=
  if n < 61 then AMap.getD h.sregs n 0#32
  else if h.kind = .range then 0xFFFFFFFF#32
  else maskBeat h.mask (n - 61)

/-- Write scalar register n. A write clears the register's future tag (R242). A mask write of a group sets the mask of
the current path (R235); in single-lane mode it is kept for `tret` (R425). -/
def Holder.writeS (h : Holder) (n : Nat) (v : Word) : Holder :=
  if n < 61 then
    { h with sregs := AMap.set h.sregs n v, tags := AMap.erase h.tags n, landed := h.landed.filter (· != n) }
  else if h.mode then { h with maskWrites := AMap.set h.maskWrites (n - 61) v }
  else { h with mask := setBeat h.mask (n - 61) v &&& h.path &&& h.live }

/-- Read the pair sN, sN+1 (R233). -/
def Holder.readS64 (h : Holder) (n : Nat) : DWord := (h.readS (n + 1)) ++ (h.readS n)

/-- Write the pair sN, sN+1 (R233). -/
def Holder.writeS64 (h : Holder) (n : Nat) (v : DWord) : Holder :=
  (h.writeS n (v.setWidth 32)).writeS (n + 1) ((v >>> 32).setWidth 32)

/-- Read a scalar operand of width w (R302). -/
def Holder.readW (h : Holder) (wide : Bool) (n : Nat) : Nat :=
  if wide then (h.readS64 n).toNat else (h.readS n).toNat

/-- Write a scalar operand of width w. -/
def Holder.writeW (h : Holder) (wide : Bool) (n v : Nat) : Holder :=
  if wide then h.writeS64 n (BitVec.ofNat 64 v) else h.writeS n (BitVec.ofNat 32 v)

/-! ## Issuing -/

/-- The holder whose turn it is to issue. -/
def withHolder (s : State) (k : Nat → Nat → Holder → Out) : Out :=
  match s.cur with
  | none => .refused .noHolder
  | some (g, q) =>
    match s.holder? g q with
    | none => .refused .noHolder
    | some h => k g q h

/-- One instruction has issued behind an open window: it uses one place of the window (R284). -/
def LongOp.tick (l : LongOp) : LongOp :=
  { l with window := l.window.map (fun n => n - 1), passed := true }

/-- After an instruction of the replay queue: the next entry, or the instruction at `%tpc`, which leaves out the lanes
of Done when it is the instruction of the frame (R428). -/
def Holder.nextReplay (h : Holder) : Holder :=
  match h.replayPC with
  | none => { h with replaying := none }
  | some back =>
    match h.replay.find? (fun e => e.sup == h.mode) with
    | some e => { h with pc := e.pc, replay := h.replay.erase e, replaying := some e.done }
    | none =>
      if h.mode then { h with pc := back, replaying := none, replayPC := none }
      else
        { h with
          pc := back
          replaying := if back = h.framePC ∧ h.frameDone ≠ 0#96 then some h.frameDone else none
          replayPC := none
          frameDone := 0#96 }

/-- Move a holder past an instruction of `size` bytes: the pc advances and open windows count it. An instruction
issued again by `tret` is followed as R428 gives; the first issue at `%tpc` is still to come (R478). -/
def Holder.advance (h : Holder) (size : Nat) : Holder :=
  let h1 := { h with
    pc := (h.pc + size) % 2 ^ 64, status := .ready, ll := h.ll.map LongOp.tick
    bpSkip := if h.replayPC.isSome then h.bpSkip else none }
  if h.replaying.isSome then h1.nextReplay else h1

/-- Move a holder to a target (R280, R309). -/
def Holder.jump (h : Holder) (pc : Nat) : Holder :=
  { h with pc := pc % 2 ^ 64, status := .ready, ll := h.ll.map LongOp.tick, bpSkip := none }

/-- PROG of a slot counts an issued instruction (R477). -/
def State.countIssue (s : State) (g q : Nat) : State :=
  s.updCore g (fun c => { c with dbg := { c.dbg with prog := AMap.upd c.dbg.prog q 0 (fun n => (n + 1) % 2 ^ 32) } })

/-- Put a holder back after an instruction that has issued, counted by PROG (R477). With single step on, the boundary
after it traps (R478). -/
def State.issued (s : State) (g q : Nat) (h : Holder) : State :=
  let ctl := (s.core g).dbg.dbgctl
  (s.putHolder g q { h with stepping := h.stepping || (bitN ctl 3 && bitN ctl (32 + q) && !h.mode) }).countIssue g q

/-- A holder waits at its instruction, which issues again later (LOG 13). -/
def State.block (s : State) (g q : Nat) (h : Holder) (w : Wait) : State :=
  s.putHolder g q { h with status := .blocked w }

/-! ## Traps (R421-R430) -/

/-- The cause word of R422. -/
def causeWord (t : PendTrap) (inHandler : Bool) : Nat :=
  (if inHandler then 2 ^ 25 else 0) + (if t.queued then 2 ^ 24 else 0) + (t.lane % 128) * 2 ^ 17
    + (if t.engine then 2 ^ 16 else 0) + (t.kind % 256) * 2 ^ 8 + t.cause % 256

/-- The lane a trap collapses to (R424): the faulting lane, else the lowest active, else the lowest live. In a range
context it is the lane of the member (R429). -/
def Holder.collapse (h : Holder) (T : Nat) (t : PendTrap) : Nat :=
  match h.kind with
  | .range => laneOf T (t.member.getD h.lo)
  | _ =>
    if t.lane < 96 then t.lane
    else (lowestLane (h.mask &&& h.live)).getD ((lowestLane h.live).getD 0)

/-- The trap frame of R427. -/
def frameWord (s : State) (g q : Nat) (h : Holder) (t : PendTrap) (inHandler : Bool) : Nat :=
  let T := recT (s.recOf h)
  let m := match h.kind with
    | .range => t.member.getD h.lo
    | _ => h.member T (h.collapse T t)
  causeWord t inHandler * 2 ^ 992 + (t.tval % 2 ^ 64) * 2 ^ 928 + (t.pc % 2 ^ 56) * 2 ^ 872
    + (m % T % 2 ^ 11) * 2 ^ 861 + (m / T % 2 ^ 48) * 2 ^ 813 + (q % 32) * 2 ^ 808 + (g % 256) * 2 ^ 800
    + Config.pkgId * 2 ^ 789 + (h.depth % 16) * 2 ^ 785 + (h.asid % 2 ^ 16) * 2 ^ 769
    + ((s.grid h.grid).number % 2 ^ 32) * 2 ^ 737 + (t.queue % 16) * 2 ^ 733 + (t.command % 2 ^ 32) * 2 ^ 701
    + (t.offset % 2 ^ 40) * 2 ^ 661 + (t.engineCode % 8) * 2 ^ 658 + t.done.toNat * 2 ^ 562 + t.payload % 2 ^ 384

/-- Insert a fault record into the four lowest (R217). -/
def insertRecord (r : Nat × Nat × Nat) : List (Nat × Nat × Nat) → List (Nat × Nat × Nat)
  | [] => [r]
  | x :: xs =>
    if r.1 < x.1 ∨ (r.1 = x.1 ∧ r.2.1 < x.2.1) then r :: x :: xs else x :: insertRecord r xs

/-- Count a fault for the grid (R217): the saturating count of its cause, and the four records of lowest index. -/
def State.countFault (s : State) (grid cause idx core frame : Nat) : State :=
  s.updGrid grid (fun gr =>
    { gr with
      faults := AMap.upd gr.faults cause 0 (fun n => min (n + 1) 0xFFFFFFFF)
      records := (insertRecord (idx, core, frame) gr.records).take 4 })

/-- Escalate a trap as `tesc` does (R328): the frame goes to the recovery firmware, the fault is counted, the holder
awaits a disposition. -/
def State.escalate (s : State) (g q : Nat) (h : Holder) (frame : Nat) : State :=
  let T := recT (s.recOf h)
  ((s.putHolder g q { h with status := .awaiting }).countFault h.grid (field frame 992 8)
      (field frame 813 48 * T + field frame 861 11) g frame).updCtl
    (fun c => { c with reports := c.reports ++ [frame] })

/-- The branch trace writes a SYNC at the slot's next issue (R489). -/
def State.unsync (s : State) (g q : Nat) : State :=
  s.updCore g (fun c => { c with dbg := { c.dbg with synced := AMap.erase c.dbg.synced q } })

/-- TAKING A TRAP (R424-R427). In user mode with a handler installed: `%tcause`, `%tval`, `%tpc` and the frame are
set, the group collapses to one lane, `%mode` becomes 1 and the handler runs from `%tbase`. With `%tbase` 0 the trap is
escalated at once (R424); in supervisor mode too, the frame of the trap being handled kept beside it (R426). -/
def State.enterTrap (s : State) (g q : Nat) (h : Holder) (t : PendTrap) : State :=
  let T := recT (s.recOf h)
  let frame := frameWord s g q h t h.mode
  if h.mode then s.escalate g q { h with escFrame := frame } frame
  else
    let h1 := { h with
      tcause := causeWord t false
      tval := t.tval % 2 ^ 64
      tpc := t.tpc % 2 ^ 64
      trapFrame := frame
      framePC := t.pc
      frameDone := t.done
      trapLane := h.collapse T t
      watchdog := if t.cause = 9 then 0 else h.watchdog
      bpSkip := none }
    let s1 := s.updCore g (fun c => { c with trapFrames := AMap.set c.trapFrames q frame })
    if (s1.core g).tbase = 0 then s1.escalate g q h1 frame
    else (s1.unsync g q).putHolder g q { h1 with mode := true, pc := (s1.core g).tbase, status := .ready }

/-- Whether every open window has closed and every earlier access has performed, as the fence of trap entry asks
(R126, R287, R424). -/
def trapReady (s : State) (g q : Nat) (h : Holder) : Bool :=
  h.ll.isEmpty && h.ext.isEmpty && h.writers.isEmpty && !(s.core g).releases.any (fun r => r.slot == q)
    && !(s.core g).delayed.any (fun d => d.slot == q)

/-- Mask writes kept in single-lane mode take effect under R235; a range context keeps them for its groups (R181). -/
def Holder.applyMaskWrites (h : Holder) : Holder :=
  let m := h.maskWrites.foldl (fun m p => setBeat m p.1 p.2) h.mask
  if h.kind = .range then h
  else { h with mask := if h.maskWrites.isEmpty then h.mask else m &&& h.path &&& h.live, maskWrites := [] }

/-- RETURNING FROM A TRAP (R428): single-lane mode ends and the group resumes at `%tpc`; entries of the replay queue
are issued again first, each in its lanes that did not perform; an instruction at the frame's PC is issued again with
the lanes of Done inactive. No breakpoint fires at the first issue there (R478). -/
def Holder.leaveTrap (h : Holder) : Holder :=
  let h1 := { h with mode := false, status := .ready }.applyMaskWrites
  { h1 with
    replayPC := some (h1.tpc / 8 * 8)
    bpSkip := some (h1.tpc / 8 * 8) }.nextReplay

/-- Lanes that an instruction issued again leaves out (R428). -/
def Holder.skipLanes (h : Holder) : Lanes := h.replaying.getD 0#96

end Sys2Proof.Machine
end

