-- ==== Sys2Proof/Machine/Flags.lean ====
section
/-! DEFINITION. The sticky flags `%fflags` (spec 09 R243, R244; 10 R256): which operation sets which flag stands with
the arithmetic of Float.lean; here they are gathered over elements and lanes and enter the holder. Integer operations
set none (R251). -/

namespace Sys2Proof.Machine

/-- OR flags into `%fflags`; bits 31:5 read 0 (R243, R256). -/
def Holder.raiseFlags (h : Holder) (fl : Nat) : Holder := { h with fflags := (h.fflags ||| fl) % 32 }

/-- Flags of several elements or lanes (R250, R256). -/
def orFlags : List Nat → Nat
  | [] => 0
  | f :: fs => f ||| orFlags fs

end Sys2Proof.Machine
end

