-- ==== Sys2Proof/Machine/Translate.lean ====
section
/-! DEFINITION. The device physical map, the checks of page-table entries, TLBs and their sweep (spec 02 R21-R38, 03 R45-R75).
The walk itself, which reads at homes, is in Walk.lean. -/

namespace Sys2Proof.Machine

/-- Regions of the device physical map (R23, R30, R33). -/
inductive Region where
  | hbm | ddr | reg | storage | window | stream | host | peer | reserved
  deriving DecidableEq, Repr, Inhabited

/-- First byte of register space. -/
def regBase : Nat := 0x080000000000
/-- First byte of the launch window. -/
def windowBase : Nat := 0x100000000000
/-- First byte of the stream apertures. -/
def streamBase : Nat := 0x100001000000
/-- First byte of the DDR tier. -/
def ddrBase : Nat := 0x040000000000
/-- Bytes of the DDR tier that R12 leaves populated. -/
def State.ddrBytes (s : State) : Nat := s.ctl.ddrGiB * 2 ^ 30
/-- Base of the journal ring (R25, R26, R456). -/
def State.jbase (s : State) : Nat :=
  if s.ctl.ddrGiB = 0 then 0x000FFC000000 else ddrBase + s.ddrBytes - 2 ^ 26

/-- The region of a physical address, the journal and the unpopulated tier reserved (R23-R26). -/
def regionOf (s : State) (pa : Nat) : Region :=
  if pa < 2 ^ 40 then
    if s.ctl.ddrGiB = 0 ∧ 0x000FFC000000 ≤ pa ∧ pa < 0x001000000000 then .reserved else .hbm
  else if pa < ddrBase then .reserved
  else if pa < regBase then
    if pa < ddrBase + (s.ddrBytes - 2 ^ 26) then .ddr else .reserved
  else if pa < 0x081000000000 then
    let o := pa - regBase
    if o < 0x240000000 then .reg else if o < 0x800000000 then .reserved else .storage
  else if pa < windowBase then .reserved
  else if pa < windowBase + 0x2000 then .window
  else if pa < streamBase then .reserved
  else if pa < streamBase + 0x10000000 then .stream
  else if pa < 0x8000000000000 then .reserved
  else if pa < 0xC000000000000 then .host
  else if pa < 2 ^ 52 then .peer
  else .reserved

/-- Whether every frame of [pa, pa + size) lies in one region that is not reserved. The regions are intervals, so the
two ends and the journal hole of stack 0 decide. -/
def spanOk (s : State) (pa size : Nat) : Bool :=
  regionOf s pa != .reserved && regionOf s pa == regionOf s (pa + size - 1)
    && !(s.ctl.ddrGiB == 0 && decide (pa < 0x001000000000) && decide (0x000FFC000000 < pa + size))

/-- Whether a table may stand at a physical address (R45, R48). -/
def tableOk (s : State) (pa : Nat) : Bool :=
  match regionOf s pa with
  | .hbm | .ddr | .host => true
  | _ => false

/-- Memory type of an entry (R27, R47). -/
def pteType (e : Nat) : Nat := field e 7 2
/-- Ownership bit of an entry. -/
def pteO (e : Nat) : Bool := bitN e 9

/-- Type and ownership a region accepts (R28). -/
def typeOk (r : Region) (ty : Nat) (host : Bool) : Bool :=
  match r with
  | .hbm | .ddr => ty < 2
  | .reg | .storage => ty == 2 && !host
  | .window | .stream => ty == 0 && !host
  | .host => ty < 2 && host
  | .peer => ty < 2 && !host
  | .reserved => false

/-- Whether a host decoder claims a physical address of the host region (R35). -/
def decoderOk (s : State) (pa : Nat) : Bool :=
  let hpa := pa - 0x8000000000000
  s.ctl.decoders.any (fun d => decide (d.base ≤ hpa) && decide (hpa < d.base + d.size))

/-- The checks of a leaf or range entry, in the order of R51; the result is the TLB entry, or the fault kind of R54. Step
6 holds the address of the byte accessed against the host decoders (DESIGN CHOICE, LOG 15). -/
def finishEntry (s : State) (asid e lvl va : Nat) : Except Nat TlbEntry :=
  let isRange := field e 0 2 == 3
  if (!isRange && lvl ≥ 3) || (isRange && (lvl == 0 || lvl == 4)) then .error 4
  else if (isRange || lvl > 0) && bitN e 2 then .error 4
  else if isRange && field e 12 4 != 0 then .error 3
  else
    let sz := field e 16 5 + 21
    if isRange && !(if lvl == 1 then sz < 30 else if lvl == 2 then 30 ≤ sz && sz < 39 else 39 ≤ sz && sz ≤ 44) then
      .error 4
    else
      let bits := if isRange then sz else if lvl == 0 then (if bitN e 2 then 16 else 12) else 12 + 9 * lvl
      let size := 2 ^ bits
      let frame := if isRange then field e 21 31 * 2 ^ 21 else field e 12 40 * 4096
      if !isRange && frame % size != 0 then .error 5
      else if !spanOk s frame size then .error 6
      else if pteType e == 3 then .error 7
      else if !typeOk (regionOf s frame) (pteType e) (pteO e) then .error 8
      else if regionOf s frame == .host && !decoderOk s (frame + va % size) then .error 9
      else if (field e 53 11 != 0 && regionOf s frame != .peer) || bitN e 52 || (bitN e 4 && !bitN e 3) then .error 3
      else
        .ok { asid := asid, va := va - va % size, size := size, pa := frame, attr := e % 4096,
              peer := field e 53 11, range := isRange }

/-- Walk from a table down (R51). Answers the TLB entry and the physical address of the leaf or range entry. -/
def walkFrom (s : State) (asid va : Nat) : Nat → Nat → Except Nat (TlbEntry × Nat)
  | 0, _ => .error 4
  | n + 1, t =>
    let lvl := n
    let width := if lvl = 4 then 8 else 9
    let ea := t + 8 * field va (12 + 9 * lvl) width
    let e := Memory.readLE s.mem ea 8
    if field e 0 2 = 0 then .error 2
    else if field e 0 2 ≠ 1 then (finishEntry s asid e lvl va).map (fun r => (r, ea))
    else if lvl = 0 then .error 4
    else if field e 52 12 ≠ 0 ∨ field e 2 10 ≠ 0 then .error 3
    else
      let t' := field e 12 40 * 4096
      if tableOk s t' then walkFrom s asid va n t' else .error 10

/-- A walk of R51, or its fault kind (R54). Only ATBASE's first byte is held against the map (DESIGN CHOICE, LOG 17). -/
def walkTables (s : State) (asid va : Nat) : Except Nat (TlbEntry × Nat) :=
  if !tableOk s s.ctl.atbase then .error 10
  else
    let c := Memory.readLE s.mem (s.ctl.atbase + 8 * asid) 8
    if !bitN c 0 then .error 2
    else if field c 52 12 ≠ 0 ∨ field c 1 11 ≠ 0 then .error 3
    else
      let t := field c 12 40 * 4096
      if tableOk s t then walkFrom s asid va 5 t else .error 10

/-- Level at which a leaf or range of a size stands (R46). -/
def leafLevel (size : Nat) : Nat :=
  if size < 2 ^ 21 then 0 else if size < 2 ^ 30 then 1 else if size < 2 ^ 39 then 2 else 3

/-- Whether a TLB entry covers an address of an ASID. -/
def TlbEntry.covers (e : TlbEntry) (asid va : Nat) : Bool :=
  e.asid == asid && decide (e.va ≤ va) && decide (va < e.va + e.size)

/-- Physical address of a covered virtual address. -/
def TlbEntry.phys (e : TlbEntry) (va : Nat) : Nat := e.pa + (va - e.va)

/-- The fragment of a range entry that a core or cluster TLB holds (R58). -/
def TlbEntry.fragment (e : TlbEntry) (va : Nat) : TlbEntry :=
  if !e.range then e
  else
    let g := va - va % 2 ^ 30
    let m := va - va % 2 ^ 21
    if 2 ^ 30 ≤ e.size ∧ (e.pa + (g - e.va)) % 2 ^ 30 = 0 then
      { e with va := g, size := 2 ^ 30, pa := e.pa + (g - e.va), range := false }
    else { e with va := m, size := 2 ^ 21, pa := e.pa + (m - e.va), range := false }

/-- Put an entry into a TLB of a given capacity; a full one gives up the entry the implementation chooses (R57). -/
def tlbInstall (tlb : List TlbEntry) (cap fresh : Nat) (e : TlbEntry) : List TlbEntry :=
  let rest := tlb.filter (fun x => !(x.asid == e.asid && x.va == e.va && x.size == e.size))
  e :: (if rest.length < cap then rest else rest.eraseIdx (Config.victim fresh % cap))

/-- Where a translation is asked for: the TLBs on the requester's path (R57, R61). -/
inductive Requester where
  | core (g : Nat)
  | clu (x : Nat)
  | die (d : Nat)
  | ctl
  deriving DecidableEq, Repr, Inhabited

/-- Core, cluster and die of a requester. -/
def Requester.path : Requester → Option Nat × Option Nat × Option Nat
  | .core g => (some g, some (cluOf g), some (dieOf g))
  | .clu x => (none, some x, some (x / 8))
  | .die d => (none, none, some d)
  | .ctl => (none, none, none)

/-- Install in the core TLB and the cluster TLB of a path, the fragment of a range entry (R57, R58). -/
def State.installBelow (s : State) (c x : Option Nat) (e : TlbEntry) (va : Nat) : State :=
  let f := s.fresh
  let s2 := match x with
    | none => s
    | some x => s.updCluster x (fun y => { y with tlb := tlbInstall y.tlb 2048 f (e.fragment va) })
  let s3 := match c with
    | none => s2
    | some g => s2.updCore g (fun y => { y with tlb := tlbInstall y.tlb 256 (f + 1) (e.fragment va) })
  { s3 with fresh := s3.fresh + 2 }

/-- Install in the die TLB, which keeps range entries in a store of their own, and in every level below (R57). -/
def State.installTlb (s : State) (r : Requester) (e : TlbEntry) (va : Nat) : State :=
  let (c, x, d) := r.path
  let s1 := match d with
    | none => s
    | some d => s.useFresh.updDie d (fun y =>
        if e.range then { y with rangeTlb := tlbInstall y.rangeTlb 64 s.fresh e } else { y with tlb := tlbInstall y.tlb 16384 s.fresh e })
  s1.installBelow c x e va

/-- The entry of a TLB that covers an address. -/
def tlbFind (t : List TlbEntry) (asid va : Nat) : Option TlbEntry := t.find? (fun e => e.covers asid va)

/-- Look an address up in a die TLB: page entries, then range entries. -/
def Die.tlbFind (d : Die) (asid va : Nat) : Option TlbEntry :=
  (Machine.tlbFind d.tlb asid va).orElse fun _ => Machine.tlbFind d.rangeTlb asid va

/-- Look an address up: core, then cluster, then die TLB (R57). -/
def State.tlbLookup (s : State) (r : Requester) (asid va : Nat) : Option TlbEntry :=
  let (c, x, d) := r.path
  (c.bind (fun g => tlbFind (s.core g).tlb asid va)).orElse fun _ =>
    (x.bind (fun x => tlbFind (s.cluster x).tlb asid va)).orElse fun _ => d.bind (fun d => (s.die d).tlbFind asid va)

/-- A lookup that a memory access makes: a translation found at one level enters every lower level of the path (R57). -/
def State.tlbHit (s : State) (r : Requester) (asid va : Nat) : Option (TlbEntry × State) :=
  let (c, x, d) := r.path
  match c.bind (fun g => tlbFind (s.core g).tlb asid va) with
  | some e => some (e, s)
  | none =>
    match x.bind (fun x => tlbFind (s.cluster x).tlb asid va) with
    | some e => some (e, s.installBelow c none e va)
    | none => (d.bind (fun d => (s.die d).tlbFind asid va)).map (fun e => (e, s.installBelow c x e va))

/-- Whether a range of an invalidation or flip meets a block. -/
def meets (base len va size : Nat) : Bool := decide (base < va + size) && decide (va < base + len)

/-- Whether a walk for (ASID, page) is held by a flip (R73, step 1). -/
def State.flipHolds (s : State) (asid va : Nat) : Bool :=
  s.ctl.flips.any (fun p => !p.2.waiting && p.2.asid == asid && decide (p.2.base ≤ va) && decide (va < p.2.base + p.2.len))

/-- Remove the translations of an ASID that overlap a range, at every level (R65). -/
def dropTlb (all : Bool) (asid base len : Nat) (t : List TlbEntry) : List TlbEntry :=
  t.filter (fun e => !((all || e.asid == asid) && meets base len e.va e.size))

/-- The sweep of an invalidation: every TLB, and the code and constant lines of removed pages (R65). -/
def State.sweep (s : State) (all : Bool) (asid base len : Nat) : State :=
  { s with
    cores := s.cores.map (fun p => (p.1, { p.2 with
      tlb := dropTlb all asid base len p.2.tlb, icache := [], ccache := [] }))
    clusters := s.clusters.map (fun p => (p.1, { p.2 with tlb := dropTlb all asid base len p.2.tlb }))
    dies := s.dies.map (fun p => (p.1, { p.2 with
      tlb := dropTlb all asid base len p.2.tlb, rangeTlb := dropTlb all asid base len p.2.rangeTlb }))
    ctl := { s.ctl with walkCache := s.ctl.walkCache.filter (fun e => !(all || e.1.1 == asid)) } }

/-- The blocks of the TLB entries that a sweep removes (ASID, base, size): a large entry goes whole (R65). -/
def State.sweptBlocks (s : State) (all : Bool) (asid base len : Nat) : List (Nat × Nat × Nat) :=
  let gone := fun (t : List TlbEntry) =>
    (t.filter (fun e => (all || e.asid == asid) && meets base len e.va e.size)).map (fun e => (e.asid, e.va, e.size))
  (s.cores.flatMap (fun p => gone p.2.tlb) ++ s.clusters.flatMap (fun p => gone p.2.tlb)
    ++ s.dies.flatMap (fun p => gone p.2.tlb ++ gone p.2.rangeTlb)).eraseDups

/-- Widen a range outward to 4 KiB and clip it at 2^56 (R64): base and length. -/
def widen (base len : Nat) : Nat × Nat :=
  if len = 0 then (base, 0)
  else
    let lo := base - base % 4096
    let hi := min ((base + len + 4095) / 4096 * 4096) (2 ^ 56)
    (lo, hi - lo)

end Sys2Proof.Machine
end

