-- ==== Sys2Proof/Machine/Lines.lean ====
section
/-! DEFINITION. Lines, their homes and the identities of agents and checkers (spec 02 R24, R25, R34, 04 R83-R85, 06 R165,
R166), line digests (06 R150), logical clocks and their comparison (06 R143-R145). -/

namespace Sys2Proof.Machine

/-! ## Lines, homes, identities -/

/-- Home die of a physical address (R24, R25, R34); none for host, peer and register space. -/
def homeDie (s : State) (pa : Nat) : Option Nat :=
  match regionOf s pa with
  | .hbm => some (field pa 37 3)
  | .ddr | .window | .stream => some 8
  | .reserved => if pa < 2 ^ 40 then some 0 else if ddrBase ≤ pa ∧ pa < regBase then some 8 else none
  | _ => none

/-- Home die of a line; the control die for a line that no die is home to. -/
def State.lineDie (s : State) (line : Nat) : Nat := (homeDie s (line * 128)).getD 8

/-- Home slice on the die (R24, R25, R34). -/
def homeSlice (pa : Nat) : Nat :=
  if pa < 2 ^ 40 then field pa 7 4 ^^^ field pa 11 4 else field pa 7 3 ^^^ field pa 10 3

/-- Whether a line is tracked by the snoop filter: host memory, or host bias (R28, R98). -/
def isHostLine (s : State) (line : Nat) : Bool :=
  match regionOf s (line * 128) with
  | .host => true
  | .hbm | .ddr => s.ctl.bias.contains (line / 32)
  | _ => false

/-- Whether a line lies in the intake region, whose bytes the control die holds with no memory behind them (R34). -/
def isIntakeLine (s : State) (line : Nat) : Bool :=
  match regionOf s (line * 128) with
  | .window | .stream => true
  | _ => false

/-- L1 side of core g: its own L1, or its fused cluster (R85). -/
def State.l1Agent (s : State) (g : Nat) : Agent :=
  if (s.cluster (cluOf g)).fused then .fused (cluOf g) else .core g

/-- The core whose L1 banks hold a line for an agent (R83). -/
def l1Core (a : Agent) (line : Nat) : Option Nat :=
  match a with
  | .core g => some g
  | .fused x => some (4 * x + (field (line * 128) 7 2 ^^^ field (line * 128) 19 2))
  | _ => none

/-- Holder identity of R166. -/
def agentId : Agent → Nat
  | .core g => (g / 32) * 2 ^ 7 + (g / 4 % 8) * 2 ^ 4 + (g % 4) * 2 ^ 2
  | .fused x => (x / 8) * 2 ^ 7 + (x % 8) * 2 ^ 4 + 1
  | .copyEngine x => (x / 8) * 2 ^ 7 + (x % 8) * 2 ^ 4 + 2
  | .collEngine d => d * 2 ^ 7 + 4 + 2
  | .matrix x => (x / 8) * 2 ^ 7 + (x % 8) * 2 ^ 4 + 2
  | .host p => 8 * 2 ^ 7 + p % 4 * 2 ^ 4 + 3
  | .stream _ p => 8 * 2 ^ 7 + p % 4 * 2 ^ 4 + 3
  | .storage n => 8 * 2 ^ 7 + (4 + n % 2) * 2 ^ 4 + 3
  | .peer _ => 8 * 2 ^ 7 + 6 * 2 ^ 4 + 3
  | .firmware => 8 * 2 ^ 7 + 2

/-- The identity field of a party that is no holder (R168). -/
def noHolderId : Nat := 0x7FF

/-- Checker identity of R165. -/
def checkerId (die type index : Nat) : Nat := die * 2 ^ 12 + type * 2 ^ 9 + index

/-- Die and key of the home-side Cupper of a line: the home slice's, or the snoop filter's. -/
def homeChecker (s : State) (line : Nat) : Nat × Nat × Nat :=
  if isHostLine s line then (8, 6, 0)
  else (s.lineDie line, 2, homeSlice (line * 128))

/-- The memory controller's Cupper of a line (R24, R25, R165). -/
def controllerChecker (s : State) (line : Nat) : Nat × Nat × Nat :=
  match homeDie s (line * 128) with
  | some 8 => (8, 4, field (line * 128) 8 4)
  | some d => (d, 3, field (line * 128) 36 1)
  | none => homeChecker s line

/-- The L1 Cupper beside core g. -/
def l1Checker (g : Nat) : Nat × Nat × Nat := (dieOf g, 1, g % 32)

/-- Checker x of a die (R175). -/
def Die.checker (d : Die) (type index : Nat) : Checker := AMap.getD d.checkers (type * 512 + index) {}

/-- Change a checker. -/
def State.updChecker (s : State) (die type index : Nat) (f : Checker → Checker) : State :=
  s.updDie die (fun d => { d with checkers := AMap.upd d.checkers (type * 512 + index) {} f })

/-! ## Digests (R150, R151) -/

/-- Word i of a line, rotated left by 4i (R150). -/
def digestWords (m : Memory) (pa : Nat) : Nat → Nat
  | 0 => 0
  | i + 1 => rotlN (Memory.readLE m (pa + 8 * i) 8) (4 * i) 64 ^^^ digestWords m pa i

/-- The digest of a line (R150). -/
def digestLine (m : Memory) (line : Nat) : Nat := digestWords m (line * 128) 16

/-- The digest of a line's current bytes; the launch window is held at its home (R34). -/
def State.digestOf (s : State) (line : Nat) : Nat :=
  match regionOf s (line * 128) with
  | .window => digestWords s.ctl.window (line * 128 - windowBase) 16
  | _ => digestLine s.mem line

/-- The digest of a 1,024-bit number (R150). -/
def digestNat (x : Nat) : Nat :=
  (List.range 16).foldl (fun d i => d ^^^ rotlN (field x (64 * i) 64) (4 * i) 64) 0

/-- Digest of a partial transfer to a line: its bytes at their offsets, zero elsewhere (R151). -/
def imageDigest (pa : Nat) (bs : List Byte) (line : Nat) : Nat :=
  digestNat (leValue ((List.range 128).map (fun k =>
    if pa ≤ line * 128 + k then bs.getD (line * 128 + k - pa) 0#8 else 0#8)))

/-! ## Logical clocks (R143-R145) -/

/-- a > b by serial arithmetic (R145). -/
def serialGt (a b : Nat) : Bool :=
  let d := (a + 2 ^ 48 - b % 2 ^ 48) % 2 ^ 48
  decide (1 ≤ d) && decide (d < 2 ^ 47)

/-- The later of two stamps (R145). -/
def serialMax (a b : Nat) : Nat := if serialGt b a then b else a

/-- The earlier of two stamps (R145). -/
def serialMin (a b : Nat) : Nat := if serialGt a b then b else a

/-- A clock after one event of its unit. -/
def clockNext (own : Nat) : Nat := (own + 1) % 2 ^ 48

/-- A unit receives a message: its clock passes both (R143). -/
def clockMax (own carried : Nat) : Nat := clockNext (serialMax own carried)

/-- A unit with a logical clock (R143): a core with its L1 (LOG 33); a home slice, the snoop filter, a memory controller or an
engine, each named by the checker beside it; a CXL home agent; a fabric port. -/
inductive Clocked where
  | core (g : Nat)
  | checker (die type index : Nat)
  | cxl (port : Nat)
  | fabric (port : Nat)
  deriving DecidableEq, Repr, Inhabited

/-- The clock of a unit. -/
def State.clockOf (s : State) : Clocked → Nat
  | .core g => (s.core g).lclock
  | .checker d ty ix => ((s.die d).checker ty ix).clock
  | .cxl p => AMap.getD s.ctl.cxlClocks p 0
  | .fabric p => (AMap.getD s.ctl.links p {}).clock

/-- Set the clock of a unit. -/
def State.setClock (s : State) (u : Clocked) (t : Nat) : State :=
  match u with
  | .core g => s.updCore g (fun c => { c with lclock := t })
  | .checker d ty ix => s.updChecker d ty ix (fun c => { c with clock := t })
  | .cxl p => s.updCtl (fun c => { c with cxlClocks := AMap.set c.cxlClocks p t })
  | .fabric p => s.updCtl (fun c => { c with links := AMap.upd c.links p {} (fun l => { l with clock := t }) })

/-- A send, or one perform, of a unit. -/
def State.tick (s : State) (u : Clocked) : State := s.setClock u (clockNext (s.clockOf u))

/-- A unit receives a message that carries a clock. -/
def State.hears (s : State) (u : Clocked) (t : Nat) : State := s.setClock u (clockMax (s.clockOf u) t)

/-- A message from one unit to another (R143). -/
def State.carry (s : State) (a b : Clocked) : State :=
  if a = b then s else (s.tick a).hears b (clockNext (s.clockOf a))

/-- A unit performs n sector accesses: the first and the last stamp (R143, R144). -/
def State.perform (s : State) (u : Clocked) (n : Nat) : State × Nat × Nat :=
  let t := s.clockOf u
  (s.setClock u ((t + max 1 n) % 2 ^ 48), clockNext t, (t + max 1 n) % 2 ^ 48)

/-- The home of a line as a unit. -/
def homeUnit (s : State) (line : Nat) : Clocked :=
  let (d, ty, ix) := homeChecker s line
  .checker d ty ix

/-- The memory controller of a line as a unit. -/
def controllerUnit (s : State) (line : Nat) : Clocked :=
  let (d, ty, ix) := controllerChecker s line
  .checker d ty ix

/-- The clock that an agent's messages carry; none where the agent keeps none in this package (LOG 33). A matrix engine's is
that of its cluster's copy engine. -/
def agentUnit (a : Agent) (line : Nat) : Option Clocked :=
  match a with
  | .core _ | .fused _ => (l1Core a line).map Clocked.core
  | .copyEngine x | .matrix x => some (.checker (x / 8) 5 (x % 8))
  | .collEngine d => some (.checker d 5 8)
  | .host p | .stream _ p => some (.cxl (p % 4))
  | .storage _ | .peer _ | .firmware => none

/-- Sectors that [pa, pa+n) touches. -/
def sectorCount (pa n : Nat) : Nat := if n = 0 then 0 else (pa + n - 1) / 32 - pa / 32 + 1

/-- The home of a line performs n sector accesses for a unit whose request it has, and answers it (R143, R144). -/
def State.homeStamp (s : State) (line : Nat) (u : Option Clocked) (n : Nat) : State × Nat × Nat :=
  let h := homeUnit s line
  let s1 := match u with
    | some u => s.carry u h
    | none => s
  let (s2, lo, hi) := s1.perform h n
  (match u with
    | some u => s2.carry h u
    | none => s2, lo, hi)

/-- A core performs n sector accesses at its L1 (R144). -/
def State.coreStamp (s : State) (g n : Nat) : State × Nat × Nat := s.perform (.core g) n

/-- n performs at a bank of core k for a unit (R144). -/
def State.bankStamp (s : State) (u : Option Clocked) (k n : Nat) : State × Nat × Nat :=
  let s0 := match u with
    | some u => s.carry u (.core k)
    | none => s
  let (s1, lo, hi) := s0.perform (.core k) n
  (match u with
    | some u => s1.carry (.core k) u
    | none => s1, lo, hi)

/-! ## Sectors and lines of an access -/

/-- Sectors of a line that [pa, pa+n) touches, as a 4-bit mask. -/
def sectorMask (line pa n : Nat) : Nat :=
  ((List.range 4).filter (fun j =>
    decide (line * 128 + 32 * j < pa + n) && decide (pa < line * 128 + 32 * j + 32))).foldl (fun m j => m + 2 ^ j) 0

/-- Lines that [pa, pa+n) touches. -/
def linesOf (pa n : Nat) : List Nat :=
  if n = 0 then [] else (List.range ((pa + n - 1) / 128 - pa / 128 + 1)).map (fun i => pa / 128 + i)

end Sys2Proof.Machine
end

