-- ==== Sys2Proof/Machine/Cuppers.lean ====
section
/-! DEFINITION. The Cuppers (spec 06 R151-R156, R163-R168, R172, 19 R488): records, the messages between an L1 and a home as
events, the checks of a transfer and of a message, payloads, and the state N of a line. -/

namespace Sys2Proof.Machine

/-! ## Directory entries and interval numbers -/

/-- Directory entry of a line at its home or in the filter. -/
def State.dirOf (s : State) (line : Nat) : DirEntry :=
  if isHostLine s line then ((AMap.find? s.ctl.filter line).map (·.dir)).getD {}
  else AMap.getD (s.die (s.lineDie line)).dir line {}

/-- Replace a directory entry. -/
def State.setDir (s : State) (line : Nat) (e : DirEntry) : State :=
  if isHostLine s line then
    s.updCtl (fun c => { c with filter := AMap.upd c.filter line {} (fun f => { f with dir := e }) })
  else s.updDie (s.lineDie line) (fun d => { d with dir := AMap.set d.dir line e })

/-- Holders a directory entry names. -/
def DirEntry.holders (e : DirEntry) : List Agent := e.owner.toList ++ e.sharers

/-- A holder leaves a directory entry. -/
def DirEntry.without (e : DirEntry) (a : Agent) : DirEntry :=
  { e with owner := if e.owner = some a then none else e.owner, sharers := e.sharers.filter (· != a) }

/-- Clusters that hold a line, as the 64-bit vector that the filter records (R98). -/
def DirEntry.clusters (e : DirEntry) : Nat :=
  ((e.holders.map (fun a => match a with
    | .core g => cluOf g
    | .fused x => x
    | _ => 64)).eraseDups.filter (· < 64)).foldl (fun v x => v + 2 ^ x) 0

/-- Interval number of a line (R93, R155). -/
def State.intervalOf (s : State) (line : Nat) : Nat :=
  if isHostLine s line then ((AMap.find? s.ctl.filter line).map (·.interval)).getD 0
  else AMap.getD s.intervals line 0

/-- Set the interval number. -/
def State.setInterval (s : State) (line n : Nat) : State :=
  if isHostLine s line then
    s.updCtl (fun c => { c with filter := AMap.upd c.filter line {} (fun f => { f with interval := n % 2 ^ 32 }) })
  else { s with intervals := AMap.set s.intervals line (n % 2 ^ 32) }

/-- The payload kept with a line in N (R172). -/
def State.stuck (s : State) (line : Nat) : Option Nat :=
  if (s.dirOf line).st = .n then some (s.dirOf line).payload else none

/-! ## Records (R152, R153) -/

/-- A record of R153 as a 512-bit number. -/
def recordWord (endD startD endT startT interval line holder kind readers sectors checker : Nat) : Nat :=
  endD * 2 ^ 448 + startD * 2 ^ 384 + endT * 2 ^ 336 + startT * 2 ^ 288 + interval * 2 ^ 256 + line % 2 ^ 45 * 2 ^ 211
    + holder * 2 ^ 200 + kind * 2 ^ 197 + readers * 2 ^ 188 + sectors * 2 ^ 184 + checker * 2 ^ 168

/-- Close a record: it enters the checker's ring and CKSTAT counts it (R175). -/
def Checker.close (c : Checker) (r : Nat) : Checker :=
  { c with ring := AMap.set c.ring (c.closed % 1024) r, closed := (c.closed + 1) % 2 ^ 32 }

/-- The home's open record of a line closes, as a record of the given kind. -/
def State.closeRecord (s : State) (line kind : Nat) : State :=
  let e := s.dirOf line
  if !e.open_ then s
  else
    let (d, ty, ix) := homeChecker s line
    (s.updChecker d ty ix (fun c =>
      c.close (recordWord (s.digestOf line) e.startDigest c.clock e.startStamp (s.intervalOf line) line e.holder kind
        (min e.seen.length 511) e.sectors (checkerId d ty ix)))).setDir line { e with open_ := false }

/-- A record of a line opens under its present number. -/
def State.openRecord (s : State) (line kind holder : Nat) (seen : List Agent) : State :=
  s.setDir line { s.dirOf line with
    open_ := true, kind := kind, holder := holder, startDigest := s.digestOf line
    startStamp := s.clockOf (homeUnit s line), seen := seen, sectors := 0 }

/-- The interval number of a line advances by one: its open record closes and the next interval's opens (R93, R153). -/
def State.advance (s : State) (line kind holder : Nat) (seen : List Agent) : State :=
  let s1 := s.closeRecord line (s.dirOf line).kind
  (s1.setInterval line (s1.intervalOf line + 1)).openRecord line kind holder seen

/-- Close the L1 Cupper's record of a line that leaves an L1, or whose interval ends (R152). -/
def State.closeL1 (s : State) (g line : Nat) (l : L1Line) (a : Agent) : State :=
  let writer := match l.st with
    | .m | .e | .o => true
    | _ => false
  if !l.open_ ∨ l.st = .sr then s
  else
    s.updChecker (dieOf g) 1 (g % 32) (fun c =>
      c.close (recordWord (s.digestOf line) l.startDigest (s.core g).lclock l.startStamp l.interval line (agentId a)
        (if writer then 0 else 1) (if writer then 0 else 1) l.sectors (checkerId (dieOf g) 1 (g % 32))))

/-- A line held by an L1, or standing in its write-back buffer (R91). -/
def Core.held (c : Core) (line : Nat) : Option L1Line :=
  (AMap.find? c.l1 line).orElse (fun _ => AMap.find? c.wbuf line)

/-- Replace a line where a core holds it. -/
def Core.putHeld (c : Core) (line : Nat) (l : L1Line) : Core :=
  { c with
    l1 := if AMap.has c.l1 line then AMap.set c.l1 line l else c.l1
    wbuf := if AMap.has c.wbuf line then AMap.set c.wbuf line l else c.wbuf }

/-- Drop a line from the L1 that holds it for an agent. -/
def State.dropL1 (s : State) (a : Agent) (line : Nat) : State :=
  match l1Core a line with
  | none => s
  | some g =>
    match (s.core g).held line with
    | none => s
    | some l =>
      (s.closeL1 g line l a).updCore g (fun c => { c with l1 := AMap.erase c.l1 line, wbuf := AMap.erase c.wbuf line })

/-! ## Messages between an L1 and a home as events (R156) -/

/-- The fold of an event (R156). -/
def eventFold (line type interval digest : Nat) : Nat :=
  (line * 128) ^^^ rotlN (type * 2 ^ 32 + interval) 4 64 ^^^ rotlN digest 8 64

/-- A checker adds an event that it has sent to a peer. -/
def Checker.sends (c : Checker) (peer fold : Nat) : Checker :=
  { c with
    sentSum := AMap.upd c.sentSum peer 0 (fun x => (x + fold) % 2 ^ 64)
    sentCnt := AMap.upd c.sentCnt peer 0 (fun x => (x + 1) % 2 ^ 32) }

/-- A checker adds an event that it has received from a peer. -/
def Checker.receives (c : Checker) (peer fold : Nat) : Checker :=
  { c with
    recvSum := AMap.upd c.recvSum peer 0 (fun x => (x + fold) % 2 ^ 64)
    recvCnt := AMap.upd c.recvCnt peer 0 (fun x => (x + 1) % 2 ^ 32) }

/-- Identity of the L1 Cupper of core g. -/
def l1Id (g : Nat) : Nat := checkerId (dieOf g) 1 (g % 32)

/-- Identity of the home-side Cupper of a line. -/
def homeId (s : State) (line : Nat) : Nat :=
  let (d, ty, ix) := homeChecker s line
  checkerId d ty ix

/-- The home of a line sends a message to the L1 of core g. -/
def State.homeSends (s : State) (g line type digest : Nat) : State :=
  let (d, ty, ix) := homeChecker s line
  (s.tick (.checker d ty ix)).updChecker d ty ix (fun c => c.sends (l1Id g) (eventFold line type (s.intervalOf line) digest))

/-- A late event of a closing epoch (R157): the message was on its way when the epoch closed. -/
def EpochClose.takeLate (e : EpochClose) (g home line fold : Nat) : EpochClose :=
  if e.core = g ∧ e.home = home ∧ line ∈ e.late then
    { e with late := e.late.filter (· != line), ret := ((e.ret.1 + fold) % 2 ^ 64, (e.ret.2 + 1) % 2 ^ 32) }
  else e

/-- The L1 of core g receives a message of a home, sent at a stamp; the fold counts in the epoch whose parity the message
carries. -/
def State.l1Hears (s : State) (g line type digest stamp : Nat) : State :=
  let (d, _, _) := homeChecker s line
  let id := homeId s line
  let fold := eventFold line type (s.intervalOf line) digest
  let s1 := s.hears (.core g) stamp
  if (s1.die d).closes.any (fun e => e.core == g && e.home == id && e.late.contains line) then
    s1.updDie d (fun x => { x with closes := x.closes.map (fun e => e.takeLate g id line fold) })
  else s1.updChecker (dieOf g) 1 (g % 32) (fun c => c.receives id fold)

/-- The L1 of core g sends a message to the home of a line, with the number of the interval it knows. -/
def State.l1Sends (s : State) (g line type interval digest : Nat) : State :=
  (s.tick (.core g)).updChecker (dieOf g) 1 (g % 32) (fun c =>
    c.sends (homeId s line) (eventFold line type interval digest))

/-- The home receives it. -/
def State.homeHears (s : State) (g line type interval digest : Nat) : State :=
  let (d, ty, ix) := homeChecker s line
  (s.hears (.checker d ty ix) (s.core g).lclock).updChecker d ty ix (fun c =>
    c.receives (l1Id g) (eventFold line type interval digest))

/-! ## Containment (R163-R172) -/

/-- A containment payload (R167), Scope 7 until an instruction is stopped. -/
def payloadWord (expected observed stamp checker interval line kind detail : Nat) : Nat :=
  expected * 2 ^ 320 + observed * 2 ^ 256 + stamp % 2 ^ 48 * 2 ^ 208 + checker * 2 ^ 192 + interval % 2 ^ 32 * 2 ^ 160
    + line % 2 ^ 45 * 2 ^ 115 + 7 * 2 ^ 112 + kind * 2 ^ 104 + detail % 2 ^ 96

/-- The payload with the scope of the stopped instruction. -/
def withScope (p scope : Nat) : Nat := if p = 0 then 0 else setField p 112 3 scope

/-- A checker stores a payload and sends it to the recovery firmware (R163 step 1, R175). -/
def State.storePayload (s : State) (die type index p : Nat) : State :=
  (s.updChecker die type index (fun c => { c with
      violations := min (c.violations + 1) 0xFFFF
      last := if c.last = 0 then p else setField c.last 96 8 (min (field c.last 96 8 + 1) 255) })).updCtl
    (fun c => { c with reports := c.reports ++ [p] })

/-- A line enters N (R172): its record closes with kind 3, every holder is invalidated, the memory copy is poisoned
when ownership could have been lost, and the payload stays with the line. Leaving X advances the number (R93). -/
def State.enterN (s : State) (line payload : Nat) (poisoned : Bool) : State :=
  let e := s.dirOf line
  let s1 := e.holders.foldl (fun s a => s.dropL1 a line) s
  let s2 := s1.closeRecord line 3
  let s3 := if e.st = .x then s2.setInterval line (s2.intervalOf line + 1) else s2
  let s4 := s3.setDir line { s3.dirOf line with st := .n, owner := none, sharers := [], payload := payload }
  { s4 with poison := if poisoned && !s4.poison.contains line then s4.poison ++ [line] else s4.poison }

/-- Whether an entry names an owner, whose copy may be newer than the memory-side one. -/
def DirEntry.dirty (e : DirEntry) : Bool := e.st == .x || e.st == .o

/-- Whether the holder of a line was in M or O (R172): a clean E is no such holder, and an owner that no longer has the line has
sent its ownership away. -/
def State.ownedDirty (s : State) (line : Nat) : Bool :=
  let e := s.dirOf line
  match e.st with
  | .o => true
  | .x =>
    match (e.owner.bind (fun a => l1Core a line)).bind (fun g => (s.core g).held line) with
    | some l => l.st != .e
    | none => true
  | _ => false

/-- A checker finds a violation that names a line: payload, report, and the line in N at its home (R163). A line of another
package has no home here. -/
def State.violate (s : State) (ck : Nat × Nat × Nat) (line p : Nat) : State :=
  let s1 := s.storePayload ck.1 ck.2.1 ck.2.2 p
  if (homeDie s (line * 128)).isSome || isHostLine s line then s1.enterN line p (s.ownedDirty line) else s1

/-! ## Transfers (R151, R488) -/

/-- Transfers of a line that a die receives meet the armed injector (R488): the word number and the value XORed. -/
def State.injected (s : State) (die line type : Nat) : Option (Nat × Nat) :=
  let d := s.die die
  if bitN d.eictl 31 && d.eiline == line && (field d.eictl 0 4 == type || field d.eictl 0 4 == 15) then
    some (field d.eictl 4 4, d.eixor)
  else none

/-- The injector of a die fires (R488). -/
def State.fireInjector (s : State) (die : Nat) : State :=
  s.updDie die (fun d => { d with eictl := setField (setField d.eictl 31 1 0) 30 1 1 })

/-- A message without line data reaches a die: an injector armed for it fires and changes nothing (LOG 31). -/
def State.passMessage (s : State) (die line type : Nat) : State :=
  if (s.injected die line type).isSome then s.fireInjector die else s

/-- Receive line data of a message type at a die (R151, R488), `good` the digest it carries: the injector fires, and a
changed word is a transit mismatch at checker `ck`, which puts the line in N and answers the payload. -/
def State.receiveAt (s : State) (ck : Nat × Nat × Nat) (die line type sender receiver good : Nat) : State × Option Nat :=
  match s.injected die line type with
  | none =>
    let home := s.lineDie line
    (if (s.die home).reread.contains line then s.updDie home (fun d => { d with reread := d.reread.filter (· != line) }) else s, none)
  | some (w, x) =>
    let s1 := s.fireInjector die
    if x = 0 then (s1, none)
    else
      let p := payloadWord good (good ^^^ rotlN x (4 * w) 64) ((s.die ck.1).checker ck.2.1 ck.2.2).clock
        (checkerId ck.1 ck.2.1 ck.2.2) (s.intervalOf line) line 2 (sender * 2 ^ 85 + receiver * 2 ^ 74 + type * 2 ^ 70)
      (s1.violate ck line p, some p)

/-- The checker of a receiver (R165): the home's for a party that is no holder, the engine Taster of an engine, the Cupper of
the slice of R83 for a fused cluster, else the L1 Cupper. -/
def receiverChecker (s : State) (die line receiver : Nat) : Nat × Nat × Nat :=
  if receiver = noHolderId then homeChecker s line
  else if receiver % 4 = 2 then (die, 5, if field receiver 2 2 = 1 then 8 else field receiver 4 3)
  else if receiver % 4 = 1 then
    (die, 1, (l1Core (.fused (8 * field receiver 7 4 + field receiver 4 3)) line).getD 0 % 32)
  else (die, 1, field receiver 4 3 * 4 + field receiver 2 2)

/-- Receive line data at the unit that the receiver names. -/
def State.receive (s : State) (die line type sender receiver good : Nat) : State × Option Nat :=
  s.receiveAt (receiverChecker s die line receiver) die line type sender receiver good

/-! ## The checks of the home Cupper (R154) -/

/-- A payload of the home Cupper of a line (R167, R168). -/
def State.homePayload (s : State) (line kind expected observed detail : Nat) : Nat :=
  payloadWord expected observed (s.clockOf (homeUnit s line)) (homeId s line) (s.intervalOf line) line kind detail

/-- A message of a holder reaches the home Cupper: the payload of the first check of R154 that fails. Advance: the message
carries the current number. Readers unaltered: an acknowledgement or EvC in a readers interval carries its start digest.
Continuity: the digest with which a report or WbD ends an interval is that of the data the next one starts with. -/
def State.homeCheck (s : State) (line type : Nat) (a : Agent) (interval digest : Nat) : Option Nat :=
  let e := s.dirOf line
  let now := s.intervalOf line
  let parties := e.holder * 2 ^ 85 + agentId a * 2 ^ 74 + type * 2 ^ 70
  if interval ≠ now then some (s.homePayload line 3 now interval parties)
  else if e.open_ && e.kind == 1 && (type == 6 || type == 8) && digest != e.startDigest then
    some (s.homePayload line 3 e.startDigest digest parties)
  else if (type == 4 || type == 7) && digest != s.digestOf line then
    some (s.homePayload line 2 digest (s.digestOf line) (agentId a * 2 ^ 85 + noHolderId * 2 ^ 74 + type * 2 ^ 70))
  else none

/-- Single writer (R154): no grant of E or M while a sharer is recorded, and no grant of S in a writer interval except by the
forward that closes it. -/
def State.grantCheck (s : State) (line : Nat) (a : Agent) (st : L1State) : Option Nat :=
  let e := s.dirOf line
  let other := (e.holders.filter (· != a)).head?
  let bad : Bool := match st with
    | .s => e.st == .x
    | _ => other.isSome
  if bad then
    some (s.homePayload line 3 (s.intervalOf line) (s.intervalOf line)
      ((other.map agentId).getD e.holder * 2 ^ 85 + agentId a * 2 ^ 74))
  else none

/-- A message of a holder to the home, without line data: sent, checked, received; none when a check stops the line. -/
def State.tellHome (s : State) (a : Agent) (g line type interval digest : Nat) : State × Option Nat :=
  let s1 := (s.l1Sends g line type interval digest).passMessage (s.lineDie line) line type
  match s1.homeCheck line type a interval digest with
  | some p => (s1.violate (homeChecker s line) line p, some p)
  | none => (s1.homeHears g line type interval digest, none)

end Sys2Proof.Machine
end

