-- ==== Sys2Proof/Machine/Coherence.lean ====
section
/-! DEFINITION. L1s, home slices and the snoop filter (spec 04 R79-R99).
Data has one copy (LOG 5): `mem` holds the current bytes of every line and `backing` the memory image of a line whose
memory copy is stale; caches and directories hold states and records. -/

namespace Sys2Proof.Machine

/-- What a home or a whole transaction answers. -/
inductive Coh where
  | ok (s : State)
  | busy (s : State)
  | poison (kind : Nat) (s : State)
  | contain (payload : Nat) (s : State)
  deriving Repr, Inhabited

/-- Continue after an answer. -/
def Coh.andThen (x : Coh) (f : State → Coh) : Coh :=
  match x with
  | .ok s => f s
  | x => x

/-- A state and the payload of a check that failed in it, as an answer. -/
def cohOf (x : State × Option Nat) : Coh :=
  match x with
  | (s, none) => .ok s
  | (s, some p) => .contain p s

/-! ## Busy lines (R88) -/

/-- The messages and requests of a busy line. -/
def State.busyOf (s : State) (line : Nat) : Option Busy := AMap.find? (s.die (s.lineDie line)).busy line

/-- Whether a line is busy at its home (R88). -/
def State.busyLine (s : State) (line : Nat) : Bool := AMap.has (s.die (s.lineDie line)).busy line

/-- Put messages in flight for a line. -/
def State.setBusy (s : State) (line : Nat) (b : Busy) : State :=
  s.updDie (s.lineDie line) (fun d => { d with busy := AMap.set d.busy line b })

/-- The line is no longer busy: the requests that waited are served next, in arrival order (R88). -/
def State.endBusy (s : State) (line : Nat) : State :=
  match s.busyOf line with
  | none => s
  | some b =>
    let s1 := s.updDie (s.lineDie line) (fun d => { d with busy := AMap.erase d.busy line })
    { s1 with agenda := b.queue ++ s1.agenda }

/-- A request waits behind the line's request. -/
def State.queueBehind (s : State) (line : Nat) (e : Event) : State :=
  let b := (s.busyOf line).getD { msgs := [] }
  s.setBusy line { b with queue := b.queue ++ [e] }

/-! ## Memory-side copies (R86, R87, R97) -/

/-- Set of a line in its home slice's data (2,048 sets) or directory (8,192 sets), from the address bits above those of the
slice (DESIGN CHOICE, LOG 34). -/
def homeSet (sets line : Nat) : Nat := line / 16 % sets

/-- Whether two lines share a set of a slice. -/
def sameHomeSet (sets l1 l2 : Nat) : Bool :=
  homeSlice (l1 * 128) == homeSlice (l2 * 128) && homeSet sets l1 == homeSet sets l2

/-- A line is about to change anywhere above memory: its memory image is kept (LOG 5). -/
def State.stale (s : State) (line : Nat) : State :=
  if AMap.has s.backing line ∨ isIntakeLine s line then s
  else { s with backing := AMap.set s.backing line (Memory.readBytes s.mem (line * 128) 128) }

/-- The memory controller accepts a write of the line (R97): memory holds the current bytes. Data that fails the
controller's check is discarded with the line in N. -/
def State.memAccept (s : State) (line : Nat) : State :=
  let s0 := if AMap.has s.backing line ∧ !isHostLine s line then
      let s1 := s.carry (homeUnit s line) (controllerUnit s line)
      let s2 := (s1.receiveAt (controllerChecker s line) (s.lineDie line) line 13 noHolderId noHolderId (s.digestOf line)).1
      (s2.perform (controllerUnit s line) 1).1.carry (controllerUnit s line) (homeUnit s line)
    else s
  { s0 with backing := AMap.erase s0.backing line }

/-- A full set of a slice's data gives up the line the implementation chooses, which is written back to memory unless its
current data is in an L1 (R86, R87). -/
def State.mscRoom (s : State) (d line : Nat) : State :=
  let mates := ((s.die d).msc.map (·.1)).filter (sameHomeSet 2048 line)
  if mates.length < 16 then s
  else
    let v := mates.getD (Config.victim s.fresh % mates.length) 0
    let s1 := s.useFresh
    let s2 := if (s1.dirOf v).dirty then s1 else s1.memAccept v
    s2.updDie d (fun x => { x with msc := AMap.erase x.msc v })

/-- The memory-side copy becomes present (R86). The filter keeps no data (R98); the intake region needs no copy (R34). -/
def State.fillMsc (s : State) (line : Nat) : State :=
  match homeDie s (line * 128) with
  | none => s
  | some d =>
    if isHostLine s line || isIntakeLine s line || AMap.has (s.die d).msc line then s
    else (s.mscRoom d line).updDie d (fun x => { x with msc := AMap.set x.msc line false })

/-- The memory-side copy is dropped. -/
def State.dropMsc (s : State) (line : Nat) : State :=
  match homeDie s (line * 128) with
  | none => s
  | some d => s.updDie d (fun x => { x with msc := AMap.erase x.msc line })

/-- The controller Cupper's check of the interval number read with a line (R155). The number has one copy in the model, which
is the one last written. -/
def State.numberCheck (s : State) (line read : Nat) : Option Nat :=
  let (d, ty, ix) := controllerChecker s line
  if read = AMap.getD s.intervals line 0 then none
  else some (payloadWord (AMap.getD s.intervals line 0) read (s.clockOf (controllerUnit s line)) (checkerId d ty ix)
    (AMap.getD s.intervals line 0) line 3 (noHolderId * 2 ^ 85 + noHolderId * 2 ^ 74 + 12 * 2 ^ 70))

/-- The home reads memory for a line without a memory-side copy, which it fills (R86, R97, R151, R155). -/
def State.memFetch (s : State) (line : Nat) : Coh :=
  match homeDie s (line * 128) with
  | none => .ok s
  | some d =>
    if isHostLine s line || isIntakeLine s line || AMap.has (s.die d).msc line then .ok s
    else
      let s1 := ((s.carry (homeUnit s line) (controllerUnit s line)).perform (controllerUnit s line) 1).1.carry
        (controllerUnit s line) (homeUnit s line)
      match s1.numberCheck line (s1.intervalOf line) with
      | some p => .contain p (s1.violate (controllerChecker s1 line) line p)
      | none =>
        (cohOf (s1.receive d line 12 noHolderId noHolderId (s1.digestOf line))).andThen fun s2 => .ok (s2.fillMsc line)

/-! ## Lines of the host (R98, R99) -/

/-- Whether the filter holds a line from the host for reading, or for writing (R98). -/
def State.hostHas (s : State) (line : Nat) (own : Bool) : Bool :=
  !isHostLine s line ||
    match AMap.find? s.ctl.filter line with
    | some f => !f.evicting && (f.host == some .m || f.host == some .e || (!own && f.host == some .s))
    | none => false

/-- Current bytes of a line. -/
def State.lineBytes (s : State) (line : Nat) : List Byte := Memory.readBytes s.mem (line * 128) 128

/-- A line without device holders goes back to the host by DirtyEvict or CleanEvict; the filter entry is free once the
host has completed it (R98, R99). -/
def State.evictToHost (s : State) (line : Nat) : State :=
  match AMap.find? s.ctl.filter line with
  | none => s
  | some f =>
    if f.evicting ∨ (s.dirOf line).st = .n then s
    else
      ((s.memAccept line).updCtl (fun c => { c with filter := AMap.set c.filter line { f with evicting := true } })).send
        (.hostEvict line (if AMap.has s.backing line then some (s.lineBytes line) else none))

/-- A host line that no L1 holds any more is returned (R98). -/
def State.hostLeft (s : State) (line : Nat) : State :=
  if isHostLine s line ∧ (s.dirOf line).st = .i then s.evictToHost line else s

/-! ## What holders and the home do with a message (R90-R92) -/

/-- The home removes a holder that has acknowledged an Inv or a recall. -/
def State.unhold (s : State) (a : Agent) (line : Nat) : State := s.setDir line ((s.dirOf line).without a)

/-- A holder gives a line up for an Inv or a recall, and acknowledges (R90). A recall brings dirty data back, which the home
checks. A gated cluster's stub answers for a line that has left (R102). -/
def State.giveUp (s0 : State) (h : Agent) (line stamp : Nat) (data : Bool) : Coh :=
  match l1Core h line with
  | none => .ok (s0.unhold h line)
  | some g =>
    let s := (s0.passMessage (dieOf g) line 5).l1Hears g line 5 0 stamp
    match (s.core g).held line with
    | none => .ok (s.unhold h line)
    | some l =>
      let dirty := l.st = .m ∨ l.st = .o
      let dg := s.digestOf line
      (cohOf (if data ∧ dirty then s.receive (s.lineDie line) line 6 (agentId h) noHolderId dg else (s, none))).andThen fun s1 =>
        match (s1.dropL1 h line).tellHome h g line 6 l.interval dg with
        | (s2, some p) => .contain p s2
        | (s2, none) => .ok (s2.unhold h line)

/-- The home sends a recall of a line to a holder, which answers. -/
def State.recallOne (s : State) (h : Agent) (line : Nat) : State :=
  match l1Core h line with
  | none => s.unhold h line
  | some g =>
    let s1 := s.homeSends g line 5 0
    match s1.giveUp h line (s1.clockOf (homeUnit s1 line)) true with
    | .ok s2 | .busy s2 | .poison _ s2 | .contain _ s2 => s2

/-- The home has a forward report: the next state of R90's table; leaving X advances the number (R93). -/
def State.reported (s : State) (h : Agent) (line : Nat) (keeps wasM : Bool) : State :=
  let e := s.dirOf line
  if !keeps then s.unhold h line
  else if e.st = .x then
    let s1 := s.advance line 1 (agentId h) [h]
    s1.setDir line { s1.dirOf line with
      st := if wasM then .o else .s, owner := if wasM then some h else none, sharers := if wasM then [] else [h] }
  else s

/-- A forward reaches a holder (R90-R92, R151, R152): it keeps a read-only copy or gives the line up, reports to the home,
and sends its data to the requester or, for an engine, to the home. The forward closes the holder's record. -/
def State.forwarded (s0 : State) (h : Agent) (line stamp : Nat) (keeps : Bool) (req : Option Agent) : Coh :=
  match l1Core h line with
  | none => .ok (s0.unhold h line)
  | some g =>
    let s := (s0.passMessage (dieOf g) line 2).l1Hears g line 2 0 stamp
    let l := ((s.core g).held line).getD { st := .s, interval := s.intervalOf line, open_ := false }
    let wasM := l.st == .m || l.st == .o
    let dg := s.digestOf line
    let s1 := if keeps then
        (s.closeL1 g line l h).updCore g (fun c => c.putHeld line { l with st := if wasM then .o else .s, open_ := false })
      else s.dropL1 h line
    match s1.tellHome h g line 4 l.interval dg with
    | (s2, some p) => .contain p s2
    | (s2, none) =>
      let s3 := s2.reported h line keeps wasM
      let s4 := s3.updCore g (fun c => match c.held line with
        | some k => c.putHeld line { k with interval := s3.intervalOf line }
        | none => c)
      let s5 := match s4.busyOf line with
        | some b => s4.setBusy line { b with report := some dg }
        | none => s4
      match req.bind (fun a => (l1Core a line).map (fun ga => (a, ga))) with
      | none =>
        (cohOf (s5.receive (s5.lineDie line) line 3 (agentId h) noHolderId dg)).andThen fun s6 =>
          .ok (s6.carry (.core g) (homeUnit s6 line))
      | some (a, ga) =>
        (cohOf (s5.receive (dieOf ga) line 3 (agentId h) (agentId a) dg)).andThen fun s6 => .ok (s6.carry (.core g) (.core ga))

/-! ## Recalls (R90, R93) -/

/-- Recall: every holder is invalidated, dirty data returns to the memory-side copy, the entry becomes I (R90). -/
def State.recallLine (s : State) (line : Nat) : State :=
  let e := s.dirOf line
  if e.st = .i ∨ e.st = .n then s
  else
    let s1 := e.holders.foldl (fun s a => if (s.dirOf line).st = .n then s else s.recallOne a line) s
    if (s1.dirOf line).st = .n then s1
    else
      let s2 := s1.fillMsc line
      s2.setDir line { s2.dirOf line with st := .i, owner := none, sharers := [] }

/-- A recall that is not for a run of writes: leaving X is an advance of its own (R93). -/
def State.recallOut (s : State) (line : Nat) : State :=
  let e := s.dirOf line
  let s1 := s.recallLine line
  if e.st = .x ∧ (s1.dirOf line).st ≠ .n then s1.advance line 1 e.holder [] else s1

/-- A run of writes at the home begins (R93): a recall out of X and the run count as one advance. -/
def State.homeWriteInterval (s : State) (a : Agent) (line sectors : Nat) : State :=
  let s1 := s.recallLine line
  if (s1.dirOf line).st = .n then s1
  else
    let s2 := s1.advance line 2 (agentId a) []
    s2.setDir line { s2.dirOf line with sectors := sectors }

/-- Answer for a line that a check may have put into N. -/
def State.unlessN (s : State) (line : Nat) : Coh :=
  match s.stuck line with
  | some p => .contain p s
  | none => .ok s

/-- A full set of the filter or of a slice's directory gives up an entry: every copy is recalled first (R87, R99). Answers
none while no entry of the set can leave. -/
def State.dirRoom (s : State) (line : Nat) : Option State :=
  let d := s.lineDie line
  if isHostLine s line || (s.dirOf line).st != .i then some s
  else
    let mates := (s.die d).dir.filter (fun p => p.2.st != .i && sameHomeSet 8192 line p.1)
    if mates.length < 16 then some s
    else
      let free := (mates.filter (fun p => p.2.st != .n && !s.busyLine p.1)).map (·.1)
      match free[Config.victim s.fresh % max 1 free.length]? with
      | none => none
      | some v => some (s.useFresh.recallOut v)

/-- Ask the host for a line, RdShared or RdOwn (R98), once; not while the line is being returned (R99). The filter has 65,536
sets of 16 ways; a full set first returns a line to the host. -/
def State.askHost (s : State) (line : Nat) (own : Bool) : State :=
  let f := AMap.getD s.ctl.filter line {}
  if s.hostHas line own ∨ f.evicting ∨ f.asked.isSome then s
  else
    let mates := s.ctl.filter.filter (fun p => p.1 % 65536 == line % 65536 && p.1 != line)
    if mates.length < 16 ∨ AMap.has s.ctl.filter line then
      (s.updCtl (fun c => { c with filter := AMap.set c.filter line { f with asked := some own } })).send (.hostRequest line own)
    else if mates.any (fun p => p.2.evicting) then s
    else
      let free := (mates.filter (fun p => p.2.dir.st != .n && p.2.asked.isNone && !s.busyLine p.1)).map (·.1)
      match free[Config.victim s.fresh % max 1 free.length]? with
      | none => s
      | some v => (s.useFresh.recallOut v).evictToHost v

/-! ## Requests at the home (R88, R90, R93) -/

/-- The request kinds of R90 that a home serves with messages; `rdxAll` is an RdX whose store covers the whole line, so that
it fetches no data (R80). -/
inductive Req where
  | rds | rdx | rdxAll | upg | engine
  deriving DecidableEq, Repr, Inhabited

/-- Messages of a request in the order they are answered: forwards and invalidations, then the grant (R90). -/
def homeMsgs (e : DirEntry) (req : Req) (a : Agent) (hostShared : Bool) : List Msg :=
  let fetched := decide (req = .rdx)
  match req, e.st with
  | .rds, .i => [.grant a (if hostShared then .s else .e) true]
  | .rds, .s => [.grant a .s true]
  | .rds, .x => (e.owner.toList.map Msg.fwdS) ++ [.grant a .s false]
  | .rds, .o => (e.owner.toList.map Msg.fwdS) ++ [.grant a .s false]
  | .rdx, .i | .rdxAll, .i => [.grant a .m fetched]
  | .rdx, .s | .rdxAll, .s => (e.sharers.map Msg.inv) ++ [.grant a .m fetched]
  | .rdx, .x | .rdxAll, .x => (e.owner.toList.map Msg.fwdX) ++ [.grant a .m false]
  | .rdx, .o | .rdxAll, .o => (e.owner.toList.map Msg.fwdX) ++ (e.sharers.map Msg.inv) ++ [.grant a .m false]
  | .upg, _ => ((e.holders.filter (· != a)).map Msg.inv) ++ [.grant a .m false]
  | .engine, .x => e.owner.toList.map Msg.fwdS
  | .engine, .o => e.owner.toList.map Msg.fwdS
  | _, _ => []

/-- Whether a message is a grant. -/
def Msg.isGrant : Msg → Bool
  | .grant _ _ _ => true
  | _ => false

/-- Whom a message goes to. -/
def Msg.target : Msg → Agent
  | .fwdS a | .fwdX a | .inv a => a
  | .grant a _ _ => a

/-- The requester that a busy line's grant names. -/
def Busy.requester (b : Busy) : Option Agent := (b.msgs.find? Msg.isGrant).map Msg.target

/-- Clock that the home's message to an agent carries. -/
def Busy.stampTo (b : Busy) (a : Agent) : Nat := ((b.stamps.find? (fun p => p.1 == a)).map (·.2)).getD 0

/-- The home sends a forward, an Inv or a grant of a busy line. -/
def State.sendMsg (s : State) (line : Nat) (m : Msg) : State :=
  match l1Core m.target line, s.busyOf line with
  | some g, some b =>
    let s1 := match m with
      | .fwdS _ | .fwdX _ => s.homeSends g line 2 0
      | .inv _ => s.homeSends g line 5 0
      | .grant _ _ data => s.homeSends g line (if data then 0 else 1) (if data then s.digestOf line else 0)
    s1.setBusy line { b with stamps := (m.target, s1.clockOf (homeUnit s1 line)) :: b.stamps }
  | _, _ => s

/-- A grant changes the record and the directory (R90, R93): S adds a reader to the readers interval, E and M open a writer
interval. -/
def State.openGrant (s : State) (line : Nat) (a : Agent) (st : L1State) : State :=
  match st with
  | .s =>
    let s1 := if (s.dirOf line).open_ then s else s.openRecord line 1 (agentId a) []
    let e := s1.dirOf line
    let add := fun (l : List Agent) => if l.contains a then l else l ++ [a]
    s1.setDir line { e with st := if e.st = .i then .s else e.st, sharers := add e.sharers, seen := add e.seen }
  | _ =>
    let s1 := s.advance line 0 (agentId a) []
    s1.setDir line { s1.dirOf line with st := .x, owner := some a, sharers := [] }

/-- Once every acknowledgement is in, the home grants (R90), after the single-writer check (R154). -/
def State.sendGrant (s : State) (line : Nat) : State :=
  match s.busyOf line with
  | some b =>
    match b.msgs with
    | [.grant a st data] =>
      if b.stamps.any (fun p => p.1 == a) then s
      else
        match s.grantCheck line a st with
        | some p => (s.violate (homeChecker s line) line p).endBusy line
        | none => (s.openGrant line a st).sendMsg line (.grant a st data)
    | _ => s
  | none => s

/-- Whether an access to a home ends in a poison fault: the die is in reset or not online (R18, R508), the line is in N
or poisoned (R94), no decoder claims a host line (R35). Answers the kind of R422. -/
def State.homePoison (s : State) (line : Nat) : Option Nat :=
  let onlineOk := match homeDie s (line * 128) with
    | none => true
    | some 8 => true
    | some d => (s.die d).online && !(s.die d).resetting
  if !onlineOk then some 2
  else if (s.dirOf line).st = .n ∨ s.poison.contains line then some 1
  else if regionOf s (line * 128) = .host ∧ !decoderOk s (line * 128) then some 4
  else none

/-- An access wakes a gated home (R510) and is served. -/
def State.wakeHome (s : State) (line : Nat) : State :=
  match homeDie s (line * 128) with
  | some 8 | none => s
  | some d => if (s.die d).online && !(s.die d).powered then s.updDie d (fun x => { x with powered := true }) else s

/-- Whether a line has its data from the host in state S. -/
def State.hostShared (s : State) (line : Nat) : Bool :=
  isHostLine s line && ((AMap.find? s.ctl.filter line).bind (·.host)) == some .s

/-- A home takes a request (R88, R90): the messages that collect acknowledgements go out, or the grant at once. An Upg from an
L1 that is not recorded is handled as RdX. A line of the host is had from the host first. -/
def State.homeTake (s0 : State) (req0 : Req) (a : Agent) (line : Nat) : Coh :=
  if s0.busyLine line then .busy s0
  else
    match s0.homePoison line with
    | some k => .poison k s0
    | none =>
      let s := s0.wakeHome line
      let e := s.dirOf line
      let req := if req0 = .upg ∧ !(e.holders.contains a) then .rdx else req0
      let own := req = .rdx ∨ req = .rdxAll ∨ req = .upg
      if !s.hostHas line own then .busy (s.askHost line own)
      else
        match (if req = .engine then some s else s.dirRoom line) with
        | none => .busy s
        | some s1 =>
          let reads := (e.st = .i ∨ e.st = .s) ∧ req ≠ .upg ∧ req ≠ .rdxAll
          (if reads then s1.memFetch line else .ok s1).andThen fun s2 =>
            let msgs := homeMsgs e req a (s2.hostShared line)
            let s3 := match agentUnit a line with
              | some u => s2.carry u (homeUnit s2 line)
              | none => s2
            if msgs.isEmpty then .ok s3
            else
              let s4 := s3.setBusy line { msgs := msgs }
              (((msgs.filter (fun m => !m.isGrant)).foldl (fun s m => s.sendMsg line m) s4).sendGrant line).unlessN line

/-- The set of an L1 in which a line lies (R79, R83), for a line of its core. -/
def sameSet (fused : Bool) (l1 l2 : Nat) : Bool :=
  if fused then field (l1 * 128) 9 10 == field (l2 * 128) 9 10 else field (l1 * 128) 7 10 == field (l2 * 128) 7 10

/-! ## Evictions (R91) -/

/-- The host takes the dirty data of a line that sharers keep (R98; LOG 34). -/
def State.hostTakes (s : State) (line : Nat) : State :=
  if isHostLine s line then
    ((s.memAccept line).updCtl (fun c => { c with filter := AMap.upd c.filter line {} (fun f => { f with host := some .s }) })).send
      (.hostEvict line (some (s.lineBytes line)))
  else s

/-- WbD at the home (R90): the memory-side copy takes the data; I from X, S or I from O. -/
def State.homeWbD (s : State) (a : Agent) (line : Nat) : State :=
  let e := s.dirOf line
  let s1 := s.fillMsc line
  match e.st with
  | .x =>
    let s2 := s1.advance line 1 (agentId a) []
    (s2.setDir line { s2.dirOf line with st := .i, owner := none }).hostLeft line
  | .o =>
    let s2 := s1.setDir line { s1.dirOf line with st := if e.sharers.isEmpty then .i else .s, owner := none }
    if e.sharers.isEmpty then s2.hostLeft line else s2.hostTakes line
  | _ => s1

/-- EvC at the home (R90): the holder is removed; I when none remains. -/
def State.homeEvC (s : State) (a : Agent) (line : Nat) : State :=
  let e := s.dirOf line
  match e.st with
  | .x =>
    let s2 := s.advance line 1 (agentId a) []
    (s2.setDir line { s2.dirOf line with st := .i, owner := none }).hostLeft line
  | .s =>
    let sh := e.sharers.filter (· != a)
    (s.setDir line { e with st := if sh.isEmpty then .i else .s, sharers := sh }).hostLeft line
  | .o => s.setDir line { e with sharers := e.sharers.filter (· != a) }
  | _ => s

/-- The home has an eviction notice (R90, R151, R154) and acknowledges it: the line leaves the write-back buffer. -/
def State.takeNotice (s : State) (a : Agent) (g line : Nat) (l : L1Line) : State :=
  let s1 := (s.closeL1 g line l a).updCore g (fun c => { c with wbuf := AMap.erase c.wbuf line })
  let dg := s.digestOf line
  let ack := fun (s : State) => s.carry (homeUnit s line) (.core g)
  match l.st with
  | .sr => s1
  | .m | .o =>
    let s2 := s1.l1Sends g line 7 l.interval dg
    match s2.receive (s2.lineDie line) line 7 (agentId a) noHolderId dg with
    | (s3, some _) => s3
    | (s3, none) =>
      match s3.homeCheck line 7 a l.interval dg with
      | some p => s3.violate (homeChecker s3 line) line p
      | none => ack ((s3.homeHears g line 7 l.interval dg).homeWbD a line)
  | .e | .s =>
    match s1.tellHome a g line 8 l.interval dg with
    | (s2, some _) => s2
    | (s2, none) => ack (s2.homeEvC a line)

/-- An L1 gives a line up (R91): WbD from M or O, EvC from E or S; Sr silently (R82). The line stands in the write-back
buffer until the home has the notice, which waits while the line is busy (R88). -/
def State.evictL1 (s : State) (a : Agent) (line : Nat) : State :=
  match l1Core a line with
  | none => s
  | some g =>
    match AMap.find? (s.core g).l1 line with
    | none => s
    | some l =>
      let s1 := s.updCore g (fun c => { c with l1 := AMap.erase c.l1 line })
      if l.st = .sr then s1
      else if s1.busyLine line then
        (s1.updCore g (fun c => { c with wbuf := AMap.set c.wbuf line l })).queueBehind line
          (if l.st = .m ∨ l.st = .o then .wbd a line else .evc a line)
      else s1.takeNotice a g line l

/-- An L1 installs a line, giving up the entry the implementation chooses when the set is full (R79). -/
def State.installL1 (s : State) (a : Agent) (line : Nat) (l : L1Line) : State :=
  match l1Core a line with
  | none => s
  | some g =>
    let fused := match a with | .fused _ => true | _ => false
    let peers := ((s.core g).l1.map (·.1)).filter (fun x => x != line && sameSet fused x line)
    let ways := (s.core g).l1Banks / 2
    let s1 := if peers.length < ways ∨ ways = 0 then s
      else (s.evictL1 a (peers.getD (Config.victim s.fresh % peers.length) 0)).useFresh
    s1.updCore g (fun c => { c with l1 := AMap.set c.l1 line l })

/-! ## Grants (R88, R90, R151, R152, R154) -/

/-- A grant arrives: its data is checked, the line is installed with a new record, and the requester acknowledges with the
digest of its copy, which confirms the forward report. An upgraded line keeps its dirty sectors. -/
def State.granted (s : State) (a : Agent) (st : L1State) (data : Bool) (line : Nat) (b : Busy) : Coh :=
  match l1Core a line with
  | none => .ok s
  | some g =>
    let dg := s.digestOf line
    (cohOf (if data then s.receive (dieOf g) line 0 noHolderId (agentId a) dg
            else (s.passMessage (dieOf g) line 1, none))).andThen fun s1 =>
      let s2 := s1.l1Hears g line (if data then 0 else 1) (if data then dg else 0) (b.stampTo a)
      let old := (s2.core g).held line
      let s3 := match old with
        | some l => s2.closeL1 g line l a
        | none => s2
      let full := data || b.report.isSome
      let s4 := s3.installL1 a line
        { st := st, valid := if full then 15 else (old.map (·.valid)).getD 0, dirty := (old.map (·.dirty)).getD 0
          interval := s3.intervalOf line, startDigest := dg, startStamp := (s3.core g).lclock, pref := (old.map (·.pref)).getD false }
      match s4.tellHome a g line 6 (s4.intervalOf line) dg with
      | (s5, some p) => .contain p s5
      | (s5, none) =>
        match b.report with
        | some r =>
          if r = dg then .ok s5
          else
            let p := s5.homePayload line 2 r dg ((s5.dirOf line).holder * 2 ^ 85 + agentId a * 2 ^ 74 + 4 * 2 ^ 70)
            .contain p (s5.violate (homeChecker s5 line) line p)
        | none => .ok s5

/-- One message of a busy line arrives. -/
def State.deliver (s : State) (line : Nat) (m : Msg) (b : Busy) : Coh :=
  match m with
  | .fwdS h => s.forwarded h line (b.stampTo h) true b.requester
  | .fwdX h => s.forwarded h line (b.stampTo h) false b.requester
  | .inv h => s.giveUp h line (b.stampTo h) false
  | .grant a st data => s.granted a st data line b

/-- A message of a busy line arrives, and what follows from it: the grant once every acknowledgement is in, and the end of the
busy period once nothing is on its way. A check that fails ends it with the line in N. -/
def State.takeMsg (s : State) (line : Nat) (m : Msg) : Coh :=
  match s.busyOf line with
  | none => .ok s
  | some b =>
    match (s.setBusy line { b with msgs := b.msgs.erase m }).deliver line m b with
    | .ok s1 =>
      let s2 := if (b.msgs.erase m).isEmpty then s1.endBusy line else s1.sendGrant line
      s2.unlessN line
    | .busy s1 => .busy (s1.endBusy line)
    | .poison k s1 => .poison k (s1.endBusy line)
    | .contain p s1 => .contain p (s1.endBusy line)

/-- The messages of a busy line arrive in turn. -/
def takeMsgs (line : Nat) : List Msg → State → Coh
  | [], s => .ok s
  | m :: ms, s => (s.takeMsg line m).andThen (takeMsgs line ms)

/-- A whole transaction at once, as the instruction path uses it (LOG 4). -/
def State.transact (s : State) (req : Req) (a : Agent) (line : Nat) : Coh :=
  (s.homeTake req a line).andThen fun s1 =>
    match s1.busyOf line with
    | none => .ok s1
    | some b => takeMsgs line b.msgs s1

/-! ## L1 accesses (R80) -/

/-- The L1 of an agent holds a line for reading, after whatever transaction that takes (R80, R90). -/
def State.l1Read (s : State) (a : Agent) (line : Nat) : Coh :=
  match (l1Core a line).bind (fun g => AMap.find? (s.core g).l1 line) with
  | some _ => match s.homePoison line with
    | some k => .poison k s
    | none => .ok s
  | none => s.transact .rds a line

/-- The L1 of an agent may write a line, after whatever transaction that takes (R80, R89). `whole`: the store covers every
byte of the line. -/
def State.l1Own (s : State) (a : Agent) (line : Nat) (whole : Bool) : Coh :=
  match (l1Core a line).bind (fun g => AMap.find? (s.core g).l1 line) with
  | some l =>
    match s.homePoison line with
    | some k => .poison k s
    | none =>
      match l.st with
      | .m | .e => .ok s
      | _ => s.transact .upg a line
  | none => s.transact (if whole then .rdxAll else .rdx) a line

/-- A store performs at an L1 that may write the line: E becomes M silently (R89), and the sectors it writes are valid and dirty
and enter the records. -/
def State.l1Mark (s : State) (a : Agent) (line sectors : Nat) : State :=
  match l1Core a line with
  | none => s
  | some g => ((s.stale line).updCore g (fun c => { c with l1 := (AMap.upd c.l1 line { st := .m } (fun l =>
        { l with st := .m, valid := l.valid ||| sectors, dirty := l.dirty ||| sectors, sectors := l.sectors ||| sectors })) })).setDir line
      { s.dirOf line with sectors := (s.dirOf line).sectors ||| sectors }

/-! ## Accesses that homes perform themselves (R90, R93, R95) -/

/-- A home is ready for an access of its own to a line: the line is not busy, nothing poisons it, the home is awake, and a line
of the host is here. -/
def State.homeOpen (s : State) (line : Nat) (own : Bool) : Coh :=
  if s.busyLine line then .busy s
  else
    match s.homePoison line with
    | some k => .poison k s
    | none =>
      let s1 := s.wakeHome line
      if s1.hostHas line own then .ok s1 else .busy (s1.askHost line own)

/-- A home takes a write of an agent to a line, past every L1 (R90, R93, R151): the transfer is checked, every copy is recalled,
a partial write finds the line's data at the home, and a run of writes begins. -/
def State.homeTakeWrite (s : State) (a : Agent) (type pa : Nat) (bs : List Byte) (line : Nat) : Coh :=
  (s.homeOpen line true).andThen fun s1 =>
    (cohOf (s1.receive (s1.lineDie line) line type (agentId a) noHolderId (imageDigest pa bs line))).andThen fun s2 =>
      ((s2.recallLine line).unlessN line).andThen fun s3 =>
        (if pa ≤ line * 128 ∧ line * 128 + 128 ≤ pa + bs.length then .ok s3 else s3.memFetch line).andThen fun s4 =>
          .ok (((s4.homeWriteInterval a line (sectorMask line pa bs.length)).fillMsc line).stale line)

/-- Every line of a write is taken before any byte is written. -/
def homeTakeWrites (a : Agent) (type pa : Nat) (bs : List Byte) : List Nat → State → Coh
  | [], s => .ok s
  | l :: ls, s => (s.homeTakeWrite a type pa bs l).andThen (homeTakeWrites a type pa bs ls)

/-- After an access at the home: memory type 1 keeps no copy (R95), and the filter, which keeps no data, returns a line of the
host that no L1 holds (R98). -/
def State.homeSettle (s : State) (uncached : Bool) (line : Nat) : State :=
  (if uncached then (s.memAccept line).dropMsc line else s).hostLeft line

/-- Bytes whose lines the home has taken are written. -/
def State.homePut (s : State) (uncached : Bool) (pa : Nat) (bs : List Byte) : State :=
  (linesOf pa bs.length).foldl (fun s l => s.homeSettle uncached l) { s with mem := Memory.writeBytes s.mem pa bs }

/-- Bytes written at the homes of their lines. -/
def State.homeWrite (s : State) (a : Agent) (type : Nat) (uncached : Bool) (pa : Nat) (bs : List Byte) : Coh :=
  (homeTakeWrites a type pa bs (linesOf pa bs.length) s).andThen fun s1 => .ok (s1.homePut uncached pa bs)

/-- The messages of a busy line arrive, so that a unit of the package itself may write it. -/
def State.settleLine (s : State) (line : Nat) : State :=
  match s.busyOf line with
  | none => s
  | some b =>
    match takeMsgs line b.msgs s with
    | .ok s1 | .busy s1 | .poison _ s1 | .contain _ s1 => s1

/-- A unit of the package writes one line of its own, in order and without waiting; a line that cannot be written stays as it is. -/
def State.unitWrite (s : State) (a : Agent) (uncached : Bool) (pa : Nat) (bs : List Byte) : State :=
  match ((linesOf pa bs.length).foldl State.settleLine s).homeWrite a 10 uncached pa bs with
  | .ok s1 | .busy s1 | .poison _ s1 | .contain _ s1 => s1

/-- A unit of the package writes bytes line by line. -/
def State.unitPut (s : State) (a : Agent) (uncached : Bool) (pa : Nat) (bs : List Byte) : State :=
  (linesOf pa bs.length).foldl (fun s l =>
    let lo := max pa (l * 128)
    s.unitWrite a uncached lo ((bs.drop (lo - pa)).take (l * 128 + 128 - lo))) s

/-- An uncached load at the home (R95): every copy is recalled, a dirty memory-side copy is written back and dropped, and memory
is read. -/
def uncachedLine (s : State) (line : Nat) : Coh :=
  (s.homeOpen line false).andThen fun s1 =>
    ((s1.recallOut line).unlessN line).andThen fun s2 =>
      ((((s2.memAccept line).dropMsc line).unlessN line).andThen fun s3 => s3.memFetch line).andThen fun s4 =>
        .ok ((s4.dropMsc line).hostLeft line)

/-- Uncached over several lines. -/
def uncachedLines : List Nat → State → Coh
  | [], s => .ok s
  | l :: ls, s => (uncachedLine s l).andThen (uncachedLines ls)

end Sys2Proof.Machine
end

