-- ==== Sys2Proof/Machine/Walk.lean ====
section
/-! DEFINITION. Walks (spec 03 R51-R62): the walk cache, walk contexts and their queue, reads and atomic updates of tables at
their homes, and a translation as one operation: lookup, walk, A and D bits, install, permission (LOG 4). -/

namespace Sys2Proof.Machine

/-! ## Table entries at their homes (R51, R52, R68) -/

/-- What reading or updating a table entry answers: its value, a poison fault of its line, or a wait for the line. -/
inductive TableRead where
  | ok (v : Nat) (s : State)
  | poison (kind : Nat) (s : State)
  | wait (s : State)
  deriving Repr, Inhabited

/-- `read64` of R51: a coherent read at the home; a line of the host is had from the host first. -/
def State.read64 (s : State) (pa : Nat) : TableRead :=
  match s.transact .engine .firmware (pa / 128) with
  | .ok s1 => .ok (Memory.readLE s1.mem pa 8) (s1.hostLeft (pa / 128))
  | .busy s1 => .wait s1
  | .poison k s1 => .poison k s1
  | .contain _ s1 => .poison 1 s1

/-- An atomic update of an entry at its home (R52, R73): every copy is recalled, and the write is a run of its own. -/
def State.update64 (s : State) (pa : Nat) (f : Nat → Nat) : TableRead :=
  let line := pa / 128
  match (s.homeOpen line true).andThen fun s1 =>
      ((s1.recallLine line).unlessN line).andThen fun s2 => s2.memFetch line with
  | .ok s1 =>
    let v := f (Memory.readLE s1.mem pa 8)
    let s2 := ((s1.homeWriteInterval .firmware line (sectorMask line pa 8)).fillMsc line).stale line
    .ok v ({ s2 with mem := Memory.writeLE s2.mem pa 8 v }.homeSettle false line)
  | .busy s1 => .wait s1
  | .poison k s1 => .poison k s1
  | .contain _ s1 => .poison 1 s1

/-! ## The walk cache (R60) -/

/-- The walk cache keeps a context entry (level 5) or a table entry of levels 4 to 1; a full one gives up the entry the
implementation chooses. -/
def State.cacheWalk (s : State) (asid lvl ix v : Nat) : State :=
  s.useFresh.updCtl (fun c =>
    let rest := c.walkCache.filter (fun t => t.1 != (asid, lvl, ix))
    { c with walkCache := ((asid, lvl, ix), v) ::
        (if rest.length < 8192 then rest else rest.eraseIdx (Config.victim s.fresh % 8192)) })

/-- Read a context or table entry: from the walk cache, or at its home. -/
def State.walkRead (s : State) (asid lvl ix pa : Nat) : TableRead :=
  match s.ctl.walkCache.find? (fun t => t.1 == (asid, lvl, ix)) with
  | some t => .ok t.2 s
  | none => s.read64 pa

/-! ## The walk (R51) -/

/-- What a walk answers: the TLB entry and the address of its leaf or range entry, a fault (cause, kind), or a wait. -/
inductive Walked where
  | leaf (e : TlbEntry) (ea : Nat) (s : State)
  | fault (cause kind : Nat) (s : State)
  | wait (s : State)
  deriving Repr, Inhabited

/-- A table read inside a walk: poison is a poison fault of the access (R18, R94). -/
def TableRead.walk (x : TableRead) (f : Nat → State → Walked) : Walked :=
  match x with
  | .ok v s => f v s
  | .poison k s => .fault 11 k s
  | .wait s => .wait s

/-- Walk from a table down. -/
def walkDown (asid va : Nat) : Nat → Nat → State → Walked
  | 0, _, s => .fault 4 4 s
  | n + 1, t, s =>
    let lvl := n
    let ix := field va (12 + 9 * lvl) (if lvl = 4 then 8 else 9)
    let tag := va / 2 ^ (12 + 9 * lvl)
    (s.walkRead asid lvl tag (t + 8 * ix)).walk fun e s1 =>
      if field e 0 2 = 0 then .fault 4 2 s1
      else if field e 0 2 ≠ 1 then
        match finishEntry s1 asid e lvl va with
        | .ok r => .leaf r (t + 8 * ix) s1
        | .error k => .fault 4 k s1
      else if lvl = 0 then .fault 4 4 s1
      else if field e 52 12 ≠ 0 ∨ field e 2 10 ≠ 0 then .fault 4 3 s1
      else
        let t' := field e 12 40 * 4096
        if tableOk s1 t' then walkDown asid va n t' (s1.cacheWalk asid lvl tag e) else .fault 4 10 s1

/-- walk(asid, va) of R51. That ATBASE points outside memory is seen from its first byte (DESIGN CHOICE, LOG 17). -/
def State.walk (s : State) (asid va : Nat) : Walked :=
  if !tableOk s s.ctl.atbase then .fault 4 10 s
  else
    (s.walkRead asid 5 0 (s.ctl.atbase + 8 * asid)).walk fun c s1 =>
      if !bitN c 0 then .fault 4 2 s1
      else if field c 52 12 ≠ 0 ∨ field c 1 11 ≠ 0 then .fault 4 3 s1
      else
        let t := field c 12 40 * 4096
        if tableOk s1 t then walkDown asid va 5 t (s1.cacheWalk asid 5 0 c) else .fault 4 10 s1

/-! ## Walk contexts (R61, R62) -/

/-- Die whose misses a requester's are; 8 for the control die's own. -/
def Requester.homeDie (r : Requester) : Nat := (r.path.2.2).getD 8

/-- The core that waits behind a requester's miss; 256 for an engine or the control die. -/
def Requester.waiter (r : Requester) : Nat := (r.path.1).getD 256

/-- Walk contexts that a die has; a miss that joins a walk takes none. -/
def Control.walksOf (c : Control) (d : Nat) : Nat := (c.walks.filter (fun w => w.die == d && !w.joined)).length

/-- Contexts taken from the 512 that no die has reserved (R61). -/
def Control.sharedWalks (c : Control) : Nat :=
  c.walksOf 8 + ((List.range 8).map (fun d => c.walksOf d - 64)).foldl (· + ·) 0

/-- Whether a miss of a die finds a free context: one of its 64, or a shared one. -/
def Control.walkFree (c : Control) (d : Nat) : Bool := (decide (d < 8) && decide (c.walksOf d < 64)) || decide (c.sharedWalks < 512)

/-- A walk that cannot go on joins the one of its (ASID, page), or takes a context, or waits in its die's walk queue of
256 entries; when that is full the memory port waits (R61). A core counts the miss (R62). -/
def State.park (s : State) (r : Requester) (asid va : Nat) : State :=
  let w : WalkCtx := { core := r.waiter, asid := asid, page := va / 4096, parked := true, die := r.homeDie }
  let same := fun (x : WalkCtx) => x.asid == asid && x.page == va / 4096
  let s1 := s.updCtl (fun c =>
    if c.walks.contains w ∨ c.walkQueue.contains w then c
    else if c.walks.any same then { c with walks := c.walks ++ [{ w with joined := true }] }
    else if c.walkFree w.die then { c with walks := c.walks ++ [w] }
    else if (c.walkQueue.filter (fun x => x.die == w.die)).length < 256 then { c with walkQueue := c.walkQueue ++ [w] }
    else c)
  match r.path.1 with
  | none => s1
  | some g => s1.updCore g (fun c =>
      { c with misses := if c.misses.contains (asid, va / 4096) then c.misses else c.misses ++ [(asid, va / 4096)] })

/-- Walks of the queue for which a context is free leave it, oldest first. -/
def Control.walksNext (c : Control) : List WalkCtx → Control
  | [] => c
  | w :: ws => if c.walkFree w.die then { c with walkQueue := c.walkQueue.erase w }.walksNext ws else c.walksNext ws

/-- Walks that `gone` names end, or restart with the access that needs them; the queue moves up. -/
def State.endWalks (s : State) (gone : WalkCtx → Bool) : State :=
  s.updCtl (fun c =>
    let c1 := { c with walks := c.walks.filter (fun w => !gone w), walkQueue := c.walkQueue.filter (fun w => !gone w) }
    c1.walksNext c1.walkQueue)

/-- Whether a core's access would be its 33rd outstanding miss (R62): it waits at the memory port. -/
def State.missFull (s : State) (r : Requester) (asid va : Nat) : Bool :=
  match r.path.1 with
  | none => false
  | some g => decide (32 ≤ (s.core g).misses.length) && !(s.core g).misses.contains (asid, va / 4096)

/-! ## Translation -/

/-- Kinds of access for the permission check. -/
inductive Acc where
  | load | store | atomic | fetch
  deriving DecidableEq, Repr, Inhabited

/-- Whether an access writes. -/
def Acc.writes : Acc → Bool
  | .store | .atomic => true
  | _ => false

/-- Result of a translation: the entry and the state after it, a fault (cause, kind) with what the walk has left, or a wait. -/
inductive Trans where
  | ok (e : TlbEntry) (s : State)
  | fault (cause kind : Nat) (s : State)
  | parked (s : State)
  deriving Repr, Inhabited

/-- The permission check of R53: the kind of the fault, if any. -/
def permKind (e : TlbEntry) (sup : Bool) (a : Acc) : Option Nat :=
  if !sup && !bitN e.attr 6 then some 0x13
  else
    match a with
    | .load => if bitN e.attr 3 then none else some 0x10
    | .store => if bitN e.attr 4 then none else some 0x11
    | .atomic => if bitN e.attr 3 && bitN e.attr 4 then none else some 0x11
    | .fetch => if bitN e.attr 5 then none else some 0x12

/-- A walk of an (ASID, page), unless a flip holds it or no context is free. -/
def State.withWalk (s : State) (r : Requester) (asid va : Nat) (f : TlbEntry → Nat → State → Trans) : Trans :=
  if s.missFull r asid va then .parked s
  else if s.flipHolds asid va || !s.ctl.walkFree r.homeDie then .parked (s.park r asid va)
  else
    match s.walk asid va with
    | .leaf e ea s1 => f e ea s1
    | .fault cause k s1 => .fault cause k s1
    | .wait s1 => .parked s1

/-- The update of an entry inside a translation. -/
def TableRead.trans (x : TableRead) (f : State → Trans) : Trans :=
  match x with
  | .ok _ s => f s
  | .poison k s => .fault 11 k s
  | .wait s => .parked s

/-- Walk, set A by an atomic OR at the entry's home, install (R51, R52, R57). -/
def State.walkInstall (s : State) (r : Requester) (asid va : Nat) : Trans :=
  s.withWalk r asid va fun e ea s1 =>
    if bitN e.attr 10 then .ok e (s1.installTlb r e va)
    else
      (s1.update64 ea (fun v => v ||| 2 ^ 10)).trans fun s2 =>
        let e1 := { e with attr := e.attr + 2 ^ 10 }
        .ok e1 (s2.installTlb r e1 va)

/-- A walk that sets D for a store or atomic (R52). An entry that no longer grants W gives the permission fault of R53,
whose order puts privilege first. -/
def State.dirtyWalk (s : State) (r : Requester) (asid : Nat) (sup : Bool) (a : Acc) (va : Nat) : Trans :=
  s.withWalk r asid va fun e ea s1 =>
    if !bitN e.attr 4 then .fault 5 ((permKind e sup a).getD 0x11) s1
    else
      (s1.update64 ea (fun v => v ||| (2 ^ 10 + 2 ^ 11))).trans fun s2 =>
        let e1 := { e with attr := e.attr ||| (2 ^ 10 + 2 ^ 11) }
        .ok e1 (s2.installTlb r e1 va)

/-- The permission check of a translation found (R53). -/
def Trans.permit (x : Trans) (sup : Bool) (a : Acc) (f : TlbEntry → State → Trans) : Trans :=
  match x with
  | .ok e s =>
    match permKind e sup a with
    | some k => .fault 5 k s
    | none => f e s
  | x => x

/-- Translate one address and check the access (R21, R51-R53). `sup`: supervisor rights. -/
def State.translate (s : State) (r : Requester) (asid : Nat) (sup : Bool) (a : Acc) (va : Nat) : Trans :=
  if 2 ^ 56 ≤ va then .fault 4 1 s
  else
    let found := match s.tlbHit r asid va with
      | some (e, s1) => Trans.ok e s1
      | none => s.walkInstall r asid va
    found.permit sup a fun e s1 =>
      if a.writes && !bitN e.attr 11 then (s1.dirtyWalk r asid sup a va).permit sup a .ok else .ok e s1

end Sys2Proof.Machine
end

