-- ==== Sys2Proof/Machine/Access.lean ====
section
/-! DEFINITION. One access of one agent: address spaces, translation of all its pages, the checks made before any
piece performs, and its performance at the L1, the home, a bank or outside the package (spec 02 R21-R44, 04, 05 R104-R111,
14 R360-R375). -/

namespace Sys2Proof.Machine

/-- Who accesses: the agent, its TLB path, ASID, rights, team, the shape of the access, and the lines that a store covers
whole (R80). -/
structure AccCtx where
  agent : Agent
  req : Requester
  core : Nat
  asid : Nat
  sup : Bool
  grid : Nat
  team : Nat
  vector : Bool
  engine : Bool
  whole : List Nat := []
  deriving Repr, Inhabited

/-- A translated piece of an access. -/
structure Seg where
  pa : Nat
  len : Nat
  e : TlbEntry
  deriving Repr, Inhabited

/-- Where an access goes: pieces of device memory, or bytes of a core's scratchpad partition. -/
inductive Target where
  | phys (segs : List Seg)
  | spm (core off len : Nat)
  deriving Repr, Inhabited

/-- What resolving an address answers. -/
inductive Resolve where
  | ok (t : Target) (s : State)
  | fault (cause kind addr : Nat) (s : State)
  | parked (s : State)
  deriving Repr, Inhabited

/-- Pages that n bytes at va touch: first address and length in each. -/
def pagesOf (va n : Nat) : List (Nat × Nat) :=
  if n = 0 then []
  else (List.range ((va + n - 1) / 4096 - va / 4096 + 1)).map (fun i =>
    let lo := max va ((va / 4096 + i) * 4096)
    (lo, min (va + n) ((va / 4096 + i + 1) * 4096) - lo))

/-- Sectors that n bytes at pa touch: first address and length in each (R111). -/
def sectorsOf (pa n : Nat) : List (Nat × Nat) :=
  (List.range (sectorCount pa n)).map (fun i =>
    let lo := max pa ((pa / 32 + i) * 32)
    (lo, min (pa + n) ((pa / 32 + i + 1) * 32) - lo))

/-- Translate every page of an access (R111). -/
def translatePages (c : AccCtx) (a : Acc) : List (Nat × Nat) → List Seg → State → Resolve
  | [], acc, s => .ok (.phys acc.reverse) s
  | (va, n) :: rest, acc, s =>
    match s.translate c.req c.asid c.sup a va with
    | .ok e s1 => translatePages c a rest (⟨e.phys va, n, e⟩ :: acc) s1
    | .fault cause kind s1 => .fault cause kind va s1
    | .parked s1 => .parked s1

/-- The allocation of a team on a core, or on its fused cluster (R41). -/
def State.teamAlloc (s : State) (g grid team : Nat) : Option (Nat × TeamAlloc) :=
  let cores := if (s.cluster (cluOf g)).fused then (List.range 4).map (fun k => 4 * cluOf g + k) else [g]
  cores.findSome? (fun k =>
    ((s.core k).allocs.find? (fun a => a.grid == grid && a.team == team)).map (fun a => (k, a)))

/-- Bytes of a core's scratchpad partition. -/
def Core.partition (c : Core) : Nat := c.spmBanks * 65536

/-- A peer slot's handle fields (R36). -/
def peerCheck (s : State) (e : TlbEntry) (pa : Nat) (a : Acc) : Option (Nat × Nat) :=
  let p := AMap.getD s.ctl.peers (field pa 38 12) {}
  if p.st ≠ .active then some (4, 0x0B)
  else if e.peer ≠ field p.handle 53 11 then some (4, 0x0C)
  else if field pa 0 38 ≥ 2 ^ field p.handle 23 6 then some (4, 0x0D)
  else
    let right := match a with
      | .load => bitN p.handle 20
      | .store => bitN p.handle 21
      | .atomic => bitN p.handle 22
      | .fetch => bitN p.handle 20
    if right then none else some (5, 0x17)

/-- The checks of one piece after translation: memory type (R29), intake (R34), peers (R38), ownership (R71); then
atomics (R44): `hostOk` says whether the host accepts the operation. -/
def segCheck (s : State) (c : AccCtx) (a : Acc) (hostOk : Bool) (g : Seg) : Option (Nat × Nat) :=
  let r := regionOf s g.pa
  if pteType g.e.attr = 2 then
    if c.vector ∨ c.engine then some (5, 0x14)
    else if a = .atomic then some (7, 0)
    else if !((g.len = 4 ∧ g.pa % 4 = 0) ∨ (g.len = 8 ∧ g.pa % 8 = 0)) then some (5, 0x14)
    else none
  else
    match r with
    | .window | .stream => if a.writes then some (5, 0x16) else none
    | .peer => peerCheck s g.e g.pa a
    | .host => if a = .atomic ∧ !hostOk then some (7, 0) else none
    | .hbm | .ddr => if pteO g.e.attr != s.ctl.bias.contains (g.pa / 4096) then some (5, 0x19) else none
    | _ => none

/-- An access that reaches over a page's end into or out of register space is not aligned (R29). -/
def splitReg (segs : List Seg) : Option (Nat × Nat) :=
  if 1 < segs.length ∧ segs.any (fun g => pteType g.e.attr == 2) then some (5, 0x14) else none

/-- Whether a piece is accessed at the host over CXL.mem or CXL.io and not through the filter (R35): an uncached page of
host memory. -/
def atHost (s : State) (g : Seg) : Bool := pteType g.e.attr == 1 && regionOf s g.pa == .host

/-- An access that needs lines of the host waits until the filter has them (R98). -/
def State.hostCheck (s : State) (a : Acc) (segs : List Seg) : Resolve :=
  let need := (segs.filter (fun g => !atHost s g && !(a == .atomic && regionOf s g.pa == .host))).flatMap (fun g =>
    (linesOf g.pa g.len).filter (fun l => (s.homePoison l).isNone && !s.hostHas l a.writes))
  if need.isEmpty then .ok (.phys segs) s else .parked (need.foldl (fun s l => s.askHost l a.writes) s)

/-- Resolve an access of n bytes at ea in a space, with every check that comes before it performs. -/
def State.resolve (s : State) (c : AccCtx) (sp : Space) (ea n : Nat) (a : Acc) (hostOk : Bool) : Resolve :=
  match sp with
  | .glob =>
    match translatePages c a (pagesOf ea n) [] s with
    | .ok (.phys segs) s1 =>
      match (segs.findSome? (fun g => segCheck s1 c a hostOk g)).or (splitReg segs) with
      | some (cause, kind) => .fault cause kind ea s1
      | none => s1.hostCheck a segs
    | x => x
  | .team =>
    match s.teamAlloc c.core c.grid c.team with
    | some (k, al) => if ea + n ≤ al.size then .ok (.spm k (al.off + ea) n) s else .fault 5 0x15 ea s
    | none => .fault 5 0x15 ea s
  | .clu =>
    let k := 4 * cluOf c.core + field ea 22 2
    let o := field ea 0 22
    if ea ≥ 2 ^ 24 ∨ o + n > (s.core k).partition then .fault 5 0x15 ea s
    else if (s.core k).allocs.any (fun al => al.grid == c.grid && decide (al.off ≤ o) && decide (o + n ≤ al.off + al.size))
      then .ok (.spm k o n) s
    else .fault 5 0x15 ea s
  | .reg => .fault 1 0 ea s

/-- A piece of an element that is accessed outside the homes of this package: its address, its place in the element, its
length, whether it lies in a read-only import. -/
structure OutPart where
  pa : Nat
  off : Nat
  len : Nat
  ro : Bool := false
  deriving DecidableEq, Repr, Inhabited

/-- What performing an access answers: bytes (or an old value) with its lowest and highest stamp, a poison kind, a
containment payload, a busy line, or pieces that have to leave the core (register space, storage, a peer, the host) beside
what has been read here, with zeros in their places. -/
inductive Perf where
  | ok (v : List Byte) (lo hi : Nat) (s : State)
  | poison (kind : Nat) (s : State)
  | contain (payload : Nat) (s : State)
  | busy (s : State)
  | ext (parts : List OutPart) (v : List Byte) (lo hi : Nat) (s : State)
  deriving Repr, Inhabited

/-- Stop at an answer that is not ok. -/
def Coh.perf (x : Coh) (f : State → Perf) : Perf :=
  match x with
  | .ok s => f s
  | .busy s => .busy s
  | .poison k s => .poison k s
  | .contain p s => .contain p s

/-- A prefetched line is used by a demand access (R484). -/
def State.usePrefetch (s : State) (g line : Nat) : State :=
  match AMap.find? (s.core g).l1 line with
  | some l =>
    if l.pref then s.updCore g (fun c => { c with
      l1 := AMap.set c.l1 line { l with pref := false }
      dbg := { c.dbg with pf := AMap.upd c.dbg.pf 1 0 (fun n => min (n + 1) 0xFFFFFFFF) } })
    else s
  | none => s

/-- An engine reads a line at its home and checks what it receives (R90, R151). -/
def engineLine (c : AccCtx) (s : State) (l : Nat) : Coh :=
  (s.transact .engine c.agent l).andThen fun s1 =>
    match c.agent with
    | .copyEngine _ | .collEngine _ | .matrix _ =>
      cohOf (s1.receive (dieOf c.core) l 9 noHolderId (agentId c.agent) (s1.digestOf l))
    | _ => .ok s1

/-- Lines held for reading. -/
def readLines (c : AccCtx) : List Nat → State → Coh
  | [], s => .ok s
  | l :: ls, s =>
    (if c.engine then engineLine c s l else s.l1Read c.agent l).andThen fun s1 =>
      readLines c ls (match l1Core c.agent l with | some g => s1.usePrefetch g l | none => s1)

/-- Lines held for writing by an L1. -/
def ownLines (c : AccCtx) : List Nat → State → Coh
  | [], s => .ok s
  | l :: ls, s => (s.l1Own c.agent l (c.whole.contains l)).andThen (ownLines c ls)

/-- Current bytes at a physical address: the launch window is held at its home (R34), stream apertures read zero. -/
def State.physBytes (s : State) (pa n : Nat) : List Byte :=
  match regionOf s pa with
  | .window => Memory.readBytes s.ctl.window (pa - windowBase) n
  | .stream => List.replicate n 0#8
  | _ => Memory.readBytes s.mem pa n

/-- A line of a peer window held in Sr by an agent's L1 (R39, R82). -/
def State.srHeld (s : State) (a : Agent) (line : Nat) : Bool :=
  match (l1Core a line).bind (fun k => AMap.find? (s.core k).l1 line) with
  | some l => l.st == .sr
  | none => false

/-- Whether a piece is accessed outside the homes of this package: register space, a storage window, a peer unless its lines are
held in Sr, an uncached page of the host. -/
def State.outside (s : State) (c : AccCtx) (write : Bool) (g : Seg) : Bool :=
  match regionOf s g.pa with
  | .reg | .storage => true
  | .peer => write || !(linesOf g.pa g.len).all (s.srHeld c.agent)
  | _ => atHost s g

/-- Whether a peer's line may be held in Sr (R39, R82): the handle permits neither writes nor atomics, and the page is normal
coherent. -/
def peerReadOnly (s : State) (e : TlbEntry) (pa : Nat) : Bool :=
  let x := (AMap.getD s.ctl.peers (field pa 38 12) {}).handle
  regionOf s pa == .peer && !bitN x 21 && !bitN x 22 && pteType e.attr == 0

/-- The pieces of an element that are accessed outside, one for each sector (R111), from a place on. -/
def State.outParts (s : State) (c : AccCtx) (write : Bool) : Nat → List Seg → List OutPart
  | _, [] => []
  | off, g :: gs =>
    (if s.outside c write g then (sectorsOf g.pa g.len).map (fun p => ⟨p.1, off + (p.1 - g.pa), p.2, peerReadOnly s g.e g.pa⟩) else [])
      ++ s.outParts c write (off + g.len) gs

/-- A home performs for an agent past the L1s: an engine, or an uncached access. -/
def AccCtx.atHome (c : AccCtx) (g : Seg) : Bool := c.engine || pteType g.e.attr == 1

/-- The unit whose clock a context's messages carry (R143). -/
def AccCtx.unit (c : AccCtx) (line : Nat) : Option Clocked := if c.engine then agentUnit c.agent line else some (.core c.core)

/-- Stamps of a piece: its home's, or the core's (R144). -/
def State.stampFor (s : State) (c : AccCtx) (g : Seg) : State × Nat × Nat :=
  let n := sectorCount g.pa g.len
  if c.atHome g then s.homeStamp (g.pa / 128) (c.unit (g.pa / 128)) n else s.coreStamp c.core n

/-- Everything that reading a piece needs before it performs (R111): its lines in the L1, or what the home does first. -/
def State.acquireRead (s : State) (c : AccCtx) (g : Seg) : Coh :=
  let lines := linesOf g.pa g.len
  if s.outside c false g then (if atHost s g && !decoderOk s g.pa then .poison 4 s else .ok s)
  else if regionOf s g.pa = .peer then .ok s
  else if pteType g.e.attr = 1 then uncachedLines lines s
  else readLines c lines s

/-- Type of the message that carries an agent's write data to a home (R151). -/
def writeType : Agent → Nat
  | .peer _ => 14
  | _ => 10

/-- Everything that writing a piece needs before it performs. -/
def State.acquireWrite (s : State) (c : AccCtx) (g : Seg) (bs : List Byte) : Coh :=
  let lines := linesOf g.pa g.len
  if s.outside c true g then (if atHost s g && !decoderOk s g.pa then .poison 4 s else .ok s)
  else if c.atHome g then homeTakeWrites c.agent (writeType c.agent) g.pa bs lines s
  else ownLines c lines s

/-- Acquire pieces for reading. -/
def acquireReads (c : AccCtx) : List Seg → State → Coh
  | [], s => .ok s
  | g :: gs, s => (s.acquireRead c g).andThen (acquireReads c gs)

/-- Acquire pieces for writing. -/
def acquireWrites (c : AccCtx) : List Seg → List Byte → State → Coh
  | [], _, s => .ok s
  | g :: gs, bs, s => (s.acquireWrite c g (bs.take g.len)).andThen (acquireWrites c gs (bs.drop g.len))

/-- Stamps of a further piece added to those so far (R144). -/
def joinStamps (first : Bool) (lo hi a b : Nat) : Nat × Nat := if first then (a, b) else (serialMin lo a, serialMax hi b)

/-- Read acquired pieces in turn; one that is accessed outside gives zeros. A line of the host that an engine has read goes
back (R98). -/
def readSegs (c : AccCtx) (first : Bool) : List Seg → List Byte → Nat → Nat → State → Perf
  | [], acc, lo, hi, s => .ok acc lo hi s
  | g :: gs, acc, lo, hi, s =>
    if s.outside c false g then readSegs c first gs (acc ++ List.replicate g.len 0#8) lo hi s
    else
      let (s1, a, b) := s.stampFor c g
      let s2 := if c.engine then (linesOf g.pa g.len).foldl (fun s l => s.hostLeft l) s1 else s1
      let (lo1, hi1) := joinStamps first lo hi a b
      readSegs c false gs (acc ++ s1.physBytes g.pa g.len) lo1 hi1 s2

/-- Write acquired pieces in turn, but for those accessed outside. An L1 that has given a line up since has it again first. -/
def writeSegs (c : AccCtx) (first : Bool) : List Seg → List Byte → Nat → Nat → State → Perf
  | [], _, lo, hi, s => .ok [] lo hi s
  | g :: gs, bs, lo, hi, s =>
    if s.outside c true g then writeSegs c first gs (bs.drop g.len) lo hi s
    else
      (if c.atHome g then Coh.ok s else ownLines c (linesOf g.pa g.len) s).perf fun s0 =>
        let (s1, a, b) := s0.stampFor c g
        let now := bs.take g.len
        let s2 := if c.atHome g then s1.homePut (pteType g.e.attr == 1) g.pa now
          else
            let s0 := (linesOf g.pa g.len).foldl (fun s l => s.l1Mark c.agent l (sectorMask l g.pa g.len)) s1
            { s0 with mem := Memory.writeBytes s0.mem g.pa now }
        let (lo1, hi1) := joinStamps first lo hi a b
        writeSegs c false gs (bs.drop g.len) lo1 hi1 s2

/-- Answer that some pieces have to leave the core. -/
def Perf.leaving (x : Perf) (parts : List OutPart) : Perf :=
  match x with
  | .ok v lo hi s => if parts.isEmpty then .ok v lo hi s else .ext parts v lo hi s
  | x => x

/-- Everything that reading a target needs before it performs. -/
def State.acquireReadT (s : State) (c : AccCtx) (t : Target) : Coh :=
  match t with
  | .phys segs => acquireReads c segs s
  | .spm _ _ _ => .ok s

/-- Everything that writing a target needs before it performs. -/
def State.acquireWriteT (s : State) (c : AccCtx) (t : Target) (bs : List Byte) : Coh :=
  match t with
  | .phys segs => acquireWrites c segs bs s
  | .spm _ _ _ => .ok s

/-- Perform a read of an acquired target. -/
def State.readHeld (s : State) (c : AccCtx) (t : Target) : Perf :=
  match t with
  | .phys segs =>
    (readSegs c true segs [] 0 0 s).leaving (s.outParts c false 0 segs)
  | .spm k off n =>
    let (s1, lo, hi) := s.bankStamp (c.unit 0) k (sectorCount off n)
    .ok (Memory.readBytes (s.core k).spm off n) lo hi s1

/-- Perform a write of an acquired target. -/
def State.writeHeld (s : State) (c : AccCtx) (t : Target) (bs : List Byte) : Perf :=
  match t with
  | .phys segs => (writeSegs c true segs bs 0 0 s).leaving (s.outParts c true 0 segs)
  | .spm k off n =>
    let (s1, lo, hi) := s.bankStamp (c.unit 0) k (sectorCount off n)
    .ok [] lo hi (s1.updCore k (fun x => { x with spm := Memory.writeBytes x.spm off bs }))

/-- Acquire a target and read it. -/
def State.readTarget (s : State) (c : AccCtx) (t : Target) : Perf := (s.acquireReadT c t).perf fun s1 => s1.readHeld c t

/-- Acquire a target and write it. -/
def State.writeTarget (s : State) (c : AccCtx) (t : Target) (bs : List Byte) : Perf :=
  (s.acquireWriteT c t bs).perf fun s1 => s1.writeHeld c t bs

/-! ## Atomics (R372-R375) -/

/-- The value an atomic writes and the flags of its rounding (R373): `none` when a `cas` fails. -/
def atomValue (op : AtomOp) (el : Elem) (o x new : Nat) : Option Nat × Nat :=
  let w := 8 * el.bytes
  let sgn := match el with | .i32 | .i64 => true | _ => false
  let fmt : Option Fmt := match el with
    | .f32 => some .f32 | .f64 => some .f64 | .f16x2 => some .f16 | .bf16x2 => some .bf16 | _ => none
  let each := fun (f : Fmt → Nat → Nat → Nat × Nat) =>
    match fmt with
    | none => (0, 0)
    | some fm =>
      let b := fm.bits
      if w = b then f fm o x
      else
        let r0 := f fm (o % 2 ^ b) (x % 2 ^ b)
        let r1 := f fm (o / 2 ^ b % 2 ^ b) (x / 2 ^ b % 2 ^ b)
        (r0.1 + r1.1 * 2 ^ b, r0.2 ||| r1.2)
  match op with
  | .add =>
    if fmt.isSome then let r := each (fun fm a b => fpAdd fm .rn a b); (some r.1, r.2)
    else (some ((o + x) % 2 ^ w), 0)
  | .min =>
    if fmt.isSome then let r := each (fun fm a b => fpMin fm a b); (some r.1, r.2)
    else (some (if sgn then (if sextI o w ≤ sextI x w then o else x) else min o x), 0)
  | .max =>
    if fmt.isSome then let r := each (fun fm a b => fpMax fm a b); (some r.1, r.2)
    else (some (if sgn then (if sextI o w ≥ sextI x w then o else x) else max o x), 0)
  | .and => (some (o &&& x), 0)
  | .or => (some (o ||| x), 0)
  | .xor => (some (o ^^^ x), 0)
  | .exch => (some x, 0)
  | .cas => (if o = x then some new else none, 0)

/-- Whether the host accepts an atomic (R44, R374). -/
def hostAtomicOk (op : AtomOp) (el : Elem) : Bool :=
  match op, el with
  | .add, .i32 | .add, .n32 | .add, .i64 | .add, .n64 => true
  | .exch, .b32 | .exch, .b64 => true
  | .cas, .b32 | .cas, .b64 => true
  | _, _ => false

/-- Everything an atomic at a home needs before it performs (R95, R151, R169): every copy recalled, the data at the home, and the
return of the old value, when a core waits for it, checked at its receiver. -/
def State.acquireAtomic (s : State) (a : Agent) (pa : Nat) (el : Elem) : Coh :=
  let line := pa / 128
  (s.homeOpen line true).andThen fun s1 =>
    ((s1.recallLine line).unlessN line).andThen fun s2 =>
      (s2.memFetch line).andThen fun s3 =>
        match l1Core a line with
        | none => .ok s3
        | some g =>
          cohOf (s3.receive (dieOf g) line 11 noHolderId (agentId a) (imageDigest pa (Memory.readBytes s3.mem pa el.bytes) line))

/-- An atomic performs at the home of its line (R95, R96, R120): one read-modify-write, a home-write interval, the old value
and the flags. Memory type 1 keeps no copy. -/
def State.atomicHeld (s : State) (a : Agent) (u : Option Clocked) (pa : Nat) (uncached : Bool) (op : AtomOp) (el : Elem) (x new : Nat) :
    Perf × Nat :=
  let line := pa / 128
  let n := el.bytes
  let o := Memory.readLE s.mem pa n
  let r := atomValue op el o (x % 2 ^ (8 * n)) (new % 2 ^ (8 * n))
  let s1 := s.homeWriteInterval a line (if r.1.isSome then sectorMask line pa n else 0)
  let s2 := (s1.fillMsc line).stale line
  let s3 := match r.1 with
    | some v => { s2 with mem := Memory.writeLE s2.mem pa n v }
    | none => s2
  let (s4, t, _) := s3.homeStamp line u 1
  (.ok (leBytes n o) t t (s4.homeSettle uncached line), r.2)

/-- An atomic at the home of its line, acquired and performed. -/
def State.homeAtomicAt (s : State) (a : Agent) (u : Option Clocked) (pa : Nat) (uncached : Bool) (op : AtomOp) (el : Elem) (x new : Nat) :
    Perf × Nat :=
  match s.acquireAtomic a pa el with
  | .ok s1 => s1.atomicHeld a u pa uncached op el x new
  | .busy s1 => (.busy s1, 0)
  | .poison k s1 => (.poison k s1, 0)
  | .contain p s1 => (.contain p s1, 0)

/-- Everything an atomic at a target needs before it performs. One to host memory needs a free line and a decoder (R35, R44). -/
def State.acquireAtomicT (s : State) (c : AccCtx) (t : Target) (el : Elem) : Coh :=
  match t with
  | .spm _ _ _ => .ok s
  | .phys [] => .ok s
  | .phys (g :: _) =>
    match regionOf s g.pa with
    | .hbm | .ddr => s.acquireAtomic c.agent g.pa el
    | .host =>
      if s.busyLine (g.pa / 128) then .busy s
      else match s.homePoison (g.pa / 128) with
        | some k => .poison k s
        | none => .ok s
    | _ => .ok s

/-- Perform an atomic at an acquired target; the flags come beside (R44, R372). -/
def State.atomicPerform (s : State) (c : AccCtx) (t : Target) (op : AtomOp) (el : Elem) (x new : Nat) : Perf × Nat :=
  match t with
  | .spm k off n =>
    let o := Memory.readLE (s.core k).spm off n
    let r := atomValue op el o (x % 2 ^ (8 * n)) (new % 2 ^ (8 * n))
    let (s1, st, _) := s.bankStamp (c.unit 0) k 1
    let s2 := match r.1 with
      | some v => s1.updCore k (fun y => { y with spm := Memory.writeLE y.spm off n v })
      | none => s1
    (.ok (leBytes n o) st st s2, r.2)
  | .phys segs =>
    match segs with
    | g :: _ =>
      match regionOf s g.pa with
      | .hbm | .ddr => s.atomicHeld c.agent (c.unit (g.pa / 128)) g.pa (pteType g.e.attr == 1) op el x new
      | .host => (.ext [⟨g.pa, 0, el.bytes, false⟩] (List.replicate el.bytes 0#8) 0 0
          ((s.recallOut (g.pa / 128)).evictToHost (g.pa / 128)), 0)
      | _ => (.ext [⟨g.pa, 0, el.bytes, false⟩] (List.replicate el.bytes 0#8) 0 0 s, 0)
    | [] => (.ok [] 0 0 s, 0)

/-- Acquire a target and perform an atomic at it. -/
def State.atomicTarget (s : State) (c : AccCtx) (t : Target) (op : AtomOp) (el : Elem) (x new : Nat) : Perf × Nat :=
  match s.acquireAtomicT c t el with
  | .ok s1 => s1.atomicPerform c t op el x new
  | .busy s1 => (.busy s1, 0)
  | .poison k s1 => (.poison k s1, 0)
  | .contain p s1 => (.contain p s1, 0)

/-- The Taster's signature of the sectors of a target (R146). -/
def Target.signature (t : Target) : Nat :=
  let sig := fun (pa n : Nat) =>
    if n = 0 then 0
    else ((List.range ((pa + n - 1) / 32 - pa / 32 + 1)).map (fun i => (pa / 32 + i) * 32)).foldl
      (fun m p => m ||| 2 ^ (field p 5 5 ^^^ field p 10 5)) 0
  match t with
  | .phys segs => segs.foldl (fun m g => m ||| sig g.pa g.len) 0
  | .spm _ off n => sig off n

/-- The first sector of a target, as address bits 51:5. -/
def Target.sector (t : Target) : Nat :=
  match t with
  | .phys (g :: _) => g.pa / 32
  | .phys [] => 0
  | .spm _ off _ => off / 32

end Sys2Proof.Machine
end

