-- ==== Sys2Proof/Machine/Outside.lean ====
section
/-! DEFINITION. Requests that leave this package for a peer or for the host (spec 02 R35, R38, R44, 18 R470, R471), and the
accesses of Drip and of the control die, whose pieces may do so. -/

namespace Sys2Proof.Machine

/-! ## Requests -/

/-- The request that a peer access sends to the owner of slot i (R38). -/
def peerReq (s : State) (pa : Nat) (op : PeerOp) (tag : Nat) : PeerReq :=
  let p := AMap.getD s.ctl.peers (field pa 38 12) {}
  ⟨Config.pkgId, field p.handle 37 16, field p.handle 29 8, field pa 0 38, op, tag⟩

/-- The fabric port toward a package that the traffic of a line takes: one of its routing mask, chosen by a hash of the line
address (R471). -/
def State.portTo (s : State) (pkg line : Nat) : Option Nat :=
  let ports := (List.range 64).filter (bitN (AMap.getD s.ctl.routing pkg 0))
  ports[Config.portHash line % ports.length]?

/-- A flit more at a port, which keeps its last 256 unacknowledged (R470). -/
def Link.keep (l : Link) (m : OutMsg) : Link :=
  let un := (l.unacked ++ [l.txSeq]).drop (l.unacked.length + 1 - 256)
  { l with
    txSeq := (l.txSeq + 1) % 4096
    unacked := un
    kept := (AMap.set l.kept l.txSeq m).filter (fun (x : Nat × OutMsg) => un.contains x.1) }

/-- A message to a package is one data flit of its port (LOG 39). -/
def State.sendFabric (s : State) (pkg line : Nat) (m : OutMsg) : State :=
  match s.portTo pkg line with
  | none => s.send m
  | some p => (s.updCtl (fun c => { c with links := AMap.upd c.links p {} (fun l => l.keep m) })).send m

/-- The fabric port that a peer access's line takes, which performs it for this package (R144). -/
def State.peerPort (s : State) (pa : Nat) : Nat :=
  (s.portTo (field (AMap.getD s.ctl.peers (field pa 38 12) {}).handle 53 11) (pa / 128)).getD 0

/-- An access goes to the owner of its peer slot, at which it counts until it is answered (R37, R38). -/
def State.sendPeer (s : State) (pa : Nat) (op : PeerOp) (tag : Nat) : State :=
  let i := field pa 38 12
  let owner := field (AMap.getD s.ctl.peers i {}).handle 53 11
  (s.updCtl (fun c => { c with peers := AMap.upd c.peers i {} (fun p => { p with inflight := p.inflight + 1 }) })).sendFabric
    owner (pa / 128) (.peer (peerReq s pa op tag) owner)

/-- The host decoder that claims an address (R35). -/
def hostDecoder (s : State) (pa : Nat) : Option HostDecoder :=
  let hpa := pa - 0x8000000000000
  s.ctl.decoders.find? (fun d => decide (d.base ≤ hpa) && decide (hpa < d.base + d.size))

/-- The CXL port behind which an address of the host lies. -/
def hostPort (s : State) (pa : Nat) : Nat := ((hostDecoder s pa).map (·.port)).getD 0 % 4

/-- An uncached access goes to the host over its decoder's port: CXL.mem where the decoder names memory, else CXL.io (R35). -/
def State.sendHost (s : State) (pa size : Nat) (data : Option Nat) : State :=
  match hostDecoder s pa with
  | some d => s.send (.hostIo d.port d.hdm pa size data)
  | none => s

/-- An engine's access goes out, and its engine remembers it under a slot, with its address, until it is answered. -/
def engineAsk (s : State) (a : Agent) (unit slot pa : Nat) (op : PeerOp) : State :=
  let kept := fun (s : State) => s.updCtl (fun c => { c with engineAsks := c.engineAsks ++ [(unit, slot, pa)] })
  match regionOf s pa with
  | .peer => kept (s.sendPeer pa op (unit * 65536 + slot))
  | _ =>
    match op with
    | .read n => kept (s.sendHost pa n none)
    | .write n v => kept (s.sendHost pa n (some v))
    | .atomic f el x new => s.send (.hostAtomic ⟨a, f, el, pa, x, new⟩)

/-! ## Accesses of Drip and of the control die -/

/-- Unit under which the requests of Drip and of the control die are known outside. -/
def awayUnit : Nat := 400

/-- What such an access answers. -/
inductive Reach where
  | ok (bs : List Byte) (s : State)
  | fault (cause kind payload : Nat) (s : State)
  | wait (s : State)
  deriving Repr, Inhabited

/-- The answer of a homes' part. -/
def Perf.reach (x : Perf) : Reach :=
  match x with
  | .ok bs _ _ s | .ext _ bs _ _ s => .ok bs s
  | .poison k s => .fault 11 k 0 s
  | .contain p s => .fault 10 (field p 104 8) p s
  | .busy s => .wait s

/-- The request of a unit for a piece that has been sent out. -/
def State.awayOf (s : State) (unit : Nat) (x : OutPart) (data : Option Nat) : Option Away :=
  s.ctl.away.find? (fun a => a.unit == unit && a.pa == x.pa && a.n == x.len && a.data == data)

/-- Ask for a piece outside, once. -/
def State.askAway (s : State) (a : Agent) (unit : Nat) (x : OutPart) (data : Option Nat) : State :=
  if (s.awayOf unit x data).isSome then s
  else
    let tag := s.nextOp % 65536
    let op := match data with
      | some v => PeerOp.write x.len v
      | none => PeerOp.read x.len
    (engineAsk { s with nextOp := s.nextOp + 1 } a awayUnit tag x.pa op).updCtl (fun c => { c with
      away := c.away ++ [{ unit := unit, pa := x.pa, n := x.len, data := data, tag := tag }] })

/-- Why a piece outside has failed: no decoder claims it, or its answer says so (R35, R38, R163, R422). -/
def State.awayBad (s : State) (unit : Nat) (x : OutPart) (data : Option Nat) : Option (Nat × Nat × Nat) :=
  if regionOf s x.pa = .host ∧ (hostDecoder s x.pa).isNone then some (11, 4, 0)
  else
    match s.awayOf unit x data with
    | none => none
    | some a =>
      if a.payload ≠ 0 then some (10, field a.payload 104 8, a.payload)
      else match a.answer with
        | some .revoked => some (5, 0x18, 0)
        | some .lost => some (11, if data.isSome then 5 else 1, 0)
        | _ => none

/-- The value that a piece outside has been answered with. -/
def State.awayValue (s : State) (unit : Nat) (x : OutPart) (data : Option Nat) : Option Nat :=
  match (s.awayOf unit x data).bind (·.answer) with
  | some (.data v) => some v
  | _ => none

/-- Bytes with others put in at a place. -/
def spliceBytes (bs : List Byte) (off : Nat) (xs : List Byte) : List Byte :=
  bs.take off ++ xs ++ bs.drop (off + xs.length)

/-- Every piece outside of an access of a unit has been answered, and then the access performs at the homes of its other
pieces; `data` is what a piece writes. -/
def State.reach (s : State) (c : AccCtx) (unit : Nat) (parts : List OutPart) (data : OutPart → Option Nat) (f : State → Reach) :
    Reach :=
  let s1 := parts.foldl (fun s x => s.askAway c.agent unit x (data x)) s
  match parts.findSome? (fun x => s1.awayBad unit x (data x)) with
  | some (cause, kind, p) => .fault cause kind p s1
  | none => if parts.all (fun x => (s1.awayValue unit x (data x)).isSome) then f s1 else .wait s1

/-- Drip or the control die reads a target. -/
def State.reachRead (s : State) (c : AccCtx) (unit : Nat) (t : Target) : Reach :=
  match t with
  | .spm _ _ _ => (s.readTarget c t).reach
  | .phys segs =>
    let parts := s.outParts c false 0 segs
    s.reach c unit parts (fun _ => none) fun s1 =>
      match (s1.readTarget c t).reach with
      | .ok bs s2 => .ok (parts.foldl (fun bs x =>
          spliceBytes bs x.off (leBytes x.len ((s1.awayValue unit x none).getD 0))) bs) s2
      | r => r

/-- Drip or the control die writes a target. -/
def State.reachWrite (s : State) (c : AccCtx) (unit : Nat) (t : Target) (bs : List Byte) : Reach :=
  match t with
  | .spm _ _ _ => (s.writeTarget c t bs).reach
  | .phys segs =>
    s.reach c unit (s.outParts c true 0 segs) (fun x => some (leValue ((bs.drop x.off).take x.len)))
      fun s1 => (s1.writeTarget c t bs).reach

/-- A unit's operation is over: answers that it has used are no longer kept. -/
def State.endAway (s : State) (unit : Nat) : State :=
  if s.ctl.away.any (fun a => a.unit == unit && a.answer.isSome) then
    s.updCtl (fun c => { c with away := c.away.filter (fun a => !(a.unit == unit && a.answer.isSome)) })
  else s

/-- A request of Drip or of the control die is answered; data from a peer is checked where it arrives (R151). -/
def State.awayReply (s : State) (tag : Nat) (r : PeerReply) : State :=
  match s.ctl.away.find? (fun a => a.tag == tag && a.answer.isNone) with
  | none => s
  | some a =>
    let (s1, bad) : State × Option Nat := match r with
      | .data v =>
        if a.data.isNone ∧ regionOf s a.pa = .peer then
          s.receive (if a.unit < 256 then dieOf a.unit else 8) (a.pa / 128) 14 (agentId (Agent.peer 0))
            (if a.unit < 256 then agentId (s.l1Agent a.unit) else noHolderId) (imageDigest a.pa (leBytes a.n v) (a.pa / 128))
        else (s, none)
      | _ => (s, none)
    s1.updCtl (fun c => { c with away := c.away.map (fun (x : Away) =>
      if x.tag = tag ∧ x.answer.isNone then { x with answer := some r, payload := bad.getD 0 } else x) })

end Sys2Proof.Machine
end

