-- ==== Sys2Proof/Machine/Drip.lean ====
section
/-! DEFINITION. The register window of a holder and Drip: frames, granules, the split stack and their spill area
(spec 12 R310-R318, 08 R208, R513, 16 R437). Granule j > 0 of frame f has number 32 f + j; a granule that is written
out leaves the window and stands in memory only. -/

namespace Sys2Proof.Machine

/-! ## Frames, granules, vector registers, predicates -/

/-- Frame record of a number; frame 0 holds the whole window at the positions of its granules (R314). -/
def Holder.getFrame (h : Holder) (f : Nat) : Frame :=
  match AMap.find? h.frames f with
  | some x => x
  | none => if f = 0 then { grans := List.range (h.w / 8), pos := List.range (h.w / 8) } else {}

/-- Vector operands are numbered below this bound: W at depth 0, 8k in a frame of k granules (R317). -/
def Holder.bound (h : Holder) : Nat := 8 * (h.getFrame h.frame).grans.length

/-- Storage key of vector register n in the current frame. -/
def Holder.vkey (h : Holder) (n : Nat) : Nat := 8 * (h.getFrame h.frame).grans.getD (n / 8) 0 + n % 8

/-- Read a vector register; a register never written is u(0) (R232). -/
def Holder.readV (h : Holder) (n : Nat) : VReg := AMap.getD h.vregs (h.vkey n) (.uni 0#32)

/-- Write a vector register. -/
def Holder.writeV (h : Holder) (n : Nat) (v : VReg) : Holder := { h with vregs := AMap.set h.vregs (h.vkey n) v }

/-- Read a predicate: p0 is true (R238), the others start false (R232). -/
def Holder.readP (h : Holder) (n : Nat) : PReg := if n = 0 then .uni true else AMap.getD h.preds n (.uni false)

/-- Write a predicate; a write to p0 is discarded (R238). -/
def Holder.writeP (h : Holder) (n : Nat) (p : PReg) : Holder :=
  if n = 0 then h else { h with preds := AMap.set h.preds n p }

/-- The granule at a ring position; 2^32 stands for none. -/
def Holder.ringAt (h : Holder) (p : Nat) : Nat := AMap.getD h.ring p p

/-- No granule. -/
def noGran : Nat := 2 ^ 32

/-! ## Drip's accesses -/

/-- What a Drip transfer answers: done, a fault (cause, kind, address, payload), or something that is waited for. -/
inductive Drip where
  | ok (s : State) (h : Holder)
  | fault (s : State) (cause kind addr payload : Nat)
  | parked (s : State)
  deriving Repr, Inhabited

/-- Continue after a transfer. -/
def Drip.bind (x : Drip) (f : State → Holder → Drip) : Drip :=
  match x with
  | .ok s h => f s h
  | y => y

/-- Drip works under the holder's ASID with supervisor rights, at the homes (LOG 23). -/
def dripCtx (s : State) (g asid : Nat) : AccCtx :=
  { agent := s.l1Agent g, req := .core g, core := g, asid := asid, sup := true, grid := 0, team := 0
    vector := true, engine := true }

/-- The answer of an access as that of a Drip transfer at ea. -/
def Reach.drip (x : Reach) (ea : Nat) (f : State → List Byte → Drip) : Drip :=
  match x with
  | .ok bs s => f s bs
  | .fault cause kind p s => .fault s cause kind (if cause = 10 then field p 115 45 * 128 else ea) p
  | .wait s => .parked s

/-- Drip writes bytes at a virtual address. -/
def State.dripWrite (s : State) (g : Nat) (h : Holder) (ea : Nat) (bs : List Byte) : Drip :=
  let c := dripCtx s g h.asid
  match s.resolve c .glob ea bs.length .store true with
  | .ok t s1 => (s1.reachWrite c g t bs).drip ea fun s2 _ => .ok s2 h
  | .fault c k a s1 => .fault s1 c k a 0
  | .parked s1 => .parked s1

/-- Drip reads bytes at a virtual address. -/
def State.dripRead (s : State) (g : Nat) (h : Holder) (ea n : Nat) (f : State → List Byte → Drip) : Drip :=
  let c := dripCtx s g h.asid
  match s.resolve c .glob ea n .load true with
  | .ok t s1 => (s1.reachRead c g t).drip ea f
  | .fault c k a s1 => .fault s1 c k a 0
  | .parked s1 => .parked s1

/-! ## Images (R437, R513) -/

/-- n zero bytes. -/
def zeroBytes (n : Nat) : List Byte := List.replicate n 0#8

/-- A list cut or filled with zeros to n bytes. -/
def fitBytes (n : Nat) (bs : List Byte) : List Byte := (bs ++ zeroBytes n).take n

/-- Image of a vector register: dense 96 words, or b, ts, is in the first 12 bytes (R437). -/
def vregBytes : VReg → List Byte
  | .uni c => fitBytes 384 (leBytes 4 c.toNat)
  | .aff b ts is => fitBytes 384 (leBytes 4 b.toNat ++ leBytes 4 ts.toNat ++ leBytes 4 is.toNat)
  | .dense xs => fitBytes 384 (xs.flatMap (fun x => leBytes 4 x.toNat))

/-- Form tag (R236). -/
def vregTag : VReg → Nat
  | .dense _ => 0
  | .uni _ => 1
  | .aff _ _ _ => 2

/-- A register from its tag and image. -/
def vregOf (tag : Nat) (bs : List Byte) : VReg :=
  let w := fun j => BitVec.ofNat 32 (leValue ((bs.drop (4 * j)).take 4))
  if tag = 1 then .uni (w 0) else if tag = 2 then .aff (w 0) (w 1) (w 2) else .dense ((List.range 96).map w)

/-- Image of granule o: its 8 registers, then 64 bytes with the form tags (R513). -/
def Holder.granImage (h : Holder) (o : Nat) : List Byte :=
  let rs := (List.range 8).map (fun i => AMap.getD h.vregs (8 * o + i) (.uni 0#32))
  let tags := (List.range 8).foldl (fun t i => t + vregTag (rs.getD i (.uni 0#32)) * 4 ^ i) 0
  rs.flatMap vregBytes ++ fitBytes 64 (leBytes 2 tags)

/-- Put a granule's image back into the window. -/
def Holder.loadGran (h : Holder) (o : Nat) (bs : List Byte) : Holder :=
  let tags := leValue ((bs.drop 3072).take 2)
  (List.range 8).foldl (fun h i =>
    { h with vregs := AMap.set h.vregs (8 * o + i) (vregOf (field tags (2 * i) 2) ((bs.drop (384 * i)).take 384)) }) h

/-- Frame record of R513. -/
def frameBytes (x : Frame) : List Byte :=
  fitBytes 64 (leBytes 8 x.ret ++ leBytes 2 x.parent ++ leBytes 2 x.depth ++ leBytes 1 x.grans.length
    ++ x.pos.map (fun p => BitVec.ofNat 8 p))

/-- Split-stack entry of R513. -/
def splitBytes (e : SplitEntry) : List Byte :=
  fitBytes 64 (leBytes 8 e.pc ++ leBytes 12 e.lanes.toNat ++ leBytes 2 e.depth ++ leBytes 2 e.frame
    ++ leBytes 1 (if e.waiting then 1 else 0))

/-- A split-stack entry from its record. -/
def splitOf (bs : List Byte) : SplitEntry :=
  { pc := leValue (bs.take 8), lanes := BitVec.ofNat 96 (leValue ((bs.drop 8).take 12))
    depth := leValue ((bs.drop 20).take 2), frame := leValue ((bs.drop 22).take 2)
    waiting := leValue ((bs.drop 24).take 1) == 1 }

/-! ## The spill area (R208, R513) -/

/-- First byte of the spill area of slot q of core g for a holder's grid. -/
def spillBaseOf (s : State) (g q : Nat) (h : Holder) : Nat :=
  recSpillBase (s.recOf h) + (g * 32 + q) * recSpillSize (s.recOf h)

/-- A Drip write at an offset of the spill area; beyond the area it is the fault of R316. -/
def State.spillWrite (s : State) (g q : Nat) (h : Holder) (off : Nat) (bs : List Byte) : Drip :=
  let base := spillBaseOf s g q h
  let size := recSpillSize (s.recOf h)
  if size < off + bs.length then .fault s 4 2 (base + size) 0 else s.dripWrite g h (base + off) bs

/-- Offset of a granule's image. -/
def granOffset (h : Holder) (o : Nat) : Nat := 65536 + ((o / 32) * (h.w / 8) + o % 32) * 3136

/-- Drip writes a granule out. -/
def State.spillGran (s : State) (g q : Nat) (h : Holder) (o : Nat) : Drip :=
  (s.spillWrite g q h (granOffset h o) (h.granImage o)).bind fun s1 h1 =>
    .ok s1 { h1 with
      vregs := (List.range 8).foldl (fun m i => AMap.erase m (8 * o + i)) h1.vregs
      outGrans := h1.outGrans ++ [o] }

/-- Make a list of granules resident at their ring positions (R316). -/
def makeResident (g q : Nat) : List (Nat × Nat) → State → Holder → Drip
  | [], s, h => .ok s h
  | (o, p) :: rest, s, h =>
    let cur := h.ringAt p
    let cleared := if cur = o ∨ cur = noGran ∨ h.outGrans.contains cur then Drip.ok s h else s.spillGran g q h cur
    cleared.bind fun s1 h1 =>
      let h2 := { h1 with ring := AMap.set h1.ring p o }
      if h2.outGrans.contains o then
        s1.dripRead g h2 (spillBaseOf s1 g q h2 + granOffset h2 o) 3136 (fun s2 bs =>
          makeResident g q rest s2 ({ h2 with outGrans := h2.outGrans.filter (· != o) }.loadGran o bs))
      else makeResident g q rest s1 h2

/-- Frame records in the slot: the live frames that are not written out, frame 0 among them. -/
def Holder.residentFrames (h : Holder) : List Nat :=
  (0 :: (h.frames.map (·.1)).filter (· != 0)).filter (fun f => !h.outFrames.contains f)

/-- The oldest record that is not the current frame's: the least depth, then the lowest number. -/
def Holder.oldestFrame (h : Holder) : Option Nat :=
  (h.residentFrames.filter (· != h.frame)).foldl (fun acc f =>
    match acc with
    | none => some f
    | some b => if (h.getFrame f).depth < (h.getFrame b).depth then some f else some b) none

/-- Drip writes older frame records out until the slot keeps 32 (R314). -/
def trimFrames (g q : Nat) : Nat → State → Holder → Drip
  | 0, s, h => .ok s h
  | n + 1, s, h =>
    if h.residentFrames.length ≤ 32 then .ok s h
    else
      match h.oldestFrame with
      | none => .ok s h
      | some f =>
        (s.spillWrite g q h (32768 + 64 * f) (frameBytes (h.getFrame f))).bind fun s1 h1 =>
          trimFrames g q n s1 { h1 with outFrames := h1.outFrames ++ [f] }

/-- Read a frame record back. -/
def State.loadFrame (s : State) (g q : Nat) (h : Holder) (f : Nat) : Drip :=
  if h.outFrames.contains f then
    s.dripRead g h (spillBaseOf s g q h + 32768 + 64 * f) 64 (fun s1 bs =>
      let k := leValue ((bs.drop 12).take 1)
      let parent := leValue ((bs.drop 8).take 2)
      let shared := (h.getFrame parent).grans.getLast?.getD 0
      let x : Frame :=
        { ret := leValue (bs.take 8), parent := parent, depth := leValue ((bs.drop 10).take 2)
          grans := if f = 0 then List.range k else shared :: (List.range (k - 1)).map (fun j => 32 * f + j + 1)
          pos := ((bs.drop 13).take k).map (·.toNat) }
      .ok s1 { h with frames := AMap.set h.frames f x, outFrames := h.outFrames.filter (· != f) })
  else .ok s h

/-- The group takes a path in frame f: its record and its granules become resident (R316). -/
def State.enterFrame (s : State) (g q : Nat) (h : Holder) (f : Nat) : Drip :=
  (s.loadFrame g q h f).bind fun s1 h1 =>
    let x := h1.getFrame f
    (makeResident g q (x.grans.zip x.pos) s1 h1).bind fun s2 h2 =>
      trimFrames g q 33 s2 { h2 with frame := f }

/-- A frame and its ancestors. -/
def Holder.chain (h : Holder) : Nat → Nat → List Nat
  | 0, _ => []
  | n + 1, f => if f = 0 then [0] else f :: Holder.chain h n (h.getFrame f).parent

/-- Free every frame that no path is in, nor in a frame descended from it; its granules are discarded (R315). -/
def Holder.freeFrames (h : Holder) : Holder :=
  let live := ((h.frame :: h.stack.map (·.frame)) ++ h.spilled).flatMap (h.chain 513)
  let alive := fun (o : Nat) => live.contains (o / 32)
  { h with
    frames := h.frames.filter (fun p => live.contains p.1)
    outFrames := h.outFrames.filter live.contains
    outGrans := h.outGrans.filter alive
    vregs := h.vregs.filter (fun p => alive (p.1 / 8))
    ring := (List.range (h.w / 8)).foldl (fun r p =>
      let o := AMap.getD h.ring p p
      if o = noGran ∨ alive o then r else AMap.set r p noGran) h.ring }

/-- Take the path of frame f and free what no path needs any more. -/
def State.takeFrame (s : State) (g q : Nat) (h : Holder) (f : Nat) : Drip :=
  s.enterFrame g q { h with frame := f }.freeFrames f

/-! ## The split stack (R310-R313) -/

/-- Push an entry; with 32 in the slot, Drip writes the deepest resident one out (R310). -/
def State.pushSplit (s : State) (g q : Nat) (h : Holder) (e : SplitEntry) : Drip :=
  if h.stack.length < 32 then .ok s { h with stack := e :: h.stack }
  else
    match h.stack.getLast? with
    | none => .ok s { h with stack := [e] }
    | some b =>
      if h.spilled.length ≥ 512 then .fault s 4 2 (spillBaseOf s g q h + recSpillSize (s.recOf h)) 0
      else
        (s.spillWrite g q h (64 * h.spilled.length) (splitBytes b)).bind fun s1 h1 =>
          .ok s1 { h1 with stack := e :: h1.stack.dropLast, spilled := h1.spilled ++ [b.frame] }

/-- After a pop, Drip reads the deepest entry it holds back into the slot. -/
def State.refillSplit (s : State) (g q : Nat) (h : Holder) : Drip :=
  if h.stack.length < 32 ∧ h.spilled ≠ [] then
    let n := h.spilled.length - 1
    s.dripRead g h (spillBaseOf s g q h + 64 * n) 64 (fun s1 bs =>
      .ok s1 { h with stack := h.stack ++ [splitOf bs], spilled := h.spilled.dropLast })
  else .ok s h

/-- Pop and discard every top entry that holds no live lane (R312). -/
def dropDead (g q : Nat) : Nat → State → Holder → Drip
  | 0, s, h => .ok s h
  | n + 1, s, h =>
    match h.stack with
    | [] => .ok s h
    | e :: rest =>
      if e.lanes &&& h.live = 0#96 then
        (s.refillSplit g q { h with stack := rest }).bind fun s1 h1 => dropDead g q n s1 h1
      else .ok s h

/-- Resume an entry that has been popped (R312): its lanes form both S and M. -/
def State.resumeEntry (s : State) (g q : Nat) (h : Holder) (e : SplitEntry) : Drip :=
  let lanes := e.lanes &&& h.live
  s.takeFrame g q { h with
    pc := (if e.waiting then e.pc + 8 else e.pc) % 2 ^ 64, path := lanes, mask := lanes } e.frame

/-- Pop the top entry and resume it; the answer is none when the stack is empty (R313). -/
def State.resumeTop (s : State) (g q : Nat) (h : Holder) : Option Drip :=
  match dropDead g q 600 s h with
  | .ok s1 h1 =>
    match h1.stack with
    | [] => none
    | e :: rest => some ((s1.refillSplit g q { h1 with stack := rest }).bind fun s2 h2 => s2.resumeEntry g q h2 e)
  | x => some x

end Sys2Proof.Machine
end

