-- ==== Sys2Proof/Machine/Fifo.lean ====
section
/-! DEFINITION. Rings in memory (spec 19 R477), the branch-and-mask trace FIFO of a core and its packets (R489). -/

namespace Sys2Proof.Machine

/-- Whether a ring's base and size follow their rules (R477). -/
def Ring.ok (r : Ring) (s : State) : Bool :=
  r.base % 4096 == 0 && decide (4096 ≤ r.size) && decide (r.size ≤ 2 ^ 30) && r.size == 2 ^ Nat.log2 r.size
    && (regionOf s r.base == .hbm || regionOf s r.base == .ddr) && spanOk s r.base r.size

/-- Write bytes into a ring; it wraps and overwrites its oldest bytes (R477). -/
def State.ringPut (s : State) (r : Ring) (bs : List Byte) : State × Ring :=
  if r.ok s then
    let o := r.head % r.size
    let n := r.size - o
    let s1 := s.unitPut .firmware false (r.base + o) (bs.take n)
    let s2 := if bs.length ≤ n then s1 else s1.unitPut .firmware false r.base (bs.drop n)
    (s2, { r with head := r.head + bs.length })
  else (s, r)

/-- Whether a slot is traced: the mask of DBGCTL (R477). -/
def Core.traced (c : Core) (q : Nat) : Bool := bitN c.dbg.dbgctl (32 + q)

/-- The mask a packet carries. -/
def Holder.traceMask (h : Holder) : Lanes := if h.kind = .range then BitVec.allOnes 96 else h.mask

/-- A SYNC packet (R489). -/
def syncPacket (clock q : Nat) (h : Holder) : List Byte :=
  [BitVec.ofNat 8 (32 + q), 0#8] ++ leBytes 6 clock ++ leBytes 7 h.pc ++ leBytes 1 (h.stack.length + h.spilled.length)
    ++ leBytes 12 h.traceMask.toNat

/-- A packet enters the FIFO of 1 KiB, or is dropped (R489). -/
def State.fifoPut (s : State) (g : Nat) (bs : List Byte) : State :=
  s.updCore g (fun c =>
    if c.dbg.dropped > 0 ∨ c.dbg.fifo.length + bs.length > 1024 then
      { c with dbg := { c.dbg with dropped := min (c.dbg.dropped + 1) 65535 } }
    else { c with dbg := { c.dbg with fifo := c.dbg.fifo ++ bs, lastPacket := s.clock } })

/-- Write a SYNC of a slot. -/
def State.traceSync (s : State) (g q : Nat) (h : Holder) : State :=
  (s.fifoPut g (syncPacket s.clock q h)).updCore g (fun c =>
    { c with dbg := { c.dbg with synced := AMap.set c.dbg.synced q (h.pc / 2 ^ 19 + 1) } })

/-- Write a packet of a kind for a traced slot; a delta above 255 makes it a SYNC taken after the event (R489). -/
def State.trace (s : State) (g q : Nat) (h : Holder) (kind : Nat) (rest : List Byte) : State :=
  let c := s.core g
  if bitN c.dbg.dbgctl 1 && c.traced q then
    let d := s.clock - c.dbg.lastPacket
    if d > 255 then s.traceSync g q h else s.fifoPut g ([BitVec.ofNat 8 (32 * kind + q), BitVec.ofNat 8 d] ++ rest)
  else s

end Sys2Proof.Machine
end

