-- ==== Sys2Proof/Machine/Forms.lean ====
section
/-! DEFINITION. Forms of vector registers and predicates (spec 07 R182-R187, 09 R236-R238): values at members, interval
conditions at the corners of a range, and the rows of the form table. -/

namespace Sys2Proof.Machine

/-- Members over which forms are decided: T and the corner set of R184 as (team, item), lowest member first. -/
structure FormCtx where
  t : Nat
  corners : List (Int × Int)
  multi : Bool
  lo : Nat
  hi : Nat
  deriving Repr, Inhabited

/-- The corner set of members [lo, hi) (R184). -/
def cornersOf (t lo hi : Nat) : FormCtx :=
  let t0 := lo / t
  let t1 := (hi - 1) / t
  let z := fun (a b : Nat) => ((a : Int), (b : Int))
  let c0 := [z t0 (lo % t), z t1 ((hi - 1) % t)]
  let c1 := if t1 > t0 then [z t0 (t - 1), z t1 0] else []
  let c2 := if t1 > t0 + 1 then [z (t0 + 1) 0, z (t0 + 1) (t - 1), z (t1 - 1) 0, z (t1 - 1) (t - 1)] else []
  ⟨t, c0 ++ c1 ++ c2, decide (t1 > t0), lo, hi⟩

/-- b, ts, is of a uniform or affine register. -/
def VReg.coef : VReg → Option (Word × Word × Word)
  | .uni c => some (c, 0#32, 0#32)
  | .aff b ts is => some (b, ts, is)
  | .dense _ => none

/-- A function stored as uniform when its strides are zero (R182). -/
def mkAff (b ts is : Word) : VReg := if ts = 0#32 ∧ is = 0#32 then .uni b else .aff b ts is

/-- Value for member (t, i), lane L (R182). -/
def VReg.at (r : VReg) (t i L : Nat) : Word :=
  match r with
  | .uni c => c
  | .aff b ts is => b + ts * BitVec.ofNat 32 t + is * BitVec.ofNat 32 i
  | .dense xs => xs.getD L 0#32

/-- Exact value at a corner, b read as signed or unsigned (R184). -/
def exactAt (c : Word × Word × Word) (signed : Bool) (p : Int × Int) : Int :=
  (if signed then c.1.toInt else (c.1.toNat : Int)) + c.2.1.toInt * p.1 + c.2.2.toInt * p.2

/-- No wrap at any corner in a view (R184). -/
def noWrap (x : FormCtx) (signed : Bool) (c : Word × Word × Word) : Bool :=
  x.corners.all (fun p =>
    let v := exactAt c signed p
    if signed then decide (-(2 ^ 31) ≤ v) && decide (v < 2 ^ 31) else decide (0 ≤ v) && decide (v < 2 ^ 32))

/-- How often a function wraps in a view at each corner; none when the corners differ. The values held differ from the exact
ones by that multiple of 2^32. -/
def wraps (x : FormCtx) (signed : Bool) (c : Word × Word × Word) : Option Int :=
  match x.corners.map (fun p => (exactAt c signed p + (if signed then 2 ^ 31 else 0)) / 2 ^ 32) with
  | [] => none
  | k :: ks => if ks.all (· == k) then some k else none

/-- Exact strides of a difference: whether it is non-decreasing, non-increasing (R184). -/
def monotone (x : FormCtx) (ts is : Int) : Bool × Bool :=
  (decide (is ≥ 0) && (!x.multi || decide (ts - is * ((x.t : Int) - 1) ≥ 0)),
   decide (is ≤ 0) && (!x.multi || decide (ts - is * ((x.t : Int) - 1) ≤ 0)))

/-- Add and subtract (R185): componentwise. -/
def formAdd (a b : VReg) : Option VReg := do
  let x ← a.coef
  let y ← b.coef
  pure (mkAff (x.1 + y.1) (x.2.1 + y.2.1) (x.2.2 + y.2.2))

/-- Subtract. -/
def formSub (a b : VReg) : Option VReg := do
  let x ← a.coef
  let y ← b.coef
  pure (mkAff (x.1 - y.1) (x.2.1 - y.2.1) (x.2.2 - y.2.2))

/-- Negate. -/
def formNeg (a : VReg) : Option VReg := do
  let x ← a.coef
  pure (mkAff (-x.1) (-x.2.1) (-x.2.2))

/-- Multiply an affine by a uniform (R185). -/
def formMul (a b : VReg) : Option VReg :=
  match a, b with
  | .uni c, r => r.coef.map (fun x => mkAff (c * x.1) (c * x.2.1) (c * x.2.2))
  | r, .uni c => r.coef.map (fun x => mkAff (c * x.1) (c * x.2.1) (c * x.2.2))
  | _, _ => none

/-- vshl by a uniform amount. -/
def formShl (a k : VReg) : Option VReg :=
  match k with
  | .uni n => a.coef.map (fun (x : Word × Word × Word) =>
      mkAff (x.1 <<< (n.toNat % 32)) (x.2.1 <<< (n.toNat % 32)) (x.2.2 <<< (n.toNat % 32)))
  | _ => none

/-- vshr and vsar by a uniform amount (R185): strides multiples of 2^k, no wrap in the view. -/
def formShr (signed : Bool) (x : FormCtx) (a k : VReg) : Option VReg :=
  match k with
  | .uni n =>
    let s := n.toNat % 32
    match a.coef with
    | some c =>
      if c.2.1.toNat % 2 ^ s = 0 ∧ c.2.2.toNat % 2 ^ s = 0 ∧ noWrap x signed c then
        some (mkAff (if signed then c.1.sshiftRight s else c.1 >>> s) (c.2.1.sshiftRight s) (c.2.2.sshiftRight s))
      else none
    | none => none
  | _ => none

/-- vrot by a multiple of 32. -/
def formRot (a k : VReg) : Option VReg :=
  match k, a with
  | .uni n, .aff _ _ _ => if n.toNat % 32 = 0 then some a else none
  | _, _ => none

/-- Whether m = 2^j − 1 with both strides multiples of 2^j for some j. -/
def lowMask (m ts is : Nat) : Bool :=
  (List.range 33).any (fun j => m == 2 ^ j - 1 && ts % 2 ^ j == 0 && is % 2 ^ j == 0)

/-- Whether m = not(2^j − 1) with both strides multiples of 2^j for some j. -/
def highMask (m ts is : Nat) : Bool :=
  (List.range 33).any (fun j => m == 2 ^ 32 - 2 ^ j && ts % 2 ^ j == 0 && is % 2 ^ j == 0)

/-- vand of an affine with a uniform mask (R185). -/
def formAndMask (c : Word × Word × Word) (m : Word) : Option VReg :=
  if m = 0xFFFFFFFF#32 then some (mkAff c.1 c.2.1 c.2.2)
  else if lowMask m.toNat c.2.1.toNat c.2.2.toNat then some (.uni (c.1 &&& m))
  else if highMask m.toNat c.2.1.toNat c.2.2.toNat then some (mkAff (c.1 &&& m) c.2.1 c.2.2)
  else none

/-- vand. -/
def formAnd (a b : VReg) : Option VReg :=
  match a, b with
  | .aff b0 ts is, .uni m => formAndMask (b0, ts, is) m
  | .uni m, .aff b0 ts is => formAndMask (b0, ts, is) m
  | _, _ => none

/-- vandn: vand with the complement. -/
def formAndn (a b : VReg) : Option VReg :=
  match a, b with
  | .aff b0 ts is, .uni m => formAndMask (b0, ts, is) (~~~m)
  | _, _ => none

/-- vor, vxor with a uniform mask below 2^j, strides multiples of 2^j (R185). -/
def formOrXor (f : Word → Word → Word) (a b : VReg) : Option VReg :=
  let go := fun (b0 ts is m : Word) =>
    if (List.range 33).any (fun j => decide (m.toNat < 2 ^ j) && ts.toNat % 2 ^ j == 0 && is.toNat % 2 ^ j == 0) then
      some (mkAff (f b0 m) ts is)
    else none
  match a, b with
  | .aff b0 ts is, .uni m => go b0 ts is m
  | .uni m, .aff b0 ts is => go b0 ts is m
  | _, _ => none

/-- vmin, vmax (R185): neither wraps and the difference keeps one sign at every corner. -/
def formMinMax (isMax signed : Bool) (x : FormCtx) (a b : VReg) : Option VReg :=
  match a.coef, b.coef with
  | some p, some q =>
    if noWrap x signed p && noWrap x signed q then
      let d := x.corners.map (fun c => exactAt p signed c - exactAt q signed c)
      if d.all (fun v => decide (v ≤ 0)) then some (if isMax then b else a)
      else if d.all (fun v => decide (v ≥ 0)) then some (if isMax then a else b)
      else none
    else none
  | _, _ => none

/-- vabs .i32 (R185). -/
def formAbs (x : FormCtx) (a : VReg) : Option VReg :=
  match a.coef with
  | some p =>
    if noWrap x true p then
      let d := x.corners.map (exactAt p true)
      if d.all (fun v => decide (v ≥ 0)) then some a
      else if d.all (fun v => decide (v ≤ 0) && decide (v > -(2 ^ 31))) then formNeg a
      else none
    else none
  | none => none

/-- vabsd (R185). -/
def formAbsd (signed : Bool) (x : FormCtx) (a b : VReg) : Option VReg :=
  match a.coef, b.coef with
  | some p, some q =>
    if noWrap x signed p && noWrap x signed q then
      let d := x.corners.map (fun c => exactAt p signed c - exactAt q signed c)
      if d.all (fun v => decide (v ≥ 0)) then formSub a b
      else if d.all (fun v => decide (v ≤ 0)) then formSub b a
      else none
    else none
  | _, _ => none

/-- vsadd, vssub (R185): the sum of the values held, in the type's view, lies in range at every corner, or beyond one bound at
every corner. An operand that wraps at some corners and not at others holds no such function (DEDUCED from R237, LOG 32). -/
def formSat (sub signed : Bool) (x : FormCtx) (a b : VReg) : Option VReg :=
  match a.coef, b.coef with
  | some p, some q =>
    match wraps x signed p, wraps x signed q with
    | some m, some n =>
      let lo : Int := if signed then -(2 ^ 31) else 0
      let hi : Int := if signed then 2 ^ 31 - 1 else 2 ^ 32 - 1
      let d := x.corners.map (fun c =>
        let u := exactAt p signed c - m * 2 ^ 32
        let v := exactAt q signed c - n * 2 ^ 32
        if sub then u - v else u + v)
      if d.all (fun v => decide (lo ≤ v) && decide (v ≤ hi)) then (if sub then formSub a b else formAdd a b)
      else if d.all (fun v => decide (v > hi)) then some (.uni (BitVec.ofInt 32 hi))
      else if d.all (fun v => decide (v < lo)) then some (.uni (BitVec.ofInt 32 lo))
      else none
    | _, _ => none
  | _, _ => none

/-- 64-bit add and subtract of pairs (R185): the carry or borrow out of the low half is the same at every corner. It is that of
the values held, also where a half wraps (DEDUCED from R237, LOG 32). -/
def formAdd64 (sub : Bool) (x : FormCtx) (al ah bl bh : VReg) : Option (VReg × VReg) := do
  let p ← al.coef
  let q ← bl.coef
  let _ ← ah.coef
  let _ ← bh.coef
  let m ← wraps x false p
  let n ← wraps x false q
  let cs := x.corners.map (fun c =>
    let u := exactAt p false c - m * 2 ^ 32
    let v := exactAt q false c - n * 2 ^ 32
    if sub then decide (u < v) else decide (u + v ≥ 2 ^ 32))
  let c0 ← cs.head?
  if cs.all (· == c0) then
    let lo ← if sub then formSub al bl else formAdd al bl
    let h1 ← if sub then formSub ah bh else formAdd ah bh
    let hi ← if sub then formSub h1 (.uni (if c0 then 1#32 else 0#32)) else formAdd h1 (.uni (if c0 then 1#32 else 0#32))
    pure (lo, hi)
  else none

/-! ## Compares and predicates (R183, R186) -/

/-- The set of members for which a condition holds: none, all, a prefix [lo, c) or a suffix [c, hi). -/
inductive TruthSet where
  | none | all
  | upTo (c : Nat)
  | fromOn (c : Nat)
  deriving DecidableEq, Repr, Inhabited

/-- The relation of a condition code on integers. -/
def condInt (c : Cond) (d : Int) : Bool :=
  match c with
  | .eq => d == 0
  | .ne => d != 0
  | .lt => decide (d < 0)
  | .le => decide (d ≤ 0)
  | .gt => decide (d > 0)
  | .ge => decide (d ≥ 0)
  | _ => false

/-- Lowest member at which a monotone truth changes, by bisection: the truth at lo differs from the truth at hi - 1. -/
def changePoint (f : Nat → Bool) (v0 : Bool) : Nat → Nat → Nat → Nat
  | 0, _, hi => hi
  | n + 1, lo, hi =>
    -- the truth at lo is v0, at hi it is not
    if hi ≤ lo + 1 then hi
    else
      let m := (lo + hi) / 2
      if f m == v0 then changePoint f v0 n m hi else changePoint f v0 n lo m

/-- vicmp with uniform or affine operands (R186): the true set, or none when it is dense. -/
def formCmp (cond : Cond) (signed : Bool) (x : FormCtx) (a b : VReg) : Option TruthSet :=
  match a.coef, b.coef with
  | some p, some q =>
    let dts := p.2.1.toInt - q.2.1.toInt
    let dis := p.2.2.toInt - q.2.2.toInt
    let wrapFree := noWrap x signed p && noWrap x signed q
    let at_ := fun (m : Nat) =>
      let c := (((m / x.t : Nat) : Int), ((m % x.t : Nat) : Int))
      exactAt p signed c - exactAt q signed c
    let mono := monotone x dts dis
    match cond with
    | .eq | .ne =>
      if dts = 0 ∧ dis = 0 then
        some (if condInt cond ((p.1 - q.1).toNat : Int) then .all else .none)
      else if (mono.1 || mono.2) && wrapFree then
        let d := x.corners.map (fun c => exactAt p signed c - exactAt q signed c)
        if d.all (fun v => decide (v > 0)) || d.all (fun v => decide (v < 0)) then
          some (if cond = .ne then .all else .none)
        else none
      else none
    | _ =>
      if wrapFree && (mono.1 || mono.2) then
        let f := fun m => condInt cond (at_ m)
        let v0 := f x.lo
        let v1 := f (x.hi - 1)
        if v0 = v1 then some (if v0 then .all else .none)
        else
          let c := changePoint f v0 64 x.lo (x.hi - 1)
          some (if v0 then .upTo c else .fromOn c)
      else none
  | _, _ => none

/-- A predicate of a range context from a prefix (R183). -/
def mkThr (lo hi c : Nat) : PReg := if c ≤ lo then .uni false else if hi ≤ c then .uni true else .thr c

/-- The true set of a predicate over [lo, hi), complemented when `neg` (R190). -/
def PReg.truth (p : PReg) (neg : Bool) (lo hi : Nat) : TruthSet :=
  match p with
  | .uni b => if b != neg then .all else .none
  | .thr c =>
    if c ≤ lo then (if neg then .all else .none)
    else if hi ≤ c then (if neg then .none else .all)
    else if neg then .fromOn c else .upTo c
  | .dense _ => .none

/-- Lane L of a predicate in a group. -/
def PReg.lane (p : PReg) (L m : Nat) : Bool :=
  match p with
  | .uni b => b
  | .thr c => decide (m < c)
  | .dense x => x.getLsbD L

end Sys2Proof.Machine
end

