-- ==== Sys2Proof/Machine/Holders.lean ====
section
/-! DEFINITION. Placing, cutting, unfolding and ending holders: slots and windows (spec 08 R222-R226), pieces (07 R193),
cut, unfold and teamcut (R195), scratchpad and barrier allocation (02 R41, 14 R378), exits (12 R313), bins
(07 R200-R202). -/

namespace Sys2Proof.Machine

/-! ## Windows and slots -/

/-- Whether a window of w registers at a fits beside the windows a core has given out. -/
def Core.fits (c : Core) (a w : Nat) : Bool :=
  decide (a + w ≤ c.regs) && c.slots.all (fun p => decide (a + w ≤ p.2.win) || decide (p.2.win + p.2.w ≤ a))

/-- The lowest address where a window of w registers fits (R225): 0, or the end of another window. -/
def Core.findWindow (c : Core) (w : Nat) : Option Nat :=
  ((0 :: c.slots.map (fun p => p.2.win + p.2.w)).filter (fun a => c.fits a w)).foldl (fun acc a =>
    match acc with
    | none => some a
    | some b => if a < b then some a else some b) none

/-- The lowest free slot. -/
def Core.findFree (c : Core) : Option Nat := (List.range 32).find? (fun q => !AMap.has c.slots q)

/-- Whether a core holds no context, nor anything of a team that runs on it. -/
def Core.empty (c : Core) : Bool := c.slots.isEmpty && c.pieces.isEmpty && c.bins.isEmpty && c.allocs.isEmpty

/-- An agent gives up lines of its L1. -/
def State.evictLines (s : State) (a : Agent) (ls : List Nat) : State := ls.foldl (fun s l => s.evictL1 a l) s

/-- Lines that no longer fit when a set has w ways: the spec gives no bank of a line, and the last of the list go (DESIGN CHOICE,
LOG 36; R78). -/
def overflowing (fused : Bool) (w : Nat) : List Nat → List Nat → List Nat
  | _, [] => []
  | kept, l :: ls =>
    if (kept.filter (fun x => sameSet fused x l)).length < w then overflowing fused w (l :: kept) ls else l :: overflowing fused w kept ls

/-- A core takes a split: the lines of the banks that leave its L1 go first. -/
def State.takeSplit (s : State) (g l1 spm : Nat) : State :=
  let c := s.core g
  let s1 := if l1 < c.l1Banks then s.evictLines (s.l1Agent g) (overflowing (s.cluster (cluOf g)).fused (l1 / 2) [] (c.l1.map (·.1))) else s
  s1.updCore g (fun c => { c with l1Banks := l1, spmBanks := spm })

/-- Core c as a context of core x would find it: a core with no context takes the split of x (R78). -/
def Core.withSplit (c x : Core) : Core := if c.empty then { c with l1Banks := x.l1Banks, spmBanks := x.spmBanks } else c

/-- Cores a context cut on core g may take a slot of: its own first, then those of a fused cluster that have its split or no
context (R78, R211). -/
def State.slotCores (s : State) (g : Nat) : List Nat :=
  let x := s.core g
  if (s.cluster (cluOf g)).fused then
    g :: ((List.range 4).map (fun k => 4 * cluOf g + k)).filter (fun k =>
      let c := (s.core k).withSplit x
      k != g && c.l1Banks == x.l1Banks && c.spmBanks == x.spmBanks)
  else [g]

/-- A free slot with a free window. -/
def State.findSlot (s : State) (g w : Nat) : Option (Nat × Nat × Nat) :=
  (s.slotCores g).findSome? (fun k =>
    ((s.core k).findFree).bind (fun q => (((s.core k).withSplit (s.core g)).findWindow w).map (fun a => (k, q, a))))

/-- Put a holder into a free slot; it joins the active set when a place is vacant (R222);
PROG starts from 0 (R477). -/
def State.putNew (s : State) (k q win : Nat) (h : Holder) : State :=
  (s.putHolder k q { h with win := win, age := 0 }).updCore k (fun c =>
    { c with
      active := if c.active.length < 8 then c.active ++ [q] else c.active
      floors := AMap.set c.floors q { start := c.lclock }
      dbg := { c.dbg with prog := AMap.erase c.dbg.prog q, synced := AMap.erase c.dbg.synced q } })

/-- A context from core g takes slot q of core k, which takes the split of g when it holds none (R78). -/
def State.seat (s : State) (g k q win : Nat) (h : Holder) : State :=
  let c := s.core g
  let x := s.core k
  (if k ≠ g ∧ x.empty ∧ (x.l1Banks ≠ c.l1Banks ∨ x.spmBanks ≠ c.spmBanks) then s.takeSplit k c.l1Banks c.spmBanks else s).putNew k q win h

/-! ## Pieces (R193) -/

/-- What placing a part answers; a fault (cause, kind, address, payload) leaves nothing placed. -/
inductive Place where
  | ok (s : State)
  | fault (cause kind addr payload : Nat)
  | parked (s : State)
  | wait (w : Wait)
  deriving Repr, Inhabited

/-- Continue after a placement. -/
def Place.bind (x : Place) (f : State → Place) : Place :=
  match x with
  | .ok s => f s
  | y => y

/-- A Drip transfer as a placement. -/
def Drip.place (x : Drip) (f : State → Holder → Place) : Place :=
  match x with
  | .ok s h => f s h
  | .fault _ c k a p => .fault c k a p
  | .parked s => .parked s

/-- Records and images that a holder has in its spill area: offset and length (R513). -/
def Holder.outParts (h : Holder) : List (Nat × Nat) :=
  (List.range h.spilled.length).map (fun n => (64 * n, 64)) ++ h.outFrames.map (fun f => (32768 + 64 * f, 64))
    ++ h.outGrans.map (fun o => (granOffset h o, 3136))

/-- Length of a spill image, rounded up to 4 KiB. -/
def Holder.imageLen (h : Holder) : Nat := ((h.outParts.map (fun p => p.1 + p.2)).foldl max 0 + 4095) / 4096 * 4096

/-- Pages of a holder's spill image: its spill area from the start on (R193). -/
def Holder.imageParts (h : Holder) : List (Nat × Nat) := (List.range (h.imageLen / 4096)).map (fun k => (4096 * k, 4096))

/-- Copy what is written out from one area to another. -/
def copyParts (g src dst : Nat) : List (Nat × Nat) → State → Holder → Drip
  | [], s, h => .ok s h
  | (off, n) :: rest, s, h =>
    s.dripRead g h (src + off) n (fun s1 bs =>
      (s1.dripWrite g h (dst + off) bs).bind fun s2 h2 => copyParts g src dst rest s2 h2)

/-- Predicate field of a record: dense bits, or the cut of a range context (R437). -/
def predField (h : Holder) (p : PReg) : List Byte :=
  match h.kind, p with
  | .range, .uni b => fitBytes 12 (leBytes 8 (if b then h.hi else h.lo))
  | .range, .thr c => fitBytes 12 (leBytes 8 c)
  | _, .uni b => leBytes 12 (if b then 2 ^ 96 - 1 else 0)
  | _, .thr c => fitBytes 12 (leBytes 8 c)
  | _, .dense m => leBytes 12 m.toNat

/-- The register at place n of a holder's window. -/
def Holder.winReg (h : Holder) (n : Nat) : VReg := AMap.getD h.vregs (8 * h.ringAt (n / 8) + n % 8) (.uni 0#32)

/-- Kind code of a record. -/
def HKind.code : HKind → Nat
  | .range => 1 | .group => 2 | .bin => 3

/-- An accumulator name in a record (R437): its state, the tile's columns and unit numbers, 10 bits each (LOG 24). -/
def accField (x : Cluster) (a : AccName) : List Byte :=
  if a.state = 0 then []
  else
    let us := (x.units.filter (fun p => p.2 == a.tile)).map (·.1)
    leBytes 1 a.state ++ leBytes 1 ((AMap.find? x.tiles a.tile).map (·.cols) |>.getD 0)
      ++ leBytes 14 (us.foldr (fun u n => u + 1024 * n) 0)

/-- The fields of the slot record of R437: offset and bytes. `area` is the spill-area address, `image` the spill-image
length in 4 KiB units, x the cluster whose pool has its tiles. The layout inside the packed fields 0x020, 0x028, 0x034, 0x0E8 and a0-a7 is a choice (LOG 24). -/
def recordFields (s : State) (x : Nat) (h : Holder) (area image : Nat) : List (Nat × List Byte) :=
  let codes := (List.range 7).foldl (fun c i => c + AMap.getD h.gcodes (i + 1) 0 * 4 ^ i) 0
  let flags := (if h.mode then 1 else 0) + (if h.status = .halted then 2 else 0)
    + (if h.status = .awaiting then 4 else 0) + (if h.pend ≠ [] then 8 else 0)
  [ (0x000, leBytes 4 1), (0x004, leBytes 1 h.kind.code), (0x005, leBytes 1 flags), (0x006, leBytes 1 h.prio),
    (0x007, leBytes 1 (h.w / 8)), (0x008, leBytes 8 h.pc),
    (0x020, leBytes 4 (s.grid h.grid).number ++ leBytes 2 h.asid ++ leBytes 1 h.depth ++ leBytes 1 (h.frames.length)),
    (0x028, leBytes 8 h.age ++ leBytes 4 h.watchdog), (0x034, leBytes 4 h.fflags ++ leBytes 4 h.batchCount),
    (0x040, leBytes 8 (h.tags.foldl (fun b p => b + 2 ^ p.1) 0)), (0x048, leBytes 12 h.live.toNat),
    (0x058, leBytes 8 area), (0x0E0, leBytes 8 h.tpc),
    (0x0E8, leBytes 4 ((h.stack.length + h.spilled.length) % 1024 + h.replay.length * 1024 + codes * 2 ^ 18)),
    (0x0EC, leBytes 4 image) ]
  ++ (if h.kind = .range then [(0x010, leBytes 8 h.lo ++ leBytes 8 h.hi)] else [])
  ++ (if h.mode then [(0x060, leBytes 128 h.trapFrame)] else [])
  ++ (List.range 64).map (fun n => (0x200 + 4 * n, leBytes 4 (h.readS n).toNat))
  ++ (List.range 24).map (fun n => (0x300 + 12 * n, predField h (h.readP n)))
  ++ ((List.range 15).zip h.replay).map (fun p => (0x440 + 8 * p.1, leBytes 8 p.2.pc))
  ++ h.shapes.map (fun p => (0x800 + 64 * p.1, leBytes 64 p.2))
  ++ [(0xC00, leBytes 64 ((List.range h.w).foldl (fun t n => t + vregTag (h.winReg n) * 4 ^ n) 0))]
  ++ h.accs.map (fun p => (0xC40 + 16 * p.1, accField (s.cluster x) p.2))
  ++ (List.range h.w).map (fun n => (0x1000 + 384 * n, vregBytes (h.winReg n)))

/-- A sparse image from fields. -/
def imageOf (fields : List (Nat × List Byte)) : Memory :=
  fields.foldl (fun m f => Memory.writeBytes m f.1 f.2) []

/-- Bytes of an image from a place on. -/
def imageBytes : Nat → Nat → Memory → List Byte
  | 0, _, _ => []
  | n + 1, o, [] => 0#8 :: imageBytes n (o + 1) []
  | n + 1, o, c :: cs => if c.1 = o then c.2 :: imageBytes n (o + 1) cs else 0#8 :: imageBytes n (o + 1) (c :: cs)

/-- Put an image over the pieces of a region whose lines the homes have taken, zero where the image lists nothing. -/
def putImage (img : Memory) : Nat → List Seg → State → State
  | _, [], s => s
  | off, g :: gs, s =>
    let m := (img.filter (fun c => decide (off ≤ c.1) && decide (c.1 < off + g.len))).foldl
      (fun m c => Memory.write m (g.pa + (c.1 - off)) c.2) (Memory.clear s.mem g.pa (g.pa + g.len))
    putImage img (off + g.len) gs
      ((linesOf g.pa g.len).foldl (fun s l => s.homeSettle (pteType g.e.attr == 1) l) { s with mem := m })

/-- Drip writes a record. -/
def State.writeRecord (s : State) (g : Nat) (h : Holder) (ea size : Nat) (img : Memory) : Drip :=
  let c := dripCtx s g h.asid
  match s.resolve c .glob ea size .store true with
  | .ok (.phys segs) s1 =>
    let bs := imageBytes size 0 img
    if (s1.outParts c true 0 segs).isEmpty then
      match acquireWrites c segs bs s1 with
      | .ok s2 => .ok (putImage img 0 segs s2) h
      | .busy s2 => .parked s2
      | .poison k s2 => .fault s2 11 k ea 0
      | .contain p s2 => .fault s2 10 (field p 104 8) (field p 115 45 * 128) p
    else (s1.reachWrite c g (.phys segs) bs).drip ea fun s2 _ => .ok s2 h
  | .ok _ s1 => .ok s1 h
  | .fault c k a s1 => .fault s1 c k a 0
  | .parked s1 => .parked s1

/-- Bytes of the slot part of a piece record. -/
def Holder.recordLen (h : Holder) : Nat := (0x1000 + h.w * 384 + 4095) / 4096 * 4096

/-- Where a record of n bytes goes in the piece ring; none when it would reach space not yet reusable (R193). -/
def Core.ringPlace (c : Core) (n : Nat) : Option Nat :=
  let off := if c.pieceHead + n > 2 ^ 36 then 0 else c.pieceHead
  match c.pieces.filter (·.away.isNone) with
  | [] => some off
  | p :: _ =>
    if p.off < c.pieceHead then
      if off = c.pieceHead ∨ n ≤ p.off then some off else none
    else if off = c.pieceHead ∧ off + n ≤ p.off then some off else none

/-- A part becomes a piece of core g (R193). -/
def State.placePiece (s : State) (g src : Nat) (h : Holder) : Place :=
  let c := s.core g
  let n := h.recordLen + h.imageLen
  match c.ringPlace n with
  | none => .wait .pieceRing
  | some off =>
    let ea := recPieceBase (s.recOf h) + g * 2 ^ 36 + off
    let img := imageOf (recordFields s (cluOf g) h ea (h.imageLen / 4096))
    (s.writeRecord g h ea h.recordLen img).place fun s1 h1 =>
      (copyParts g src (ea + h.recordLen) h1.imageParts s1 h1).place fun s2 h2 =>
        .ok ((s2.updCore g (fun c => { c with
          pieces := c.pieces ++ [⟨h2, off, n, none⟩]
          pieceHead := off + n })).push
          (if decide (h2.w ≤ c.regs - c.slots.foldl (fun t p => t + p.2.w) 0) && c.findFree.isSome
              && !recNoCompact (s.recOf h2) then [.compaction g] else []))

/-- Place a new part: a free slot, or a piece. `src` is the spill area its written-out state stands in. The commands
that its origin issued stay with the origin. -/
def State.place (s : State) (g src : Nat) (part : Holder) : Place :=
  let h := { part with cmds := [] }
  match s.findSlot g h.w with
  | some (k, q, win) =>
    (copyParts k src (spillBaseOf s k q h) h.outParts s h).place fun s1 h1 => .ok (s1.seat g k q win h1)
  | none => s.placePiece g src h

/-! ## Cutting and unfolding (R195) -/

/-- The part [lo, hi) of a range context: thresholds are stored under R183. -/
def Holder.clip (h : Holder) (lo hi : Nat) : Holder :=
  { h with
    lo := lo
    hi := hi
    preds := h.preds.map (fun p => (p.1, match p.2 with
      | .thr c => mkThr lo hi c
      | x => x)) }

/-- cut(K, c): the lower part stays in its slot, the upper part is placed; each is changed by its own function. -/
def State.cutWith (s : State) (g q : Nat) (h : Holder) (c : Nat) (low high : Holder → Holder) : Place :=
  (s.place g (spillBaseOf s g q h) (high { h.clip c h.hi with status := .ready })).bind fun s1 =>
    .ok (s1.putHolder g q (low (h.clip h.lo c)))

/-- The groups of a range (R195): team, group, live lanes. -/
def groupsOf (t lo hi : Nat) : List (Nat × Nat × Lanes) :=
  (List.range ((hi - 1) / t - lo / t + 1)).flatMap (fun k =>
    let tm := lo / t + k
    (List.range ((t + 95) / 96)).filterMap (fun j =>
      let a := max lo (tm * t + 96 * j)
      let b := min hi (tm * t + min (96 * j + 96) t)
      if a < b then some (tm, j, laneRange (a - (tm * t + 96 * j)) (b - (tm * t + 96 * j))) else none))

/-- A dense group of a range context (R195). -/
def Holder.toGroup (h : Holder) (t : Nat) (x : Nat × Nat × Lanes) : Holder :=
  (if h.mode then id else Holder.applyMaskWrites) { h with
    kind := .group
    status := .ready
    team := x.1
    group := x.2.1
    live := x.2.2
    mask := x.2.2
    path := x.2.2
    preds := (List.range 24).filterMap (fun n =>
      match h.readP n with
      | .uni true => if n = 0 then none else some (n, .dense (BitVec.allOnes 96))
      | .uni false => none
      | .thr c => some (n, .dense (laneSetOf (fun L => decide (x.1 * t + 96 * x.2.1 + L < c))))
      | p => some (n, p)) }

/-- Place the remaining groups of an unfold; when no slot is free, the rest becomes a range context piece. -/
def placeGroups (g src t : Nat) (h : Holder) : List (Nat × Nat × Lanes) → State → Place
  | [], s => .ok s
  | x :: rest, s =>
    if (s.findSlot g h.w).isSome then
      (s.place g src (h.toGroup t x)).bind fun s1 => placeGroups g src t h rest s1
    else
      let lo := x.1 * t + 96 * x.2.1 + (lowestLane x.2.2).getD 0
      s.placePiece g src { h.clip lo h.hi with status := .ready, cmds := [] }

/-- unfold(K) at its instruction. When a handler forces it (R43), the other groups resume as `tret` would let them. -/
def State.unfold (s : State) (g q : Nat) (h : Holder) : Place :=
  let t := recT (s.recOf h)
  match groupsOf t h.lo h.hi with
  | [] => .ok s
  | x :: rest =>
    (placeGroups g (spillBaseOf s g q h) t (if h.mode then h.leaveTrap else h) rest s).bind fun s1 =>
      .ok (s1.putHolder g q (h.toGroup t x))

/-! ## Scratchpad and barrier blocks (R41, R42, R378) -/

/-- Lowest offset where n bytes fit in a core's partition. -/
def Core.findSpm (c : Core) (n : Nat) : Option Nat :=
  ((0 :: c.allocs.map (fun a => a.off + a.size)).filter (fun o => decide (o + n ≤ c.partition)
      && c.allocs.all (fun a => decide (o + n ≤ a.off) || decide (a.off + a.size ≤ o)))).foldl (fun acc a =>
    match acc with
    | none => some a
    | some b => if a < b then some a else some b) none

/-- Bytes of a partition that no team has. -/
def Core.spmFree (c : Core) : Nat := c.partition - c.allocs.foldl (fun t a => t + a.size) 0

/-- The core that holds a new team's scratchpad: on a fused cluster the one with the most free, ties to the lowest
(R211). -/
def State.spmCore (s : State) (g : Nat) : Nat :=
  if (s.cluster (cluOf g)).fused then
    ((List.range 4).map (fun k => 4 * cluOf g + k)).foldl
      (fun best k => if (s.core best).spmFree < (s.core k).spmFree then k else best) (4 * cluOf g)
  else g

/-- Allocate a team's scratchpad and barrier block; none when there is no room. A team that has them keeps them. -/
def State.allocTeam (s : State) (g : Nat) (h : Holder) (team : Nat) : Option State :=
  if (s.teamAlloc g h.grid team).isSome then some s
  else
    let k := s.spmCore g
    let c := s.core k
    let n := recTeamSpm (s.recOf h)
    match c.findSpm n, (List.range 64).find? (fun b => !c.allocs.any (fun a => a.block == b)) with
    | some off, some b =>
      some (s.updCore k (fun c => { c with
        allocs := c.allocs ++ [⟨h.grid, team, off, n, b⟩]
        barriers := (List.range 16).foldl
          (fun m j => AMap.set m (16 * b + j) { e := recT (s.recOf h), arrived := 0, drop := 0, p := 0 }) c.barriers }))
    | _, _ => none

/-- Teams of a range and how many members of each it holds. -/
def teamsOf (t lo hi : Nat) : List (Nat × Nat × Nat) :=
  (List.range ((hi - 1) / t - lo / t + 1)).map (fun k =>
    let tm := lo / t + k
    (tm, max lo (tm * t), min hi (tm * t + t)))

/-- Place one context for each team after the first; what does not fit stays at the instruction as a piece. -/
def placeTeams (g src : Nat) (h : Holder) : List (Nat × Nat × Nat) → State → Place
  | [], s => .ok s
  | (tm, lo, hi) :: rest, s =>
    match (if (s.findSlot g h.w).isSome then s.allocTeam g h tm else none) with
    | some s1 => (s1.place g src { h.clip lo hi with status := .ready }).bind fun s2 => placeTeams g src h rest s2
    | none => s.placePiece g src { h.clip lo h.hi with status := .ready, cmds := [] }

/-- teamcut(K): the answer is `ok` with the holder's own team allocated; `wait` when none can be (R195). A context of
several teams stands at the instruction in its parts. -/
def State.teamCut (s : State) (g q : Nat) (h : Holder) : Place :=
  let t := recT (s.recOf h)
  match h.kind with
  | .range =>
    match teamsOf t h.lo h.hi with
    | [] => .ok s
    | (tm, lo, hi) :: rest =>
      match s.allocTeam g h tm with
      | none => .wait .scratchpad
      | some s1 =>
        (placeTeams g (spillBaseOf s g q h) h rest s1).bind fun s2 =>
          .ok (s2.putHolder g q { h.clip lo hi with status := .ready })
  | _ =>
    match s.allocTeam g h h.team with
    | none => .wait .scratchpad
    | some s1 => .ok s1

/-- Whether a holder stands for members of several teams. -/
def Holder.multiTeam (h : Holder) (t : Nat) : Bool := h.kind == .range && decide (h.lo / t < (h.hi - 1) / t)

/-- Team of a holder of one team. -/
def Holder.teamOf (h : Holder) (t : Nat) : Nat := if h.kind = .range then h.lo / t else h.team

/-! ## Ends of items and holders (R313, R180, R225, R240) -/

/-- Items of a team end: counted toward the team, which retires when none is left (R180). -/
def State.endItems (s : State) (g grid team n : Nat) (stopped : Bool) : State :=
  let gr := s.grid grid
  let m := AMap.getD gr.teams team 0 + n
  let s1 := s.updGrid grid (fun x => { x with
    teams := AMap.set x.teams team m
    teamStopped := if stopped && !x.teamStopped.contains team then x.teamStopped ++ [team] else x.teamStopped })
  if m = recT gr.record then s1.push [.teamRetire g grid team] else s1

/-- The stamp record of a tile (R483). -/
def Tile.stampRecord (t : Tile) (clock : Nat) : List Byte :=
  fitBytes 64 ([BitVec.ofNat 8 t.core, BitVec.ofNat 8 t.slot, BitVec.ofNat 8 t.name, BitVec.ofNat 8 t.cols]
    ++ leBytes 2 (t.count % 32768 + (if t.orphan then 32768 else 0))
    ++ (List.range 5).flatMap (fun k => leBytes 6 (AMap.getD t.stamps k 0)) ++ leBytes 6 clock)

/-- A tile returns to the pool of cluster x; its stamps are recorded when ECTL asks for it (R483). -/
def State.freeTile (s : State) (x t : Nat) : State :=
  let c := s.cluster x
  match AMap.find? c.tiles t with
  | none => s
  | some tile =>
    let s1 := s.updCluster x (fun c => { c with
      tiles := AMap.erase c.tiles t, units := c.units.filter (fun p => p.2 != t) })
    if bitN c.eng.ectl 1 then
      let (s2, r) := s1.ringPut c.eng.sr (tile.stampRecord s.clock)
      s2.updCluster x (fun c => { c with eng := { c.eng with sr := r } })
    else s1

/-- A tile whose holder has gone returns to the pool when no pass on it is queued (R240). -/
def State.dropTile (s : State) (x t : Nat) : State :=
  match AMap.find? (s.cluster x).tiles t with
  | none => s
  | some tile =>
    let s1 := s.updCluster x (fun c => { c with tiles := AMap.set c.tiles t { tile with orphan := true } })
    if tile.passes = 0 then s1.freeTile x t else s1

/-- A holder leaves its slot: window, tiles and queue places are given up. -/
def State.removeHolder (s : State) (g q : Nat) (h : Holder) : State :=
  let s1 := h.accs.foldl (fun s p => if p.2.state = 0 then s else s.dropTile (cluOf g) p.2.tile) s
  let s2 := s1.updCore g (fun c => { c with
    slots := AMap.erase c.slots q
    active := c.active.filter (· != q)
    dbg := { c.dbg with exited := AMap.set c.dbg.exited q h.pc }
    ccache := if (AMap.erase c.slots q).any (fun p => p.2.grid == h.grid) then c.ccache
      else c.ccache.filter (fun l => l.1 != h.grid) })
  let s3 := s2.updCtl (fun c => { c with
    wqs := c.wqs.map (fun p => (p.1, { p.2 with sleepers := p.2.sleepers.filter (fun a => !(a.core == g && a.slot == q)) })) })
  (s3.push ((if (s3.core g).pieces.isEmpty ∧ (s3.core g).ranges.isEmpty then [] else [.piecePlace g])
    ++ h.cmds.map Event.commandComplete))

/-- Every item of a holder ends. -/
def State.endMembers (s : State) (g : Nat) (h : Holder) (stopped : Bool) : State :=
  let t := recT (s.recOf h)
  match h.kind with
  | .range => (teamsOf t h.lo h.hi).foldl (fun (s : State) (x : Nat × Nat × Nat) => s.endItems g h.grid x.1 (x.2.2 - x.2.1) stopped) s
  | _ => s.endItems g h.grid h.team (laneCount h.live) stopped

/-- Every item of a holder ends, by `exit`, a disposition or a cancel, and the holder leaves. -/
def State.endHolder (s : State) (g q : Nat) (h : Holder) (stopped : Bool) : State :=
  ((s.endMembers g h stopped).trace g q h 6 []).removeHolder g q h

/-- Whether ending n items of a team would need a team record that is not free (R180). -/
def State.noRecord (s : State) (g grid team n : Nat) : Bool :=
  AMap.getD (s.grid grid).teams team 0 + n == recT (s.grid grid).record
    && s.grids.any (fun p => p.2.parent == some (grid, team) && p.2.done.isNone)
    && decide (4096 ≤ (s.die (dieOf g)).teamRecords.length)

/-- A stopped holder of a cancelled grid (R218). -/
def State.stopHolder (s : State) (g q : Nat) : State :=
  match s.holder? g q with
  | none => s
  | some h => s.endHolder g q h true

/-- Whether the grid of a holder is being cancelled. -/
def State.cancelled (s : State) (h : Holder) : Bool := (s.grid h.grid).cancel

/-- A containment payload in which a stopped instruction's scope stands in for 7 (R167), if it is the same violation. -/
def stopMark (p r : Nat) : Nat :=
  let plain := fun (x : Nat) => setField (setField x 112 3 7) 96 8 0
  if field r 112 3 = 7 ∧ plain r = plain p then setField r 112 3 (field p 112 3) else r

/-- A violation that stops an instruction carries its scope, at the checker that found it and in its report (R167, R175). -/
def State.markStopped (s : State) (p : Nat) : State :=
  if p = 0 then s
  else
    let id := field p 192 16
    (s.updChecker (id / 2 ^ 12) (id / 2 ^ 9 % 8) (id % 2 ^ 9) (fun c => { c with last := stopMark p c.last })).updCtl
      (fun c => { c with reports := c.reports.map (stopMark p) })

/-- A trap of a holder: a cancelled grid's holder stops instead of entering its handler (R430); a range context is cut
at the faulting member first (R429). -/
def State.raise (s0 : State) (g q : Nat) (h : Holder) (t : PendTrap) : State :=
  let s := s0.markStopped t.payload
  if s0.cancelled h then s0.endHolder g q h true
  else
    match h.kind, t.member with
    | .range, some k =>
      if h.lo < k ∧ k < h.hi then
        match s.place g (spillBaseOf s g q h) { (h.clip h.lo k).advance 8 with status := .ready } with
        | .ok s1 => s1.enterTrap g q (h.clip k h.hi) { t with done := 0#96 }
        | .fault c kd a p => s.enterTrap g q h
            { t with cause := c, kind := kd, tval := a, payload := p, lane := 127, member := none }
        | .parked s1 => s1.putHolder g q { h with pend := h.pend ++ [t], status := .blocked (s1.walkWait g) }
        | .wait w => s.putHolder g q { h with pend := h.pend ++ [t], status := .blocked w }
      else s.enterTrap g q h { t with done := 0#96 }
    | _, _ => s.enterTrap g q h t

/-! ## Bins (R200-R202) -/

/-- Lane values of carried register j. -/
def binReg (items : List (Nat × List Word)) (j : Nat) : VReg :=
  .dense ((List.range 96).map (fun L => ((items.getD L (0, [])).2).getD j 0#32))

/-- The dense group a bin launches (R202). -/
def Bin.group (s : State) (b : Bin) : Holder :=
  let r := (s.grid b.grid).record
  let n := (b.items.head?.map (fun x => x.2.length)).getD 0
  let live := laneRange 0 b.items.length
  { kind := .bin, grid := b.grid, team := b.team, items := b.items.map (·.1), live := live, mask := live, path := live
    pc := b.entry, vregs := (List.range n).map (fun j => (j, binReg b.items j)), prio := b.prio, w := b.w
    depth := recDepth r, asid := recAsid r }

/-- Launch bin i of a core. -/
def State.binLaunch (s : State) (g i : Nat) : Place :=
  match AMap.find? (s.core g).bins i with
  | none => .ok s
  | some b => (s.updCore g (fun c => { c with bins := AMap.erase c.bins i })).place g 0 (b.group s)

/-- The bin that holds the oldest item. -/
def Core.oldestBin (c : Core) : Nat :=
  match c.bins with
  | [] => 0
  | p :: ps => (ps.foldl (fun (best : Nat × Nat) x => if x.2.first < best.2 then (x.1, x.2.first) else best) (p.1, p.2.first)).1

/-- A bin starts at place i of a core with its first item. -/
def State.binStart (s : State) (g i : Nat) (b : Bin) (item : Nat × List Word) : State :=
  { s with nextOp := s.nextOp + 1 }.updCore g (fun c => { c with
    bins := AMap.set c.bins i { b with started := s.clock, items := [item], first := s.nextOp } })

/-- An item enters the bin of its key (R200, R201). -/
def State.binAdd (s : State) (g : Nat) (b0 : Bin) (item : Nat × List Word) : Place :=
  let c := s.core g
  match List.find? (fun (p : Nat × Bin) => p.2.entry == b0.entry && p.2.grid == b0.grid && p.2.team == b0.team) c.bins with
  | some (i, b) =>
    let s1 := s.updCore g (fun c => { c with bins := AMap.set c.bins i { b with items := b.items ++ [item] } })
    if b.items.length + 1 ≥ 96 then s1.binLaunch g i else .ok s1
  | none =>
    match (List.range 16).find? (fun i => !AMap.has c.bins i) with
    | some i => .ok (s.binStart g i b0 item)
    | none =>
      let i := c.oldestBin
      (s.binLaunch g i).bind fun s1 => .ok (s1.binStart g i b0 item)

/-- Items enter one after another. -/
def binAddAll (g : Nat) : List (Bin × (Nat × List Word)) → State → Place
  | [], s => .ok s
  | (b, x) :: rest, s => (s.binAdd g b x).bind fun s1 => binAddAll g rest s1

end Sys2Proof.Machine
end

