-- ==== Sys2Proof/Machine/Ext.lean ====
section
/-! DEFINITION. Accesses that leave the core for register space, a storage port, a peer or the host, and wait for an
answer (spec 02 R29, R32, R35, R38, R44). -/

namespace Sys2Proof.Machine

/-- An access at an offset of register space within a storage port's downstream window becomes a PCIe request on that port, at bus
address DSB + o (R32). -/
def State.sendStorage (s : State) (off size : Nat) (data : Option Nat) : State :=
  let port := if off < 0xC00000000 then 0 else 1
  let base := if port = 0 then 0x800000000 else 0xC00000000
  s.send (.storage port (((AMap.getD s.ctl.storage port {}).dsb + (off - base)) % 2 ^ 64) size data)

/-- Send an access out: register space answers as a step of its own; a storage window becomes a PCIe request
(R32); a peer access goes to the owner (R38); an atomic to host memory goes to the host (R44). -/
def State.sendOut (s : State) (g q pa size : Nat) (data : Option Nat) (at_ : Option AtomReq) (tag : Nat) : State :=
  match regionOf s pa with
  | .reg => s.push [.registerSpaceAnswer g q]
  | .storage => s.sendStorage (pa - regBase) size data
  | .peer => s.sendPeer pa (match at_, data with
      | some r, _ => PeerOp.atomic r.op r.elem r.x r.new
      | none, some d => .write size d
      | none, none => .read size) tag
  | .host => match at_ with
    | some r => s.send (.hostAtomic r)
    | none => s.sendHost pa size data
  | _ => s

/-- An access of a holder goes out and is remembered until its answer. Of a read-only import the whole line is asked for (R82). -/
def State.askExt (s : State) (g q : Nat) (h : Holder) (x : ExtAccess) (at_ : Option AtomReq) : State × Holder :=
  let tag := s.nextOp
  ({ s with nextOp := tag + 1 }.sendOut g q (if x.whole then x.pa / 128 * 128 else x.pa) (if x.whole then 128 else x.size) x.data at_ tag, { h with ext := h.ext ++ [{ x with
    tag := tag, atom := at_
    count := if h.pc = x.pc then AMap.getD (s.core g).dbg.prog q 0 + 1 else 0 }] })

end Sys2Proof.Machine
end

