-- ==== Sys2Proof/Machine/Operands.lean ====
section
/-! DEFINITION. Operand forms and the checks at issue: the registers each instruction names, misnamed registers and
pairs (spec 09 R233, R236, 11 R282 failure 7), privilege and single-lane decode (R282 failure 6, 16 R425), lookahead
(R284, R286, R287), future tags (R242), guards (R283) and lane values (R293). -/

namespace Sys2Proof.Machine

/-- Register files. `fut` is a scalar register read as a handle, without the blocking read (R415). -/
inductive RFile where
  | s | v | p | h | fut
  deriving DecidableEq, Repr, Inhabited

/-- A register operand: file, first register, how many, whether it is written, whether it is misnamed. -/
structure Opnd where
  file : RFile
  n : Nat
  cnt : Nat
  write : Bool
  bad : Bool
  deriving DecidableEq, Repr, Inhabited

/-- A misnamed scalar pair (R233). -/
def badPair (n : Nat) : Bool := n % 2 == 1 || n == 60

/-- A scalar source, 32 bits or a pair. -/
def sIn (wide : Bool) (n : Nat) : Opnd := ⟨.s, n, if wide then 2 else 1, false, wide && badPair n⟩
/-- A scalar destination. -/
def sOut (wide : Bool) (n : Nat) : Opnd := ⟨.s, n, if wide then 2 else 1, true, wide && badPair n⟩
/-- A scalar destination that may not be s61 to s63. -/
def sLow (n : Nat) : Opnd := ⟨.s, n, 1, true, decide (61 ≤ n)⟩
/-- A vector source, 32 bits or an even pair (R236). -/
def vIn (wide : Bool) (n : Nat) : Opnd := ⟨.v, n, if wide then 2 else 1, false, wide && n % 2 == 1⟩
/-- A vector destination. -/
def vOut (wide : Bool) (n : Nat) : Opnd := ⟨.v, n, if wide then 2 else 1, true, wide && n % 2 == 1⟩
/-- A predicate source or destination. -/
def pIn (n : Nat) : Opnd := ⟨.p, n, 1, false, false⟩
/-- A predicate destination. -/
def pOut (n : Nat) : Opnd := ⟨.p, n, 1, true, false⟩
/-- A shape register source. -/
def hIn (n : Nat) : Opnd := ⟨.h, n, 1, false, false⟩
/-- A shape register destination. -/
def hOut (n : Nat) : Opnd := ⟨.h, n, 1, true, false⟩
/-- A B or C operand under its kind bit (R274). -/
def kIn (scalar wide : Bool) (n : Nat) : Opnd := if scalar then sIn wide n else vIn wide n

/-- V3 rows: D, A, B, C, each marked w or 32. -/
def v3Use (o : V3Op) (d a : Bool) (b c : Option Bool) (dRead : Bool) : List Opnd :=
  let w := o.ty.wide
  [pIn o.g.pred, vOut (w && d) o.d] ++ (if dRead then [vIn w o.d] else []) ++ [vIn (w && a) o.a]
    ++ (b.toList.map (fun x => kIn o.bk (w && x) o.b)) ++ (c.toList.map (fun x => kIn o.ck (w && x) o.c))

/-- S rows. -/
def sUse (o : SOp) (d : Bool) (b c : Option Bool) : List Opnd :=
  let w := o.ty.wide
  [sOut (w && d) o.d, sIn w o.a] ++ (b.toList.map (fun x => sIn (w && x) o.b))
    ++ (c.toList.map (fun x => sIn (w && x) o.c))

/-- VI rows (R341). -/
def viUse (o : VIOp) : List Opnd := [pIn o.g.pred, vOut o.ty.wide o.d, vIn o.ty.wide o.a]

/-- Base pair and offset of a memory operand (R361). -/
def memUse (a b : Nat) (kind : OffKind) (pair : Bool) : List Opnd :=
  sIn true a :: (match kind with
    | .vec => [vIn pair b]
    | .sca => [sIn false b]
    | _ => [])

/-- Register of an element (R362). -/
def elemOp (vector write : Bool) (bytes n : Nat) : Opnd :=
  let cnt := if bytes ≤ 4 then 1 else bytes / 4
  ⟨if vector then .v else .s, n, cnt, write,
    if cnt = 4 then n % 4 != 0 || (!vector && decide (56 < n))
    else if cnt = 2 then (if vector then n % 2 == 1 else badPair n) else false⟩

/-- Loads. -/
def loadUse (o : MOp) (vector pair : Bool) : List Opnd :=
  (if vector then [pIn o.g.pred] else []) ++ [elemOp vector true o.elem.bytes o.d] ++ memUse o.a o.b o.kind pair

/-- Stores. -/
def storeUse (o : MOp) (vector pair : Bool) : List Opnd :=
  (if vector then [pIn o.g.pred] else []) ++ [elemOp vector false o.elem.bytes o.d] ++ memUse o.a o.b o.kind pair

/-- Atomics (R276, R372): the operand, the new value of a `cas`, and the old value unless `.nr`. -/
def atomUse (op : AtomOp) (o : MOp) (vector : Bool) : List Opnd :=
  let f := if vector then RFile.v else .s
  let bytes := o.elem.bytes
  let first := if op = .cas then
      (if bytes = 8 then ⟨f, o.d, 4, false, o.d % 2 == 1 || (!vector && decide (56 < o.d))⟩
       else ⟨f, o.d, 2, false, !vector && o.d == 63⟩)
    else elemOp vector false bytes o.d
  (if vector then [pIn o.g.pred] else []) ++ [first]
    ++ (if o.x % 2 = 1 then [] else [elemOp vector true bytes o.d]) ++ memUse o.a o.b o.kind false

/-- Engine commands (R392, R393): the counter pair is even and at most s58 (R394). -/
def cmdUse (o : CmdOp) (mid : List Opnd) : List Opnd :=
  [pIn o.g.pred, sLow o.d] ++ mid ++ (o.cnt.toList.map (fun k => ⟨.s, k, 2, false, badPair k || decide (58 < k)⟩))

/-- Width of a special register (R243): none for a number not in the table. -/
def sysWide : Nat → Option Bool
  | 0x00 | 0x02 | 0x0E | 0x10 | 0x20 | 0x24 | 0x26 => some true
  | 0x04 | 0x05 | 0x06 | 0x07 | 0x08 | 0x09 | 0x0A | 0x0B | 0x0C | 0x12 | 0x22 | 0x28 => some false
  | _ => none

/-- The registers an instruction names, in the order D, A, B, C after the guard. -/
def operands : Instr → List Opnd
  | .sadd o | .ssub o | .smul o | .smulh o | .smin o | .smax o | .sdiv o | .srem o
  | .sand o | .sor o | .sxor o => sUse o true (some true) none
  | .sshl o | .sshr o | .ssar o | .srot o | .sbfx o => sUse o true (some false) none
  | .sclz o | .spop o => sUse o false none none
  | .sbrev o | .smov o => sUse o true none none
  | .sbfi o | .ssel o => sUse o true (some true) (some false)
  | .scmp _ o => sUse o false (some true) none
  | .sli o => [sOut false o.d]
  | .slhi o => [sOut false o.d, sIn false o.d]
  | .saddImm o | .smulImm o | .sminI32Imm o | .smaxI32Imm o | .sminN32Imm o | .smaxN32Imm o
  | .sandImm o | .sorImm o | .sxorImm o | .sshlImm o | .sshrImm o | .ssarImm o | .srotImm o
  | .scmpImm _ _ o => [sOut false o.d, sIn false o.a]
  | .bz d _ | .bnz d _ => [sIn false d]
  | .vbr _ p _ => [pIn p]
  | .brx a | .callx a _ => [sIn true a]
  | .rinfo d => [⟨.s, d, 4, true, d % 2 == 1 || decide (56 < d)⟩]
  | .spawn g d a n => [pIn g.pred, ⟨.v, d, n, false, false⟩, sIn true a]
  | .fold d n _ ps => ⟨.v, d, n, false, false⟩ :: ((List.range 24).filter (bitN ps)).map pIn
  | .vadd o | .vsub o | .vsadd o | .vssub o | .vabsd o | .vmin o | .vmax o | .vmul o | .vmulh o
  | .vand o | .vor o | .vxor o | .vandn o | .vpdep o | .vpext o | .vgfmat o
  | .vfadd o | .vfmul o | .vfmin o | .vfmax o | .vfdiv o => v3Use o true true (some true) none false
  | .vabs o | .vneg o | .vbrev o | .vfrnd o | .vfrcp o | .vfrsq o | .vfsqrt o | .vfexp2 o | .vflog2 o
  | .vfsinp o | .vfcosp o | .vmov o => v3Use o true true none none false
  | .vmad o | .vfma o => v3Use o true true (some true) (some true) false
  | .vlop3 o => v3Use o true true (some true) (some false) true
  | .vshl o | .vshr o | .vsar o | .vrot o | .vbfx o | .vfscale o => v3Use o true true (some false) none false
  | .vclz o | .vctz o | .vpop o | .vfclass o => v3Use o false true none none false
  | .vbfi o => v3Use o true true (some true) (some false) false
  | .vbperm o =>
    [pIn o.g.pred, vOut true o.d, vIn true o.a,
     ⟨if o.bk then .s else .v, o.b, 16, false, o.bk && decide (48 < o.b)⟩]
  | .vaddImm o | .vsubImm o | .vsaddImm o | .vssubImm o | .vabsdImm o | .vminImm o | .vmaxImm o | .vmulImm o
  | .vandImm o | .vorImm o | .vxorImm o | .vandnImm o | .vshlImm o | .vshrImm o | .vsarImm o | .vrotImm o
  | .vfaddImm o | .vfmulImm o | .vfminImm o | .vfmaxImm o => viUse o
  | .vmovImm o => [pIn o.g.pred, vOut o.ty.wide o.d]
  | .vicmp o | .vfcmp o => [pIn o.g.pred, pOut o.d, vIn o.ty.wide o.a, vIn o.ty.wide o.b, pOut o.c]
  | .vpand o | .vpor o | .vpxor o => [pIn o.g.pred, pOut o.d, pIn o.a, pIn o.b]
  | .vpnot o | .vpmov o => [pIn o.g.pred, pOut o.d, pIn o.a]
  | .vsetp o => [pIn o.g.pred, pOut o.d, vIn false o.a]
  | .vcvt o => [pIn o.g.pred, vOut o.dst.wide o.d, vIn o.src.wide o.a]
  | .vpack o | .vunpack o => [pIn o.g.pred, vOut false o.d, vIn false o.a, kIn o.bk false o.b]
  | .vsel o => [pIn o.g.pred, vOut o.ty.wide o.d, vIn o.ty.wide o.a, kIn o.bk o.ty.wide o.b, pIn o.c]
  | .vbcast o => [pIn o.g.pred, vOut o.ty.wide o.d, sIn o.ty.wide o.a]
  | .vidx o => [pIn o.g.pred, vOut o.ty.wide o.d]
  | .vshfl o => [pIn o.g.pred, vOut o.ty.wide o.d, vIn o.ty.wide o.a, kIn o.bk false o.b]
  | .vbal o => [pIn o.g.pred, ⟨.s, o.d, 3, true, decide (58 < o.d)⟩, pIn o.a]
  | .vcnt o => [pIn o.g.pred, sLow o.d, pIn o.a]
  | .vany o | .vall o => [pIn o.g.pred, pOut o.d, pIn o.a]
  | .vmatch o => [pIn o.g.pred, vOut false o.d, vIn o.ty.wide o.a]
  | .vred o => [pIn o.g.pred, vOut o.ty.wide o.d, vIn o.ty.wide o.a]
  | .vld o | .vldu o => loadUse o true false
  | .vgath o => loadUse o true true
  | .vgathMt o => loadUse o true true ++ [pOut o.x]
  | .vst o => storeUse o true false
  | .vscat o => storeUse o true true
  | .sld o => loadUse o false false
  | .sst o => storeUse o false false
  | .pref o | .cflush o | .cinv o | .cclean o => pIn o.g.pred :: memUse o.a o.b o.kind false
  | .vatomAdd o => atomUse .add o true | .vatomMin o => atomUse .min o true | .vatomMax o => atomUse .max o true
  | .vatomAnd o => atomUse .and o true | .vatomOr o => atomUse .or o true | .vatomXor o => atomUse .xor o true
  | .vatomExch o => atomUse .exch o true | .vatomCas o => atomUse .cas o true
  | .satomAdd o => atomUse .add o false | .satomMin o => atomUse .min o false
  | .satomMax o => atomUse .max o false | .satomAnd o => atomUse .and o false
  | .satomOr o => atomUse .or o false | .satomXor o => atomUse .xor o false
  | .satomExch o => atomUse .exch o false | .satomCas o => atomUse .cas o false
  | .bari a _ | .barw a _ | .bwait a => [sIn false a]
  | .bara d _ | .barx d _ | .bclose d => [sLow d]
  | .wqpop o | .wqpush o => sLow o.d :: memUse o.a o.b o.kind false ++ [sIn false o.q]
  | .evwait o =>
    [sIn (o.elem == .b64) o.d, sOut (o.elem == .b64) o.d, sLow o.d] ++ memUse o.a o.b o.kind false ++ [sIn false o.t]
  | .macq g _ _ | .mrel g _ | .mrelF g _ | .mzero g _ | .gwaitAll g => [pIn g.pred]
  | .mmul g _ a b c e f _ => [pIn g.pred, sIn false a, sIn false b, vIn true c, vIn false e, hIn f]
  | .mrd g _ _ d _ b n => [pIn g.pred, ⟨.v, d, 2 ^ n, true, false⟩, sIn false b]
  | .mwr g _ a b n => [pIn g.pred, ⟨.v, a, 2 ^ n, false, false⟩, sIn false b]
  | .mld g _ _ _ a b _ _ | .mst g _ a b _ _ => [pIn g.pred, sIn true a, sIn false b]
  | .hld _ _ d a _ => [hOut d, sIn true a]
  | .hst d a _ => [hIn d, sIn true a]
  | .hset d a _ => [hIn d, hOut d, sIn true a]
  | .hget d a _ => [sOut true d, hIn a]
  | .cpyt o => cmdUse o [hIn o.a, hIn o.b, ⟨.s, o.c, 10, false, decide (51 < o.c)⟩]
  | .cpyl o _ _ => cmdUse o [sIn true o.a, sIn true o.b, sIn true o.c]
  | .gath o => cmdUse o [hIn o.a, hIn o.b, ⟨.s, o.c, 4, false, o.c % 2 == 1 || decide (56 < o.c)⟩]
  | .coll o => cmdUse o [hIn o.a, sIn false o.b, ⟨.s, o.c, 4, false, false⟩]
  | .fwait a | .fcancel a => [⟨.fut, a, 1, false, false⟩]
  | .ftest d a => [sOut false d, ⟨.fut, a, 1, false, false⟩]
  | .glaunch g d a => [pIn g.pred, sLow d, sIn true a]
  | .gcancel g a | .gwait g a => [pIn g.pred, ⟨.fut, a, 1, false, false⟩]
  | .sget d num => [sOut ((sysWide num).getD false) d]
  | .sset a num => [sIn ((sysWide num).getD false) a]
  | .tlbinv d a b c | .own d a b c => [sLow d, sIn true a, sIn true b, sIn false c]
  | _ => []

/-- The registers of an access's address. -/
def addrUse : Instr → List Opnd
  | .vld o | .vldu o | .vst o | .sld o | .sst o | .pref o | .cflush o | .cinv o | .cclean o
  | .vatomAdd o | .vatomMin o | .vatomMax o | .vatomAnd o | .vatomOr o | .vatomXor o | .vatomExch o | .vatomCas o
  | .satomAdd o | .satomMin o | .satomMax o | .satomAnd o | .satomOr o | .satomXor o | .satomExch o | .satomCas o =>
    memUse o.a o.b o.kind false
  | .vgath o | .vgathMt o | .vscat o => memUse o.a o.b o.kind true
  | .wqpop o | .wqpush o => memUse o.a o.b o.kind false
  | .evwait o => memUse o.a o.b o.kind false
  | .mld _ _ _ _ a b _ _ | .mst _ _ a b _ _ => [sIn true a, sIn false b]
  | .hld _ _ _ a _ => [sIn true a]
  | _ => []

/-! ## The reads that values depend on (R121, R146) -/

/-- A register as the Taster's provenance names it. -/
def regKey (h : Holder) (f : RFile) (n : Nat) : Nat :=
  match f with
  | .s | .fut => n
  | .p => 64 + n
  | .h => 128 + n
  | .v => 256 + h.vkey n

/-- The registers of an operand. -/
def Opnd.keys (h : Holder) (o : Opnd) : List Nat := (List.range o.cnt).map (fun k => regKey h o.file (o.n + k))

/-- The latest read on which one of some registers depends. -/
def Floors.latest (f : Floors) (ks : List Nat) : Option Nat :=
  ks.foldl (fun (m : Option Nat) k => match AMap.find? f.prov k with
    | some n => some (max n (m.getD 0))
    | none => m) none

/-- Whether an instruction writes every lane of a vector destination. -/
def Holder.wholeWrite (h : Holder) (os : List Opnd) : Bool :=
  h.mask == h.live && (match os.head? with
    | some o => o.file != .p || o.write || h.readP o.n == .uni true
    | none => true)

/-- What an instruction writes depends on what it reads; what a load or an atomic returns, on its own read, `own`. The
results of `wqpop` and `evwait` come later. -/
def Floors.flow (f : Floors) (h : Holder) (i : Instr) (own : Option Nat) : Floors :=
  let os := operands i
  let src := own.or (f.latest ((os.filter (fun o => !o.write)).flatMap (fun o => o.keys h)))
  match i with
  | .wqpop _ | .evwait _ => f
  | _ =>
    { f with prov := (os.filter (fun o => o.write)).foldl (fun m o => (o.keys h).foldl (fun (m : AMap Nat) k =>
        let old := if (o.file == .v || o.file == .p) && !h.wholeWrite os then AMap.find? f.prov k else none
        match src, old with
        | some a, some b => AMap.set m k (max a b)
        | some a, none => AMap.set m k a
        | none, some _ => m
        | none, none => AMap.erase m k) m) f.prov }

/-- Provenance follows an instruction of a slot. -/
def State.flow (s : State) (g q : Nat) (h : Holder) (i : Instr) (own : Option Nat) : State :=
  s.updCore g (fun c => { c with floors := AMap.upd c.floors q {} (fun f => f.flow h i own) })

/-- The ordinary end of an instruction: the next one follows. -/
def State.retire (s : State) (g q : Nat) (i : Instr) (h : Holder) : State :=
  (s.issued g q (h.advance i.size)).flow g q h i none

/-- The latest read on which the address of an instruction depends. -/
def State.addrRead (s : State) (g q : Nat) (h : Holder) (i : Instr) : Option Nat :=
  (AMap.getD (s.core g).floors q {}).latest ((addrUse i).flatMap (fun o => o.keys h))

/-- Dep of the next entry (R146): none for a read more than 255 places back. -/
def State.depOf (s : State) (g q : Nat) (h : Holder) (i : Instr) : Nat :=
  match s.addrRead g q h i with
  | some n => if (s.core g).tasterSeq - n ≤ 255 then (s.core g).tasterSeq - n else 0
  | none => 0

/-- An access whose address depends on a read too far back for Dep issues once that read has been checked (R149). -/
def State.farRead (s : State) (g q : Nat) (h : Holder) (i : Instr) : Option Wait :=
  match s.addrRead g q h i with
  | some n =>
    if 255 < (s.core g).tasterSeq - n ∧ (s.core g).taster.any (fun e => e.seq == n) then some (.checked n) else none
  | none => none

/-! ## Decode checks that depend on the holder -/

/-- Instructions that decode in single-lane mode (R425). -/
def handlerOk : Instr → Bool
  | .nop | .sadd _ | .ssub _ | .smul _ | .smulh _ | .smin _ | .smax _ | .sdiv _ | .srem _ | .sand _ | .sor _ | .sxor _
  | .sshl _ | .sshr _ | .ssar _ | .srot _ | .sclz _ | .spop _ | .sbrev _ | .sbfx _ | .sbfi _ | .smov _ | .ssel _
  | .scmp _ _ | .sli _ | .slhi _ | .saddImm _ | .smulImm _ | .sminI32Imm _ | .smaxI32Imm _ | .sminN32Imm _
  | .smaxN32Imm _ | .sandImm _ | .sorImm _ | .sxorImm _ | .sshlImm _ | .sshrImm _ | .ssarImm _ | .srotImm _
  | .scmpImm _ _ _ | .bra _ | .bz _ _ | .bnz _ _ | .brx _ | .dwait _ | .sld _ | .sst _
  | .satomAdd _ | .satomMin _ | .satomMax _ | .satomAnd _ | .satomOr _ | .satomXor _ | .satomExch _ | .satomCas _
  | .fence _ _ | .fwait _ | .ftest _ _ | .trap _ | .tret | .tesc | .halt | .sget _ _ | .sset _ _
  | .tlbinv _ _ _ _ | .own _ _ _ _ => true
  | _ => false

/-- Privileged instructions (R291, R328, R330, R331) and special-register rights (R243): reads of supervisor registers,
and every write but `%fflags`. -/
def privileged : Instr → Bool
  | .tret | .tesc | .halt | .tlbinv _ _ _ _ | .own _ _ _ _ => true
  | .sget _ num => num == 0x20 || num == 0x22 || num == 0x24 || num == 0x26
  | .sset _ num => num != 0x12
  | _ => false

/-- A special-register number or write that never decodes (R243): not in the table, or read-only. -/
def sysIllegal : Instr → Bool
  | .sget _ num => (sysWide num).isNone
  | .sset _ num => !(num == 0x12 || num == 0x20 || num == 0x26)
  | _ => false

/-- The head word. -/
def headWord (i : Instr) : Nat := (encode i).headD 0

/-- Whether an operand is misnamed for a holder: by itself, or outside the frame (R236, R317). -/
def Opnd.misnamed (b : Nat) (o : Opnd) : Bool :=
  o.bad || (o.file == .v && decide (0 < o.cnt) && decide (b < o.n + o.cnt))

/-- The first misnamed operand. -/
def firstBad (b : Nat) (os : List Opnd) : Option Nat := (os.find? (·.misnamed b)).map (·.n)

/-- Whether two operands share a register of one file (R286). -/
def Opnd.meets (x y : Opnd) : Bool :=
  x.file == y.file && decide (x.n < y.n + y.cnt) && decide (y.n < x.n + x.cnt)

/-- Registers that a long-latency instruction writes (R286). -/
def longWrites (i : Instr) : List Opnd := (operands i).filter (·.write)

/-- Instructions that wait for open windows (R287). -/
def waitsWindows : Instr → Bool
  | .call _ _ | .callx _ _ | .ret | .vbr _ _ _ | .vjoin | .exit | .yield | .fold _ _ _ _ | .spawn _ _ _ _ => true
  | _ => false

/-- What the checks at issue answer. -/
inductive Check where
  | go
  | trap (cause tval : Nat)
  | wait (w : Wait)
  deriving DecidableEq, Repr, Inhabited

/-- Failures 6 and 7 of R282 and the single-lane decode (R425). -/
def decodeCheck (h : Holder) (i : Instr) : Check :=
  if (h.mode && !handlerOk i) || sysIllegal i || (privileged i && !h.mode) then .trap 0 (headWord i)
  else
    match firstBad h.bound (operands i) with
    | some n => .trap 1 n
    | none => .go

/-- Lookahead, counted writers and future tags (R242, R284, R286, R287, R379). -/
def hazardCheck (h : Holder) (i : Instr) : Check :=
  let os := operands i
  match h.ll.find? (fun l => (longWrites l.instr).any (fun w => os.any w.meets)) with
  | some l => if l.window.isSome then .trap 2 l.pc else .wait .writer
  | none =>
    match (os.filter (fun o => o.file == .s && !o.write)).findSome? (fun o =>
        (List.range o.cnt).findSome? (fun j => if AMap.has h.tags (o.n + j) then some (o.n + j) else none)) with
    | some r => .wait (.tag r)
    | none =>
      if os.any (fun o => o.file == .s && h.writers.any (fun r => decide (o.n ≤ r) && decide (r < o.n + o.cnt))) then
        .wait .writer
      else if waitsWindows i && h.ll.any (·.window.isSome) then .wait .window
      else .go

/-- The checks at issue, in the order of R282 and R423. An exhausted lookahead window comes first (R284). -/
def issueCheck (h : Holder) (i : Instr) : Check :=
  if h.ll.any (fun l => l.window == some 0) then .wait .window
  else
    match decodeCheck h i with
    | .go => hazardCheck h i
    | c => c

/-- Take a trap once the holder is ready for it (R424). The instruction is checked again then, but a lookahead violation
is kept, since it comes of the windows that must close first (R286). -/
def State.takeTrap (s : State) (g q : Nat) (h : Holder) (t : PendTrap) : State :=
  if trapReady s g q h then s.raise g q h t
  else if t.cause = 2 then
    if h.mode then s.raise g q h t
    else (s.putHolder g q { h with pend := h.pend ++ [t], status := .blocked .window }).push [.trapEntry g q]
  else s.block g q h .window

/-- A precise trap that belongs to no lane. -/
def State.trapHere (s : State) (g q : Nat) (h : Holder) (cause kind tval : Nat) : State :=
  s.takeTrap g q h { cause := cause, kind := kind, tval := tval, pc := h.pc, tpc := h.pc }

/-- The end of a placement at an instruction: done, a Drip fault at the instruction (R193, R316), or a wait. -/
def State.afterPlace (s : State) (g q : Nat) (h : Holder) (p : Place) (f : State → State) : State :=
  match p with
  | .ok s1 => f (s1.endAway g)
  | .fault c k a p => s.takeTrap g q h { cause := c, kind := k, tval := a, payload := p, pc := h.pc, tpc := h.pc }
  | .parked s1 => s1.block g q h (s1.walkWait g)
  | .wait w => s.block g q h w

/-- The end of a Drip transfer at an instruction. -/
def State.afterDrip (_s : State) (g q : Nat) (h : Holder) (d : Drip) (f : State → Holder → State) : State :=
  match d with
  | .ok s1 h1 => f (s1.endAway g) h1
  | .fault s1 c k a p => s1.takeTrap g q h { cause := c, kind := k, tval := a, payload := p, pc := h.pc, tpc := h.pc }
  | .parked s1 => s1.block g q h (s1.walkWait g)

/-- What a holder waits for before it is cut, unfolded or merged: nothing of it is outstanding then, so that its parts
keep its program order. -/
def Holder.settleWait (h : Holder) : Wait := if h.ll.isEmpty && h.ext.isEmpty && h.writers.isEmpty then .earlier else .window

/-- Unfold a range context at its instruction, which each part then executes (R189). -/
def State.unfoldHere (s : State) (g q : Nat) (h : Holder) : State :=
  if trapReady s g q h then s.afterPlace g q h (s.unfold g q h) id else s.block g q h h.settleWait

/-- Reading a register whose status has arrived clears its tag (R242). -/
def Holder.seenReads (h : Holder) (i : Instr) : Holder :=
  if h.landed.isEmpty then h
  else
    let os := operands i
    { h with landed := h.landed.filter (fun r =>
        !os.any (fun o => o.file == .s && !o.write && decide (o.n ≤ r) && decide (r < o.n + o.cnt))) }

/-- Issue an instruction: the checks, then its effect. A range context that would write s61-s63,
or whose handler has written them, unfolds (R181, R425). -/
def issue (i : Instr) (s : State) (f : Nat → Nat → Holder → Out) : Out :=
  withHolder s fun g q h =>
    match issueCheck h i with
    | .trap c v => .next (s.trapHere g q h c 0 v)
    | .wait w => .next (s.block g q h w)
    | .go =>
      if h.kind = .range ∧ !h.mode ∧ (!h.maskWrites.isEmpty || (operands i).any (fun o => o.file == .s && o.write && decide (61 < o.n + o.cnt))) then
        .next (s.unfoldHere g q h)
      else f g q (h.seenReads i)

/-! ## Lanes, guards and operand values -/

/-- T of a holder's grid. -/
def State.tsize (s : State) (h : Holder) : Nat := recT (s.recOf h)

/-- Item index of a lane. -/
def Holder.item (h : Holder) (L : Nat) : Nat :=
  match h.kind with
  | .bin => h.items.getD L 0
  | _ => 96 * h.group + L

/-- Lanes of a group in which a predicate, complemented or not, is true. -/
def Holder.predSet (h : Holder) (p : Nat) (neg : Bool) : Lanes :=
  let x := match h.readP p with
    | .uni true => BitVec.allOnes 96
    | .uni false => 0#96
    | .dense m => m
    | .thr _ => 0#96
  if neg then ~~~x else x

/-- Active lanes of a group under a guard (R283), less the lanes that performed before (R428). -/
def Holder.activeLanes (h : Holder) (gd : Guard) : Lanes :=
  h.mask &&& h.predSet gd.pred gd.neg &&& ~~~h.skipLanes

/-- Value of a vector register in a lane of a group (R237). -/
def Holder.vLane (h : Holder) (n L : Nat) : Nat := ((h.readV n).at h.team (h.item L) L).toNat

/-- Lane value of a vector operand of 32 or 64 bits. -/
def Holder.vWide (h : Holder) (wide : Bool) (n L : Nat) : Nat :=
  if wide then h.vLane n L + 2 ^ 32 * h.vLane (n + 1) L else h.vLane n L

/-- srcB or srcC (R293) in a lane. -/
def Holder.srcLane (h : Holder) (scalar wide : Bool) (n L : Nat) : Nat :=
  if scalar then h.readW wide n else h.vWide wide n L

/-- A vector register with the lanes of a set replaced; a compressed register is expanded first (R197). -/
def Holder.setLanes (h : Holder) (n : Nat) (act : Lanes) (val : Nat → Nat) : Holder :=
  let old := h.readV n
  h.writeV n (.dense ((List.range 96).map (fun L =>
    if lane act L then BitVec.ofNat 32 (val L) else old.at h.team (h.item L) L)))

/-- Write a 32- or 64-bit result in the lanes of a set. -/
def Holder.setWide (h : Holder) (wide : Bool) (n : Nat) (act : Lanes) (val : Nat → Nat) : Holder :=
  if wide then (h.setLanes n act (fun L => val L % 2 ^ 32)).setLanes (n + 1) act (fun L => val L / 2 ^ 32)
  else h.setLanes n act val

/-- A predicate with the lanes of a set replaced (R238). -/
def Holder.setPred (h : Holder) (n : Nat) (act : Lanes) (val : Nat → Bool) : Holder :=
  let old := h.predSet n false
  h.writeP n (.dense ((old &&& ~~~act) ||| (laneSetOf val &&& act)))

/-- Guard of a range context: the members it lets execute (R190). -/
def Holder.rangeGuard (h : Holder) (gd : Guard) : TruthSet := (h.readP gd.pred).truth gd.neg h.lo h.hi

end Sys2Proof.Machine
end

