-- ==== Sys2Proof/Machine/Trace.lean ====
section
/-! DEFINITION. Debug trace of a core (spec 19 R477, R479, R480, R489): rings in memory, the branch-and-mask FIFO, memory
trace records. -/

namespace Sys2Proof.Machine

/-- Write to ring r of a core. -/
def State.coreRing (s : State) (g r : Nat) (bs : List Byte) : State :=
  let (s1, x) := s.ringPut (AMap.getD (s.core g).dbg.rings r {}) bs
  s1.updCore g (fun c => { c with dbg := { c.dbg with rings := AMap.set c.dbg.rings r x } })

/-- A PATH packet, or a SYNC when the PC's upper bits differ from the last SYNC's (R489). -/
def State.tracePath (s : State) (g q : Nat) (h : Holder) : State :=
  let c := s.core g
  if bitN c.dbg.dbgctl 1 && c.traced q && AMap.getD c.dbg.synced q 0 != h.pc / 2 ^ 19 + 1 then s.traceSync g q h
  else s.trace g q h 5 (leBytes 12 h.traceMask.toNat ++ leBytes 2 (h.pc / 8))

/-- PATH when a mask write changed the mask. -/
def State.traceMaskOf (s : State) (g q : Nat) (old new : Holder) : State :=
  if old.mask = new.mask then s else s.tracePath g q new

/-- The SYNC that a slot's issue begins with, when none has been written for it. -/
def State.traceIssue (s : State) (g q : Nat) (h : Holder) : State :=
  let c := s.core g
  if bitN c.dbg.dbgctl 1 && c.traced q && !AMap.has c.dbg.synced q then s.traceSync g q h else s

/-- The record of a memory instruction (R479, R480) over its active lanes' addresses; a scalar one has mask 0. -/
def memRecord (q pc major elem : Nat) (scalar : Bool) (eas : List (Nat × Nat)) : List Byte :=
  match eas with
  | [] => []
  | (l0, base) :: _ =>
    let mask := if scalar then 0 else eas.foldl (fun m p => m + 2 ^ p.1) 0
    let off := fun (p : Nat × Nat) => sextI (p.2 + (2 ^ 64 - base)) 64
    let stride : Int := match eas with
      | _ :: p :: _ => off p / ((p.1 : Int) - l0)
      | _ => 0
    let (kind, tail) :=
      if eas.all (fun p => p.2 == base) then (0, [])
      else if eas.all (fun p => off p == stride * ((p.1 : Int) - l0)) then (1, leBytes 8 (wrapI stride 64))
      else if eas.all (fun p => decide (-(2 ^ 31) ≤ off p) && decide (off p < 2 ^ 31)) then
        let bs := eas.flatMap (fun p => leBytes 4 (wrapI (off p) 32))
        (2, fitBytes ((bs.length + 7) / 8 * 8) bs)
      else (3, eas.flatMap (fun p => leBytes 8 (wrapI (off p) 64)))
    let len := (32 + tail.length) / 8
    let hd := base * 2 ^ 192 + len * 2 ^ 176 + elem * 2 ^ 168 + major * 2 ^ 160 + mask * 2 ^ 64 + kind * 2 ^ 61
      + q * 2 ^ 56 + pc % 2 ^ 56
    leBytes 32 hd ++ tail

/-- Trace a memory instruction at its issue (R479). -/
def State.traceMem (s : State) (g q : Nat) (h : Holder) (i : Instr) (elem : Nat) (scalar : Bool) (eas : List (Nat × Nat)) :
    State :=
  let c := s.core g
  if bitN c.dbg.dbgctl 0 && c.traced q then
    s.coreRing g 1 (memRecord q h.pc (headWord i / 2 ^ 56) elem scalar eas)
  else s

end Sys2Proof.Machine
end

