-- ==== Sys2Proof/Machine/Fetch.lean ====
section
/-! DEFINITION. Fetching and decoding the next instruction of a slot (spec 03 R63, 11 R269, R282), after what comes at
the instruction boundary before it: a pending trap (16 R423), an address breakpoint (19 R478). -/

namespace Sys2Proof.Machine

/-- What a slot's turn to issue gives: an instruction to execute, or a state without one. -/
inductive Fetched where
  | run (i : Instr) (s : State)
  | stop (s : State)
  deriving Repr, Inhabited

/-- Context of an instruction fetch: user or supervisor rights, no register space (R29, R53). -/
def fetchCtx (s : State) (g : Nat) (h : Holder) : AccCtx :=
  { agent := s.l1Agent g, req := .core g, core := g, asid := h.asid, sup := h.mode, grid := h.grid, team := h.team
    vector := true, engine := false }

/-- The breakpoint that stops an issue at an address (R478): the first issue after `tret` does not fire, nor does that of an
instruction that is issued again. -/
def Core.breakpoint (c : Core) (h : Holder) : Option Nat :=
  if h.bpSkip = some h.pc ∨ h.replaying.isSome then none
  else (List.range 4).find? (fun j =>
    let v := AMap.getD c.dbg.bpaddr j 0
    bitN v 0 && field v 3 53 * 8 == h.pc)

/-- A line enters an instruction cache of 128 KiB (R1). -/
def State.codeLine (s : State) (g asid line : Nat) : State :=
  if (s.core g).icache.contains (asid, line) then s
  else s.updCore g (fun c => { c with icache := ((asid, line) :: c.icache).take 1024 })

/-- Bytes of code: from the instruction cache, or at their home. -/
def State.codeBytes (s : State) (c : AccCtx) (h : Holder) (segs : List Seg) : Reach :=
  if segs.all (fun z => (linesOf z.pa z.len).all (fun l => (s.core c.core).icache.contains (h.asid, l) && (s.homePoison l).isNone)) then
    .ok (segs.flatMap (fun z => s.physBytes z.pa z.len)) s
  else s.reachRead { c with engine := true } c.core (.phys segs)

/-- Bytes of a fetch: 8 at the head, 8 more for a tail. What a peer or, on an uncached page, the host holds is asked for (R35,
R38); a line of a read-only import is brought in whole (R39). -/
def State.fetchBytes (s : State) (g q : Nat) (h : Holder) (va : Nat) (k : State → List Byte → Fetched) : Fetched :=
  let c := fetchCtx s g h
  match s.resolve c .glob va 8 .fetch true with
  | .ok (.phys segs) s1 =>
    match segs with
    | [] => .stop s1
    | x :: _ =>
      if peerReadOnly s1 x.e x.pa ∧ !s1.srHeld c.agent (x.pa / 128) then
        let (s2, h2) := s1.askExt g q h
          { idx := none, pa := x.pa / 128 * 128, size := 128, data := none, lane := 127, ea := va, tag := 0, pc := h.pc
            whole := true } none
        .stop (s2.block g q h2 .answer)
      else
        match s1.codeBytes c h segs with
        | .ok bs s2 => k ((s2.endAway g).codeLine g h.asid (x.pa / 128)) bs
        | .fault cause kd p s2 => .stop (s2.takeTrap g q h
            { cause := cause, kind := kd, tval := if cause = 10 then field p 115 45 * 128 else h.pc, payload := p, pc := h.pc, tpc := h.pc })
        | .wait s2 => .stop (s2.block g q h .lineBusy)
  | .ok _ s1 => .stop s1
  | .fault c kd a s1 => .stop (s1.trapHere g q h c kd a)
  | .parked s1 => .stop (s1.block g q h (s1.walkWait g))

/-- Fetch and decode at the holder's pc. Failures 1 to 5 of R282 are the illegal-encoding trap. -/
def State.fetchDecode (s : State) (g q : Nat) (h : Holder) : Fetched :=
  s.fetchBytes g q h h.pc fun s1 bs =>
    let w := leValue bs
    let bad := fun (s : State) => Fetched.stop (s.trapHere g q h 0 0 w)
    if hasTail w then
      s1.fetchBytes g q h (h.pc + 8) fun s2 ts =>
        match decode w (leValue ts) with
        | .ok i => .run i s2
        | .error _ => bad s2
    else
      match decode w 0 with
      | .ok i => .run i s1
      | .error _ => bad s1

/-- A slot's turn to issue. -/
def State.turnOf (s : State) (g q : Nat) : Fetched :=
  match s.holder? g q with
  | none => .stop s
  | some h =>
    match h.status with
    | .halted | .awaiting | .stopped => .stop s
    | _ =>
      if !h.mode && h.stepping then .stop (s.push [.singleStep g q])
      else if !h.mode && h.pend != [] then .stop (s.push [.trapEntry g q])
      else
        match (s.core g).breakpoint h with
        | some j => .stop (s.push [.breakpointHit g q j])
        | none => (s.traceIssue g q h).fetchDecode g q h

end Sys2Proof.Machine
end

