-- ==== Sys2Proof/Machine/Waits.lean ====
section
/-! DEFINITION. When a blocked holder may issue again, which waits are swapped (spec 08 R223, R224), and the vacancy
that a swap or a `yield` leaves. -/

namespace Sys2Proof.Machine

/-- A float atomic whose flags a read of `%fflags` waits for (R244). -/
def floatAtomic : Instr → Bool
  | .vatomAdd o | .vatomMin o | .vatomMax o | .satomAdd o | .satomMin o | .satomMax o =>
    o.elem == .f32 || o.elem == .f64 || o.elem == .f16x2 || o.elem == .bf16x2
  | _ => false

/-- Whether an atomic adds to the flags. -/
def AtomReq.floats (r : AtomReq) : Bool :=
  (r.op == .add || r.op == .min || r.op == .max)
    && (r.elem == .f32 || r.elem == .f64 || r.elem == .f16x2 || r.elem == .bf16x2)

/-- Whether an earlier float atomic of the holder has not been acknowledged (R244, R373). -/
def State.flagsOpen (s : State) (g q : Nat) (h : Holder) : Bool :=
  h.ll.any (fun l => floatAtomic l.instr) || h.ext.any (fun x => x.atom.any AtomReq.floats)
    || (s.core g).delayed.any (fun d => d.slot == q && floatAtomic d.instr)
    || (s.core g).releases.any (fun r => r.slot == q && (match r.kind with
      | .atomic i _ => floatAtomic i
      | _ => false))

/-- Free accumulator units of a cluster's pool (R395). -/
def Cluster.freeUnits (x : Cluster) : Nat := 682 - x.units.length

/-- Whether a grid launched by a team is not complete (R418). -/
def State.childRuns (s : State) (grid team : Nat) : Bool :=
  s.grids.any (fun p => p.2.parent == some (grid, team) && p.2.done.isNone)

/-- Whether every command of a batch has completed (R381): a completed command is no longer kept. -/
def State.batchDone (s : State) (cmds : List Nat) : Bool := cmds.all (fun c => !AMap.has s.commands c)

/-- Closed batches of a holder that have not completed. -/
def State.openBatches (s : State) (h : Holder) : List Nat :=
  (h.batches.filter (fun p => !s.batchDone p.2)).map (·.1)

/-- Whether `bwait n` goes on (R381). -/
def State.batchPast (s : State) (h : Holder) (n : Nat) : Bool :=
  let k := if (h.batchCount + 2 ^ 32 - n % 2 ^ 32) % 2 ^ 32 < 2 ^ 31 then n else h.batchCount
  (s.openBatches h).all (fun b => !decide ((k + 2 ^ 32 - b) % 2 ^ 32 < 2 ^ 31))

/-- Whether a barrier's phase has passed p, or the object is inactive (R379). -/
def Barrier.past (b : Barrier) (p : Nat) : Bool :=
  b.e == 0 || (let d := (b.p + 2 ^ 32 - p % 2 ^ 32) % 2 ^ 32; decide (1 ≤ d) && decide (d < 2 ^ 31))

/-- The core that holds a holder's team's scratchpad and barrier block (R41, R211, R378). -/
def State.spmHome (s : State) (g : Nat) (h : Holder) : Nat :=
  match s.teamAlloc g h.grid (h.teamOf (s.tsize h)) with
  | some (k, _) => k
  | none => g

/-- Whether what a blocked holder waits for has come. The sleeps of `wqpop`, `evwait` and `fold` end by steps of their
own. -/
def State.waitOver (s : State) (g q : Nat) (h : Holder) (w : Wait) : Bool :=
  let c := s.core g
  match w with
  | .window => h.ll.all (fun l => l.window != some 0) && h.ext.isEmpty
  | .counter k => if k < 8 then AMap.getD h.dcs k 0 == 0 else decide (AMap.getD h.dcs (k - 8) 0 < 63)
  | .writer => h.ll.all (·.window.isSome) && h.writers.isEmpty
  | .tag r => !AMap.has h.tags r
  | .tagsFull => decide (h.tags.length < 64)
  | .flags => !s.flagsOpen g q h
  | .earlier => trapReady s g q h
  | .releaseFull => decide (c.releases.length < 16)
  | .tasterFull => decide (c.taster.length < 1024)
  | .checked n => !c.taster.any (fun e => e.seq == n)
  | .translation => !(s.ctl.walks ++ s.ctl.walkQueue).any (fun x => x.parked && x.core == g)
  | .missPort => decide (c.misses.length < 32)
  | .lineBusy => true
  | .answer => h.ext.isEmpty
  | .barrier b p => (AMap.getD (s.core (s.spmHome g h)).barriers b {}).past p
  | .scratchpad => (s.allocTeam g h (h.teamOf (s.tsize h))).isSome
  | .batchesFull => decide ((s.openBatches h).length < 256)
  | .batch n => s.batchPast h n
  | .future r => !AMap.has h.tags r
  | .grids => !s.childRuns h.grid (h.teamOf (s.tsize h))
  | .units n => decide (n ≤ (s.cluster (cluOf g)).freeUnits)
  | .tile t => match AMap.find? (s.cluster (cluOf g)).tiles t with
    | some x => x.passes == 0
    | none => true
  | .table n => decide ((s.cluster (cluOf g)).table.length + n ≤ 64)
  | .queueFull _ => true
  | .workQueue _ => false
  | .event => false
  | .fold => false
  | .invals => decide (s.ctl.invals.length < 64)
  | .flips => decide (s.ctl.flips.length < 16)
  | .teamRecord => decide ((s.die (dieOf g)).teamRecords.length < 4096)
  | .pieceRing => (c.ringPlace (h.recordLen + h.imageLen)).isSome

/-- Waits of the blocking instructions of R204, in which the watchdog does not count (R231). -/
def Wait.rests : Wait → Bool
  | .barrier _ _ | .workQueue _ | .event | .future _ | .batch _ | .grids | .fold => true
  | .counter k => decide (k < 8)
  | _ => false

/-- Whether a holder's watchdog counts: it is ready or issuing, or waits otherwise than in an instruction of R204 (R231). -/
def Holder.counts (h : Holder) : Bool :=
  match h.status with
  | .ready => true
  | .blocked w => !w.rests
  | _ => false

/-- Waits that R224 swaps at once. -/
def Wait.swaps : Wait → Bool
  | .window | .counter _ | .writer | .tag _ | .tagsFull | .flags | .translation | .answer | .barrier _ _ | .batch _
  | .batchesFull | .future _ | .grids | .units _ | .tile _ | .workQueue _ | .event => true
  | _ => false

/-- Waits that R224 swaps after 64 ck; the model keeps no count of them and swaps them at once (LOG 7). -/
def Wait.swapsLate : Wait → Bool
  | .tasterFull | .checked _ | .releaseFull | .table _ | .queueFull _ | .missPort => true
  | _ => false

/-- A holder that could issue now: it waits for nothing, or what it waits for has come. -/
def State.readyNow (s : State) (g q : Nat) (h : Holder) : Bool :=
  match h.status with
  | .ready => true
  | .blocked w => s.waitOver g q h w
  | _ => false

/-- The pending slot to promote (R224): highest priority, then highest age, then lowest number. -/
def State.pendingSlot (s : State) (g : Nat) : Option Nat :=
  let c := s.core g
  (c.slots.filter (fun p => !c.active.contains p.1 && !AMap.has c.moving p.1 && s.readyNow g p.1 p.2)).foldl (fun acc p =>
    match acc with
    | none => some p.1
    | some b =>
      let x := AMap.getD c.slots b {}
      if x.prio < p.2.prio ∨ (x.prio = p.2.prio ∧ x.age < p.2.age) then some p.1 else some b) none

/-- Slot q gives its place in the active set to a ready pending slot, when one exists. -/
def State.vacate (s : State) (g q : Nat) : State :=
  match s.pendingSlot g with
  | none => s
  | some p => s.updCore g (fun c => { c with active := c.active.map (fun x => if x = q then p else x) })

end Sys2Proof.Machine
end

