-- ==== Sys2Proof/Machine/Taster.lean ====
section
/-! DEFINITION. The Taster of a core (spec 06 R145-R149, R158, R163, R168). -/

namespace Sys2Proof.Machine

/-- Whether an order acquires. -/
def orderAcq : Order → Bool
  | .acq | .ar => true
  | _ => false

/-- Whether an order releases. -/
def orderRel : Order → Bool
  | .rel | .ar => true
  | _ => false

/-- The scope with which an access in a space acts (R106). -/
def scopeIn (sp : Space) (sc : Scope) : Scope :=
  match sp with
  | .team => if 1 < sc.code then .team else sc
  | .clu => if 2 < sc.code then .clu else sc
  | _ => sc

/-- The scope with which a memory instruction acts (R106). -/
def actsIn (o : MOp) : Scope := scopeIn o.space o.scope

/-- The higher of two floors. -/
def Floor.max (a b : Floor) : Floor := if serialGt b.stamp a.stamp then b else a

/-- A floor kept more than 2^40 behind the clock is replaced (R145). -/
def Floor.aged (f : Floor) (clock : Nat) : Floor :=
  let low := (clock + 2 ^ 48 - 2 ^ 40) % 2 ^ 48
  if serialGt low f.stamp then { f with stamp := low } else f

/-- Floors of a slot. -/
def Core.floor (c : Core) (q : Nat) : Floors := AMap.getD c.floors q {}

/-- A floor that no access has raised stands at the start. -/
def Floors.at_ (f : Floors) (x : Floor) : Floor := if x.row = 0 then { x with stamp := f.start } else x

/-- Enter an entry; the answer is its place in the core's issue order (R146). -/
def State.tasterPush (s : State) (g : Nat) (e : TasterEntry) : State × Nat :=
  let n := (s.core g).tasterSeq
  ((s.updCore g (fun c => { c with taster := c.taster ++ [{ e with seq := n }], tasterSeq := n + 1 })).push
    (if e.stamped then [.tasterCheck g] else []), n)

/-- The place of an instruction that has no entry: a constant read, an access of the register aperture. -/
def noEntry : Nat := 2 ^ 64

/-- Stamps of an entry return; with none, the instruction performed in no lane and the entry leaves. -/
def State.tasterStamp (s : State) (g n : Nat) (st : Option (Nat × Nat × Nat × Nat)) : State :=
  if n = noEntry then s
  else (s.updCore g (fun c => { c with
    taster := match st with
      | some (lo, hi, sig, sector) => c.taster.map (fun e =>
          if e.seq = n then { e with min := lo, max := hi, sig := sig, sector := sector, stamped := true } else e)
      | none => c.taster.filter (fun e => e.seq != n) })).push [.tasterCheck g]

/-- The entry of an instruction of which lanes performed before a fault is a part (R149). -/
def State.tasterCut (s : State) (g n pc : Nat) : State :=
  s.updCore g (fun c => { c with taster := c.taster.map (fun e => if e.seq = n then { e with cut := some pc } else e) })

/-- The mark of an instruction that is replayed without the lanes that performed (R149). -/
def Holder.againPc (h : Holder) : Option Nat := if h.skipLanes = 0#96 then none else some h.pc

/-- inst(a, S) holds items of more than one core (R147). -/
def spansCores (s : State) (g scope : Nat) : Bool :=
  decide (2 ≤ scope) || (scope == 1 && (s.cluster (cluOf g)).fused)

/-- Floor that an entry needs (R148). -/
def TasterEntry.need (e : TasterEntry) (f : Floors) (spans : Bool) : Floor :=
  let rd := e.kind == 0 || e.kind == 2 || e.kind == 4
  let wr := e.kind == 1 || e.kind == 2 || e.kind == 5
  let acq := e.order % 2 == 1
  let rel := decide (2 ≤ e.order)
  let c0 := [f.at_ f.acqf]
  let c1 := if wr then [f.at_ f.relf, f.at_ f.maxrd]
    ++ ((List.range 32).filter (bitN e.sig)).map (fun j => f.at_ (AMap.getD f.maxw j {})) else []
  let c2 := if wr && rel && spans then [f.at_ f.maxall] else []
  let c3 := if rd && acq && spans then [f.at_ f.relw] else []
  let c4 := if e.kind == 4 || e.kind == 5 then [f.at_ f.maxreg] else []
  let c5 := if e.kind == 6 then [f.at_ f.fxf] else []
  let c6 := if e.dep = 0 then [] else (AMap.find? f.reads (e.seq - e.dep)).toList
  (c0 ++ c1 ++ c2 ++ c3 ++ c4 ++ c5 ++ c6).foldl Floor.max (f.at_ f.acqf)

/-- Floors after an entry (R148). -/
def TasterEntry.raise (e : TasterEntry) (f : Floors) (spans : Bool) : Floors :=
  let rd := e.kind == 0 || e.kind == 2 || e.kind == 4
  let wr := e.kind == 1 || e.kind == 2 || e.kind == 5
  let acq := e.order % 2 == 1
  let rel := decide (2 ≤ e.order)
  let me := fun (row : Nat) => ({ stamp := e.max, kind := e.kind, sector := e.sector, row := row } : Floor)
  let up := fun (x : Floor) (row : Nat) => (f.at_ x).max (me row)
  if e.seen ≠ 0 then { f with acqf := (f.at_ f.acqf).max { stamp := e.seen, kind := 7, sector := 0, row := 4 } }
  else if e.kind = 3 then
    let f1 := if spans && !e.fencex then
        if acq && rel then { f with acqf := (f.at_ f.acqf).max { f.at_ f.maxall with row := 9 } }
        else if acq then { f with acqf := (f.at_ f.acqf).max { f.at_ f.maxrd with row := 7 } }
        else { f with relf := (f.at_ f.relf).max { f.at_ f.maxall with row := 8 } }
      else f
    if e.fencex then { f1 with fxf := { f.at_ f.maxall with row := 11 } } else f1
  else
    { f with
      maxall := up f.maxall 5
      maxrd := if rd then up f.maxrd 1 else f.maxrd
      reads := if rd then AMap.set (f.reads.filter (fun (p : Nat × Floor) => decide (e.seq < p.1 + 255))) e.seq (me 3) else f.reads
      maxreg := if e.kind == 4 || e.kind == 5 then up f.maxreg 10 else f.maxreg
      acqf := if acq && spans then up f.acqf 4 else f.acqf
      relw := if wr && rel && spans then up f.relw 6 else f.relw
      maxw := if wr then ((List.range 32).filter (bitN e.sig)).foldl
          (fun m j => AMap.set m j ((f.at_ (AMap.getD m j {})).max (me 2))) f.maxw else f.maxw }

/-- Floors with the parts that still wait for their replay (R149), but for the parts of one instruction. -/
def Floors.withParts (f : Floors) (spans : Nat → Bool) (but : Option Nat) : Floors :=
  (f.parts.filter (fun x => but.isNone || x.cut != but)).foldl (fun f x => x.raise f (spans x.scope)) f

/-- Floors after an entry has been checked: a part stays apart until its replay has been checked, which no pair with it is. -/
def Floors.after (f : Floors) (spans : Nat → Bool) (e : TasterEntry) : Floors :=
  match e.cut, e.again with
  | some _, _ => { f with parts := f.parts ++ [e] }
  | none, none => e.raise f (spans e.scope)
  | none, some pc =>
    let mine := f.parts.filter (fun x => x.cut == some pc)
    (mine ++ [e]).foldl (fun f x => x.raise f (spans x.scope)) { f with parts := f.parts.filter (fun x => x.cut != some pc) }

/-- The payload of a reorder violation (R167, R168). -/
def reorderPayload (g : Nat) (clock : Nat) (e : TasterEntry) (need : Floor) : Nat :=
  payloadWord need.stamp e.min clock (checkerId (dieOf g) 0 (g % 32)) 0 (need.sector / 4) 1
    (e.slot * 2 ^ 91 + need.kind * 2 ^ 88 + e.kind * 2 ^ 85 + need.row * 2 ^ 81 + e.sector % 2 ^ 47)

/-- The entry that may be checked next: stamped, with no earlier entry of its slot in the window. -/
def nextCheck : List Nat → List TasterEntry → Option TasterEntry
  | _, [] => none
  | seen, e :: es =>
    if seen.contains e.slot then nextCheck seen es
    else if e.stamped then some e else nextCheck (e.slot :: seen) es

/-- TASTER_CHECK (R148): the next entry is checked and leaves the window. A barrier arrival carries the slot's own
highest stamp and is not held against its floors (LOG 28). -/
def execTasterCheck (g : Nat) (s : State) : Out :=
  match nextCheck [] (s.core g).taster with
  | none => .next s
  | some e =>
    let f := (s.core g).floor e.slot
    let spans := spansCores s g
    let need := (e.need (f.withParts spans e.again) (spans e.scope)).aged (s.core g).lclock
    let s1 := s.updChecker (dieOf g) 0 (g % 32) (fun c => { c with closed := (c.closed + 1) % 2 ^ 32 })
    let bad := e.kind != 3 && e.kind != 7 && !serialGt e.min need.stamp
    let p := reorderPayload g (s.core g).lclock e need
    let s2 := if bad then s1.storePayload (dieOf g) 0 (g % 32) p else s1
    .next ((s2.updCore g (fun c => { c with
      taster := c.taster.filter (fun x => x.seq != e.seq)
      floors := AMap.set c.floors e.slot
        (if bad then { f.after spans e with contain := if f.contain = 0 then p else f.contain } else f.after spans e) })).push
      (if (nextCheck [] ((s.core g).taster.filter (fun x => x.seq != e.seq))).isSome then [.tasterCheck g] else []))

/-- Whether a line is on a slot's list for every release that could come after a place: it stands there uncovered, and no release
of the slot between its place and the present one is pending. -/
def Core.coverKnown (c : Core) (q line : Nat) : Bool :=
  (c.floor q).covered.any (fun p => p.1 == line && p.2.1 == 0 && !c.releases.any (fun r => r.slot == q && decide (p.2.2 < r.seq)))

/-- A slot observes a completion: its acquire floor rises to the completion's stamp when its Taster comes to this place (R158). -/
def State.observe (s : State) (g q stamp : Nat) : State :=
  if stamp = 0 then s
  else (s.tasterPush g { max := 0, min := 0, sig := 0, slot := q, kind := 3, order := 1, scope := 4, seen := stamp }).1

/-- Lines that an access of a slot touches, with its place, kept for the slot's next releases (R159); a line touched again while a
release is pending is kept anew. -/
def State.cover (s : State) (g q seq : Nat) (lines : List Nat) : State :=
  s.updCore g (fun c => { c with floors := AMap.upd c.floors q {} (fun f => { f with
    covered := f.covered ++ (lines.filter (fun l => !c.coverKnown q l)).map (fun l => (l, 0, seq)) }) })

/-- Device lines of a target. -/
def Target.lines : Target → List Nat
  | .phys segs => segs.flatMap (fun g => linesOf g.pa g.len)
  | .spm _ _ _ => []

end Sys2Proof.Machine
end

