-- ==== Sys2Proof/Machine/Mem.lean ====
section
/-! DEFINITION. What memory instructions share (spec 14 R361-R364, 02 R41-R43, 16 R423, R428, R512): effective addresses,
elements in registers, the register aperture, resolving and performing the lanes of an instruction, and the end of a
long-latency one. -/

namespace Sys2Proof.Machine

/-! ## Addresses and elements (R361, R362) -/

/-- Context of a holder's own accesses. -/
def holderCtx (s : State) (g : Nat) (h : Holder) (vector : Bool) : AccCtx :=
  { agent := s.l1Agent g, req := .core g, core := g, asid := h.asid, sup := h.mode, grid := h.grid
    team := h.teamOf (s.tsize h), vector := vector, engine := false }

/-- ea of R361; `get` gives a vector register's value in the lane or member. -/
def memEA (h : Holder) (a b : Nat) (kind : OffKind) (pair : Bool) (get : Nat → Nat) : Nat :=
  let off : Int := match kind with
    | .vec => if pair then (get b + 2 ^ 32 * get (b + 1) : Nat) else sextI (get b) 32
    | .sca => sextI (h.readS b).toNat 32
    | .disp => sextI b 8
    | .non => 0
  wrapI ((h.readS64 a).toNat + off) 64

/-- Value of a vector register for member m of a range context. -/
def Holder.vMember (h : Holder) (t n m : Nat) : Nat := ((h.readV n).at (m / t) (m % t) 0).toNat

/-- Value of an element's registers: D up, 32 bits each. -/
def elemValue (bytes d : Nat) (get : Nat → Nat) : Nat :=
  (List.range (max 1 (bytes / 4))).foldl (fun v j => v + get (d + j) * 2 ^ (32 * j)) 0 % 2 ^ (8 * bytes)

/-- Registers that a loaded element fills (R362). -/
def elemWords (e : Elem) (v : Nat) : List Nat :=
  match e with
  | .n8 | .n16 => [v]
  | .i8 => [wrapI (sextI v 8) 32]
  | .i16 => [wrapI (sextI v 16) 32]
  | _ => (List.range (e.bytes / 4)).map (fun j => field v (32 * j) 32)

/-- Put loaded words into vector registers, a list of lanes each with its words. -/
def Holder.putLanes (h : Holder) (d : Nat) (vals : List (Nat × List Nat)) : Holder :=
  let n := (vals.head?.map (fun p => p.2.length)).getD 0
  let act := vals.foldl (fun m p => m ||| laneBit p.1) 0#96
  (List.range n).foldl (fun h j =>
    h.setLanes (d + j) act (fun L => ((List.find? (fun p => p.1 == L) vals).map (fun p => p.2.getD j 0)).getD 0)) h

/-- Put loaded words into scalar registers. -/
def Holder.putScalars (h : Holder) (d : Nat) (ws : List Nat) : Holder :=
  ((List.range ws.length).zip ws).foldl (fun h p => h.writeS (d + p.1) (BitVec.ofNat 32 p.2)) h

/-- Put loaded words into uniform registers. -/
def Holder.putUniform (h : Holder) (d : Nat) (ws : List Nat) : Holder :=
  ((List.range ws.length).zip ws).foldl (fun h p => h.writeV (d + p.1) (.uni (BitVec.ofNat 32 p.2))) h

/-! ## The register aperture (R43, R317) -/

/-- Whether an aperture access stands: at most 8 bytes, aligned, below the frame's bound. -/
def Holder.apOk (h : Holder) (ea n : Nat) : Bool :=
  decide (n ≤ 8) && ea % n == 0 && decide (ea < 384 * h.bound)

/-- Word of the aperture; a range context shows its lowest member's group. -/
def Holder.apWord (h : Holder) (t w : Nat) : Nat :=
  let L := w % 96
  match h.kind with
  | .range => ((h.readV (w / 96)).at (h.lo / t) (h.lo % t / 96 * 96 + L) L).toNat
  | _ => h.vLane (w / 96) L

/-- Read n bytes of the aperture. -/
def Holder.apRead (h : Holder) (t ea n : Nat) : Nat :=
  let v := h.apWord t (ea / 4) + (if n = 8 then h.apWord t (ea / 4 + 1) * 2 ^ 32 else 0)
  field v (8 * (ea % 4)) (8 * n)

/-- Write n bytes of the aperture of a dense group: the register becomes dense. -/
def Holder.apWrite (h : Holder) (ea n v : Nat) : Holder :=
  let put := fun (h : Holder) (w x : Nat) => h.setLanes (w / 96) (laneBit (w % 96)) (fun _ => x)
  if n = 8 then (put h (ea / 4) (v % 2 ^ 32)) |> fun h1 => put h1 (ea / 4 + 1) (v / 2 ^ 32 % 2 ^ 32)
  else put h (ea / 4) (setField (h.vLane (ea / 4 / 96) (ea / 4 % 96)) (8 * (ea % 4)) (8 * n) v)

/-- Whether an earlier instruction has still to write a vector register: an aperture access comes after it (R43). -/
def Holder.vecPending (h : Holder) : Bool := h.ll.any (fun l => (longWrites l.instr).any (fun o => o.file == .v))

/-! ## Faults of memory instructions -/

/-- The member of a fault: in a range context the lane of a range access is a member's index. -/
def laneFault (s : State) (h : Holder) (x : LaneAcc) : Nat × Option Nat :=
  match h.kind with
  | .range => if x.lane = 127 then (127, none) else (laneOf (s.tsize h) x.lane, some x.lane)
  | _ => (x.lane, none)

/-- A fault of a memory instruction at its issue: taken at once, or at the boundary that the holder has reached. -/
def State.faultNow (s : State) (g q : Nat) (h : Holder) (t : PendTrap) : State :=
  if h.mode ∨ trapReady s g q h then s.raise g q h t
  else (s.putHolder g q { h with pend := h.pend ++ [t], status := .ready }).push [.trapEntry g q]

/-- Remove a long-latency instruction; its counter falls (R284). -/
def Holder.endLong (h : Holder) (l : LongOp) : Holder :=
  { h with
    ll := h.ll.filter (fun x => x.idx != l.idx)
    dcs := match l.ctr with
      | some k => AMap.upd h.dcs k 0 (fun n => n - 1)
      | none => h.dcs }

/-- Whether a pending trap belongs to a long-latency instruction. -/
def PendTrap.ofLong (t : PendTrap) : Bool :=
  t.enqueue || (!t.queued && !t.engine && t.cause != 9 && t.cause != 13)

/-- Insert into the replay queue in program order (R428). -/
def replayInsert (e : ReplayEntry) : List ReplayEntry → List ReplayEntry
  | [] => [e]
  | x :: xs => if e.idx < x.idx then e :: x :: xs else x :: replayInsert e xs

/-- An access fault found at a long-latency instruction (R428): in supervisor mode it is escalated (R426); when a later
instruction has issued, or another such trap waits, the instruction joins the replay queue. -/
def State.longFault (s : State) (g q : Nat) (h : Holder) (l : LongOp) (cause kind lane tval payload : Nat)
    (member : Option Nat) : State :=
  let h1 := h.endLong l
  let t : PendTrap :=
    { cause := cause, kind := kind, lane := lane, tval := tval, pc := l.pc, tpc := l.pc, queued := l.passed
      done := l.done, payload := payload, member := member, enqueue := l.passed }
  let s1 := (s.tasterStamp g l.seq (if l.hi = 0 then none else some (l.lo, l.hi, l.sig, l.sector))).tasterCut g l.seq l.pc
  if h.mode then s1.raise g q h1 t
  else
    let have_ := h.pend.any (·.ofLong)
    let h2 := if l.passed || have_ then { h1 with replay := replayInsert { pc := l.pc, done := l.done, idx := l.idx } h1.replay } else h1
    (s1.putHolder g q { h2 with pend := if have_ then h2.pend else h2.pend ++ [t] }).push [.trapEntry g q]

/-- A long-latency instruction completes: its stamps return. -/
def State.longDone (s : State) (g q : Nat) (h : Holder) (l : LongOp) : State :=
  (s.tasterStamp g l.seq (if l.hi = 0 then none else some (l.lo, l.hi, l.sig, l.sector))).putHolder g q (h.endLong l)

/-! ## Lanes: resolve all, then perform (R111, R364) -/

/-- The lanes of an instruction resolved up to the first that faults, or a translation held by a flip. -/
inductive Lanes96 where
  | ok (s : State) (ts : List (LaneAcc × Target)) (fault : Option (LaneAcc × Nat × Nat × Nat))
  | parked (s : State)
  deriving Repr, Inhabited

/-- Resolve lanes in ascending order. A vector access to register space stops every lane (R29, R364). -/
def resolveLanes (c : AccCtx) (sp : Space) (n : Nat) (a : Acc) (hostOk : Bool) (first : LaneAcc) :
    List LaneAcc → List (LaneAcc × Target) → State → Lanes96
  | [], acc, s => .ok s acc.reverse none
  | x :: xs, acc, s =>
    match s.resolve c sp x.ea n a hostOk with
    | .ok t s1 => resolveLanes c sp n a hostOk first xs ((x, t) :: acc) s1
    | .parked s1 => .parked s1
    | .fault cause kind addr s1 =>
      let reg := c.vector && (x :: xs).any (fun y => match s.resolve c sp y.ea n a hostOk with
        | .fault 5 0x14 _ _ => true
        | _ => false)
      if reg then .ok s1 [] (some (first, 5, 0x14, first.ea)) else .ok s1 acc.reverse (some (x, cause, kind, addr))

/-- Why performing lanes stopped. -/
inductive Halt where
  | no
  | fault (x : LaneAcc) (cause kind payload : Nat)
  | busy
  deriving Repr, Inhabited

/-- Performing lanes: the state and holder so far, the values read, the lanes performed or sent out, stamps, flags. -/
structure Run where
  s : State
  h : Holder
  vals : List (LaneAcc × List Byte) := []
  done : List LaneAcc := []
  sent : List LaneAcc := []
  lo : Nat := 0
  hi : Nat := 0
  sig : Nat := 0
  sector : Nat := 0
  flags : Nat := 0
  halt : Halt := .no
  deriving Repr, Inhabited

/-- Everything that lanes need before any of them performs, in ascending order: the lanes that have it, and why it stopped. -/
def acquireLanes (acq : State → LaneAcc → Target → Coh) :
    List (LaneAcc × Target) → List (LaneAcc × Target) → State → List (LaneAcc × Target) × Halt × State
  | [], acc, s => (acc.reverse, .no, s)
  | (x, t) :: rest, acc, s =>
    match acq s x t with
    | .ok s1 => acquireLanes acq rest ((x, t) :: acc) s1
    | .busy s1 => (acc.reverse, .busy, s1)
    | .poison k s1 => (acc.reverse, .fault x 11 k 0, s1)
    | .contain p s1 => (acc.reverse, .fault x 10 (field p 104 8) p, s1)

/-- Stamps, signature and first sector of one more performed access. -/
def Run.stamped (r : Run) (t : Target) (lo hi : Nat) : Run :=
  { r with
    lo := if r.hi = 0 then lo else serialMin r.lo lo
    hi := if r.hi = 0 then hi else serialMax r.hi hi
    sig := r.sig ||| t.signature
    sector := if r.hi = 0 then t.sector else r.sector }

/-- Perform lanes in ascending order. `f` performs a target; `out` sends a piece out. -/
def performLanes (f : State → LaneAcc → Target → Perf × Nat) (out : State → Holder → LaneAcc → OutPart → State × Holder) :
    List (LaneAcc × Target) → Run → Run
  | [], r => r
  | (x, t) :: rest, r =>
    match f r.s x t with
    | (.ok v lo hi s1, fl) =>
      performLanes f out rest { r.stamped t lo hi with
        s := s1, vals := r.vals ++ [(x, v)], done := r.done ++ [x], flags := r.flags ||| fl }
    | (.poison k s1, _) => { r with s := s1, halt := .fault x 11 k 0 }
    | (.contain p s1, _) => { r with s := s1, halt := .fault x 10 (field p 104 8) p }
    | (.busy s1, _) => { r with s := s1, halt := .busy }
    | (.ext parts v lo hi s1, fl) =>
      let (s2, h2) := parts.foldl (fun y p => out y.1 y.2 x p) (s1, r.h)
      let r1 := if hi = 0 then r else r.stamped t lo hi
      performLanes f out rest { r1 with
        s := s2, h := h2, vals := r.vals ++ [(x, v)], sent := r.sent ++ [x], flags := r.flags ||| fl }

/-- Perform lanes once each has what it needs. While a line is busy, and after a containment, none performs (R169); before a
poisoned lane the lower ones do (R364). -/
def runLanes (acq : State → LaneAcc → Target → Coh) (f : State → LaneAcc → Target → Perf × Nat)
    (out : State → Holder → LaneAcc → OutPart → State × Holder) (ts : List (LaneAcc × Target)) (r : Run) : Run :=
  match acquireLanes acq ts [] r.s with
  | (_, .no, s1) => performLanes f out ts { r with s := s1 }
  | (got, .fault x 11 k p, s1) =>
    let r1 := performLanes f out got { r with s := s1 }
    match r1.halt with
    | .no => { r1 with halt := .fault x 11 k p }
    | _ => r1
  | (_, halt, s1) => { r with s := s1, halt := halt }

/-- Lanes of a list as a set. -/
def laneSet (xs : List LaneAcc) : Lanes := xs.foldl (fun m x => if x.lane < 96 then m ||| laneBit x.lane else m) 0#96

/-- `%tval` of a fault (R421): the line's address for containment, else the lane's address. -/
def faultVal (cause ea payload : Nat) : Nat := if cause = 10 then field payload 115 45 * 128 else ea

/-! ## Checks at the issue of a memory instruction -/

/-- Whether a pending release of the slot holds back later writes (R376, R160): a release fence or a release write. -/
def Release.holdsWrites (r : Release) : Bool :=
  match r.kind with
  | .fence o => orderRel o
  | .store _ _ | .atomic _ _ => true
  | _ => false

/-- Whether a pending release holds back later reads: an acquire-release fence, or a release write, which a read of its sector and
an acquire read come after (R119, R121). -/
def Release.holdsReads (r : Release) : Bool :=
  match r.kind with
  | .fence .ar => true
  | .store _ _ | .atomic _ _ => true
  | _ => false

/-- Whether an atomic at the host or at a peer has still to be answered that comes before every later write, or, when it
acquires, before every later access (R121, R137). -/
def Holder.atomAway (h : Holder) (writes : Bool) : Bool := h.ext.any (fun x => x.atom.isSome && (writes || x.order % 2 == 1))

/-- Whether an earlier access of a holder has still to read: reads of one item never go backwards (R119). -/
def Holder.readsBefore (h : Holder) (idx : Nat) : Bool := h.ll.any (fun l => decide (l.idx < idx) && !l.lanes.isEmpty)

/-- Whether an answer of register space or a storage window is outstanding (R29). -/
def Holder.regPending (s : State) (h : Holder) : Bool :=
  h.ext.any (fun x => regionOf s x.pa == .reg || regionOf s x.pa == .storage)

/-- Loads and atomics that acquire (R121). -/
def acquiring : Instr → Bool
  | .vld o | .vldu o | .vgath o | .vgathMt o | .sld o
  | .vatomAdd o | .vatomMin o | .vatomMax o | .vatomAnd o | .vatomOr o | .vatomXor o | .vatomExch o | .vatomCas o
  | .satomAdd o | .satomMin o | .satomMax o | .satomAnd o | .satomOr o | .satomXor o | .satomExch o | .satomCas o =>
    orderAcq o.order
  | _ => false

/-- What a memory instruction waits for before it forms its addresses: the Taster's window (R149), held-back stores
(R487), the answer of an earlier register-space access (R29), releases (R376), an acquire, and earlier reads for a
write (R121). -/
def memWait (s : State) (g q : Nat) (h : Holder) (scalarGlob writes : Bool) : Option Wait :=
  let c := s.core g
  if c.taster.length ≥ 1024 then some .tasterFull
  else if !writes && c.delayed.any (fun d => d.slot == q) then some .earlier
  else if scalarGlob && h.regPending s then some .answer
  else if c.releases.any (fun r => r.slot == q && (if writes then r.holdsWrites else r.holdsReads)) then some .earlier
  else if h.atomAway writes then some .answer
  else if h.ll.any (fun l => acquiring l.instr) || (writes && !h.ll.isEmpty) then some .earlier
  else none

/-- The least time in ck that the spec gives a long-latency instruction: own scratchpad and L1 hit (R97), `mrd` (R404); of
a constant read it is 8 ck (R367). It completes no earlier (LOG 7). -/
def leastTime : Instr → Nat
  | .mrd _ _ _ _ _ _ logn => 12 + 2 ^ logn
  | .mld _ _ _ _ _ _ sp _ | .hld _ _ _ _ sp => if sp == .team || sp == .clu then 22 else 28
  | .sld o | .vld o | .vldu o | .vgath o | .vgathMt o
  | .vatomAdd o | .vatomMin o | .vatomMax o | .vatomAnd o | .vatomOr o | .vatomXor o | .vatomExch o | .vatomCas o
  | .satomAdd o | .satomMin o | .satomMax o | .satomAnd o | .satomOr o | .satomXor o | .satomExch o | .satomCas o =>
    if o.space == .glob then 28 else if o.space == .reg then 8 else 22
  | _ => 0

/-- A new long-latency instruction at the end of its issue (R284): the holder moves on, the counter rises, and the
instruction completes by a step of its own. -/
def State.startLong (s : State) (g q : Nat) (h : Holder) (l : LongOp) (la ctr : Nat) : State :=
  let h1 := h.advance l.instr.size
  let l1 := { l with
    idx := h.nextIdx
    due := if l.due = 0 then s.clock + leastTime l.instr else l.due
    pc := h.pc
    done := h.skipLanes
    window := if la < 15 then some la else none
    ctr := if la < 15 then none else some ctr }
  ((s.issued g q { h1 with
    ll := h1.ll ++ [l1]
    nextIdx := h.nextIdx + 1
    dcs := if la < 15 then h1.dcs else AMap.upd h1.dcs ctr 0 (· + 1) }).flow g q h l.instr
      (if l.seq = noEntry then none else some l.seq)).push [.longLatencyComplete g q h.nextIdx]

/-- Whether a counter that an instruction would raise stands at 63 (R241). -/
def Holder.counterFull (h : Holder) (la ctr : Nat) : Bool := la == 15 && decide (63 ≤ AMap.getD h.dcs ctr 0)

/-- Replace a long-latency instruction's record. -/
def Holder.setLong (h : Holder) (l : LongOp) : Holder :=
  { h with ll := h.ll.map (fun x => if x.idx = l.idx then l else x) }

/-- A long-latency instruction of a holder. -/
def Holder.long? (h : Holder) (idx : Nat) : Option LongOp := h.ll.find? (fun l => l.idx == idx)

/-- Whether an access that the instruction has sent out is unanswered. -/
def Holder.asking (h : Holder) (idx : Nat) : Bool := h.ext.any (fun x => x.idx == some idx)

/-- Stamps of a run added to those the instruction has. -/
def LongOp.stamp (l : LongOp) (r : Run) : LongOp :=
  if r.hi = 0 then l
  else
    { l with
      lo := if l.hi = 0 then r.lo else if serialGt l.lo r.lo then r.lo else l.lo
      hi := if l.hi = 0 then r.hi else if serialGt r.hi l.hi then r.hi else l.hi
      sig := l.sig ||| r.sig
      sector := if l.hi = 0 then r.sector else l.sector }

/-- The lanes still to be performed after a run: those after the ones it performed or sent out. -/
def LongOp.rest (l : LongOp) (r : Run) : List LaneAcc := l.lanes.drop (r.done.length + r.sent.length)

/-- Make the team cut of R191 when an access in space 1 or 2 needs one; none when it is not needed. -/
def State.needTeam (s : State) (g q : Nat) (h : Holder) : Option State :=
  let t := s.tsize h
  if h.multiTeam t ∨ (s.teamAlloc g h.grid (h.teamOf t)).isNone then
    if h.multiTeam t ∧ !trapReady s g q h then some (s.block g q h h.settleWait)
    else some (s.afterPlace g q h (s.teamCut g q h) (fun s1 =>
      if h.multiTeam t then s1 else s1.putHolder g q { h with status := .ready }))
  else none

/-- Whether a space is team-local. -/
def teamSpace (sp : Space) : Bool := sp == .team || sp == .clu

/-- Members of a range context that a guard lets execute. -/
def TruthSet.members (ts : TruthSet) (lo hi : Nat) : List Nat :=
  match ts with
  | .all => (List.range (hi - lo)).map (· + lo)
  | .none => []
  | .upTo c => (List.range (c - lo)).map (· + lo)
  | .fromOn c => (List.range (hi - c)).map (· + c)

end Sys2Proof.Machine
end

