-- ==== Sys2Proof/Machine/Control.lean ====
section
/-! DEFINITION. Control instructions (spec 12 R309-R320, R326): branches, the split stack, calls, exits, yield. -/

namespace Sys2Proof.Machine

/-! ## Branches (R280, R309) -/

/-- PC + 8 × sext(offset, 24). -/
def brTarget (pc off : Nat) : Nat := wrapI ((pc : Int) + 8 * sextI off 24) 64

/-- `bra`. -/
def execBra (off : Nat) (s : State) : Out :=
  issue (.bra off) s fun g q h => .next (s.issued g q (h.jump (brTarget h.pc off)))

/-- A branch on a condition: the packets NT and TK (R489). -/
def branchIf (s : State) (g q : Nat) (h : Holder) (take : Bool) (target : Nat) : State :=
  let h1 := if take then h.jump target else h.advance 8
  (s.issued g q h1).trace g q h1 (if take then 3 else 2) []

/-- `bz`. -/
def execBz (d off : Nat) (s : State) : Out :=
  issue (.bz d off) s fun g q h => .next (branchIf s g q h (h.readS d == 0#32) (brTarget h.pc off))

/-- `bnz`. -/
def execBnz (d off : Nat) (s : State) : Out :=
  issue (.bnz d off) s fun g q h => .next (branchIf s g q h (h.readS d != 0#32) (brTarget h.pc off))

/-- A jump through registers: a target that is no multiple of 8 traps (R270). -/
def jumpReg (s : State) (g q : Nat) (h : Holder) (i : Instr) (target : Nat) : State :=
  if target % 8 ≠ 0 then s.trapHere g q h 0 0 (headWord i) else (s.issued g q (h.jump target)).unsync g q

/-- `brx`. -/
def execBrx (a : Nat) (s : State) : Out :=
  issue (.brx a) s fun g q h => .next (jumpReg s g q h (.brx a) (h.readS64 a).toNat)

/-! ## Calls and returns (R314-R318) -/

/-- The lowest free frame number; the spill area has room for records of numbers 1 to 511 (R513). -/
def Holder.freeFrame (h : Holder) : Option Nat := (List.range 511).map (· + 1) |>.find? (fun f => !AMap.has h.frames f)

/-- The frame a call makes: its first granule is the caller's last one. -/
def Holder.callFrame (h : Holder) (f k ret : Nat) : Frame :=
  let x := h.getFrame h.frame
  let p := x.pos.getLast?.getD 0
  { ret := ret, parent := h.frame, depth := x.depth + 1
    grans := x.grans.getLast?.getD 0 :: (List.range (k - 1)).map (fun j => 32 * f + j + 1)
    pos := p :: (List.range (k - 1)).map (fun j => (p + j + 1) % (h.w / 8)) }

/-- `call` and `callx` with a window of k granules (R314). -/
def callTo (s : State) (g q : Nat) (h : Holder) (target k : Nat) : State :=
  if k > h.w / 8 then s.trapHere g q h 1 0 (8 * k)
  else
    match h.freeFrame with
    | none => s.trapHere g q h 4 2 (spillBaseOf s g q h + recSpillSize (s.recOf h))
    | some f =>
      let h1 := { h with frames := AMap.set h.frames f (h.callFrame f k ((h.pc + 8) % 2 ^ 64)) }
      s.afterDrip g q h (s.enterFrame g q h1 f) fun s1 h2 => s1.issued g q (h2.jump target)

/-- `call`. -/
def execCall (off k : Nat) (s : State) : Out :=
  issue (.call off k) s fun g q h => .next (callTo s g q h (brTarget h.pc off) k)

/-- `callx`. -/
def execCallx (a k : Nat) (s : State) : Out :=
  issue (.callx a k) s fun g q h =>
    let t := (h.readS64 a).toNat
    .next (if t % 8 ≠ 0 then s.trapHere g q h 0 0 (headWord (.callx a k)) else (callTo s g q h t k).unsync g q)

/-! ## Ends of items (R313) -/

/-- Lanes leave: they are taken out of the path, the mask and every split-stack entry. -/
def Holder.dropLanes (h : Holder) (m : Lanes) : Holder :=
  { h with
    live := h.live &&& ~~~m
    path := h.path &&& ~~~m
    mask := h.mask &&& ~~~m
    stack := h.stack.map (fun e => { e with lanes := e.lanes &&& ~~~m }) }

/-- Whether an earlier access, release or held store of the holder is still to perform; an end or cut of the holder
waits for it. -/
def quietHere (s : State) (g q : Nat) (h : Holder) : Bool := trapReady s g q h

/-- After lanes have left: the path goes on at PC + 8, or the top entry resumes, or nothing is left and the state is
`last`. `s` and `h` are those before the instruction, for a fault of R316; `s1` and `h1` have the lanes gone. -/
def leaveItems (s : State) (g q : Nat) (h : Holder) (s1 : State) (h1 : Holder) (last : State) : State :=
  if h1.path &&& h1.live ≠ 0#96 then (s1.issued g q (h1.advance 8)).traceMaskOf g q h (h1.advance 8)
  else
    match s1.resumeTop g q h1 with
    | none => last
    | some d => s.afterDrip g q h d fun s2 h2 => (s2.issued g q (h2.jump h2.pc)).tracePath g q (h2.jump h2.pc)

/-- Teams of which a holder's ending items would be the last, with no team record free (R180). -/
def needsRecord (s : State) (g : Nat) (h : Holder) (n : Nat) : Bool :=
  match h.kind with
  | .range => (teamsOf (s.tsize h) h.lo h.hi).any (fun x => s.noRecord g h.grid x.1 (x.2.2 - x.2.1))
  | _ => s.noRecord g h.grid h.team n

/-! ## vbr and vjoin (R310-R312, R191, R192) -/

/-- `vbr` of a dense group. -/
def vbrGroup (s : State) (g q : Nat) (h : Holder) (neg : Bool) (p target : Nat) : State :=
  let t := h.mask &&& h.predSet p neg
  let n := h.mask &&& ~~~t
  if t = 0#96 then branchIf s g q h false target
  else if n = 0#96 then branchIf s g q h true target
  else
    let e : SplitEntry :=
      { pc := (h.pc + 8) % 2 ^ 64, lanes := n ||| (h.path &&& ~~~h.mask), depth := (h.getFrame h.frame).depth
        frame := h.frame, waiting := false }
    s.afterDrip g q h (s.pushSplit g q h e) fun s1 h1 =>
      let h2 := { h1 with path := t, mask := t }.jump target
      (s1.issued g q h2).trace g q h2 4 (leBytes 12 t.toNat)

/-- `vbr` of a range context: a uniform predicate moves it, a threshold cuts it (R191). -/
def vbrRange (s : State) (g q : Nat) (h : Holder) (neg : Bool) (p target : Nat) : State :=
  let taken := fun (h : Holder) => h.jump target
  let not_ := fun (h : Holder) => h.advance 8
  let split := fun (c : Nat) (low high : Holder → Holder) =>
    if trapReady s g q h then
      s.afterPlace g q h (s.cutWith g q h c low high) (fun s1 => s1.countIssue g q)
    else s.block g q h h.settleWait
  match (h.readP p).truth neg h.lo h.hi with
  | .all => branchIf s g q h true target
  | .none => branchIf s g q h false target
  | .upTo c => split c taken not_
  | .fromOn c => split c not_ taken

/-- `vbr`. -/
def execVbr (neg : Bool) (p off : Nat) (s : State) : Out :=
  issue (.vbr neg p off) s fun g q h =>
    let target := brTarget h.pc off
    match h.kind with
    | .range => .next (vbrRange s g q h neg p target)
    | _ => .next (vbrGroup s g q h neg p target)

/-- `vjoin` of a dense group at its pc (R312). With an empty stack the mask stays as it is: the pseudocode of R312
(LOG 25). -/
def vjoinGroup (s : State) (g q : Nat) (h : Holder) : State :=
  s.afterDrip g q h (dropDead g q 600 s h) fun s1 h1 =>
    match h1.stack with
    | [] => s1.issued g q (h1.advance 8)
    | e :: rest =>
      if e.waiting ∧ e.pc = h.pc ∧ e.frame = h.frame then
        s1.afterDrip g q h (s1.refillSplit g q { h1 with stack := rest }) fun s2 h2 =>
          let lanes := (h2.path ||| e.lanes) &&& h2.live
          let h3 := { h2 with path := lanes, mask := lanes }.advance 8
          (s2.issued g q h3).tracePath g q h3
      else
        let w : SplitEntry :=
          { pc := h.pc, lanes := h1.path, depth := (h1.getFrame h1.frame).depth, frame := h1.frame, waiting := true }
        let pushed := (s1.refillSplit g q { h1 with stack := rest }).bind fun s2 h2 =>
          if h2.path &&& h2.live ≠ 0#96 then s2.pushSplit g q h2 w else .ok s2 h2
        s1.afterDrip g q h (pushed.bind fun s2 h2 => s2.resumeEntry g q h2 e) fun s3 h3 =>
          let h4 := h3.jump h3.pc
          (s3.issued g q h4).tracePath g q h4

/-- `vjoin`. -/
def execVjoin (s : State) : Out :=
  issue .vjoin s fun g q h =>
    match h.kind with
    | .range => .next (s.retire g q .vjoin h)
    | _ => .next (vjoinGroup s g q h)

/-! ## yield and dwait (R319, R320) -/

/-- `yield`: age and watchdog restart; a cancelled grid's context stops here (R218). -/
def execYield (s : State) : Out :=
  issue .yield s fun g q h =>
    if s.cancelled h then
      if quietHere s g q h then .next ((s.countIssue g q).endHolder g q h true) else .next (s.block g q h h.settleWait)
    else .next ((s.retire g q .yield { h with age := 0, watchdog := 0 }).vacate g q)

/-- `dwait` (R320): a blocking instruction, after which the watchdog count restarts (R205). -/
def execDwait (k : Nat) (s : State) : Out :=
  issue (.dwait k) s fun g q h =>
    if AMap.getD h.dcs k 0 = 0 then
      .next (s.retire g q (.dwait k) { h with watchdog := if h.status = .ready then h.watchdog else 0 })
    else .next (s.block g q h (.counter k))

end Sys2Proof.Machine
end

