-- ==== Sys2Proof/Machine/Vector.lean ====
section
/-! DEFINITION. How a vector instruction runs (spec 13 R332, R333, R359; 07 R185-R190, R196; 09 R238): per lane in a
dense group, by forms in a range context. -/

namespace Sys2Proof.Machine

/-- The form of a B or C operand: a scalar is uniform. -/
def Holder.srcForm (h : Holder) (scalar : Bool) (n : Nat) : VReg := if scalar then .uni (h.readS n) else h.readV n

/-- Forms of the registers of an operand. -/
def Holder.srcForms (h : Holder) (scalar wide : Bool) (n : Nat) : List VReg :=
  if wide then [h.srcForm scalar n, h.srcForm scalar (n + 1)] else [h.srcForm scalar n]

/-- Whether a form is uniform. -/
def VReg.isUni : VReg → Bool
  | .uni _ => true
  | _ => false

/-- Members over which a holder's forms are decided (R184, R196). -/
def State.formCtx (s : State) (h : Holder) : FormCtx :=
  let t := s.tsize h
  match h.kind with
  | .range => cornersOf t h.lo h.hi
  | _ =>
    match (laneList h.live).map (h.member t) with
    | [] => cornersOf t 0 1
    | m :: ms => cornersOf t (ms.foldl min m) (ms.foldl max m + 1)

/-- A value as one or two uniform registers. -/
def uniPair (v : Nat) : VReg × VReg := (.uni (BitVec.ofNat 32 (v % 2 ^ 32)), .uni (BitVec.ofNat 32 (v / 2 ^ 32)))

/-- Members of a range context that a guard shuts off, as an interval. -/
def TruthSet.off (ts : TruthSet) (lo hi : Nat) : Nat × Nat :=
  match ts with
  | .all => (hi, hi)
  | .none => (lo, hi)
  | .upTo c => (c, hi)
  | .fromOn c => (lo, c)

/-- Members of [lo, hi) at which two functions of the form of R182 differ if they differ at all. -/
def probes (t lo hi : Nat) : List Nat :=
  let b := (lo / t + 1) * t
  ([lo, lo + 1, b, b + 1, hi - 2, hi - 1]).filter (fun m => decide (lo ≤ m) && decide (m < hi))

/-- Whether a register holds what a function gives over an interval of members. -/
def sameOver (t lo hi : Nat) (a b : VReg) : Bool :=
  (probes t lo hi).all (fun m => a.at (m / t) (m % t) 0 == b.at (m / t) (m % t) 0)

/-- What a vector instruction computes: the destination, its width, the registers it reads, the form its row of R185
gives, and the value and flags of a lane. -/
structure VecSpec where
  gd : Guard
  d : Nat
  wide : Bool
  srcs : List VReg
  form : FormCtx → Option (VReg × VReg)
  f : Nat → Nat × Nat

/-- The result form: all sources uniform give one application (R185). -/
def VecSpec.result (v : VecSpec) (x : FormCtx) : Option (VReg × VReg) :=
  if v.srcs.all (·.isUni) then some (uniPair (v.f 0).1) else v.form x

/-- Write a result in register forms. -/
def VecSpec.put (v : VecSpec) (h : Holder) (r : VReg × VReg) : Holder :=
  if v.wide then (h.writeV v.d r.1).writeV (v.d + 1) r.2 else h.writeV v.d r.1

/-- Flags of an instruction done once for a whole context. -/
def VecSpec.flags1 (v : VecSpec) : Nat := if v.srcs.all (·.isUni) then (v.f 0).2 else 0

/-- A vector instruction of a range context (R189, R190). -/
def VecSpec.range (v : VecSpec) (i : Instr) (s : State) (g q : Nat) (h : Holder) : State :=
  let gs := h.rangeGuard v.gd
  if gs = .none then s.retire g q i h
  else
    match v.result (s.formCtx h) with
    | none => s.unfoldHere g q h
    | some r =>
      let o := gs.off h.lo h.hi
      let t := s.tsize h
      if sameOver t o.1 o.2 (h.readV v.d) r.1 && (!v.wide || sameOver t o.1 o.2 (h.readV (v.d + 1)) r.2) then
        s.retire g q i ((v.put h r).raiseFlags v.flags1)
      else s.unfoldHere g q h

/-- Whether an instruction of a group runs under a full mask and no guard (R196). -/
def Holder.fullMask (h : Holder) (gd : Guard) : Bool :=
  h.mask == h.live && gd.pred == 0 && !gd.neg && h.skipLanes == 0#96

/-- A vector instruction of a dense group on a holder: active lanes only. -/
def VecSpec.group (v : VecSpec) (x : FormCtx) (h : Holder) : Holder :=
  let act := h.activeLanes v.gd
  if act = 0#96 then h
  else
    let fl := orFlags ((laneList act).map (fun L => (v.f L).2))
    match (if h.fullMask v.gd then v.result x else none) with
    | some r => (v.put h r).raiseFlags fl
    | none => (h.setWide v.wide v.d act (fun L => (v.f L).1)).raiseFlags fl

/-- A vector instruction (R333). -/
def vec (i : Instr) (s : State) (mk : Holder → VecSpec) : Out :=
  issue i s fun g q h =>
    match h.kind with
    | .range => .next ((mk h).range i s g q h)
    | _ => .next (s.retire g q i ((mk h).group (s.formCtx h) h))

/-! ## Predicate results (R183, R186-R190) -/

/-- The true set restricted to [lo, hi) as a predicate; a proper suffix does not occur once the context is cut. -/
def TruthSet.pred (ts : TruthSet) (lo hi : Nat) : PReg :=
  match ts with
  | .all => .uni true
  | .none => .uni false
  | .upTo c => mkThr lo hi c
  | .fromOn c => .uni (decide (c ≤ lo))

/-- The complement of a true set. -/
def TruthSet.compl : TruthSet → TruthSet
  | .all => .none
  | .none => .all
  | .upTo c => .fromOn c
  | .fromOn c => .upTo c

/-- Whether member m is in a true set. -/
def TruthSet.has (ts : TruthSet) (m : Nat) : Bool :=
  match ts with
  | .all => true
  | .none => false
  | .upTo c => decide (m < c)
  | .fromOn c => decide (c ≤ m)

/-- Where a set is cut. -/
def TruthSet.cut : TruthSet → List Nat
  | .upTo c => [c]
  | .fromOn c => [c]
  | _ => []

/-- Whether two true sets agree on an interval. -/
def sameTruth (lo hi : Nat) (a b : TruthSet) : Bool :=
  (([lo, hi - 1] ++ (a.cut ++ b.cut).flatMap (fun c => [c - 1, c])).filter (fun m =>
    decide (lo ≤ m) && decide (m < hi))).all (fun m => a.has m == b.has m)

/-- Write predicates of a range context. -/
def Holder.putTruths (h : Holder) (ds : List (Nat × TruthSet)) : Holder :=
  ds.foldl (fun h p => h.writeP p.1 (p.2.pred h.lo h.hi)) h

/-- Predicate results of a range context: destinations with their true sets, none when dense. A proper suffix cuts the
context (R187); p0 is no destination, since a write to it is discarded (R238). -/
def predRange (i : Instr) (s : State) (g q : Nat) (h : Holder) (gd : Guard) (ds0 : Option (List (Nat × TruthSet)))
    (fl : Nat) : State :=
  let gs := h.rangeGuard gd
  if gs = .none then s.retire g q i h
  else
    match ds0 with
    | none => s.unfoldHere g q h
    | some ds1 =>
      let ds := ds1.filter (fun p => p.1 != 0)
      let o := gs.off h.lo h.hi
      if ds.all (fun p => sameTruth o.1 o.2 p.2 ((h.readP p.1).truth false h.lo h.hi)) then
        match ds.findSome? (fun p => match p.2 with | .fromOn c => some c | _ => none) with
        | none => s.retire g q i ((h.putTruths ds).raiseFlags fl)
        | some c =>
          if trapReady s g q h then
            let part := fun (x : Holder) => ((x.putTruths ds).raiseFlags fl).advance i.size
            s.afterPlace g q h (s.cutWith g q h c part part) (fun s1 => s1.countIssue g q)
          else s.block g q h h.settleWait
      else s.unfoldHere g q h

/-- Predicate results of a dense group: destinations with their lane values, and flags. -/
def predGroup (h : Holder) (act : Lanes) (ds : List (Nat × (Nat → Bool))) (fl : Nat → Nat) : Holder :=
  if act = 0#96 then h
  else (ds.foldl (fun h p => h.setPred p.1 act p.2) h).raiseFlags (orFlags ((laneList act).map fl))

end Sys2Proof.Machine
end

