-- ==== Sys2Proof/Machine/Loads.lean ====
section
/-! DEFINITION. Loads (spec 14 R361-R368, 03 R70, 11 R284-R286): the issue of one and its completion, and `pref` (R371). -/

namespace Sys2Proof.Machine

/-- The shape of a load: vector destination, one address a lane, 64-bit offsets, miss-tolerant. -/
structure LoadSpec where
  i : Instr
  o : MOp
  vector : Bool
  each : Bool
  pair : Bool
  miss : Bool
  deriving Repr, Inhabited

/-- The load that an instruction is. -/
def loadSpec (i : Instr) : Option LoadSpec :=
  match i with
  | .vld o => some ⟨i, o, true, true, false, false⟩
  | .vldu o => some ⟨i, o, true, false, false, false⟩
  | .vgath o => some ⟨i, o, true, true, true, false⟩
  | .vgathMt o => some ⟨i, o, true, true, true, true⟩
  | .sld o => some ⟨i, o, false, false, false, false⟩
  | _ => none

/-- Whether a load at ea is a constant read (R367). -/
def isConstRead (s : State) (h : Holder) (x : LoadSpec) (ea : Nat) : Bool :=
  let r := s.recOf h
  !x.each && x.o.space == .glob && x.o.order == .rlx && decide (recArgs r ≤ ea)
    && decide (ea + x.o.elem.bytes ≤ recArgs r + recArgSize r)

/-- The line of a constant read enters the constant cache of 512 lines, tagged with its grid (R367). -/
def State.constLine (s : State) (g grid line : Nat) : State :=
  s.updCore g (fun c => { c with
    ccache := if c.ccache.contains (grid, line) then c.ccache else ((grid, line) :: c.ccache).take 512 })

/-- Whether a register holds one value for every member of a range context. -/
def Holder.uniformV (h : Holder) (n : Nat) : Bool :=
  match (h.readV n).coef with
  | some c => c.2.1 == 0#32 && c.2.2 == 0#32
  | none => false

/-! ## Issue -/

/-- Issue of a load whose accesses are formed. Space 3 is read at once, in program order (R43). -/
def loadGo (x : LoadSpec) (s : State) (g q : Nat) (h : Holder) (act : Lanes) (uni : Bool) (lanes : List LaneAcc) : State :=
  let n := x.o.elem.bytes
  let t := s.tsize h
  if x.o.space = .reg then
    match lanes.find? (fun y => !h.apOk y.ea n) with
    | some y => s.trapHere g q h 1 0 y.ea
    | none =>
      (s.traceMem g q h x.i x.o.elem.code (!x.vector) (lanes.map (fun y => (y.lane, y.ea)))).startLong g q h
        { idx := 0, instr := x.i, pc := 0, active := act, uni := uni, seq := noEntry
          vals := lanes.map (fun y => (y.lane, h.apRead t y.ea n)) } x.o.la x.o.ctr
  else
    let s1 := s.traceMem g q h x.i x.o.elem.code (!x.vector) (lanes.map (fun y => (y.lane, y.ea)))
    let const := match lanes with
      | [y] => isConstRead s h x y.ea
      | _ => false
    let (s2, seq) := if const then (s1, noEntry)
      else s1.tasterPush g { max := 0, min := 0, sig := 0, slot := q, kind := 0, order := x.o.order.code
                             scope := (actsIn x.o).code, stamped := false, dep := s1.depOf g q h x.i, again := h.againPc }
    s2.startLong g q h
      { idx := 0, due := if const then s.clock + 8 else 0, instr := x.i, pc := 0, active := act, uni := uni, lanes := lanes,
        seq := seq } x.o.la x.o.ctr

/-- Whether a load of one offset a lane has one address in every lane (R185, R196); `vgath` and space 3 are left out (R43, R188). -/
def LoadSpec.uniAddr (x : LoadSpec) (h : Holder) : Bool := !x.pair && x.o.space != .reg && h.uniformV x.o.b

/-- Issue of a load of a range context (R188, R190, R366). -/
def loadRange (x : LoadSpec) (s : State) (g q : Nat) (h : Holder) : State :=
  let gs := h.rangeGuard x.o.g
  if x.vector ∧ gs = .none then s.retire g q x.i h
  else if x.vector ∧ (gs ≠ .all ∨ x.pair ∨ x.o.space = .reg ∨ (x.each ∧ !x.uniAddr h)) then
    s.unfoldHere g q h
  else
    let ea := memEA h x.o.a x.o.b x.o.kind false (fun n => h.vMember (s.tsize h) n h.lo)
    loadGo x s g q h 0#96 true [⟨if x.vector then h.lo else 127, ea, 0, 0⟩]

/-- Issue of a load of a dense group. -/
def loadGroup (x : LoadSpec) (s : State) (g q : Nat) (h : Holder) : State :=
  if !x.vector then
    loadGo x s g q h 0#96 false [⟨127, memEA h x.o.a x.o.b x.o.kind false (fun _ => 0), 0, 0⟩]
  else
    let act := h.activeLanes x.o.g
    match lowestLane act with
    | none => s.retire g q x.i h
    | some l0 =>
      if x.each && !(x.uniAddr h && h.fullMask x.o.g) then
        loadGo x s g q h act false ((laneList act).map (fun L =>
          ⟨L, memEA h x.o.a x.o.b x.o.kind x.pair (fun n => h.vLane n L), 0, 0⟩))
      else
        loadGo x s g q h act (h.fullMask x.o.g) [⟨l0, memEA h x.o.a x.o.b x.o.kind false (fun n => h.vLane n l0), 0, 0⟩]

/-- Issue of a load. -/
def load (x : LoadSpec) (s : State) : Out :=
  issue x.i s fun g q h =>
    match (memWait s g q h (!x.vector && x.o.space == .glob) false).or (s.farRead g q h x.i) with
    | some w => .next (s.block g q h w)
    | none =>
      if h.counterFull x.o.la x.o.ctr then .next (s.block g q h (.counter (x.o.ctr + 8)))
      else if x.o.space = .reg ∧ h.vecPending then .next (s.block g q h .writer)
      else
        match (if teamSpace x.o.space then s.needTeam g q h else none) with
        | some s1 => .next s1
        | none =>
          match h.kind with
          | .range => .next (loadRange x s g q h)
          | _ => .next (loadGroup x s g q h)

/-- `vld`. -/
def execVld (o : MOp) (s : State) : Out := load ⟨.vld o, o, true, true, false, false⟩ s
/-- `vldu`. -/
def execVldu (o : MOp) (s : State) : Out := load ⟨.vldu o, o, true, false, false, false⟩ s
/-- `vgath`. -/
def execVgath (o : MOp) (s : State) : Out := load ⟨.vgath o, o, true, true, true, false⟩ s
/-- `vgath.mt`. -/
def execVgathMt (o : MOp) (s : State) : Out := load ⟨.vgathMt o, o, true, true, true, true⟩ s
/-- `sld`. -/
def execSld (o : MOp) (s : State) : Out := load ⟨.sld o, o, false, false, false, false⟩ s

/-! ## Completion -/

/-- The values that have arrived enter D (R362, R365). A miss-tolerant gather also writes its miss predicate (R70). -/
def loadWrite (x : LoadSpec) (h : Holder) (l : LongOp) : Holder :=
  let vals := l.vals.map (fun p => (p.1, elemWords x.o.elem p.2))
  match vals with
  | [] => if x.miss then h.setPred x.o.x l.active (fun _ => true) else h
  | (_, ws) :: _ =>
    if !x.vector then h.putScalars x.o.d ws
    else if l.uni then h.putUniform x.o.d ws
    else if !x.each then h.putLanes x.o.d ((laneList l.active).map (fun L => (L, ws)))
    else
      let h1 := h.putLanes x.o.d vals
      if x.miss then h1.setPred x.o.x l.active (fun L => !vals.any (fun p => p.1 == L)) else h1

/-- A value of an access, from its bytes. -/
def keepVals (vs : List (LaneAcc × List Byte)) : List (Nat × Nat) := vs.map (fun p => (p.1.lane, leValue p.2))

/-- Whether a physical piece of a target lies in register space or a storage window (R29). -/
def Target.isReg (s : State) : Target → Bool
  | .phys segs => segs.any (fun g => pteType g.e.attr == 2 && (regionOf s g.pa == .reg || regionOf s g.pa == .storage))
  | .spm _ _ _ => false

/-- The Taster entry of a register-space access has a kind of its own (R146). -/
def State.tasterReg (s : State) (g n kind : Nat) : State :=
  s.updCore g (fun c => { c with
    taster := c.taster.map (fun e => if e.seq = n then { e with kind := kind } else e) })

/-- A piece of a load goes out (R29, R32, R38). -/
def loadOut (g q : Nat) (l : LongOp) (s : State) (h : Holder) (y : LaneAcc) (p : OutPart) : State × Holder :=
  s.askExt g q h
    { idx := some l.idx, pa := p.pa, size := p.len, data := none, lane := y.lane, ea := y.ea, tag := 0, pc := l.pc, off := p.off
      whole := p.ro } none

/-- The lanes of a miss-tolerant gather that hit: their pages stand in a TLB and pass every check (R70). The others start
their walks, within the limit of R62. -/
def missSplit (s : State) (c : AccCtx) (n : Nat) (lanes : List LaneAcc) : List (LaneAcc × Target) × State :=
  let inTlb := fun (va : Nat) => (s.tlbLookup c.req c.asid va).isSome
  let hits := lanes.filterMap (fun y =>
    if (pagesOf y.ea n).all (fun p => inTlb p.1) then
      match s.resolve c .glob y.ea n .load true with
      | .ok t _ => some (y, t)
      | _ => none
    else none)
  let pages := ((lanes.flatMap (fun y => (pagesOf y.ea n).map (fun p => p.1))).filter (fun va => !inTlb va && decide (va < 2 ^ 56))).map
    (fun va => va / 4096)
  let distinct := pages.foldl (fun (acc : List Nat) p => if acc.contains p then acc else acc ++ [p]) []
  let room := 32 - (s.core c.core).misses.length
  (hits, (distinct.take room).foldl (fun s p =>
    match s.walkInstall c.req c.asid (p * 4096) with
    | .ok _ s1 => s1
    | .parked s1 => s1
    | .fault _ _ s1 => s1) s)

/-- A hitting lane whose line the host must still give to the filter (R98). -/
def missWait (s : State) (c : AccCtx) (n : Nat) (lanes : List LaneAcc) : Option State :=
  lanes.findSome? (fun y =>
    if (pagesOf y.ea n).all (fun p => (s.tlbLookup c.req c.asid p.1).isSome) then
      match s.resolve c .glob y.ea n .load true with
      | .parked s1 => some s1
      | _ => none
    else none)

/-- A gather's hitting lanes perform one by one; a poison fault makes a lane a missing one (R368). -/
def missRun (acq : State → LaneAcc → Target → Coh) (f : State → LaneAcc → Target → Perf × Nat)
    (out : State → Holder → LaneAcc → OutPart → State × Holder) :
    List (LaneAcc × Target) → Run → Run
  | [], r => r
  | y :: rest, r =>
    let r1 := runLanes acq f out [y] r
    match r1.halt with
    | .no => missRun acq f out rest r1
    | .fault _ 11 _ _ => missRun acq f out rest { r1 with halt := .no }
    | _ => r1

/-- The instruction is whole: its values enter D and it completes. -/
def loadFinish (x : LoadSpec) (s : State) (g q : Nat) (h : Holder) (l : LongOp) : State :=
  if h.asking l.idx then s.putHolder g q (h.setLong l) else s.longDone g q (loadWrite x h l) l

/-- A fault of a load (R428): the lanes below the faulting one have their values; containment leaves every lane as it
was (R163). -/
def loadFault (x : LoadSpec) (s : State) (g q : Nat) (h : Holder) (l : LongOp) (y : LaneAcc) (cause kind addr payload : Nat) :
    State :=
  if h.asking l.idx then s.putHolder g q (h.setLong l)
  else
    let got := cause ≠ 10
    let h1 := if got ∧ l.vals ≠ [] then loadWrite x h l else h
    let dn := if got ∧ h.kind ≠ .range then l.vals.foldl (fun m p => m ||| laneBit p.1) 0#96 else 0#96
    let (ln, m) := laneFault s h y
    s.longFault g q h1 { l with done := l.done ||| dn } cause kind ln (faultVal cause addr payload) (if cause = 10 then withScope payload (actsIn x.o).code else payload) m

/-- The bytes of a constant read (R367): from the constant cache, or from their home, and then its lines are filled. -/
def constBytes (c : AccCtx) (grid : Nat) (t : Target) (s : State) : Reach :=
  match t with
  | .phys segs =>
    let lines := segs.flatMap (fun z => linesOf z.pa z.len)
    if lines.all (fun l => (s.core c.core).ccache.contains (grid, l) && (s.homePoison l).isNone) then
      .ok (segs.flatMap (fun z => s.physBytes z.pa z.len)) s
    else
      match s.reachRead { c with engine := true } c.core t with
      | .ok bs s1 => .ok bs (lines.foldl (fun s l => s.constLine c.core grid l) s1)
      | r => r
  | .spm _ _ _ => .ok [] s

/-- LONG_LATENCY_COMPLETE of a load: its lanes are read, as far as they can be. -/
def loadStep (x : LoadSpec) (s : State) (g q : Nat) (h : Holder) (l : LongOp) : State :=
  let n := x.o.elem.bytes
  let c := holderCtx s g h x.vector
  let acq := fun (s : State) (_ : LaneAcc) (t : Target) => s.acquireReadT c t
  let read := fun (s : State) (_ : LaneAcc) (t : Target) => (s.readHeld c t, 0)
  let run0 : Run := { s := s, h := h }
  let after := fun (r : Run) (fault : Option (LaneAcc × Nat × Nat × Nat)) =>
    let l1 := { (l.stamp r) with lanes := l.rest r, vals := l.vals ++ keepVals r.vals }
    match r.halt with
    | .busy => r.s.putHolder g q (r.h.setLong l1)
    | .fault y cause kind p => loadFault x r.s g q r.h l1 y cause kind y.ea p
    | .no =>
      match fault with
      | some (y, cause, kind, addr) => loadFault x r.s g q r.h l1 y cause kind addr 0
      | none => loadFinish x r.s g q r.h l1
  match l.lanes with
  | [] => loadFinish x s g q h l
  | first :: _ =>
    if h.readsBefore l.idx then s
    else if x.miss then
      match missWait s c n l.lanes with
      | some s1 => s1
      | none =>
      let (hits, s1) := missSplit s c n l.lanes
      let r := missRun acq read (loadOut g q l) hits { run0 with s := s1 }
      let l1 := { (l.stamp r) with vals := l.vals ++ keepVals r.vals, lanes := [] }
      match r.halt with
      | .busy => r.s.putHolder g q h
      | .fault y cause kind p => loadFault x r.s g q r.h l y cause kind y.ea p
      | .no => loadFinish x r.s g q r.h l1
    else if isConstRead s h x first.ea then
      match s.resolve { c with vector := true } .glob first.ea n .load true with
      | .ok t s1 =>
        match constBytes c h.grid t s1 with
        | .ok bs s2 => loadFinish x (s2.endAway g) g q h { l with lanes := [], vals := [(first.lane, leValue bs)] }
        | .fault cause k p s2 => loadFault x s2 g q h l first cause k first.ea p
        | .wait s2 => s2
      | .parked s1 => s1
      | .fault cause kind addr s1 => loadFault x s1 g q h l first cause kind addr 0
    else
      match resolveLanes c x.o.space n .load true first l.lanes [] s with
      | .parked s1 => s1
      | .ok s1 ts fault =>
        if h.regPending s1 && ts.any (fun p => p.2.isReg s1) then s1 else
        let s2 := if ts.any (fun p => p.2.isReg s1) then s1.tasterReg g l.seq 4 else s1
        let r := runLanes acq read (loadOut g q l) ts { run0 with s := s2 }
        after { r with s := r.s.cover g q l.seq (ts.flatMap (fun p => p.2.lines)) } fault

/-- A piece of a lane's element joins what has arrived of it (R111); a lane of which another piece has failed has no value. -/
def putPiece (lane v : Nat) : List (Nat × Nat) → List (Nat × Nat)
  | [] => []
  | p :: ps => if p.1 = lane then (lane, p.2 + v) :: ps else p :: putPiece lane v ps

/-- The answer of an access that a load sent out. -/
def loadAnswer (h : Holder) (e : ExtAccess) (v : Nat) (t : Nat) : Holder :=
  { h with
    ext := h.ext.filter (fun y => y.tag != e.tag)
    ll := h.ll.map (fun l => if some l.idx = e.idx then
      { l with
        vals := putPiece e.lane (v * 2 ^ (8 * e.off)) l.vals
        lo := if l.hi = 0 then t else serialMin l.lo t
        hi := if l.hi = 0 then t else serialMax l.hi t
        sector := if l.hi = 0 then e.pa / 32 else l.sector
        sig := l.sig ||| 2 ^ (field e.pa 5 5 ^^^ field e.pa 10 5) }
      else l) }

/-! ## Prefetch (R371) -/

/-- A prefetch counter of a core rises (R484). -/
def State.prefCount (s : State) (g k : Nat) : State :=
  s.updCore g (fun c => { c with dbg := { c.dbg with pf := AMap.upd c.dbg.pf k 0 (fun n => min (n + 1) 0xFFFFFFFF) } })

/-- Prefetch one line for a core: level 0 into the L1, level 1 into the memory-side copy. Faults are discarded; a lane
that requests nothing counts in PFDROP. -/
def prefLine (c : AccCtx) (level ea : Nat) (s : State) : State :=
  match s.resolve c .glob ea 1 .load true with
  | .ok (.phys (z :: _)) s1 =>
    let line := z.pa / 128
    if pteType z.e.attr ≠ 0 ∨ regionOf s1 z.pa = .peer ∨ s1.busyLine line ∨ (s1.homePoison line).isSome then s1.prefCount c.core 3
    else if level = 1 then
      if (homeDie s1 z.pa).any (fun d => AMap.has (s1.die d).msc line) then s1.prefCount c.core 3
      else (s1.fillMsc line).prefCount c.core 0
    else
      match (l1Core c.agent line).bind (fun g => AMap.find? (s1.core g).l1 line) with
      | some _ => s1.prefCount c.core 3
      | none =>
        match s1.transact .rds c.agent line with
        | .ok s2 =>
          match l1Core c.agent line with
          | none => s2
          | some g => (s2.updCore g (fun k => { k with
              l1 := if AMap.has k.l1 line then AMap.upd k.l1 line { st := .s } (fun l => { l with pref := true }) else k.l1 })).prefCount g 0
        | .contain _ s2 => s2
        | _ => s1.prefCount c.core 3
  | .ok _ s1 => s1.prefCount c.core 3
  | .parked s1 => s1.prefCount c.core 3
  | .fault _ _ _ s1 => s1.prefCount c.core 3

/-- `pref`. -/
def execPref (o : LineOp) (s : State) : Out :=
  issue (.pref o) s fun g q h =>
    let c := { (holderCtx s g h true) with vector := true }
    let eas := match h.kind with
      | .range =>
        let uni := match o.kind with
          | .vec => h.uniformV o.b
          | _ => true
        if uni && h.rangeGuard o.g != TruthSet.none then [memEA h o.a o.b o.kind false (fun n => h.vMember (s.tsize h) n h.lo)] else []
      | _ => (laneList (h.activeLanes o.g)).map (fun L => memEA h o.a o.b o.kind false (fun n => h.vLane n L))
    .next ((eas.foldl (fun s ea => prefLine c o.d ea s) s).retire g q (.pref o) h)

end Sys2Proof.Machine
end

