-- ==== Sys2Proof/Machine/Stores.lean ====
section
/-! DEFINITION. Stores (spec 14 R361-R364, R369, R370) and what they share with atomics that return nothing: they perform
at their issue, in ascending lanes or members, or wait in the release buffer (R160) or behind delay injection (R487). -/

namespace Sys2Proof.Machine

/-- The shape of a store or an atomic: vector data, 64-bit offsets, the atomic's operation, bytes. -/
structure WriteSpec where
  i : Instr
  o : MOp
  vector : Bool
  pair : Bool
  op : Option AtomOp
  size : Nat
  deriving Repr, Inhabited

/-- The store or atomic that an instruction is. -/
def writeSpec (i : Instr) : Option WriteSpec :=
  let v := fun (o : MOp) (op : AtomOp) => some (⟨i, o, true, false, some op, o.elem.bytes⟩ : WriteSpec)
  let c := fun (o : MOp) (op : AtomOp) => some (⟨i, o, false, false, some op, o.elem.bytes⟩ : WriteSpec)
  match i with
  | .vst o => some ⟨i, o, true, false, none, o.elem.bytes⟩
  | .vscat o => some ⟨i, o, true, true, none, o.elem.bytes⟩
  | .sst o => some ⟨i, o, false, false, none, o.elem.bytes⟩
  | .vatomAdd o => v o .add | .vatomMin o => v o .min | .vatomMax o => v o .max | .vatomAnd o => v o .and
  | .vatomOr o => v o .or | .vatomXor o => v o .xor | .vatomExch o => v o .exch | .vatomCas o => v o .cas
  | .satomAdd o => c o .add | .satomMin o => c o .min | .satomMax o => c o .max | .satomAnd o => c o .and
  | .satomOr o => c o .or | .satomXor o => c o .xor | .satomExch o => c o .exch | .satomCas o => c o .cas
  | _ => none

/-- Access kind of a store or atomic. -/
def WriteSpec.acc (x : WriteSpec) : Acc := if x.op.isSome then .atomic else .store

/-- Whether the host takes it (R44). -/
def WriteSpec.hostOk (x : WriteSpec) : Bool :=
  match x.op with
  | some op => hostAtomicOk op x.o.elem
  | none => true

/-- Registers from D to the new value of a `cas` (R276). -/
def WriteSpec.newAt (x : WriteSpec) : Nat := x.o.d + (if x.size = 8 then 2 else 1)

/-- The accesses of a store or atomic: ascending lanes of a group, or members of a range context, with their data. -/
def WriteSpec.lanes (x : WriteSpec) (s : State) (h : Holder) : List LaneAcc :=
  let n := x.size
  let one := fun (lane : Nat) (get : Nat → Nat) =>
    let data := fun (m : Nat) => if x.vector then get m else (h.readS m).toNat
    ({ lane := lane, ea := memEA h x.o.a x.o.b x.o.kind x.pair get, x := elemValue n x.o.d data
       new := if x.op = some .cas then elemValue n x.newAt data else 0 } : LaneAcc)
  if !x.vector then [one 127 (fun _ => 0)]
  else
    match h.kind with
    | .range => ((h.rangeGuard x.o.g).members h.lo h.hi).map (fun m => one m (fun k => h.vMember (s.tsize h) k m))
    | _ => (laneList (h.activeLanes x.o.g)).map (fun L => one L (fun k => h.vLane k L))

/-- Lanes and addresses that a memory trace names: in a range context those of the lowest member's group (LOG 29). -/
def traceLanes (s : State) (h : Holder) (vector : Bool) (ls : List LaneAcc) : List (Nat × Nat) :=
  match h.kind with
  | .range =>
    if vector then
      let t := s.tsize h
      let key := fun (m : Nat) => (m / t, m % t / 96)
      let k0 := key ((ls.head?.map (·.lane)).getD 0)
      ((ls.take 96).filter (fun y => key y.lane == k0)).map (fun y => (laneOf t y.lane, y.ea))
    else ls.map (fun y => (y.lane, y.ea))
  | _ => ls.map (fun y => (y.lane, y.ea))

/-- What one access of a store or atomic needs before it performs. -/
def acquireLane (x : WriteSpec) (c : AccCtx) (s : State) (y : LaneAcc) (t : Target) : Coh :=
  match x.op with
  | none => s.acquireWriteT c t (leBytes x.size y.x)
  | some _ => s.acquireAtomicT c t x.o.elem

/-- One access of a store or atomic. -/
def writeLane (x : WriteSpec) (c : AccCtx) (s : State) (y : LaneAcc) (t : Target) : Perf × Nat :=
  match x.op with
  | none => (s.writeHeld c t (leBytes x.size y.x), 0)
  | some op => s.atomicPerform c t op x.o.elem y.x y.new

/-- An access that goes out (R29, R32, R38, R44): a write to a storage window is posted and waits for nothing. -/
def writeOut (x : WriteSpec) (c : AccCtx) (g q : Nat) (idx : Option Nat) (pc : Nat) (all : Lanes) (s : State) (h : Holder)
    (y : LaneAcc) (p : OutPart) : State × Holder :=
  let req := x.op.map (fun op => (⟨c.agent, op, x.o.elem, p.pa, y.x, y.new⟩ : AtomReq))
  let v := if req.isSome then y.x else field y.x (8 * p.off) (8 * p.len)
  if regionOf s p.pa = .storage then (s.sendOut g q p.pa p.len (some v) none 0, h)
  else
    s.askExt g q h { idx := idx, pa := p.pa, size := p.len, data := some v, lane := y.lane, ea := y.ea, tag := 0, pc := pc
                     order := x.o.order.code, scope := (actsIn x.o).code
                     all := all } req

/-- What performing the lanes of a store or atomic gave: it stands behind a flip or a busy line, or its run with the
first access fault. -/
inductive Wrote where
  | wait (s : State) (w : Wait)
  | ran (r : Run) (fault : Option (LaneAcc × Nat × Nat × Nat × Nat))
  deriving Repr, Inhabited

/-- Bytes of a line that a piece covers, as a 128-bit mask. -/
def lineMask (line pa n : Nat) : Nat :=
  let lo := max pa (line * 128) - line * 128
  let hi := min (pa + n) (line * 128 + 128) - line * 128
  if lo < hi then 2 ^ hi - 2 ^ lo else 0

/-- Lines of which a store's lanes together write every byte (R80). -/
def wholeLines (ts : List (LaneAcc × Target)) : List Nat :=
  let segs := ts.flatMap (fun p => match p.2 with
    | .phys segs => segs
    | .spm _ _ _ => [])
  (ts.flatMap (fun p => p.2.lines)).eraseDups.filter (fun l =>
    segs.foldl (fun m z => m ||| lineMask l z.pa z.len) 0 == 2 ^ 128 - 1)

/-- Resolve every lane, then perform them; nothing performs while a line is busy. -/
def writeRun (x : WriteSpec) (s : State) (g q : Nat) (h : Holder) (pc : Nat) (idx : Option Nat) (seq : Nat) (lanes : List LaneAcc) : Wrote :=
  let c := holderCtx s g h x.vector
  match lanes with
  | [] => .ran { s := s, h := h } none
  | first :: _ =>
    match resolveLanes c x.o.space x.size x.acc x.hostOk first lanes [] s with
    | .parked s1 => .wait s1 (s1.walkWait g)
    | .ok s1 ts fault =>
      let c1 := { c with whole := if x.op.isNone then wholeLines ts else [] }
      let r := runLanes (acquireLane x c1) (writeLane x c1) (writeOut x c1 g q idx pc (laneSet lanes)) ts { s := s1, h := h }
      match r.halt with
      | .busy => .wait r.s .lineBusy
      | _ =>
        let s2 := r.s.cover g q seq (ts.flatMap (fun p => p.2.lines))
        .ran { r with s := s2 } (match r.halt with
          | .fault y cause kind p => some (y, cause, kind, faultVal cause y.ea p, withScope p (actsIn x.o).code)
          | _ => fault.map (fun f => (f.1, f.2.1, f.2.2.1, f.2.2.2, 0)))

/-- Taster kind of a store or atomic (R146). -/
def WriteSpec.kind (x : WriteSpec) (reg : Bool) : Nat := if x.op.isSome then 2 else if reg then 5 else 1

/-- An entry whose stamps come later. -/
def State.tasterHold (s : State) (g q : Nat) (h : Holder) (i : Instr) (kind : Nat) (o : MOp) : State × Nat :=
  s.tasterPush g
    { max := 0, min := 0, sig := 0, slot := q, kind := kind, order := o.order.code, scope := (actsIn o).code
      stamped := false, dep := s.depOf g q h i, again := h.againPc }

/-- Instructions that the holder of a slot has issued (PROG, R477). -/
def State.issueCount (s : State) (g q : Nat) : Nat := AMap.getD (s.core g).dbg.prog q 0

/-- A release-buffer entry of the instruction that a holder issues. -/
def State.newRelease (s : State) (g q : Nat) (h : Holder) (scope : Scope) (kind : RelKind) (seq : Nat) (active : Lanes) : Release :=
  { slot := q, scope := scope, kind := kind, pc := h.pc, active := active, seq := seq, tag := s.nextOp
    count := s.issueCount g q + 1 }

/-- The stamps of a run enter the Taster; `cut` when it stopped at a fault. -/
def tasterRun (x : WriteSpec) (g q : Nat) (r : Run) (cut : Bool) : State :=
  if r.hi = 0 then r.s
  else
    (r.s.tasterPush g { max := r.hi, min := r.lo, sig := r.sig, slot := q, kind := x.kind false, order := x.o.order.code
                        scope := (actsIn x.o).code, sector := r.sector, dep := r.s.depOf g q r.h x.i
                        again := r.h.againPc, cut := if cut then some r.h.pc else none }).1

/-- Lanes that performed at a trapping issue. -/
def doneLanes (h : Holder) (r : Run) : Lanes :=
  if h.kind = .range then 0#96 else h.skipLanes ||| laneSet (r.done ++ r.sent)

/-- A store or an atomic without a result performs at its issue (R364, R369, R512). -/
def writeNow (x : WriteSpec) (tr : State → State) (s : State) (g q : Nat) (h : Holder) (lanes : List LaneAcc) : State :=
  match writeRun x s g q h h.pc none (s.core g).tasterSeq lanes with
  | .wait s1 w => s1.block g q h w
  | .ran r fault =>
    let s1 := tr (tasterRun x g q r fault.isSome)
    match fault with
    | none => s1.retire g q x.i (r.h.raiseFlags r.flags)
    | some (y, cause, kind, tval, p) =>
      let (ln, m) := laneFault s h y
      s1.faultNow g q (r.h.raiseFlags r.flags)
        { cause := cause, kind := kind, lane := ln, tval := tval, pc := h.pc, tpc := h.pc, done := doneLanes h r
          payload := p, member := m }

/-- Checks of a write that waits, made at its issue (R512): the lanes that pass, and the first fault. -/
def writeCheck (x : WriteSpec) (s : State) (g : Nat) (h : Holder) (lanes : List LaneAcc)
    (k : State → List LaneAcc → Option (LaneAcc × Nat × Nat × Nat) → State) (wait : State → State) : State :=
  match lanes with
  | [] => k s [] none
  | first :: _ =>
    match resolveLanes (holderCtx s g h x.vector) x.o.space x.size x.acc x.hostOk first lanes [] s with
    | .parked s1 => wait s1
    | .ok s1 ts fault => k s1 (ts.map (·.1)) fault

/-- A fault found while some lanes wait to perform: it is taken once they have. -/
def waitFault (s : State) (g q : Nat) (h : Holder) (y : LaneAcc) (cause kind tval : Nat) (done : Lanes) : State :=
  let (ln, m) := laneFault s h y
  s.faultNow g q h
    { cause := cause, kind := kind, lane := ln, tval := tval, pc := h.pc, tpc := h.pc, member := m
      done := if h.kind = .range then 0#96 else h.skipLanes ||| done }

/-- A release write enters the release buffer (R160, R161, R370). -/
def writeRelease (x : WriteSpec) (tr : State → State) (s : State) (g q : Nat) (h : Holder) (lanes : List LaneAcc) : State :=
  if 16 ≤ (s.core g).releases.length then s.block g q h .releaseFull
  else
    writeCheck x s g h lanes (wait := fun s1 => s1.block g q h (s1.walkWait g)) fun s1 ok fault =>
      let s2 := if ok.isEmpty then tr s1
        else
          let (s1', seq) := (tr s1).tasterHold g q h x.i (x.kind false) x.o
          let s2 := if fault.isSome then s1'.tasterCut g seq h.pc else s1'
          let kind := if x.op.isSome then RelKind.atomic x.i ok else RelKind.store x.i ok
          (s2.updCore g (fun c => { c with releases := c.releases ++
            [s1.newRelease g q h (actsIn x.o) kind seq (laneSet ok)] })).push
            [.releaseComplete g]
      match fault with
      | none => s2.retire g q x.i h
      | some (y, cause, kind, addr) => waitFault s2 g q h y cause kind addr (laneSet ok)

/-- Whether delay injection holds a slot's stores (R487). -/
def Core.delays (c : Core) (q : Nat) : Bool := bitN c.dbg.dbgctl 4 && bitN c.dbg.dlyinj (16 + q)

/-- A write is held back H ck (R487). -/
def writeDelay (x : WriteSpec) (tr : State → State) (s : State) (g q : Nat) (h : Holder) (lanes : List LaneAcc) : State :=
  writeCheck x s g h lanes (wait := fun s1 => s1.block g q h (s1.walkWait g)) fun s1 ok fault =>
    let s2 := if ok.isEmpty then tr s1
      else
        let (s1', seq) := (tr s1).tasterHold g q h x.i (x.kind false) x.o
        let s2 := if fault.isSome then s1'.tasterCut g seq h.pc else s1'
        s2.updCore g (fun c => { c with delayed := c.delayed ++
          [⟨q, x.i, h.pc, ok, s.clock + field c.dbg.dlyinj 0 16, seq, s.issueCount g q + 1⟩] })
    match fault with
    | none => s2.retire g q x.i h
    | some (y, cause, kind, addr) => waitFault s2 g q h y cause kind addr (laneSet ok)

/-- A store to the register aperture (R43). -/
def apertureStore (x : WriteSpec) (tr : State → State) (s : State) (g q : Nat) (h : Holder) (lanes : List LaneAcc) : State :=
  let n := x.size
  match h.kind with
  | .range => s.unfoldHere g q h
  | _ =>
    match lanes.find? (fun y => !h.apOk y.ea n) with
    | some y => s.trapHere g q h 1 0 y.ea
    | none => (tr s).retire g q x.i (lanes.foldl (fun h y => h.apWrite y.ea n y.x) h)

/-- What a write waits for, and the cuts it needs, before it forms its accesses. -/
def writeReady (x : WriteSpec) (s : State) (k : Nat → Nat → Holder → State) : Out :=
  issue x.i s fun g q h =>
    match (memWait s g q h (!x.vector && x.o.space == .glob) true).or (s.farRead g q h x.i) with
    | some w => .next (s.block g q h w)
    | none =>
      match (if teamSpace x.o.space then s.needTeam g q h else none) with
      | some s1 => .next s1
      | none => .next (k g q h)

/-- A store. -/
def store (x : WriteSpec) (s : State) : Out :=
  writeReady x s fun g q h =>
    let lanes := x.lanes s h
    if lanes.isEmpty then s.retire g q x.i h
    else
      let tr := fun (s : State) => s.traceMem g q h x.i x.o.elem.code (!x.vector) (traceLanes s h x.vector lanes)
      if x.o.space = .reg then apertureStore x tr s g q h lanes
      else if orderRel x.o.order then writeRelease x tr s g q h lanes
      else if (s.core g).delays q then writeDelay x tr s g q h lanes
      else writeNow x tr s g q h lanes

/-- `vst`. -/
def execVst (o : MOp) (s : State) : Out := store ⟨.vst o, o, true, false, none, o.elem.bytes⟩ s
/-- `vscat`. -/
def execVscat (o : MOp) (s : State) : Out := store ⟨.vscat o, o, true, true, none, o.elem.bytes⟩ s
/-- `sst`. -/
def execSst (o : MOp) (s : State) : Out := store ⟨.sst o, o, false, false, none, o.elem.bytes⟩ s

end Sys2Proof.Machine
end

