-- ==== Sys2Proof/Machine/Atomics.lean ====
section
/-! DEFINITION. Atomics (spec 14 R372-R375, 02 R44): without a result they perform at their issue like stores; with one
they are long-latency. -/

namespace Sys2Proof.Machine

/-- Whether an atomic returns nothing (R372). -/
def WriteSpec.noReturn (x : WriteSpec) : Bool := x.o.x % 2 == 1

/-- Whether a range context may perform it folded; any other atomic unfolds it (R188, R375). -/
def WriteSpec.folds (x : WriteSpec) : Bool :=
  x.noReturn && x.op != some .exch && x.op != some .cas

/-- The checks of a whole atomic before any lane performs (R364, R423): alignment, then the register aperture. -/
def atomCheck (x : WriteSpec) (lanes : List LaneAcc) : Option (Nat × Nat) :=
  let first := (lanes.head?.map (·.ea)).getD 0
  if lanes.any (fun y => y.ea % x.size != 0) then some (6, first)
  else if x.o.space = .reg then some (7, first)
  else none

/-- An atomic with a result issues (R284); one that releases waits in the release buffer (R160), one that delay
injection holds waits for its time (R487). -/
def atomLong (x : WriteSpec) (s : State) (g q : Nat) (h : Holder) (lanes : List LaneAcc) : State :=
  if orderRel x.o.order ∧ 16 ≤ (s.core g).releases.length then s.block g q h .releaseFull
  else
    let s1 := s.traceMem g q h x.i x.o.elem.code (!x.vector) (lanes.map (fun y => (y.lane, y.ea)))
    let (s2, seq) := s1.tasterHold g q h x.i 2 x.o
    let l : LongOp := { idx := 0, instr := x.i, pc := 0, active := laneSet lanes, lanes := lanes, seq := seq }
    let s3 := s2.startLong g q h l x.o.la x.o.ctr
    if orderRel x.o.order then
      (s3.updCore g (fun c => { c with releases := c.releases ++
        [{ (s.newRelease g q h (actsIn x.o) (.atomic x.i []) seq (laneSet lanes)) with idx := some h.nextIdx }] })).push
        [.releaseComplete g]
    else if (s.core g).delays q then
      s3.updCore g (fun c => { c with delayed := c.delayed ++
        [⟨q, x.i, h.pc, [], s.clock + field c.dbg.dlyinj 0 16, seq, 0⟩] })
    else s3

/-- An atomic. -/
def atomic (x : WriteSpec) (s : State) : Out :=
  writeReady x s fun g q h =>
    if !x.noReturn ∧ h.counterFull x.o.la x.o.ctr then s.block g q h (.counter (x.o.ctr + 8))
    else if h.kind = .range ∧ (x.vector → h.rangeGuard x.o.g ≠ .none) ∧ !x.folds ∧ !h.mode then s.unfoldHere g q h
    else
      let lanes := x.lanes s h
      if lanes.isEmpty then s.retire g q x.i h
      else
        match atomCheck x lanes with
        | some (cause, tval) => s.trapHere g q h cause 0 tval
        | none =>
          if !x.noReturn then atomLong x s g q h lanes
          else
            let tr := fun (s : State) => s.traceMem g q h x.i x.o.elem.code (!x.vector) (traceLanes s h x.vector lanes)
            if orderRel x.o.order then writeRelease x tr s g q h lanes
            else if (s.core g).delays q then writeDelay x tr s g q h lanes
            else writeNow x tr s g q h lanes

/-- `vatom.add`. -/
def execVatomAdd (o : MOp) (s : State) : Out := atomic ⟨.vatomAdd o, o, true, false, some .add, o.elem.bytes⟩ s
/-- `vatom.min`. -/
def execVatomMin (o : MOp) (s : State) : Out := atomic ⟨.vatomMin o, o, true, false, some .min, o.elem.bytes⟩ s
/-- `vatom.max`. -/
def execVatomMax (o : MOp) (s : State) : Out := atomic ⟨.vatomMax o, o, true, false, some .max, o.elem.bytes⟩ s
/-- `vatom.and`. -/
def execVatomAnd (o : MOp) (s : State) : Out := atomic ⟨.vatomAnd o, o, true, false, some .and, o.elem.bytes⟩ s
/-- `vatom.or`. -/
def execVatomOr (o : MOp) (s : State) : Out := atomic ⟨.vatomOr o, o, true, false, some .or, o.elem.bytes⟩ s
/-- `vatom.xor`. -/
def execVatomXor (o : MOp) (s : State) : Out := atomic ⟨.vatomXor o, o, true, false, some .xor, o.elem.bytes⟩ s
/-- `vatom.exch`. -/
def execVatomExch (o : MOp) (s : State) : Out := atomic ⟨.vatomExch o, o, true, false, some .exch, o.elem.bytes⟩ s
/-- `vatom.cas`. -/
def execVatomCas (o : MOp) (s : State) : Out := atomic ⟨.vatomCas o, o, true, false, some .cas, o.elem.bytes⟩ s
/-- `satom.add`. -/
def execSatomAdd (o : MOp) (s : State) : Out := atomic ⟨.satomAdd o, o, false, false, some .add, o.elem.bytes⟩ s
/-- `satom.min`. -/
def execSatomMin (o : MOp) (s : State) : Out := atomic ⟨.satomMin o, o, false, false, some .min, o.elem.bytes⟩ s
/-- `satom.max`. -/
def execSatomMax (o : MOp) (s : State) : Out := atomic ⟨.satomMax o, o, false, false, some .max, o.elem.bytes⟩ s
/-- `satom.and`. -/
def execSatomAnd (o : MOp) (s : State) : Out := atomic ⟨.satomAnd o, o, false, false, some .and, o.elem.bytes⟩ s
/-- `satom.or`. -/
def execSatomOr (o : MOp) (s : State) : Out := atomic ⟨.satomOr o, o, false, false, some .or, o.elem.bytes⟩ s
/-- `satom.xor`. -/
def execSatomXor (o : MOp) (s : State) : Out := atomic ⟨.satomXor o, o, false, false, some .xor, o.elem.bytes⟩ s
/-- `satom.exch`. -/
def execSatomExch (o : MOp) (s : State) : Out := atomic ⟨.satomExch o, o, false, false, some .exch, o.elem.bytes⟩ s
/-- `satom.cas`. -/
def execSatomCas (o : MOp) (s : State) : Out := atomic ⟨.satomCas o, o, false, false, some .cas, o.elem.bytes⟩ s

/-! ## Completion of an atomic with a result -/

/-- Old values enter D (R373). -/
def atomWrite (x : WriteSpec) (h : Holder) (l : LongOp) : Holder :=
  let vals := l.vals.map (fun p => (p.1, elemWords x.o.elem p.2))
  let h1 := match vals with
    | [] => h
    | (_, ws) :: _ => if x.vector then h.putLanes x.o.d vals else h.putScalars x.o.d ws
  h1.raiseFlags l.flags

/-- Whether the instruction still waits in the release buffer or behind delay injection. -/
def atomHeld (s : State) (g q : Nat) (l : LongOp) : Bool :=
  (s.core g).releases.any (fun r => r.slot == q && r.idx == some l.idx)
    || (s.core g).delayed.any (fun d => d.slot == q && d.seq == l.seq)

/-- A fault of an atomic with a result: the lanes that performed stay performed. -/
def atomFault (x : WriteSpec) (s : State) (g q : Nat) (h : Holder) (l : LongOp) (y : LaneAcc) (cause kind tval payload : Nat) :
    State :=
  if h.asking l.idx then s.putHolder g q (h.setLong l)
  else
    let dn := if h.kind = .range then 0#96 else l.vals.foldl (fun m p => m ||| laneBit p.1) 0#96
    let (ln, m) := laneFault s h y
    s.longFault g q (atomWrite x h l) { l with done := l.done ||| dn } cause kind ln tval payload m

/-- LONG_LATENCY_COMPLETE of an atomic. -/
def atomStep (x : WriteSpec) (s : State) (g q : Nat) (h : Holder) (l : LongOp) : State :=
  if atomHeld s g q l || (!l.lanes.isEmpty && h.readsBefore l.idx) then s
  else
    match l.lanes with
    | [] => if h.asking l.idx then s else s.longDone g q (atomWrite x h l) l
    | first :: _ =>
      let c := holderCtx s g h x.vector
      match resolveLanes c x.o.space x.size .atomic x.hostOk first l.lanes [] s with
      | .parked s1 => s1
      | .ok s1 ts fault =>
        let r := runLanes (acquireLane x c) (writeLane x c) (writeOut x c g q (some l.idx) l.pc 0#96) ts { s := s1, h := h }
        let l1 := { (l.stamp r) with lanes := l.rest r, vals := l.vals ++ keepVals r.vals, flags := l.flags ||| r.flags }
        let s2 := r.s.cover g q l.seq (ts.flatMap (fun p => p.2.lines))
        match r.halt with
        | .busy => s2.putHolder g q (r.h.setLong l1)
        | .fault y cause kind p => atomFault x s2 g q r.h l1 y cause kind (faultVal cause y.ea p) (withScope p (actsIn x.o).code)
        | .no =>
          match fault with
          | some (y, cause, kind, addr) => atomFault x s2 g q r.h l1 y cause kind addr 0
          | none =>
            if r.h.asking l.idx then s2.putHolder g q (r.h.setLong l1) else s2.longDone g q (atomWrite x r.h l1) l1

end Sys2Proof.Machine
end

