-- ==== Sys2Proof/Machine/Releases.lean ====
section
/-! DEFINITION. The release buffer (spec 06 R157-R163, R172), delay injection (19 R487), deferred traps (16 R512), fences
(14 R376, R377) and barrier objects (14 R378-R380, 07 R194). -/

namespace Sys2Proof.Machine

/-! ## Deferred failures (R512) -/

/-- A failure of an instruction that performed after its issue: precise when no later instruction has issued, else
deferred to a boundary. The instruction's stamps count is `count`. -/
def State.lateTrap (s : State) (g q : Nat) (pc count : Nat) (t : PendTrap) : State :=
  match s.holder? g q with
  | none => s
  | some h =>
    let late := s.issueCount g q != count || h.mode
    (s.putHolder g q { h with pend := h.pend ++ [{ t with pc := pc, tpc := pc, queued := late }] }).push [.trapEntry g q]

/-! ## Epochs closed by a release (R157) -/

/-- Die, type and index of a checker identity (R165). -/
def checkerParts (id : Nat) : Nat × Nat × Nat := (id / 2 ^ 12, id / 2 ^ 9 % 8, id % 2 ^ 9)

/-- Homes with which an L1 Cupper exchanged events in its open epoch. -/
def Checker.peers (c : Checker) : List Nat :=
  let a := c.sentCnt.map (·.1)
  a ++ (c.recvCnt.map (·.1)).filter (fun x => !a.contains x)

/-- The payload of a record-hash mismatch (R167, R168). -/
def hashPayload (checker peer clock epoch expected observed sentCnt recvCnt : Nat) (timeout : Bool) : Nat :=
  payloadWord expected observed clock checker epoch 0 4
    (peer * 2 ^ 80 + sentCnt * 2 ^ 48 + recvCnt * 2 ^ 16 + (if timeout then 2 ^ 15 else 0))

/-- A pair is quarantined: every line that the home, a slice or the snoop filter, records as held by the L1 of core g enters N
(R163). -/
def State.quarantine (s : State) (g id p : Nat) : State :=
  let a := s.l1Agent g
  let (d, ty, ix) := checkerParts id
  let own := fun (e : Nat × DirEntry) => e.2.holders.contains a && l1Core a e.1 == some g
  let lines := if ty = 6 then ((s.ctl.filter.map (fun f => (f.1, f.2.dir))).filter own).map (·.1)
    else ((s.die d).dir.filter (fun e => own e && homeSlice (e.1 * 128) == ix)).map (·.1)
  (lines.foldl (fun s l => s.enterN l p (s.ownedDirty l)) s).updDie d (fun x => { x with quarantined := AMap.set x.quarantined g p })

/-- What comparing an epoch of a core with one home gives. -/
inductive EpochCheck where
  | wait
  | ok
  | bad (checker peer expected observed sentCnt recvCnt : Nat)
  deriving Repr, Inhabited

/-- Lines of a home whose message to the L1 of core g has been sent and not yet received: what a close now finds on its way (R157). -/
def State.onWay (s : State) (g id : Nat) : List Nat :=
  let (d, _, _) := checkerParts id
  let a := s.l1Agent g
  ((s.die d).busy.filter (fun p => homeId s p.1 == id && l1Core a p.1 == some g
    && p.2.msgs.any (fun m => m.target == a) && p.2.stamps.any (fun x => x.1 == a))).map (·.1)

/-- The open epoch of core g and home checker `id` as it stands. -/
def State.epochOf (s : State) (g id : Nat) : EpochClose :=
  let me := checkerId (dieOf g) 1 (g % 32)
  let l := (s.die (dieOf g)).checker 1 (g % 32)
  let (d, ty, ix) := checkerParts id
  let k := (s.die d).checker ty ix
  let n := fun (m : AMap Nat) (i : Nat) => AMap.getD m i 0
  { core := g, home := id, sent := (n l.sentSum id, n l.sentCnt id), got := (n k.recvSum me, n k.recvCnt me)
    back := (n k.sentSum me, n k.sentCnt me), ret := (n l.recvSum id, n l.recvCnt id), epoch := AMap.getD k.epochs me 0, at_ := s.clock,
    late := s.onWay g id }

/-- Compare both directions of an epoch (R156, R157). -/
def EpochClose.check (e : EpochClose) : EpochCheck :=
  let me := checkerId (dieOf e.core) 1 (e.core % 32)
  if e.sent.2 ≠ e.got.2 ∨ e.back.2 ≠ e.ret.2 then .wait
  else if e.sent.1 ≠ e.got.1 then .bad e.home me e.sent.1 e.got.1 e.sent.2 e.got.2
  else if e.back.1 ≠ e.ret.1 then .bad me e.home e.back.1 e.ret.1 e.back.2 e.ret.2
  else .ok

/-- Both sides begin a new epoch. -/
def State.nextEpoch (s : State) (g id : Nat) : State :=
  let me := checkerId (dieOf g) 1 (g % 32)
  let (d, ty, ix) := checkerParts id
  let clr := fun (i : Nat) (c : Checker) => { c with
    sentSum := AMap.erase c.sentSum i, recvSum := AMap.erase c.recvSum i
    sentCnt := AMap.erase c.sentCnt i, recvCnt := AMap.erase c.recvCnt i, epochs := AMap.upd c.epochs i 0 (· + 1) }
  (s.updChecker (dieOf g) 1 (g % 32) (clr id)).updChecker d ty ix (clr me)

/-- A checker finds a record-hash mismatch: the state after it and the payload (R163). -/
def State.hashMismatch (s : State) (e : EpochClose) (ck peer x o sc rc : Nat) (timeout : Bool) : State × Nat :=
  let (d, ty, ix) := checkerParts ck
  let p := hashPayload ck peer ((s.die d).checker ty ix).clock e.epoch x o sc rc timeout
  ((s.storePayload d ty ix p).quarantine e.core e.home p, p)

/-- The early close of a release at `.die` or wider, with every home: the state after it and a violation's payload, or
none while messages are on their way. -/
def earlyClose (g : Nat) : List Nat → State → Option (State × Nat)
  | [], s => some (s, 0)
  | id :: rest, s =>
    match (s.epochOf g id).check with
    | .wait => none
    | .ok => earlyClose g rest (s.nextEpoch g id)
    | .bad ck peer x o sc rc =>
      let (s1, p) := s.hashMismatch (s.epochOf g id) ck peer x o sc rc false
      some (s1.nextEpoch g id, p)

/-! ## Completing a release (R159-R163) -/

/-- Lines that a release covers (R159). -/
def Release.covers (r : Release) (c : Core) : List Nat :=
  ((c.floor r.slot).covered.filter (fun p => decide (p.2.1 ≤ r.scope.code) && decide (p.2.2 < r.seq))).map (·.1)

/-- Whether the accesses that a release orders have performed, its slot's Taster entries have been checked, and the transfers of
the lines it covers have been received (R160). -/
def Release.ready (s : State) (g : Nat) (r : Release) : Bool :=
  let c := s.core g
  let h := AMap.getD c.slots r.slot {}
  h.ll.all (fun l => decide (r.seq ≤ l.seq)) && h.ext.all (fun e => decide (r.tag ≤ e.tag))
    && c.delayed.all (fun d => d.slot != r.slot || decide (r.seq ≤ d.seq))
    && !c.taster.any (fun e => e.slot == r.slot && decide (e.seq < r.seq))
    && !(r.covers c).any s.busyLine

/-- A release leaves its core's buffer. -/
def State.dropRelease (s : State) (g : Nat) (r : Release) : State :=
  s.updCore g (fun c => { c with releases := c.releases.filter (fun x => !(x.slot == r.slot && x.seq == r.seq)) })

/-- A completed release: the lines it covered are covered for releases of its scope and narrower ones. -/
def State.endRelease (s : State) (g : Nat) (r : Release) : State :=
  s.updCore g (fun c => { c with
    releases := c.releases.filter (fun x => !(x.slot == r.slot && x.seq == r.seq))
    floors := AMap.upd c.floors r.slot {} (fun f => { f with
      covered := (f.covered.map (fun p => if p.2.2 < r.seq then (p.1, max p.2.1 (r.scope.code + 1), p.2.2) else p)).filter
        (fun p => decide (p.2.1 ≤ 6)) }) })

/-- A payload as the check that stopped a release repeats it (R172). -/
def stopPayload (s : State) (g : Nat) (scope : Scope) (p : Nat) : Nat :=
  setField (setField (withScope p scope.code) 192 16 (checkerId (dieOf g) 1 (g % 32))) 208 48 (s.core g).lclock

/-- The violation that stops a release (R163): a reorder in the slot, a covered line in N, a quarantine of the core. -/
def Release.stopped (s : State) (g : Nat) (r : Release) : Option Nat :=
  let c := s.core g
  if (c.floor r.slot).contain ≠ 0 then some ((c.floor r.slot).contain)
  else
    match (r.covers c).findSome? (fun l =>
        if (s.dirOf l).st = .n then some (s.dirOf l).payload else none) with
    | some p => some p
    | none =>
      if 3 ≤ r.scope.code then
        (List.range 9).findSome? (fun d =>
          AMap.find? (s.die d).quarantined g)
      else none

/-- The check of a release write's own entry before it performs (R160): its stamp will be later than the core's clock, which its
floor must not have passed. -/
def Release.ownBad (s : State) (g : Nat) (r : Release) : Option Nat :=
  match (s.core g).taster.find? (fun e => e.seq == r.seq && (e.kind == 1 || e.kind == 2 || e.kind == 5)) with
  | none => none
  | some e =>
    let f := ((s.core g).floor r.slot).withParts (spansCores s g) e.again
    let need := (e.need f (spansCores s g e.scope)).aged (s.core g).lclock
    if serialGt need.stamp (s.core g).lclock then
      some (reorderPayload g (s.core g).lclock { e with min := clockNext (s.core g).lclock } need)
    else none

/-- A release stopped by containment: it leaves the buffer with its lines still to be covered, and its instruction traps. -/
def Release.trap (s : State) (g : Nat) (r : Release) (p : Nat) : State :=
  let s1 := s.dropRelease g r
  let t : PendTrap :=
    { cause := 10, kind := field p 104 8, tval := faultVal 10 0 p, payload := stopPayload s g r.scope p }
  let s2 := s1.tasterStamp g r.seq none
  match r.idx, s2.holder? g r.slot with
  | some idx, some h =>
    match h.long? idx with
    | some l => s2.longFault g r.slot h l 10 t.kind 127 t.tval t.payload none
    | none => s2
  | _, _ =>
    match r.kind with
    | .arrive _ _ _ _ dest =>
      let s3 := match s2.holder? g r.slot with
        | some h => s2.putHolder g r.slot { h with writers := h.writers.filter (· != dest) }
        | none => s2
      s3.lateTrap g r.slot r.pc r.count t
    | _ => s2.lateTrap g r.slot r.pc r.count t

/-- Perform the lanes of a store or atomic that waited, for a release or an expired delay. `keep` is the state while it
must go on waiting; `out` takes the entry out of its buffer. -/
def latePerform (i : Instr) (pc count seq : Nat) (lanes : List LaneAcc) (s : State) (g q : Nat) (out : State → State) : State :=
  match writeSpec i, s.holder? g q with
  | some x, some h =>
    match writeRun x s g q h pc none seq lanes with
    | .wait s1 _ => s1
    | .ran r fault =>
      let s1 := out (r.s.putHolder g q (r.h.raiseFlags r.flags))
      let s2 := s1.tasterStamp g seq (if r.hi = 0 then none else some (r.lo, r.hi, r.sig, r.sector))
      match fault with
      | none => s2
      | some (y, cause, kind, tval, p) =>
        let (ln, m) := laneFault s h y
        (s2.tasterCut g seq pc).lateTrap g q pc count
          { cause := cause, kind := kind, lane := ln, tval := tval, payload := p, member := m
            done := if h.kind = .range then 0#96 else laneSet (r.done ++ r.sent) }
  | _, _ => out s

/-- A release performs. -/
def Release.perform (s : State) (g : Nat) (r : Release) : State :=
  match r.kind with
  | .fence _ | .fencex => s.endRelease g r
  | .store i lanes => latePerform i r.pc r.count r.seq lanes s g r.slot (fun s => s.endRelease g r)
  | .atomic i lanes =>
    match r.idx with
    | some idx => (s.endRelease g r).push [.longLatencyComplete g r.slot idx]
    | none => latePerform i r.pc r.count r.seq lanes s g r.slot (fun s => s.endRelease g r)
  | .arrive home obj n drop dest =>
    ((s.endRelease g r).updCore g (fun c => { c with
      arrivals := c.arrivals ++ [⟨r.slot, home, obj, n, drop, dest, (c.floor r.slot).maxall.stamp⟩] })).push
      [.barrierArrivalCount g]

/-- A release that may complete does so, or traps; one whose epochs do not yet match waits. -/
def Release.attempt (s : State) (g : Nat) (r : Release) : State :=
  match r.stopped s g with
  | some p => r.trap s g p
  | none =>
    match r.ownBad s g with
    | some p => r.trap (s.storePayload (dieOf g) 0 (g % 32) p) g p
    | none =>
      if 3 ≤ r.scope.code then
        match earlyClose g ((s.die (dieOf g)).checker 1 (g % 32)).peers s with
        | none => s
        | some (s1, 0) => r.perform s1 g
        | some (s1, p) => r.trap s1 g p
      else r.perform s g

/-- The oldest release of each slot in turn, until one has left the buffer: releases of one slot go in order, those of different
slots are independent (R161). -/
def tryReleases (g : Nat) : List Nat → List Release → State → State
  | _, [], s => s
  | seen, r :: rs, s =>
    if seen.contains r.slot then tryReleases g seen rs s
    else if r.ready s g then
      let s1 := r.attempt s g
      if (s1.core g).releases.any (fun x => x.slot == r.slot && x.seq == r.seq) then tryReleases g (r.slot :: seen) rs s1 else s1
    else tryReleases g (r.slot :: seen) rs s

/-- RELEASE_COMPLETE: a release of a core that may complete does so, or traps. -/
def execReleaseComplete (g : Nat) (s : State) : Out := .next (tryReleases g [] (s.core g).releases s)

/-- INJECTED_DELAY_EXPIRY (R487): the oldest access whose time has come performs. -/
def execInjectedDelayExpiry (g : Nat) (s : State) : Out :=
  match (s.core g).delayed.find? (fun d => decide (d.due ≤ s.clock)) with
  | none => .next s
  | some d =>
    let out := fun (s : State) => s.updCore g (fun c => { c with
      delayed := c.delayed.filter (fun x => !(x.slot == d.slot && x.seq == d.seq)) })
    match d.lanes with
    | [] =>
      let idx := ((AMap.getD (s.core g).slots d.slot {}).ll.find? (fun l => l.seq == d.seq)).map (·.idx)
      .next ((out s).push (idx.toList.map (fun i => .longLatencyComplete g d.slot i)))
    | _ => .next (latePerform d.instr d.pc d.count d.seq d.lanes s g d.slot out)

/-! ## Fences -/

/-- A cache operation or an outside access whose end a fence waits for (R384). -/
def Holder.cacheOps (h : Holder) : Bool := h.ext.any (fun e => e.size == 0)

/-- Put a fence into the release buffer. -/
def holdFence (s : State) (g q : Nat) (h : Holder) (scope : Scope) (kind : RelKind) (order : Nat) (x : Bool) : State :=
  let (s1, seq) := s.tasterPush g
    { max := 0, min := 0, sig := 0, slot := q, kind := 3, order := order, scope := scope.code, fencex := x }
  (s1.updCore g (fun c => { c with
    releases := c.releases ++ [s.newRelease g q h scope kind seq (BitVec.allOnes 96)] })).push [.releaseComplete g]

/-- `fence` (R376). -/
def execFence (order : Order) (scope : Scope) (s : State) : Out :=
  issue (.fence order scope) s fun g q h =>
    if h.cacheOps then .next (s.block g q h .answer)
    else if orderAcq order ∧ !(h.ll.isEmpty && h.ext.isEmpty) then .next (s.block g q h .earlier)
    else if 1024 ≤ (s.core g).taster.length then .next (s.block g q h .tasterFull)
    else if orderRel order then
      if 16 ≤ (s.core g).releases.length then .next (s.block g q h .releaseFull)
      else .next ((holdFence s g q h scope (.fence order) order.code false).retire g q (.fence order scope) h)
    else
      let (s1, _) := s.tasterPush g
        { max := 0, min := 0, sig := 0, slot := q, kind := 3, order := order.code, scope := scope.code }
      .next (s1.retire g q (.fence order scope) h)

/-- `fencex` (R377): a release at the scope of the die, the narrowest that encloses every engine which a later command may name
(LOG 38; R125). -/
def execFencex (s : State) : Out :=
  issue .fencex s fun g q h =>
    if h.cacheOps then .next (s.block g q h .answer)
    else if 1024 ≤ (s.core g).taster.length then .next (s.block g q h .tasterFull)
    else if 16 ≤ (s.core g).releases.length then .next (s.block g q h .releaseFull)
    else .next ((holdFence s g q h .die .fencex 2 true).retire g q .fencex h)

/-! ## Barriers (R378-R380) -/

/-- Home core and object key of barrier b of a holder's team. -/
def State.barrierOf (s : State) (g : Nat) (h : Holder) (b : Nat) : Nat × Nat :=
  match s.teamAlloc g h.grid (h.teamOf (s.tsize h)) with
  | some (k, a) => (k, 16 * a.block + b)
  | none => (g, b)

/-- A barrier instruction acts once a holder has one team, which has its block (R191). -/
def barrierOp (i : Instr) (s : State) (f : Nat → Nat → Holder → State) : Out :=
  issue i s fun g q h =>
    match s.needTeam g q h with
    | some s1 => .next s1
    | none => .next (f g q h)

/-- `bari`. -/
def execBari (a b : Nat) (s : State) : Out :=
  barrierOp (.bari a b) s fun g q h =>
    let (k, o) := s.barrierOf g h b
    (s.updCore k (fun c => { c with
      barriers := AMap.upd c.barriers o {} (fun x =>
        { x with e := (h.readS a).toNat % 65536, arrived := 0, drop := 0, stamp := 0 }) })).retire g q (.bari a b) h

/-- Items that an arrival counts (R379). -/
def Holder.arriving (h : Holder) : Nat :=
  match h.kind with
  | .range => h.hi - h.lo
  | _ => laneCount h.mask

/-- `bara` and `barx`: the arrival waits in the release buffer (R158); D is written when it is counted. -/
def arriveAt (i : Instr) (d b : Nat) (drops : Bool) (s : State) : Out :=
  barrierOp i s fun g q h =>
    if 16 ≤ (s.core g).releases.length then s.block g q h .releaseFull
    else if 1024 ≤ (s.core g).taster.length then s.block g q h .tasterFull
    else
      let (k, o) := s.barrierOf g h b
      let n := h.arriving
      let st := ((s.core g).floor q).maxall.stamp
      let (s1, seq) := s.tasterPush g
        { max := st, min := st, sig := 0, slot := q, kind := 7, order := 2, scope := 1 }
      let s2 := s1.updCore g (fun c => { c with releases := c.releases ++
        [s.newRelease g q h .team (.arrive k o n (if drops then n else 0) d) seq h.mask] })
      (s2.push [.releaseComplete g]).retire g q i { h with writers := h.writers ++ [d] }

/-- `bara`. -/
def execBara (d b : Nat) (s : State) : Out := arriveAt (.bara d b) d b false s
/-- `barx`. -/
def execBarx (d b : Nat) (s : State) : Out := arriveAt (.barx d b) d b true s

/-- Phases that complete (R379). -/
def Barrier.turn (b : Barrier) : Nat → Barrier
  | 0 => b
  | n + 1 =>
    if 0 < b.e ∧ b.e ≤ b.arrived then
      Barrier.turn { b with
        arrived := b.arrived - b.e
        p := (b.p + 1) % 2 ^ 32
        e := b.e - b.drop
        drop := 0
        last := b.stamp
        stamp := 0 } n
    else b

/-- arrive(n, d) of R379. -/
def Barrier.arrive (b : Barrier) (n d stamp : Nat) : Barrier :=
  if b.e = 0 then b
  else
    Barrier.turn { b with
      drop := (b.drop + d) % 65536
      arrived := b.arrived + n
      stamp := serialMax b.stamp stamp } (b.arrived + n + 1)

/-- BARRIER_ARRIVAL_COUNT: the oldest arrival of a core reaches the barrier unit. -/
def execBarrierArrivalCount (g : Nat) (s : State) : Out :=
  match (s.core g).arrivals with
  | [] => .next s
  | a :: rest =>
    let b := AMap.getD (s.core a.home).barriers a.obj {}
    let s1 := s.updCore g (fun c => { c with arrivals := rest })
    let s2 := s1.updCore a.home (fun c => { c with barriers := AMap.set c.barriers a.obj (b.arrive a.n a.drop a.stamp) })
    match s2.holder? g a.slot with
    | none => .next s2
    | some h =>
      .next (s2.putHolder g a.slot { (h.writeS a.dest (BitVec.ofNat 32 b.p)) with writers := h.writers.erase a.dest })

/-- Whether a piece of a holder's team stands in the core's piece list (R194). -/
def State.teamPiece (s : State) (g : Nat) (h : Holder) : Bool :=
  let t := s.tsize h
  (s.core g).pieces.any (fun p => p.holder.grid == h.grid && (match p.holder.kind with
    | .range => decide (p.holder.lo / t ≤ h.teamOf t) && decide (h.teamOf t ≤ (p.holder.hi - 1) / t)
    | _ => p.holder.team == h.teamOf t))

/-- `barw`: a wait that completes is an acquire when the team is on a fused cluster (R158). -/
def execBarw (a b : Nat) (s : State) : Out :=
  barrierOp (.barw a b) s fun g q h =>
    let (k, o) := s.barrierOf g h b
    let x := AMap.getD (s.core k).barriers o {}
    let p := (h.readS a).toNat
    if x.past p then
      let s1 := if (s.cluster (cluOf g)).fused then s.observe g q x.last else s
      s1.retire g q (.barw a b) { h with watchdog := if h.status = .ready then h.watchdog else 0 }
    else (s.block g q h (.barrier o p)).push (if s.teamPiece g h then [.barwPieceHandoff g q] else [])

end Sys2Proof.Machine
end

