-- ==== Sys2Proof/Machine/CacheOps.lean ====
section
/-! DEFINITION. Cache operations (spec 14 R382-R384) and copy batches (R381). -/

namespace Sys2Proof.Machine

/-- The three cache operations. -/
inductive CacheOp where
  | flush | inv | clean
  deriving DecidableEq, Repr, Inhabited

/-- A line is returned to the host (R98, R99). -/
def State.returnHost (s : State) (line : Nat) : State := (s.recallOut line).evictToHost line

/-- The holder in M or O of a line gives up its dirty copy, which the memory-side copy takes (R382, cclean). -/
def State.cleanLine (s : State) (line : Nat) : State :=
  match (s.dirOf line).owner with
  | none => s
  | some a =>
    match (l1Core a line).bind (fun g => (s.core g).held line) with
    | none => s
    | some l =>
      if l.st = .m ∨ l.st = .o then
        let s1 := s.recallOne a line
        if (s1.dirOf line).st = .n then s1 else s1.homeWbD a line
      else s

/-- Effect of a cache operation on a line; whether the host must still complete it. -/
def State.cacheLine (s : State) (op : CacheOp) (a : Agent) (line : Nat) : State × Bool :=
  match op with
  | .inv => (s.evictL1 a line, false)
  | .clean =>
    if isHostLine s line then
      if AMap.has s.ctl.filter line then (s.returnHost line, true) else (s, false)
    else ((s.cleanLine line).memAccept line, false)
  | .flush =>
    if isHostLine s line then
      if AMap.has s.ctl.filter line then (s.returnHost line, true) else (s, false)
    else
      let s1 := s.recallOut line
      if (s1.dirOf line).st = .n ∨ isIntakeLine s1 line then (s1, false) else ((s1.memAccept line).dropMsc line, false)

/-- The lines a cache operation names, in ascending lanes, up to a lane that faults. -/
inductive Named where
  | ok (s : State) (lines : List Seg) (fault : Option (LaneAcc × Nat × Nat × Nat))
  | parked (s : State)
  deriving Repr, Inhabited

/-- Translate the lanes of a cache operation as loads; pages of type 2 are left out (R382). -/
def nameLines (c : AccCtx) : List LaneAcc → List Seg → State → Named
  | [], acc, s => .ok s acc.reverse none
  | x :: xs, acc, s =>
    match translatePages c .load [(x.ea, 1)] [] s with
    | .ok (.phys (z :: _)) s1 =>
      if pteType z.e.attr = 2 then nameLines c xs acc s1
      else
        match segCheck s1 c .load true z with
        | some (cause, kind) => .ok s1 acc.reverse (some (x, cause, kind, x.ea))
        | none =>
          match s1.homePoison (z.pa / 128) with
          | some k => .ok s1 acc.reverse (some (x, 11, k, x.ea))
          | none => nameLines c xs (if acc.any (fun y => y.pa / 128 == z.pa / 128) then acc else z :: acc) s1
    | .ok _ s1 => nameLines c xs acc s1
    | .fault cause kind addr s1 => .ok s1 acc.reverse (some (x, cause, kind, addr))
    | .parked s1 => .parked s1

/-- Apply a cache operation to lines; a peer's line only leaves the local L1 (R382). A host line's end is awaited by the
holder's fences. -/
def cacheLines (op : CacheOp) (g : Nat) (h : Holder) (segs : List Seg) (s : State) : State × Holder :=
  segs.foldl (fun (x : State × Holder) z =>
    let a := x.1.l1Agent g
    if regionOf x.1 z.pa = .peer then (x.1.evictL1 a (z.pa / 128), x.2)
    else
      let (s1, wait) := x.1.cacheLine op a (z.pa / 128)
      if wait then
        (s1, { x.2 with ext := x.2.ext ++
          [{ idx := none, pa := z.pa / 128 * 128, size := 0, data := none, lane := 127, ea := 0, tag := s1.nextOp, pc := h.pc }] })
      else (s1, x.2)) (s, h)

/-- A cache operation. -/
def cacheOp (op : CacheOp) (i : Instr) (o : LineOp) (s : State) : Out :=
  issue i s fun g q h =>
    let t := s.tsize h
    let go := fun (lanes : List LaneAcc) =>
      if lanes.isEmpty then s.retire g q i h
      else if !trapReady s g q { h with ext := h.ext.filter (fun e => e.size != 0) } then s.block g q h .earlier
      else
        match nameLines { (holderCtx s g h true) with vector := true } lanes [] s with
        | .parked s1 => s1.block g q h (s1.walkWait g)
        | .ok s1 segs fault =>
          if segs.any (fun z => s1.busyLine (z.pa / 128)) then s1.block g q h .lineBusy
          else
            let s2 := s1.traceMem g q h i 0 false (traceLanes s h true lanes)
            let (s3, h1) := cacheLines op g h segs s2
            match fault with
            | none => s3.retire g q i h1
            | some (y, cause, kind, addr) =>
              let (ln, m) := laneFault s h y
              s3.faultNow g q h1
                { cause := cause, kind := kind, lane := ln, tval := addr, pc := h.pc, tpc := h.pc, member := m
                  done := if h.kind = .range then 0#96
                    else h.skipLanes ||| laneSet (lanes.takeWhile (fun z => z.lane != y.lane)) }
    match h.kind with
    | .range =>
      if h.rangeGuard o.g = TruthSet.none then .next (s.retire g q i h)
      else if (match o.kind with | .vec => !h.uniformV o.b | _ => false) then .next (s.unfoldHere g q h)
      else .next (go [⟨h.lo, memEA h o.a o.b o.kind false (fun n => h.vMember t n h.lo), 0, 0⟩])
    | _ =>
      .next (go ((laneList (h.activeLanes o.g)).map (fun L =>
        ⟨L, memEA h o.a o.b o.kind false (fun n => h.vLane n L), 0, 0⟩)))

/-- `cflush`. -/
def execCflush (o : LineOp) (s : State) : Out := cacheOp .flush (.cflush o) o s
/-- `cinv`. -/
def execCinv (o : LineOp) (s : State) : Out := cacheOp .inv (.cinv o) o s
/-- `cclean`. -/
def execCclean (o : LineOp) (s : State) : Out := cacheOp .clean (.cclean o) o s

/-! ## Batches (R381) -/

/-- An instruction that acts on one group: a range context unfolds first (R188). -/
def groupOp (i : Instr) (s : State) (f : Nat → Nat → Holder → State) : Out :=
  issue i s fun g q h =>
    match h.kind with
    | .range => .next (s.unfoldHere g q h)
    | _ => .next (f g q h)

/-- `bclose`. -/
def execBclose (d : Nat) (s : State) : Out :=
  groupOp (.bclose d) s fun g q h =>
    if 256 ≤ (s.openBatches h).length then s.block g q h .batchesFull
    else
      let n := (h.batchCount + 1) % 2 ^ 32
      s.retire g q (.bclose d) { (h.writeS d (BitVec.ofNat 32 n)) with
        batchCount := n
        openBatch := []
        batches := AMap.set (h.batches.filter (fun p => !s.batchDone p.2)) n h.openBatch }

/-- `bwait`: a blocking instruction (R204). -/
def execBwait (a : Nat) (s : State) : Out :=
  groupOp (.bwait a) s fun g q h =>
    let n := (h.readS a).toNat
    if s.batchPast h n then (s.observe g q h.cmdStamp).retire g q (.bwait a) { h with watchdog := if h.status = .ready then h.watchdog else 0 }
    else s.block g q h (.batch n)

end Sys2Proof.Machine
end

