-- ==== Sys2Proof/Machine/Queues.lean ====
section
/-! DEFINITION. Work queues (spec 08 R229, R230, 14 R385, R387, R388, 05 R136) and `evwait` (14 R386). -/

namespace Sys2Proof.Machine

/-- Bytes of a work-queue record. -/
def WorkQueue.recBytes (w : WorkQueue) : Nat := 16 * 2 ^ w.record
/-- Capacity in records. -/
def WorkQueue.cap (w : WorkQueue) : Nat := 2 ^ w.size
/-- Virtual address of the record with a running number. -/
def WorkQueue.slotAt (w : WorkQueue) (n : Nat) : Nat := w.base + n % w.cap * w.recBytes
/-- Records in the queue. -/
def WorkQueue.count (w : WorkQueue) : Nat := (w.tail + 2 ^ 32 - w.head) % 2 ^ 32
/-- Work queue w. -/
def State.wq (s : State) (w : Nat) : WorkQueue := AMap.getD s.ctl.wqs w {}
/-- Change a work queue. -/
def State.updWq (s : State) (w : Nat) (f : WorkQueue → WorkQueue) : State :=
  s.updCtl (fun c => { c with wqs := AMap.upd c.wqs w {} f })

/-- The control die's own accesses under an ASID (LOG 23). -/
def ctlCtx (asid : Nat) : AccCtx :=
  { agent := .firmware, req := .ctl, core := 0, asid := asid, sup := true, grid := 0, team := 0, vector := true, engine := true }

/-- What an access of the control die gives. -/
inductive CtlAcc where
  | ok (s : State) (bs : List Byte)
  | fault (s : State) (cause kind addr : Nat)
  | wait (s : State)
  deriving Repr, Inhabited

/-- The answer of an access as one of the control die at ea. -/
def Reach.ctl (x : Reach) (ea : Nat) : CtlAcc :=
  match x with
  | .ok bs s => .ok (s.endAway 256) bs
  | .fault cause kind p s => .fault (s.endAway 256) cause kind (if cause = 10 then field p 115 45 * 128 else ea)
  | .wait s => .wait s

/-- The control die reads memory. -/
def State.ctlRead (s : State) (asid ea n : Nat) : CtlAcc :=
  match s.resolve (ctlCtx asid) .glob ea n .load true with
  | .ok t s1 => (s1.reachRead (ctlCtx asid) 256 t).ctl ea
  | .fault c k a s1 => .fault s1 c k a
  | .parked s1 => .wait s1

/-- The control die writes memory. -/
def State.ctlWrite (s : State) (asid ea : Nat) (bs : List Byte) : CtlAcc :=
  match s.resolve (ctlCtx asid) .glob ea bs.length .store true with
  | .ok t s1 => (s1.reachWrite (ctlCtx asid) 256 t bs).ctl ea
  | .fault c k a s1 => .fault s1 c k a
  | .parked s1 => .wait s1

/-- A blocked instruction of a holder ends: it is past it, and the watchdog count restarts (R205). -/
def State.wake (s : State) (g q : Nat) (i : Instr) (h : Holder) : State :=
  s.retire g q i { h with watchdog := 0 }

/-- A blocked instruction of a holder takes a trap at its address. -/
def State.wakeTrap (s : State) (g q : Nat) (h : Holder) (cause kind tval payload : Nat) : State :=
  s.faultNow g q { h with status := .ready, ev := none }
    { cause := cause, kind := kind, tval := tval, pc := h.pc, tpc := h.pc, payload := payload }

/-- The holder and slot of an arrival get their answer: D holds the status (R385). -/
def wqReply (s : State) (a : WqArrival) (status : Nat) : State :=
  match s.holder? a.core a.slot with
  | none => s
  | some h => s.wake a.core a.slot (.wqpop default) (h.writeS a.dest (BitVec.ofNat 32 status))

/-- A sleeper or a pop takes the record at Head (R230, R385). The answer is an error while a line must be waited for. -/
def wqTake (s : State) (a : WqArrival) : Except State State :=
  let w := s.wq a.w
  match s.holder? a.core a.slot with
  | none => .ok s
  | some h =>
    match s.ctlRead w.asid (w.slotAt w.head) w.recBytes with
    | .wait s1 => .error s1
    | .fault s1 c k addr => .ok (s1.wakeTrap a.core a.slot h c k addr 0)
    | .ok s1 bs =>
      let c := holderCtx s1 a.core h false
      match s1.resolve { c with vector := true } a.space a.ea bs.length .store true with
      | .parked s2 => .error s2
      | .fault cause k addr s2 => .ok (s2.wakeTrap a.core a.slot h cause k addr 0)
      | .ok t s2 =>
        let done := fun (s3 : State) (st : Option (Nat × Nat)) =>
          let s4 := match st with
            | some (lo, hi) => (s3.tasterPush a.core
                { max := hi, min := lo, sig := t.signature, slot := a.slot, kind := 1, order := 0, scope := 4
                  sector := t.sector }).1
            | none => s3
          wqReply ((s4.cover a.core a.slot (s4.core a.core).tasterSeq t.lines).updWq a.w (fun w =>
            { w with head := (w.head + 1) % 2 ^ 32 })) a 0
        match s2.writeTarget c t bs with
        | .ok _ lo hi s3 => .ok (done s3 (some (lo, hi)))
        | .poison k s3 => .ok (s3.wakeTrap a.core a.slot h 11 k a.ea 0)
        | .contain p s3 => .ok (s3.wakeTrap a.core a.slot h 10 (field p 104 8) (faultVal 10 0 p) (withScope p 4))
        | .busy s3 => .error s3
        | .ext parts _ lo hi s3 =>
          match s.holder? a.core a.slot with
          | none => .ok s3
          | some h =>
            let (s4, h1) := parts.foldl (fun y p => y.1.askExt a.core a.slot y.2
              { idx := none, pa := p.pa, size := p.len, data := some (leValue ((bs.drop p.off).take p.len)), lane := 127, ea := a.ea,
                tag := 0, pc := h.pc } none) (s3, h)
            .ok (done (s4.putHolder a.core a.slot h1) (if hi = 0 then none else some (lo, hi)))

/-- The sleepers of a queue that is disabled are woken with D = 2 (R385). -/
def wqWakeAll (s : State) (w : Nat) : State :=
  (s.wq w).sleepers.foldl (fun s a => wqReply s a 2) (s.updWq w (fun x => { x with sleepers := [] }))

/-- The oldest sleeper is woken and takes a record (R230). -/
def wqWakeOldest (s : State) (w : Nat) : State :=
  match (s.wq w).sleepers with
  | [] => s
  | a :: rest =>
    match wqTake s a with
    | .error s1 => s1
    | .ok s1 => s1.updWq w (fun x => { x with sleepers := rest })

/-- Append a record at Tail (R385, R452): the state after it, a fault of the ring, or a wait. -/
def wqAppend (s : State) (w : Nat) (rec : List Byte) : CtlAcc :=
  let x := s.wq w
  match s.ctlWrite x.asid (x.slotAt x.tail) rec with
  | .ok s1 _ => .ok (wqWakeOldest (s1.updWq w (fun y => { y with tail := (y.tail + 1) % 2 ^ 32 })) w) []
  | r => r

/-- WORK_QUEUE_UNIT_ARRIVAL (R385, R388): the oldest push or pop is applied; with none, a sleeper whose record could not be
taken before takes it. -/
def execWorkQueueUnitArrival (s : State) : Out :=
  match s.ctl.wqArrivals with
  | [] =>
    match List.find? (fun (p : Nat × WorkQueue) => p.2.enable && p.2.sleepers != [] && p.2.count != 0) s.ctl.wqs with
    | some (w, _) => .next (wqWakeOldest s w)
    | none => .next s
  | a :: rest =>
    let s0 := s.updCtl (fun c => { c with wqArrivals := rest })
    let keep := fun (s : State) => s.updCtl (fun c => { c with wqArrivals := a :: rest })
    match s.holder? a.core a.slot with
    | none => .next s0
    | some h =>
      let w := s.wq a.w
      if !w.enable ∨ w.asid ≠ h.asid then .next (wqReply s0 a 2)
      else if a.pop then
        if w.count = 0 then .next (s0.updWq a.w (fun x => { x with sleepers := x.sleepers ++ [a] }))
        else
          match wqTake s0 a with
          | .error s1 => .next (keep s1)
          | .ok s1 => .next s1
      else if w.count = w.cap then
        .next (wqReply (s0.updWq a.w (fun x => { x with refused := min (x.refused + 1) 0xFFFFFFFF })) a 1)
      else
        match wqAppend s0 a.w a.data with
        | .wait s1 => .next (keep s1)
        | .fault s1 c k addr => .next (s1.wakeTrap a.core a.slot h c k addr 0)
        | .ok s1 _ => .next (wqReply s1 a 0)

/-- What a release at a place covers is checked as for a release that waits in the buffer (R136, R163). -/
def releasePoint (s : State) (g q : Nat) (h : Holder) (scope : Scope) (k : State → State) : State :=
  let r := s.newRelease g q h scope .fencex (s.core g).tasterSeq 0#96
  if !trapReady s g q h ∨ (s.core g).taster.any (fun e => e.slot == q) then s.block g q h .earlier
  else
    match r.stopped s g with
    | some p => s.takeTrap g q h
        { cause := 10, kind := field p 104 8, tval := faultVal 10 0 p, payload := stopPayload s g scope p, pc := h.pc, tpc := h.pc }
    | none =>
      match (if 3 ≤ scope.code then earlyClose g ((s.die (dieOf g)).checker 1 (g % 32)).peers s else some (s, 0)) with
      | none => s.block g q h .earlier
      | some (s1, 0) => k (s1.endRelease g r)
      | some (s1, p) => s1.takeTrap g q h
          { cause := 10, kind := field p 104 8, tval := faultVal 10 0 p, payload := stopPayload s g scope p, pc := h.pc, tpc := h.pc }

/-- `wqpush` and `wqpop` set out for the work-queue unit; the holder waits for the reply. -/
def wqSend (s : State) (g q : Nat) (h : Holder) (a : WqArrival) : State :=
  ((s.block g q h (.workQueue a.w)).updCtl (fun c => { c with wqArrivals := c.wqArrivals ++ [a] })).push [.workQueueUnitArrival]

/-- The parts of a work-queue instruction at its issue. -/
def wqOp (i : Instr) (o : WqOp) (s : State) (f : Nat → Nat → Holder → Nat → WorkQueue → Nat → State) : Out :=
  issue i s fun g q h =>
    if 1024 ≤ (s.core g).taster.length then .next (s.block g q h .tasterFull)
    else
      match (if teamSpace o.space then s.needTeam g q h else none) with
      | some s1 => .next s1
      | none =>
        let w := (h.readS o.q).toNat % 256
        .next (f g q h w (s.wq w) (memEA h o.a o.b o.kind false (fun _ => 0)))

/-- `wqpush`. -/
def execWqpush (o : WqOp) (s : State) : Out :=
  wqOp (.wqpush o) o s fun g q h w x ea =>
    releasePoint s g q h .dev fun s0 =>
      let send := fun (s : State) (bs : List Byte) => wqSend s g q h ⟨g, q, false, w, bs, ea, o.space, o.d⟩
      if !x.enable ∨ x.asid ≠ h.asid then send s0 []
      else
        let c := { (holderCtx s0 g h false) with vector := true }
        match s0.resolve c o.space ea x.recBytes .load true with
        | .parked s1 => s1.block g q h (s1.walkWait g)
        | .fault cause k addr s1 => s1.trapHere g q h cause k addr
        | .ok t s1 =>
          match s1.readTarget c t with
          | .ok bs lo hi s2 =>
            let s3 := (s2.tasterPush g
              { max := hi, min := lo, sig := t.signature, slot := q, kind := 0, order := 0, scope := 4, sector := t.sector
                dep := s2.depOf g q h (.wqpush o) }).1
            send ((s3.cover g q (s3.core g).tasterSeq t.lines).traceMem g q h (.wqpush o) 0 true [(127, ea)]) bs
          | .poison k s2 => s2.trapHere g q h 11 k ea
          | .contain p s2 => s2.takeTrap g q h
              { cause := 10, kind := field p 104 8, tval := faultVal 10 0 p, payload := withScope p 4, pc := h.pc, tpc := h.pc }
          | .busy s2 => s2.block g q h .lineBusy
          | .ext parts bs _ _ s2 =>
            let (s3, h1) := parts.foldl (fun y p => y.1.askExt g q y.2
              { idx := none, pa := p.pa, size := p.len, data := none, lane := 127, ea := ea, tag := 0, pc := h.pc, off := p.off,
                part := leValue bs, whole := p.ro, wq := some ⟨g, q, false, w, bs, ea, o.space, o.d⟩ } none) (s2, h)
            s3.block g q h1 (.workQueue w)

/-- `wqpop`: its memory operand is translated at issue with the write permission. -/
def execWqpop (o : WqOp) (s : State) : Out :=
  wqOp (.wqpop o) o s fun g q h w x ea =>
    if !trapReady s g q h then s.block g q h .earlier
    else
      let send := fun (s : State) =>
        wqSend (s.traceMem g q h (.wqpop o) 0 true [(127, ea)]) g q h ⟨g, q, true, w, [], ea, o.space, o.d⟩
      if !x.enable ∨ x.asid ≠ h.asid then send s
      else
        match s.resolve { (holderCtx s g h false) with vector := true } o.space ea x.recBytes .store true with
        | .parked s1 => s1.block g q h (s1.walkWait g)
        | .fault cause k addr s1 => s1.trapHere g q h cause k addr
        | .ok _ s1 => send s1

/-! ## evwait (R386) -/

/-- A value read by `evwait`: the instruction ends when it differs from the comparand, or goes on waiting. -/
def evSeen (s : State) (g q : Nat) (h : Holder) (e : EvState) (v : Nat) : State :=
  if v ≠ e.comparand then s.wake g q (.evwait e.op) ({ h with ev := none }.writeW (e.op.elem == Elem.b64) e.op.d v)
  else s.putHolder g q { h with ev := some { e with last := v }, status := .blocked .event }

/-- D of `evwait` depends on its latest read. -/
def State.reads (s : State) (g q : Nat) (h : Holder) (d n : Nat) : State :=
  s.updCore g (fun c => { c with floors := AMap.upd c.floors q {} (fun f => { f with
    prov := AMap.set (AMap.set f.prov (regKey h .s d) n) (regKey h .s (d + 1)) n }) })

/-- One read of `evwait`, as a load with its order and scope. -/
def evRead (s : State) (g q : Nat) (h : Holder) (e : EvState) : State :=
  let n := e.op.elem.bytes
  let c := { (holderCtx s g h false) with vector := true }
  let h1 := { h with ev := some e, status := .blocked .event }
  if h.ext.any (fun x => x.size != 0) then s.putHolder g q h1
  else
    match s.resolve c e.op.space e.ea n .load true with
    | .parked s1 => s1.putHolder g q h1
    | .fault cause k addr s1 => s1.wakeTrap g q h cause k addr 0
    | .ok t s1 =>
      match s1.readTarget c t with
      | .ok bs lo hi s2 =>
        let (s2', n) := s2.tasterPush g
          { max := hi, min := lo, sig := t.signature, slot := q, kind := 0, order := e.op.order.code,
            scope := (scopeIn e.op.space e.op.scope).code, sector := t.sector, dep := s2.depOf g q h (.evwait e.op) }
        let s3 := s2'.reads g q h e.op.d n
        evSeen (s3.cover g q (s3.core g).tasterSeq t.lines) g q h e (leValue bs)
      | .poison k s2 => s2.wakeTrap g q h 11 k e.ea 0
      | .contain p s2 =>
        s2.wakeTrap g q h 10 (field p 104 8) (faultVal 10 0 p) (withScope p (scopeIn e.op.space e.op.scope).code)
      | .busy s2 => s2.putHolder g q h1
      | .ext parts bs _ _ s2 =>
        let (s3, h2) := parts.foldl (fun y p => y.1.askExt g q y.2
          { idx := none, pa := p.pa, size := p.len, data := none, lane := 127, ea := e.ea, tag := 0, pc := h.pc, off := p.off
            part := leValue bs, whole := p.ro } none) (s2, h1)
        s3.putHolder g q h2

/-- `evwait`. -/
def execEvwait (o : EvOp) (s : State) : Out :=
  issue (.evwait o) s fun g q h =>
    match (if h.readsBefore h.nextIdx then some .earlier
        else (memWait s g q h (o.space == .glob) false).or (s.farRead g q h (.evwait o))) with
    | some w => .next (s.block g q h w)
    | none =>
      match (if teamSpace o.space then s.needTeam g q h else none) with
      | some s1 => .next s1
      | none =>
        let ea := memEA h o.a o.b o.kind false (fun _ => 0)
        let cmp := h.readW (o.elem == .b64) o.d
        let t := (h.readS o.t).toNat
        let e : EvState :=
          { comparand := cmp, last := cmp, deadline := if t = 0 then none else some (s.clock + t), ea := ea, op := o }
        .next (evRead (s.traceMem g q h (.evwait o) o.elem.code true [(127, ea)]) g q h e)

/-- EVWAIT_REREAD. -/
def execEvwaitReread (core slot : Nat) (s : State) : Out :=
  match s.holder? core slot with
  | none => .next s
  | some h =>
    match h.ev, h.status with
    | some e, .blocked .event =>
      if 1024 ≤ (s.core core).taster.length then .next s else .next (evRead s core slot h e)
    | _, _ => .next s

/-- Accesses of a slot to peers that nobody waits for any more still count at their peer slots until they are answered (R37). -/
def State.dropAsks (s : State) (g q : Nat) (xs : List ExtAccess) : State :=
  s.updCtl (fun c => { c with orphans := c.orphans ++
    (xs.filter (fun x => regionOf s x.pa == .peer && x.failed.isNone)).map (fun x => (g, q, x.pa)) })

/-- EVWAIT_TIMEOUT: the last value read, which equals the comparand, is written. -/
def execEvwaitTimeout (core slot : Nat) (s : State) : Out :=
  match s.holder? core slot with
  | none => .next s
  | some h =>
    match h.ev, h.status with
    | some e, .blocked .event =>
      if e.deadline.any (fun d => decide (d ≤ s.clock)) then
        .next ((s.dropAsks core slot (h.ext.filter (fun x => x.pc == h.pc))).wake core slot (.evwait e.op)
          ({ h with ev := none, ext := h.ext.filter (fun x => x.pc != h.pc) }.writeW (e.op.elem == Elem.b64) e.op.d e.last))
      else .next s
    | _, _ => .next s

end Sys2Proof.Machine
end

