-- ==== Sys2Proof/Machine/Matrix.lean ====
section
/-! DEFINITION. Accumulators and the matrix engine (spec 15 R395-R405, 09 R239, R240, R247, 08 R227, R228) and the sums of
its passes (10 R263-R268). -/

namespace Sys2Proof.Machine

/-! ## Tiles and tokens (R395, R396) -/

/-- Whether a `fencex` of a slot is pending: the accesses of a later `mmul` come after it (R125). -/
def State.fencexPending (s : State) (g q : Nat) : Bool :=
  (s.core g).releases.any (fun r => r.slot == q && (match r.kind with
    | .fencex => true
    | _ => false))

/-- State and tile of a name. -/
def Holder.acc (h : Holder) (a : Nat) : AccName := AMap.getD h.accs a {}

/-- Change a tile. -/
def State.updTile (s : State) (x t : Nat) (f : Tile → Tile) : State :=
  match AMap.find? (s.cluster x).tiles t with
  | none => s
  | some tile => s.updCluster x (fun c => { c with tiles := AMap.set c.tiles t (f tile) })

/-- The tile of a number. -/
def State.tile? (s : State) (x t : Nat) : Option Tile := AMap.find? (s.cluster x).tiles t

/-- Stamp n of a tile takes the clock, the first time only (R483). -/
def Tile.stampFirst (t : Tile) (n clock : Nat) : Tile :=
  { t with stamps := if AMap.has t.stamps n then t.stamps else AMap.set t.stamps n clock }

/-- An instruction on an accumulator: a range context unfolds, then the name must be in a state (R239). `f` gets the
active lanes when there is one; with none nothing further happens (R396, R419). -/
def accOp (i : Instr) (gd : Guard) (a : Nat) (want : List Nat) (s : State) (f : Nat → Nat → Holder → Lanes → State) : Out :=
  groupOp i s fun g q h =>
    if !want.contains (h.acc a).state then s.trapHere g q h 3 0 a
    else
      let act := h.activeLanes gd
      if act = 0#96 then s.retire g q i h else f g q h act

/-- Free units of a pool, lowest first. -/
def Cluster.unitList (c : Cluster) (n : Nat) : List Nat := ((List.range 682).filter (fun u => !AMap.has c.units u)).take n

/-- `macq` binds a tile, or takes the token back from the engine. -/
def execMacq (gd : Guard) (a cols : Nat) (s : State) : Out :=
  accOp (.macq gd a cols) gd a [0, 2] s fun g q h _ =>
    let i := Instr.macq gd a cols
    let x := cluOf g
    let c := s.cluster x
    if (h.acc a).state = 0 then
      if c.freeUnits < cols + 1 then s.block g q h (.units (cols + 1))
      else
        let t := c.nextTile
        let s1 := s.updCluster x (fun c => { c with
          nextTile := t + 1
          units := (c.unitList (cols + 1)).foldl (fun m u => AMap.set m u t) c.units
          tiles := AMap.set c.tiles t
            { core := g, slot := q, name := a, cols := 16 * (cols + 1), stamps := [(0, s.clock)] } })
        s1.retire g q i { h with accs := AMap.set h.accs a ⟨1, t⟩}
    else
      let t := (h.acc a).tile
      match s.tile? x t with
      | none => s.retire g q i { h with accs := AMap.set h.accs a ⟨1, t⟩ }
      | some tile =>
        if tile.passes ≠ 0 then s.block g q h (.tile t)
        else
          let s1 := s.updTile x t (fun y => { y with flags := 0, poison := 0, payload := 0 })
          let h1 := ({ h with accs := AMap.set h.accs a ⟨1, t⟩}).raiseFlags tile.flags
          if tile.poison = 0 ∧ tile.payload = 0 then s1.retire g q i h1
          else
            let h2 := h1.advance i.size
            let cause := if tile.payload ≠ 0 then 10 else 11
            ((s1.putHolder g q { h2 with pend := h2.pend ++
              [{ cause := cause, kind := if cause = 10 then field tile.payload 104 8 else 6
                 tval := if cause = 10 then faultVal 10 0 tile.payload else tile.poison - 1
                 payload := tile.payload, pc := h.pc, tpc := h2.pc }] }).countIssue g q).push [.trapEntry g q]

/-- `mrel`. -/
def execMrel (gd : Guard) (a : Nat) (s : State) : Out :=
  accOp (.mrel gd a) gd a [1] s fun g q h _ =>
    (s.retire g q (.mrel gd a) { h with accs := AMap.set h.accs a { h.acc a with state := 2 } }).push [.passFormation (cluOf g)]

/-- `mrel.f`. -/
def execMrelF (gd : Guard) (a : Nat) (s : State) : Out :=
  accOp (.mrelF gd a) gd a [1] s fun g q h _ =>
    (s.freeTile (cluOf g) (h.acc a).tile).retire g q (.mrelF gd a) { h with accs := AMap.erase h.accs a }

/-- Key of element (m, n) of a tile. -/
def accKey (m n : Nat) : Nat := 128 * m + n

/-- `mzero`. -/
def execMzero (gd : Guard) (a : Nat) (s : State) : Out :=
  accOp (.mzero gd a) gd a [1] s fun g q h act =>
    (s.updTile (cluOf g) (h.acc a).tile (fun t =>
      { t with elems := t.elems.filter (fun p => !lane act (p.1 / 128)) })).retire g q (.mzero gd a) h

/-! ## Moves between tiles and registers (R404) -/

/-- First column of a move, none when it runs past the tile. -/
def moveCol (s : State) (g : Nat) (h : Holder) (a b logn : Nat) : Option (Nat × Tile) :=
  match s.tile? (cluOf g) (h.acc a).tile with
  | none => none
  | some t =>
    let c0 := (h.readS b).toNat % 128
    if c0 + 2 ^ logn ≤ t.cols then some (c0, t) else none

/-- `mrd`: the columns are read in program order and arrive later (R284). -/
def execMrd (gd : Guard) (la ctr d a b logn : Nat) (s : State) : Out :=
  accOp (.mrd gd la ctr d a b logn) gd a [1] s fun g q h act =>
    let i := Instr.mrd gd la ctr d a b logn
    if h.counterFull la ctr then s.block g q h (.counter (ctr + 8))
    else
      match moveCol s g h a b logn with
      | none => s.trapHere g q h 0 0 (headWord i)
      | some (c0, t) =>
        let vals := (laneList act).map (fun L =>
          (L, (List.range (2 ^ logn)).foldl (fun v j => v + AMap.getD t.elems (accKey L (c0 + j)) 0 * 2 ^ (32 * j)) 0))
        (s.updTile (cluOf g) (h.acc a).tile (fun t => t.stampFirst 4 s.clock)).startLong g q h
          { idx := 0, instr := i, pc := 0, active := act, vals := vals, seq := noEntry } la ctr

/-- Completion of `mrd`. -/
def mrdWrite (h : Holder) (l : LongOp) (d logn : Nat) : Holder :=
  h.putLanes d (l.vals.map (fun p => (p.1, (List.range (2 ^ logn)).map (fun j => field p.2 (32 * j) 32))))

/-- Put words into a row of a tile. -/
def Tile.putRow (t : Tile) (m c0 : Nat) (ws : List Nat) : Tile :=
  { t with elems := ((List.range ws.length).zip ws).foldl (fun e p =>
      if p.2 = 0 then AMap.erase e (accKey m (c0 + p.1)) else AMap.set e (accKey m (c0 + p.1)) p.2) t.elems }

/-- `mwr`. -/
def execMwr (gd : Guard) (a v b logn : Nat) (s : State) : Out :=
  accOp (.mwr gd a v b logn) gd a [1] s fun g q h act =>
    let i := Instr.mwr gd a v b logn
    match moveCol s g h a b logn with
    | none => s.trapHere g q h 0 0 (headWord i)
    | some (c0, _) =>
      (s.updTile (cluOf g) (h.acc a).tile (fun t => (laneList act).foldl (fun t L =>
        t.putRow L c0 ((List.range (2 ^ logn)).map (fun j => h.vLane (v + j) L))) t)).retire g q i h

/-! ## Format blocks and mmul at its issue (R247, R397-R401) -/

/-- Bytes of a format code (R245). -/
def fmtBytes (c : Nat) : Nat :=
  if c < 2 ∨ c = 6 ∨ c = 7 then 1 else if c = 2 ∨ c = 3 ∨ c = 8 ∨ c = 9 then 2
  else if c = 4 ∨ c = 10 ∨ c = 11 then 4 else 8

/-- Floating-point format of a code. -/
def fmtFloat : Nat → Option Fmt
  | 0 => some .e4m3 | 1 => some .e5m2 | 2 => some .f16 | 3 => some .bf16 | 4 => some .f32 | 5 => some .f64
  | _ => none

/-- A format of a block. -/
def fbA (fb : Nat) : Nat := field fb 140 4
/-- B format. -/
def fbB (fb : Nat) : Nat := field fb 136 4
/-- A block. -/
def fbABlock (fb : Nat) : Nat := field fb 134 2
/-- B block. -/
def fbBBlock (fb : Nat) : Nat := field fb 132 2

/-- Whether a shape register holds a format block that `mmul` accepts. -/
def fbOk (h : Nat) : Bool :=
  let a := fbA h
  let b := fbB h
  field h 256 256 == 0 && field h 0 128 == 0
    && ((decide (a < 2) && decide (b < 2)) || (a == b && (a == 2 || a == 3 || a == 4))
      || ((a == 6 || a == 7) && (b == 6 || b == 7)))
    && decide (fbABlock h ≤ 1) && decide (fbBBlock h ≤ 1) && decide (field h 130 2 ≤ 1) && decide (field h 128 2 ≤ 1)
    && (fbABlock h == 0 || (decide (a < 2) && field h 200 56 % 4 == 0))
    && (fbBBlock h == 0 || (decide (b < 2) && field h 144 56 % 4 == 0))

/-- The octets of a lane set. -/
def octets (m : Lanes) : List Nat := (List.range 12).filter (fun k => (List.range 8).any (fun j => lane m (8 * k + j)))

/-- What one operand piece of `mmul` gives. -/
inductive Piece4 where
  | ok (s : State) (segs : List (Nat × Nat × Nat)) (spm : Option (Nat × Nat))
  | fault (cause kind tval : Nat) (s : State)
  | parked (s : State)
  deriving Repr, Inhabited

/-- Translate an operand for the engine with the read permission: pieces of memory, or bytes of a scratchpad. -/
def operandAt (s : State) (g : Nat) (h : Holder) (sp : Nat) (ea n : Nat) : Piece4 :=
  let c := { (holderCtx s g h true) with agent := .matrix (cluOf g), vector := true, engine := true }
  match s.resolve c (if sp = 1 then .team else .glob) ea n .load true with
  | .ok (.phys segs) s1 =>
    .ok s1 (segs.map (fun z => (z.pa, z.len, z.e.attr))) none
  | .ok (.spm k off _) s1 => .ok s1 [] (some (k, off))
  | .fault cause k a s1 => .fault cause k a s1
  | .parked s1 => .parked s1

/-- An octet with its key and its operands' places. -/
structure Octet where
  k : Nat
  b : Nat
  i : Nat
  bsegs : List (Nat × Nat × Nat)
  ssegs : List (Nat × Nat × Nat)
  sspm : Option (Nat × Nat)
  deriving Repr, Inhabited

/-- What the checks of `mmul` answer. -/
inductive MmulCheck (α : Type) where
  | ok (s : State) (x : α)
  | bad
  | fault (cause kind tval lane : Nat) (s : State)
  | parked (s : State)
  | busy
  deriving Repr, Inhabited

/-- Check and translate the octets in ascending order (R399, R400). -/
def checkOctets (g : Nat) (h : Holder) (act : Lanes) (fb c e : Nat) : List Nat → List Octet → State → MmulCheck (List Octet)
  | [], acc, s => .ok s acc.reverse
  | k :: ks, acc, s =>
    let b := h.vWide true c (8 * k)
    let i := if fbBBlock fb = 1 then h.vLane e (8 * k) else 0
    let ln := (((List.range 8).map (· + 8 * k)).find? (lane act)).getD (8 * k)
    if 2 ^ 56 ≤ b then .fault 4 1 b ln s
    else if b % 128 ≠ 0 then .bad
    else
      match operandAt s g h 0 b (16384 * fmtBytes (fbB fb)) with
      | .fault cause kind a s1 => .fault cause kind a ln s1
      | .parked s1 => .parked s1
      | .ok s1 bs _ =>
        if fbBBlock fb = 1 then
          match operandAt s1 g h (field fb 128 2) (field fb 144 56 + 4 * i) 4 with
          | .fault cause kind a s2 => .fault cause kind a ln s2
          | .parked s2 => .parked s2
          | .ok s2 ss sp => checkOctets g h act fb c e ks (⟨k, b, i, bs, ss, sp⟩ :: acc) s2
        else checkOctets g h act fb c e ks (⟨k, b, i, bs, [], none⟩ :: acc) s1

/-- Row m of A as its logical bytes: chunk j stands at chunk (j + ρ m) mod nch (R397, R398). -/
def unrotate (rho m : Nat) (bs : List Byte) : List Byte :=
  let n := bs.length / 16
  (List.range n).flatMap (fun j => (bs.drop (16 * ((j + rho * m) % n))).take 16)

/-- Rows of A and A scales of the active lanes, read in ascending order; a scale that a peer or the host holds is owed. -/
structure Rows where
  s : State
  rows : AMap Nat := []
  scales : AMap Nat := []
  owed : List (Nat × Nat) := []
  lo : Nat := 0
  hi : Nat := 0
  deriving Repr, Inhabited

/-- Read the rows (R397, R400, R401). -/
def readRows (g : Nat) (h : Holder) (fb off lay : Nat) : List Nat → Rows → MmulCheck Rows
  | [], r => .ok r.s r
  | m :: ms, r =>
    let n := 128 * fmtBytes (fbA fb)
    let ea := off + m / 8 * field lay 12 16 + m % 8 * field lay 0 12
    let c := { (holderCtx r.s g h true) with vector := true }
    match r.s.resolve c .team ea n .load true with
    | .fault cause kind _ s1 => .fault cause kind ea m s1
    | .parked s1 => .parked s1
    | .ok t s1 =>
      match s1.readTarget c t with
      | .ok bs lo hi s2 =>
        let row := leValue (unrotate (field lay 28 4) m bs)
        let r1 := { r with s := s2, rows := AMap.set r.rows m row, lo := if r.hi = 0 then lo else r.lo, hi := hi }
        if fbABlock fb = 1 then
          let sa := field fb 200 56 + 4 * m
          match s2.resolve c (if field fb 130 2 = 1 then .team else .glob) sa 4 .load true with
          | .fault cause kind a s3 => .fault cause kind a m s3
          | .parked s3 => .parked s3
          | .ok t2 s3 =>
            match s3.readTarget c t2 with
            | .ok v _ hi2 s4 => readRows g h fb off lay ms { r1 with s := s4, scales := AMap.set r1.scales m (leValue v), hi := serialMax r1.hi hi2 }
            | .poison k s4 => .fault 11 k sa m s4
            | .contain p s4 => .fault 10 p sa m s4
            | .busy s4 => .parked s4
            | .ext parts _ _ _ s4 =>
              readRows g h fb off lay ms { r1 with s := s4, owed := r1.owed ++ parts.map (fun p => (m, p.pa)) }
        else readRows g h fb off lay ms r1
      | _ => .busy

/-- The distinct keys of octets, in order of their first octet. -/
def octetKeys (os : List Octet) : List Octet :=
  os.foldl (fun acc o => if acc.any (fun x => x.b == o.b && x.i == o.i) then acc else acc ++ [o]) []

/-- The lanes of an octet. -/
def octetLanes (k : Nat) : Lanes := laneRange (8 * k) (8 * k + 8)

/-- Enter the entries of an `mmul` into the table (R227). -/
def enterEntries (s : State) (g q : Nat) (h : Holder) (act : Lanes) (t fb : Nat) (z : Bool) (os : List Octet) (r : Rows) : State :=
  (octetKeys os).foldl (fun s o =>
    let rows := act &&& (os.filter (fun x => x.b == o.b && x.i == o.i)).foldl (fun m x => m ||| octetLanes x.k) 0#96
    (s.updCluster (cluOf g) (fun (c : Cluster) =>
      let e : MatEntry := {
        id := c.nextEntry, core := g, slot := q, grid := h.grid, team := h.team, tile := t, asid := h.asid, b := o.b,
        i := o.i, fb := field fb 0 256, prio := h.prio, born := s.clock, rows := rows, bsegs := o.bsegs, ssegs := o.ssegs,
        sspm := o.sspm, aRows := r.rows.filter (fun p => lane rows p.1), aScales := r.scales.filter (fun p => lane rows p.1),
        todo := r.owed.filter (fun p => lane rows p.1), zero := z }
      { c with
        nextEntry := c.nextEntry + 1
        table := c.table ++ [e]
        tiles := match AMap.find? c.tiles t with
          | some tile => AMap.set c.tiles t ({ tile with passes := tile.passes + 1 }.stampFirst 1 s.clock)
          | none => c.tiles })).push [.aStagingComplete (cluOf g) (s.cluster (cluOf g)).nextEntry]) s

/-- `mmul`. -/
def execMmul (gd : Guard) (a sa sb c e f : Nat) (z : Bool) (s : State) : Out :=
  let i := Instr.mmul gd a sa sb c e f z
  groupOp i s fun g q h =>
    let act := h.activeLanes gd
    let off := (h.readS sa).toNat
    let lay := (h.readS sb).toNat
    let fb := AMap.getD h.shapes f 0
    let illegal := off ≥ 2 ^ 20 ∨ off % 16 ≠ 0 ∨ field lay 0 12 % 16 ≠ 0 ∨ field lay 12 16 % 16 ≠ 0 ∨ !fbOk fb
    if act ≠ 0#96 ∧ illegal then s.trapHere g q h 0 0 (headWord i)
    else if (h.acc a).state ≠ 2 then s.trapHere g q h 3 0 a
    else if act = 0#96 then s.retire g q i h
    else
      match s.needTeam g q h with
      | some s1 => s1
      | none =>
        if 1024 ≤ (s.core g).taster.length then s.block g q h .tasterFull
        else if s.fencexPending g q then s.block g q h .earlier
        else
          let trap := fun (s : State) (cause kind tval lane p : Nat) => s.takeTrap g q h
            { cause := cause, kind := kind, tval := tval, lane := lane, payload := p, pc := h.pc, tpc := h.pc }
          match checkOctets g h act fb c e (octets act) [] s with
          | .bad => s.trapHere g q h 0 0 (headWord i)
          | .fault cause kind tval ln s1 => trap s1 cause kind tval ln 0
          | .parked s1 => s1.block g q h (s1.walkWait g)
          | .busy => s.block g q h .lineBusy
          | .ok s1 os =>
            let n := (octetKeys os).length
            if 64 < (s1.cluster (cluOf g)).table.length + n then s1.block g q h (.table n)
            else
              match readRows g h fb off lay (laneList act) { s := s1 } with
              | .bad => s.trapHere g q h 0 0 (headWord i)
              | .fault 10 p _ ln s2 => trap s2 10 (field p 104 8) (faultVal 10 0 p) ln (withScope p 1)
              | .fault cause kind tval ln s2 => trap s2 cause kind tval ln 0
              | .parked s2 => s2.block g q h (s2.walkWait g)
              | .busy => s1.block g q h .lineBusy
              | .ok s2 r =>
                let s3 := (s2.tasterPush g
                  { max := r.hi, min := r.lo, sig := 0, slot := q, kind := 0, order := 0, scope := 1 }).1
                (enterEntries s3 g q h act (h.acc a).tile fb z os r).retire g q i h

/-! ## The sums of a pass (R263-R268) -/

/-- Elements of a row or column from its little-endian value. -/
def fmtValue (code x : Nat) : Val :=
  match fmtFloat code with
  | some f => f.decode x
  | none => .fin false 0 0

/-- Exact products with what R267 says of them: the finite non-zero products as sign, magnitude and exponent, the signs
of infinite ones, a NaN, an invalid one. -/
structure Prods where
  fin : List (Bool × Nat × Int) := []
  inf : List Bool := []
  nan : Bool := false
  invalid : Bool := false
  deriving Repr, Inhabited

/-- The products of two lists. -/
def products : List Val → List Val → Prods → Prods
  | x :: xs, y :: ys, p =>
    products xs ys
      (if x.isNan || y.isNan then { p with nan := true, invalid := p.invalid || x.snan || y.snan }
       else
        match mulVals x y with
        | none => { p with nan := true, invalid := true }
        | some (.inf n) => { p with inf := if p.inf.contains n then p.inf else n :: p.inf }
        | some (.fin n m e) => if m = 0 then p else { p with fin := (n, m, e) :: p.fin }
        | some (.nan _) => { p with nan := true })
  | _, _, p => p

/-- The exact sum of finite products as an integer multiple of 2^e. -/
def sumAt (e : Int) (ps : List (Bool × Nat × Int)) : Int :=
  ps.foldl (fun t p =>
    let m : Int := if e ≤ p.2.2 then (p.2.1 : Int) * 2 ^ (p.2.2 - e).toNat else ((p.2.1 / 2 ^ (e - p.2.2).toNat : Nat) : Int)
    t + (if p.1 then -m else m)) 0

/-- The value v of R264 with its flags: the exact sum times the scale product. -/
def fp8Value (p : Prods) (sa sb : Nat) : Nat × Nat :=
  let nan := Fmt.f32.cnan
  if p.nan ∨ 1 < p.inf.length then (nan, if p.invalid ∨ 1 < p.inf.length then fInvalid else 0)
  else
    let a := Fmt.f32.decode sa
    let b := Fmt.f32.decode sb
    if a.isNan || b.isNan then (nan, if a.snan || b.snan then fInvalid else 0)
    else
      let e : Int := -32
      let sum := sumAt e p.fin
      match mulVals a b with
      | none => (nan, fInvalid)
      | some (.nan _) => (nan, fInvalid)
      | some (.inf n) =>
        match p.inf with
        | j :: _ => (Fmt.f32.infOrMax (j != n), 0)
        | [] => if sum = 0 then (nan, fInvalid) else (Fmt.f32.infOrMax (decide (sum < 0) != n), 0)
      | some (.fin n m ex) =>
        match p.inf with
        | j :: _ => if m = 0 then (nan, fInvalid) else (Fmt.f32.infOrMax (j != n), 0)
        | [] =>
          if sum = 0 ∨ m = 0 then (0, 0)
          else Fmt.f32.round .rn (decide (sum < 0) != n) (sum.natAbs * m) (e + ex) false

/-- The value c of a chunk (R265) with its flags. -/
def chunkValue (p : Prods) : Nat × Nat :=
  if p.nan ∨ 1 < p.inf.length then (Fmt.f32.cnan, if p.invalid ∨ 1 < p.inf.length then fInvalid else 0)
  else
    match p.inf with
    | j :: _ => (Fmt.f32.infOrMax j, 0)
    | [] =>
      match p.fin with
      | [] => (0, 0)
      | (n, m, e) :: rest =>
        let top := rest.foldl (fun t x => max t ((Nat.log2 x.2.1 : Int) + x.2.2)) ((Nat.log2 m : Int) + e)
        let c := sumAt (top - 64) ((n, m, e) :: rest)
        if c = 0 then (0, 0) else Fmt.f32.round .rn (decide (c < 0)) c.natAbs (top - 64) false

/-- Add v to an accumulator element (R258, R267). -/
def accAdd (acc : Nat) (v : Nat × Nat) : Nat × Nat :=
  let r := fpAdd .f32 .rn acc v.1
  (r.1, v.2 ||| r.2)

/-- The chunks of a k-block in ascending k (R265). -/
def chunkSums (size : Nat) (as bs : List Val) : List Nat → Nat × Nat → Nat × Nat
  | [], acc => acc
  | j :: js, acc =>
    let p := products ((as.drop (size * j)).take size) ((bs.drop (size * j)).take size) {}
    let r := accAdd acc.1 (chunkValue p)
    chunkSums size as bs js (r.1, acc.2 ||| r.2)

/-- Signed or unsigned value of an 8-bit integer element (R266). -/
def intElem (code x : Nat) : Int := if code = 6 then sextI x 8 else (x % 256 : Nat)

/-- One element of a pass: its new value and flags (R264-R266). `a` and `b` are the little-endian row and column. -/
def passElem (fb acc a sa : Nat) (b : Nat → Nat) (sb : Nat) : Nat × Nat :=
  let ca := fbA fb
  let cb := fbB fb
  let wa := 8 * fmtBytes ca
  if ca = 6 ∨ ca = 7 then
    (wrapI ((List.range 128).foldl (fun t k => t + intElem ca (field a (wa * k) wa) * intElem cb (b k)) (acc : Int)) 32, 0)
  else
    let as := (List.range 128).map (fun k => fmtValue ca (field a (wa * k) wa))
    let bs := (List.range 128).map (fun k => fmtValue cb (b k))
    if ca < 2 then accAdd acc (fp8Value (products as bs {}) sa sb)
    else if ca = 4 then chunkSums 16 as bs (List.range 8) (acc, 0)
    else chunkSums 32 as bs (List.range 4) (acc, 0)

/-- An entry's rows over a pass's B tile (R400): the tile after it. -/
def computeEntry (e : MatEntry) (got : List Byte) (t : Tile) : Tile :=
  let w := fmtBytes (fbB e.fb)
  let tileLen := 16384 * w
  let bv := leValue (got.take tileLen)
  let sb := if fbBBlock e.fb = 1 then leValue (got.drop tileLen) else 0x3F800000
  (laneList e.rows).foldl (fun t m =>
    let sa := if fbABlock e.fb = 1 then AMap.getD e.aScales m 0 else 0x3F800000
    let row := AMap.getD e.aRows m 0
    (List.range t.cols).foldl (fun t n =>
      let old := if e.zero then 0 else AMap.getD t.elems (accKey m n) 0
      let r := passElem e.fb old row sa (fun k => field bv (8 * w * (128 * k + n)) (8 * w)) sb
      { t with
        flags := t.flags ||| r.2
        elems := if r.1 = 0 then AMap.erase t.elems (accKey m n) else AMap.set t.elems (accKey m n) r.1 }) t) t

/-- The rows of an entry of a poisoned pass (R403). -/
def poisonEntry (e : MatEntry) (poison payload : Nat) (t : Tile) : Tile :=
  let t1 := (laneList e.rows).foldl (fun t m => t.putRow m 0 (List.replicate t.cols 0x7FC00000)) t
  { t1 with
    poison := if t.poison = 0 then poison else t.poison
    payload := if t.payload = 0 then payload else t.payload }

/-! ## The engine's steps (R228, R401-R403) -/

/-- Identity of an engine as the party that waits for a peer's reply: copy engines from 256, collective engines from
320, matrix engines from 336 (LOG 30). -/
def matrixUnit (x : Nat) : Nat := 336 + x

/-- A_STAGING_COMPLETE: the rows are in the entry; a scale that a peer or the host holds is asked for first. -/
def execAStagingComplete (clu entry : Nat) (s : State) : Out :=
  match (s.cluster clu).table.find? (fun e => e.id == entry) with
  | none => .next s
  | some e =>
    if e.staged then .next s
    else
      let put := fun (s : State) (e1 : MatEntry) => s.updCluster clu (fun c =>
        { c with table := c.table.map (fun y => if y.id = e1.id then e1 else y) })
      match e.todo with
      | [] => .next ((put s { e with staged := true }).push [.passFormation clu])
      | (m, pa) :: _ =>
        if AMap.has e.aScales (1000 + m) then .next s
        else .next (engineAsk (put s { e with aScales := AMap.set e.aScales (1000 + m) 0 }) (.matrix clu) (matrixUnit clu) (entry % 65536) pa (.read 4))

/-- Entries already in a pass. -/
def Cluster.inPass (c : Cluster) : List Nat := (c.fetch.map (·.entries)).getD [] ++ (c.array.map (·.entries)).getD []

/-- Whether an entry is ready (R228). -/
def MatEntry.ready (c : Cluster) (s : State) (e : MatEntry) : Bool :=
  e.staged && !c.inPass.contains e.id
    && !((c.table.takeWhile (fun y => y.id != e.id)).any (fun y => y.tile == e.tile && !c.inPass.contains y.id))
    && (match AMap.find? (s.core e.core).slots e.slot with
      | some h => h.accs.all (fun p => p.2.tile != e.tile || p.2.state != 1)
      | none => true)

/-- Rows an entry takes of a pass: 8 for each octet (R227). -/
def MatEntry.span (e : MatEntry) : Nat := 8 * (octets e.rows).length

/-- The entries of the next pass: select_pass of R228. -/
def selectPass (s : State) (c : Cluster) : List MatEntry :=
  let r := c.table.filter (fun e => e.ready c s)
  match r with
  | [] => []
  | e0 :: _ =>
    let lead := match r.find? (fun e => decide (4096 ≤ s.clock - e.born)) with
      | some e => e
      | none => r.foldl (fun best e => if best.prio < e.prio then e else best) e0
    (r.foldl (fun (x : List MatEntry × Nat) e =>
      if e.id ≠ lead.id ∧ e.asid = lead.asid ∧ e.b = lead.b ∧ e.i = lead.i ∧ e.fb = lead.fb ∧ x.2 + e.span ≤ 96 then
        (x.1 ++ [e], x.2 + e.span)
      else x) ([lead], lead.span)).1

/-- PASS_FORMATION: the fetch stage takes a pass. -/
def execPassFormation (clu : Nat) (s : State) : Out :=
  let c := s.cluster clu
  if c.fetch.isSome ∨ s.dieHalted (clu / 8) then .next s
  else
    match selectPass s c with
    | [] => .next s
    | lead :: rest =>
      let es := lead :: rest
      let bad := es.find? (fun e => e.poison != 0)
      let p : Pass := { entries := es.map (·.id), todo := lead.bsegs ++ lead.ssegs
                        poison := (bad.map (·.poison)).getD 0
                        payload := ((es.find? (fun e => e.payload != 0)).map (·.payload)).getD 0 }
      .next ((s.updCluster clu (fun c => { c with
        fetch := some p
        tiles := c.tiles.map (fun t => (t.1, if es.any (fun e => e.tile == t.1) then
          { (t.2.stampFirst 2 s.clock) with count := t.2.count + 1 } else t.2)) })).push [.bFetchComplete clu])

/-- The Taster records the start of the entries of a pass (R146, R401). -/
def startEntries (s : State) (es : List MatEntry) (lo hi : Nat) : State :=
  es.foldl (fun s e => (s.tasterPush e.core
    { max := hi, min := lo, sig := 0, slot := e.slot, kind := 6, order := 0, scope := 2 }).1) s

/-- What reading the pieces of a pass gives. -/
inductive Fetch3 where
  | ok (s : State) (p : Pass)
  | wait (s : State) (p : Pass)
  deriving Repr, Inhabited

/-- Read the pieces of the B tile and B scale as engine reads (R402, R403). -/
def fetchPieces (clu : Nat) (es : List MatEntry) : List (Nat × Nat × Nat) → Pass → State → Fetch3
  | [], p, s => .ok s { p with todo := [] }
  | (pa, n, attr) :: rest, p, s =>
    if p.asked then .wait s p
    else
      let c : AccCtx :=
        { agent := .matrix clu, req := .clu clu, core := 4 * clu, asid := 0, sup := false, grid := 0, team := 0
          vector := true, engine := true }
      let z : Seg := ⟨pa, n, { asid := 0, va := 0, size := 0, pa := 0, attr := attr }⟩
      match s.readTarget c (.phys [z]) with
      | .ok bs lo hi s1 =>
        let s2 := if p.started then s1 else startEntries s1 es lo hi
        fetchPieces clu es rest { p with got := p.got ++ bs, started := true, todo := rest } s2
      | .poison _ s1 =>
        fetchPieces clu es rest { p with
          got := p.got ++ List.replicate n 0#8, poison := if p.poison = 0 then pa + 1 else p.poison, todo := rest } s1
      | .contain w s1 =>
        fetchPieces clu es rest { p with
          got := p.got ++ List.replicate n 0#8, payload := if p.payload = 0 then w else p.payload, todo := rest } s1
      | .busy s1 => .wait s1 { p with todo := (pa, n, attr) :: rest }
      | .ext _ _ _ _ s1 =>
        .wait (engineAsk s1 (.matrix clu) (matrixUnit clu) 65535 pa (.read n)) { p with todo := (pa, n, attr) :: rest, asked := true }

/-- B_FETCH_COMPLETE: what can be read of the pass's B tile is read; whole, it enters the array when that is free. -/
def execBFetchComplete (clu : Nat) (s : State) : Out :=
  let c := s.cluster clu
  match c.fetch with
  | none => .next s
  | some p =>
    let es := c.table.filter (fun e => p.entries.contains e.id)
    match fetchPieces clu es p.todo p s with
    | .wait s1 p1 => .next (s1.updCluster clu (fun c => { c with fetch := some p1 }))
    | .ok s1 p1 =>
      if c.array.isSome then .next (s1.updCluster clu (fun c => { c with fetch := some p1 }))
      else
        let scale := match es.head?.bind (·.sspm) with
          | some (k, off) => Memory.readBytes (s1.core k).spm off 4
          | none => []
        .next ((s1.updCluster clu (fun c => { c with
          fetch := none, array := some { p1 with got := p1.got ++ scale } })).push [.passLeavesArray clu, .passFormation clu])

/-- PASS_LEAVES_ARRAY: the pass has computed; its entries leave the table. -/
def execPassLeavesArray (clu : Nat) (s : State) : Out :=
  let c := s.cluster clu
  match c.array with
  | none => .next s
  | some p =>
    let es := c.table.filter (fun e => p.entries.contains e.id)
    let s1 := es.foldl (fun s e => s.updTile clu e.tile (fun t =>
      let t1 := if p.poison ≠ 0 ∨ p.payload ≠ 0 then poisonEntry e p.poison p.payload t else computeEntry e p.got t
      { t1 with passes := t1.passes - 1, stamps := AMap.set t1.stamps 3 s.clock })) s
    let s2 := s1.updCluster clu (fun c => { c with
      array := none, table := c.table.filter (fun e => !p.entries.contains e.id) })
    let gone := ((s2.cluster clu).tiles.filter (fun t => t.2.orphan && t.2.passes == 0)).map (·.1)
    .next ((gone.foldl (fun s t => s.freeTile clu t) s2).push [.bFetchComplete clu, .passFormation clu])

/-! ## Rows between memory and tiles (R405), shape registers (R406) -/

/-- The accesses of `mld` and `mst`: one row a lane. -/
def rowLanes (h : Holder) (a b : Nat) (act : Lanes) : List LaneAcc :=
  (laneList act).map (fun L => { lane := L, ea := wrapI ((h.readS64 a).toNat + (L : Int) * sextI (h.readS b).toNat 32) 64 })

/-- A memory operand record of a block transfer. -/
def blockOp (space : Space) (scope : Scope) : MOp :=
  { g := ⟨false, 0⟩, la := 0, ctr := 0, x := 0, d := 0, a := 0, b := 0, elem := .b128, space := space, scope := scope
    order := .rlx, kind := .non }

/-- Issue of `mld` and `hld`, whose accesses are formed. -/
def blockLoad (i : Instr) (space : Space) (scope : Scope) (la ctr : Nat) (s : State) (g q : Nat) (h : Holder) (act : Lanes)
    (lanes : List LaneAcc) : State :=
  match (memWait s g q h false false).or (s.farRead g q h i) with
  | some w => s.block g q h w
  | none =>
    if h.counterFull la ctr then s.block g q h (.counter (ctr + 8))
    else
      match (if teamSpace space then s.needTeam g q h else none) with
      | some s1 => s1
      | none =>
        let (s1, seq) := s.tasterHold g q h i 0 (blockOp space scope)
        s1.startLong g q h { idx := 0, instr := i, pc := 0, active := act, lanes := lanes, seq := seq } la ctr

/-- `mld`; the tile is the one bound at issue. -/
def execMld (gd : Guard) (la ctr a b p : Nat) (space : Space) (scope : Scope) (s : State) : Out :=
  accOp (.mld gd la ctr a b p space scope) gd a [1] s fun g q h act =>
    blockLoad (.mld gd la ctr a b p space scope) space scope la ctr s g q h act
      ((rowLanes h b p act).map (fun y => { y with x := (h.acc a).tile }))

/-- `hld`. -/
def execHld (la ctr d a : Nat) (space : Space) (s : State) : Out :=
  issue (.hld la ctr d a space) s fun g q h =>
    .next (blockLoad (.hld la ctr d a space) space .grp la ctr s g q h 0#96 [{ lane := 127, ea := (h.readS64 a).toNat }])

/-- The effect of the rows or the record that have arrived. -/
def blockWrite (s : State) (g : Nat) (h : Holder) (l : LongOp) : State × Holder :=
  match l.instr with
  | .mld _ _ _ a _ _ _ _ =>
    let tile := ((l.lanes.head?.map (·.x)).getD (h.acc a).tile)
    (l.vals.foldl (fun s p => s.updTile (cluOf g) tile (fun t =>
      t.putRow p.1 0 ((List.range t.cols).map (fun j => field p.2 (32 * j) 32)))) s, h)
  | .hld _ _ d _ _ =>
    match l.vals with
    | (_, v) :: _ => (s, { h with shapes := AMap.set h.shapes d v })
    | [] => (s, h)
  | _ => (s, h)

/-- Space, scope and bytes of a block load. -/
def blockShape (s : State) (g : Nat) (h : Holder) (i : Instr) : Space × Scope × Nat :=
  match i with
  | .mld _ _ _ a _ _ sp sc => (sp, sc, 4 * ((s.tile? (cluOf g) (h.acc a).tile).map (·.cols)).getD 0)
  | .hld _ _ _ _ sp => (sp, .grp, 64)
  | _ => (.glob, .grp, 0)

/-- A fault of a block load: the rows below the faulting one are written (R405). -/
def blockFault (s : State) (g q : Nat) (h : Holder) (l : LongOp) (y : LaneAcc) (cause kind addr payload : Nat) (sc : Scope) : State :=
  if h.asking l.idx then s.putHolder g q (h.setLong l)
  else
    let got := cause ≠ 10
    let (s1, h1) := if got then blockWrite s g h l else (s, h)
    let dn := if got ∧ y.lane < 96 then l.vals.foldl (fun m p => m ||| laneBit p.1) 0#96 else 0#96
    s1.longFault g q h1 { l with done := l.done ||| dn } cause kind y.lane (faultVal cause addr payload)
      (if cause = 10 then withScope payload sc.code else payload) none

/-- LONG_LATENCY_COMPLETE of `mld` and `hld`. -/
def blockStep (s : State) (g q : Nat) (h : Holder) (l : LongOp) : State :=
  let (sp, sc, n) := blockShape s g h l.instr
  let finish := fun (s : State) (h : Holder) (l : LongOp) =>
    if h.asking l.idx then s.putHolder g q (h.setLong l)
    else
      let (s1, h1) := blockWrite s g h l
      s1.longDone g q h1 l
  match l.lanes with
  | [] => finish s h l
  | first :: _ =>
    if h.readsBefore l.idx then s
    else
    let c := { (holderCtx s g h true) with vector := true }
    match resolveLanes c sp n .load true first l.lanes [] s with
    | .parked s1 => s1
    | .ok s1 ts fault =>
      let r := runLanes (fun s _ t => s.acquireReadT c t) (fun s _ t => (s.readHeld c t, 0)) (loadOut g q l) ts { s := s1, h := h }
      let s2 := r.s.cover g q l.seq (ts.flatMap (fun p => p.2.lines))
      let l1 := { (l.stamp r) with lanes := l.rest r, vals := l.vals ++ keepVals r.vals }
      match r.halt with
      | .busy => s2.putHolder g q (r.h.setLong l1)
      | .fault y cause kind p => blockFault s2 g q r.h l1 y cause kind y.ea p sc
      | .no =>
        match fault with
        | some (y, cause, kind, addr) => blockFault s2 g q r.h l1 y cause kind addr 0 sc
        | none => finish s2 r.h l1

/-- A store of blocks: `mst` and `hst`. -/
def blockStore (i : Instr) (space : Space) (scope : Scope) (n : Nat) (s : State) (g q : Nat) (h : Holder)
    (lanes : List LaneAcc) : State :=
  match memWait s g q h false true with
  | some w => s.block g q h w
  | none =>
    match (if teamSpace space then s.needTeam g q h else none) with
    | some s1 => s1
    | none => writeNow ⟨i, blockOp space scope, true, false, none, n⟩ id s g q h lanes

/-- `mst`. -/
def execMst (gd : Guard) (a b p : Nat) (space : Space) (scope : Scope) (s : State) : Out :=
  accOp (.mst gd a b p space scope) gd a [1] s fun g q h act =>
    match s.tile? (cluOf g) (h.acc a).tile with
    | none => s.retire g q (.mst gd a b p space scope) h
    | some t =>
      let lanes := (rowLanes h b p act).map (fun y => { y with
        x := (List.range t.cols).foldl (fun v n => v + AMap.getD t.elems (accKey y.lane n) 0 * 2 ^ (32 * n)) 0 })
      (blockStore (.mst gd a b p space scope) space scope (4 * t.cols)
        (s.updTile (cluOf g) (h.acc a).tile (fun t => t.stampFirst 4 s.clock)) g q h lanes)

/-- `hst`. -/
def execHst (d a : Nat) (space : Space) (s : State) : Out :=
  issue (.hst d a space) s fun g q h =>
    .next (blockStore (.hst d a space) space .grp 64 s g q h
      [{ lane := 127, ea := (h.readS64 a).toNat, x := AMap.getD h.shapes d 0 }])

/-- `hset`. -/
def execHset (d a k : Nat) (s : State) : Out :=
  issue (.hset d a k) s fun g q h =>
    .next (s.retire g q (.hset d a k)
      { h with shapes := AMap.set h.shapes d (setField (AMap.getD h.shapes d 0) (64 * k) 64 (h.readS64 a).toNat) })

/-- `hget`. -/
def execHget (d a k : Nat) (s : State) : Out :=
  issue (.hget d a k) s fun g q h =>
    .next (s.retire g q (.hget d a k) (h.writeS64 d (BitVec.ofNat 64 (field (AMap.getD h.shapes a 0) (64 * k) 64))))

end Sys2Proof.Machine
end

