-- ==== Sys2Proof/Machine/Commands.lean ====
section
/-! DEFINITION. Engine commands: shape records (spec 09 R246), copies, gathers, collectives and their queues (05 R125-R130,
15 R407-R413), their faults (16 R431, R432), futures (09 R242, 15 R415, R416). An engine moves one element at a time
(LOG 6). -/

namespace Sys2Proof.Machine

/-! ## Shape records (R245, R246, R398) -/

/-- Base of a shape record. -/
def shBase (r : Nat) : Nat := field r 456 56
/-- Space code. -/
def shSpace (r : Nat) : Nat := field r 453 3
/-- Rank. -/
def shRank (r : Nat) : Nat := field r 450 3
/-- Format code. -/
def shFmt (r : Nat) : Nat := field r 446 4
/-- Extent k. -/
def shExt (r k : Nat) : Nat := field r (286 + 32 * k) 32
/-- Stride k in bytes; dimension 0 is contiguous. -/
def shStride (r k : Nat) : Nat := if k = 0 then fmtBytes (shFmt r) else field r (126 + 40 * (k - 1)) 40
/-- Box length k. -/
def shBox (r k : Nat) : Nat := field r (86 + 8 * k) 8 + 1
/-- The dimension traversed j-th, innermost first. -/
def shOrder (r j : Nat) : Nat := field r (71 + 3 * j) 3
/-- Swizzle. -/
def shSwz (r : Nat) : Nat := field r 68 3
/-- Rotation code. -/
def shRot (r : Nat) : Nat := field r 64 4

/-- Dimensions of a record in its order. -/
def shDims (r : Nat) : List Nat := (List.range (shRank r)).map (shOrder r)

/-- Whether a command accepts a record whose row is `row` elements long; the Order and Fill of a `cpyt` destination are
ignored (R246, R398, R410). -/
def shOk (r row : Nat) (dst : Bool) : Bool :=
  let es := fmtBytes (shFmt r)
  let n := shRank r
  decide (shSpace r ≤ 2) && decide (1 ≤ n) && decide (n ≤ 5) && decide (shFmt r ≤ 13) && field r 0 30 == 0
    && (List.range n).all (fun k => shExt r k != 0 && shStride r k % es == 0)
    && (dst || ((List.range n).all (fun d => (shDims r).contains d) && field r 62 2 != 3))
    && decide (shSwz r ≤ 3) && (shRot r == 0 || row * es % 16 == 0)

/-- The fill of a record. -/
def shFill (r : Nat) : Nat :=
  match field r 62 2 with
  | 1 => ((fmtFloat (shFmt r)).map Fmt.cnan).getD 0
  | 2 => field r 30 32 % 2 ^ (8 * fmtBytes (shFmt r))
  | _ => 0

/-- Address of an element, none when it is out of bounds. In a scratchpad the byte `o` of box row `m` is rotated, then
swizzled. -/
def elemAt (r row : Nat) (x : Nat → Int) (m o : Nat) : Option Nat :=
  if (List.range (shRank r)).all (fun k => decide (0 ≤ x k) && decide (x k < shExt r k)) then
    let a := (List.range (shRank r)).foldl (fun a k => a + (x k).toNat * shStride r k) (shBase r)
    if shSpace r = 0 then some (a % 2 ^ 64)
    else
      let nch := row * fmtBytes (shFmt r) / 16
      let j := o / 16 % nch
      let a1 := if shRot r = 0 then a else a + (j + shRot r * m) % nch * 16 - j * 16
      some ((a1 ^^^ (m % 2 ^ shSwz r * 16)) % 2 ^ 64)
  else none

/-- Space of a code. -/
def spaceOf (c : Nat) : Space := if c = 0 then .glob else if c = 1 then .team else .clu

/-! ## The elements of a command, in its order (R409-R411) -/

/-- One move: source (none for the fill), destination (none when it is not written), bytes, fill. -/
structure Move where
  src : Option (Space × Nat)
  dst : Option (Space × Nat)
  n : Nat
  fill : Nat := 0
  deriving Repr, Inhabited

/-- Offset of element k in each dimension of a box: dimension and offset, innermost first. -/
def boxOffsets (r : Nat) : List Nat → Nat → List (Nat × Nat)
  | [], _ => []
  | d :: ds, k => (d, k % shBox r d) :: boxOffsets r ds (k / shBox r d)

/-- Elements of a command. -/
def CmdBody.count : CmdBody → Nat
  | .cpyt src _ _ _ => (shDims src).foldl (fun n d => n * shBox src d) 1
  | .cpyl _ _ _ _ len => len
  | .gath src _ _ n _ => n * shBox src 0
  | .coll buf _ _ _ _ => shExt buf 0

/-- The move at a place of a command; `idx` is the row index read for it. -/
def CmdBody.move (b : CmdBody) (pos idx : Nat) : Move :=
  match b with
  | .cpyt src dst so do_ =>
    let es := fmtBytes (shFmt src)
    let offs := boxOffsets src (shDims src) pos
    let e : Nat → Nat := fun d => ((offs.find? (fun p => p.1 == d)).map (·.2)).getD 0
    let m := match offs with
      | _ :: p :: _ => p.2
      | _ => 0
    { src := (elemAt src (shBox src 0) (fun k => so.getD k 0 + (e k : Int)) m (e 0 * es)).map (fun a => (spaceOf (shSpace src), a))
      dst := (elemAt dst (shBox src 0) (fun k => do_.getD k 0 + (e k : Int)) m (e 0 * es)).map (fun a => (spaceOf (shSpace dst), a))
      n := es, fill := shFill src }
  | .cpyl src dst ss ds len =>
    let s := (src + pos) % 2 ^ 64
    let d := (dst + pos) % 2 ^ 64
    { src := some (ss, s), dst := some (ds, d), n := min (len - pos) (min (128 - s % 128) (128 - d % 128)) }
  | .gath src dst _ _ row =>
    let es := fmtBytes (shFmt src)
    let w := shBox src 0
    let j := pos / w
    let e := pos % w
    let at_ := fun (r : Nat) (y : Int) => elemAt r w (fun k => if k = 0 then (e : Int) else y) j (e * es)
    { src := (at_ src idx).map (fun a => (spaceOf (shSpace src), a))
      dst := (at_ dst (row + j)).map (fun a => (spaceOf (shSpace dst), a))
      n := es, fill := shFill src }
  | .coll buf _ _ _ _ =>
    let es := fmtBytes (shFmt buf)
    let a := (shBase buf + pos * es) % 2 ^ 64
    { src := some (.glob, a), dst := some (.glob, a), n := es }

/-- How far a move takes the place. -/
def CmdBody.stride (b : CmdBody) (m : Move) : Nat :=
  match b with
  | .cpyl _ _ _ _ _ => m.n
  | _ => 1

/-! ## Accesses of the engines -/

/-- Context of a command's accesses (R127, R452). -/
def Command.ctx (c : Command) : AccCtx :=
  { agent := if c.engine < 320 then .copyEngine (c.engine - 256) else .collEngine (c.engine - 320)
    req := if c.engine < 320 then .clu (c.engine - 256) else .die (c.engine - 320)
    core := c.core, asid := c.asid, sup := c.super, grid := c.grid, team := c.team, vector := true, engine := true }

/-- What an access of a command gives. -/
inductive CmdAcc where
  | ok (s : State) (bs : List Byte) (stamp : Nat × Nat)
  | fault (s : State) (cause kind tval payload : Nat)
  | wait (s : State)
  | ask (s : State) (pa : Nat)
  deriving Repr, Inhabited

/-- The answer of performing a target, for an access at ea. -/
def Perf.cmd (p : Perf) (ea : Nat) : CmdAcc :=
  match p with
  | .ok bs lo hi s => .ok s bs (lo, hi)
  | .poison k s => .fault s 11 k ea 0
  | .contain w s => .fault s 10 (field w 104 8) (faultVal 10 0 w) w
  | .busy s => .wait s
  | .ext parts _ _ _ s => .ask s ((parts.head?.map (·.pa)).getD 0)

/-- The answer of an access whose pieces go out one by one. -/
def Reach.cmd (x : Reach) (unit ea : Nat) : CmdAcc :=
  match x with
  | .ok bs s => .ok (s.endAway unit) bs (0, 0)
  | .fault cause k p s => .fault (s.endAway unit) cause k (if cause = 10 then faultVal 10 0 p else ea) p
  | .wait s => .wait s

/-- Unit of an engine's accesses whose pieces go out one by one: those that lie on two pages. -/
def Command.away (c : Command) : Nat := 1000 + c.engine

/-- Read for a command. -/
def Command.read (c : Command) (s : State) (sp : Space) (ea n : Nat) : CmdAcc :=
  match s.resolve c.ctx sp ea n .load true with
  | .ok (.phys (z :: y :: zs)) s1 =>
    if (s1.outParts c.ctx false 0 (z :: y :: zs)).isEmpty then (s1.readTarget c.ctx (.phys (z :: y :: zs))).cmd ea
    else (s1.reachRead c.ctx c.away (.phys (z :: y :: zs))).cmd c.away ea
  | .ok t s1 => (s1.readTarget c.ctx t).cmd ea
  | .fault cause k a s1 => .fault s1 cause k a 0
  | .parked s1 => .wait s1

/-- Write for a command. -/
def Command.write (c : Command) (s : State) (sp : Space) (ea : Nat) (bs : List Byte) : CmdAcc :=
  match s.resolve c.ctx sp ea bs.length .store true with
  | .ok (.phys (z :: y :: zs)) s1 =>
    if (s1.outParts c.ctx true 0 (z :: y :: zs)).isEmpty then (s1.writeTarget c.ctx (.phys (z :: y :: zs)) bs).cmd ea
    else (s1.reachWrite c.ctx c.away (.phys (z :: y :: zs)) bs).cmd c.away ea
  | .ok t s1 => (s1.writeTarget c.ctx t bs).cmd ea
  | .fault cause k a s1 => .fault s1 cause k a 0
  | .parked s1 => .wait s1

/-! ## Futures (R242, R415) -/

/-- A new future for an operation. -/
def State.newFuture (s : State) (op : FutOp) : State × Nat :=
  ({ s with nextFuture := s.nextFuture + 1, futures := AMap.set s.futures s.nextFuture { op := op } }, s.nextFuture)

/-- Tag a register with a future: it holds the handle until the status arrives. -/
def Holder.tagWith (h : Holder) (d f : Nat) : Holder :=
  let h1 := h.writeS d (BitVec.ofNat 32 f)
  { h1 with tags := AMap.set h1.tags d f }

/-- A status arrives at the register that a holder has tagged with the future. -/
def Holder.land (h : Holder) (f status : Nat) : Holder :=
  match List.find? (fun (p : Nat × Nat) => p.2 == f) h.tags with
  | none => h
  | some (r, _) =>
    let h1 := h.writeS r (BitVec.ofNat 32 status)
    { h1 with landed := h1.landed ++ [r] }

/-- Change every holder of the package: in slots, in pieces, in the save area. -/
def State.mapHolders (s : State) (f : Holder → Holder) : State :=
  { s with
    cores := s.cores.map (fun p => (p.1, { p.2 with
      slots := p.2.slots.map (fun x => (x.1, f x.2))
      pieces := p.2.pieces.map (fun x => { x with holder := f x.holder }) }))
    ctl := { s.ctl with
      saved := s.ctl.saved.map (fun x => (x.1, x.2.1, f x.2.2))
      savedCores := s.ctl.savedCores.map (fun p => (p.1, { p.2 with
        pieces := p.2.pieces.map (fun x => { x with holder := f x.holder }) })) } }

/-- The slot whose holder is blocked in reading a register that a future tags (R130, R242). -/
def State.tagReader (s : State) (fut : Nat) : Option (Nat × Nat) :=
  s.cores.findSome? (fun p => (List.find? (fun (x : Nat × Holder) => match x.2.status with
    | .blocked (.tag r) => AMap.find? x.2.tags r == some fut
    | _ => false) p.2.slots).map (fun x => (p.1, x.1)))

/-- FUTURE_COMPLETE: the status lands; nobody is left to take it when the register has been written since. A holder blocked in
reading the register observes the completion. -/
def execFutureComplete (fut status : Nat) (s : State) : Out :=
  match AMap.find? s.futures fut with
  | none => .next s
  | some x =>
    let s1 := match s.tagReader fut with
      | some (g, q) => s.observe g q x.stamp
      | none => s
    .next ({ s1 with futures := AMap.erase s1.futures fut }.mapHolders (fun h => h.land fut (status % 2 ^ 32)))

/-- `fwait`. -/
def fwaitOn (i : Instr) (a : Nat) (s : State) (g q : Nat) (h : Holder) : State :=
  if AMap.has h.tags a then s.block g q h (.future a)
  else
    (s.observe g q h.cmdStamp).retire g q i { h with
      landed := h.landed.filter (· != a), watchdog := if h.status = .ready then h.watchdog else 0 }

/-- `fwait`. -/
def execFwait (a : Nat) (s : State) : Out := issue (.fwait a) s fun g q h => .next (fwaitOn (.fwait a) a s g q h)

/-- `ftest`: an untagged register leaves D as it is. -/
def execFtest (d a : Nat) (s : State) : Out :=
  issue (.ftest d a) s fun g q h =>
    if AMap.has h.tags a then .next (s.retire g q (.ftest d a) (h.writeS d 0#32))
    else if h.landed.contains a then
      .next ((s.observe g q h.cmdStamp).retire g q (.ftest d a) ({ h with landed := h.landed.filter (· != a) }.writeS d 1#32))
    else .next (s.retire g q (.ftest d a) h)

/-! ## The life of a command (R407-R409, R416, R431) -/

/-- Whether a pending trap is the fault of a command. -/
def PendTrap.ofCmd (t : PendTrap) (c : Command) : Bool := t.engine && t.queue == c.queue && t.command == c.seq

/-- Where the holder that issued a command is now, when it is in a slot. -/
def State.cmdSlot (s : State) (id : Nat) : Option (Nat × Nat) :=
  s.cores.findSome? (fun p =>
    (List.find? (fun (x : Nat × Holder) => x.2.cmds.contains id) p.2.slots).map (fun x => (p.1, x.1)))

/-- Whether that holder still exists: in a slot, as a piece, or saved. -/
def State.cmdOwned (s : State) (id : Nat) : Bool :=
  (s.cmdSlot id).isSome || s.cores.any (fun p => p.2.pieces.any (fun x => x.holder.cmds.contains id))
    || s.ctl.saved.any (fun x => x.2.2.cmds.contains id)
    || s.ctl.savedCores.any (fun p => p.2.pieces.any (fun x => x.holder.cmds.contains id))

/-- Replace a command. -/
def State.setCmd (s : State) (id : Nat) (c : Command) : State :=
  { s with commands := if AMap.has s.commands id then AMap.set s.commands id c else s.commands }

/-- The commands that wait for one. -/
def State.dependents (s : State) (id : Nat) : List Nat := (s.commands.filter (fun p => p.2.deps.contains id)).map (·.1)

/-- The counter's add of 1 (R407): the state after it, an error while its line is busy. -/
def countUp (s : State) (c : Command) : Except State State :=
  match c.cnt with
  | none => .ok s
  | some (pa, attr) =>
    let t := Target.phys [⟨pa, 8, { asid := 0, va := 0, size := 0, pa := 0, attr := attr }⟩]
    match s.atomicTarget c.ctx t .add .n64 1 0 with
    | (.busy s1, _) => .error s1
    | (.ok _ _ _ s1, _) => .ok s1
    | (.poison _ s1, _) | (.contain _ s1, _) => .ok s1
    | (.ext parts _ _ _ s1, _) =>
      .ok (parts.foldl (fun s p => engineAsk s c.ctx.agent c.engine 65534 p.pa (.atomic .add .n64 1 0)) s1)

/-- The operation of a journal entry completes with a status (R452, R456). -/
def State.packetDone (s : State) (p status : Nat) : State :=
  (s.updCtl (fun k => { k with journal := AMap.upd k.journal p {} (fun e => { e with
      status := status
      ended := true
      result := if e.type = 2 ∨ e.type = 7 ∨ e.type = 8 then status else e.result }) })).push
    [.packetComplete p]

/-! ## Stopping and recording an engine (R481, R482) -/

/-- Debug registers of the engine of a command. -/
def State.engineOf (s : State) (c : Command) : EngineDebug :=
  if c.engine < 320 then (s.cluster (c.engine - 256)).eng else (s.die (c.engine - 320)).eng

/-- Change them. -/
def State.updEngine (s : State) (c : Command) (f : EngineDebug → EngineDebug) : State :=
  if c.engine < 320 then s.updCluster (c.engine - 256) (fun x => { x with eng := f x.eng })
  else s.updDie (c.engine - 320) (fun x => { x with eng := f x.eng })

/-- Engine code of a tile task's name: 1 copy, 2 collective. -/
def Command.engineCode (c : Command) : Nat := if c.engine < 320 then 1 else 2

/-- Whether an enabled ESTOP names a command, and stops after it or before. -/
def State.stopsAt (s : State) (c : Command) (after : Bool) : Bool :=
  let e := (s.engineOf c).estop
  bitN e 0 && bitN e 1 == after && field e 96 32 == (s.grid c.grid).number % 2 ^ 32 && field e 48 48 == c.team
    && field e 44 4 == c.queue && field e 12 32 == c.seq % 2 ^ 32 && field e 10 2 == c.engineCode

/-- The 48-byte record of a completed command. -/
def Command.record (s : State) (c : Command) (status : Nat) : List Byte :=
  leBytes 4 (s.grid c.grid).number ++ leBytes 6 c.team ++ leBytes 2 (c.queue + 16 * c.engineCode) ++ leBytes 4 c.seq
    ++ leBytes 6 c.started ++ leBytes 6 s.clock ++ leBytes 4 status ++ leBytes 8 c.off ++ leBytes 8 0

/-- A completed command is recorded, and the engine stops after it when ESTOP says so. -/
def State.engineDone (s : State) (c : Command) (status : Nat) : State :=
  let e := s.engineOf c
  let s1 := if bitN e.ectl 0 then
      let (s0, r) := s.ringPut e.er (c.record s status)
      s0.updEngine c (fun e => { e with er := r })
    else s
  if s1.stopsAt c true then s1.updEngine c (fun e => { e with stopped := true }) else s1

/-- A command completes with a status: counter, future, batch, packet, and the commands behind it. -/
def State.finishCmd (s : State) (id : Nat) (c : Command) (status : Nat) : State :=
  match (countUp s c).map (fun s => s.engineDone c status) with
  | .error s1 => s1
  | .ok s1 =>
    let waiting := s1.dependents id
    let later := fun (x : Nat) => if c.hi = 0 then x else if x = 0 then c.hi else serialMax x c.hi
    let s0 := { s1 with
      commands := (AMap.erase s1.commands id).map (fun (p : Nat × Command) =>
        (p.1, if p.2.deps.contains id then { p.2 with floor := later p.2.floor } else p.2))
      futures := s1.futures.map (fun (p : Nat × Future) => (p.1, if c.fut = some p.1 then { p.2 with stamp := c.hi } else p.2)) }
    let s2 := s0.mapHolders (fun h =>
      if h.cmds.contains id then
        { h with cmds := h.cmds.filter (· != id), pend := h.pend.filter (fun t => !t.ofCmd c), cmdStamp := later h.cmdStamp }
      else h)
    let us := agentUnit c.ctx.agent 0
    let tell := fun (s : State) (v : Option Clocked) => match us, v with
      | some u, some v => s.carry u v
      | _, _ => s
    let told := (waiting.foldl (fun s i => tell s ((AMap.find? s.commands i).bind (fun k => agentUnit k.ctx.agent 0))) s2)
    let s3 := (tell told ((s.cmdSlot id).map (fun x => Clocked.core x.1))).push ((c.fut.toList.map (fun f => Event.futureComplete f status)) ++ waiting.map Event.commandStart)
    match c.packet with
    | none => s3
    | some p => s3.packetDone p status

/-- Status of a cancelled command after n bytes (R408). -/
def cancelStatus (n : Nat) : Nat := 0x80000000 + min n 0x7FFFFFFF

/-- The frame of a command's fault whose holder is gone (R431). -/
def Command.goneFrame (c : Command) (s : State) (t : PendTrap) : Nat :=
  frameWord s c.core c.slot
    { kind := .range, grid := c.grid, lo := c.member, asid := c.asid, depth := c.depth } { t with member := some c.member } false

/-- A fault stops a command at the end of its prefix (R431); a COPY packet's ends (R452). -/
def suspendCmd (s : State) (id : Nat) (c : Command) (cause kind tval payload : Nat) : State :=
  let t : PendTrap :=
    { cause := cause, kind := kind, lane := 127, tval := tval, payload := payload, engine := true, queue := c.queue
      command := c.seq, offset := c.off, engineCode := if c.engine < 320 then 1 else 2, pc := c.pc }
  if c.packet.isSome then
    (s.updCtl (fun k => { k with reports := k.reports ++ [c.goneFrame s t] })).finishCmd id c (cancelStatus c.off)
  else if !s.cmdOwned id then
    (s.countFault c.grid cause c.member c.core (c.goneFrame s t)).finishCmd id c (cancelStatus c.off)
  else
    let s1 := (s.setCmd id { c with st := .suspended, got := none, fault := some t, told := false }).mapHolders (fun h =>
      if h.cmds.contains id then { h with pend := h.pend ++ [t] } else h)
    match s1.cmdSlot id with
    | some (g, q) => s1.push [.engineFaultDelivery g q]
    | none => s1

/-- Die and index of the checker beside a command's engine (R165). -/
def Command.checker (c : Command) : Nat × Nat :=
  if c.engine < 320 then ((c.engine - 256) / 8, (c.engine - 256) % 8) else (c.engine - 320, 8)

/-- The engine Taster checks the start of a command against the commands it comes after (R128, R129, R158, R175). -/
def State.engineTaster (s : State) (c : Command) (lo : Nat) : State :=
  let (d, ix) := c.checker
  let s1 := s.updChecker d 5 ix (fun k => { k with closed := (k.closed + 1) % 2 ^ 32 })
  if c.floor = 0 ∨ lo = 0 ∨ serialGt lo c.floor then s1
  else
    let p := payloadWord c.floor lo ((s.die d).checker 5 ix).clock (checkerId d 5 ix) 0 0 1
      (c.slot * 2 ^ 91 + 6 * 2 ^ 88 + 6 * 2 ^ 85 + 11 * 2 ^ 81)
    (s1.storePayload d 5 ix p).updCore c.core (fun k => { k with floors := AMap.upd k.floors c.slot {} (fun f =>
      { f with contain := if f.contain = 0 then p else f.contain }) })

/-- The Taster records the start of a command with its first access (R146, R148). -/
def reportStart (s : State) (id : Nat) (c : Command) (st : Nat × Nat) : State :=
  let s1 := s.engineTaster c st.1
  match c.packet, s1.cmdSlot id with
  | none, some (g, q) =>
    (s1.tasterPush g { max := st.2, min := st.1, sig := 0, slot := q, kind := 6, order := 0, scope := 4 }).1
  | _, _ => s1

/-- The stamps of one more access of a command. -/
def Command.stamped (c : Command) (st : Nat × Nat) : Command :=
  if st.2 = 0 then c else { c with hi := if c.hi = 0 then st.2 else serialMax c.hi st.2 }

/-- Locations of the bytes of a target: device addresses, then scratchpad bytes from 2^60. -/
def Target.locs (t : Target) : List Nat :=
  match t with
  | .phys segs => segs.flatMap (fun z => (List.range z.len).map (fun i => z.pa + i))
  | .spm k off n => (List.range n).map (fun i => 2 ^ 60 + k * 2 ^ 40 + off + i)

/-- The byte at a location. -/
def State.locByte (s : State) (loc : Nat) : Nat :=
  if loc < 2 ^ 60 then leValue (s.physBytes loc 1)
  else (Memory.read (s.core ((loc - 2 ^ 60) / 2 ^ 40)).spm (loc % 2 ^ 40)).toNat

/-- Locations of an access of a command. -/
def Command.locs (c : Command) (s : State) (sp : Space) (ea n : Nat) (a : Acc) : List Nat :=
  match s.resolve c.ctx sp ea n a true with
  | .ok t _ => t.locs
  | _ => []

/-- Source bytes that the command has itself written: each may be the byte from before the command instead (R409). -/
def overlapBytes (c : Command) : List Nat → List Byte → State → List Byte × State
  | loc :: locs, b :: bs, s =>
    let r := match AMap.find? c.old loc with
      | none => (b, s)
      | some v => (if Config.overlapNew s.fresh then b else BitVec.ofNat 8 v, s.useFresh)
    let rest := overlapBytes c locs bs r.2
    (r.1 :: rest.1, rest.2)
  | _, bs, s => (bs, s)

/-- What stands where a command is about to write, kept for its later reads. -/
def Command.keepOld (c : Command) (s : State) (locs : List Nat) : Command :=
  { c with old := locs.foldl (fun m l => if AMap.has m l then m else AMap.set m l (s.locByte l)) c.old }

/-- Read some bytes and go on; a first access is reported. -/
def cmdFetch (s : State) (id : Nat) (c : Command) (sp : Space) (ea n : Nat) (k : State → Command → List Byte → State) : State :=
  match c.read s sp ea n with
  | .ok s1 bs st =>
    let s2 := if c.reported then s1 else reportStart s1 id c st
    let r := if c.old.isEmpty then (bs, s2) else overlapBytes c (c.locs s sp ea n .load) bs s2
    k r.2 { (c.stamped st) with reported := true } r.1
  | .fault s1 cause kind tval p => suspendCmd s1 id c cause kind tval p
  | .wait s1 => s1.setCmd id c
  | .ask s1 pa => (engineAsk s1 c.ctx.agent c.engine (id % 65536) pa (.read n)).setCmd id { c with asked := true }

/-- A move's bytes have been written, or it is skipped: the place advances. -/
def Command.moved (c : Command) (m : Move) : Command :=
  { c with
    off := c.off + (if m.dst.isSome then m.n else 0), pos := c.pos + c.body.stride m, got := none, asked := false, put := false
    idx := match c.body with
      | .gath src _ _ _ _ => if (c.pos + 1) % shBox src 0 = 0 then none else c.idx
      | _ => none }

/-- Write the bytes of a move. -/
def cmdStore (s : State) (id : Nat) (c : Command) (m : Move) (bs : List Byte) : State :=
  match m.dst with
  | none => (s.setCmd id (c.moved m)).push [.commandComplete id]
  | some (sp, ea) =>
    match c.write s sp ea bs with
    | .ok s1 _ st =>
      let s2 := if c.reported then s1 else reportStart s1 id c st
      (s2.setCmd id { ((c.stamped st).keepOld s (c.locs s sp ea bs.length .store)).moved m with reported := true }).push [.commandComplete id]
    | .fault s1 cause kind tval p => suspendCmd s1 id c cause kind tval p
    | .wait s1 => s1.setCmd id { c with got := some bs }
    | .ask s1 pa =>
      (engineAsk s1 c.ctx.agent c.engine (id % 65536) pa (.write m.n (leValue bs))).setCmd id { c with got := some bs, asked := true }

/-- The next element of a copy or gather. -/
def copyStep (s : State) (id : Nat) (c : Command) : State :=
  match c.body, c.idx with
  | .gath src _ list _ _, none =>
    cmdFetch s id c .glob ((list + 4 * (c.pos / shBox src 0)) % 2 ^ 64) 4 fun s1 c1 bs =>
      (s1.setCmd id { c1 with idx := some (leValue bs) }).push [.commandComplete id]
  | b, _ =>
    let m := b.move c.pos (c.idx.getD 0)
    match c.got, m.dst, m.src with
    | some bs, _, _ => cmdStore s id c m bs
    | none, none, _ => (s.setCmd id (c.moved m)).push [.commandComplete id]
    | none, some _, none => cmdStore s id c m (leBytes m.n m.fill)
    | none, some _, some (sp, ea) => cmdFetch s id c sp ea m.n fun s1 c1 bs => cmdStore s1 id c1 m bs

/-! ## Collectives (R412) -/

/-- The rank of a collective's command. -/
def Command.rank (c : Command) : Nat :=
  match c.body with
  | .coll _ _ t0 _ _ => c.team - t0
  | _ => 0

/-- The commands that have arrived at a command's instance. -/
def State.instanceOf (s : State) (c : Command) : List (Nat × Command) :=
  match c.body with
  | .coll _ _ t0 n k => s.commands.filter (fun p => p.2.st != .queued && p.2.grid == c.grid && (match p.2.body with
    | .coll _ _ t n' k' => t == t0 && n' == n && k' == k
    | _ => false))
  | _ => []

/-- What ranks must agree on: kind, format, extent, and the operation or the root. -/
def CmdBody.collKey : CmdBody → Nat × Nat × Nat × Nat
  | .coll buf ctl _ _ _ => (field ctl 0 2, shFmt buf, shExt buf 0, if field ctl 0 2 = 0 then field ctl 2 2 else field ctl 16 16)
  | _ => (0, 0, 0, 0)

/-- One operation of an all-reduce. -/
def collOp (code op x y : Nat) : Nat :=
  let w := 8 * fmtBytes code
  match fmtFloat code with
  | some f => if op = 0 then (fpAdd f .rn x y).1 else if op = 1 then (fpMin f x y).1 else (fpMax f x y).1
  | none =>
    let le := if code % 2 = 0 then decide (sextI x w ≤ sextI y w) else decide (x ≤ y)
    if op = 0 then (x + y) % 2 ^ w else if op = 1 then (if le then x else y) else (if le then y else x)

/-- Identity of an operation (R262). -/
def collIdent (code op : Nat) : Nat :=
  let w := 8 * fmtBytes code
  match fmtFloat code with
  | some f => if op = 0 then f.zero true else f.infOrMax (op == 2)
  | none =>
    if op = 0 then 0
    else if code % 2 = 0 then (if op = 1 then 2 ^ (w - 1) - 1 else 2 ^ (w - 1))
    else if op = 1 then 2 ^ w - 1 else 0

/-- Combine neighbours. -/
def foldPairs (f : Nat → Nat → Nat) : List Nat → List Nat
  | x :: y :: rest => f x y :: foldPairs f rest
  | xs => xs

/-- tree of R262 over 2^n values. -/
def treeOf (f : Nat → Nat → Nat) : Nat → List Nat → Nat
  | 0, xs => xs.headD 0
  | n + 1, xs => treeOf f n (foldPairs f xs)

/-- The result of an element from the ranks' values, in rank order. -/
def collResult (code op : Nat) (xs : List Nat) : Nat :=
  let lg := if xs.length ≤ 1 then 0 else Nat.log2 (xs.length - 1) + 1
  treeOf (collOp code op) lg (xs ++ List.replicate (2 ^ lg - xs.length) (collIdent code op))

/-- Whether a rank takes part in reading: every rank of an all-reduce, the root of a broadcast. -/
def Command.reads (c : Command) : Bool :=
  match c.body with
  | .coll _ ctl _ _ _ => field ctl 0 2 == 0 || c.rank == field ctl 16 16
  | _ => true

/-- Whether a rank's buffer is written: not that of a broadcast's root. -/
def Command.writes (c : Command) : Bool :=
  match c.body with
  | .coll _ ctl _ _ _ => field ctl 0 2 == 0 || c.rank != field ctl 16 16
  | _ => true

/-- When every rank has its element, the result stands in each. -/
def collMeet (s : State) (c : Command) : State :=
  match c.body with
  | .coll buf ctl _ n _ =>
    let ms := (s.instanceOf c).filter (fun p => p.2.pos == c.pos && p.2.got.isSome && !p.2.put)
    if ms.length < n then s
    else
      let val := fun (k : Nat) => ((ms.find? (fun p => p.2.rank == k)).bind (·.2.got)).getD []
      let r := if field ctl 0 2 = 0 then
          leBytes (fmtBytes (shFmt buf)) (collResult (shFmt buf) (field ctl 2 2) ((List.range n).map (fun k => leValue (val k))))
        else val (field ctl 16 16)
      (ms.foldl (fun s p => s.setCmd p.1 { p.2 with got := some r, put := true }) s).push (ms.map (fun p => .commandComplete p.1))
  | _ => s

/-- The next element of a collective's rank. -/
def collStep (s : State) (id : Nat) (c : Command) : State :=
  let m := c.body.move c.pos 0
  match c.got with
  | none =>
    if c.reads then
      match m.src with
      | some (sp, ea) => cmdFetch s id c sp ea m.n fun s1 c1 bs =>
          let c2 := { c1 with got := some bs }
          collMeet (s1.setCmd id c2) c2
      | none => s
    else
      let c1 := { c with got := some [] }
      collMeet (s.setCmd id c1) c1
  | some bs =>
    if !c.put then collMeet s c
    else cmdStore s id c (if c.writes then m else { m with dst := none }) bs

/-- The start of a rank: it refuses, or joins; the last to join begins the reduction, or every rank refuses. -/
def collStart (s : State) (id : Nat) (c : Command) : State :=
  match c.body with
  | .coll _ ctl t0 n _ =>
    if c.team < t0 ∨ t0 + n ≤ c.team then s.finishCmd id c 0x40000001
    else
      let s1 := s.setCmd id { c with st := .running }
      let ms := s1.instanceOf c
      if ms.length < n then s1
      else if ms.any (fun p => p.2.body.collKey != c.body.collKey) ∨ (field ctl 0 2 = 1 ∧ n ≤ field ctl 16 16) then
        ms.foldl (fun s p => s.finishCmd p.1 p.2 0x40000001) s1
      else
        (ms.foldl (fun s p => s.setCmd p.1 { p.2 with begun := true }) s1).push (ms.map (fun p => .commandComplete p.1))
  | _ => s

/-- Whether a command may start: its queue and its `qfence`s (R128, R413), and the `fencex` before it (R125). -/
def Command.mayStart (c : Command) (s : State) : Bool :=
  c.deps.all (fun d => !AMap.has s.commands d)
    && !(s.core c.core).releases.any (fun r => r.slot == c.slot && decide (r.seq < c.gate) && (match r.kind with
      | .fencex => true
      | _ => false))

/-- Die of a command's engine: a copy engine's cluster is on it, or it is a collective engine's own. -/
def Command.engineDie (c : Command) : Nat := if c.engine < 320 then (c.engine - 256) / 8 else c.engine - 320

/-- COMMAND_START. -/
def execCommandStart (cmd : Nat) (s : State) : Out :=
  match AMap.find? s.commands cmd with
  | none => .next s
  | some c =>
    if c.st ≠ .queued ∨ !c.mayStart s ∨ (s.engineOf c).stopped ∨ c.saved ∨ s.dieHalted c.engineDie then .next s
    else if s.stopsAt c false && !(s.engineOf c).passed then .next (s.updEngine c (fun e => { e with stopped := true }))
    else
      let s1 := if s.stopsAt c false then s.updEngine c (fun e => { e with passed := false }) else s
      let c1 := { c with started := s.clock }
      match c.body with
      | .coll _ _ _ _ _ => .next (collStart s1 cmd c1)
      | _ => .next ((s1.setCmd cmd { c1 with st := .running }).push [.commandComplete cmd])

/-- COMMAND_COMPLETE: a command moves its next element, or completes; a suspended one whose holder is gone is cancelled
(R431), and its fault counted if no handler took it. -/
def execCommandComplete (cmd : Nat) (s : State) : Out :=
  match AMap.find? s.commands cmd with
  | none => .next s
  | some c =>
    match c.st with
    | .queued => .next s
    | .suspended =>
      if s.cmdOwned cmd then .next s
      else
        let s1 := match c.fault with
          | some t => if c.told then s else s.countFault c.grid t.cause c.member c.core (c.goneFrame s { t with offset := c.off })
          | none => s
        .next (s1.finishCmd cmd c (cancelStatus c.off))
    | .running =>
      if c.cancel ∧ (!c.asked ∨ c.got.isNone) then .next (s.finishCmd cmd c (cancelStatus c.off))
      else if c.asked ∨ c.saved ∨ s.dieHalted c.engineDie ∧ c.off % 512 = 0 then .next s
      else if c.body.count ≤ c.pos then .next (s.finishCmd cmd c 0)
      else
        match c.body with
        | .coll _ _ _ _ _ => if c.begun then .next (collStep s cmd c) else .next s
        | _ => .next (copyStep s cmd c)

/-- Die and agent of the engine that a unit number of 256 or more names: copy engines from 256, collective engines from 320,
matrix engines from 336 (LOG 30). -/
def unitEngine (unit : Nat) : Nat × Agent :=
  if unit < 320 then ((unit - 256) / 8, .copyEngine (unit - 256))
  else if unit < 336 then (unit - 320, .collEngine (unit - 320))
  else ((unit - 336) / 8, .matrix (unit - 336))

/-- An engine checks data that a peer has sent (R151): the payload of the check when it fails. -/
def engineData (s : State) (unit pa n v : Nat) : State × Option Nat :=
  if regionOf s pa = .peer then
    s.receive (unitEngine unit).1 (pa / 128) 14 (agentId (Agent.peer 0)) (agentId (unitEngine unit).2) (imageDigest pa (leBytes n v) (pa / 128))
  else (s, none)

/-- The engine has the reply of a peer or of the host to a command's access at pa (R35, R38). -/
def cmdReply (s : State) (id : Nat) (c : Command) (pa : Nat) (r : PeerReply) : State :=
  let c1 := { c with asked := false }
  let m := c.body.move c.pos (c.idx.getD 0)
  let at_ := ((if c.got.isSome then m.dst else m.src).map (·.2)).getD 0
  match r with
  | .revoked => suspendCmd s id c1 5 0x18 at_ 0
  | .lost => suspendCmd s id c1 11 (if c.got.isSome then 5 else 1) at_ 0
  | .data v =>
    if c.got.isSome then (s.setCmd id (c1.moved m)).push [.commandComplete id]
    else
      let index := match c.body, c.idx with
        | .gath _ _ _ _ _, none => true
        | _, _ => false
      match engineData s c.engine pa (if index then 4 else m.n) v with
      | (s1, some p) => suspendCmd s1 id c1 10 (field p 104 8) (faultVal 10 0 p) p
      | (s1, none) =>
        (s1.setCmd id (if index then { c1 with idx := some v, reported := true }
          else { c1 with got := some (leBytes m.n v), reported := true })).push [.commandComplete id]

/-- Cancel a command (R416, R431). A collective whose reduction has begun goes on; else every arrived rank ends. -/
def State.cancelCmd (s : State) (id : Nat) : State :=
  match AMap.find? s.commands id with
  | none => s
  | some c =>
    match c.body with
    | .coll _ _ _ _ _ =>
      if c.begun then s
      else
        let ms := (s.instanceOf c).filter (fun p => p.1 != id)
        ((id, c) :: ms).foldl (fun s p => s.finishCmd p.1 p.2 0x80000000) s
    | _ =>
      match c.st with
      | .running => (s.setCmd id { c with cancel := true }).push [.commandComplete id]
      | _ => s.finishCmd id c (cancelStatus c.off)

/-- A suspended command goes on from its Offset (R431). -/
def State.resumeCmd (s : State) (id : Nat) : State :=
  match AMap.find? s.commands id with
  | some c =>
    if c.st = .suspended then (s.setCmd id { c with st := .running, fault := none, told := false }).push [.commandComplete id]
    else s
  | none => s

/-! ## Issue of a command (R128, R391-R393, R407) -/

/-- Key of a queue of a team in a grid's tables. -/
def queueKey (team queue : Nat) : Nat := team * 16 + queue

/-- Commands of a queue that have not completed. -/
def State.queueLive (s : State) (grid team queue : Nat) : List Nat :=
  (AMap.getD (s.grid grid).queueLog (queueKey team queue) []).filter (AMap.has s.commands)

/-- What the operands of a command give: a body, or an illegal-encoding trap. -/
def cpytBody (h : Holder) (o : CmdOp) : Option CmdBody :=
  let a := AMap.getD h.shapes o.a 0
  let b := AMap.getD h.shapes o.b 0
  let org := fun (k : Nat) => (List.range 5).map (fun j => sextI (h.readS (o.c + k + j)).toNat 32)
  if shOk a (shBox a 0) false && shOk b (shBox a 0) true && shRank a == shRank b && shFmt a == shFmt b then
    some (.cpyt a b (org 0) (org 5))
  else none

/-- Operands of `cpyl`. -/
def cpylBody (h : Holder) (o : CmdOp) (src dst : Space) : Option CmdBody :=
  let n := (h.readS64 o.c).toNat
  if n < 2 ^ 40 then some (.cpyl (h.readS64 o.a).toNat (h.readS64 o.b).toNat src dst n) else none

/-- Operands of `gath`. -/
def gathBody (h : Holder) (o : CmdOp) : Option CmdBody :=
  let a := AMap.getD h.shapes o.a 0
  let b := AMap.getD h.shapes o.b 0
  let list := (h.readS64 o.c).toNat
  let n := (h.readS (o.c + 2)).toNat
  if shOk a (shBox a 0) false && shOk b (shBox a 0) false && shRank a == 2 && shRank b == 2 && shFmt a == shFmt b
    && decide (n ≤ 2 ^ 20) && list % 4 == 0 then some (.gath a b list n (sextI (h.readS (o.c + 3)).toNat 32))
  else none

/-- Operands of `coll`; `k` is its place among the team's commands of the same ranks. -/
def collBody (h : Holder) (o : CmdOp) (k : Nat) : Option CmdBody :=
  let a := AMap.getD h.shapes o.a 0
  let ctl := (h.readS o.b).toNat
  let n := (h.readS (o.c + 2)).toNat
  if o.c % 2 == 0 && decide (o.c ≤ 56) && shOk a (shBox a 0) false && shRank a == 1 && shSpace a == 0
    && [3, 4, 5, 10, 11, 12, 13].contains (shFmt a) && decide (field ctl 0 2 ≤ 1) && field ctl 2 2 != 3
    && field ctl 4 12 == 0 && decide (1 ≤ n) && decide (n ≤ 65536) then
    some (.coll a ctl (h.readS64 o.c).toNat n k)
  else none

/-- What a command's translation of its counter gives (R407). -/
inductive Counter where
  | none (s : State)
  | at_ (s : State) (pa attr : Nat)
  | bad
  | fault (s : State) (cause kind tval : Nat)
  | parked (s : State)
  deriving Repr, Inhabited

/-- Translate the counter's address. -/
def counterAt (s : State) (g : Nat) (h : Holder) (cnt : Option Nat) : Counter :=
  match cnt with
  | .none => .none s
  | some k =>
    let a := (h.readS64 k).toNat
    if a % 8 ≠ 0 then .bad
    else
      match s.resolve { (holderCtx s g h true) with engine := true } .glob a 8 .store true with
      | .ok (.phys (z :: _)) s1 => .at_ s1 z.pa z.e.attr
      | .ok _ s1 => .none s1
      | .fault cause kind tval s1 => .fault s1 cause kind tval
      | .parked s1 => .parked s1

/-- A command enters its queue; its future tags D. -/
def enterCommand (s : State) (g q : Nat) (i : Instr) (o : CmdOp) (h : Holder) (act : Lanes) (body : CmdBody)
    (cnt : Option (Nat × Nat)) : State :=
  let id := s.nextCommand
  let (s1, f) := s.newFuture (.command id)
  let key := queueKey h.team o.queue
  let gr := s1.grid h.grid
  let live := s1.queueLive h.grid h.team o.queue
  let coll := match body with | .coll _ _ _ _ _ => true | _ => false
  let c : Command := {
    body := body, grid := h.grid, team := h.team, member := h.member (s.tsize h) ((lowestLane act).getD 0), queue := o.queue,
    seq := AMap.getD gr.qseq key 0, asid := h.asid, core := g, slot := q, pc := h.pc, depth := h.depth,
    engine := if coll then 320 + dieOf g else 256 + cluOf g, gate := (s.core g).tasterSeq, fut := some f, cnt := cnt,
    deps := live ++ AMap.getD gr.qdeps key [] }
  let s2 := { s1 with nextCommand := id + 1, commands := AMap.set s1.commands id c }.updGrid h.grid (fun x => { x with
    queueLog := AMap.set x.queueLog key (live ++ [id])
    qseq := AMap.upd x.qseq key 0 (fun n => (n + 1) % 2 ^ 32)
    collSeq := match body with
      | .coll _ _ t0 n _ => AMap.upd x.collSeq ((h.team * 2 ^ 64 + t0) * 2 ^ 17 + n) 0 (· + 1)
      | _ => x.collSeq })
  let h1 := h.tagWith o.d f
  (s2.retire g q i { h1 with
    cmds := h1.cmds ++ [id], openBatch := if coll then h1.openBatch else h1.openBatch ++ [id] }).push [.commandStart id]

/-- A command at its issue. -/
def command (i : Instr) (o : CmdOp) (body : State → Holder → Option CmdBody) (s : State) : Out :=
  issue i s fun g q h =>
    match (if h.kind = .range then s.needTeam g q h else none) with
    | some s1 => .next s1
    | none =>
      if h.kind = .range then .next (s.unfoldHere g q h)
      else
        let act := h.activeLanes o.g
        if act = 0#96 then .next (s.retire g q i h)
        else
          match body s h with
          | none => .next (s.trapHere g q h 0 0 (headWord i))
          | some b =>
            match s.needTeam g q h with
            | some s1 => .next s1
            | none =>
              let eng := match b with | .coll _ _ _ _ _ => 320 + dieOf g | _ => 256 + cluOf g
              if 64 ≤ h.tags.length ∧ !AMap.has h.tags o.d then .next (s.block g q h .tagsFull)
              else if 64 ≤ (s.queueLive h.grid h.team o.queue).length
                  ∨ 16128 ≤ (s.commands.filter (fun p => p.2.engine == eng)).length then
                .next (s.block g q h (.queueFull o.queue))
              else
                match counterAt s g h o.cnt with
                | .none s1 => .next (enterCommand s1 g q i o h act b none)
                | .at_ s1 pa attr => .next (enterCommand s1 g q i o h act b (some (pa, attr)))
                | .bad => .next (s.trapHere g q h 0 0 (headWord i))
                | .fault s1 cause kind tval => .next (s1.trapHere g q h cause kind tval)
                | .parked s1 => .next (s1.block g q h (s1.walkWait g))

/-- `cpyt`. -/
def execCpyt (o : CmdOp) (s : State) : Out := command (.cpyt o) o (fun _ h => cpytBody h o) s

/-- `cpyl`. -/
def execCpyl (o : CmdOp) (src dst : Space) (s : State) : Out :=
  command (.cpyl o src dst) o (fun _ h => cpylBody h o src dst) s

/-- `gath`. -/
def execGath (o : CmdOp) (s : State) : Out := command (.gath o) o (fun _ h => gathBody h o) s

/-- `coll`. -/
def execColl (o : CmdOp) (s : State) : Out :=
  command (.coll o) o (fun s h => collBody h o (AMap.getD (s.grid h.grid).collSeq
    ((h.team * 2 ^ 64 + (h.readS64 o.c).toNat) * 2 ^ 17 + (h.readS (o.c + 2)).toNat) 0)) s

/-- `qfence`: commands accepted later into the queue wait for those of the named queues and of the queue itself. -/
def execQfence (queue mask : Nat) (s : State) : Out :=
  issue (.qfence queue mask) s fun g q h =>
    match s.needTeam g q h with
    | some s1 => .next s1
    | none =>
      let team := h.teamOf (s.tsize h)
      let names := (List.range 16).filter (fun k => bitN mask k || k == queue)
      let ids := names.flatMap (s.queueLive h.grid team)
      let s1 := s.updGrid h.grid (fun x => { x with
        qdeps := AMap.upd x.qdeps (queueKey team queue) [] (fun d => d.filter (AMap.has s.commands) ++ ids) })
      .next (s1.retire g q (.qfence queue mask) h)

end Sys2Proof.Machine
end

