-- ==== Sys2Proof/Machine/Grids.lean ====
section
/-! DEFINITION. Launch records, the dispatcher tree, completion and cancellation of grids (spec 07 R176-R180, 08 R206-R221,
05 R131-R133), and the grid instructions (15 R416-R419). -/

namespace Sys2Proof.Machine

/-! ## Capacity of the tree's nodes (R76-R84, R209, R210) -/

/-- The cores of a cluster. -/
def cluCores (x : Nat) : List Nat := (List.range 4).map (fun k => 4 * x + k)

/-- Whether a cluster holds no context. -/
def State.cluEmpty (s : State) (x : Nat) : Bool := (cluCores x).all (fun g => (s.core g).empty)

/-- Longest run of registers that no window holds. -/
def Core.longestRun (c : Core) : Nat :=
  (0 :: c.slots.map (fun p => p.2.win + p.2.w)).foldl (fun best a =>
    max best (c.slots.foldl (fun e p => if a < p.2.win + p.2.w then min e p.2.win else e) c.regs - a)) 0

/-- Whether a core's split and its cluster's fusion, or their emptiness, let a record's grid on it (R78, R84). -/
def State.splitOk (s : State) (g r : Nat) : Bool :=
  let c := s.core g
  let x := s.cluster (cluOf g)
  (c.empty || (c.l1Banks == recL1 r && c.spmBanks == recSpm r))
    && (s.cluEmpty (cluOf g) || (x.fused == recFused r && (!recFused r || c.l1Banks == recL1 r)))

/-- Capacity of a core for a record (R210). -/
def State.coreCap (s : State) (r g : Nat) : Nat :=
  let d := s.die (dieOf g)
  let c := s.core g
  if d.online && !d.resetting && (s.cluster (cluOf g)).powered && bitN (recDieMask r) (dieOf g) && s.splitOk g r then
    let c1 := if c.empty then { c with l1Banks := recL1 r, spmBanks := recSpm r } else c
    let free := if recNoCompact r then c1.longestRun else c1.regs - c1.slots.foldl (fun t p => t + p.2.w) 0
    min (32 - c1.slots.length) (free / recW r)
  else 0

/-- Teams a node itself holds undealt. -/
def Grid.undealtAt (gr : Grid) (n : Node) : Nat := (gr.undealt.filter (fun u => u.1 == n)).foldl (fun t u => t + (u.2.2 - u.2.1)) 0

/-- The children's capacities less ceil(U / G), from 0 (R210). -/
def Grid.less (gr : Grid) (n : Node) (sum : Nat) : Nat := sum - (gr.undealtAt n + recGrain gr.record - 1) / recGrain gr.record

/-- Capacity of a cluster. -/
def State.cluCap (s : State) (gr : Grid) (x : Nat) : Nat :=
  gr.less (.clu x) ((cluCores x).foldl (fun t g => t + s.coreCap gr.record g) 0)

/-- Capacity of a die. -/
def State.dieCap (s : State) (gr : Grid) (d : Nat) : Nat :=
  gr.less (.die d) ((List.range 8).foldl (fun t k => t + s.cluCap gr (8 * d + k)) 0)

/-- Capacity of this package. -/
def State.pkgCap (s : State) (gr : Grid) : Nat :=
  gr.less (.pkg Config.pkgId) ((List.range 8).foldl (fun t d => t + s.dieCap gr d) 0)

/-- Participating packages: this one and the other online, non-spare members of the pod map (R213). -/
def State.participants (s : State) : List Nat :=
  let others := (s.ctl.podMap.filter (fun p => p.2.state == 1 && p.2.pkg != Config.pkgId)).map (·.2.pkg)
  (Config.pkgId :: others).mergeSort (fun a b => decide (a ≤ b))

/-- Children of a dispatcher in ascending index; a fused cluster deals to itself as one child, which its first core
stands for (R211). -/
def State.kids (s : State) (gr : Grid) (n : Node) : List Node :=
  match n with
  | .pod => (s.participants.filter gr.acked.contains).map Node.pkg
  | .pkg _ => (List.range 8).map Node.die
  | .die d => (List.range 8).map (fun k => .clu (8 * d + k))
  | .clu x => if recFused gr.record then [.core (4 * x)] else (cluCores x).map Node.core
  | .core _ => []

/-- Whether a unit's die is pre-empted: nothing is dealt to it (R434). -/
def State.nodeHalted (s : State) (n : Node) : Bool :=
  match n with
  | .pod | .pkg _ => false
  | .die d => s.dieHalted d
  | .clu x => s.dieHalted (x / 8)
  | .core g => s.dieHalted (dieOf g)

/-- Capacity of a child as it stands; another package's is the one it last reported. -/
def State.capOf (s : State) (gr : Grid) (n : Node) : Nat :=
  if s.nodeHalted n then 0
  else
  match n with
  | .pod => 0
  | .pkg p => if p = Config.pkgId then s.pkgCap gr else ((gr.caps.find? (fun c => c.1 == n)).map (·.2)).getD 0
  | .die d => s.dieCap gr d
  | .clu x => s.cluCap gr x
  | .core g =>
    if recFused gr.record then (cluCores (cluOf g)).foldl (fun t k => t + s.coreCap gr.record k) 0 else s.coreCap gr.record g

/-- Record a capacity. -/
def Grid.setCap (gr : Grid) (n : Node) (c : Nat) : Grid := { gr with caps := (n, c) :: gr.caps.filter (fun x => x.1 != n) }

/-- A range of teams reaches a dispatcher, which knows its children's capacities and deals a round (R211). -/
def State.reachNode (s : State) (grid : Nat) (n : Node) (lo hi : Nat) : State :=
  (s.updGrid grid (fun gr => (s.kids gr n).foldl (fun (x : Grid) c => x.setCap c (s.capOf gr c))
    { gr with undealt := gr.undealt ++ [(n, lo, hi)] })).push [.dealRound n grid]

/-- The parent of a node of this package. -/
def nodeParent : Node → Node
  | .pod | .pkg _ => .pod
  | .die _ => .pkg Config.pkgId
  | .clu x => .die (x / 8)
  | .core g => .clu (cluOf g)

/-- CAPACITY_REPORT: a capacity reaches the parent, which deals a round (R210, R211). `n` is the capacity of another package; a
node of this one reports its own. Nothing is reported to a parent that holds no undealt team of the grid. -/
def execCapacityReport (child : Node) (grid n : Nat) (s : State) : Out :=
  match AMap.find? s.grids grid with
  | none => .next s
  | some gr =>
    if child = .pod ∨ gr.undealtAt (nodeParent child) = 0 then .next s
    else
      let c := match child with
        | .core g => if recFused gr.record then .core (4 * cluOf g) else child
        | _ => child
      let v := match child with
        | .pkg p => if p = Config.pkgId then s.pkgCap gr else n
        | _ => s.capOf gr c
      .next ((s.updGrid grid (fun x => x.setCap c v)).push [.dealRound (nodeParent child) grid])

/-- Capacity reports that are due: a child's capacity is no longer the one its parent has (R210). -/
def State.reportsDue (s : State) (n : Nat) (gr : Grid) : List Event :=
  (gr.undealt.map (·.1)).eraseDups.flatMap (fun p =>
    ((s.kids gr p).filter (fun c => (match c with
      | .pkg k => k == Config.pkgId
      | _ => true) && (gr.caps.find? (fun x => x.1 == c)).map (·.2) != some (s.capOf gr c))).map (fun c => Event.capacityReport c n))

/-- A pod-domain root mirrors what it has dealt, and what it has not, to the lowest other package (R220). -/
def State.mirror (s : State) (grid : Nat) : State :=
  match s.participants.find? (· != Config.pkgId), AMap.find? s.grids grid with
  | some p, some gr =>
    s.sendFabric p 0 (.podMirror p grid ((gr.undealt.filter (fun u => u.1 == .pod)).map (·.2)) gr.sent)
  | _, _ => s

/-- Teams go to a child. -/
def State.sendRange (s : State) (grid : Nat) (c : Node) (lo hi : Nat) : State :=
  match c with
  | .core g => s.push [.rangeReceipt g grid lo hi]
  | .pkg p =>
    if p = Config.pkgId then s.reachNode grid c lo hi
    else (s.updGrid grid (fun gr => { gr with sent := gr.sent ++ [(p, lo, hi)] })).sendFabric p 0 (.podRange p grid lo hi)
  | _ => s.reachNode grid c lo hi

/-- The ranges of a round: deal_round of R211. `acc` and `lo` as there. -/
def dealOut (a q total : Nat) : List (Node × Nat) → Nat → Nat → List (Node × Nat × Nat)
  | [], _, _ => []
  | (c, n) :: rest, acc, lo =>
    let hi := a + q * (acc + n) / total
    (if lo < hi then [(c, lo, hi)] else []) ++ dealOut a q total rest (acc + n) hi

/-- DEAL_ROUND. -/
def execDealRound (node : Node) (grid : Nat) (s : State) : Out :=
  match AMap.find? s.grids grid with
  | none => .next s
  | some gr =>
    match gr.undealt.find? (fun u => u.1 == node) with
    | none => .next s
    | some (_, a, b) =>
      let caps := (s.kids gr node).map (fun c =>
        (c, if s.nodeHalted c then 0 else ((gr.caps.find? (fun x => x.1 == c)).map (·.2)).getD 0))
      let total := caps.foldl (fun t c => t + c.2) 0
      if total = 0 ∨ gr.cancel then .next s
      else
        let q := min (b - a) (total * recGrain gr.record)
        let s1 := s.updGrid grid (fun x => { x with
          undealt := x.undealt.flatMap (fun u =>
            if u = (node, a, b) then (if a + q < b then [(node, a + q, b)] else []) else [u]) })
        let s2 := (dealOut a q total caps 0 a).foldl (fun s x => s.sendRange grid x.1 x.2.1 x.2.2) s1
        .next (if node = .pod then s2.mirror grid else s2)

/-! ## Splits and fusion (R78, R84) -/

/-- A cluster fuses or unfuses: all four L1s are written back and emptied. -/
def State.takeFusion (s : State) (x : Nat) (f : Bool) : State :=
  if (s.cluster x).fused = f then s
  else
    ((cluCores x).foldl (fun s g => s.evictLines (s.l1Agent g) ((s.core g).l1.map (·.1))) s).updCluster x (fun c => { c with fused := f })

/-- A core is prepared for a grid. -/
def State.prepare (s : State) (g r : Nat) : State :=
  let s1 := if s.cluEmpty (cluOf g) then s.takeFusion (cluOf g) (recFused r) else s
  (if recFused r then cluCores (cluOf g) else [g]).foldl (fun s k =>
    if (s.core k).empty ∧ ((s.core k).l1Banks ≠ recL1 r ∨ (s.core k).spmBanks ≠ recSpm r) then s.takeSplit k (recL1 r) (recSpm r)
    else s) s1

/-- The range context of teams [lo, hi) at the start of a grid (R212, R232). -/
def Grid.context (gr : Grid) (grid lo hi : Nat) : Holder :=
  let r := gr.record
  { kind := .range, grid := grid, lo := lo * recT r, hi := hi * recT r, pc := recEntry r, w := recW r, prio := recPrio r
    depth := recDepth r, asid := recAsid r }

/-- A range becomes a context or a piece; what cannot be written yet waits, and so does a range whose core or cluster has taken
another grid's split or fusion since its capacity was reported (R78, R84, R212). -/
def State.takeRange (s : State) (g grid lo hi : Nat) : State :=
  match AMap.find? s.grids grid with
  | none => s
  | some gr =>
    let later := s.updCore g (fun c => { c with ranges := c.ranges ++ [(grid, lo, hi)] })
    if !s.splitOk g gr.record then later
    else
      match (s.prepare g gr.record).place g 0 (gr.context grid lo hi) with
      | .ok s1 => s1
      | _ => later

/-- Teams of a grid that end at a core with no item run. -/
def State.stopTeams (s : State) (g grid lo hi : Nat) : State :=
  (List.range (hi - lo)).foldl (fun s k => s.endItems g grid (lo + k) (recT (s.grid grid).record) true) s

/-- RANGE_RECEIPT: teams [lo, hi) reach a core. -/
def execRangeReceipt (core grid lo hi : Nat) (s : State) : Out :=
  match AMap.find? s.grids grid with
  | none => .next s
  | some gr =>
    let s1 := s.updGrid grid (fun x => { x with
      dispatched := x.dispatched + (hi - lo), ran := if x.ran.contains core then x.ran else x.ran ++ [core] })
    if gr.cancel then .next (s1.stopTeams core grid lo hi) else .next (s1.takeRange core grid lo hi)

/-! ## Records in memory (R214, R217) -/

/-- Writes of the control die in order: the state after them, an error while one must wait. A write that faults is not made
and is reported; `stop` leaves out the rest. -/
def ctlWrites (asid : Nat) (stop : Bool) : List (Nat × List Byte) → State → Except State State
  | [], s => .ok s
  | (va, bs) :: rest, s =>
    match s.ctlWrite asid va bs with
    | .ok s1 _ => ctlWrites asid stop rest s1
    | .wait s1 => .error s1
    | .fault s1 cause kind a =>
      let s2 := s1.updCtl (fun c => { c with reports := c.reports ++ [cause * 2 ^ 72 + kind * 2 ^ 64 + a % 2 ^ 64] })
      if stop then .ok s2 else ctlWrites asid stop rest s2

/-- Faults counted for a grid, saturating. -/
def Grid.faultCount (gr : Grid) : Nat := min (gr.faults.foldl (fun t p => t + p.2) 0) 0xFFFFFFFF

/-- Teams dispatched, completed and cancelled over every package. -/
def Grid.sums (gr : Grid) : Nat × Nat × Nat :=
  gr.pods.foldl (fun t p => (t.1 + p.2.dispatched, t.2.1 + p.2.completed, t.2.2 + p.2.cancelled)) (gr.dispatched, gr.completed, gr.cancelled)

/-- Teams dropped undealt over every package (R216). -/
def Grid.allDropped (gr : Grid) : Nat := gr.pods.foldl (fun t p => t + p.2.dropped) gr.dropped

/-- Counts and records of the grid with those that other packages report (R217): counts add up to their limit, the four records of
lowest index stay, ties to the lower package, then die, then core. -/
def Grid.merged (gr : Grid) : Grid :=
  { gr with
    faults := gr.pods.foldl (fun m p =>
      p.2.faults.foldl (fun m f => AMap.upd m f.1 0 (fun n => min (n + f.2) 0xFFFFFFFF)) m) gr.faults
    records := (gr.pods.foldl (fun rs p => p.2.records.foldl (fun rs x => insertRecord (x.1, 256 * p.1 + x.2.1 % 256, x.2.2) rs) rs)
      (gr.records.map (fun x => (x.1, 256 * Config.pkgId + x.2.1, x.2.2)))).take 4 }

/-- Bytes 0-59 and 60-63 of a completion record (R214). -/
def completionParts (r status number d c x faults stamp : Nat) : List (Nat × List Byte) :=
  let a := recCompletion r
  if a = 0 then []
  else
    let v := number % 2 ^ 32 * 2 ^ 448 + recTag r * 2 ^ 384 + d % 2 ^ 48 * 2 ^ 336 + c % 2 ^ 48 * 2 ^ 288 + x % 2 ^ 48 * 2 ^ 240
      + faults * 2 ^ 208 + stamp % 2 ^ 48 * 2 ^ 160 + Config.pkgId % 2 ^ 11 * 2 ^ 149
    [(a, leBytes 60 v), (a + 60, leBytes 4 status)]

/-- The fault area (R217), a line at a time. -/
def Grid.faultParts (gr : Grid) : List (Nat × List Byte) :=
  let a := recFaultArea gr.record
  if a = 0 then []
  else
    let head := fitBytes 128 ((List.range 16).flatMap (fun c => leBytes 4 (AMap.getD gr.faults c 0)) ++ leBytes 4 gr.records.length)
    (a, head) :: (List.range 4).map (fun k => (a + 128 * (k + 1), leBytes 128 ((gr.records.getD k (0, 0, 0)).2.2)))

/-! ## Checking and accepting a record (R206, R207, R213, R214) -/

/-- The status that the first failing field of a record decides, 0 when none fails. -/
def recordStatus (s : State) (r : Nat) (window : Bool) : Nat :=
  let checks : List (Bool × Nat) :=
    [ (field r 1008 8 != 1, 0x100), (decide (1 < recDomain r), 0x107),
      (!(List.range 8).any (fun d => bitN (recDieMask r) d && (s.die d).online), 0x106), (bitN r 976, 0x101),
      (decide (1536 ≤ field r 901 11), 0x102), (field r 894 2 == 3, 0x103), (decide (recSpm r < 5 ∨ 21 < recSpm r), 0x103),
      (decide (recSpm r * 65536 < recTeamSpm r), 0x103), (decide (1 ≤ field r 871 5 ∧ field r 871 5 ≤ 15), 0x101),
      (window && field r 867 4 != 0, 0x108), (field r 848 3 != 0, 0x101), (decide (1024 < field r 837 11), 0x105),
      (field r 832 5 != 0, 0x101), (recEntry r % 8 != 0, 0x104), (field r 768 8 != 0, 0x101), (recArgs r % 64 != 0, 0x104),
      (field r 704 8 != 0, 0x101), (recFaultArea r % 128 != 0, 0x104), (field r 640 8 != 0, 0x101),
      (recCompletion r % 64 != 0, 0x104), (field r 576 8 != 0, 0x101), (recSpillBase r % 65536 != 0, 0x104),
      (recPieceBase r % 4096 != 0, 0x104), (field r 448 8 != 0, 0x101), (field r 0 384 != 0, 0x101) ]
  ((checks.find? (·.1)).map (·.2)).getD 0

/-- The final status of a grid reaches its future or its packet (R417, R452). -/
def State.gridStatus (s : State) (gr : Grid) (status : Nat) : State :=
  let s1 := s.push (gr.fut.toList.map (fun f => Event.futureComplete f status))
  match gr.packet with
  | none => s1
  | some p => s1.packetDone p status

/-- The number of a checked record, 0 for a refused one, reaches its journal entry and, for a window record, its slot of
the launch window (R442, R456). -/
def State.numbered (s : State) (gr : Grid) (n : Nat) : State :=
  match gr.packet.bind (fun p => (AMap.find? s.ctl.journal p).map (fun e => (p, e))) with
  | none => s
  | some (p, e) =>
    s.updCtl (fun c => if e.type = 0x10 then
        let w := AMap.getD c.lw e.queue {}
        let sl := field w.captured 1016 8
        { c with lw := AMap.set c.lw e.queue { w with grid := n, pending := false, lastSeal := sl, expected := sl % 255 + 1 } }
      else { c with journal := AMap.set c.journal p { e with result := n } })

/-- A record arrives at the package dispatcher: it is kept until it is checked. -/
def State.newGrid (s : State) (gr : Grid) : State :=
  { s with nextGrid := s.nextGrid + 1, grids := AMap.set s.grids s.nextGrid { gr with root := Config.pkgId } }.push
    [.launchRecordCheck s.nextGrid]

/-- LAUNCH_RECORD_CHECK: the record is refused, or the grid is accepted and dealt. -/
def execLaunchRecordCheck (idx : Nat) (s : State) : Out :=
  match AMap.find? s.grids idx with
  | none => .next s
  | some gr =>
    if gr.accepted then .next s
    else
      let r := gr.record
      match recordStatus s r gr.window with
      | 0 =>
        let cr := recCompletion r
        match ctlWrites (recAsid r) false (if cr = 0 then [] else [(cr + 60, leBytes 4 0xFFFFFFFF)]) s with
        | .error s0 => .next s0
        | .ok s1 =>
          let n := s1.ctl.nextGridNo
          let s2 := ((s1.updCtl (fun c => { c with nextGridNo := (n + 1) % 2 ^ 32 })).updGrid idx (fun x => { x with
            accepted := true, number := n, acked := [Config.pkgId] })).numbered gr n
          if gr.cancel then
            .next ((s2.updGrid idx (fun x => { x with dropped := recTeams r })).push [.gridComplete idx])
          else if recDomain r = 0 then .next (s2.reachNode idx (.pkg Config.pkgId) 0 (recTeams r))
          else
            let others := s2.participants.filter (· != Config.pkgId)
            .next (((others.foldl (fun s p => s.sendFabric p 0 (.podLaunch p r)) s2).reachNode idx .pod 0 (recTeams r)).mirror idx)
      | st =>
        let cr := recCompletion r
        let parts := if cr % 64 = 0 ∧ st ≠ 0x100 then completionParts r st 0 0 0 0 0 s.ctl.lclock else []
        match ctlWrites (recAsid r) false parts s with
        | .error s0 => .next s0
        | .ok s1 => .next (({ s1 with grids := AMap.erase s1.grids idx }.numbered gr 0).gridStatus gr st)

/-- POD_LAUNCH_ACK: the root may deal to the package. -/
def execPodLaunchAck (pkg grid : Nat) (s : State) : Out :=
  .next (s.updGrid grid (fun gr => { gr with
    acked := if gr.acked.contains pkg ∨ !gr.accepted then gr.acked else gr.acked ++ [pkg] }))

/-! ## Teams and completion (R180, R216) -/

/-- Whether a child of a team still runs. -/
def State.teamBusy (s : State) (grid team : Nat) : Bool := s.childRuns grid team

/-- A team's scratchpad and barrier block return to its core (R180). -/
def State.freeTeam (s : State) (g grid team : Nat) : State :=
  match s.teamAlloc g grid team with
  | none => s
  | some (k, a) =>
    s.updCore k (fun c => { c with
      allocs := c.allocs.filter (fun x => !(x.grid == grid && x.team == team))
      barriers := c.barriers.filter (fun p => p.1 / 16 != a.block) })

/-- Add teams to what a unit has to report. -/
def Grid.addReport (gr : Grid) (n : Node) (c x : Nat) : Grid :=
  let old := ((gr.reports.find? (fun r => r.1 == n)).map (·.2)).getD (0, 0)
  { gr with reports := (n, old.1 + c, old.2 + x) :: gr.reports.filter (fun r => r.1 != n) }

/-- TEAM_RETIRE: a team whose items have all exited retires, or waits in its die's dispatcher for its child grids. -/
def execTeamRetire (core grid team : Nat) (s : State) : Out :=
  match AMap.find? s.grids grid with
  | none => .next s
  | some gr =>
    if AMap.getD gr.teams team 0 ≠ recT gr.record then .next s
    else
      let s1 := s.freeTeam core grid team
      let d := dieOf core
      if s1.teamBusy grid team then
        .next (s1.updDie d (fun x => { x with
          teamRecords := if x.teamRecords.contains (core, grid, team) then x.teamRecords else x.teamRecords ++ [(core, grid, team)] }))
      else
        let stop := gr.teamStopped.contains team
        let s2 := s1.updDie d (fun x => { x with teamRecords := x.teamRecords.filter (· != (core, grid, team)) })
        .next ((s2.updGrid grid (fun x => { x.addReport (.core core) (if stop then 0 else 1) (if stop then 1 else 0) with
          teams := AMap.erase x.teams team
          teamStopped := x.teamStopped.filter (· != team) })).push [.completionReport (.core core) grid])

/-- The dispatcher above a unit. -/
def parentNode (pod : Bool) : Node → Option Node
  | .pod => none
  | .pkg _ => if pod then some .pod else none
  | .die _ => some (.pkg Config.pkgId)
  | .clu x => some (.die (x / 8))
  | .core g => some (.clu (cluOf g))

/-- COMPLETION_REPORT: a unit's sum goes to its parent, with its clock; the root adds it to the grid's. The rest is
what another package reports. -/
def execCompletionReport (node : Node) (grid dispatched completed : Nat) (rest : RestReport) (s : State) : Out :=
  match AMap.find? s.grids grid with
  | none => .next s
  | some gr =>
    let foreign := match node with
      | .pkg p => if p = Config.pkgId then none else some p
      | _ => none
    match foreign with
    | some p =>
      .next (((s.updGrid grid (fun y => { y with pods := AMap.set y.pods p { toRestReport := rest, dispatched := dispatched, completed := completed } })).updCtl (fun k => { k with
        lclock := clockMax k.lclock rest.clock })).push [.gridComplete grid])
    | none =>
      let v := ((gr.reports.find? (fun r => r.1 == node)).map (·.2)).getD (0, 0)
      let s1 := s.updGrid grid (fun y => { y with reports := y.reports.filter (fun r => r.1 != node) })
      let s2 := match node with
        | .core g => s1.updCtl (fun k => { k with lclock := clockMax k.lclock (s.core g).lclock })
        | _ => s1
      match parentNode (recDomain gr.record == 1) node with
      | some up => .next ((s2.updGrid grid (fun y => y.addReport up v.1 v.2)).push [.completionReport up grid])
      | none =>
        .next ((s2.updGrid grid (fun y => { y with completed := y.completed + v.1, cancelled := y.cancelled + v.2 })).push
          [.gridComplete grid])

/-- The status of a complete grid (R215). -/
def Grid.status (gr : Grid) : Nat := if gr.failed then 3 else if gr.cancel then 2 else if gr.faultCount = 0 then 0 else 1

/-- The teams that wait for a grid's parent to retire. -/
def State.parentRecords (s : State) (gr : Grid) : List Event :=
  match gr.parent with
  | none => []
  | some (pg, pt) =>
    s.dies.flatMap (fun d => (d.2.teamRecords.filter (fun r => r.2.1 == pg && r.2.2 == pt)).map (fun r => Event.teamRetire r.1 pg pt))

/-- The completion token of a grid that `glaunch` launched: the root's clock goes with it to the cores of the holders that wait for
it, and its stamp to who observes it (R131, R133). -/
def State.gridToken (s : State) (gr : Grid) : State :=
  match gr.fut with
  | none => s
  | some f =>
    let t := s.ctl.lclock
    let tagged := fun (h : Holder) => h.tags.any (fun p => p.2 == f)
    let s1 := { s with futures := s.futures.map (fun (p : Nat × Future) => (p.1, if p.1 = f then { p.2 with stamp := t } else p.2)) }
    let s2 := s1.mapHolders (fun h =>
      if tagged h then { h with cmdStamp := if h.cmdStamp = 0 then t else serialMax h.cmdStamp t } else h)
    ((s.cores.filter (fun p => p.2.slots.any (fun x => tagged x.2))).map (·.1)).foldl (fun s g => s.hears (.core g) t) s2

/-- GRID_COMPLETE: once the whole sum is in and the grid's engine commands have completed. -/
def execGridComplete (grid : Nat) (s : State) : Out :=
  match AMap.find? s.grids grid with
  | none => .next s
  | some gr =>
    let t := gr.sums
    if !gr.accepted ∨ gr.done.isSome ∨ t.2.1 + t.2.2 + gr.allDropped < recTeams gr.record ∨ s.commands.any (fun c => c.2.grid == grid && c.2.packet.isNone)
    then .next s
    else
      let r := gr.record
      let all := gr.merged
      let st := all.status
      match ctlWrites (recAsid r) true all.faultParts s with
      | .error s0 => .next s0
      | .ok s1 =>
        match ctlWrites (recAsid r) false (completionParts r st gr.number t.1 t.2.1 t.2.2 all.faultCount s1.ctl.lclock) s1 with
        | .error s0 => .next s0
        | .ok s2 =>
          .next ((((s2.updGrid grid (fun x => { x with done := some st })).gridToken gr).gridStatus gr st).push (s2.parentRecords gr))

/-! ## Cancellation (R218, R219) -/

/-- Waits in an instruction of R204, which a cancel ends at once. -/
def Wait.yields : Wait → Bool
  | .barrier _ _ | .workQueue _ | .event | .future _ | .batch _ | .grids | .fold => true
  | .counter k => decide (k < 8)
  | _ => false

/-- What a cancel does at a core: pieces, bins and waiting ranges of the grid end, blocked contexts stop. -/
def State.cancelAt (s : State) (grid g : Nat) : State :=
  let c := s.core g
  let gone := c.pieces.filter (fun p => p.holder.grid == grid)
  let s1 := gone.foldl (fun s p =>
    ((p.holder.accs.foldl (fun s a => if a.2.state = 0 then s else s.dropTile (cluOf g) a.2.tile) s).endMembers g p.holder true).push
      (p.holder.cmds.map Event.commandComplete)) s
  let bins := c.bins.filter (fun b => b.2.grid == grid)
  let s2 := bins.foldl (fun s b => s.endItems g grid b.2.team b.2.items.length true) s1
  let s3 := s2.updCore g (fun c => { c with
    pieces := c.pieces.filter (fun p => p.holder.grid != grid)
    bins := c.bins.filter (fun b => b.2.grid != grid)
    ranges := c.ranges.filter (fun r => r.1 != grid) })
  let s4 := (c.ranges.filter (fun r => r.1 == grid)).foldl (fun s r => s.stopTeams g grid r.2.1 r.2.2) s3
  (c.slots.filter (fun p => p.2.grid == grid && (match p.2.status with
    | .blocked w => w.yields
    | _ => false))).foldl (fun s p => s.stopHolder g p.1) s4

/-- GRID_CANCEL: a cancel before acceptance is held until then; one after completion has no effect. A context that comes to
block later stops too. -/
def execGridCancel (grid : Nat) (s : State) : Out :=
  match AMap.find? s.grids grid with
  | none => .next s
  | some gr =>
    if gr.done.isSome then .next s
    else if gr.cancel then .next ((s.cores.map (·.1)).foldl (fun s g => s.cancelAt grid g) s)
    else if !gr.accepted then .next (s.updGrid grid (fun x => { x with cancel := true }))
    else
      let s1 := s.updGrid grid (fun x => { x with
        cancel := true
        dropped := x.dropped + x.undealt.foldl (fun t u => t + (u.2.2 - u.2.1)) 0
        undealt := [] })
      let s2 := (gr.acked.filter (· != Config.pkgId)).foldl (fun s p => s.sendFabric p 0 (.podCancel p grid)) s1
      let s3 := (s2.cores.map (·.1)).foldl (fun s g => s.cancelAt grid g) s2
      let s4 := ((s3.commands.filter (fun c => c.2.grid == grid && c.2.packet.isNone)).map (·.1)).foldl (fun s c => s.cancelCmd c) s3
      .next (s4.push (((s4.grids.filter (fun p => p.2.done.isNone && (p.2.parent.map (·.1)) == some grid)).map
        (fun p => Event.gridCancel p.1)) ++ [.gridComplete grid]))

/-! ## Packages (R213, R220, R221) -/

/-- The package that has taken over from a lost one, under the pod map (R474). -/
def State.spareFor (s : State) (pkg : Nat) : Option Nat :=
  (List.find? (fun (p : Nat × PodEntry) => p.2.state == 1 && p.2.replaced == pkg && p.2.pkg != pkg) s.ctl.podMap).map (·.2.pkg)

/-- RE_DEAL: the ranges sent to a lost package go to its spare, or the grid is cancelled and fails. -/
def execReDeal (grid pkg : Nat) (s : State) : Out :=
  match AMap.find? s.grids grid with
  | none => .next s
  | some gr =>
    if gr.done.isSome ∨ !gr.accepted ∨ recDomain gr.record ≠ 1 then .next s
    else
      let lost := gr.sent.filter (fun x => x.1 == pkg)
      let away := fun (x : Grid) => { x with sent := x.sent.filter (fun y => y.1 != pkg), acked := x.acked.filter (· != pkg) }
      match (if recRestart gr.record then s.spareFor pkg else none) with
      | some sp =>
        let s1 := s.updGrid grid (fun x => { away x with
          pods := AMap.erase x.pods pkg, acked := (away x).acked ++ (if (away x).acked.contains sp then [] else [sp]) })
        .next ((lost.foldl (fun s x => s.sendRange grid (.pkg sp) x.2.1 x.2.2) s1).mirror grid)
      | none =>
        let n := lost.foldl (fun t x => t + (x.2.2 - x.2.1)) 0
        let v := AMap.getD gr.pods pkg {}
        if lost.isEmpty ∧ gr.acked.contains pkg then .next (s.updGrid grid away)
        else
          .next ((s.updGrid grid (fun x => { away x with
            failed := true, pods := AMap.set x.pods pkg { v with cancelled := n - v.completed - v.dropped } })).push [.gridCancel grid])

/-- POD_ACK_TIMEOUT: a package that has not acknowledged is treated as lost. -/
def execPodAckTimeout (pkg grid : Nat) (s : State) : Out :=
  match AMap.find? s.grids grid with
  | none => .next s
  | some gr =>
    if gr.accepted ∧ s.participants.contains pkg ∧ !gr.acked.contains pkg then .next (s.push [.reDeal grid pkg]) else .next s

/-- ROOT_FAILOVER: this package, as the mirror, becomes root of the lost package's grids. -/
def execRootFailover (pkg : Nat) (s : State) : Out :=
  let mine := (s.grids.filter (fun p => p.2.root == pkg && pkg != Config.pkgId && p.2.done.isNone)).map (·.1)
  let mirror := ((s.participants.filter (· != pkg)).head?) == some Config.pkgId
  if mirror then
    .next ((mine.foldl (fun s g => s.updGrid g (fun x => { x with root := Config.pkgId })) s).push (mine.map (Event.dealRound .pod)))
  else .next s

/-! ## glaunch, gcancel, gwait, fcancel (R416-R419) -/

/-- The grid of a record that `glaunch` has read: released by the issue, its future tags D (R417). -/
def launchFrom (s : State) (g q : Nat) (i : Instr) (d : Nat) (h : Holder) (v : Nat) : State :=
  let r := setField (setField v 867 4 h.depth) 992 16 h.asid
  let (s1, f) := s.newFuture (.grid s.nextGrid)
  let s2 := s1.newGrid { record := r, number := 0, parent := some (h.grid, h.team), fut := some f, issuer := some g }
  s2.retire g q i (h.tagWith d f)

/-- Scope of a launch token (R132). -/
def launchScope (v : Nat) : Scope := if recDomain v = 0 then .dev else .pod

/-- `glaunch`. -/
def execGlaunch (gd : Guard) (d a : Nat) (s : State) : Out :=
  let i := Instr.glaunch gd d a
  issue i s fun g q h =>
    match (if h.kind = .range then s.needTeam g q h else none) with
    | some s1 => .next s1
    | none =>
      if h.kind = .range then .next (s.unfoldHere g q h)
      else
        let act := h.activeLanes gd
        let addr := (h.readS64 a).toNat
        if act = 0#96 then .next (s.retire g q i h)
        else
          match s.needTeam g q h with
          | some s1 => .next s1
          | none =>
            if 10 ≤ h.depth then .next (s.trapHere g q h 8 0 10)
            else if 64 ≤ h.tags.length ∧ !AMap.has h.tags d then .next (s.block g q h .tagsFull)
            else if addr % 128 ≠ 0 then
              let (s1, f) := s.newFuture .none
              .next ((s1.retire g q i (h.tagWith d f)).push [.futureComplete f 0x104])
            else if 1024 ≤ (s.core g).taster.length then .next (s.block g q h .tasterFull)
            else
              let ln := (lowestLane act).getD 0
              let c := holderCtx s g h true
              let fault := fun (s : State) (cause kind tval p : Nat) => s.takeTrap g q h
                { cause := cause, kind := kind, lane := ln, tval := tval, payload := p, pc := h.pc, tpc := h.pc }
              match s.resolve c .glob addr 128 .load true with
              | .fault cause kind t s1 => .next (fault s1 cause kind t 0)
              | .parked s1 => .next (s1.block g q h (s1.walkWait g))
              | .ok t s1 =>
                match s1.readTarget c t with
                | .poison k _ => .next (fault s1 11 k addr 0)
                | .contain p _ => .next (fault s1 10 (field p 104 8) (faultVal 10 0 p) (withScope p 0))
                | .busy s2 => .next (s2.block g q h .lineBusy)
                | .ext parts _ _ _ s2 =>
                  let (pa, ro) := match parts with
                    | [] => (0, false)
                    | x :: _ => (x.pa, x.ro)
                  let (s3, h1) := s2.askExt g q h
                    { idx := none, pa := pa, size := 128, data := none, lane := ln, ea := addr, tag := 0, pc := h.pc, launch := true
                      whole := ro } none
                  .next (s3.block g q h1 .answer)
                | .ok bs lo hi s2 =>
                  .next (releasePoint s2 g q h (launchScope (leValue bs)) fun s3 =>
                    launchFrom (s3.tasterPush g { max := hi, min := lo, sig := t.signature, slot := q, kind := 0, order := 0
                                                  scope := 0, sector := t.sector }).1 g q i d h (leValue bs))

/-- Whether a guard lets an instruction act once for its holder (R391, R419). -/
def Holder.actsOnce (h : Holder) (gd : Guard) : Bool :=
  match h.kind with
  | .range => match h.rangeGuard gd with | .none => false | _ => true
  | _ => h.activeLanes gd != 0#96

/-- The grid that a tagged register's future names. -/
def State.gridOf (s : State) (h : Holder) (a : Nat) : Option Nat :=
  match (AMap.find? h.tags a).bind (AMap.find? s.futures) with
  | some { op := .grid id, .. } => some id
  | _ => none

/-- `gcancel`. -/
def execGcancel (gd : Guard) (a : Nat) (s : State) : Out :=
  issue (.gcancel gd a) s fun g q h =>
    match s.needTeam g q h with
    | some s1 => .next s1
    | none =>
      let s1 := s.retire g q (.gcancel gd a) h
      if h.actsOnce gd then .next (s1.push ((s.gridOf h a).toList.map Event.gridCancel)) else .next s1

/-- `gwait`. -/
def execGwait (gd : Guard) (a : Nat) (s : State) : Out :=
  issue (.gwait gd a) s fun g q h =>
    match s.needTeam g q h with
    | some s1 => .next s1
    | none =>
      if h.actsOnce gd then .next (fwaitOn (.gwait gd a) a s g q h) else .next (s.retire g q (.gwait gd a) h)

/-- `gwait.all`. -/
def execGwaitAll (gd : Guard) (s : State) : Out :=
  issue (.gwaitAll gd) s fun g q h =>
    match s.needTeam g q h with
    | some s1 => .next s1
    | none =>
      if h.actsOnce gd ∧ s.childRuns h.grid (h.teamOf (s.tsize h)) then .next (s.block g q h .grids)
      else .next ((if h.actsOnce gd then s.observe g q h.cmdStamp else s).retire g q (.gwaitAll gd) { h with watchdog := if h.status = .ready then h.watchdog else 0 })

/-- `fcancel`. -/
def execFcancel (a : Nat) (s : State) : Out :=
  issue (.fcancel a) s fun g q h =>
    let s1 := s.retire g q (.fcancel a) h
    match (AMap.find? h.tags a).bind (AMap.find? s.futures) with
    | some { op := .command id, .. } => .next (s1.cancelCmd id)
    | some { op := .grid id, .. } => .next (s1.push [.gridCancel id])
    | _ => .next s1

end Sys2Proof.Machine
end

