-- ==== Sys2Proof/Machine/System.lean ====
section
/-! DEFINITION. System instructions (spec 12 R327-R331, 09 R243, R244), trap entry at a boundary (16 R423-R431, R512),
dispositions and HALTCTL (12 R328, 19 R477, R478), the watchdog (07 R205). -/

namespace Sys2Proof.Machine

/-! ## Traps at a boundary -/

/-- Rank of a pending trap at a boundary (R423): traps of instructions, engine faults, watchdog, single step. -/
def PendTrap.rank (t : PendTrap) : Nat :=
  if t.engine then 1 else if t.cause = 9 then 2 else if t.cause = 13 then 3 else 0

/-- The pending trap that is taken next; those of one rank go in order. -/
def Holder.nextTrap (h : Holder) : Option (PendTrap × List PendTrap) :=
  match (List.range 4).findSome? (fun k => h.pend.find? (fun t => t.rank == k)) with
  | none => none
  | some t => some (t, h.pend.erase t)

/-- PC and `%tpc` of a trap at a boundary (R421, R427, R428, R512). -/
def PendTrap.placed (t : PendTrap) (pc watchdog : Nat) : PendTrap :=
  if t.rank = 0 then (if t.queued then { t with tpc := pc } else t)
  else if t.cause = 9 ∧ !t.engine then { t with pc := pc, tpc := pc, tval := watchdog }
  else { t with pc := pc, tpc := pc }

/-- The command of an engine fault has been told to its holder. -/
def State.markTold (s : State) (h : Holder) (t : PendTrap) : State :=
  if t.engine then
    { s with commands := s.commands.map (fun p => (p.1, if h.cmds.contains p.1 && t.ofCmd p.2 then { p.2 with told := true } else p.2)) }
  else s

/-- A holder leaves the instruction it is blocked in, which counts as not issued (R431). -/
def State.leaveBlock (s : State) (g q : Nat) : State :=
  s.updCtl (fun c => { c with
    wqs := c.wqs.map (fun p => (p.1, { p.2 with sleepers := p.2.sleepers.filter (fun a => !(a.core == g && a.slot == q)) })) })

/-- Whether a push or pop of a slot is on its way to the work-queue unit. -/
def State.wqFlying (s : State) (g q : Nat) : Bool := s.ctl.wqArrivals.any (fun a => a.core == g && a.slot == q)

/-- Take the next pending trap of a holder, when it stands at a boundary. -/
def takePending (s : State) (g q : Nat) : State :=
  match s.holder? g q with
  | none => s
  | some h =>
    if !s.coreRuns g ∨ h.mode ∨ h.status = .halted ∨ h.status = .awaiting ∨ h.status = .stopped ∨ !trapReady s g q h ∨ s.wqFlying g q then s
    else
      match h.nextTrap with
      | none => s
      | some (t, rest) =>
        let t1 := t.placed h.pc h.watchdog
        let h1 := { h with pend := rest, status := .ready, ev := none }
        ((s.leaveBlock g q).markTold h t1).raise g q h1 t1

/-- TRAP_ENTRY. -/
def execTrapEntry (core slot : Nat) (s : State) : Out := .next (takePending s core slot)

/-- DEFERRED_TRAP (R512): a deferred failure is taken. -/
def execDeferredTrap (core slot : Nat) (s : State) : Out :=
  match s.holder? core slot with
  | some h => if h.pend.any (fun t => t.queued && t.rank == 0) then .next (takePending s core slot) else .next s
  | none => .next s

/-- ENGINE_FAULT_DELIVERY (R431): the holder's next boundary takes it, out of a blocking instruction too. -/
def execEngineFaultDelivery (core slot : Nat) (s : State) : Out :=
  match s.holder? core slot with
  | some h => if h.pend.any (·.engine) then .next (takePending s core slot) else .next s
  | none => .next s

/-- WATCHDOG_EXPIRY (R205). -/
def execWatchdogExpiry (core slot : Nat) (s : State) : Out :=
  match s.holder? core slot with
  | none => .next s
  | some h =>
    if recWatchdog (s.recOf h) ≤ h.watchdog ∧ !h.pend.any (fun t => t.cause == 9 && !t.engine) then
      .next ((s.putHolder core slot { h with pend := h.pend ++ [{ cause := 9 }] }).push [.trapEntry core slot])
    else .next s

/-- SINGLE_STEP (R478). -/
def execSingleStep (core slot : Nat) (s : State) : Out :=
  match s.holder? core slot with
  | none => .next s
  | some h =>
    if h.stepping then
      .next ((s.putHolder core slot { h with stepping := false, pend := h.pend ++ [{ cause := 13, tval := h.pc }] }).push
        [.trapEntry core slot])
    else .next s

/-- BREAKPOINT_HIT (R478). -/
def execBreakpointHit (core slot bp : Nat) (s : State) : Out :=
  match s.holder? core slot with
  | none => .next s
  | some h =>
    if (s.core core).breakpoint h = some bp then
      .next (s.takeTrap core slot h { cause := 12, kind := 1, tval := 0x100 + bp, pc := h.pc, tpc := h.pc })
    else .next s

/-! ## trap, tret, tesc, halt -/

/-- `trap n`. -/
def execTrap (n : Nat) (s : State) : Out :=
  issue (.trap n) s fun g q h =>
    .next (s.takeTrap g q h { cause := 12, tval := n, pc := h.pc, tpc := h.pc + 8 })

/-- A holder resumes as `tret` does; the command whose fault its handler took goes on (R428, R431). -/
def resumeHolder (s : State) (g q : Nat) (h : Holder) : State :=
  let s1 := (s.putHolder g q h.leaveTrap).unsync g q
  if bitN h.tcause 16 then
    match h.cmds.find? (fun id => match AMap.find? s.commands id with
      | some c => c.queue == field h.trapFrame 733 4 && c.seq == field h.trapFrame 701 32 && c.st == .suspended
      | none => false) with
    | some id => s1.resumeCmd id
    | none => s1
  else s1

/-- `tret`. -/
def execTret (s : State) : Out :=
  issue .tret s fun g q h =>
    if trapReady s g q h then .next ((resumeHolder s g q h).countIssue g q) else .next (s.block g q h .window)

/-- `tesc`. -/
def execTesc (s : State) : Out :=
  issue .tesc s fun g q h => .next ((s.escalate g q h h.trapFrame).countIssue g q)

/-- A slot leaves the active set; a ready pending one takes the place. -/
def State.deactivate (s : State) (g q : Nat) : State :=
  match s.pendingSlot g with
  | some _ => s.vacate g q
  | none => s.updCore g (fun c => { c with active := c.active.filter (· != q) })

/-- `halt`. -/
def execHalt (s : State) : Out :=
  issue .halt s fun g q h => .next ((s.issued g q { h.advance 8 with status := .halted }).deactivate g q)

/-- A holder that waits for a disposition. -/
def withAwaiting (core slot : Nat) (s : State) (f : Holder → State) : Out :=
  match s.holder? core slot with
  | some h => if h.status = .awaiting then .next (f h) else .next s
  | none => .next s

/-- DISPOSITION_RESUME. -/
def execDispositionResume (core slot : Nat) (s : State) : Out :=
  withAwaiting core slot s fun h => resumeHolder s core slot h

/-- DISPOSITION_END: as if every live lane executed `exit`. -/
def execDispositionEnd (core slot : Nat) (s : State) : Out :=
  withAwaiting core slot s fun h =>
    if needsRecord s core h (laneCount h.live) then s else s.endHolder core slot h false

/-- DISPOSITION_CANCEL. -/
def execDispositionCancel (core slot : Nat) (s : State) : Out :=
  withAwaiting core slot s fun h => (s.push [.gridCancel h.grid]).endHolder core slot h true

/-- HALT_RESUME (HALTCTL command 1). -/
def execHaltResume (core slot : Nat) (s : State) : Out :=
  match s.holder? core slot with
  | some h =>
    if h.status = .halted then
      .next ((s.putHolder core slot { h with status := .ready }).updCore core (fun c => { c with
        active := if c.active.length < 8 ∧ !c.active.contains slot then c.active ++ [slot] else c.active }))
    else .next s
  | none => .next s

/-- HALT_END (HALTCTL command 2). -/
def execHaltEnd (core slot : Nat) (s : State) : Out :=
  match s.holder? core slot with
  | some h => if h.status = .halted ∧ !needsRecord s core h (laneCount h.live) then .next (s.endHolder core slot h false) else .next s
  | none => .next s

/-! ## Special registers (R243, R244, R329) -/

/-- Value of a special register for a holder. -/
def specialValue (s : State) (g q : Nat) (h : Holder) (num : Nat) : Nat :=
  let r := s.recOf h
  match num with
  | 0x00 => h.teamOf (recT r) % 2 ^ 48
  | 0x02 => recTeams r
  | 0x04 => recT r
  | 0x05 => q
  | 0x06 => g
  | 0x07 => Config.pkgId
  | 0x08 => h.depth
  | 0x09 => h.prio
  | 0x0A => h.w
  | 0x0B => h.asid
  | 0x0C => (s.grid h.grid).number
  | 0x0E => recArgs r
  | 0x10 => s.clock
  | 0x12 => h.fflags
  | 0x20 => (s.core g).tbase
  | 0x22 => h.tcause
  | 0x24 => h.tval
  | 0x26 => h.tpc
  | 0x28 => if h.mode then 1 else 0
  | _ => 0

/-- `sget`: `%team` of several teams makes the team cut first; `%fflags` waits for earlier float atomics. -/
def execSget (d num : Nat) (s : State) : Out :=
  issue (.sget d num) s fun g q h =>
    if num = 0x12 ∧ s.flagsOpen g q h then .next (s.block g q h .flags)
    else if num = 0 ∧ h.multiTeam (s.tsize h) then
      if trapReady s g q h then .next (s.afterPlace g q h (s.teamCut g q h) id) else .next (s.block g q h h.settleWait)
    else .next (s.retire g q (.sget d num) (h.writeW ((sysWide num).getD false) d (specialValue s g q h num)))

/-- `sset`. -/
def execSset (a num : Nat) (s : State) : Out :=
  issue (.sset a num) s fun g q h =>
    let v := h.readW ((sysWide num).getD false) a
    if num = 0x12 then
      if s.flagsOpen g q h then .next (s.block g q h .flags)
      else .next (s.retire g q (.sset a num) { h with fflags := v % 32 })
    else if num = 0x20 then
      .next ((s.updCore g (fun c => { c with tbase := v / 8 * 8 })).retire g q (.sset a num) h)
    else .next (s.retire g q (.sset a num) { h with tpc := v, replay := [], frameDone := 0#96 })

/-! ## Invalidations (R64-R69, R330) -/

/-- Whether accesses that a range's old translations serve are outstanding: accesses sent out, matrix operands still to
be read, engine requests at a peer (R65, R401). `blocks` are those of the TLB entries removed, which may reach beyond the
range. -/
def State.rangeBusy (s : State) (all : Bool) (asid base len : Nat) (blocks : List (Nat × Nat × Nat)) : Bool :=
  let hit := fun (a va : Nat) => ((all || a == asid) && decide (base ≤ va) && decide (va < base + len))
    || blocks.any (fun b => b.1 == a && decide (b.2.1 ≤ va) && decide (va < b.2.1 + b.2.2))
  s.cores.any (fun c => c.2.slots.any (fun p => p.2.ext.any (fun e => hit p.2.asid e.ea)))
    || s.clusters.any (fun x => x.2.table.any (fun e => (all || e.asid == asid)
        && (meets base len e.b (16384 * fmtBytes (fbB e.fb)) || meets base len (field e.fb 144 56 + 4 * e.i) 4)
        && !(match x.2.array with
          | some p => p.entries.contains e.id
          | none => false)))
    || s.commands.any (fun c => c.2.asked && (all || c.2.asid == asid))

/-- An invalidation starts: the old translations leave every TLB (R65). -/
def State.startInval (s : State) (x : Inval) : State :=
  let id := s.nextOp
  let y := { x with blocks := s.sweptBlocks x.all x.asid x.base x.len }
  ({ s with nextOp := id + 1 }.sweep x.all x.asid x.base x.len |>.updCtl (fun c => { c with invals := AMap.set c.invals id y })).push
    [.invalWalkRestart id, .invalidationComplete id]

/-- Its end reaches whoever asked for it. -/
def State.opDone (s : State) (fut packet : Option Nat) (status : Nat) : State :=
  let s1 := s.push (fut.toList.map (fun f => Event.futureComplete f status))
  match packet with
  | none => s1
  | some p => s1.packetDone p status

/-- INVAL_WALK_RESTART (R67): walks of the range that no flip holds start again, with the access that needs them. -/
def execInvalWalkRestart (id : Nat) (s : State) : Out :=
  match AMap.find? s.ctl.invals id with
  | none => .next s
  | some x =>
    .next (s.endWalks (fun w =>
      (x.all || w.asid == x.asid) && meets x.base x.len (w.page * 4096) 4096 && !s.flipHolds w.asid (w.page * 4096)))

/-- INVALIDATION_COMPLETE. -/
def execInvalidationComplete (id : Nat) (s : State) : Out :=
  match AMap.find? s.ctl.invals id with
  | none => .next s
  | some x =>
    if s.rangeBusy x.all x.asid x.base x.len x.blocks then .next s
    else .next ((s.updCtl (fun c => { c with invals := AMap.erase c.invals id })).opDone x.fut x.packet 0)

/-- Tag D with a future of an operation that is complete at once. -/
def doneAtOnce (s : State) (g q : Nat) (i : Instr) (h : Holder) (d status : Nat) : State :=
  let (s1, f) := s.newFuture .none
  (s1.retire g q i (h.tagWith d f)).push [.futureComplete f status]

/-- `tlbinv`. -/
def execTlbinv (d a b c : Nat) (s : State) : Out :=
  issue (.tlbinv d a b c) s fun g q h =>
    let i := Instr.tlbinv d a b c
    let v := (h.readS c).toNat
    let r := widen (h.readS64 a).toNat (h.readS64 b).toNat
    if 64 ≤ h.tags.length ∧ !AMap.has h.tags d then .next (s.block g q h .tagsFull)
    else if r.2 = 0 then .next (doneAtOnce s g q i h d 0)
    else if 64 ≤ s.ctl.invals.length then .next (s.block g q h .invals)
    else
      let (s1, f) := s.newFuture (.inval s.nextOp)
      .next ((s1.startInval { asid := v % 65536, all := bitN v 16, base := r.1, len := r.2, fut := some f }).retire g q i (h.tagWith d f))

/-! ## Flips (R71-R75, R331) -/

/-- The leaves of a range with the addresses of their entries, or the status of a range that cannot be flipped (R72): that of
the first failure in address order where both occur (DESIGN CHOICE, LOG 19). -/
def flipLeaves (s : State) (asid base top : Nat) : Nat → Nat → List (TlbEntry × Nat) → Except Nat (List (TlbEntry × Nat))
  | 0, _, acc => .ok acc
  | n + 1, va, acc =>
    if top ≤ va then .ok acc
    else
      match walkTables s asid va with
      | .error _ => .error 2
      | .ok (e, ea) =>
        match regionOf s e.pa with
        | .hbm | .ddr =>
          if e.va < base ∨ top < e.va + e.size then .error 1
          else flipLeaves s asid base top n (e.va + e.size) (acc ++ [(e, ea)])
        | _ => .error 2

/-- Leaves of a whole range. -/
def State.leavesOf (s : State) (asid base len : Nat) : Except Nat (List (TlbEntry × Nat)) :=
  flipLeaves s asid base (base + len) (len / 4096 + 1) base []

/-- The check of a flip: the status at which it ends at once, or its leaves. -/
def State.flipCheck (s : State) (x : Flip) : Except Nat (List (TlbEntry × Nat)) :=
  match s.leavesOf x.asid x.base x.len with
  | .error st => .error st
  | .ok ls => if ls.all (fun p => pteO p.1.attr == x.host) then .error 3 else .ok ls

/-- Whether a flip's range overlaps an earlier one in flight. -/
def State.flipOverlaps (s : State) (id : Nat) (x : Flip) : Bool :=
  s.ctl.flips.any (fun p => decide (p.1 < id) && p.2.asid == x.asid && meets x.base x.len p.2.base p.2.len)

/-- A flip passes its check and begins: shootdown and block record (R73). -/
def State.beginFlip (s : State) (id : Nat) (x : Flip) : State :=
  match s.flipCheck x with
  | .error st => (s.updCtl (fun c => { c with flips := AMap.erase c.flips id })).opDone x.fut x.packet st
  | .ok ls =>
    let y := { x with waiting := false, leaves := ls, blocks := s.sweptBlocks false x.asid x.base x.len }
    ((s.sweep false x.asid x.base x.len).updCtl (fun c => { c with flips := AMap.set c.flips id y })).push [.flipComplete id]

/-- A flip is accepted; one that overlaps another waits (R74). -/
def State.startFlip (s : State) (x : Flip) : State :=
  let id := s.nextOp
  let s1 := { s with nextOp := id + 1 }.updCtl (fun c => { c with flips := AMap.set c.flips id { x with waiting := true } })
  if s1.flipOverlaps id x then s1 else s1.beginFlip id x

/-- Lines of frames of which anything above memory knows. -/
def State.knownLines (s : State) (lo hi : Nat) : List Nat :=
  let in_ := fun (l : Nat) => decide (lo ≤ l) && decide (l < hi)
  let a := s.dies.flatMap (fun d => (d.2.dir.map (·.1) ++ d.2.msc.map (·.1)).filter in_)
  (a ++ (s.backing.map (·.1)).filter in_ ++ (s.ctl.filter.map (·.1)).filter in_).eraseDups

/-- A line leaves the filter: its last record closes. -/
def State.freeFilter (s : State) (line : Nat) : State :=
  (s.closeRecord line (s.dirOf line).kind).updCtl (fun c => { c with filter := AMap.erase c.filter line })

/-- A line is written back to memory and leaves every copy (R73 step 3); one in N stays as it is (R94). -/
def State.writeBackLine (s : State) (line : Nat) : State :=
  let s1 := s.recallOut line
  if (s1.dirOf line).st = .n then s1
  else
    let s2 := (s1.memAccept line).dropMsc line
    if AMap.has s2.ctl.filter line then s2.freeFilter line else s2

/-- Line ranges of a flip's frames. -/
def frameLines (ls : List (TlbEntry × Nat)) : List (Nat × Nat) := ls.map (fun p => (p.1.pa / 128, (p.1.pa + p.1.size) / 128))

/-- Addresses of every entry that holds a leaf or range: the 16 of a 64 KiB leaf, the replicas of a range (R49, R50). -/
def entryCopies (e : TlbEntry) (ea : Nat) : List Nat :=
  let n := if e.range then e.size / 2 ^ (12 + 9 * leafLevel e.size) else if e.size = 65536 then 16 else 1
  (List.range n).map (fun i => ea - ea % (8 * n) + 8 * i)

/-- Rewrite the O bit of entries, each by an atomic update at its home (R73 step 4). An entry in poison keeps what it
holds. Answers none while one must wait for its line. -/
def rewriteO (host : Bool) : List Nat → State → Option State
  | [], s => some s
  | ea :: eas, s =>
    match s.update64 ea (fun v => setField v 9 1 (if host then 1 else 0)) with
    | .ok _ s1 | .poison _ s1 => rewriteO host eas s1
    | .wait _ => none

/-- The bias bits of frames take the new owner. Lines in N take their directory entries and numbers with them (R94). -/
def State.switchBias (s : State) (host : Bool) (frames : List Nat) : State :=
  let stuck := (frames.flatMap (fun f => s.knownLines (32 * f) (32 * f + 32))).filter (fun l => (s.dirOf l).st == .n)
  let kept := stuck.map (fun l => (l, s.dirOf l, s.intervalOf l))
  let s1 := s.updCtl (fun c => { c with
    bias := if host then c.bias ++ frames.filter (fun f => !c.bias.contains f) else c.bias.filter (fun f => !frames.contains f)
    filter := c.filter.filter (fun p => !stuck.contains p.1) })
  kept.foldl (fun s k =>
    ((s.updDie (s.lineDie k.1) (fun d => { d with dir := AMap.erase d.dir k.1 })).setDir k.1 k.2.1).setInterval k.1 k.2.2) s1

/-- Steps 4 and 5 of a flip: bias bits, O bits, release. A line of the host's that holds an entry is asked for first. -/
def State.switchOwner (s : State) (id : Nat) (x : Flip) : State :=
  let frames := x.leaves.flatMap (fun p => (List.range (p.1.size / 4096)).map (fun k => p.1.pa / 4096 + k))
  let entries := (x.leaves.flatMap (fun p => entryCopies p.1 p.2)).eraseDups
  match rewriteO x.host entries s with
  | none => entries.foldl (fun s ea => if (s.homePoison (ea / 128)).isSome then s else s.askHost (ea / 128) true) s
  | some s1 =>
    let mine := fun (asid page : Nat) => asid == x.asid && meets x.base x.len (page * 4096) 4096
    let s2 := ((s1.switchBias x.host frames).updCtl (fun c => { c with flips := AMap.erase c.flips id })).endWalks (fun w => mine w.asid w.page)
    let s3 := { s2 with cores := s2.cores.map (fun (c : Nat × Core) =>
      (c.1, { c.2 with misses := c.2.misses.filter (fun m => !mine m.1 m.2) })) }
    s3.opDone x.fut x.packet 0

/-- `own`. -/
def execOwn (d a b c : Nat) (s : State) : Out :=
  issue (.own d a b c) s fun g q h =>
    let i := Instr.own d a b c
    let v := (h.readS c).toNat
    let r := widen (h.readS64 a).toNat (h.readS64 b).toNat
    if 64 ≤ h.tags.length ∧ !AMap.has h.tags d then .next (s.block g q h .tagsFull)
    else if r.2 = 0 then .next (doneAtOnce s g q i h d 0)
    else if 16 ≤ s.ctl.flips.length then .next (s.block g q h .flips)
    else
      let (s1, f) := s.newFuture (.flip s.nextOp)
      .next ((s1.startFlip { asid := v % 65536, base := r.1, len := r.2, host := bitN v 16, fut := some f }).retire g q i (h.tagWith d f))

end Sys2Proof.Machine
end

