-- ==== Sys2Proof/Machine/Intake.lean ====
section
/-! DEFINITION. The intake region: host writes to the launch window (spec 17 R441) and stream apertures (18 R463-R466). -/

namespace Sys2Proof.Machine

/-! ## The launch window -/

/-- A slot of the launch window as a 1,024-bit record. -/
def State.slotRecord (s : State) (slot : Nat) : Nat := Memory.readLE s.ctl.window (128 * slot) 128

/-- After a host write, the line monitor captures a slot whose byte 127 stands at the expected seal (R441). -/
def State.monitor (s : State) (slot : Nat) : State :=
  let w := AMap.getD s.ctl.lw slot {}
  let r := s.slotRecord slot
  if w.pending ∨ field r 1016 8 ≠ w.expected then s
  else (s.updCtl (fun c => { c with lw := AMap.set c.lw slot { w with pending := true, captured := r } })).push [.windowRecordAccept slot]

/-- A host write to the launch window is stored at the home slices of its lines, and the line monitor sees it. -/
def State.windowStore (s : State) (off : Nat) (bs : List Byte) : State :=
  let s1 := s.updCtl (fun c => { c with window := Memory.writeBytes c.window off bs })
  if bs.isEmpty then s1
  else (List.range ((off + bs.length - 1) / 128 - off / 128 + 1)).foldl (fun s k => s.monitor (off / 128 + k)) s1

/-- A host access waits until it can be performed (R74, R88). -/
def State.holdHost (s : State) (r : PhysReq) : State := s.updCtl (fun c => { c with heldHost := c.heldHost ++ [r] })

/-- A host write to the launch window: every copy is recalled at the home first (R34, R90). -/
def State.windowWrite (s : State) (a : Agent) (off : Nat) (bs : List Byte) : State :=
  let pa := windowBase + off
  match homeTakeWrites a 10 pa bs (linesOf pa bs.length) s with
  | .ok s1 => ((s1.homeStamp (pa / 128) (agentUnit a (pa / 128)) (sectorCount pa bs.length)).1).windowStore off bs
  | .busy s1 => s1.holdHost { agent := a, pa := pa, size := bs.length, data := some (leValue bs) }
  | .poison _ s1 | .contain _ s1 => s1

/-- LAUNCH_WINDOW_SEAL: a host write of the bytes from `off` of a slot on; one that reaches beyond the window is no write to it
(R33). -/
def execLaunchWindowSeal (slot off : Nat) (bytes : List Byte) (s : State) : Out :=
  if 128 * slot + off + bytes.length ≤ 8192 then .next (s.windowWrite (.host 0) (128 * slot + off) bytes) else .fault .outsideMap

/-! ## Streams -/

/-- Stream k. -/
def State.stream (s : State) (k : Nat) : Stream := AMap.getD s.ctl.streams k {}

/-- Change a stream. -/
def State.updStream (s : State) (k : Nat) (f : Stream → Stream) : State :=
  s.updCtl (fun c => { c with streams := AMap.set c.streams k (f (s.stream k)) })

/-- Add to a saturating 32-bit counter. -/
def satAdd (x n : Nat) : Nat := min (x + n) 0xFFFFFFFF

/-- Bytes of a stream's span. -/
def Stream.spanBytes (x : Stream) : Nat := 2 ^ (20 + x.span)

/-- Words of a stream write. -/
def streamCount (w : Nat) : Nat := field w 32 3

/-- Byte offset of a stream write in its span. -/
def streamOffset (w : Nat) : Nat := 8 * field w 35 29

/-- What performing a held write gives: bytes stored, counted in Discarded, or a wait behind a busy line or a flip. -/
inductive StreamDone where
  | done (s : State) | discarded (s : State) | wait (s : State)
  deriving Repr, Inhabited

/-- Whether an address lies in the frames of a flip in flight (R74). -/
def State.flipHoldsPa (s : State) (pa : Nat) : Bool :=
  s.ctl.flips.any (fun p => !p.2.waiting &&
    p.2.leaves.any (fun e => decide (e.1.pa ≤ pa) && decide (pa < e.1.pa + e.1.size)))

/-- Perform a stream write whole, as one release write at `.sys` (R138, R465). One that meets a line in N or a poisoned
line moves no data. -/
def State.streamPerform (s : State) (k port w : Nat) : StreamDone :=
  let pa := (s.stream k).target + streamOffset w
  let n := 8 * streamCount w
  let bs := leBytes n (field w 64 (8 * n))
  let a := Agent.stream k port
  if s.flipHoldsPa pa || s.flipHoldsPa (pa + n - 1) then .wait s
  else if s.ctl.bias.contains (pa / 4096) || s.ctl.bias.contains ((pa + n - 1) / 4096) then .discarded s
  else
    match s.homeWrite a 10 false pa bs with
    | .ok s1 => .done (s1.homeStamp (pa / 128) (agentUnit a (pa / 128)) (sectorCount pa n)).1
    | .contain _ s1 | .poison _ s1 => .done s1
    | .busy s1 => .wait s1

/-- Perform the writes held from position 0 (R465). -/
def streamDrain (k : Nat) : Nat → State → State
  | 0, s => s
  | n + 1, s =>
    let x := s.stream k
    match AMap.find? x.held 0 with
    | none => s
    | some (port, w) =>
      let shift := fun (s : State) (d : Nat) => s.updStream k (fun x => { x with
        expected := (x.expected + 1) % 2 ^ 32
        held := (x.held.filter (fun p => p.1 != 0)).map (fun (p : Nat × Nat × Nat) => (p.1 - 1, p.2))
        discarded := satAdd x.discarded d })
      match s.streamPerform k port w with
      | .wait s1 => s1
      | .done s1 => streamDrain k n (shift s1 0)
      | .discarded s1 => streamDrain k n (shift s1 1)

/-- Drain, then note since when position 0 stands empty before held writes (R466). -/
def streamServe (k : Nat) (s : State) : State :=
  let s1 := streamDrain k 65 s
  let moved := (s1.stream k).expected != (s.stream k).expected
  s1.updStream k (fun x => { x with
    gapSince := if x.held.isEmpty || AMap.has x.held 0 then none
      else if moved || x.gapSince.isNone then some s1.clock else x.gapSince })

/-- A host write to aperture k, through a CXL port; `whole` says that it is 64 bytes, 64-byte aligned (R464, R465). -/
def streamTake (k port : Nat) (whole : Bool) (data : Nat) (s : State) : State :=
  let x := s.stream k
  let drop := s.updStream k (fun x => { x with discarded := satAdd x.discarded 1 })
  let d := (field data 0 32 + 2 ^ 32 - x.expected) % 2 ^ 32
  let n := streamCount data
  if !x.enable || !whole || n == 0 || decide (x.spanBytes < streamOffset data + 8 * n) || decide (2 ^ 31 ≤ d) then drop
  else if 64 ≤ d then s.updStream k (fun x => { x with refused := satAdd x.refused 1 })
  else if AMap.has x.held d then drop
  else streamServe k (s.updStream k (fun x => { x with held := AMap.set x.held d (port, data % 2 ^ 512) }))

/-- STREAM_WRITE. -/
def execStreamWrite (k : Nat) (whole : Bool) (data : PortWord) (s : State) : Out :=
  .next (streamTake k data.port whole data.word s)

/-- STREAM_RESYNC: a write to Expected of an enabled aperture (R466); of a disabled one it stores the field. -/
def execStreamResync (k value : Nat) (s : State) : Out :=
  let x := s.stream k
  let v := value % 2 ^ 32
  if !x.enable then .next (s.updStream k (fun x => { x with expected := v }))
  else
    let at_ := fun (p : Nat) => (x.expected + p + 2 ^ 32 - v) % 2 ^ 32
    let kept := x.held.filter (fun p => decide (at_ p.1 < 64))
    let s1 := s.updStream k (fun x => { x with
      expected := v
      held := kept.foldl (fun (m : AMap (Nat × Nat)) (p : Nat × Nat × Nat) => AMap.set m (at_ p.1) p.2) []
      discarded := satAdd x.discarded (x.held.length - kept.length)
      stalled := false
      gapSince := none })
    .next (streamServe k s1)

/-- Gap of a stream in ck. -/
def Stream.gapCk (x : Stream) : Nat := if x.gap = 0 then 2 ^ 20 else x.gap

/-- STREAM_GAP_TIMEOUT (R466). -/
def execStreamGapTimeout (k : Nat) (s : State) : Out :=
  let x := s.stream k
  match x.gapSince with
  | some t => if t + x.gapCk ≤ s.clock then .next (s.updStream k (fun x => { x with stalled := true })) else .next s
  | none => .next s

end Sys2Proof.Machine
end

