-- ==== Sys2Proof/Machine/Homes.lean ====
section
/-! DEFINITION. The steps of homes, L1s and the snoop filter (spec 04 R88-R100), page walks (03 R51, R52), accesses of the
host (02 R28, 05 R137) and the end of a flip (03 R73, R74). -/

namespace Sys2Proof.Machine

/-! ## Requests of L1s and engines -/

/-- Whether an agent is an L1 that exists under the fusion of its cluster (R84, R85). -/
def State.l1Exists (s : State) (a : Agent) : Bool :=
  match a with
  | .core g => !(s.cluster (cluOf g)).fused
  | .fused x => (s.cluster x).fused
  | _ => false

/-- The copy of a line in an agent's L1. -/
def State.l1Line (s : State) (a : Agent) (line : Nat) : Option L1Line :=
  (l1Core a line).bind (fun g => AMap.find? (s.core g).l1 line)

/-- Receive the messages of a busy line. -/
def msgEvents (line : Nat) (ms : List Msg) : List Event :=
  ms.map (fun m => match m with
    | .fwdS a | .fwdX a | .inv a => Event.forwardReceipt a line
    | .grant a _ _ => Event.grantReceipt a line)

/-- The line for which something at a home waits: its own while it is busy or the host owes it, else one of its filter set that
goes back to the host first (R88, R98, R99). -/
def State.heldUpBy (s : State) (line : Nat) (own : Bool) : Option Nat :=
  if s.busyLine line then some line
  else if s.hostHas line own then none
  else if AMap.has s.ctl.filter line then some line
  else (List.find? (fun (p : Nat × FilterEntry) => p.1 % 65536 == line % 65536 && p.2.evicting) s.ctl.filter).map (·.1)

/-- Work that the home cannot do yet waits behind that line. -/
def State.waitHome (s : State) (line : Nat) (own : Bool) (ev : Event) : State :=
  match s.heldUpBy line own with
  | some l => s.queueBehind l ev
  | none => s

/-- What has become of a line's busy period sends the messages that may arrive next. -/
def State.announce (s : State) (line : Nat) : State :=
  match s.busyOf line with
  | none => s
  | some b => s.push (msgEvents line (b.msgs.filter (fun m => !m.isGrant || b.msgs.all Msg.isGrant)))

/-- A request reaches its home (R88): taken, or it waits behind the line's request, or for the host's line. -/
def homeRequest (req : Req) (a : Agent) (line : Nat) (ev : Event) (s : State) : State :=
  match s.homeTake req a line with
  | .ok s1 => s1.announce line
  | .busy s1 => s1.waitHome line (req != .rds && req != .engine) ev
  | .poison _ s1 | .contain _ s1 => s1

/-- RDS: an L1 that does not hold the line. -/
def execRds (a : Agent) (line : Nat) (s : State) : Out :=
  if s.l1Exists a && (s.l1Line a line).isNone then .next (homeRequest .rds a line (.rds a line) s) else .next s

/-- RDX: an L1 that does not hold the line. -/
def execRdx (a : Agent) (line : Nat) (s : State) : Out :=
  if s.l1Exists a && (s.l1Line a line).isNone then .next (homeRequest .rdx a line (.rdx a line) s) else .next s

/-- UPG: an L1 that wants to write a line it held in S or O; one that has lost it is handled as RdX (R90, R92). -/
def execUpg (a : Agent) (line : Nat) (s : State) : Out :=
  let mayAsk := match s.l1Line a line with
    | some l => l.st == .s || l.st == .o
    | none => true
  if s.l1Exists a && mayAsk then .next (homeRequest .upg a line (.upg a line) s) else .next s

/-- ENGINE_READ: the home passes the data on; the engine is not recorded. -/
def execEngineRead (a : Agent) (line : Nat) (s : State) : Out :=
  match a with
  | .copyEngine _ | .collEngine _ | .matrix _ => .next (homeRequest .engine a line (.engineRead a line) s)
  | _ => .next s

/-- An eviction notice (R91): from the L1, or from the write-back buffer, in which the line stands until the home can take the
notice. -/
def evictionNotice (dirty : Bool) (a : Agent) (line : Nat) (s : State) : State :=
  match l1Core a line with
  | none => s
  | some g =>
    let fits := fun (l : L1Line) => (l.st == .m || l.st == .o) == dirty && l.st != .sr
    match AMap.find? (s.core g).wbuf line, AMap.find? (s.core g).l1 line with
    | some l, _ =>
      if s.busyLine line then s.queueBehind line (if dirty then .wbd a line else .evc a line)
      else if l.st = .sr then s.updCore g (fun c => { c with wbuf := AMap.erase c.wbuf line })
      else s.takeNotice a g line l
    | none, some l => if fits l then s.evictL1 a line else s
    | none, none => s

/-- WBD. -/
def execWbd (a : Agent) (line : Nat) (s : State) : Out := .next (evictionNotice true a line s)

/-- EVC. -/
def execEvc (a : Agent) (line : Nat) (s : State) : Out := .next (evictionNotice false a line s)

/-- A message of a busy line arrives; those that it makes possible are on their way. -/
def receiveMsg (line : Nat) (m : Msg) (s : State) : State :=
  match s.takeMsg line m with
  | .ok s1 => if (s1.busyOf line).any (fun b => b.msgs.all Msg.isGrant) then s1.announce line else s1
  | .busy s1 | .poison _ s1 | .contain _ s1 => s1

/-- FORWARD_RECEIPT: an L1 answers a forward or an invalidation from its current state (R92). -/
def execForwardReceipt (a : Agent) (line : Nat) (s : State) : Out :=
  match (s.busyOf line).bind (fun b => b.msgs.find? (fun m => !m.isGrant && m.target == a)) with
  | none => .next s
  | some m => .next (receiveMsg line m s)

/-- GRANT_RECEIPT: once every acknowledgement is in, the grant arrives and is acknowledged (R88, R90). -/
def execGrantReceipt (a : Agent) (line : Nat) (s : State) : Out :=
  match s.busyOf line with
  | none => .next s
  | some b =>
    match b.msgs.find? (fun m => m.isGrant && m.target == a) with
    | some m => if b.msgs.all Msg.isGrant then .next (receiveMsg line m s) else .next s
    | none => .next s

/-! ## Work of the home itself -/

/-- Whether the home can act on a line: not busy, and no poison fault. -/
def State.homeFree (s : State) (line : Nat) : Bool := !s.busyLine line && (s.homePoison line).isNone

/-- Work of the home itself is done on a line in its turn (R88): it waits while the line is busy, and a line in poison stays as
it is. -/
def State.homeWork (s : State) (line : Nat) (ev : Event) (f : State → State) : Out :=
  if s.busyLine line then .next (s.queueBehind line ev)
  else if (s.homePoison line).isSome then .next s
  else .next (f s)

/-- RECALL. -/
def execRecall (line : Nat) (s : State) : Out :=
  s.homeWork line (.recall line) (fun s => (s.recallOut line).hostLeft line)

/-- DIRECTORY_EVICTION: the entry is free once every copy is recalled. A line in state I has no entry (R89). -/
def execDirectoryEviction (line : Nat) (s : State) : Out :=
  if isHostLine s line then .next s else s.homeWork line (.directoryEviction line) (fun s => s.recallOut line)

/-- FILTER_EVICTION (R99). -/
def execFilterEviction (line : Nat) (s : State) : Out :=
  if isHostLine s line && AMap.has s.ctl.filter line then s.homeWork line (.filterEviction line) (fun s => s.returnHost line)
  else .next s

/-- Device memory that homes serve. -/
def deviceMem (s : State) (pa : Nat) : Bool := regionOf s pa == .hbm || regionOf s pa == .ddr

/-- HOME_ATOMIC (R95); one to host memory recalls every copy and goes on as a PCIe AtomicOp (R44). Nothing else that has an
address is the target of an atomic at a home of this package. -/
def execHomeAtomic (r : AtomReq) (s : State) : Out :=
  let line := r.pa / 128
  if regionOf s r.pa = .reserved then .fault .outsideMap
  else if r.pa % r.elem.bytes ≠ 0 then .next s
  else
    match regionOf s r.pa with
    | .hbm | .ddr =>
      match (s.homeAtomicAt r.agent (agentUnit r.agent line) r.pa false r.op r.elem r.x r.new).1 with
      | .busy s1 => .next (s1.waitHome line true (.homeAtomic r))
      | .ok _ _ _ s1 | .poison _ s1 | .contain _ s1 | .ext _ _ _ _ s1 => .next s1
    | .host => s.homeWork line (.homeAtomic r) (fun s =>
        (((s.recallOut line).evictToHost line).send (.hostAtomic r)))
    | _ => .next s

/-- The first line of an access for which it waits. -/
def State.waitFirst (s : State) (pa n : Nat) (own : Bool) (ev : Event) : State :=
  match (linesOf pa n).find? (fun l => (s.heldUpBy l own).isSome) with
  | some l => s.waitHome l own ev
  | none => s

/-- UNCACHED_ACCESS (R95); one to host memory leaves through the host decoder's port (R35). Register space, the intake region
and peers have no home here that performs one (R28, R38). -/
def execUncachedAccess (r : PhysReq) (s : State) : Out :=
  if (linesOf r.pa r.size).any (fun l => regionOf s (l * 128) == .reserved) then .fault .outsideMap
  else if regionOf s r.pa = .host then .next (s.sendHost r.pa r.size r.data)
  else if !(linesOf r.pa r.size).all (fun l => deviceMem s (l * 128)) then .next s
  else
    let c := match r.data with
      | none => uncachedLines (linesOf r.pa r.size) s
      | some v => s.homeWrite r.agent (writeType r.agent) true r.pa (leBytes r.size v)
    match c with
    | .ok s1 => .next (s1.homeStamp (r.pa / 128) (agentUnit r.agent (r.pa / 128)) (sectorCount r.pa r.size)).1
    | .busy s1 => .next (s1.waitFirst r.pa r.size (r.data.isSome) (.uncachedAccess r))
    | .poison _ s1 | .contain _ s1 => .next s1

/-- MEMORY_CONTROLLER_ACCEPTANCE (R97, R155): a read fills the memory-side copy; an accepted write makes memory current. -/
def execMemoryControllerAcceptance (line : Nat) (write : Bool) (s : State) : Out :=
  if !deviceMem s (line * 128) || !s.homeFree line then .next s
  else if write then (if (s.dirOf line).dirty then .next s else .next (s.memAccept line))
  else
    match s.memFetch line with
    | .ok s1 | .busy s1 | .poison _ s1 | .contain _ s1 => .next s1

/-! ## Walks (R51, R52) -/

/-- WALK: a walk for a core installs its entry, or faults with nothing installed, or is held. -/
def execWalk (core asid va : Nat) (s : State) : Out :=
  if 2 ^ 56 ≤ va then .next s
  else
    match s.walkInstall (.core core) asid va with
    | .ok _ s1 => .next s1
    | .parked s1 => .next s1
    | .fault _ _ s1 => .next s1

/-- DIRTY_BIT_WALK: a walk that sets D for a store to an entry whose D is 0. -/
def execDirtyBitWalk (core asid va : Nat) (s : State) : Out :=
  match s.tlbLookup (.core core) asid va with
  | none => .next s
  | some e =>
    if bitN e.attr 11 then .next s
    else
      match s.dirtyWalk (.core core) asid true .store va with
      | .ok _ s1 => .next s1
      | .parked s1 => .next s1
      | .fault _ _ s1 => .next s1

/-! ## The host (R98-R100) -/

/-- Whether the device holds a line of the host modified. -/
def State.filterDirty (s : State) (line : Nat) (f : FilterEntry) : Bool :=
  f.host == some .m || (f.host == some .e && AMap.has s.backing line)

/-- The owner's cluster keeps a read-only copy, and the others are invalidated (R100). Sharers keep theirs. -/
def State.shareLine (s : State) (line : Nat) : State :=
  let e := s.dirOf line
  match e.owner.bind (fun a => (l1Core a line).map (fun g => (a, g))) with
  | none => s
  | some (a, g) =>
    let s1 := (e.sharers.foldl (fun s h => s.recallOne h line) s).homeSends g line 2 0
    match s1.forwarded a line (s1.clockOf (homeUnit s1 line)) true none with
    | .ok s2 | .busy s2 | .poison _ s2 | .contain _ s2 =>
      if (s2.dirOf line).st = .n then s2
      else
        let s3 := s2.updCore g (fun c => match c.held line with
          | some k => c.putHeld line { k with st := .s, dirty := 0 }
          | none => c)
        s3.setDir line { s3.dirOf line with st := .s, owner := none, sharers := [a] }

/-- The filter answers a snoop: 0 SnpInv, 1 SnpData, 2 SnpCur. Response codes 0 to 6 are the rows of R100's table. A line that
the host has not granted is in no state that the table names, nor is one in N, whose data moves nowhere (R94): both
answer as no entry (DESIGN CHOICE, LOG 34). -/
def answerSnoop (kind line : Nat) (s : State) : State :=
  let none_ := fun (s : State) => s.send (.snoopAnswer line 0 none)
  match AMap.find? s.ctl.filter line with
  | none => none_ s
  | some f =>
    if f.host.isNone || f.dir.st == .n then none_ s
    else
      let m := s.filterDirty line f
      let data := if m then some (s.lineBytes line) else none
      match kind with
      | 0 =>
        let s1 := s.recallOut line
        if (s1.dirOf line).st = .n then none_ s1
        else ((s1.memAccept line).freeFilter line).send (.snoopAnswer line (if m then 1 else 2) data)
      | 1 =>
        let s1 := s.shareLine line
        if (s1.dirOf line).st = .n then none_ s1
        else
          ((s1.memAccept line).updCtl (fun c => { c with filter := AMap.upd c.filter line f (fun x => { x with host := some .s }) })).send
            (.snoopAnswer line (if m then 3 else 4) data)
      | _ => s.send (.snoopAnswer line (if m then 5 else 6) data)

/-- A snoop waits behind a device request that the filter has taken, and while the host owes the line (R100). -/
def execSnoop (kind line : Nat) (s : State) : Out :=
  if s.busyLine line || ((AMap.find? s.ctl.filter line).bind (·.asked)).isSome then .next (s.queueBehind line (.snoop kind line))
  else .next (answerSnoop kind line s)

/-- SNPINV. -/
def execSnpInv (line : Nat) (s : State) : Out := execSnoop 0 line s
/-- SNPDATA. -/
def execSnpData (line : Nat) (s : State) : Out := execSnoop 1 line s
/-- SNPCUR. -/
def execSnpCur (line : Nat) (s : State) : Out := execSnoop 2 line s

/-- The answer of a host's read or of a storage port's. -/
def physAnswer (r : PhysReq) (v : Option Nat) : OutMsg :=
  match r.agent with
  | .storage n => .pcie n v
  | _ => .hostData r.pa r.size v

/-- A line is made ready for a read at its home by a party outside: for the host every copy is recalled (R462), a storage port
is sent current data as an engine is (DESIGN CHOICE, LOG 34). -/
def homeReadLine (a : Agent) (s : State) (line : Nat) : Coh :=
  match a with
  | .storage _ => s.transact .engine a line
  | _ => (s.homeOpen line false).andThen fun s1 => ((s1.recallOut line).unlessN line).andThen fun s2 => s2.memFetch line

/-- The lines of a read are made ready. -/
def homeReadLines (a : Agent) : List Nat → State → Coh
  | [], s => .ok s
  | l :: ls, s => (homeReadLine a s l).andThen (homeReadLines a ls)

/-- Whether the home performs an access directly, since the host resolves its own accesses to lines under host bias (R462). -/
def homeDirect (s : State) (a : Agent) (line : Nat) : Bool :=
  match a with
  | .storage _ => false
  | _ => isHostLine s line

/-- An access of the host or of a storage port to device memory, at the home (R139, R462). One that has to wait is held. -/
def hostPerform (r : PhysReq) (s : State) : State :=
  let lines := (linesOf r.pa r.size).filter (fun l => !homeDirect s r.agent l)
  let stamp := fun (s : State) => (s.homeStamp (r.pa / 128) (agentUnit r.agent (r.pa / 128)) (sectorCount r.pa r.size)).1
  if (linesOf r.pa r.size).any (fun l => (s.homePoison l).isSome) then s.send (physAnswer r none)
  else
    match r.data with
    | none =>
      match homeReadLines r.agent lines s with
      | .ok s1 => ((lines.foldl (fun s l => s.hostLeft l) (stamp s1))).send
          (physAnswer r (some (leValue (s1.physBytes r.pa r.size))))
      | .busy s1 => s1.holdHost r
      | .poison _ s1 | .contain _ s1 => s1.send (physAnswer r none)
    | some v =>
      match homeTakeWrites r.agent 10 r.pa (leBytes r.size v) lines s with
      | .ok s1 => (stamp s1).homePut false r.pa (leBytes r.size v)
      | .busy s1 => s1.holdHost r
      | .poison _ s1 | .contain _ s1 => s1

/-- Whether an earlier access of the same storage port is still held: its accesses keep their order (R139). -/
def State.heldBefore (s : State) (r : PhysReq) : Bool :=
  match r.agent with
  | .storage _ => s.ctl.heldHost.any (fun x => x.agent == r.agent)
  | _ => false

/-- An access of a party outside, by its region: device memory; the launch window, whose bytes the control die keeps; stream
apertures, which read as zero and take writes by STREAM_WRITE (R34, R441, R465). An access of a flip's frames is held until it has
switched (R74). -/
def hostServe (r : PhysReq) (s : State) : State :=
  let last := r.pa + r.size - 1
  match regionOf s r.pa, regionOf s last with
  | .hbm, .hbm | .ddr, .ddr =>
    if s.flipHoldsPa r.pa || s.flipHoldsPa last || s.heldBefore r then s.holdHost r else hostPerform r s
  | .window, .window =>
    match r.data with
    | none => s.send (physAnswer r (some (leValue (s.physBytes r.pa r.size))))
    | some v => s.windowWrite r.agent (r.pa - windowBase) (leBytes r.size v)
  | .stream, .stream =>
    match r.data with
    | none => s.send (physAnswer r (some 0))
    | some v =>
      let port := match r.agent with
        | .host p => p
        | _ => 0
      streamTake (field (r.pa - streamBase) 20 8) port (r.size == 64 && r.pa % 64 == 0) v s
  | _, _ => s

/-- Held accesses are tried again, in arrival order. -/
def serveHeld (s : State) : State :=
  s.ctl.heldHost.foldl (fun s r => hostServe r s) (s.updCtl (fun c => { c with heldHost := [] }))

/-- A line owed by the host has come, or gone: what waited for it is served next. -/
def State.hostSettled (s : State) (line : Nat) : State :=
  match s.busyOf line with
  | some b => if b.msgs.isEmpty then s.endBusy line else s
  | none => s

/-- The host grants a line that the filter has asked for (R98). -/
def hostGrant (line : Nat) (st : L1State) (bytes : List Byte) (s : State) : State :=
  match AMap.find? s.ctl.filter line with
  | none => s
  | some f =>
    if f.asked.isNone ∨ f.evicting then s
    else
      let s1 := { s with mem := Memory.writeBytes s.mem (line * 128) (fitBytes 128 bytes) }.memAccept line
      (s1.updCtl (fun c => { c with filter := AMap.set c.filter line { f with host := some st, asked := none } })).hostSettled line

/-- A back-invalidation snoop of a flip is answered (R73). -/
def snoopDone (line : Nat) (s : State) : State :=
  s.updCtl (fun c => { c with flips := c.flips.map (fun (p : Nat × Flip) =>
    (p.1, { p.2 with snoops := p.2.snoops.map (fun l => l.filter (· != line)) })) })

/-- A DirtyEvict or CleanEvict is complete: the way is free (R99). -/
def evictDone (line : Nat) (s : State) : State :=
  match AMap.find? s.ctl.filter line with
  | some f => if f.evicting then (s.freeFilter line).hostSettled line else s
  | none => s

/-- HOST_DECODER_CHANGE (R35). -/
def execHostDecoderChange (ds : List HostDecoder) (s : State) : Out :=
  .next (s.updCtl (fun c => { c with decoders := ds }))

/-! ## The end of a flip (R73) -/

/-- Lines of a flip's frames. -/
def linesOfLeaves (ls : List (TlbEntry × Nat)) : List Nat :=
  (frameLines ls).flatMap (fun r => (List.range (r.2 - r.1)).map (fun i => r.1 + i))

/-- FLIP_COMPLETE: the next step of a flip that its predecessors and the accesses in flight permit: it begins, writes
back, asks the host for its copies, then switches and releases. -/
def execFlipComplete (id : Nat) (s : State) : Out :=
  match AMap.find? s.ctl.flips id with
  | none => .next s
  | some x =>
    if x.waiting then (if s.flipOverlaps id x then .next s else .next (s.beginFlip id x))
    else if s.rangeBusy false x.asid x.base x.len x.blocks then .next s
    else
      let known := (frameLines x.leaves).flatMap (fun r => s.knownLines r.1 r.2)
      if known.any s.busyLine then .next s
      else
        let s1 := known.foldl (fun (s : State) l => s.writeBackLine l) s
        match x.host, x.snoops with
        | false, none =>
          let all := linesOfLeaves x.leaves
          let s2 := s1.updCtl (fun c => { c with flips := AMap.set c.flips id { x with snoops := some all } })
          .next (all.foldl (fun s l => s.send (.hostSnoop l)) s2)
        | false, some (_ :: _) => .next s1
        | _, _ =>
          let s2 := s1.switchOwner id x
          let s3 := if AMap.has s2.ctl.flips id then s2 else serveHeld s2
          .next (s3.push ((s3.ctl.flips.filter (fun p => p.2.waiting)).map (fun p => Event.flipComplete p.1)))

end Sys2Proof.Machine
end

