-- ==== Sys2Proof/Machine/FrontEnd.lean ====
section
/-! DEFINITION. The command front end (spec 17): intake ports, semaphores, the launch window's records, command queues and
their packets, event counters, the journal and the firmware restart. -/

namespace Sys2Proof.Machine

/-! ## The journal (R456, R457) -/

/-- Bytes 0-31 of an entry, written once. -/
def JEntry.first (e : JEntry) (idx : Nat) : List Byte :=
  leBytes 8 idx ++ leBytes 4 (e.port * 2 ^ 8 + (e.queue % 256) * 2 ^ 16 + (e.type % 256) * 2 ^ 24) ++ leBytes 4 e.sequence
    ++ leBytes 8 e.digest ++ leBytes 8 e.acceptTime

/-- Bytes 32-63, rewritten by each change of state. -/
def JEntry.second (e : JEntry) : List Byte :=
  leBytes 13 (e.state % 256) ++ leBytes 3 e.position ++ leBytes 8 e.finalTime ++ leBytes 8 e.result

/-- Physical address of an entry. -/
def State.jaddr (s : State) (idx : Nat) : Nat := s.jbase + 64 * (idx % 2 ^ 20)

/-- Whether the ring position of the next entry may be used: the entry there is not in state 1 or 2. -/
def State.jroom (s : State) : Bool :=
  decide (s.ctl.jnext < 2 ^ 20) || match AMap.find? s.ctl.journal (s.ctl.jnext - 2 ^ 20) with
    | some e => decide (3 ≤ e.state)
    | none => true

/-- A new entry; its write is on its way to memory. -/
def State.journal (s : State) (e : JEntry) : State × Nat :=
  let j := s.ctl.jnext
  ((s.updCtl (fun c => { c with
    journal := AMap.set (c.journal.filter (fun p => decide (j < p.1 + 2 ^ 20))) j { e with acceptTime := s.clock, finalTime := s.clock }
    jnext := j + 1 })).push [.journalAccept j], j)

/-- Bytes of an entry are written uncached at their home, so that no cache holds them (R12, R18). -/
def State.jwrite (s : State) (pa : Nat) (bs : List Byte) : State := s.unitPut .firmware true pa bs

/-- Whether the home of an entry takes writes: while die 0 is in reset and holds the journal, they wait (R18). -/
def State.jready (s : State) (idx : Nat) : Bool := s.homePoison (s.jaddr idx / 128) != some 2

/-- The state of an entry changes. -/
def State.jstate (s : State) (j st : Nat) (f : JEntry → JEntry) : State :=
  match AMap.find? s.ctl.journal j with
  | none => s
  | some e =>
    let e1 := { f e with state := st, finalTime := s.clock, owed := e.accepted && !s.jready j }
    let s1 := s.updCtl (fun c => { c with journal := AMap.set c.journal j e1 })
    if e.accepted && s.jready j then s1.jwrite (s1.jaddr j + 32) e1.second else s1

/-- A change of state that had to wait is written. -/
def State.jowed (s : State) (j : Nat) (e : JEntry) : State :=
  if e.owed && s.jready j then
    (s.updCtl (fun c => { c with journal := AMap.set c.journal j { e with owed := false } })).jwrite (s.jaddr j + 32) e.second
  else s

/-- A hand-off is taken once: its index is among the last 4,096 that the units keep (R458). -/
def State.takeIndex (s : State) (j handle : Nat) : State :=
  s.updCtl (fun c => { c with taken := AMap.set (c.taken.filter (fun p => decide (j < p.1 + 4096))) j handle })

/-- Whether a hand-off has been taken. -/
def State.isTaken (s : State) (j : Nat) : Bool := AMap.has s.ctl.taken j

/-- A fault is reported to the recovery firmware. -/
def State.reportFault (s : State) (cause kind a : Nat) : State :=
  s.updCtl (fun c => { c with reports := c.reports ++ [cause * 2 ^ 72 + kind * 2 ^ 64 + a % 2 ^ 64] })

/-! ## Ports (R444-R446) -/

/-- Port p: 0 A, 1 B. -/
def State.port (s : State) (p : Nat) : Port := AMap.getD s.ctl.ports p {}

/-- Change a port. -/
def State.updPort (s : State) (p : Nat) (f : Port → Port) : State :=
  s.updCtl (fun c => { c with ports := AMap.set c.ports p (f (s.port p)) })

/-- SUBMIT (R445): the write takes a number and enters the FIFO, or is refused and counted. -/
def execSubmit (port value : Nat) (s : State) : Out :=
  let x := s.port port
  let x1 := { x with inseq := (x.inseq + 1) % 2 ^ 32 }
  if x.fifo.length < 256 then
    .next ((s.updPort port (fun _ => { x1 with fifo := x.fifo ++ [(x.inseq, value % 2 ^ 64)] })).push [.doorbellAccept port])
  else
    .next (s.updPort port (fun _ => { x1 with
      overflow := true
      lost := min (x.lost + 1) 0xFFFF
      firstLost := if x.overflow then x.firstLost else x.inseq }))

/-- INSTAT_CLEAR: bits 63:32 become zero. -/
def execInstatClear (port : Nat) (s : State) : Out :=
  .next (s.updPort port (fun x => { x with overflow := false, lost := 0 }))

/-- A read of SEM k through a port's window: what it returns, and the state after it (R446). -/
def semTake (port k : Nat) (s : State) : Nat × State :=
  let v := AMap.getD s.ctl.sems k 0
  if v = 0 then (0, s.updCtl (fun c => { c with sems := AMap.set c.sems k (port + 1) })) else (v, s)

/-- SEM_READ. -/
def execSemRead (port k : Nat) (s : State) : Out :=
  let r := semTake port k s
  .next (r.2.send (.semAnswer port k r.1))

/-- SEM_WRITE: a write of 0 by the holder frees it. -/
def execSemWrite (port k value : Nat) (s : State) : Out :=
  if value = 0 ∧ AMap.getD s.ctl.sems k 0 = port + 1 then .next (s.updCtl (fun c => { c with sems := AMap.set c.sems k 0 })) else .next s

/-! ## Command queues (R447, R448, R451) -/

/-- Queue q. -/
def State.queue (s : State) (q : Nat) : CmdQueue := AMap.getD s.ctl.queues q {}

/-- Change a queue. -/
def State.updQueue (s : State) (q : Nat) (f : CmdQueue → CmdQueue) : State :=
  s.updCtl (fun c => { c with queues := AMap.set c.queues q (f (s.queue q)) })

/-- Ring positions are numbers mod 2^24. -/
def posDist (a b : Nat) : Nat := (b + 2 ^ 24 - a) % 2 ^ 24

/-- Whether a descriptor may be enabled. -/
def CmdQueue.valid (q : CmdQueue) : Bool := q.base % 64 == 0 && decide (4 ≤ q.size) && decide (q.size ≤ 20)

/-- Journal entries of a queue's packets. -/
def State.packetsOf (s : State) (q : Nat) : List (Nat × JEntry) :=
  s.ctl.journal.filter (fun p => p.2.queue == q && decide (p.2.type < 0x10))

/-- Whether a packet of the queue has been accepted and has not been handed off or completed: it blocks the queue. -/
def State.queueBlocked (s : State) (q : Nat) : Bool := (s.packetsOf q).any (fun p => p.2.state == 1)

/-- Whether every packet of the queue before entry j has completed. -/
def State.earlierDone (s : State) (q j : Nat) : Bool :=
  (s.packetsOf q).all (fun p => decide (j ≤ p.1) || decide (3 ≤ p.2.state))

/-- DOORBELL_ACCEPT (R445, R448): the oldest doorbell of a port is journaled; an accepted one moves Tail once its entry is
in memory. -/
def execDoorbellAccept (port : Nat) (s : State) : Out :=
  let x := s.port port
  match x.fifo with
  | [] => .next s
  | (seq, v) :: rest =>
    if !s.ctl.firmwareUp || !s.jroom then .next s
    else
      let q := field v 0 7
      let n := field v 8 24
      let cq := s.queue q
      let ok := field v 32 32 == 0 && !bitN v 7 && cq.enable && decide (posDist cq.head n ≤ 2 ^ cq.size)
      let (s1, _) := (s.updPort port (fun y => { y with fifo := rest })).journal
        { type := 0x11, queue := q, port := port, sequence := seq, result := n, digest := digestNat v, state := if ok then 1 else 4 }
      .next (if rest.isEmpty then s1 else s1.push [.doorbellAccept port])

/-- Sequence number and port of the doorbell that exposed the packet at a position. -/
def CmdQueue.exposed (q : CmdQueue) (pos : Nat) : Nat × Nat :=
  match q.seqs.find? (fun x => decide (posDist pos x.1 < 2 ^ 23) && x.1 != pos) with
  | some x => x.2
  | none => (0, 0)

/-! ## Packets (R449) -/

/-- Bytes of a packet at an offset. -/
def pk (b o n : Nat) : Nat := field b (8 * o) (8 * n)

/-- Byte ranges (offset, size) of a packet's body that its type names. -/
def pkFields : Nat → List (Nat × Nat)
  | 1 => [(16, 8)]
  | 2 => [(16, 8), (24, 8), (32, 2), (34, 1)]
  | 3 => [(16, 8), (24, 8), (32, 2), (34, 1)]
  | 4 => [(16, 2), (24, 8)]
  | 5 => [(16, 2)]
  | 6 => []
  | 7 => [(16, 8), (24, 8), (32, 8), (40, 2), (42, 1)]
  | 8 => [(16, 8), (24, 4), (28, 1)]
  | 9 => [(16, 8), (24, 2), (26, 1), (32, 2), (40, 8)]
  | 10 => [(16, 8), (24, 2), (26, 1), (27, 1), (28, 1), (32, 8), (40, 8)]
  | _ => []

/-- Whether every field that must be 0 is 0. -/
def pkReserved (b : Nat) : Bool :=
  let t := pk b 0 1
  let rest := (pkFields t).foldl (fun x f => x - pk x f.1 f.2 * 2 ^ (8 * f.1)) (b / 2 ^ 128 * 2 ^ 128)
  pk b 1 1 / 2 == 0 && pk b 2 6 == 0 && rest == 0 && (bitN b 8 || pk b 8 8 == 0) && (t != 3 || pk b 34 1 / 2 == 0)

/-- Whether every value lies in its range. -/
def pkRange (s : State) (b : Nat) : Bool :=
  (!bitN b 8 || pk b 8 8 % 8 == 0) &&
  match pk b 0 1 with
  | 2 => decide (pk b 34 1 ≤ 1)
  | 4 | 5 => decide (pk b 16 2 < 4096)
  | 7 => decide (pk b 32 8 < 2 ^ 40) && decide (pk b 42 1 < 8)
  | 8 => decide (1 ≤ pk b 24 4) && decide (pk b 24 4 ≤ 65536) && (s.wq (pk b 28 1)).enable
  | 9 => pk b 16 8 % 128 == 0 && decide (pk b 26 1 ≤ 1) && decide (pk b 32 2 < 4096)
  | 10 => pk b 16 8 % 8 == 0 && decide (pk b 26 1 ≤ 5)
  | _ => true

/-- What reading a packet's operands gives. -/
inductive PkOperands where
  | ok (s : State) (bs : List Byte)
  | bad (s : State) (status : Nat)
  | wait (s : State)
  deriving Repr, Inhabited

/-- The checks of a packet in order (R449, R450), and its operands read before acceptance: a LAUNCH's record, a FEED's
records. -/
def pkCheck (s : State) (asid b : Nat) : PkOperands :=
  let t := pk b 0 1
  let read := fun (a va n : Nat) =>
    match s.ctlRead a va n with
    | .ok s1 bs => PkOperands.ok s1 bs
    | .fault s1 _ _ _ => .bad s1 0x204
    | .wait s1 => .wait s1
  if t = 0 ∨ 10 < t then .bad s 0x201
  else if !pkReserved b then .bad s 0x202
  else if !pkRange s b then .bad s 0x203
  else if t = 9 then read (pk b 24 2) (pk b 16 8) 128
  else if t = 8 then read asid (pk b 16 8) (pk b 24 4 * (s.wq (pk b 28 1)).recBytes)
  else if t = 7 ∧ !(s.die (pk b 42 1)).online then .bad s 0x205
  else .ok s []

/-- Whether a position lies in a discarded arm (R455). -/
def CmdQueue.discards (q : CmdQueue) (pos : Nat) : Bool := q.skipTo.any (fun x => decide (posDist x.1 pos < x.2))

/-- The head packet of a queue enters the journal, and Head moves past it. -/
def State.acceptHead (s : State) (q b st : Nat) (f : JEntry → JEntry) : State × Nat :=
  let cq := s.queue q
  let (seq, port) := cq.exposed cq.head
  let head1 := (cq.head + 1) % 2 ^ 24
  (s.updQueue q (fun x => { x with
    head := head1
    skipTo := x.skipTo.filter (fun y => decide (posDist y.1 head1 < y.2) || decide (2 ^ 23 ≤ posDist y.1 head1))
    seqs := x.seqs.filter (fun y => decide (posDist head1 y.1 < 2 ^ 23) && y.1 != head1) })).journal
      (f { type := pk b 0 1, queue := q, port := port, sequence := seq, position := cq.head, digest := digestNat b, state := st
           completion := if bitN b 8 then some (pk b 8 8) else none, asid := cq.asid, body := b })

/-- The queue stops at its head packet, which could not be read, and the fault is reported (R514). -/
def State.ringStops (s : State) (q cause kind va : Nat) : State :=
  let cq := s.queue q
  if !cq.enable || !s.jroom then s
  else
    ((s.updQueue q (fun x => { x with enable := false })).journal
      { type := 0x12, queue := q, position := cq.head, result := va, state := 4 }).1.reportFault cause kind va

/-- Cause and kind of the fault of a queue's ring at an address (R54): its translation's, or poison at its home. -/
def ringCause (s : State) (asid va : Nat) : Nat × Nat :=
  match s.resolve (ctlCtx asid) .glob va 64 .load true with
  | .fault cause kind _ _ => (cause, kind)
  | .ok (.phys (g :: _)) s1 => (11, (s1.homePoison (g.pa / 128)).getD 1)
  | _ => (11, 1)

/-- QUEUE_RING_FAULT (R514). -/
def execQueueRingFault (q va : Nat) (s : State) : Out :=
  let r := ringCause s (s.queue q).asid va
  .next (s.ringStops q r.1 r.2 va)

/-! ## Looking past a blocked packet (R454) -/

/-- Under what a core keeps constant lines of a blocked LAUNCH until its grid has a number: its queue and position. -/
def aheadTag (q pos : Nat) : Nat := 2 ^ 40 + q * 2 ^ 24 + pos

/-- Whether the Percolator can read a line at once. -/
def State.atHand (s : State) (line : Nat) : Bool :=
  (deviceMem s (line * 128) || isHostLine s line && s.hostHas line false) && (s.homePoison line).isNone

/-- The line at a virtual address, when it can be read at once: the copies raise no fault and have no other effect. -/
def State.peekLine (s : State) (asid : Nat) (a : Acc) (va : Nat) : Option Nat :=
  match s.resolve { ctlCtx asid with sup := false } .glob (va / 128 * 128) 128 a true with
  | .ok (.phys (g :: _)) _ => if s.atHand (g.pa / 128) then some (g.pa / 128) else none
  | _ => none

/-- The bytes at a virtual address that the control die may read, when they can be had at once. -/
def State.peek (s : State) (asid va n : Nat) : Option Nat :=
  match s.resolve (ctlCtx asid) .glob va n .load true with
  | .ok (.phys segs) _ =>
    if segs.all (fun g => (linesOf g.pa g.len).all s.atHand) then some (leValue (segs.flatMap (fun g => s.physBytes g.pa g.len)))
    else none
  | _ => none

/-- The first 4 KiB of a record's code enter the instruction caches, and up to 64 KiB of its argument block the constant caches, of
the cores on the dies of its mask. -/
def State.preload (s : State) (tag r : Nat) : State :=
  let gs := (List.range 256).filter (fun g => bitN (recDieMask r) (dieOf g) && (s.die (dieOf g)).online)
  let code := (linesOf (recEntry r) 4096).filterMap (fun l => s.peekLine (recAsid r) .fetch (128 * l))
  let args := (linesOf (recArgs r) (min (recArgSize r) 65536)).filterMap (fun l => s.peekLine (recAsid r) .load (128 * l))
  gs.foldl (fun s g => args.foldl (fun s l => s.constLine g tag l) (code.foldl (fun s l => s.codeLine g (recAsid r) l) s)) s

/-- Whether a queue is held by an unmet WAIT or dependence, or by a PRED. -/
def State.held (s : State) (q : Nat) : Bool :=
  (s.packetsOf q).any (fun p => p.2.state == 1 && p.2.accepted && (p.2.type == 4 || p.2.type == 9 || p.2.type == 10))

/-- The Percolator looks at up to 8 packets from a position on, both arms of a PRED among them, and preloads the LAUNCHes. -/
def State.lookPast (s : State) (q pos : Nat) : State :=
  let cq := s.queue q
  let n := min 8 (posDist pos cq.tail)
  if !s.ctl.firmwareUp || !cq.enable || 2 ^ 23 ≤ posDist pos cq.tail then s
  else
    (List.range n).foldl (fun s i =>
      let at_ := (pos + i) % 2 ^ 24
      match s.peek cq.asid (cq.base + 64 * (at_ % 2 ^ cq.size)) 64 with
      | none => s
      | some b =>
        if pk b 0 1 = 9 ∧ pkReserved b ∧ pkRange s b then
          match s.peek (pk b 24 2) (pk b 16 8) 128 with
          | some r => s.preload (aheadTag q at_) r
          | none => s
        else s) s

/-- The constant lines of a LAUNCH that is no longer blocked are those of its grid. -/
def State.ownLines (s : State) (tag grid : Nat) : State :=
  if s.cores.any (fun p => p.2.ccache.any (fun l => l.1 == tag)) then
    { s with cores := s.cores.map (fun (p : Nat × Core) => (p.1, { p.2 with
        ccache := p.2.ccache.map (fun l => if l.1 = tag then (grid, l.2) else l) })) }
  else s

/-- The head packet of queue q is decoded, when it has the given type or any is asked for (0), and the queue has a servable
packet and is not blocked. -/
def execPacket (typ q : Nat) (s : State) : Out :=
  let cq := s.queue q
  if !s.ctl.firmwareUp || !cq.enable || cq.head == cq.tail || s.queueBlocked q || !s.jroom then
    .next (if s.held q then s.lookPast q cq.head else s)
  else
    let va := cq.base + 64 * (cq.head % 2 ^ cq.size)
    match s.ctlRead cq.asid va 64 with
    | .wait s1 => .next s1
    | .fault s1 cause kind a => .next (s1.ringStops q cause kind a)
    | .ok s1 bs =>
      let b := leValue bs
      let t := pk b 0 1
      if typ ≠ 0 ∧ t ≠ typ then .next s
      else if cq.discards cq.head then
        let s2 := if t = 10 then s1.updQueue q (fun x => { x with
            skipTo := x.skipTo ++ [((cq.head + 1) % 2 ^ 24, pk b 27 1 + pk b 28 1)] }) else s1
        .next ((s2.acceptHead q b 6 (fun e => { e with completion := none })).1.push [.packet 0 q])
      else if t = 10 ∧ pkReserved b ∧ pkRange s b ∧ posDist cq.head cq.tail < 1 + pk b 27 1 + pk b 28 1 then
        .next (s.lookPast q ((cq.head + 1) % 2 ^ 24))
      else
        match pkCheck s1 cq.asid b with
        | .wait s2 => .next s2
        | .bad s2 st => .next ((s2.acceptHead q b 4 (fun e => { e with status := st })).1.push [.packet 0 q])
        | .ok s2 xs => .next (s2.acceptHead q b 1 (fun e => { e with extra := xs })).1

/-- CANCEL. -/
def execCancelPacket (q : Nat) (s : State) : Out := execPacket 1 q s
/-- OWN_PACKET. -/
def execOwnPacket (q : Nat) (s : State) : Out := execPacket 2 q s
/-- INVAL. -/
def execInvalPacket (q : Nat) (s : State) : Out := execPacket 3 q s
/-- WAIT. -/
def execWaitPacket (q : Nat) (s : State) : Out := execPacket 4 q s
/-- SIGNAL. -/
def execSignalPacket (q : Nat) (s : State) : Out := execPacket 5 q s
/-- FENCE_PACKET. -/
def execFencePacket (q : Nat) (s : State) : Out := execPacket 6 q s
/-- COPY. -/
def execCopyPacket (q : Nat) (s : State) : Out := execPacket 7 q s
/-- FEED. -/
def execFeedPacket (q : Nat) (s : State) : Out := execPacket 8 q s
/-- LAUNCH. -/
def execLaunchPacket (q : Nat) (s : State) : Out := execPacket 9 q s
/-- PRED. -/
def execPredPacket (q : Nat) (s : State) : Out := execPacket 10 q s

/-! ## What packets do (R452, R455) -/

/-- Handed off: the next packet may start. -/
def State.handOff (s : State) (j handle : Nat) (e : JEntry) : State :=
  ((s.takeIndex j handle).jstate j 2 id).push [.packet 0 e.queue]

/-- A packet that ends as it is performed. -/
def State.packetNow (s : State) (j status : Nat) : State :=
  if s.isTaken j then s else (s.takeIndex j 0).packetDone j status

/-- Event counter e. -/
def State.eventOf (s : State) (e : Nat) : Nat := AMap.getD s.ctl.events e 0

/-- What waits for an event is looked at again (R453). -/
def State.setEvent (s : State) (e v : Nat) : State :=
  let s1 := s.updCtl (fun c => { c with events := AMap.set c.events e (v % 2 ^ 64) })
  s1.push ((s1.ctl.journal.filter (fun p => p.2.state == 1 && p.2.accepted && (p.2.type == 4 || p.2.type == 9))).map
    (fun p => Event.journalAccept p.1))

/-- Records of a FEED are appended one by one; an error while a line of the ring must be waited for. -/
def feedRecords (w n : Nat) (j : Nat) : Nat → List Byte → State → Except State (State × Option Nat)
  | 0, _, s => .ok (s, none)
  | k + 1, bs, s =>
    match wqAppend s w (bs.take n) with
    | .wait s1 => .error s1
    | .fault s1 cause kind a => .ok (s1.reportFault cause kind a, some (((AMap.find? s1.ctl.journal j).map (·.stepsDone)).getD 0))
    | .ok s1 _ => feedRecords w n j k (bs.drop n) (s1.updCtl (fun c => { c with
        journal := AMap.upd c.journal j {} (fun e => { e with stepsDone := e.stepsDone + 1 }) }))

/-- Unsigned comparison of PRED. -/
def predHolds (cond x v : Nat) : Bool :=
  match cond with
  | 0 => x == v | 1 => x != v | 2 => decide (x < v) | 3 => decide (x ≤ v) | 4 => decide (x > v) | _ => decide (x ≥ v)

/-- The copy of a COPY packet, on the copy engine of cluster 0 of its die, with supervisor rights. -/
def copyCommand (j : Nat) (b : Nat) : Command :=
  { body := .cpyl (pk b 16 8) (pk b 24 8) .glob .glob (pk b 32 8), asid := pk b 40 2, super := true, engine := 256 + 8 * pk b 42 1
    core := 32 * pk b 42 1, packet := some j }

/-- A started packet acts, or goes on waiting. The range of an OWN or INVAL is widened to whole pages, and one of length 0 ends with
status 0, as R331 has it for the instructions (DESIGN CHOICE, LOG 20). -/
def startPacket (j : Nat) (e : JEntry) (s : State) : State :=
  let b := e.body
  if s.isTaken j then s
  else
    match e.type with
    | 1 =>
      let target := pk b 16 8
      let s1 := match AMap.find? s.ctl.journal target with
        | some x =>
          if x.type ≠ 9 then s
          else
            match List.find? (fun (g : Nat × Grid) => g.2.packet == some target) s.grids with
            | some (g, _) => s.push [.gridCancel g]
            | none => if x.state = 1 then s.updCtl (fun c => { c with journal := AMap.set c.journal target { x with cancel := true } }) else s
        | none => s
      s1.packetNow j 0
    | 2 =>
      let r := widen (pk b 16 8) (pk b 24 8)
      if r.2 = 0 then s.packetNow j 0
      else if 16 ≤ s.ctl.flips.length then s
      else (s.handOff j s.nextOp e).startFlip { asid := pk b 32 2, base := r.1, len := r.2, host := pk b 34 1 == 1, packet := some j }
    | 3 =>
      let r := widen (pk b 16 8) (pk b 24 8)
      if r.2 = 0 then s.packetNow j 0
      else if 64 ≤ s.ctl.invals.length then s
      else (s.handOff j s.nextOp e).startInval { asid := pk b 32 2, all := bitN (pk b 34 1) 0, base := r.1, len := r.2, packet := some j }
    | 4 => if pk b 24 8 ≤ s.eventOf (pk b 16 2) then s.packetNow j 0 else s.lookPast e.queue (s.queue e.queue).head
    | 5 => if s.earlierDone e.queue j then (s.setEvent (pk b 16 2) (s.eventOf (pk b 16 2) + 1)).packetNow j 0 else s
    | 6 => if s.earlierDone e.queue j then s.packetNow j 0 else s
    | 7 =>
      let id := s.nextCommand
      ({ s.handOff j id e with nextCommand := id + 1, commands := AMap.set s.commands id (copyCommand j b) }).push [.commandStart id]
    | 8 =>
      let w := s.wq (pk b 28 1)
      let left := pk b 24 4 - e.stepsDone
      if e.stepsDone = 0 ∧ w.cap < w.count + pk b 24 4 then s
      else
        match feedRecords (pk b 28 1) w.recBytes j left (e.extra.drop (e.stepsDone * w.recBytes)) s with
        | .error s1 => s1
        | .ok (s1, none) => s1.packetNow j 0
        | .ok (s1, some n) => s1.packetNow j (0x01000000 + n)
    | 9 =>
      if pk b 26 1 = 1 ∧ s.eventOf (pk b 32 2) < pk b 40 8 then s.lookPast e.queue (s.queue e.queue).head
      else
        let g := s.nextGrid
        ((s.handOff j g e).ownLines (aheadTag e.queue e.position) g).newGrid
          { record := leValue e.extra, number := 0, packet := some j, window := true, cancel := e.cancel }
    | 10 =>
      if !s.earlierDone e.queue j then s.lookPast e.queue (s.queue e.queue).head
      else
        match s.ctlRead (pk b 24 2) (pk b 16 8) 8 with
        | .wait s1 => s1
        | .fault s1 cause kind a => (s1.reportFault cause kind a).packetNow j 0x204
        | .ok s1 bs =>
          let r := predHolds (pk b 26 1) (leValue bs &&& pk b 32 8) (pk b 40 8)
          let a := pk b 27 1
          let first := (e.position + 1) % 2 ^ 24
          let arm := if r then ((first + a) % 2 ^ 24, pk b 28 1) else (first, a)
          (s1.updQueue e.queue (fun x => { x with skipTo := x.skipTo ++ (if arm.2 = 0 then [] else [arm]) })).packetNow j 0
    | _ => s

/-- The operation of an accepted entry starts (R457), or is tried again. -/
def startEntry (j : Nat) (e : JEntry) (s : State) : State :=
  if e.state ≠ 1 then s
  else if e.type = 0x11 then
    ((s.updQueue e.queue (fun x => { x with
      tail := e.result
      seqs := if posDist x.tail e.result = 0 then x.seqs else x.seqs ++ [(e.result, e.sequence, e.port)] })).jstate j 3 id).push
      [.packet 0 e.queue]
  else if e.type = 0x10 then
    if s.isTaken j then s
    else
      ((s.takeIndex j s.nextGrid).jstate j 2 id).newGrid { record := e.body, number := 0, packet := some j, window := true }
  else startPacket j e s

/-- JOURNAL_ACCEPT (R457): memory accepts the entry, in order of index, JTAIL advances and its operation starts. A refused
packet writes its completion word. -/
def execJournalAccept (idx : Nat) (s : State) : Out :=
  match AMap.find? s.ctl.journal idx with
  | none => .next s
  | some e =>
    if e.accepted then .next (startEntry idx e (s.jowed idx e))
    else if s.ctl.journal.any (fun p => decide (p.1 < idx) && !p.2.accepted) then .next s
    else if !s.jready idx then .next s
    else
      let s1 := (s.jwrite (s.jaddr idx) (e.first idx ++ e.second)).updCtl (fun c => { c with
        jtail := idx, journal := AMap.set c.journal idx { e with accepted := true } })
      if e.state = 4 ∧ e.completion.isSome then .next (s1.push [.packetComplete idx])
      else .next (startEntry idx { e with accepted := true } s1)

/-- Final state of an entry with a status (R451, R452, R456). -/
def JEntry.ending (e : JEntry) : Nat :=
  if e.state = 4 ∨ e.status = 0x204 ∧ e.type = 10 then 4
  else if e.type = 7 ∧ 0x80000000 ≤ e.status then 5
  else if (e.type = 9 ∨ e.type = 0x10) ∧ 0x100 ≤ e.status then 4
  else if (e.type = 9 ∨ e.type = 0x10) ∧ e.status = 2 then 5
  else 3

/-- PACKET_COMPLETE: the completion word is written, and the entry takes its final state. A word that cannot be written is
reported. -/
def execPacketComplete (idx : Nat) (s : State) : Out :=
  match AMap.find? s.ctl.journal idx with
  | none => .next s
  | some e =>
    if e.state = 3 ∨ e.state = 5 ∨ e.state = 6 ∨ !(e.ended || e.state == 4) then .next s
    else
      let finish := fun (s : State) =>
        let s1 := (s.jstate idx e.ending (fun e => { e with completion := none, extra := [] })).push [.packet 0 e.queue]
        s1.push ((s1.ctl.journal.filter (fun p => p.2.state == 1 && p.2.accepted && p.2.queue == e.queue)).map (fun p => Event.journalAccept p.1))
      match e.completion with
      | none => if e.state = 4 then .next s else .next (finish s)
      | some a =>
        match s.ctlWrite e.asid a (leBytes 4 e.status ++ leBytes 4 idx) with
        | .wait s1 => .next s1
        | .fault s1 cause kind x => .next (finish (s1.reportFault cause kind x))
        | .ok s1 _ => .next (finish s1)

/-- WINDOW_RECORD_ACCEPT (R442): a captured record enters the journal. -/
def execWindowRecordAccept (slot : Nat) (s : State) : Out :=
  let w := AMap.getD s.ctl.lw slot {}
  let open_ := s.ctl.journal.any (fun p => p.2.type == 0x10 && p.2.queue == slot
    && (p.2.state == 1 || p.2.state == 2 && s.grids.any (fun g => g.2.packet == some p.1 && !g.2.accepted)))
  if !w.pending || !s.ctl.firmwareUp || !s.jroom || open_ then .next s
  else .next (s.journal { type := 0x10, queue := slot, port := 2, position := slot, body := w.captured, digest := digestNat w.captured }).1

/-- EVENT_WRITE (R453). -/
def execEventWrite (e value : Nat) (s : State) : Out := .next (s.setEvent e value)

/-! ## Descriptors (R229, R447) -/

/-- A descriptor with `size` bytes at an offset replaced. -/
def putBytes (old off size value : Nat) : Nat := setField old (8 * off) (8 * size) value

/-- The 256-bit descriptor of a command queue. -/
def CmdQueue.word (q : CmdQueue) : Nat :=
  (q.base % 2 ^ 56) * 2 ^ 200 + (q.asid % 2 ^ 16) * 2 ^ 184 + (q.size % 32) * 2 ^ 179 + q.head * 2 ^ 144 + q.tail * 2 ^ 120
    + (if q.enable then 1 else 0)

/-- QUEUE_DESCRIPTOR_WRITE: `size` bytes at offset `off` of a queue's descriptor. -/
def execQueueDescriptorWrite (q off size value : Nat) (s : State) : Out :=
  if 32 < off + size then .next s
  else
    let x := s.queue q
    let v := putBytes x.word off size value
    let on := bitN v 0
    if x.enable then .next (s.updQueue q (fun x => { x with enable := on }))
    else
      let y := { x with base := field v 200 56, asid := field v 184 16, size := field v 179 5 }
      let s1 := s.updQueue q (fun _ => { y with enable := on && y.valid })
      .next (if on && y.valid then s1.push [.packet 0 q] else s1)

/-- The 256-bit descriptor of a work queue. -/
def WorkQueue.word (w : WorkQueue) : Nat :=
  (w.base % 2 ^ 56) * 2 ^ 200 + (w.asid % 2 ^ 16) * 2 ^ 184 + (w.size % 32) * 2 ^ 179 + (w.record % 8) * 2 ^ 176
    + w.head * 2 ^ 128 + w.tail * 2 ^ 96 + w.refused * 2 ^ 64 + (if w.enable then 1 else 0)

/-- Whether a work queue may be enabled. -/
def WorkQueue.valid (w : WorkQueue) : Bool :=
  w.base % 64 == 0 && decide (4 ≤ w.size) && decide (w.size ≤ 20) && decide (w.record ≤ 4)

/-- WORK_QUEUE_DESCRIPTOR_WRITE. -/
def execWorkQueueDescriptorWrite (w off size value : Nat) (s : State) : Out :=
  if 32 < off + size then .next s
  else
    let x := s.wq w
    let v := putBytes x.word off size value
    let on := bitN v 0
    if x.enable then
      let s1 := s.updWq w (fun x => { x with enable := on })
      .next (if on then s1 else wqWakeAll s1 w)
    else
      let y := { x with
        base := field v 200 56, asid := field v 184 16, size := field v 179 5, record := field v 176 3
        head := field v 128 32, tail := field v 96 32, refused := field v 64 32 }
      .next (s.updWq w (fun _ => { y with enable := on && y.valid }))

/-! ## Restart (R459) -/

/-- The newest entry that satisfies a condition. -/
def State.newest (s : State) (f : JEntry → Bool) : Option (Nat × JEntry) :=
  (s.ctl.journal.filter (fun p => f p.2)).getLast?

/-- FIRMWARE_RESTART: ports, queues, entries in flight and window captures are taken up from the journal; no hand-off takes
effect twice (R458). -/
def execFirmwareRestart (s : State) : Out :=
  let s1 := [0, 1].foldl (fun (s : State) p =>
    match s.newest (fun e => e.type == 0x11 && e.port == p) with
    | none => s
    | some (_, e) => s.updPort p (fun x => { x with
        fifo := x.fifo.filter (fun f => decide (2 ^ 31 ≤ (e.sequence + 2 ^ 32 - f.1) % 2 ^ 32)) })) s
  let s2 := (s1.ctl.queues.map (·.1)).foldl (fun (s : State) q =>
    let tl := s.newest (fun e => e.type == 0x11 && e.queue == q && e.state == 3)
    let hd := s.newest (fun e => e.queue == q && (decide (e.type < 0x10) || e.type == 0x12))
    s.updQueue q (fun x => { x with
      tail := match tl with
        | some (_, e) => e.result
        | none => x.tail
      head := match hd with
        | some (_, e) => if e.type = 0x12 then e.position else (e.position + 1) % 2 ^ 24
        | none => x.head })) s1
  .next (((s2.updCtl (fun c => { c with firmwareUp := true })).push
    ((s2.ctl.journal.filter (fun p => p.2.state == 1)).map (fun p => Event.journalAccept p.1)
      ++ (s2.ctl.queues.map (fun p => Event.packet 0 p.1)) ++ [.doorbellAccept 0, .doorbellAccept 1]
      ++ (s2.ctl.lw.filter (fun p => p.2.pending)).map (fun p => Event.windowRecordAccept p.1))))

end Sys2Proof.Machine
end

