-- ==== Sys2Proof/Machine/Debug.lean ====
section
/-! DEFINITION. Debug registers, the PC sampler, LOSS packets and the deadlock report (spec 19 R477-R489), checker and
unclaimed-access registers (06 R175, 02 R31), the scrub port (16 R433). -/

namespace Sys2Proof.Machine

/-! ## Registers whose write has an effect -/

/-- Change the debug window of a core. -/
def State.updDebug (s : State) (g : Nat) (f : Debug → Debug) : State := s.updCore g (fun c => { c with dbg := f c.dbg })

/-- TBASE_WRITE. -/
def execTbaseWrite (core value : Nat) (s : State) : Out :=
  .next (s.updCore core (fun c => { c with tbase := value % 2 ^ 64 / 8 * 8 }))

/-- Debug registers of engine e: copy engine of cluster e below 64, collective engine of die e - 64. -/
def State.engineAt (s : State) (e : Nat) : EngineDebug := if e < 64 then (s.cluster e).eng else (s.die (e - 64)).eng

/-- Change them. -/
def State.updEngineAt (s : State) (e : Nat) (f : EngineDebug → EngineDebug) : State :=
  if e < 64 then s.updCluster e (fun x => { x with eng := f x.eng }) else s.updDie (e - 64) (fun x => { x with eng := f x.eng })

/-- The number a command's `engine` field has for engine e. -/
def engineUnit (e : Nat) : Nat := if e < 64 then 256 + e else 320 + (e - 64)

/-- ESTAT_RESUME (R481, R482): a stopped engine goes on; the command it stopped before may start. -/
def execEstatResume (engine : Nat) (s : State) : Out :=
  if 72 ≤ engine ∨ !(s.engineAt engine).stopped then .next s
  else
    .next ((s.updEngineAt engine (fun e => { e with stopped := false, passed := true })).push
      ((s.commands.filter (fun p => p.2.engine == engineUnit engine && p.2.st == .queued)).map (fun p => Event.commandStart p.1)))

/-- EICTL_WRITE (R488). -/
def execEictlWrite (die value : Nat) (s : State) : Out :=
  .next (s.updDie die (fun d => { d with eictl := field value 31 1 * 2 ^ 31 + value % 256 }))

/-- PREFETCH_COUNTER_CLEAR (R484): 0 PFISSUE, 1 PFUSE, 2 PFLATE, 3 PFDROP. -/
def execPrefetchCounterClear (core k : Nat) (s : State) : Out :=
  .next (s.updDebug core (fun d => { d with pf := AMap.erase d.pf k }))

/-- CKSTAT_CLEAR (R175). -/
def execCkstatClear (checker : Nat) (s : State) : Out :=
  let (d, ty, ix) := checkerParts checker
  .next (s.updChecker d ty ix (fun c => { c with violations := 0, last := 0 }))

/-- UNCLM_CLEAR (R31). -/
def execUnclmClear (die : Nat) (s : State) : Out := .next (s.updDie die (fun d => { d with unclm := 0 }))

/-- An access to an offset that holds no register is counted (R31). -/
def State.unclaimed (s : State) (die : Nat) : State := s.updDie die (fun d => { d with unclm := min (d.unclm + 1) 0xFFFFFFFF })

/-- UNCLAIMED_ACCESS: a read gives zero, a write is discarded; either is counted. -/
def execUnclaimedAccess (die : Nat) (_write : Bool) (s : State) : Out := .next (s.unclaimed die)

/-! ## PC samples (R485) -/

/-- Reason code of a wait. -/
def Wait.reason : Wait → Nat
  | .flags | .earlier | .translation | .missPort | .lineBusy | .answer | .invals | .flips => 1
  | .barrier _ _ => 2
  | .future _ | .grids | .batch _ | .batchesFull | .tag _ | .tagsFull => 3
  | .counter _ => 4
  | .workQueue _ | .event => 5
  | .fold => 6
  | .releaseFull | .tasterFull | .checked _ => 7
  | _ => 8

/-- Whether a holder waits for its next instruction to be fetched. -/
def Holder.fetching (h : Holder) : Bool :=
  h.status == .blocked .answer && h.ext.any (fun x => x.size == 128 && !x.launch && x.pc == h.pc)

/-- Status and reason of a holder in a slot. -/
def State.sampleOf (s : State) (g q : Nat) (h : Holder) : Nat × Nat :=
  let why := match h.status with
    | .blocked w => if s.waitOver g q h w then 0 else w.reason
    | .ready => 0
    | _ => 8
  if s.issue.contains (g, q) then (0, 0)
  else if h.fetching then (4, 0)
  else if !(s.core g).active.contains q then (3, why)
  else if why = 0 then (1, 0) else (2, why)

/-- A sample record. -/
def sampleRecord (clock q reason status pc : Nat) : List Byte :=
  leBytes 16 (clock % 2 ^ 48 * 2 ^ 80 + q * 2 ^ 75 + reason * 2 ^ 71 + status * 2 ^ 64 + pc % 2 ^ 56)

/-- Sampling period of a core. -/
def Debug.period (d : Debug) : Nat := if 64 ≤ d.psper ∧ d.psper ≤ 2 ^ 24 then d.psper else 4096

/-- The sampler takes the next slot that is occupied, or turned free during the period. -/
def samplePc (s : State) (g : Nat) : State :=
  let c := s.core g
  let qs := (List.range 32).filter (fun q => AMap.has c.slots q || AMap.has c.dbg.exited q)
  match (qs.filter (fun q => decide (c.dbg.sampleSlot ≤ q))) ++ qs with
  | [] => s
  | q :: _ =>
    let rec_ := match AMap.find? c.slots q with
      | some h => let x := s.sampleOf g q h; sampleRecord s.clock q x.2 x.1 h.pc
      | none => sampleRecord s.clock q 0 5 (AMap.getD c.dbg.exited q 0)
    (s.coreRing g 2 rec_).updDebug g (fun d => { d with sampleSlot := (q + 1) % 32, exited := [] })

/-- PC_SAMPLE. -/
def execPcSample (core : Nat) (s : State) : Out :=
  let d := (s.core core).dbg
  if bitN d.dbgctl 2 && s.clock % d.period == 0 then .next (samplePc s core) else .next s

/-! ## LOSS (R489) -/

/-- TRACE_LOSS: once the FIFO has room for LOSS and one SYNC of each traced slot that holds a holder. -/
def execTraceLoss (core : Nat) (s : State) : Out :=
  let c := s.core core
  let on := c.slots.filter (fun p => c.traced p.1)
  if c.dbg.dropped = 0 ∨ 1024 < c.dbg.fifo.length + 4 + 28 * on.length then .next s
  else
    let loss := [0xE0#8, BitVec.ofNat 8 (min (s.clock - c.dbg.lastPacket) 255)] ++ leBytes 2 c.dbg.dropped
    let s1 := s.updDebug core (fun d => { d with fifo := d.fifo ++ loss, dropped := 0, lastPacket := s.clock })
    .next (on.foldl (fun (s : State) (p : Nat × Holder) => s.traceSync core p.1 p.2) s1)

/-! ## The deadlock report (R486) -/

/-- A slot of the package; slot 32 stands for a piece of the core. -/
structure Place2 where
  core : Nat
  slot : Nat
  h : Holder
  deriving DecidableEq, Repr, Inhabited

/-- The unfinished `coll` commands that a wait on some commands stands behind: those commands and the ones ahead of them
in their queues. -/
def State.collsAhead (s : State) (ids : List Nat) : List Command :=
  let cs := ids.filterMap (AMap.find? s.commands)
  (s.commands.filter (fun p => (match p.2.body with | .coll _ _ _ _ _ => true | _ => false)
    && cs.any (fun c => c.grid == p.2.grid && c.team == p.2.team && c.queue == p.2.queue && decide (p.2.seq ≤ c.seq)))).map (·.2)

/-- Commands that a blocked holder waits for. -/
def State.waitedCmds (s : State) (h : Holder) : List Nat :=
  match h.status with
  | .blocked (.future r) =>
    match (AMap.find? h.tags r).bind (AMap.find? s.futures) with
    | some { op := .command id, .. } => [id]
    | _ => []
  | .blocked (.batch _) => (h.batches.flatMap (·.2)).filter (AMap.has s.commands)
  | _ => []

/-- Teams of a collective's ranks that have not arrived. -/
def State.missingRanks (s : State) (c : Command) : List Nat :=
  match c.body with
  | .coll _ _ t0 n _ =>
    let here := (s.instanceOf c).map (fun p => p.2.team)
    ((List.range n).map (· + t0)).filter (fun t => !here.contains t)
  | _ => []

/-- Object kind and number that a blocked holder waits at: 1 barrier, 2 collective, 3 event, 4 work queue, else 0. -/
def State.waitObject (s : State) (h : Holder) : Nat × Nat :=
  match h.status with
  | .blocked (.barrier b _) => (1, b)
  | .blocked .event => (3, (h.ev.map (·.ea)).getD 0)
  | .blocked (.workQueue w) => (4, w)
  | _ => match s.collsAhead (s.waitedCmds h) with
    | c :: _ => (2, c.seq)
    | [] => (0, 0)

/-- Whether the report looks at a holder. -/
def Holder.mayStall (h : Holder) : Bool :=
  match h.status with
  | .blocked (.barrier _ _) | .blocked (.future _) | .blocked (.batch _) | .blocked .grids | .blocked (.workQueue _)
  | .blocked .event => true
  | _ => false

/-- Whether one stalled holder waits for another: in `barw`, for a holder of its team that does not wait at the same
phase; otherwise for the holders of the ranks of a collective that have not arrived, and for the issuer of a `coll` ahead. -/
def State.waitsFor (s : State) (a b : Place2) : Bool :=
  let t := s.tsize a.h
  let sameTeam := a.h.grid == b.h.grid && a.h.teamOf t == b.h.teamOf t
  match a.h.status with
  | .blocked (.barrier o p) => sameTeam && b.h.status != .blocked (.barrier o p)
  | _ => (s.collsAhead (s.waitedCmds a.h)).any (fun c =>
      b.h.grid == c.grid && ((s.missingRanks c).contains (b.h.teamOf t) || c.team == b.h.teamOf t && !(a.core == b.core && a.slot == b.slot)))

/-- Holders and pieces of the package: whatever an edge of the report can lead to. -/
def State.edgeEnds (s : State) : List Place2 :=
  s.cores.flatMap (fun (p : Nat × Core) =>
    p.2.slots.map (fun x => (⟨p.1, x.1, x.2⟩ : Place2)) ++ p.2.pieces.map (fun x => (⟨p.1, 32, x.holder⟩ : Place2)))

/-- Paths that come back to their first holder through holders of higher place: the simple cycles, each once. -/
def cyclesFrom (s : State) (nodes : List Place2) (start : Place2) : Nat → List Place2 → List (List Place2)
  | 0, _ => []
  | n + 1, path =>
    match path with
    | [] => []
    | cur :: _ =>
      let here := if s.waitsFor cur start then [path.reverse] else []
      let next := nodes.filter (fun x =>
        decide (start.core * 32 + start.slot < x.core * 32 + x.slot) && !path.contains x && s.waitsFor cur x)
      here ++ next.flatMap (fun x => cyclesFrom s nodes start n (x :: path))

/-- A record of the report (its last 12 bytes: object kind, 4 bytes, and number, LOG 24). -/
def deadlockRecord (s : State) (cycle pos len : Nat) (x : Place2) : List Byte :=
  let o := s.waitObject x.h
  leBytes 4 cycle ++ leBytes 2 pos ++ leBytes 2 len ++ leBytes 2 Config.pkgId ++ leBytes 1 x.core ++ leBytes 1 x.slot
    ++ leBytes 8 x.h.pc ++ leBytes 4 o.1 ++ leBytes 8 o.2

/-- Records go to the ring at DLBASE. -/
def State.putReport (s : State) (bs : List Byte) : State :=
  let (s1, r) := s.ringPut s.ctl.dl bs
  s1.updCtl (fun c => { c with dl := r })

/-- Write cycles, each with the next number. -/
def putCycles : List (List Place2) → State → State
  | [], s => s
  | c :: cs, s =>
    let n := s.ctl.dlCycle
    let s1 := ((List.range c.length).zip c).foldl (fun (s : State) p => s.putReport (deadlockRecord s n p.1 c.length p.2)) s
    putCycles cs (s1.updCtl (fun k => { k with dlCycle := (n + 1) % 2 ^ 32 }))

/-- DEADLOCK_SCAN: every 2^24 ck; a holder whose PROG has not moved since the last scan is stalled. -/
def execDeadlockScan (s : State) : Out :=
  if s.clock % 2 ^ 24 ≠ 0 then .next s
  else
    let all := s.cores.flatMap (fun (p : Nat × Core) =>
      (p.2.slots.filter (fun x => x.2.mayStall)).map (fun x => (⟨p.1, x.1, x.2⟩ : Place2)))
    let seen := fun (x : Place2) => AMap.find? s.ctl.dlSeen (x.core * 32 + x.slot) == some (s.issueCount x.core x.slot)
    let nodes := all.filter seen
    let ends := s.edgeEnds
    let alone := nodes.filter (fun x => !ends.any (fun y => s.waitsFor x y))
    let s1 := putCycles (nodes.flatMap (fun x => cyclesFrom s nodes x nodes.length [x])) s
    let s2 := alone.foldl (fun (s : State) x =>
      (s.putReport (deadlockRecord s s.ctl.dlCycle 0 0 x)).updCtl (fun k => { k with dlCycle := (k.dlCycle + 1) % 2 ^ 32 })) s1
    .next (s2.updCtl (fun k => { k with
      dlSeen := all.foldl (fun (m : AMap Nat) x => AMap.set m (x.core * 32 + x.slot) (s.issueCount x.core x.slot)) [] }))

/-! ## The scrub port (R433) -/

/-- A scrub command is refused. -/
def State.scrubRefused (s : State) (b : Bool) : State := s.updCtl (fun c => { c with scrRefused := b })

/-- SCRUB_START: bit 0 of a SCRCTL write. -/
def execScrubStart (value : Nat) (s : State) : Out :=
  let line := field s.ctl.scraddr 0 45
  if !bitN value 0 then .next s
  else if s.ctl.scrBusy || (s.dirOf line).st != .n || !deviceMem s (line * 128) then .next (s.scrubRefused true)
  else .next (((s.scrubRefused false).updCtl (fun c => { c with scrBusy := true })).push [.scrubPerform])

/-- A line's new contents, record and directory entry. -/
def scrubLine (line data : Nat) (s : State) : State :=
  let s1 := (s.dirOf line).holders.foldl (fun s a => s.dropL1 a line) s
  let s2 := (s1.closeRecord line 3).setInterval line 0
  let s3 := { s2 with
    mem := Memory.writeLE s2.mem (line * 128) 128 data
    poison := s2.poison.filter (· != line)
    backing := AMap.erase s2.backing line }
  let s4 := (s3.setDir line { s3.dirOf line with st := .i, owner := none, sharers := [], payload := 0 }).openRecord line 4 (agentId .firmware) []
  (s4.homeStamp line none 1).1

/-- SCRUB_PERFORM: at the line's home, when the line is not busy. -/
def execScrubPerform (s : State) : Out :=
  let line := field s.ctl.scraddr 0 45
  if !s.ctl.scrBusy || s.busyLine line then .next s
  else .next ((scrubLine line s.ctl.scrdata s).updCtl (fun c => { c with scrBusy := false }))

/-- QUARANTINE_CLEAR: SCRADDR names the L1 Cupper. -/
def execQuarantineClear (s : State) : Out :=
  let (d, ty, ix) := checkerParts (field s.ctl.scraddr 0 16)
  let g := 32 * d + ix
  if ty = 1 ∧ s.dies.any (fun p => AMap.has p.2.quarantined g) then
    .next ((s.scrubRefused false) |> fun (s1 : State) =>
      { s1 with dies := s1.dies.map (fun p => (p.1, { p.2 with quarantined := AMap.erase p.2.quarantined g })) })
  else .next (s.scrubRefused true)

end Sys2Proof.Machine
end

