-- ==== Sys2Proof/Machine/Hmac.lean ====
section
/-! DEFINITION. The check field of an exported handle (spec 02 R36): HMAC-SHA-384, as FIPS 180-4 and FIPS 198-1 lay it down, under
a key that the owner keeps. -/

namespace Sys2Proof.Machine

/-- The round constants of SHA-512 and SHA-384 (FIPS 180-4). -/
def shaRounds : List Nat :=
  [0x428a2f98d728ae22, 0x7137449123ef65cd, 0xb5c0fbcfec4d3b2f, 0xe9b5dba58189dbbc,
   0x3956c25bf348b538, 0x59f111f1b605d019, 0x923f82a4af194f9b, 0xab1c5ed5da6d8118,
   0xd807aa98a3030242, 0x12835b0145706fbe, 0x243185be4ee4b28c, 0x550c7dc3d5ffb4e2,
   0x72be5d74f27b896f, 0x80deb1fe3b1696b1, 0x9bdc06a725c71235, 0xc19bf174cf692694] ++
  [0xe49b69c19ef14ad2, 0xefbe4786384f25e3, 0x0fc19dc68b8cd5b5, 0x240ca1cc77ac9c65,
   0x2de92c6f592b0275, 0x4a7484aa6ea6e483, 0x5cb0a9dcbd41fbd4, 0x76f988da831153b5,
   0x983e5152ee66dfab, 0xa831c66d2db43210, 0xb00327c898fb213f, 0xbf597fc7beef0ee4,
   0xc6e00bf33da88fc2, 0xd5a79147930aa725, 0x06ca6351e003826f, 0x142929670a0e6e70] ++
  [0x27b70a8546d22ffc, 0x2e1b21385c26c926, 0x4d2c6dfc5ac42aed, 0x53380d139d95b3df,
   0x650a73548baf63de, 0x766a0abb3c77b2a8, 0x81c2c92e47edaee6, 0x92722c851482353b,
   0xa2bfe8a14cf10364, 0xa81a664bbc423001, 0xc24b8b70d0f89791, 0xc76c51a30654be30,
   0xd192e819d6ef5218, 0xd69906245565a910, 0xf40e35855771202a, 0x106aa07032bbd1b8] ++
  [0x19a4c116b8d2d0c8, 0x1e376c085141ab53, 0x2748774cdf8eeb99, 0x34b0bcb5e19b48a8,
   0x391c0cb3c5c95a63, 0x4ed8aa4ae3418acb, 0x5b9cca4f7763e373, 0x682e6ff3d6b2b8a3,
   0x748f82ee5defb2fc, 0x78a5636f43172f60, 0x84c87814a1f0ab72, 0x8cc702081a6439ec,
   0x90befffa23631e28, 0xa4506cebde82bde9, 0xbef9a3f7b2c67915, 0xc67178f2e372532b] ++
  [0xca273eceea26619c, 0xd186b8c721c0c207, 0xeada7dd6cde0eb1e, 0xf57d4f7fee6ed178,
   0x06f067aa72176fba, 0x0a637dc5a2c898a6, 0x113f9804bef90dae, 0x1b710b35131c471b,
   0x28db77f523047d84, 0x32caab7b40c72493, 0x3c9ebe0a15c9bebc, 0x431d67c49c100d4c,
   0x4cc5d4becb3e42b6, 0x597f299cfc657e2a, 0x5fcb6fab3ad6faec, 0x6c44198c4a475817]

/-- The initial hash value of SHA-384 (FIPS 180-4). -/
def shaStart : List Nat :=
  [0xcbbb9d5dc1059ed8, 0x629a292a367cd507, 0x9159015a3070dd17, 0x152fecd8f70e5939,
   0x67332667ffc00b31, 0x8eb44a8768581511, 0xdb0c2e0d64f98fa7, 0x47b5481dbefa4fa4]

/-- A 64-bit word rotated right. -/
def rotr64 (x n : Nat) : Nat := rotlN x (64 - n) 64

/-- The four sigma functions of SHA-512, from two rotations and a third one or a shift. -/
def bigSigma (a b c x : Nat) : Nat := rotr64 x a ^^^ rotr64 x b ^^^ rotr64 x c
def smallSigma (a b c x : Nat) : Nat := rotr64 x a ^^^ rotr64 x b ^^^ x / 2 ^ c

/-- n more words of the message schedule, whose last sixteen words stand newest first. -/
def schedule : Nat → List Nat → List Nat
  | 0, w => w
  | n + 1, w =>
    schedule n (((smallSigma 19 61 6 (w.getD 1 0) + w.getD 6 0 + smallSigma 1 8 7 (w.getD 14 0) + w.getD 15 0) % 2 ^ 64) :: w)

/-- One round: the eight working variables a to h. -/
def shaRound (v : List Nat) (kw : Nat) : List Nat :=
  let x := fun (i : Nat) => v.getD i 0
  let ch := (x 4 &&& x 5) ^^^ ((2 ^ 64 - 1 - x 4) &&& x 6)
  let maj := (x 0 &&& x 1) ^^^ (x 0 &&& x 2) ^^^ (x 1 &&& x 2)
  let t1 := x 7 + bigSigma 14 18 41 (x 4) + ch + kw
  let t2 := bigSigma 28 34 39 (x 0) + maj
  [(t1 + t2) % 2 ^ 64, x 0, x 1, x 2, (x 3 + t1) % 2 ^ 64, x 4, x 5, x 6]

/-- A big-endian number of some bytes. -/
def beValue (bs : List Byte) : Nat := bs.foldl (fun n b => n * 256 + b.toNat) 0

/-- The bytes of a big-endian number. -/
def beBytes (n v : Nat) : List Byte := (leBytes n v).reverse

/-- One block of 128 bytes. -/
def shaBlock (hash : List Nat) (block : List Byte) : List Nat :=
  let w := (schedule 64 (((List.range 16).map (fun i => beValue ((block.drop (8 * i)).take 8))).reverse)).reverse
  let v := (shaRounds.zip w).foldl (fun v p => shaRound v (p.1 + p.2)) hash
  (hash.zip v).map (fun p => (p.1 + p.2) % 2 ^ 64)

/-- A message padded to whole blocks. -/
def shaPad (m : List Byte) : List Byte :=
  m ++ [0x80#8] ++ List.replicate ((239 - m.length % 128) % 128) 0#8 ++ beBytes 16 (8 * m.length)

/-- SHA-384 of a message: 48 bytes. -/
def sha384 (m : List Byte) : List Byte :=
  let p := shaPad m
  let blocks := (List.range (p.length / 128)).map (fun i => (p.drop (128 * i)).take 128)
  ((blocks.foldl shaBlock shaStart).take 6).flatMap (beBytes 8)

/-- HMAC-SHA-384 (FIPS 198-1). -/
def hmac384 (key m : List Byte) : List Byte :=
  let k0 := if 128 < key.length then sha384 key else key
  let k := k0 ++ List.replicate (128 - k0.length) 0#8
  sha384 (k.map (· ^^^ 0x5C#8) ++ sha384 (k.map (· ^^^ 0x36#8) ++ m))

/-- The check value of a handle (R36) from its bits 63:16, in the byte order of R4: the low 16 bits of the digest as a big-endian
number (LOG 41). -/
def handleCheck (bits : Nat) : Nat := beValue (hmac384 Config.exportKey (leBytes 6 bits)) % 2 ^ 16

end Sys2Proof.Machine
end

