-- ==== Sys2Proof/Machine/Fabric.lean ====
section
/-! DEFINITION. Epochs (spec 06 R156, R157), the links between dies and the fabric ports (01 R9, R13-R16),
imported handles and exports (02 R36, R37, 18 R472, R473). -/

namespace Sys2Proof.Machine

/-! ## Epochs -/

/-- Close the open epoch of core g with home checker `id`: its sums wait on the home's die to be compared. -/
def State.closeEpoch (s : State) (g id : Nat) : State :=
  let e := s.epochOf g id
  (s.nextEpoch g id).updDie (checkerParts id).1 (fun d => { d with closes := d.closes ++ [e] })

/-- EPOCH_CLOSE: when the core's clock count is congruent to 256 times its number, modulo 65,536. -/
def execEpochClose (core : Nat) (s : State) : Out :=
  if s.clock % 65536 ≠ 256 * core % 65536 then .next s
  else
    let ids := ((s.die (dieOf core)).checker 1 (core % 32)).peers
    let dies := (List.range 9).filter (fun d => ids.any (fun i => (checkerParts i).1 == d))
    .next ((ids.foldl (fun s i => s.closeEpoch core i) s).push (dies.map (Event.epochCompare core)))

/-- Compare the closed epochs of a core with the homes of a die; with `late`, those whose counts still differ 8,192 ck
after the close are violations with the timeout flag. -/
def compareEpochs (core die : Nat) (late : Bool) (s : State) : State :=
  let (mine, others) := (s.die die).closes.partition (fun e => e.core == core)
  let me := checkerId (dieOf core) 1 (core % 32)
  let kept := mine.filter (fun e => (match e.check with | .wait => true | _ => false) && !(late && decide (e.at_ + 8192 ≤ s.clock)))
  let s1 := s.updDie die (fun d => { d with closes := others ++ kept })
  mine.foldl (fun (s : State) e =>
    match e.check with
    | .ok => s
    | .bad ck peer x o sc rc => if late then s else (s.hashMismatch e ck peer x o sc rc false).1
    | .wait =>
      if late ∧ e.at_ + 8192 ≤ s.clock then
        if e.sent.2 ≠ e.got.2 then (s.hashMismatch e e.home me e.sent.1 e.got.1 e.sent.2 e.got.2 true).1
        else (s.hashMismatch e me e.home e.back.1 e.ret.1 e.back.2 e.ret.2 true).1
      else s) s1

/-- EPOCH_COMPARE. -/
def execEpochCompare (core die : Nat) (s : State) : Out := .next (compareEpochs core die false s)

/-- EPOCH_TIMEOUT: an epoch whose counts agree by now is compared as always. -/
def execEpochTimeout (core die : Nat) (s : State) : Out := .next (compareEpochs core die true (compareEpochs core die false s))

/-! ## Ports and links -/

/-- Fabric port p. -/
def State.link (s : State) (p : Nat) : Link := AMap.getD s.ctl.links p {}

/-- Change a fabric port. -/
def State.updLink (s : State) (p : Nat) (f : Link → Link) : State :=
  s.updCtl (fun c => { c with links := AMap.set c.links p (f (s.link p)) })

/-- Whether two dies have a link (R13): ring neighbours, cross partners, and the control die with each. -/
def linkExists (a b : Nat) : Bool :=
  if a = 8 ∨ b = 8 then a != b && decide (a ≤ 8) && decide (b ≤ 8)
  else decide (a < 8) && decide (b < 8) && [1, 4, 7].contains ((b + 8 - a) % 8)

/-- Whether the link between two dies is trained and up. -/
def State.linkUp (s : State) (a b : Nat) : Bool := linkExists a b && (s.die a).links.contains b

/-- Dies on the way from one die to another (R13, R14), which detours through the control die while a link is untrained or down. -/
def dieRoute (s : State) (src dst : Nat) : List Nat :=
  let via := match (dst + 8 - src) % 8 with
    | 2 => some ((src + 1) % 8)
    | 6 => some ((src + 7) % 8)
    | 3 | 5 => some ((src + 4) % 8)
    | _ => none
  if src = 8 ∨ dst = 8 ∨ src = dst then [dst]
  else
    match via with
    | none => if s.linkUp src dst then [dst] else [8, dst]
    | some v => if s.linkUp src v && s.linkUp v dst then [v, dst] else [8, dst]

/-- Die of a fabric port (R9). -/
def portDie (p : Nat) : Nat := p / 8

/-- Dies that a message between a die and a fabric port passes, the port's own last (R16). -/
def portRoute (s : State) (src port : Nat) : List Nat := dieRoute s src (portDie port)

/-! ## Imported handles (R36-R39, R473) -/

/-- Peer slot i. -/
def State.peer (s : State) (i : Nat) : PeerSlot := AMap.getD s.ctl.peers i {}

/-- Change a peer slot. -/
def State.updPeer (s : State) (i : Nat) (f : PeerSlot → PeerSlot) : State :=
  s.updCtl (fun c => { c with peers := AMap.set c.peers i (f (s.peer i)) })

/-- Owner of a handle. -/
def handleOwner (h : Nat) : Nat := field h 53 11

/-- Whether the importer accepts a handle's fields. -/
def handleOk (h : Nat) : Bool :=
  handleOwner h != Config.pkgId && decide (12 ≤ field h 23 6) && decide (field h 23 6 ≤ 38) && field h 16 4 == 0 && bitN h 20

/-- Whether the pod map marks a package lost. -/
def State.pkgLost (s : State) (p : Nat) : Bool := ((AMap.find? s.ctl.podMap p).map (·.state)) == some 3

/-- HANDLE_INSTALL. -/
def execHandleInstall (slot handle : Nat) (s : State) : Out :=
  if 4096 ≤ slot then .next s
  else
    let bad := fun (n : Nat) => Host.Outcome.next (s.updPeer slot (fun p => { p with status := n }))
    if (s.peer slot).st ≠ .empty then bad 1
    else if !handleOk handle then bad 2
    else if s.pkgLost (handleOwner handle) then bad 4
    else .next ((s.updPeer slot (fun p => { p with st := .installing, handle := handle % 2 ^ 64, inflight := 0 })).sendFabric
      (handleOwner handle) 0 (.installAsk (handleOwner handle) handle slot))

/-- INSTALL_REPLY: 0 confirms, 3 refuses, 4 is the timeout of 1 ms. -/
def execInstallReply (slot status : Nat) (s : State) : Out :=
  if (s.peer slot).st ≠ .installing then .next s
  else if status = 0 then .next (s.updPeer slot (fun p => { p with st := .active, status := 0 }))
  else .next (s.updPeer slot (fun p => { p with st := .empty, handle := 0, status := status % 256 }))

/-- HANDLE_UNINSTALL. -/
def execHandleUninstall (slot : Nat) (s : State) : Out :=
  if (s.peer slot).st ≠ .active then .next s
  else .next ((s.updPeer slot (fun p => { p with st := .draining })).push [.slotDrained slot])

/-- Lines of a peer slot that cores hold in Sr leave with the handle. -/
def State.dropPeerLines (s : State) (slot : Nat) : State :=
  { s with cores := s.cores.map (fun p => (p.1, { p.2 with
      l1 := p.2.l1.filter (fun l => !(l.2.st == .sr && field (l.1 * 128) 38 12 == slot)) })) }

/-- SLOT_DRAINED. -/
def execSlotDrained (slot : Nat) (s : State) : Out :=
  let p := s.peer slot
  if p.st = .draining ∧ p.inflight = 0 then
    .next ((s.updPeer slot (fun p => { p with st := .empty, handle := 0 })).dropPeerLines slot)
  else .next s

/-- Entry idx of the export table, as a 128-bit number; none when its line cannot be read. -/
def State.exportEntry (s : State) (idx : Nat) : Option Nat :=
  let pa := s.ctl.expbase + 16 * idx
  if 65536 ≤ idx ∨ regionOf s pa ≠ .hbm ∨ (s.homePoison (pa / 128)).isSome then none else some (Memory.readLE s.mem pa 16)

/-- Whether an entry stands for an export. -/
def exportValid (s : State) (e : Nat) : Bool :=
  let base := field e 76 52
  let n := 2 ^ field e 70 6
  bitN e 57 && decide (12 ≤ field e 70 6) && decide (field e 70 6 ≤ 38) && base % n == 0
    && (regionOf s base == .hbm || regionOf s base == .ddr) && regionOf s (base + n - 1) == regionOf s base

/-- OWNER_INSTALL_CHECK: this package is the owner. -/
def execOwnerInstallCheck (src handle slot : Nat) (s : State) : Out :=
  let ok := match s.exportEntry (field handle 37 16) with
    | none => false
    | some e =>
      exportValid s e && field handle 0 16 == handleCheck (field handle 16 48)
        && field handle 29 8 == field e 62 8 && field handle 20 3 &&& field e 58 3 == field handle 20 3
        && (bitN handle 22 || bitN handle 21 || bitN e 61)
  .next (s.sendFabric src 0 (.installAnswer src slot (if ok then 0 else 3)))

end Sys2Proof.Machine
end

