-- ==== Sys2Proof/Machine/Registers.lean ====
section
/-! DEFINITION. Register space (spec 02 R30, R31): which register stands at an offset, what it reads as, and what a write to
it does. -/

set_option Elab.async false

namespace Sys2Proof.Machine

/-- The registers of the package. `w` names words of a read-only block. -/
inductive Reg where
  | unclm (d : Nat)
  | ckstat (id : Nat) | cklast (id : Nat) | ckring (id n : Nat)
  | dbgctl (g : Nat) | ring (g r : Nat) | btsync (g : Nat) | psper (g : Nat) | bpaddr (g j : Nat) | haltctl (g : Nat)
  | pf (g k : Nat) | dlyinj (g : Nat) | tbase (g : Nat) | prog (g q : Nat)
  | frame (g q : Nat)
  | eiline (d : Nat) | eixor (d : Nat) | eictl (d : Nat)
  | estop (e : Nat) | estat (e : Nat) | er (e : Nat) | sr (e : Nat) | ectl (e : Nat)
  | wq (w : Nat) | lwslot (s : Nat) | submit (p : Nat) | inseq (p : Nat) | instat (p : Nat) | sem (p k : Nat)
  | queue (q : Nat) | jbase | jtail | event (e : Nat) | stream (k : Nat) | storage (n j : Nat)
  | handle (i : Nat) | sstat (i : Nat) | podmap (p : Nat) | expbase | dlbase | capdie
  | scraddr | scrctl | scrdata | atbase
  deriving DecidableEq, Repr, Inhabited

/-! ## The map -/

/-- A register with its first byte, from the start of its block, and its size. -/
abbrev RegAt := Reg × Nat × Nat

/-- Whether a checker identity's type and index exist on its die (R165). -/
def checkerExists (d ty ix : Nat) : Bool :=
  if d = 8 then (ty == 2 && decide (ix < 8)) || (ty == 4 && decide (ix < 16)) || (ty == 6 && ix == 0)
  else ((ty == 0 || ty == 1) && decide (ix < 32)) || (ty == 2 && decide (ix < 16)) || (ty == 3 && decide (ix < 2))
    || (ty == 5 && decide (ix < 9))

/-- Registers of a checker's window (R175): `o` is the offset in it, `b` the window's base. -/
def checkerReg (id b o : Nat) : Option RegAt :=
  if o < 8 then some (.ckstat id, b, 8)
  else if 0x40 ≤ o ∧ o < 0x70 then some (.cklast id, b + 0x40, 48)
  else if 0x10000 ≤ o ∧ o < 0x20000 then some (.ckring id ((o - 0x10000) / 64), b + o / 64 * 64, 64)
  else none

/-- Registers of a core's debug window (R477). -/
def debugReg (g b o : Nat) : Option RegAt :=
  if o < 8 then some (.dbgctl g, b, 8)
  else if o < 0x50 then some (.ring g ((o - 8) / 24), b + 8 + (o - 8) / 24 * 24, 24)
  else if o < 0x54 then some (.btsync g, b + 0x50, 4)
  else if o < 0x58 then some (.psper g, b + 0x54, 4)
  else if 0x60 ≤ o ∧ o < 0x80 then some (.bpaddr g ((o - 0x60) / 8), b + o / 8 * 8, 8)
  else if 0x80 ≤ o ∧ o < 0x84 then some (.haltctl g, b + 0x80, 4)
  else if 0x90 ≤ o ∧ o < 0xA0 then some (.pf g ((o - 0x90) / 4), b + o / 4 * 4, 4)
  else if 0xA0 ≤ o ∧ o < 0xA8 then some (.dlyinj g, b + 0xA0, 8)
  else if 0xB0 ≤ o ∧ o < 0xB8 then some (.tbase g, b + 0xB0, 8)
  else if 0x100 ≤ o ∧ o < 0x180 then some (.prog g ((o - 0x100) / 4), b + o / 4 * 4, 4)
  else none

/-- Registers of an engine's window (R481). -/
def engineReg (e b o : Nat) : Option RegAt :=
  if o < 0x10 then some (.estop e, b, 16)
  else if o < 0x14 then some (.estat e, b + 0x10, 4)
  else if 0x20 ≤ o ∧ o < 0x38 then some (.er e, b + 0x20, 24)
  else if 0x40 ≤ o ∧ o < 0x58 then some (.sr e, b + 0x40, 24)
  else if 0x58 ≤ o ∧ o < 0x5C then some (.ectl e, b + 0x58, 4)
  else none

/-- Registers of the error injector (R488). -/
def injectorReg (d b o : Nat) : Option RegAt :=
  if o < 8 then some (.eiline d, b, 8)
  else if o < 0x10 then some (.eixor d, b + 8, 8)
  else if o < 0x14 then some (.eictl d, b + 0x10, 4)
  else none

/-- Registers of a port window (R444). -/
def portReg (p b o : Nat) : Option RegAt :=
  if o < 8 then some (.submit p, b, 8)
  else if o < 0xC then some (.inseq p, b + 8, 4)
  else if 0x10 ≤ o ∧ o < 0x18 then some (.instat p, b + 0x10, 8)
  else if 0x100 ≤ o ∧ o < 0x180 then some (.sem p ((o - 0x100) / 8), b + o / 8 * 8, 8)
  else none

/-- Registers of a storage port (R467). -/
def storageReg (n b o : Nat) : Option RegAt :=
  if o < 0x20 then some (.storage n (o / 8), b + o / 8 * 8, 8)
  else if o < 0x28 then some (.storage n (4 + (o - 0x20) / 4), b + o / 4 * 4, 4)
  else none

/-- The register that holds byte o of the control die's own block. -/
def controlReg (o : Nat) : Option RegAt :=
  let arr := fun (base n sz : Nat) (f : Nat → Reg) =>
    if base ≤ o ∧ o < base + n * sz then some (f ((o - base) / sz), base + (o - base) / sz * sz, sz) else none
  ((arr 0x02000000 256 32 .wq).orElse fun _ => (arr 0x04000000 64 8 .lwslot).orElse fun _ =>
    (arr 0x04004000 128 32 .queue).orElse fun _ => (arr 0x04008000 1 8 (fun _ => .jbase)).orElse fun _ =>
    (arr 0x04008008 1 8 (fun _ => .jtail)).orElse fun _ => (arr 0x04009000 4096 8 .event).orElse fun _ =>
    (arr 0x04020000 256 32 .stream).orElse fun _ =>
    (arr 0x04040000 8192 8 (fun i => if i % 2 = 0 then .handle (i / 2) else .sstat (i / 2))).orElse fun _ =>
    (arr 0x04050000 2048 8 .podmap).orElse fun _ => (arr 0x04054000 1 8 (fun _ => .expbase)).orElse fun _ =>
    (arr 0x04060000 1 24 (fun _ => .dlbase)).orElse fun _ => (arr 0x04070000 1 8 (fun _ => .capdie)).orElse fun _ =>
    (arr 0x04080000 1 8 (fun _ => .scraddr)).orElse fun _ => (arr 0x04080040 1 4 (fun _ => .scrctl)).orElse fun _ =>
    (arr 0x04080080 1 128 (fun _ => .scrdata)).orElse fun _ => arr Config.atbaseOffset 1 8 (fun _ => .atbase)).orElse fun _ =>
  if 0x04001000 ≤ o ∧ o < 0x04003000 then portReg ((o - 0x04001000) / 4096) (o / 4096 * 4096) (o % 4096)
  else if 0x04030000 ≤ o ∧ o < 0x04030200 then storageReg ((o - 0x04030000) / 256) (o / 256 * 256) (o % 256)
  else none

/-- The register that holds byte o of the register block of die d. -/
def regAt (d o : Nat) : Option RegAt :=
  if 0x100 ≤ o ∧ o < 0x104 then some (.unclm d, 0x100, 4)
  else if 0x21000000 ≤ o ∧ o < 0x21001000 then injectorReg d 0x21000000 (o - 0x21000000)
  else if d < 8 ∧ 0x20000000 ≤ o ∧ o < 0x20200000 then
    debugReg (32 * d + (o - 0x20000000) / 0x10000) (o / 0x10000 * 0x10000) (o % 0x10000)
  else if d < 8 ∧ 0x38000000 ≤ o ∧ o < 0x38020000 then
    some (.frame (32 * d + (o - 0x38000000) / 0x1000) ((o % 0x1000) / 0x80), o / 0x80 * 0x80, 128)
  else if d < 8 ∧ 0x22000000 ≤ o ∧ o < 0x22009000 then
    let c := (o - 0x22000000) / 0x1000
    engineReg (if c < 8 then 8 * d + c else 64 + d) (o / 0x1000 * 0x1000) (o % 0x1000)
  else if 0x10000000 ≤ o ∧ o < 0x2C000000 then
    let x := (o - 0x10000000) / 0x20000
    if checkerExists d (x / 512) (x % 512) then checkerReg (checkerId d (x / 512) (x % 512)) (o / 0x20000 * 0x20000) (o % 0x20000)
    else none
  else if d = 8 then controlReg o
  else none

/-! ## Reading -/

/-- A ring's registers. -/
def Ring.word (r : Ring) : Nat := r.base % 2 ^ 64 + r.size % 2 ^ 64 * 2 ^ 64 + r.head % 2 ^ 64 * 2 ^ 128

/-- The descriptor of a stream aperture (R463). -/
def Stream.word (x : Stream) : Nat :=
  x.target % 2 ^ 52 * 2 ^ 204 + x.span % 16 * 2 ^ 200 + x.expected * 2 ^ 168 + x.held.length * 2 ^ 160 + x.discarded * 2 ^ 128
    + x.refused * 2 ^ 96 + x.gap % 2 ^ 32 * 2 ^ 64 + (if x.stalled then 2 else 0) + (if x.enable then 1 else 0)

/-- Register j of a storage port. -/
def Storage.word (x : Storage) (j : Nat) : Nat :=
  match j with
  | 0 => x.dsb
  | 1 => x.ibbase
  | 2 => x.ibsize
  | 3 => x.ibtgt
  | 4 => x.cto
  | _ => (if x.up then 2 ^ 31 else 0) + x.rate % 8 * 2 ^ 28 + x.width % 16 * 2 ^ 24 + x.refused

/-- CAPDIE (R507). -/
def State.capdie (s : State) : Nat :=
  let bits := fun (f : Die → Bool) => (List.range 8).foldl (fun v d => if f (s.die d) then v + 2 ^ d else v) 0
  s.ctl.ddrGiB * 2 ^ 32 + s.ctl.clockMHz * 2 ^ 20 + s.ctl.bootState * 2 ^ 16 + bits (·.failed) * 2 ^ 8 + bits (·.online)

/-- Value of a register. -/
def State.regValue (s : State) (r : Reg) : Nat :=
  let ck := fun (id : Nat) => let (d, ty, ix) := checkerParts id; (s.die d).checker ty ix
  match r with
  | .unclm d => (s.die d).unclm
  | .ckstat id =>
    let c := ck id
    let ty := id / 2 ^ 9 % 8
    c.closed * 2 ^ 32 + c.violations * 2 ^ 16 + (if ty = 0 ∨ ty = 5 then 0 else c.closed % 1024)
  | .cklast id => (ck id).last
  | .ckring id n => AMap.getD (ck id).ring n 0
  | .dbgctl g => (s.core g).dbg.dbgctl
  | .ring g j => (AMap.getD (s.core g).dbg.rings j {}).word
  | .btsync g => (s.core g).dbg.btsync
  | .psper g => (s.core g).dbg.psper
  | .bpaddr g j => AMap.getD (s.core g).dbg.bpaddr j 0
  | .haltctl _ => 0
  | .pf g k => AMap.getD (s.core g).dbg.pf k 0
  | .dlyinj g => (s.core g).dbg.dlyinj
  | .tbase g => (s.core g).tbase
  | .prog g q => s.issueCount g q
  | .frame g q => AMap.getD (s.core g).trapFrames q 0
  | .eiline d => (s.die d).eiline
  | .eixor d => (s.die d).eixor
  | .eictl d => (s.die d).eictl
  | .estop e => (s.engineAt e).estop
  | .estat e => if (s.engineAt e).stopped then 1 else 0
  | .er e => (s.engineAt e).er.word
  | .sr e => (s.engineAt e).sr.word
  | .ectl e => (s.engineAt e).ectl
  | .wq w => (s.wq w).word
  | .lwslot k =>
    let w := AMap.getD s.ctl.lw k {}
    w.grid * 2 ^ 32 + (if w.pending then 2 ^ 16 else 0) + w.lastSeal * 2 ^ 8 + w.expected
  | .submit _ => 0
  | .inseq p => (s.port p).inseq
  | .instat p => let x := s.port p; (if x.overflow then 2 ^ 63 else 0) + x.lost * 2 ^ 32 + x.firstLost
  | .sem p k => (semTake p k s).1
  | .queue q => (s.queue q).word
  | .jbase => s.jbase
  | .jtail => s.ctl.jtail
  | .event e => s.eventOf e
  | .stream k => (s.stream k).word
  | .storage n j => (AMap.getD s.ctl.storage n {}).word j
  | .handle i => (s.peer i).handle
  | .sstat i =>
    let p := s.peer i
    p.status * 2 ^ 8 + (match p.st with | .empty => 0 | .installing => 1 | .active => 2 | .draining => 3)
  | .podmap p => match AMap.find? s.ctl.podMap p with
    | some e => s.ctl.podEpoch * 2 ^ 32 + e.replaced % 2 ^ 11 * 2 ^ 2 + e.state % 4
    | none => s.ctl.podEpoch * 2 ^ 32
  | .expbase => s.ctl.expbase
  | .dlbase => s.ctl.dl.word
  | .capdie => s.capdie
  | .scraddr => s.ctl.scraddr
  | .scrctl => (if s.ctl.scrBusy then 2 else 0) + (if s.ctl.scrRefused then 4 else 0)
  | .scrdata => s.ctl.scrdata
  | .atbase => s.ctl.atbase

/-- A read of part of a register: a semaphore's read takes it. -/
def State.regRead1 (s : State) (d o n : Nat) : Option (Nat × State) :=
  match regAt d o with
  | none => none
  | some (r, b, sz) =>
    if b + sz < o + n then none
    else
      let v := field (s.regValue r) (8 * (o - b)) (8 * n)
      match r with
      | .sem p k => some (v, if o = b then (semTake p k s).2 else s)
      | _ => some (v, s)

/-- A 4- or 8-byte read at an offset of register space: the value and the state after it. One of 8 bytes over a 4-byte register and
an empty half is two halves, of which the empty one is an unclaimed access (DESIGN CHOICE, LOG 16). -/
def State.regRead (s : State) (off n : Nat) : Nat × State :=
  let d := off / 2 ^ 30
  let o := off % 2 ^ 30
  match s.regRead1 d o n with
  | some x => x
  | none =>
    if n = 8 then
      match s.regRead1 d o 4, s.regRead1 d (o + 4) 4 with
      | some (a, _), some (b, _) => (a + b * 2 ^ 32, s)
      | some (a, _), none => (a, s.unclaimed d)
      | none, some (b, _) => (b * 2 ^ 32, s.unclaimed d)
      | none, none => (0, s.unclaimed d)
    else (0, s.unclaimed d)

/-! ## Writing -/

/-- The state after a step that always goes on. -/
def Out.orElse (o : Out) (s : State) : State :=
  match o with
  | .next s1 => s1
  | _ => s

/-- A ring's registers after a write: head is read-only. -/
def Ring.put (r : Ring) (v : Nat) : Ring := { r with base := field v 0 64, size := field v 64 64 }

/-- Whether a stream aperture may be enabled (R463). -/
def Stream.valid (x : Stream) (s : State) : Bool :=
  x.target % 4096 == 0 && decide (x.span ≤ 12)
    && (regionOf s x.target == .hbm || regionOf s x.target == .ddr) && regionOf s (x.target + x.spanBytes - 1) == regionOf s x.target

/-- A write of `n` bytes at byte `k` of a stream's descriptor. -/
def streamPut (s : State) (i k n v : Nat) : State :=
  let x := s.stream i
  let w := putBytes x.word k n v
  let on := if k = 0 then bitN w 0 else x.enable
  if x.enable then
    let s1 := if k < 25 ∧ 21 < k + n then (execStreamResync i (field w 168 32) s).orElse s else s
    s1.updStream i (fun x => { x with enable := on })
  else
    let y := { x with
      target := field w 204 52, span := field w 200 4, expected := field w 168 32
      discarded := if k < 20 ∧ 16 < k + n ∧ field w 128 32 = 0 then 0 else x.discarded
      refused := if k < 16 ∧ 12 < k + n ∧ field w 96 32 = 0 then 0 else x.refused
      gap := field w 64 32 }
    let s1 := s.updStream i (fun _ => { y with enable := on && y.valid s })
    if on && y.valid s then streamServe i s1 else s1

/-- A write to HALTCTL. -/
def haltPut (s : State) (g v : Nat) : State :=
  match field v 8 2 with
  | 1 => (execHaltResume g (field v 0 5) s).orElse s
  | 2 => (execHaltEnd g (field v 0 5) s).orElse s
  | _ => s

/-- A write of `n` bytes at byte `k` of a register; `fw` says that control-die firmware or the management interface
makes it. ATBASE and EXPBASE take a value that is not aligned as it is (DESIGN CHOICE, LOG 17). -/
def State.regPut (s : State) (r : Reg) (fw : Bool) (k n v : Nat) : State :=
  let w := putBytes (s.regValue r) k n v
  let run := fun (o : Out) => o.orElse s
  match r with
  | .unclm d => run (execUnclmClear d s)
  | .ckstat id => run (execCkstatClear id s)
  | .cklast _ | .ckring _ _ | .prog _ _ | .frame _ _ | .lwslot _ | .inseq _ | .jbase | .jtail | .capdie => s
  | .dbgctl g => s.updDebug g (fun d => { d with dbgctl := field w 32 32 * 2 ^ 32 + w % 32 })
  | .ring g j => s.updDebug g (fun d => { d with rings := AMap.upd d.rings j {} (fun x => x.put w) })
  | .btsync g => s.updDebug g (fun d => { d with btsync := w })
  | .psper g => s.updDebug g (fun d => { d with psper := w })
  | .bpaddr g j => s.updDebug g (fun d => { d with bpaddr := AMap.set d.bpaddr j w })
  | .haltctl g => haltPut s g w
  | .pf g j => run (execPrefetchCounterClear g j s)
  | .dlyinj g => s.updDebug g (fun d => { d with dlyinj := w })
  | .tbase g => run (execTbaseWrite g w s)
  | .eiline d => s.updDie d (fun x => { x with eiline := w % 2 ^ 45 })
  | .eixor d => s.updDie d (fun x => { x with eixor := w })
  | .eictl d => run (execEictlWrite d w s)
  | .estop e => s.updEngineAt e (fun x => { x with estop := w })
  | .estat e => if bitN w 0 then run (execEstatResume e s) else s
  | .er e => s.updEngineAt e (fun x => { x with er := x.er.put w })
  | .sr e => s.updEngineAt e (fun x => { x with sr := x.sr.put w })
  | .ectl e => s.updEngineAt e (fun x => { x with ectl := w % 4 })
  | .wq i => run (execWorkQueueDescriptorWrite i k n v s)
  | .submit p => if k = 0 ∧ n = 8 then run (execSubmit p v s) else s.unclaimed 8
  | .instat p => run (execInstatClear p s)
  | .sem p j => run (execSemWrite p j w s)
  | .queue q => run (execQueueDescriptorWrite q k n v s)
  | .event e => run (execEventWrite e w s)
  | .stream i => streamPut s i k n v
  | .storage i j => s.updCtl (fun c => { c with storage := AMap.upd c.storage i {} (fun x =>
      match j with
      | 0 => { x with dsb := w } | 1 => { x with ibbase := w } | 2 => { x with ibsize := w } | 3 => { x with ibtgt := w }
      | 4 => { x with cto := w } | _ => x) })
  | .handle i => if k = 0 ∧ n = 8 then run (execHandleInstall i v s) else s
  | .sstat i => if bitN (putBytes 0 k n v) 63 then run (execHandleUninstall i s) else s
  | .podmap p => if fw then
      s.updCtl (fun c => { c with
        podMap := AMap.set c.podMap p { pkg := p, state := field w 0 2, replaced := field w 2 11 } }) else s
  | .expbase => if fw then s.updCtl (fun c => { c with expbase := w }) else s
  | .dlbase => s.updCtl (fun c => { c with dl := c.dl.put w })
  | .scraddr => if fw then s.updCtl (fun c => { c with scraddr := w }) else s
  | .scrctl => if fw then
      let s1 := if bitN v 0 ∧ k = 0 then run (execScrubStart v s) else s
      if bitN v 3 ∧ k = 0 then (execQuarantineClear s1).orElse s1 else s1 else s
  | .scrdata => if fw ∧ !s.ctl.scrBusy then s.updCtl (fun c => { c with scrdata := w }) else s
  | .atbase => if fw then s.updCtl (fun c => { c with atbase := w }) else s

/-- A write of one piece; none where no register takes the whole of it. -/
def State.regWrite1 (s : State) (fw : Bool) (d o n v : Nat) : Option State :=
  match regAt d o with
  | none => none
  | some (r, b, sz) => if b + sz < o + n then none else some (s.regPut r fw (o - b) n v)

/-- A 4- or 8-byte write at an offset of register space. -/
def State.regWrite (s : State) (fw : Bool) (off n v : Nat) : State :=
  let d := off / 2 ^ 30
  let o := off % 2 ^ 30
  match s.regWrite1 fw d o n v with
  | some s1 => s1
  | none =>
    if n = 8 then
      match s.regWrite1 fw d o 4 (v % 2 ^ 32) with
      | some s1 =>
        match s1.regWrite1 fw d (o + 4) 4 (v / 2 ^ 32) with
        | some s2 => s2
        | none => s1.unclaimed d
      | none =>
        match s.regWrite1 fw d (o + 4) 4 (v / 2 ^ 32) with
        | some s2 => s2.unclaimed d
        | none => s.unclaimed d
    else s.unclaimed d

/-- REGISTER_WRITE: a write of 4 or 8 aligned bytes by the management interface. A register with no behaviour of its own
stores its value; the others do as their rows say. One in a downstream window goes out on its storage port (R32). The
reserved span of R30, which no page maps either (R31), and what lies beyond register space belong to nothing. -/
def execRegisterWrite (off size value : Nat) (s : State) : Out :=
  if 9 * 2 ^ 30 ≤ off ∧ off < 2 ^ 35 ∨ 2 ^ 36 ≤ off then .fault .outsideMap
  else if (size = 4 ∨ size = 8) ∧ off % size = 0 then
    if 2 ^ 35 ≤ off then .next (s.sendStorage off size (some (value % 2 ^ (8 * size))))
    else .next (s.regWrite true off size (value % 2 ^ (8 * size)))
  else .next (if off < 2 ^ 35 then s.unclaimed (off / 2 ^ 30) else s)

end Sys2Proof.Machine
end

