-- ==== Sys2Proof/Machine/Answers.lean ====
section
/-! DEFINITION. Answers to accesses that left the core (spec 02 R29, R31, R32, R35, R38, R44): register space, storage ports,
peers, the host; and requests that arrive from storage ports (18 R468) and from other packages (02 R38). -/

namespace Sys2Proof.Machine

/-- What answers an access: a value, or a fault of a cause and kind with the payload of a failed check, for a read of a storage
window with the value that the reading lane gets (R32). -/
inductive ExtReply where
  | val (v : Nat)
  | bad (cause kind : Nat) (v : Option Nat) (payload : Nat)
  deriving Repr, Inhabited

/-- An access to a peer has been answered (R37). -/
def State.leavePeer (s : State) (pa : Nat) : State :=
  if regionOf s pa = .peer then
    (s.updPeer (field pa 38 12) (fun p => { p with inflight := p.inflight - 1 })).push [.slotDrained (field pa 38 12)]
  else s

/-- A holder's unanswered access that satisfies a condition, in program order. -/
def Holder.asked (h : Holder) (f : ExtAccess → Bool) : Option ExtAccess := h.ext.find? (fun x => x.failed.isNone && f x)

/-- The stamp of an access that has been answered (R144): the fabric port's for a peer, the CXL home agent's for an atomic at the
host, the filter's for another access of the host (LOG 33), the core's for register space. -/
def State.extStamp (s : State) (g : Nat) (x : ExtAccess) : State × Nat :=
  let at_ := fun (u : Clocked) =>
    let (s1, t, _) := (s.carry (.core g) u).perform u 1
    (s1.carry u (.core g), t)
  match regionOf s x.pa with
  | .peer => at_ (.fabric (s.peerPort x.pa))
  | .host => at_ (if x.atom.isSome then .cxl (hostPort s x.pa) else homeUnit s (x.pa / 128))
  | _ =>
    let (s1, t, _) := s.coreStamp g 1
    (s1, t)

/-- The Taster entry of an access that has been answered (R144, R146). -/
def State.extEntry (s : State) (g q : Nat) (x : ExtAccess) (t : Nat) : State :=
  let reg := regionOf s x.pa == .reg || regionOf s x.pa == .storage
  let kind := if x.atom.isSome then 2 else if x.data.isSome then (if reg then 5 else 1) else if reg then 4 else 0
  (s.tasterPush g { max := t, min := t, sig := 2 ^ (field x.pa 5 5 ^^^ field x.pa 10 5), slot := q, kind := kind, order := x.order
                    scope := x.scope, sector := x.pa / 32 }).1

/-- A line of a read-only import arrives and is held in Sr (R39, R82); the access gets its bytes of it. -/
def State.bringLine (s : State) (g : Nat) (x : ExtAccess) (r : ExtReply) : State × ExtReply :=
  match r with
  | .val v =>
    if x.whole then
      let line := x.pa / 128
      let s1 := s.installL1 (s.l1Agent g) line { st := .sr }
      ({ s1 with mem := Memory.writeLE s1.mem (line * 128) 128 v }, .val (field v (8 * (x.pa % 128)) (8 * x.size)))
    else (s, r)
  | _ => (s, r)

/-- A long-latency instruction's access is answered. A lane of which a piece has failed gets no value. -/
def longReply (s : State) (g q : Nat) (h : Holder) (x : ExtAccess) (idx : Nat) (r : ExtReply) : State :=
  let n := 2 ^ (8 * x.size)
  let change := fun (h : Holder) (f : LongOp → LongOp) => { h with ll := h.ll.map (fun l => if l.idx = idx then f l else l) }
  let (s1, h1) : State × Holder := match r with
    | .val v =>
      let (s0, t) := s.extStamp g x
      let fl := match x.atom with
        | some a => (atomValue a.op a.elem (v % n) a.x a.new).2
        | none => 0
      (s0, change (loadAnswer h x (v % n) t) (fun l => { l with flags := l.flags ||| fl }))
    | .bad cause kind v p =>
      let (s0, h0) : State × Holder := match v with
        | some v =>
          let (s0, t) := s.extStamp g x
          (s0, loadAnswer h x (v % n) t)
        | none => (s, change { h with ext := h.ext.filter (fun y => y.tag != x.tag) } (fun l =>
            { l with vals := l.vals.filter (fun y => y.1 != x.lane) }))
      let first := fun (l : LongOp) => match l.bad with
        | some b => decide (x.lane < b.1)
        | none => true
      (s0, change h0 (fun l => if first l then { l with bad := some (x.lane, cause, kind, x.ea), badPayload := p } else l))
  (s1.putHolder g q h1).push [.longLatencyComplete g q idx]

/-- A store, or an atomic without a result, is answered: once all its lanes are, one that failed raises a deferred or a
precise trap at the lowest such lane (R512). -/
def writeReply (s : State) (g q : Nat) (h : Holder) (x : ExtAccess) (r : ExtReply) : State :=
  let same := fun (y : ExtAccess) => y.idx.isNone && y.data.isSome && y.pc == x.pc && y.count == x.count
  let (s1, h1) : State × Holder := match r with
    | .val v =>
      let fl := match x.atom with
        | some a => (atomValue a.op a.elem (v % 2 ^ (8 * x.size)) a.x a.new).2
        | none => 0
      let (s0, t) := s.extStamp g x
      (s0.extEntry g q x t, { h with ext := h.ext.filter (fun y => y.tag != x.tag) }.raiseFlags fl)
    | .bad cause kind _ p =>
      (s, { h with ext := h.ext.map (fun y => if y.tag = x.tag then { y with failed := some (cause, kind), payload := p } else y) })
  let mine := h1.ext.filter same
  if mine.isEmpty ∨ mine.any (fun y => y.failed.isNone) then s1.putHolder g q h1
  else
    let low := mine.foldl (fun (b : ExtAccess) y => if y.lane < b.lane then y else b) (mine.headD x)
    let (cause, kind) := low.failed.getD (0, 0)
    let (ln, m) := laneFault s1 h1 { lane := low.lane, ea := low.ea }
    let done := if h.kind = .range then 0#96
      else low.all &&& ~~~(laneSet (mine.map (fun y => { lane := y.lane, ea := y.ea })))
    (s1.putHolder g q { h1 with ext := h1.ext.filter (fun y => !same y) }).lateTrap g q x.pc x.count
      { cause := cause, kind := kind, lane := ln, tval := faultVal cause low.ea low.payload, member := m, done := done
        payload := withScope low.payload low.scope }

/-- The instruction at a holder's pc. -/
def State.instrAt (s : State) (h : Holder) : Option Instr :=
  let byte := fun (a n : Nat) =>
    match (walkTables s h.asid a).toOption with
    | some (e, _) => Memory.readLE s.mem (e.phys a) n
    | none => 0
  (decode (byte h.pc 8) (byte (h.pc + 8) 8)).toOption

/-- The 128 bytes of a record that `glaunch` has read are here (R417). -/
def launchReply (s : State) (g q : Nat) (h : Holder) (x : ExtAccess) (r : ExtReply) : State :=
  match r with
  | .bad cause kind _ p =>
    s.takeTrap g q h { cause := cause, kind := kind, lane := x.lane, tval := faultVal cause x.ea p, payload := withScope p 0, pc := h.pc
                       tpc := h.pc }
  | .val v =>
    match s.instrAt h with
    | some (.glaunch gd d a) =>
      let (s0, t) := s.extStamp g x
      releasePoint s0 g q h (launchScope v) fun s1 => launchFrom (s1.extEntry g q x t) g q (.glaunch gd d a) d h v
    | _ => s.putHolder g q { h with status := .ready }

/-- A line of a peer's code arrives (R39, R82): the fetch is made again. -/
def fetchReply (s : State) (g q : Nat) (h : Holder) (r : ExtReply) : State :=
  match r with
  | .bad cause kind _ p => s.takeTrap g q { h with status := .ready }
      { cause := cause, kind := kind, tval := faultVal cause h.pc p, payload := p, pc := h.pc, tpc := h.pc }
  | .val _ => s.putHolder g q { h with status := .ready }

/-- Pieces of one value that `wqpush` or `evwait` reads outside (R111): when the last one is here the instruction goes on. -/
def partReply (s : State) (g q : Nat) (h : Holder) (x : ExtAccess) (r : ExtReply) : State :=
  let mate := fun (y : ExtAccess) => y.idx.isNone && y.data.isNone && y.pc == x.pc && y.size != 0
  let scope := match h.ev with
    | some e => (scopeIn e.op.space e.op.scope).code
    | none => 4
  match r with
  | .bad cause kind _ p =>
    (s.dropAsks g q (h.ext.filter mate)).wakeTrap g q { h with ext := h.ext.filter (fun y => !mate y) } cause kind
      (faultVal cause x.ea p) (withScope p scope)
  | .val v =>
    let m := x.part + v % 2 ^ (8 * x.size) * 2 ^ (8 * x.off)
    let (s0, t) := s.extStamp g x
    let s1 := s0.extEntry g q (match h.ev with
      | some e => { x with order := e.op.order.code, scope := scope }
      | none => { x with scope := scope }) t
    if h.ext.any mate then s1.putHolder g q { h with ext := h.ext.map (fun y => if mate y then { y with part := m } else y) }
    else
      match x.wq, h.ev with
      | some a, _ => wqSend s1 g q h { a with data := leBytes a.data.length m }
      | none, some e => evSeen s1 g q h e m
      | none, none => s1.putHolder g q h

/-- An access of a holder is answered. -/
def State.answerExt (s0 : State) (g q : Nat) (x : ExtAccess) (r0 : ExtReply) : State :=
  let s1 := s0.leavePeer x.pa
  match s1.holder? g q with
  | none => s1
  | some h =>
    let (s, r) := s1.bringLine g x r0
    let h1 := { h with ext := h.ext.filter (fun y => y.tag != x.tag) }
    match x.idx, x.data with
    | some idx, _ => longReply s g q h x idx r
    | none, some _ => writeReply s g q h x r
    | none, none =>
      if x.launch then launchReply s g q h1 x r
      else if x.size = 0 then s.putHolder g q h1
      else if x.wq.isSome ∨ h.ev.isSome then partReply s g q h1 x r
      else fetchReply s g q h1 r

/-! ## Register space and storage ports -/

/-- REGISTER_SPACE_ANSWER: the oldest register-space access of a slot is answered (R29). -/
def execRegisterSpaceAnswer (core slot : Nat) (s : State) : Out :=
  match (s.holder? core slot).bind (fun h => h.asked (fun x => regionOf s x.pa == .reg)) with
  | none => .next s
  | some x =>
    match x.data with
    | none => let r := s.regRead (x.pa - regBase) x.size; .next (r.2.answerExt core slot x (.val r.1))
    | some v => .next ((s.regWrite false (x.pa - regBase) x.size v).answerExt core slot x (.val 0))

/-- STORAGE_COMPLETION: with no data, the read has failed or timed out (R32). -/
def execStorageCompletion (core slot : Nat) (data : Option Nat) (s : State) : Out :=
  match (s.holder? core slot).bind (fun h => h.asked (fun x => regionOf s x.pa == .storage)) with
  | none => .next s
  | some x =>
    .next (s.answerExt core slot x (match data with
      | some v => .val v
      | none => .bad 11 3 (some (2 ^ (8 * x.size) - 1)) 0))

/-- Whether a storage port takes inbound requests: its span lies in HBM4 or the populated DDR tier (R467). -/
def Storage.spanIn (x : Storage) (s : State) : Bool :=
  x.ibsize != 0 && x.ibbase % 4096 == 0 && x.ibsize % 4096 == 0 && x.ibtgt % 4096 == 0 && deviceMem s x.ibtgt
    && deviceMem s (x.ibtgt + x.ibsize - 1) && regionOf s x.ibtgt == regionOf s (x.ibtgt + x.ibsize - 1)

/-- HOST_ACCESS: by its region (R34, R462); the control die's register block is reached through the memory BAR, by aligned accesses of 4
or 8 bytes (R29, R30). An address that the map reserves belongs to nothing (R23, R33). -/
def execHostAccess (r : PhysReq) (s : State) : Out :=
  let off := r.pa - regBase
  if regionOf s r.pa = .reserved ∨ regionOf s (r.pa + r.size - 1) = .reserved then .fault .outsideMap
  else if regionOf s r.pa = .reg ∧ off / 2 ^ 30 = 8 ∧ (r.size = 4 ∨ r.size = 8) ∧ off % r.size = 0 then
    match r.data with
    | none =>
      let x := s.regRead off r.size
      .next (x.2.send (physAnswer r (some x.1)))
    | some v => .next (s.regWrite false off r.size v)
  else .next (hostServe r s)

/-- INBOUND_REQUEST: performed at the home as the port's agent, or refused and counted. -/
def execInboundRequest (port : Nat) (atomicOrPeer : Bool) (x size : Nat) (data : Option Nat) (s : State) : Out :=
  let p := AMap.getD s.ctl.storage port {}
  if atomicOrPeer || !p.spanIn s || decide (x < p.ibbase) || decide (p.ibbase + p.ibsize < x + size) then
    .next ((s.updCtl (fun c => { c with storage := AMap.set c.storage port { p with refused := min (p.refused + 1) 0xFFFF } })).send
      (.pcie port none))
  else .next (hostServe { agent := .storage port, pa := p.ibtgt + (x - p.ibbase), size := size, data := data } s)

/-! ## Peers (R38) -/

/-- A reply to a peer goes back. -/
def State.answerPeer (s : State) (r : PeerReq) (v : PeerReply) : State :=
  s.sendFabric r.src (r.off / 128) (.peerAnswer r.src r.tag v)

/-- Bytes of a peer access. -/
def peerOpSize : PeerOp → Nat
  | .read n => n
  | .write n _ => n
  | .atomic _ e _ _ => e.bytes

/-- The owner performs an access at its home under the memory type of its own mapping of the export, which is the owner's to know
(LOG 35), or refuses it as revoked; one that meets a busy line or a flip waits. -/
def peerPerform (r : PeerReq) (s : State) : State :=
  let keep := fun (s : State) => s.updCtl (fun c => { c with heldPeer := c.heldPeer ++ [r] })
  match s.exportEntry r.exportIdx with
  | none => s.answerPeer r .revoked
  | some e =>
    let n := peerOpSize r.op
    let pa := field e 76 52 + r.off
    let a := Agent.peer r.src
    let unc := Config.exportUncached r.exportIdx
    if !exportValid s e || field e 62 8 != r.gen || decide (2 ^ field e 70 6 < r.off + n) then s.answerPeer r .revoked
    else if s.flipHoldsPa pa || s.flipHoldsPa (pa + n - 1) then keep s
    else
      let done := fun (c : Coh) (f : State → State × Nat) =>
        match c with
        | .ok s1 =>
          let (s2, v) := f s1
          ((s2.homeStamp (pa / 128) none (sectorCount pa n)).1).answerPeer r (.data v)
        | .busy s1 => keep s1
        | .poison _ s1 | .contain _ s1 => s1.answerPeer r .lost
      match r.op with
      | .read _ =>
        done (if unc then uncachedLines (linesOf pa n) s else readLines { ctlCtx 0 with agent := a } (linesOf pa n) s)
          (fun s => ((linesOf pa n).foldl (fun s l => s.hostLeft l) s, leValue (s.physBytes pa n)))
      | .write _ v => done (s.homeWrite a (writeType a) unc pa (leBytes n v)) (fun s => (s, 0))
      | .atomic op el x new =>
        match (s.homeAtomicAt a none pa unc op el x new).1 with
        | .ok bs _ _ s1 | .ext _ bs _ _ s1 => s1.answerPeer r (.data (leValue bs))
        | .busy s1 => keep s1
        | .poison _ s1 | .contain _ s1 => s1.answerPeer r .lost

/-- PEER_ACCESS. -/
def execPeerAccess (r : PeerReq) (s : State) : Out := .next (peerPerform r s)

/-- Accesses of peers that had to wait are tried again, in arrival order. -/
def servePeers (s : State) : State :=
  s.ctl.heldPeer.foldl (fun s r => peerPerform r s) (s.updCtl (fun c => { c with heldPeer := [] }))

/-- A holder's access to a peer is answered (R38, R174, R422); data that comes back is checked (R151). -/
def peerExt (s : State) (g q : Nat) (x : ExtAccess) (r : PeerReply) : State :=
  let back := x.data.isNone || x.atom.isSome
  let line := x.pa / 128
  let (s1, bad) := match r with
    | .data v =>
      if back then s.receive (dieOf g) line 14 (agentId (Agent.peer 0)) (agentId (s.l1Agent g))
        (if x.whole then digestNat v else imageDigest x.pa (leBytes x.size v) line)
      else (s, none)
    | _ => (s, none)
  s1.answerExt g q x (match r with
    | .data v => match bad with
      | some p => .bad 10 (field p 104 8) none p
      | none => .val v
    | .revoked => .bad 5 0x18 none 0
    | .lost => .bad 11 (if x.data.isSome || x.atom.isSome then 5 else 1) none 0)

/-- A matrix engine's read of a peer or of the host is answered: the next piece of a B tile, or a scale of A. -/
def matrixReply (s0 : State) (clu slot : Nat) (r : PeerReply) : State :=
  let c := s0.cluster clu
  let take := fun (pa n : Nat) => match r with
    | .data v =>
      let (s1, bad) := engineData s0 (matrixUnit clu) pa n v
      (s1, v, false, bad.getD 0)
    | _ => (s0, 0, true, 0)
  if slot = 65535 then
    match c.fetch with
    | some p =>
      match p.todo with
      | (pa, n, _) :: rest =>
        if p.asked then
          let (s, v, bad, w) := take pa n
          (s.updCluster clu (fun c => { c with fetch := some { p with
            todo := rest, asked := false, got := p.got ++ leBytes n v, started := true
            poison := if bad ∧ p.poison = 0 then pa + 1 else p.poison
            payload := if p.payload = 0 then w else p.payload } })).push [.bFetchComplete clu]
        else s0
      | [] => s0
    | none => s0
  else
    match c.table.find? (fun e => e.id % 65536 == slot && !e.staged) with
    | some e =>
      match e.todo with
      | (m, pa) :: rest =>
        if AMap.has e.aScales (1000 + m) then
          let (s, v, bad, w) := take pa 4
          let e1 := { e with
            todo := rest
            aScales := AMap.set (AMap.erase e.aScales (1000 + m)) m (v % 2 ^ 32)
            poison := if bad ∧ e.poison = 0 then pa + 1 else e.poison
            payload := if e.payload = 0 then w else e.payload }
          (s.updCluster clu (fun c => { c with table := c.table.map (fun y => if y.id = e.id then e1 else y) })).push
            [.aStagingComplete clu e.id]
        else s0
      | [] => s0
    | none => s0

/-- An engine's, Drip's or the control die's access is answered; one to a peer counts at its slot no longer. -/
def unitReply (s : State) (ask : Nat × Nat × Nat) (r : PeerReply) : State :=
  let (unit, slot, pa) := ask
  let s1 := (s.updCtl (fun c => { c with engineAsks := c.engineAsks.erase ask })).leavePeer pa
  if unit = awayUnit then
    let at_ := ((s1.ctl.away.find? (fun a => a.tag == slot && a.answer.isNone)).map (·.unit)).getD 0
    let s2 := s1.awayReply slot r
    if at_ < 1000 then s2
    else s2.push ((s2.commands.filter (fun p => p.2.engine == at_ - 1000)).map (fun p => Event.commandComplete p.1))
  else if 336 ≤ unit then matrixReply s1 (unit - 336) slot r
  else if slot = 65534 then s1
  else
    match List.find? (fun (p : Nat × Command) => p.2.engine == unit && p.1 % 65536 == slot && p.2.asked) s1.commands with
    | some (id, c) => cmdReply s1 id c pa r
    | none => s1

/-- An answer to an access for which nobody waits any more ends its count at the peer slot (R37). -/
def State.orphanReply (s : State) (core slot : Nat) : Option State :=
  (s.ctl.orphans.find? (fun o => o.1 == core && o.2.1 == slot)).map (fun o =>
    (s.updCtl (fun c => { c with orphans := c.orphans.erase o })).leavePeer o.2.2)

/-- PEER_REPLY: to the oldest access of a slot to a peer, or to an engine's (LOG 30). -/
def execPeerReply (core slot : Nat) (r : PeerReply) (s : State) : Out :=
  match s.orphanReply core slot with
  | some s1 => .next s1
  | none =>
    if 256 ≤ core then
      match s.ctl.engineAsks.find? (fun a => a.1 == core && a.2.1 == slot && regionOf s a.2.2 == .peer) with
      | some a => .next (unitReply s a r)
      | none => .next s
    else
      match (s.holder? core slot).bind (fun h => h.asked (fun x => regionOf s x.pa == .peer)) with
      | none => .next s
      | some x => .next (peerExt s core slot x r)

/-! ## The host (R35, R44, R98) -/

/-- The first holder whose unanswered access satisfies a condition. -/
def State.findAsked (s : State) (f : ExtAccess → Bool) : Option (Nat × Nat × ExtAccess) :=
  s.cores.findSome? (fun p => p.2.slots.findSome? (fun h => (h.2.asked f).map (fun x => (p.1, h.1, x))))

/-- Cache operations on a line whose return to the host is complete (R384). -/
def endCacheOps (line : Nat) (s : State) : State :=
  { s with cores := s.cores.map (fun p => (p.1, { p.2 with
      slots := p.2.slots.map (fun h => (h.1, { h.2 with ext := h.2.ext.filter (fun x => !(x.size == 0 && x.pa / 128 == line)) })) })) }

/-- CXL_HOST_RESPONSE. -/
def execCxlHostResponse (line : Nat) (r : HostResp) (s : State) : Out :=
  let ours := fun (x : ExtAccess) => regionOf s x.pa == .host && x.pa / 128 == line && x.size != 0
  let engine := s.ctl.engineAsks.find? (fun a => regionOf s a.2.2 == .host && a.2.2 / 128 == line)
  let give := fun (f : ExtAccess → Bool) (v : Nat) (other : State) =>
    match s.findAsked (fun x => ours x && f x) with
    | some (g, q, x) => s.answerExt g q x (.val v)
    | none => other
  match r with
  | .grantShared bs => .next (hostGrant line .s bs s)
  | .grantOwn bs =>
    let shared := ((AMap.find? s.ctl.filter line).bind (·.asked)) == some false
    .next (hostGrant line (if shared then .e else .m) bs s)
  | .evictDone => .next (endCacheOps line (evictDone line s))
  | .snoopDone => .next (snoopDone line s)
  | .atomicOld v => .next (give (fun x => x.atom.isSome) v s)
  | .ioData v => .next (give (fun x => x.atom.isNone) v (match engine with
      | some a => unitReply s a (.data v)
      | none => s))

end Sys2Proof.Machine
end

