-- ==== Sys2Proof/Machine/Pod.lean ====
section
/-! DEFINITION. The pod map and the loss of a package (spec 18 R474-R476, 08 R220, R221). -/

namespace Sys2Proof.Machine

/-- Slots whose handle names a package. -/
def State.slotsOf (s : State) (pkg : Nat) : List Nat :=
  (s.ctl.peers.filter (fun p => p.2.st != .empty && handleOwner p.2.handle == pkg)).map (·.1)

/-- Unanswered accesses of holders through some slots. -/
def State.askedThrough (s : State) (slots : List Nat) : List (Nat × Nat × ExtAccess) :=
  s.cores.flatMap (fun p => p.2.slots.flatMap (fun h =>
    (h.2.ext.filter (fun x => x.failed.isNone && regionOf s x.pa == .peer && slots.contains (field x.pa 38 12))).map
      (fun x => (p.1, h.1, x))))

/-- The slots to a lost owner drain; what is in flight to it completes with a poison fault (R476). -/
def loseOwner (pkg : Nat) (s : State) : State :=
  let slots := s.slotsOf pkg
  let s1 := slots.foldl (fun (s : State) i => s.updPeer i (fun p =>
    if p.st = .installing then { p with st := .empty, handle := 0, status := 4 } else { p with st := .draining })) s
  let s2 := (s1.askedThrough slots).foldl (fun s a => peerExt s a.1 a.2.1 a.2.2 .lost) s1
  let through := fun (pa : Nat) => regionOf s pa == .peer && slots.contains (field pa 38 12)
  let s3 := (s1.ctl.engineAsks.filter (fun a => through a.2.2)).foldl (fun s a => unitReply s a .lost) s2
  let s4 := (s3.ctl.orphans.filter (fun o => through o.2.2)).foldl (fun s o =>
    (s.updCtl (fun c => { c with orphans := c.orphans.erase o })).leavePeer o.2.2) s3
  s4.push (slots.map Event.slotDrained)

/-- A new map takes effect here. -/
def installMap (epoch : Nat) (entries : List PodEntry) (s : State) : State :=
  let gone := entries.filter (fun e => e.state == 3 && e.pkg != Config.pkgId && !s.pkgLost e.pkg)
  let s1 := s.updCtl (fun c => { c with
    podEpoch := epoch % 2 ^ 32
    podMap := entries.foldl (fun m e => AMap.set m e.pkg e) c.podMap
    heartbeats := entries.foldl (fun m e => if e.state = 1 then AMap.erase m e.pkg else m) c.heartbeats })
  gone.foldl (fun (s : State) e => (loseOwner e.pkg s).push
    (.rootFailover e.pkg :: (s.grids.filter (fun p => p.2.done.isNone)).map (fun p => Event.reDeal p.1 e.pkg))) s1

/-- MAP_EPOCH_INSTALL: an epoch at or below the present one is not new. -/
def execMapEpochInstall (epoch : Nat) (entries : List PodEntry) (s : State) : Out :=
  if epoch ≤ s.ctl.podEpoch then .next s else .next (installMap epoch entries s)

/-- The steps of a loss (R475): no route leads to the package, and the next epoch marks it lost and the spare of lowest id
online in its place. -/
def losePackage (pkg : Nat) (s : State) : State :=
  match AMap.find? s.ctl.podMap pkg with
  | none => s
  | some e =>
    if pkg = Config.pkgId ∨ e.state = 0 ∨ e.state = 3 then s
    else
      let spare := List.find? (fun (p : Nat × PodEntry) => p.2.state == 2 && p.1 != pkg) s.ctl.podMap
      let news := ({ e with state := 3 } : PodEntry) :: (if e.state = 1 then spare.toList.map (fun p => { p.2 with state := 1, replaced := pkg }) else [])
      installMap (s.ctl.podEpoch + 1) news (s.updCtl (fun c => { c with routing := AMap.erase c.routing pkg }))

/-- PACKAGE_LOSS. -/
def execPackageLoss (pkg : Nat) (s : State) : Out := .next (losePackage pkg s)

/-- HEARTBEAT_MISS: the fourth missed heartbeat declares the loss. -/
def execHeartbeatMiss (pkg : Nat) (s : State) : Out :=
  let n := AMap.getD s.ctl.heartbeats pkg 0 + 1
  let s1 := s.updCtl (fun c => { c with heartbeats := AMap.set c.heartbeats pkg n })
  if n < 4 then .next s1 else .next (losePackage pkg s1)

end Sys2Proof.Machine
end

