-- ==== Sys2Proof/Machine/Scheduling.lean ====
section
/-! DEFINITION. The issue cycle of a core (spec 08 R222-R224), completion of long-latency instructions (11 R284), pieces
(07 R193, R194), compaction (08 R226), and what the units of the package attend to in each ck (LOG 2). -/

set_option Elab.async false

namespace Sys2Proof.Machine

/-! ## Long-latency completion -/

/-- The completion step of a long-latency instruction whose lanes go on. -/
def longStep (s : State) (g q : Nat) (h : Holder) (l : LongOp) : State :=
  match l.instr with
  | .mrd _ _ _ d _ _ logn => s.longDone g q (mrdWrite h l d logn) l
  | .mld _ _ _ _ _ _ _ _ | .hld _ _ _ _ _ => blockStep s g q h l
  | i =>
    match loadSpec i with
    | some x => loadStep x s g q h l
    | none =>
      match writeSpec i with
      | some x => atomStep x s g q h l
      | none => s

/-- An answer from outside was a fault: it is taken once every access that the instruction sent out is answered. -/
def longBad (s : State) (g q : Nat) (h : Holder) (l : LongOp) (lane cause kind addr : Nat) : State :=
  let p := l.badPayload
  let y : LaneAcc := { lane := lane, ea := addr }
  match l.instr with
  | .mld _ _ _ _ _ _ _ _ | .hld _ _ _ _ _ => blockFault s g q h l y cause kind addr p (blockShape s g h l.instr).2.1
  | i =>
    match loadSpec i with
    | some x => loadFault x s g q h l y cause kind addr p
    | none =>
      match writeSpec i with
      | some x => atomFault x s g q h l y cause kind (faultVal cause addr p) (withScope p (actsIn x.o).code)
      | none => s

/-- LONG_LATENCY_COMPLETE. -/
def execLongLatencyComplete (core slot idx : Nat) (s : State) : Out :=
  match s.holder? core slot with
  | none => .next s
  | some h =>
    match h.long? idx with
    | none => .next s
    | some l =>
      if s.clock < l.due then .next s
      else match l.bad with
      | some (lane, cause, kind, addr) =>
        if h.asking idx then .next s else .next (longBad s core slot h l lane cause kind addr)
      | none => .next (longStep s core slot h l)

/-! ## Choosing what issues (R223) -/

/-- The classes of R223, in the order in which a core takes them. -/
inductive IssueClass where
  | async | memory | scalarFold | vector
  deriving DecidableEq, Repr, Inhabited

/-- Class of an instruction of a holder. -/
def issueClass (k : HKind) (i : Instr) : IssueClass :=
  match i with
  | .macq _ _ _ | .mrel _ _ | .mrelF _ _ | .mzero _ _ | .mmul _ _ _ _ _ _ _ _ | .mrd _ _ _ _ _ _ _ | .mwr _ _ _ _ _
  | .cpyt _ | .cpyl _ _ _ | .gath _ | .coll _ | .qfence _ _ | .fcancel _ | .glaunch _ _ _ | .gcancel _ _ => .async
  | .mld _ _ _ _ _ _ _ _ | .mst _ _ _ _ _ _ | .hld _ _ _ _ _ | .hst _ _ _ => .memory
  | _ =>
    let m := headWord i / 2 ^ 56
    if 0xA0 ≤ m ∧ m ≤ 0xC6 then .memory
    else if 0x40 ≤ m ∧ m ≤ 0x9F ∧ k ≠ .range then .vector
    else .scalarFold

/-- Class of what a holder does next; an instruction that does not decode goes with the scalar ones (LOG 7). -/
def State.nextClass (s : State) (h : Holder) : IssueClass :=
  match s.instrAt h with
  | some i => issueClass h.kind i
  | none => .scalarFold

/-- Active slots that are ready, with their classes. -/
def State.readySlots (s : State) (g : Nat) : List (Nat × Holder × IssueClass) :=
  let c := s.core g
  c.active.filterMap (fun q =>
    match AMap.find? c.slots q with
    | none => none
    | some h => if s.readyNow g q h && !AMap.has c.moving q then some (q, h, s.nextClass h) else none)

/-- Whether slot x comes before slot y: priority descending, age descending, slot ascending. -/
def issuesBefore (x y : Nat × Holder × IssueClass) : Bool :=
  decide (y.2.1.prio < x.2.1.prio)
    || (x.2.1.prio == y.2.1.prio && (decide (y.2.1.age < x.2.1.age) || (x.2.1.age == y.2.1.age && decide (x.1 < y.1))))

/-- The first slot of a class. -/
def firstOf (cls : IssueClass) (xs : List (Nat × Holder × IssueClass)) : Option Nat :=
  ((xs.filter (fun x => x.2.2 == cls)).foldl (fun (best : Option (Nat × Holder × IssueClass)) x =>
    match best with
    | none => some x
    | some b => if issuesBefore x b then some x else some b) none).map (·.1)

/-- At most n slots of a class. -/
def takeOf (cls : IssueClass) : Nat → List (Nat × Holder × IssueClass) → List Nat
  | 0, _ => []
  | n + 1, xs =>
    match firstOf cls xs with
    | none => []
    | some q => q :: takeOf cls n (xs.filter (fun x => x.1 != q))

/-- The slots that issue in this ck: issue_cycle of R223. A core has four vector pipes. -/
def State.issueSlots (s : State) (g : Nat) : List Nat × List Nat :=
  let xs := s.readySlots g
  (takeOf .async 1 xs ++ takeOf .memory 1 xs ++ takeOf .scalarFold 1 xs, takeOf .vector (4 - (s.core g).pipesBusy.length) xs)

/-! ## Pieces and windows -/

/-- Read a piece's record, and bring its spill image to the spill area of slot q of core k. -/
def pieceIn (g k q : Nat) (p : Piece) (s : State) : Place :=
  let ea := recPieceBase (s.recOf p.holder) + p.away.getD g * 2 ^ 36 + p.off
  (s.dripRead g p.holder ea p.holder.recordLen (fun s1 _ => .ok s1 p.holder)).place fun s1 h1 =>
    (copyParts k (ea + h1.recordLen) (spillBaseOf s1 k q h1) h1.imageParts s1 h1).place fun s2 _ => .ok s2

/-- PIECE_PLACE: the oldest piece takes a free slot and window; when none waits, a range that the dispatcher has sent. A
piece whose record cannot be read stays where it is. -/
def execPiecePlace (core : Nat) (s : State) : Out :=
  let c := s.core core
  if !s.coreRuns core then .next s
  else
  match c.pieces with
  | p :: rest =>
    match s.findSlot core p.holder.w with
    | none => .next s
    | some (k, q, win) =>
      match pieceIn core k q p s with
      | .ok s1 =>
        .next (((s1.updCore core (fun c => { c with pieces := rest })).seat core k q win p.holder).push [.piecePlace core])
      | .parked s1 => .next s1
      | _ => .next s
  | [] =>
    match c.ranges with
    | [] => .next s
    | (grid, lo, hi) :: rest => .next ((s.updCore core (fun c => { c with ranges := rest })).takeRange core grid lo hi)

/-- Whether a piece belongs to the team of a holder. -/
def Piece.ofTeam (p : Piece) (h : Holder) (t : Nat) : Bool :=
  p.holder.grid == h.grid && (match p.holder.kind with
    | .range => decide (p.holder.lo / t ≤ h.teamOf t) && decide (h.teamOf t ≤ (p.holder.hi - 1) / t)
    | _ => p.holder.team == h.teamOf t)

/-- BARW_PIECE_HANDOFF (R194): a context blocked in `barw` becomes a piece, and the oldest piece of its team takes its
slot and window. -/
def execBarwPieceHandoff (core slot : Nat) (s : State) : Out :=
  match s.holder? core slot with
  | none => .next s
  | some h =>
    let t := s.tsize h
    match h.status, (s.core core).pieces.find? (fun p => p.ofTeam h t) with
    | .blocked (.barrier _ _), some p =>
      if !s.coreRuns core ∨ s.readyNow core slot h ∨ !trapReady s core slot h ∨ h.pend ≠ [] then .next s
      else
        match s.placePiece core (spillBaseOf s core slot h) { h with status := .ready } with
        | .ok s1 =>
          match pieceIn core core slot p s1 with
          | .ok s2 =>
            .next ((s2.updCore core (fun c => { c with
              pieces := c.pieces.erase p
              slots := AMap.erase c.slots slot
              active := c.active.filter (· != slot) })).putNew core slot h.win p.holder)
          | .parked s2 => .next s2
          | _ => .next s
        | .parked s1 => .next s1
        | _ => .next s
    | _, _ => .next s

/-- Whether a core must compact to place its oldest piece (R226). -/
def State.mustCompact (s : State) (g : Nat) : Bool :=
  let c := s.core g
  match c.pieces with
  | [] => false
  | p :: _ =>
    !recNoCompact (s.recOf p.holder) && c.findFree.isSome && (c.findWindow p.holder.w).isNone
      && decide (p.holder.w ≤ c.regs - c.slots.foldl (fun t x => t + x.2.w) 0)

/-- The lowest address below its own to which the window of slot q can move. -/
def Core.lowerWindow (c : Core) (q : Nat) (h : Holder) : Option Nat :=
  let c1 := { c with slots := AMap.erase c.slots q }
  match c1.findWindow h.w with
  | some a => if a < h.win then some a else none
  | none => none

/-- COMPACTION: the movable window at the lowest address that can move down does, at 512 bytes a ck. -/
def execCompaction (core : Nat) (s : State) : Out :=
  let c := s.core core
  if !s.mustCompact core then .next s
  else
    let movable := c.slots.filter (fun p => !c.active.contains p.1 && !recNoCompact (s.recOf p.2) && !AMap.has c.moving p.1
      && (c.lowerWindow p.1 p.2).isSome)
    match movable.foldl (fun (best : Option (Nat × Holder)) p =>
        match best with
        | none => some p
        | some b => if p.2.win < b.2.win then some p else some b) none with
    | none => .next s
    | some (q, h) =>
      match c.lowerWindow q h with
      | none => .next s
      | some a =>
        .next ((s.updCore core (fun c => { c with
          slots := AMap.set c.slots q { h with win := a }
          moving := AMap.set c.moving q (h.w * 384 / 512) })).push
          [.compaction core, .piecePlace core])

/-! ## SWAP (R224) -/

/-- Whether a blocked holder gives its place away. -/
def State.swappable (s : State) (h : Holder) : Bool :=
  match h.status with
  | .blocked .fold => match s.instrAt h with
    | some (.fold _ _ hold _) => decide (64 ≤ hold)
    | _ => false
  | .blocked w => w.swaps || w.swapsLate
  | _ => false

/-- SWAP: neither slot issues for 2 ck. -/
def execSwap (core slot : Nat) (s : State) : Out :=
  match s.holder? core slot, s.pendingSlot core with
  | some h, some p =>
    if s.coreRuns core ∧ (s.core core).active.contains slot ∧ !s.readyNow core slot h ∧ s.swappable h then
      .next ((s.vacate core slot).updCore core (fun c => { c with moving := AMap.set (AMap.set c.moving slot 2) p 2 }))
    else .next s
  | _, _ => .next s

/-! ## What a core attends to in a ck -/

/-- Time passes for a core: ages, watchdogs, pipes, moves; the trace FIFO drains 64 bytes (R205, R223, R231, R489). -/
def State.tickCore (s : State) (g : Nat) : State :=
  let fifo := (s.core g).dbg.fifo
  let s1 := s.updCore g (fun c => { c with
    slots := if s.coreRuns g then c.slots.map (fun (p : Nat × Holder) => (p.1, { p.2 with
      age := p.2.age + 1
      watchdog := if p.2.counts && !AMap.has c.moving p.1 then p.2.watchdog + 1 else p.2.watchdog })) else c.slots
    pipesBusy := (c.pipesBusy.map (· - 1)).filter (· != 0)
    moving := (c.moving.map (fun (p : Nat × Nat) => (p.1, p.2 - 1))).filter (fun p => p.2 != 0)
    dbg := { c.dbg with
      fifo := fifo.drop 64
      synced := if s.clock % 2 ^ (if 12 ≤ c.dbg.btsync ∧ c.dbg.btsync ≤ 24 then c.dbg.btsync else 16) = 0 then [] else c.dbg.synced } })
  if fifo.isEmpty then s1 else s1.coreRing g 0 (fifo.take 64)

/-- Ready pending slots take vacant places of the active set. -/
def fillActive (g : Nat) : Nat → State → State
  | 0, s => s
  | n + 1, s =>
    if 8 ≤ (s.core g).active.length then s
    else
      match s.pendingSlot g with
      | none => s
      | some q => fillActive g n (s.updCore g (fun c => { c with active := c.active ++ [q] }))

/-- Steps that a slot's holder may be due for. -/
def slotEvents (s : State) (g q : Nat) (h : Holder) : List Event :=
  h.ll.map (fun l => Event.longLatencyComplete g q l.idx)
    ++ (if recWatchdog (s.recOf h) ≤ h.watchdog then [.watchdogExpiry g q] else [])
    ++ (if h.pend != [] && !h.mode then [.trapEntry g q] else [])
    ++ (match h.status with
      | .blocked .fold => [.foldHoldExpiry g q]
      | .blocked .event => [.evwaitReread g q] ++ (match h.ev.bind (·.deadline) with
        | some d => if d ≤ s.clock then [.evwaitTimeout g q] else []
        | none => [])
      | .blocked (.barrier _ _) => if s.teamPiece g h then [.barwPieceHandoff g q] else []
      | _ => [])
    ++ (match h.status with
      | .blocked w => if w.yields && s.cancelled h then [.gridCancel h.grid] else []
      | _ => [])
    ++ (if (s.core g).active.contains q && s.swappable h && !s.readyNow g q h then [.swap g q] else [])

/-- Steps that a core may be due for. -/
def coreEvents (s : State) (g : Nat) : List Event :=
  let c := s.core g
  (c.slots.flatMap (fun p => slotEvents s g p.1 p.2))
    ++ (if c.releases.isEmpty then [] else [.releaseComplete g])
    ++ (if (nextCheck [] c.taster).isSome then [.tasterCheck g] else [])
    ++ (if c.delayed.any (fun d => decide (d.due ≤ s.clock)) then [.injectedDelayExpiry g] else [])
    ++ (if c.arrivals.isEmpty then [] else [.barrierArrivalCount g])
    ++ (c.bins.filter (fun b => decide (recBinTimer (s.grid b.2.grid).record ≤ s.clock - b.2.started))).map (fun b => Event.binTimerExpiry g b.1)
    ++ (if c.pieces.isEmpty && c.ranges.isEmpty then [] else [.piecePlace g])
    ++ (if s.mustCompact g then [.compaction g] else [])
    ++ (if s.clock % 65536 = 256 * g % 65536 then [.epochClose g] else [])
    ++ (if c.dbg.dropped = 0 then [] else [.traceLoss g])
    ++ (if s.dieHalted (dieOf g) && !s.ctl.haltedCores.contains g then [.coreHalted g] else [])

/-! ## What the package attends to in a ck -/

/-- Steps of clusters and engines. -/
def engineEvents (s : State) : List Event :=
  s.clusters.flatMap (fun x =>
    (x.2.table.filter (fun e => !e.staged)).map (fun e => Event.aStagingComplete x.1 e.id)
      ++ (if x.2.array.isSome then [.passLeavesArray x.1] else [])
      ++ (if x.2.fetch.isSome then [.bFetchComplete x.1] else [])
      ++ (if x.2.table.isEmpty then [] else [.passFormation x.1]))
    ++ s.commands.map (fun c => if c.2.st = .queued then Event.commandStart c.1 else Event.commandComplete c.1)

/-- Steps of grids. -/
def gridEvents (s : State) : List Event :=
  s.grids.flatMap (fun p =>
    if p.2.done.isSome then []
    else if !p.2.accepted then [.launchRecordCheck p.1]
    else s.reportsDue p.1 p.2 ++ [.gridComplete p.1])
    ++ s.dies.flatMap (fun d => d.2.teamRecords.map (fun r => Event.teamRetire r.1 r.2.1 r.2.2)
      ++ ((d.2.closes.map (·.core)).eraseDups.map (fun g => Event.epochTimeout g d.1)))

/-- Steps of the control die. -/
def controlEvents (s : State) : List Event :=
  let c := s.ctl
  c.invals.map (fun p => Event.invalidationComplete p.1) ++ c.flips.map (fun p => Event.flipComplete p.1)
    ++ c.journal.flatMap (fun p =>
      if !p.2.accepted || p.2.state == 1 || p.2.owed then [.journalAccept p.1]
      else if p.2.ended || (p.2.state == 4 && p.2.completion.isSome) then [.packetComplete p.1] else [])
    ++ (c.queues.filter (fun p => p.2.enable && p.2.head != p.2.tail)).map (fun p => Event.packet 0 p.1)
    ++ (c.ports.filter (fun p => !p.2.fifo.isEmpty)).map (fun p => Event.doorbellAccept p.1)
    ++ (c.lw.filter (fun p => p.2.pending)).map (fun p => Event.windowRecordAccept p.1)
    ++ (if c.wqArrivals.isEmpty then [] else [.workQueueUnitArrival])
    ++ (c.streams.filter (fun p => p.2.gapSince.isSome)).map (fun p => Event.streamGapTimeout p.1)
    ++ (c.peers.filter (fun p => p.2.st == .draining)).map (fun p => Event.slotDrained p.1)
    ++ (if c.scrBusy then [.scrubPerform] else []) ++ c.resetDie.toList.map (fun x => Event.computeDieReset x.1)
    ++ (if s.clock % 2 ^ 24 = 0 then [.deadlockScan] else [])

/-- A ck ends for the package: the clock advances, accesses held by flips and busy lines are tried again, and its units go
on. -/
def State.passCk (s : State) : State :=
  let s1 := { s with clock := s.clock + 1 }
  let s2 := (s1.ctl.streams.map (·.1)).foldl (fun s k => streamServe k s) (servePeers (serveHeld s1))
  s2.push (engineEvents s2 ++ gridEvents s2 ++ controlEvents s2)

/-- The next core's turn; after the last one the ck ends. -/
def State.passTurn (s : State) (g : Nat) : State :=
  let gs := s.cores.map (fun (p : Nat × Core) => p.1)
  match List.find? (fun (k : Nat) => decide (g < k)) gs with
  | some k => { s with turn := k }
  | none => { s with turn := gs.head?.getD 0 }.passCk

/-- ISSUE_CYCLE: one ck of a core. -/
def coreCycle (s : State) (g : Nat) : State :=
  if !AMap.has s.cores g then s
  else
    let s1 := fillActive g 8 (s.tickCore g)
    let s2 :=
      if s1.coreRuns g then
        let (xs, vs) := s1.issueSlots g
        { s1.updCore g (fun c => { c with pipesBusy := c.pipesBusy ++ vs.map (fun _ => 3) }) with
          issue := s1.issue ++ (xs ++ vs).map (fun q => (g, q)) }
      else s1
    let d := (s2.core g).dbg
    (if bitN d.dbgctl 2 && s2.clock % d.period == 0 then samplePc s2 g else s2).push (coreEvents s1 g)

/-- ISSUE_CYCLE. -/
def execIssueCycle (core : Nat) (s : State) : Out := .next ((coreCycle s core).passTurn core)

end Sys2Proof.Machine
end

