-- ==== Sys2Proof/Machine/Preempt.lean ====
section
/-! DEFINITION. Pre-emption, the save area and restore (spec 16 R434-R439, 03 R75, 06 R162, 04 R103). -/

namespace Sys2Proof.Machine

/-! ## Halting (R434, R435) -/

/-- Bin timers of a core freeze or go on: a frozen bin keeps the time it has waited. -/
def State.freezeBins (s : State) (g : Nat) (on : Bool) : State :=
  s.updCore g (fun c =>
    if c.frozenBins = on then c
    else { c with
      frozenBins := on
      bins := c.bins.map (fun (p : Nat × Bin) => (p.1, { p.2 with started := s.clock - p.2.started })) })

/-- Dies stop: nothing is dealt to them, their cores stop issuing, their bin timers freeze. -/
def State.haltAll (s : State) (dies : Nat) : State :=
  (s.cores.map (fun (p : Nat × Core) => p.1)).foldl (fun s g => if bitN dies (dieOf g) then s.freezeBins g true else s)
    (s.updCtl (fun c => { c with haltDies := c.haltDies ||| dies % 256 }))

/-- Whether an address may be a save base. -/
def State.saveBaseOk (s : State) (base : Nat) : Bool := base % 2 ^ 30 == 0 && (regionOf s base == .hbm || regionOf s base == .ddr)

/-- PREEMPTION_REQUEST: the dies of a mask, all eight for the package. -/
def execPreemptionRequest (base dies : Nat) (s : State) : Out :=
  if s.saveBaseOk base then .next ((s.updCtl (fun c => { c with saveBase := some base })).haltAll dies) else .next s

/-- Space that an access instruction accesses, and the bytes of one of its lanes. -/
def longShape (s : State) (g : Nat) (h : Holder) (i : Instr) : Space × Nat :=
  match loadSpec i, writeSpec i with
  | some x, _ => (x.o.space, x.o.elem.bytes)
  | _, some x => (x.o.space, x.size)
  | _, _ => match i with
    | .mld _ _ _ _ _ _ _ _ | .hld _ _ _ _ _ =>
      let (sp, _, n) := blockShape s g h i
      (sp, n)
    | _ => (.team, 0)

/-- Whether lanes of an instruction stand behind a flip (R73). -/
def State.parkedLanes (s : State) (g : Nat) (h : Holder) (i : Instr) (lanes : List LaneAcc) : Bool :=
  let (sp, n) := longShape s g h i
  sp == .glob && lanes.any (fun y => s.flipHolds h.asid y.ea || s.flipHolds h.asid (y.ea + n - 1))

/-- Whether a long-latency instruction stands behind a flip. -/
def State.parkedLong (s : State) (g : Nat) (h : Holder) (l : LongOp) : Bool :=
  !h.asking l.idx && s.parkedLanes g h l.instr l.lanes

/-- Whether a release write stands behind a flip. -/
def State.parkedRelease (s : State) (g : Nat) (h : Holder) (r : Release) : Bool :=
  match r.kind with
  | .store i lanes | .atomic i lanes => s.parkedLanes g h i lanes
  | _ => false

/-- Insert an instruction that is given up into the replay queue; those of a handler go before the instructions that wait for its
`tret`. -/
def Holder.replayLater (h : Holder) (pc : Nat) (done : Lanes) (idx : Nat) : Holder :=
  { h with replay := replayInsert ⟨pc, done, idx, h.mode⟩ (h.replay.filter (·.sup == h.mode)) ++ h.replay.filter (·.sup != h.mode) }

/-- A parked access is given up, and its instruction replayed when its holder resumes (R75): the lanes of an atomic that
performed are not performed again. -/
def abandonLong (h : Holder) (l : LongOp) : Holder :=
  let (h1, dn) : Holder × Lanes := match writeSpec l.instr with
    | some x => (atomWrite x h l, l.vals.foldl (fun m p => m ||| laneBit p.1) 0#96)
    | none => (h, 0#96)
  (h1.endLong l).replayLater l.pc (l.done ||| dn) l.idx

/-- A release is given up and its instruction replayed: a release write that is parked, or a release behind a parked access, which
orders what has not performed (LOG 40). -/
def abandonRelease (h : Holder) (r : Release) : Holder :=
  match r.idx.bind h.long? with
  | some l => abandonLong h l
  | none =>
    let h1 := match r.kind with
      | .arrive _ _ _ _ dest => { h with writers := h.writers.filter (· != dest) }
      | _ => h
    h1.replayLater r.pc 0#96 ((h.ll.filter (fun l => decide (l.seq < r.seq))).foldl (fun m l => max m l.idx) 0)

/-- The accesses of slot q that pre-emption gives up: the instructions and the releases. -/
def State.abandoned (s : State) (g q : Nat) (h : Holder) : List LongOp × List Release :=
  let mine := (s.core g).releases.filter (fun r => r.slot == q)
  let ops := h.ll.filter (s.parkedLong g h)
  let parked := mine.filter (s.parkedRelease g h)
  let first := (ops.map (·.seq) ++ parked.map (·.seq)).foldl (fun (m : Option Nat) n => some (min (m.getD n) n)) none
  let rs := mine.filter (fun r => match first with
    | some n => decide (n ≤ r.seq)
    | none => false)
  (ops.filter (fun l => !rs.any (fun r => r.idx == some l.idx)), rs)

/-- A core of which the parked accesses are given up: its holders, its releases, and no Taster entry of theirs. -/
def State.abandonParked (s : State) (g : Nat) : State :=
  (s.core g).slots.foldl (fun (s : State) (p : Nat × Holder) =>
    let (ops, rs) := s.abandoned g p.1 p.2
    if ops.isEmpty && rs.isEmpty then s
    else
      let s1 := s.putHolder g p.1 (rs.foldl abandonRelease (ops.foldl abandonLong p.2))
      let s2 := rs.foldl (fun s r => s.dropRelease g r) s1
      (ops.map (·.seq) ++ rs.map (·.seq)).foldl (fun s n => s.tasterStamp g n none) s2) s

/-- Whether a holder may halt: only accesses at a peer may still be outstanding (R435). -/
def State.haltable (s : State) (h : Holder) : Bool :=
  h.ll.all (fun l => h.asking l.idx) && h.ext.all (fun x => regionOf s x.pa == .peer) && h.writers.isEmpty

/-- A halted holder: an instruction that it is blocked in counts as not issued. -/
def Holder.atRest (h : Holder) : Holder :=
  match h.status with
  | .blocked _ => { h with status := .ready, ev := none }
  | _ => h

/-- CORE_HALTED: once what its holders have issued has performed. Translation misses, and accesses parked on flips, are given
up (R434). -/
def execCoreHalted (core : Nat) (s : State) : Out :=
  let s0 := s.abandonParked core
  let c := s0.core core
  if !s.dieHalted (dieOf core) || s.ctl.haltedCores.contains core || !c.releases.isEmpty || !c.delayed.isEmpty
      || !c.arrivals.isEmpty || s.ctl.wqArrivals.any (fun a => a.core == core) || !c.slots.all (fun p => s.haltable p.2) then
    .next s
  else
    let s1 := c.slots.foldl (fun (s : State) (p : Nat × Holder) => (s.leaveBlock core p.1).putHolder core p.1 p.2.atRest) s0
    .next ((((s1.updCore core (fun c => { c with misses := [] })).updCtl (fun k => { k with
      haltedCores := k.haltedCores ++ [core] })).endWalks (fun w => w.core == core)).send
      (.report 5 core ((c.slots.filter (fun p => !p.2.ext.isEmpty)).foldl (fun m p => m + 2 ^ p.1) 0)))

/-! ## The save area (R436) -/

/-- Resident split-stack entries, frame records and granules, at their places in the spill area. -/
def Holder.residents (h : Holder) : List (Nat × List Byte) :=
  let n := h.spilled.length
  ((List.range h.stack.length).zip h.stack.reverse).map (fun p => (64 * (n + p.1), splitBytes p.2))
    ++ h.residentFrames.map (fun f => (32768 + 64 * f, frameBytes (h.getFrame f)))
    ++ (((List.range (h.w / 8)).map h.ringAt).filter (fun o => o != noGran && !h.outGrans.contains o)).map
      (fun o => (granOffset h o, h.granImage o))

/-- Drip writes them out; what does not fit the area or cannot be written is left out. -/
def dripResidents (g q : Nat) (h : Holder) : List (Nat × List Byte) → State → State
  | [], s => s
  | (off, bs) :: rest, s =>
    match s.spillWrite g q h off bs with
    | .ok s1 _ => dripResidents g q h rest s1
    | _ => dripResidents g q h rest s

/-- Write a region of the save area, zero where the image lists nothing. -/
def State.saveRegion (s : State) (pa n : Nat) (img : Memory) : State :=
  let s1 := (linesOf pa n).foldl (fun (s : State) l =>
    match (s.settleLine l).homeTakeWrite .firmware 10 (l * 128) (zeroBytes 128) l with
    | .ok s1 | .busy s1 | .poison _ s1 | .contain _ s1 => s1) s
  putImage img 0 [⟨pa, n, default⟩] s1

/-- The barrier unit, and the allocation table of R42 behind it. -/
def Core.barrierImage (c : Core) : Memory :=
  imageOf (c.barriers.map (fun (p : Nat × Barrier) =>
      (16 * p.1, leBytes 2 p.2.e ++ leBytes 2 p.2.arrived ++ leBytes 2 p.2.drop ++ leBytes 4 p.2.p))
    ++ ((List.range 64).zip c.allocs).map (fun p => (16384 + 16 * p.1,
      leBytes 2 p.2.grid ++ leBytes 6 p.2.team ++ leBytes 3 p.2.off ++ leBytes 3 p.2.size ++ leBytes 1 p.2.block)))

/-- The bins: key, time waited, items. -/
def Core.binImage (c : Core) : Memory :=
  imageOf (c.bins.map (fun (p : Nat × Bin) => (4096 * p.1,
    leBytes 8 p.2.entry ++ leBytes 4 p.2.grid ++ leBytes 8 p.2.team ++ leBytes 4 p.2.started
      ++ p.2.items.flatMap (fun x => leBytes 2 x.1 ++ x.2.flatMap (fun w => leBytes 4 w.toNat)))))

/-- Core state: split, fusion, `%tbase`, head of the piece list. -/
def Core.stateImage (c : Core) (fused : Bool) : Memory :=
  imageOf [(0, leBytes 1 c.l1Banks ++ leBytes 1 c.spmBanks ++ leBytes 1 (if fused then 1 else 0)), (8, leBytes 8 c.tbase),
    (16, leBytes 8 c.pieceHead)]

/-- The accumulator pool: each unit holds 16 columns of its tile, row after row; its flags and poisoned bit stand behind. -/
def Cluster.poolImage (x : Cluster) : Memory :=
  imageOf (x.units.flatMap (fun (p : Nat × Nat) =>
    match AMap.find? x.tiles p.2 with
    | none => []
    | some t =>
      let k := ((x.units.filter (fun u => u.2 == p.2 && decide (u.1 < p.1))).length)
      ((t.elems.filter (fun e => e.1 % 128 / 16 == k)).map (fun e =>
        (6144 * p.1 + 4 * (16 * (e.1 / 128) + e.1 % 16), leBytes 4 e.2)))
        ++ [(6144 * 682 + p.1, leBytes 1 (t.flags % 32 + (if t.poison = 0 then 0 else 32)))]))

/-- The reservation table, then the copy engine's commands. -/
def State.tableImage (s : State) (x : Nat) : Memory :=
  imageOf (((List.range 64).zip (s.cluster x).table).map (fun p => (256 * p.1,
      leBytes 1 p.2.core ++ leBytes 1 p.2.slot ++ leBytes 2 p.2.tile ++ leBytes 2 p.2.asid ++ leBytes 1 p.2.prio
        ++ leBytes 1 (if p.2.zero then 1 else 0) ++ leBytes 8 p.2.b ++ leBytes 8 p.2.i ++ leBytes 32 p.2.fb ++ leBytes 12 p.2.rows.toNat))
    ++ ((List.range 16128).zip (s.commands.filter (fun c => c.2.engine == 256 + x))).map (fun p => (16384 + 64 * p.1,
      leBytes 4 p.2.2.grid ++ leBytes 6 p.2.2.team ++ leBytes 1 p.2.2.queue ++ leBytes 4 p.2.2.seq ++ leBytes 8 p.2.2.off)))

/-- The slot records of a core. -/
def State.slotImage (s : State) (g : Nat) : Memory :=
  (s.core g).slots.foldl (fun (m : Memory) (p : Nat × Holder) =>
    (imageOf (recordFields s (cluOf g) p.2 (spillBaseOf s g p.1 p.2) 0)).foldl (fun m c => Memory.write m (131072 * p.1 + c.1) c.2) m) []

/-- Where a core's area begins. -/
def coreArea (base g : Nat) : Nat := base + cluOf g * 2 ^ 27 + g % 4 * 2 ^ 24

/-- Write the regions of a core and its cluster. -/
def State.writeSave (s : State) (base g : Nat) : State :=
  let c := s.core g
  let a := coreArea base g
  let b := base + cluOf g * 2 ^ 27
  let x := s.cluster (cluOf g)
  ((((((s.saveRegion a c.partition c.spm).saveRegion (a + 2 ^ 21) 17408 c.barrierImage).saveRegion (a + 3 * 2 ^ 20) 65536
    c.binImage).saveRegion (a + 2 ^ 22) (2 ^ 22) (s.slotImage g)).saveRegion (a + 2 ^ 23) 4096 (c.stateImage x.fused)).saveRegion
    (b + 2 ^ 26) (2 ^ 22) x.poolImage).saveRegion (b + 68 * 2 ^ 20) (2 ^ 20) (s.tableImage (cluOf g))

/-- The tiles, units and table entries of a core's holders. -/
def Cluster.part (x : Cluster) (g : Nat) (mine : Bool) : Cluster :=
  let own := fun (t : Nat) => ((AMap.find? x.tiles t).map (fun y => y.core == g)).getD false
  { x with
    tiles := x.tiles.filter (fun (p : Nat × Tile) => (p.2.core == g) == mine)
    units := x.units.filter (fun (p : Nat × Nat) => own p.2 == mine)
    table := x.table.filter (fun e => (e.core == g) == mine) }

/-- A core that has given up its context. -/
def Core.emptied (c : Core) : Core :=
  { c with
    slots := [], active := [], spm := [], allocs := [], barriers := [], bins := [], pieces := [], pieceHead := 0, ranges := [],
    moving := [], pipesBusy := [], floors := [], taster := [] }

/-- What of a core waits for its restore. -/
def State.takeSaved (s : State) (g : Nat) : State :=
  let c := s.core g
  let x := s.cluster (cluOf g)
  { ((s.updCtl (fun k => { k with
      saved := k.saved.filter (fun y => y.1 != g) ++ c.slots.map (fun p => (g, p.1, p.2))
      savedCores := AMap.set k.savedCores g { c with slots := [] }
      savedTiles := AMap.set k.savedTiles g (x.part g true) })).updCore g Core.emptied).updCluster (cluOf g) (fun y => y.part g false) with
    commands := s.commands.map (fun (p : Nat × Command) => (p.1, if p.2.core == g && p.2.packet.isNone then { p.2 with saved := true } else p.2)) }

/-- CONTEXT_SAVE: the state of a halted core. A holder with an access outstanding, or rows in a pass, holds the save back. -/
def execContextSave (core : Nat) (s : State) : Out :=
  let c := s.core core
  let x := s.cluster (cluOf core)
  let passing := x.table.any (fun e => e.core == core && x.inPass.contains e.id)
  match s.ctl.saveBase with
  | none => .next s
  | some base =>
    if !s.ctl.haltedCores.contains core || passing || c.slots.any (fun p => !p.2.ext.isEmpty || !p.2.ll.isEmpty) then .next s
    else
      let s1 := c.slots.foldl (fun (s : State) (p : Nat × Holder) => dripResidents core p.1 p.2 p.2.residents s) s
      .next ((s1.writeSave base core).takeSaved core)

/-! ## Restore (R438, R439) -/

/-- Status with which a record is refused, 0 when it is not: the checks read the save area. -/
def recordRefusal (s : State) (base src dst q : Nat) (h : Holder) : Nat :=
  let a := coreArea base src + 2 ^ 22 + 131072 * q
  let rd := fun (o n : Nat) => Memory.readLE s.mem (a + o) n
  let st := coreArea base src + 2 ^ 23
  let split := (s.core dst).l1Banks == Memory.readLE s.mem st 1 && (s.core dst).spmBanks == Memory.readLE s.mem (st + 1) 1
    && (s.cluster (cluOf dst)).fused == (Memory.readLE s.mem (st + 2) 1 == 1)
  let w := rd 7 1
  if rd 0 4 ≠ 1 ∨ 3 < rd 4 1 then 1
  else if (List.range 256).any (fun n => field (rd 0xC00 64) (2 * n) 2 == 3) then 2
  else if w = 0 ∨ 32 < w ∨ 8 * w ≠ recW (s.recOf h) then 3
  else if (List.range 8).any (fun n => rd (0xC40 + 16 * n) 1 == 3
      || (List.range 11).any (fun k => decide (682 ≤ field (rd (0xC42 + 16 * n) 14) (10 * k) 10))) then 4
  else if 15 < field (rd 0xE8 4) 10 8 then 5
  else if !split then 6
  else 0

/-- The replay of instructions that the pre-emption gave up begins, unless a trap comes first. -/
def Holder.resumeReplay (h : Holder) : Holder :=
  if !h.replay.any (·.sup == h.mode) || h.replaying.isSome || (!h.mode && !h.pend.isEmpty) then h
  else { h with replayPC := some h.pc }.nextReplay

/-- Tiles, units and entries move to the cluster of a core under numbers of its own. -/
def State.giveTiles (s : State) (src dst : Nat) (y : Cluster) : State :=
  s.updCluster (cluOf dst) (fun x =>
    let t0 := x.nextTile
    let e0 := x.nextEntry
    let free := x.unitList y.units.length
    { x with
      tiles := y.tiles.foldl (fun m p => AMap.set m (t0 + p.1) { p.2 with core := dst }) x.tiles
      units := (free.zip y.units).foldl (fun m p => AMap.set m p.1 (t0 + p.2.2)) x.units
      nextTile := t0 + y.nextTile
      table := x.table ++ y.table.map (fun e => { e with id := e0 + e.id, core := if e.core = src then dst else e.core, tile := t0 + e.tile })
      nextEntry := e0 + y.nextEntry })

/-- A restored holder has its slot: every floor of it takes the core's clock (R162). -/
def State.takeBack (s : State) (dst q : Nat) (h : Holder) : State :=
  (s.putHolder dst q h.resumeReplay).updCore dst (fun c => { c with
    active := if c.active.length < 8 then c.active ++ [q] else c.active
    floors := AMap.set c.floors q { start := c.lclock }
    trapFrames := if h.mode then AMap.set c.trapFrames q h.trapFrame else c.trapFrames
    dbg := { c.dbg with prog := AMap.erase c.dbg.prog q, synced := AMap.erase c.dbg.synced q } })

/-- A saved holder takes its slot on a core, or its record is refused. -/
def restoreHolder (base src dst t0 : Nat) (s : State) (x : Nat × Holder) : State :=
  let q := x.1
  let h := { x.2 with accs := x.2.accs.map (fun (p : Nat × AccName) => (p.1, if p.2.state = 0 then p.2 else { p.2 with tile := t0 + p.2.tile })) }
  let st := recordRefusal s base src dst q h
  if st ≠ 0 then
    ((h.accs.foldl (fun s p => if p.2.state = 0 then s else s.dropTile (cluOf dst) p.2.tile) s).endMembers dst h true).send
      (.report 6 (32 * src + q) st)
  else
    match copyParts dst (spillBaseOf s src q h) (spillBaseOf s dst q h) (if src = dst then [] else h.outParts) s h with
    | .ok s1 h1 => s1.takeBack dst q h1
    | _ => s.takeBack dst q h

/-- A core goes on: it issues again, its bin timers run, and its die is dealt to. What its holders gave up they replay. -/
def State.resumeCore (s0 : State) (g : Nat) : State :=
  let s := s0.updCore g (fun c => { c with slots := c.slots.map (fun (p : Nat × Holder) => (p.1, p.2.resumeReplay)) })
  (s.updCtl (fun c => { c with
    haltedCores := c.haltedCores.filter (· != g)
    haltDies := if bitN c.haltDies (dieOf g) then c.haltDies - 2 ^ dieOf g else c.haltDies })).freezeBins g false

/-- CONTEXT_RESTORE: the region of core `src` to core `dst`; one that was not saved goes on where it halted. -/
def execContextRestore (src dst : Nat) (s : State) : Out :=
  let pending := s.cores.any (fun p => dieOf p.1 == dieOf dst && s.dieHalted (dieOf dst) && !s.ctl.haltedCores.contains p.1)
  if pending then .next s
  else
    match s.ctl.saveBase, AMap.find? s.ctl.savedCores src with
    | some base, some c =>
      let y := AMap.getD s.ctl.savedTiles src {}
      if !(s.core dst).slots.isEmpty ∨ (s.cluster (cluOf dst)).freeUnits < y.units.length then .next s
      else
        let a := coreArea base src
        let hs := (s.ctl.saved.filter (fun x => x.1 == src)).map (fun x => (x.2.1, x.2.2))
        let t0 := (s.cluster (cluOf dst)).nextTile
        let s1 := (s.updCtl (fun k => { k with
          saved := k.saved.filter (fun x => x.1 != src), savedCores := AMap.erase k.savedCores src,
          savedTiles := AMap.erase k.savedTiles src })).giveTiles src dst y
        let s2 := s1.updCore dst (fun d => { d with
          spm := (s.mem.filter (fun m => decide (a ≤ m.1) && decide (m.1 < a + c.partition))).map (fun m => (m.1 - a, m.2))
          allocs := c.allocs, barriers := c.barriers, bins := c.bins, frozenBins := c.frozenBins
          pieces := c.pieces.map (fun p => if src = dst then p else { p with away := some (p.away.getD src) })
          pieceHead := if src = dst then c.pieceHead else d.pieceHead
          ranges := c.ranges, tbase := c.tbase })
        let s3 : State := { s2 with commands := s2.commands.map (fun (p : Nat × Command) => (p.1,
          if p.2.saved && p.2.core == src then
            { p.2 with saved := false, core := dst, engine := if p.2.engine < 320 then 256 + cluOf dst else 320 + dieOf dst }
          else p.2)) }
        .next ((hs.foldl (restoreHolder base src dst t0) s3).resumeCore dst)
    | _, _ => if src = dst ∧ s.ctl.haltedCores.contains dst then .next (s.resumeCore dst) else .next s

end Sys2Proof.Machine
end

