-- ==== Sys2Proof/Machine/Range.lean ====
section
/-! DEFINITION. Range instructions (spec 12 R321-R326, 07 R189, R195, R198-R203) and the steps of `fold` and of the
bins. -/

namespace Sys2Proof.Machine

/-- `unfold` (R321). -/
def execUnfold (s : State) : Out :=
  issue .unfold s fun g q h =>
    match h.kind with
    | .range => .next (s.unfoldHere g q h)
    | _ => .next (s.retire g q .unfold h)

/-- Linear indices of the live lanes of a group. -/
def Holder.liveMembers (h : Holder) (t : Nat) : List Nat := (laneList h.live).map (h.member t)

/-- lo and hi of a holder (R322). -/
def Holder.bounds (h : Holder) (t : Nat) : Nat × Nat :=
  match h.kind with
  | .range => (h.lo, h.hi)
  | _ =>
    match h.liveMembers t with
    | [] => (0, 0)
    | m :: ms => (ms.foldl min m, ms.foldl max m + 1)

/-- `rinfo` (R322). -/
def execRinfo (d : Nat) (s : State) : Out :=
  issue (.rinfo d) s fun g q h =>
    let b := h.bounds (s.tsize h)
    .next (s.retire g q (.rinfo d) ((h.writeS64 d (BitVec.ofNat 64 b.1)).writeS64 (d + 2) (BitVec.ofNat 64 b.2)))

/-- `part` (R203, R323). -/
def execPart (n code : Nat) (s : State) : Out :=
  issue (.part n code) s fun g q h =>
    .next (s.retire g q (.part n code) { h with gcodes := AMap.set h.gcodes n code })

/-! ## spawn (R200, R201, R324) -/

/-- The bin a holder's items of a team enter. -/
def Holder.binOf (h : Holder) (entry team : Nat) : Bin :=
  { entry := entry, grid := h.grid, team := team, started := 0, items := [], w := h.w, prio := h.prio }

/-- Item index and carried values of member m of a range context. -/
def Holder.carry (h : Holder) (t m d n : Nat) : Nat × List Word :=
  (m % t, (List.range n).map (fun j => (h.readV (d + j)).at (m / t) (m % t) 0))

/-- Item index and carried values of a lane. -/
def Holder.carryLane (h : Holder) (L d n : Nat) : Nat × List Word :=
  (h.item L, (List.range n).map (fun j => (h.readV (d + j)).at h.team (h.item L) L))

/-- `spawn` of a dense group. -/
def spawnGroup (s : State) (g q : Nat) (h : Holder) (gd : Guard) (d n entry : Nat) : State :=
  let out := h.activeLanes gd
  if out = 0#96 then s.issued g q (h.advance 8)
  else
    s.afterPlace g q h (binAddAll g ((laneList out).map (fun L => (h.binOf entry h.team, h.carryLane L d n))) s)
      fun s1 => leaveItems s g q h s1 (h.dropLanes out) ((s1.countIssue g q).removeHolder g q h)

/-- `spawn` of a range context: members [lo, hi) of it leave, and the rest goes on at PC + 8. -/
def spawnRange (s : State) (g q : Nat) (h : Holder) (d n entry lo hi : Nat) : State :=
  let t := s.tsize h
  let items := (List.range (hi - lo)).map (fun k => (h.binOf entry ((lo + k) / t), h.carry t (lo + k) d n))
  s.afterPlace g q h (binAddAll g items s) fun s1 =>
    if lo = h.lo ∧ hi = h.hi then (s1.countIssue g q).removeHolder g q h
    else s1.issued g q ((if lo = h.lo then h.clip hi h.hi else h.clip h.lo lo).advance 8)

/-- `spawn`. -/
def execSpawn (gd : Guard) (d a n : Nat) (s : State) : Out :=
  issue (.spawn gd d a n) s fun g q h =>
    let entry := (h.readS64 a).toNat
    if entry % 8 ≠ 0 then .next (s.trapHere g q h 0 0 (headWord (.spawn gd d a n)))
    else if !quietHere s g q h then .next (s.block g q h h.settleWait)
    else
      match h.kind with
      | .range =>
        match h.rangeGuard gd with
        | .none => .next (s.issued g q (h.advance 8))
        | .all => .next (spawnRange s g q h d n entry h.lo h.hi)
        | .upTo c => .next (spawnRange s g q h d n entry h.lo c)
        | .fromOn c => .next (spawnRange s g q h d n entry c h.hi)
      | _ => .next (spawnGroup s g q h gd d n entry)

/-- BIN_TIMER_EXPIRY (R201): the bin launches its group. -/
def execBinTimerExpiry (core bin : Nat) (s : State) : Out :=
  match AMap.find? (s.core core).bins bin with
  | none => .next s
  | some b =>
    if recBinTimer (s.grid b.grid).record ≤ s.clock - b.started ∧ !(s.core core).frozenBins then
      match s.binLaunch core bin with
      | .ok s1 => .next s1
      | .parked s1 => .next s1
      | _ => .next s
    else .next s

/-! ## fold (R198, R199, R325) -/

/-- Members of [lo, hi) that decide whether two functions of the form of R182 agree on all of it. -/
def samples (t lo hi : Nat) : List Nat :=
  let b := (lo / t + 1) * t
  ([lo, lo + 1, b, b + 1, hi - 2, hi - 1]).filter (fun m => decide (lo ≤ m) && decide (m < hi))

/-- The one function that gives the values of [lo, hi), when there is one that fits the sampled members. A single team
fixes no team stride: 0 is taken (LOG 26). -/
def solveAff (t lo hi : Nat) (val : Nat → Word) : VReg :=
  let pair := (samples t lo hi).find? (fun m => decide (m + 1 < hi) && m % t + 1 != t)
  let is := match pair with
    | some m => val (m + 1) - val m
    | none => 0#32
  let b := (lo / t + 1) * t
  let ts := if b < hi then
      val b - val (b - 1) + is * BitVec.ofNat 32 (t - 1)
    else 0#32
  mkAff (val lo - ts * BitVec.ofNat 32 (lo / t) - is * BitVec.ofNat 32 (lo % t)) ts is

/-- Compress a register over the live lanes of one team. -/
def Holder.compressV (h : Holder) (t lo hi n : Nat) : Option VReg :=
  match h.readV n with
  | .dense xs =>
    let val := fun (m : Nat) =>
      match (laneList h.live).find? (fun L => h.member t L == m) with
      | some L => xs.getD L 0#32
      | none => 0#32
    let r := solveAff t lo hi val
    if (List.range (hi - lo)).all (fun k => r.at ((lo + k) / t) ((lo + k) % t) 0 == val (lo + k)) then some r else none
  | r => some r

/-- Compress a predicate: true on no member, on all, or on a prefix. -/
def Holder.compressP (h : Holder) (t lo hi n : Nat) : Option PReg :=
  let set := ((laneList (h.live &&& h.predSet n false)).map (h.member t))
  let c := lo + set.length
  if set.all (fun m => decide (m < c)) then some (mkThr lo hi c) else none

/-- Predicates of a fold's list. -/
def foldPreds (ps : Nat) : List Nat := (List.range 24).filter (fun p => p != 0 && bitN ps p)

/-- A context at `fold` keeps the named registers and predicates only (R198). -/
def Holder.keepNamed (h : Holder) (d n : Nat) (vs : List VReg) (ps : List (Nat × PReg)) : Holder :=
  let h1 := { h with vregs := [], outGrans := [], preds := [] }
  let h2 := ((List.range n).zip vs).foldl (fun h p => h.writeV (d + p.1) p.2) h1
  ps.foldl (fun h p => h.writeP p.1 p.2) h2

/-- The range context that a dense group becomes, if every condition of R198 holds. -/
def Holder.compress (h : Holder) (t d n ps : Nat) : Option Holder :=
  let ms := h.liveMembers t
  let b := h.bounds t
  let whole := decide (b.2 - b.1 = ms.length) && (List.range (b.2 - b.1)).all (fun k => ms.contains (b.1 + k))
  if h.stack != [] || h.spilled != [] || h.mask != h.live || ms.isEmpty || !whole || !h.tags.isEmpty
      || h.dcs.any (fun p => p.2 != 0) || !h.openBatch.isEmpty || h.accs.any (fun p => p.2.state != 0) then none
  else do
    let vs ← (List.range n).mapM (fun j => h.compressV t b.1 b.2 (d + j))
    let pr ← (foldPreds ps).mapM (fun p => (h.compressP t b.1 b.2 p).map (fun x => (p, x)))
    pure ({ h with
      kind := .range
      lo := b.1
      hi := b.2
      items := []
      live := 0#96
      mask := 0#96
      path := 0#96 }.keepNamed d n vs pr)

/-- Whether two contexts waiting at a `fold` merge, and the merged one (R199). `k` adjoins `j` from below. -/
def joinFold (t d n ps : Nat) (k j : Holder) : Option Holder :=
  if k.hi = j.lo ∧ k.grid = j.grid ∧ k.pc = j.pc ∧ k.prio = j.prio ∧ k.frame = j.frame ∧ k.frames = j.frames
      ∧ k.sregs.filter (fun p => p.2 != 0#32) = j.sregs.filter (fun p => p.2 != 0#32)
      ∧ k.gcodes.filter (fun p => p.2 != 0) = j.gcodes.filter (fun p => p.2 != 0) ∧ k.tags = [] ∧ j.tags = [] then do
    let at_ := fun (r : VReg) (m : Nat) => r.at (m / t) (m % t) 0
    let vs ← (List.range n).mapM (fun i =>
      let a := k.readV (d + i)
      let b := j.readV (d + i)
      let r := solveAff t k.lo j.hi (fun m => if m < k.hi then at_ a m else at_ b m)
      if (samples t k.lo k.hi).all (fun m => at_ r m == at_ a m) && (samples t j.lo j.hi).all (fun m => at_ r m == at_ b m) then
        some r
      else none)
    let pr ← (foldPreds ps).mapM (fun p =>
      match (k.readP p).truth false k.lo k.hi, (j.readP p).truth false j.lo j.hi with
      | .all, .all => some (p, PReg.uni true)
      | .all, .upTo c => some (p, mkThr k.lo j.hi c)
      | .all, .none => some (p, mkThr k.lo j.hi k.hi)
      | .upTo c, .none => some (p, mkThr k.lo j.hi c)
      | .none, .none => some (p, PReg.uni false)
      | _, _ => none)
    pure ({ k with
      hi := j.hi
      deadline := max k.deadline j.deadline
      fflags := k.fflags ||| j.fflags
      cmds := k.cmds ++ j.cmds
      pend := k.pend ++ j.pend
      status := .blocked .fold }.keepNamed d n vs pr)
  else none

/-- Slots of a core whose contexts wait at a `fold`. -/
def Core.folding (c : Core) : List Nat := (c.slots.filter (fun p => p.2.status == .blocked .fold)).map (·.1)

/-- A context takes its place at `fold` for h ck (R199). -/
def holdAtFold (s : State) (g q : Nat) (h : Holder) (d n hold ps : Nat) : State :=
  let vs := (List.range n).map (fun j => h.readV (d + j))
  let pr := (foldPreds ps).map (fun p => (p, h.readP p))
  let h1 := h.keepNamed d n vs pr
  if hold = 0 then s.issued g q (h1.advance 16)
  else
    ((s.putHolder g q { h1 with status := .blocked .fold, deadline := s.clock + hold }).push
      (((s.core g).folding.filter (· != q)).map (fun x => .foldMerge g q x))).push
      (if 64 ≤ hold then [.swap g q] else [])

/-- `fold`. -/
def execFold (d n hold ps : Nat) (s : State) : Out :=
  issue (.fold d n hold ps) s fun g q h =>
    match h.kind with
    | .range => if trapReady s g q h then .next (holdAtFold s g q h d n hold ps) else .next (s.block g q h h.settleWait)
    | _ =>
      match h.compress (s.tsize h) d n ps with
      | none => .next (s.issued g q (h.advance 16))
      | some h1 => if trapReady s g q h then .next (holdAtFold s g q h1 d n hold ps) else .next (s.block g q h h.settleWait)

/-- The operands of the `fold` at which a holder waits, read again from its code. -/
def State.foldOf (s : State) (h : Holder) : Option (Nat × Nat × Nat) :=
  let byte := fun (a n : Nat) =>
    match (walkTables s h.asid a).toOption with
    | some (e, _) => Memory.readLE s.mem (e.phys a) n
    | none => 0
  match decode (byte h.pc 8) (byte (h.pc + 8) 8) with
  | .ok (.fold d n _ ps) => some (d, n, ps)
  | _ => none

/-- FOLD_MERGE (R199). -/
def execFoldMerge (core slot other : Nat) (s : State) : Out :=
  match s.holder? core slot, s.holder? core other with
  | some k, some j =>
    if k.status = .blocked .fold ∧ j.status = .blocked .fold ∧ slot ≠ other then
      match s.foldOf k with
      | none => .next s
      | some (d, n, ps) =>
        let t := s.tsize k
        match (joinFold t d n ps k j).orElse (fun _ => joinFold t d n ps j k) with
        | none => .next s
        | some h =>
          let s1 := (s.removeHolder core other { j with cmds := [] }).putHolder core slot { h with age := k.age, win := k.win }
          .next (s1.push (((s1.core core).folding.filter (· != slot)).map (fun x => .foldMerge core slot x)))
    else .next s
  | _, _ => .next s

/-- FOLD_HOLD_EXPIRY (R199): the context goes on past the `fold`. -/
def execFoldHoldExpiry (core slot : Nat) (s : State) : Out :=
  match s.holder? core slot with
  | none => .next s
  | some h =>
    if h.status = .blocked .fold ∧ h.deadline ≤ s.clock ∧ s.coreRuns core then
      .next (s.issued core slot { h.advance 16 with watchdog := 0 })
    else .next s

end Sys2Proof.Machine
end

