-- ==== Sys2Proof/Machine/Reset.lean ====
section
/-! DEFINITION. Resets (spec 01 R17-R20, 06 R155, 17 R441, R456): of the package, cold and warm, and of a compute die. -/

namespace Sys2Proof.Machine

/-! ## The package -/

/-- What a reset of the package leaves beside the hardware's own state: messages already sent, inputs still to come, and the
counter of free values (LOG 10). -/
def State.restart (s t : State) : State := { t with inputs := s.inputs, outbox := s.outbox, fresh := s.fresh }

/-- PACKAGE_COLD_RESET: everything is lost. -/
def execPackageColdReset (s : State) : Out := .next (s.restart State.reset)

/-- Whether a warm reset keeps an address: the DDR tier, or the journal's region (R12, R17). -/
def State.survives (s : State) (a : Nat) : Bool :=
  (decide (ddrBase ≤ a) && decide (a < ddrBase + s.ddrBytes)) || (decide (s.jbase ≤ a) && decide (a < s.jbase + 2 ^ 26))

/-- Memory as the controllers hold it: what only caches held is gone (R17, R383). -/
def State.inMemory (s : State) : Memory :=
  s.backing.foldl (fun m p => Memory.writeBytes m (p.1 * 128) p.2) s.mem

/-- PACKAGE_WARM_RESET: the DDR tier with its interval numbers and the journal stay; HBM4 is zero with interval number 0.
The clock goes on (R243). The bias table is all device again (DESIGN CHOICE, LOG 18). -/
def execPackageWarmReset (s : State) : Out :=
  let c := s.ctl
  let unaccepted := (c.journal.filter (fun p => !p.2.accepted)).map (fun (p : Nat × JEntry) => p.1)
  .next { s.restart State.reset with
    clock := s.clock
    mem := s.inMemory.filter (fun x => s.survives x.1)
    intervals := s.intervals.filter (fun p => s.survives (p.1 * 128))
    poison := s.poison.filter (fun l => s.survives (l * 128))
    ctl := { State.reset.ctl with jnext := unaccepted.foldl min c.jnext, jtail := c.jtail } }

/-! ## A compute die (R18-R20) -/

/-- Whether an agent is on die d. -/
def agentOnDie (d : Nat) : Agent → Bool
  | .core g => dieOf g == d
  | .fused c | .copyEngine c | .matrix c => c / 8 == d
  | .collEngine k => k == d
  | _ => false

/-- Whether a line lies in the stacks of die d, and is zeroed with them: the journal's region of die 0 is not (R18). -/
def State.zeroed (s : State) (d line : Nat) : Bool :=
  decide (line * 128 < 2 ^ 40) && field (line * 128) 37 3 == d
    && !(d == 0 && s.ctl.ddrGiB == 0 && decide (s.jbase ≤ line * 128) && decide (line * 128 < s.jbase + 2 ^ 26))

/-- Each other die drops the lines homed on the reset die, and the stacks are zeroed. -/
def State.zeroDie (s : State) (d : Nat) : State :=
  let keep := fun (p : Nat × L1Line) => !s.zeroed d p.1
  { s with
    mem := s.mem.filter (fun c => !s.zeroed d (c.1 / 128))
    backing := s.backing.filter (fun p => !s.zeroed d p.1)
    intervals := s.intervals.filter (fun p => !s.zeroed d p.1)
    poison := s.poison.filter (fun l => !s.zeroed d l)
    cores := s.cores.map (fun (p : Nat × Core) => (p.1, { p.2 with l1 := p.2.l1.filter keep, wbuf := p.2.wbuf.filter keep })) }

/-- A line whose newest value was in a cache of the reset die holds bytes that the spec does not give. -/
def State.loseBytes (s : State) (line : Nat) : State :=
  (List.range 128).foldl (fun (s : State) k => { s with mem := Memory.write s.mem (line * 128 + k) (Config.lostByte s.fresh) }.useFresh) s

/-- The caches of die d are gone: the homes of the other dies forget them. -/
def State.forgetDie (s : State) (d : Nat) : State :=
  let fix := fun (e : DirEntry) =>
    let own := e.owner.filter (fun a => !agentOnDie d a)
    let sh := e.sharers.filter (fun a => !agentOnDie d a)
    { e with
      owner := own
      sharers := sh
      st := if e.st = .n then .n
        else if own.isSome then (if e.st = .o ∧ sh = [] then .x else e.st)
        else if sh = [] then .i else .s }
  let lost := (s.dies.flatMap (fun p => p.2.dir) ++ s.ctl.filter.map (fun (p : Nat × FilterEntry) => (p.1, p.2.dir))).filter (fun e =>
    (e.2.owner.any (fun a => agentOnDie d a)) && s.cores.any (fun c => dieOf c.1 == d && ((AMap.find? c.2.l1 e.1).any (fun l => l.st == .m || l.st == .o)
      || AMap.has c.2.wbuf e.1)))
  let s1 := (lost.map (fun e => e.1)).foldl (fun (s : State) l => s.loseBytes l) s
  let ids := fun (k : Nat) => (checkerParts k).1 == d
  let drop := fun (m : AMap Nat) => m.filter (fun (p : Nat × Nat) => !ids p.1)
  { s1 with
    dies := s1.dies.map (fun (p : Nat × Die) => (p.1, { p.2 with
      dir := p.2.dir.map (fun (e : Nat × DirEntry) => (e.1, fix e.2))
      links := p.2.links.filter (· != d)
      closes := p.2.closes.filter (fun e => dieOf e.core != d)
      checkers := p.2.checkers.map (fun (c : Nat × Checker) => (c.1, { c.2 with
        sentSum := drop c.2.sentSum, recvSum := drop c.2.recvSum, sentCnt := drop c.2.sentCnt, recvCnt := drop c.2.recvCnt })) }))
    ctl := { s1.ctl with
      filter := s1.ctl.filter.map (fun (p : Nat × FilterEntry) => (p.1, { p.2 with dir := fix p.2.dir }))
      wqArrivals := s1.ctl.wqArrivals.filter (fun a => dieOf a.core != d)
      wqs := s1.ctl.wqs.map (fun (p : Nat × WorkQueue) => (p.1, { p.2 with sleepers := p.2.sleepers.filter (fun a => dieOf a.core != d) }))
      walks := s1.ctl.walks.filter (fun w => w.die != d)
      walkQueue := s1.ctl.walkQueue.filter (fun w => w.die != d) } }

/-- A busy line without the messages to a die's L1s and the requests of its agents; a request of one of them ends. -/
def Busy.without (b : Busy) (d : Nat) : Busy :=
  let mine := b.requester.any (agentOnDie d)
  { b with
    msgs := b.msgs.filter (fun m => !agentOnDie d m.target && !(mine && m.isGrant))
    queue := b.queue.filter (fun e => match e with
      | .rds a _ | .rdx a _ | .upg a _ | .wbd a _ | .evc a _ | .engineRead a _ => !agentOnDie d a
      | _ => true) }

/-- The busy lines of every home: those of the reset die end, and what waited for them meets its poison (R18); elsewhere
nothing is to come from or to go to the reset die. -/
def State.cutBusy (s : State) (d : Nat) : State :=
  s.dies.foldl (fun (s : State) p => p.2.busy.foldl (fun (s : State) x =>
    let b := x.2.without d
    let hb := s.updDie p.1 (fun y => { y with busy := AMap.set y.busy x.1 b })
    if p.1 = d ∨ b.msgs.isEmpty && !x.2.msgs.isEmpty then hb.endBusy x.1 else hb.sendGrant x.1) s) s

/-- Accesses to peers of a die's holders and engines count at their slots until they are answered (R37). -/
def State.orphanDie (s : State) (d : Nat) : State :=
  let held := s.cores.flatMap (fun p => if dieOf p.1 = d then p.2.slots.flatMap (fun q =>
    (q.2.ext.filter (fun x => regionOf s x.pa == .peer && x.failed.isNone)).map (fun x => (p.1, q.1, x.pa))) else [])
  let unitOn := fun (u : Nat) => if u < 256 then dieOf u == d else decide (1256 ≤ u) && (unitEngine (u - 1000)).1 == d
  let gone := s.ctl.away.filter (fun a => unitOn a.unit)
  let mine := fun (a : Nat × Nat × Nat) =>
    if a.1 = awayUnit then gone.any (fun x => x.tag == a.2.1 && x.answer.isNone) else (unitEngine a.1).1 == d
  s.updCtl (fun c => { c with
    away := c.away.filter (fun a => !unitOn a.unit)
    engineAsks := c.engineAsks.filter (fun a => !mine a)
    orphans := c.orphans ++ held ++ c.engineAsks.filter (fun a => mine a && regionOf s a.2.2 == .peer) })

/-- Teams of a holder. -/
def Holder.teams (h : Holder) (t : Nat) : List Nat :=
  match h.kind with
  | .range => (teamsOf t h.lo h.hi).map (fun x => x.1)
  | _ => [h.team]

/-- The teams of a grid that have, or have had, a holder, a piece or a bin item on die d: those of which it still knows (R19, R180). -/
def State.teamsOn (s : State) (d grid : Nat) : List Nat :=
  let t := recT (s.grid grid).record
  (s.cores.flatMap (fun p =>
    if dieOf p.1 = d then
      (p.2.slots.flatMap (fun x => if x.2.grid = grid then x.2.teams t else []))
        ++ (p.2.pieces.flatMap (fun x => if x.holder.grid = grid then x.holder.teams t else []))
        ++ (p.2.bins.flatMap (fun x => if x.2.grid = grid then [x.2.team] else []))
    else [])
    ++ (s.die d).teamRecords.flatMap (fun r => if r.2.1 = grid then [r.2.2] else [])).eraseDups

/-- Whether a dispatcher is on die d. -/
def nodeOnDie (d : Nat) : Node → Bool
  | .die k => k == d
  | .clu x => x / 8 == d
  | .core g => dieOf g == d
  | _ => false

/-- Teams that die d had been sent and that had not begun return to the package dispatcher. -/
def State.returnTeams (s : State) (d : Nat) : State :=
  let back : List (Nat × Nat × Nat) := s.cores.flatMap (fun p => if dieOf p.1 = d then p.2.ranges else [])
  let flying : List (Nat × Nat × Nat) := s.agenda.filterMap (fun e => match e with
    | .rangeReceipt g grid lo hi => if dieOf g = d then some (grid, lo, hi) else none
    | _ => none)
  let s1 := { s with
    agenda := s.agenda.filter (fun e => match e with
      | .rangeReceipt g _ _ _ => dieOf g != d
      | _ => true)
    grids := s.grids.map (fun (p : Nat × Grid) => (p.1, { p.2 with
      undealt := p.2.undealt.map (fun u => if nodeOnDie d u.1 then (Node.pkg Config.pkgId, u.2) else u) })) }
  let s2 := back.foldl (fun (s : State) r => s.updGrid r.1 (fun g => { g with dispatched := g.dispatched - (r.2.2 - r.2.1) })) s1
  (back ++ flying).foldl (fun (s : State) r =>
    s.updGrid r.1 (fun g => { g with undealt := g.undealt ++ [(Node.pkg Config.pkgId, r.2.1, r.2.2)] })) s2

/-- A team is as before its start. -/
def Grid.unstart (g : Grid) (team : Nat) : Grid :=
  let other := fun (k : Nat) => k / 16 != team
  { g with
    teams := AMap.erase g.teams team
    teamStopped := g.teamStopped.filter (· != team)
    queueLog := g.queueLog.filter (fun (p : Nat × List Nat) => other p.1)
    qseq := g.qseq.filter (fun (p : Nat × Nat) => other p.1)
    qdeps := g.qdeps.filter (fun (p : Nat × List Nat) => other p.1)
    collSeq := g.collSeq.filter (fun (p : Nat × Nat) => p.1 / 2 ^ 81 != team) }

/-- What happens to a grid of which teams ran on the reset die (R19). `s` is the state in which that die has no capacity. -/
def State.gridAfter (s : State) (grid : Nat) (ts : List Nat) : State :=
  match AMap.find? s.grids grid with
  | none => s
  | some gr =>
    if gr.done.isSome ∨ ts = [] then s
    else
      let n := ts.length
      let s1 := s.updGrid grid (fun g => ts.foldl Grid.unstart g)
      if recRestart gr.record ∧ !gr.cancel then
        let kids := (s1.grids.filter (fun p => p.2.done.isNone && ts.any (fun t => p.2.parent == some (grid, t)))).map (fun p => Event.gridCancel p.1)
        let s2 := (s1.updGrid grid (fun g => { g with dispatched := g.dispatched - n })).push kids
        let caps := (s2.kids gr (.pkg Config.pkgId)).map (fun c => (c, s2.capOf gr c))
        let total := caps.foldl (fun t c => t + c.2) 0
        if total = 0 then
          s2.updGrid grid (fun g => { g with undealt := g.undealt ++ ts.map (fun t => (Node.pkg Config.pkgId, t, t + 1)) })
        else
          (dealOut 0 n total caps 0 0).foldl (fun (s : State) x =>
            (ts.drop x.2.1 |>.take (x.2.2 - x.2.1)).foldl (fun (s : State) t => s.sendRange grid x.1 t (t + 1)) s) s2
      else
        (s1.updGrid grid (fun g => { g with cancelled := g.cancelled + n, failed := g.failed || !gr.cancel })).push
          [.gridCancel grid, .gridComplete grid]

/-- Die d loses its own state; its cores stand empty until they are brought up again, its links and fabric ports train anew (R9,
R20). -/
def State.clearDie (s : State) (d : Nat) : State :=
  { s with
    cores := s.cores.filter (fun p => dieOf p.1 != d)
    clusters := s.clusters.filter (fun p => p.1 / 8 != d)
    dies := AMap.set s.dies d { resetting := true }
    ctl := { s.ctl with links := s.ctl.links.filter (fun p => portDie p.1 != d) }
    issue := s.issue.filter (fun p => dieOf p.1 != d) }

/-- The commands of the reset die's engines end as cancelled (R19). -/
def State.endCommands (s : State) (d : Nat) : State :=
  let ids := (s.commands.filter (fun p => p.2.engineDie == d)).map (fun (p : Nat × Command) => p.1)
  { s with commands := s.commands.map (fun (p : Nat × Command) => (p.1,
      if p.2.engineDie == d then { p.2 with st := .running, cancel := true, asked := false, got := none } else p.2)) }.push
    (ids.map Event.commandComplete)

/-- The reset itself, when every core is halted. -/
def resetDie (d oldDies : Nat) (oldCores : List Nat) (s : State) : State :=
  let work := s.grids.map (fun (p : Nat × Grid) => (p.1, s.teamsOn d p.1))
  let s1 := (((((s.orphanDie d).zeroDie d).forgetDie d).cutBusy d).endCommands d |>.returnTeams d).clearDie d
  let s2 := s1.updCtl (fun c => { c with haltDies := oldDies, haltedCores := oldCores.filter (fun g => dieOf g != d), resetDie := none })
  let s3 := (s2.cores.map (fun (p : Nat × Core) => p.1)).foldl (fun (s : State) g =>
    if bitN oldDies (dieOf g) ∨ oldCores.contains g then s else s.freezeBins g false) s2
  work.foldl (fun (s : State) w => s.gridAfter w.1 w.2) s3

/-- COMPUTE_DIE_RESET: the package's cores are halted first; the reset follows when all of them are. -/
def execComputeDieReset (die : Nat) (s : State) : Out :=
  if 8 ≤ die ∨ (s.die die).resetting then .next s
  else
    match s.ctl.resetDie with
    | none =>
      let s1 := s.updCtl (fun c => { c with resetDie := some (die, c.haltDies, c.haltedCores) })
      .next ((s1.haltAll 255).push [.computeDieReset die])
    | some (d, dies, cores) =>
      if d ≠ die ∨ !s.cores.all (fun p => s.ctl.haltedCores.contains p.1) then .next s
      else .next (resetDie d dies cores s)

end Sys2Proof.Machine
end

