-- ==== Sys2Proof/Machine/Agenda.lean ====
section
/-! DEFINITION. What a pending step does: the meaning of the row of its name (LOG 2). -/

namespace Sys2Proof.Machine

/-- Run a pending step. -/
def runEvent (e : Event) (s : State) : Out :=
  match e with
  | .longLatencyComplete core slot idx => execLongLatencyComplete core slot idx s
  | .futureComplete fut status => execFutureComplete fut status s
  | .swap core slot => execSwap core slot s
  | .watchdogExpiry core slot => execWatchdogExpiry core slot s
  | .piecePlace core => execPiecePlace core s
  | .barwPieceHandoff core slot => execBarwPieceHandoff core slot s
  | .foldHoldExpiry core slot => execFoldHoldExpiry core slot s
  | .foldMerge core slot other => execFoldMerge core slot other s
  | .binTimerExpiry core bin => execBinTimerExpiry core bin s
  | .compaction core => execCompaction core s
  | .capacityReport child grid => execCapacityReport child grid 0 s
  | .dealRound node grid => execDealRound node grid s
  | .rangeReceipt core grid lo hi => execRangeReceipt core grid lo hi s
  | .launchRecordCheck idx => execLaunchRecordCheck idx s
  | .teamRetire core grid team => execTeamRetire core grid team s
  | .completionReport node grid => execCompletionReport node grid 0 0 {} s
  | .gridComplete grid => execGridComplete grid s
  | .gridCancel grid => execGridCancel grid s
  | .reDeal grid pkg => execReDeal grid pkg s
  | .invalidationComplete id => execInvalidationComplete id s
  | .invalWalkRestart id => execInvalWalkRestart id s
  | .flipComplete id => execFlipComplete id s
  | .rds agent line => execRds agent line s
  | .rdx agent line => execRdx agent line s
  | .upg agent line => execUpg agent line s
  | .wbd agent line => execWbd agent line s
  | .evc agent line => execEvc agent line s
  | .snoop kind line => execSnoop kind line s
  | .engineRead agent line => execEngineRead agent line s
  | .forwardReceipt agent line => execForwardReceipt agent line s
  | .grantReceipt agent line => execGrantReceipt agent line s
  | .registerSpaceAnswer core slot => execRegisterSpaceAnswer core slot s
  | .releaseComplete core => execReleaseComplete core s
  | .tasterCheck core => execTasterCheck core s
  | .epochClose core => execEpochClose core s
  | .epochCompare core die => execEpochCompare core die s
  | .epochTimeout core die => execEpochTimeout core die s
  | .barrierArrivalCount core => execBarrierArrivalCount core s
  | .evwaitTimeout core slot => execEvwaitTimeout core slot s
  | .commandStart cmd => execCommandStart cmd s
  | .commandComplete cmd => execCommandComplete cmd s
  | .engineFaultDelivery core slot => execEngineFaultDelivery core slot s
  | .passFormation clu => execPassFormation clu s
  | .aStagingComplete clu entry => execAStagingComplete clu entry s
  | .bFetchComplete clu => execBFetchComplete clu s
  | .passLeavesArray clu => execPassLeavesArray clu s
  | .trapEntry core slot => execTrapEntry core slot s
  | .deferredTrap core slot => execDeferredTrap core slot s
  | .breakpointHit core slot bp => execBreakpointHit core slot bp s
  | .singleStep core slot => execSingleStep core slot s
  | .coreHalted core => execCoreHalted core s
  | .windowRecordAccept slot => execWindowRecordAccept slot s
  | .doorbellAccept port => execDoorbellAccept port s
  | .packet typ q => execPacket typ q s
  | .packetComplete idx => execPacketComplete idx s
  | .queueRingFault q va => execQueueRingFault q va s
  | .journalAccept idx => execJournalAccept idx s
  | .streamGapTimeout k => execStreamGapTimeout k s
  | .slotDrained slot => execSlotDrained slot s
  | .traceLoss core => execTraceLoss core s
  | .scrubPerform => execScrubPerform s
  | .rootFailover pkg => execRootFailover pkg s
  | .evwaitReread core slot => execEvwaitReread core slot s
  | .workQueueUnitArrival => execWorkQueueUnitArrival s
  | .injectedDelayExpiry core => execInjectedDelayExpiry core s
  | .memoryControllerAcceptance line write => execMemoryControllerAcceptance line write s
  | .deadlockScan => execDeadlockScan s
  | .computeDieReset die => execComputeDieReset die s
  | .homeAtomic r => execHomeAtomic r s
  | .uncachedAccess r => execUncachedAccess r s
  | .recall line => execRecall line s
  | .directoryEviction line => execDirectoryEviction line s
  | .filterEviction line => execFilterEviction line s

end Sys2Proof.Machine
end

