-- ==== Sys2Proof/Machine/Exits.lean ====
section
/-! DEFINITION. `exit` and `ret` (spec 12 R313, R315) with the release that the exit of an item is (05 R131, R133). -/

namespace Sys2Proof.Machine

/-- The narrowest scope that encloses some cores (R131). -/
def coresScope : List Nat → Scope
  | [] => .team
  | g :: gs => if gs.all (fun k => cluOf k == cluOf g) then .clu else if gs.all (fun k => dieOf k == dieOf g) then .die else .dev

/-- The completion scope of a grid, over the cores that its teams have reached and the observer (R131, R133, R216): a grid that
`glaunch` launched is observed where it was launched, another by a host. -/
def Grid.completionScope (gr : Grid) : Scope :=
  if recDomain gr.record = 1 then .pod
  else
    match gr.issuer with
    | none => .sys
    | some g => if gr.ran.isEmpty then .team else coresScope (g :: gr.ran)

/-- The effect of `exit`: a release of the slot at its grid's completion scope, as far as the grid's placement goes by then
(LOG 37), then the active items end. -/
def exitItems (s : State) (g q : Nat) (h : Holder) : State :=
  if !quietHere s g q h then s.block g q h h.settleWait
  else if needsRecord s g h (laneCount h.mask) then s.block g q h .teamRecord
  else if h.kind ≠ .range ∧ h.mask = 0#96 then s.issued g q (h.advance 8)
  else
    releasePoint s g q h (s.grid h.grid).completionScope fun s1 =>
      match h.kind with
      | .range => (s1.countIssue g q).endHolder g q h false
      | _ =>
        leaveItems s1 g q h (s1.endItems g h.grid h.team (laneCount h.mask) false) (h.dropLanes h.mask)
          ((s1.countIssue g q).endHolder g q { h with live := h.mask } false)

/-- `exit`. -/
def execExit (s : State) : Out := issue .exit s fun g q h => .next (exitItems s g q h)

/-- `ret` (R315): to the parent frame, or at depth 0 as `exit`. -/
def execRet (s : State) : Out :=
  issue .ret s fun g q h =>
    let x := h.getFrame h.frame
    if x.depth = 0 then .next (exitItems s g q h)
    else if x.ret % 8 ≠ 0 then .next (s.trapHere g q h 0 0 (headWord .ret))
    else
      .next (s.afterDrip g q h (s.takeFrame g q h x.parent) fun s1 h1 =>
        (s1.issued g q (h1.jump x.ret)).unsync g q)

end Sys2Proof.Machine
end

