-- ==== Sys2Proof/Machine/Links.lean ====
section
/-! DEFINITION. Flits of the fabric ports and of the links between dies, their loss, and what a lost flit does to the lines
whose messages it carried (spec 06 R171-R174, 18 R469, R470, 01 R13, R14). -/

namespace Sys2Proof.Machine

/-! ## Uncorrectable flits (R171-R174) -/

/-- The payload of an indeterminate directory (R167, R168). -/
def lostPayload (s : State) (line : Nat) (fabric header : Bool) (link typ : Nat) : Nat :=
  let (d, ty, ix) := homeChecker s line
  payloadWord 0 0 ((s.die d).checker ty ix).clock (checkerId d ty ix) (s.intervalOf line) line 5
    ((if fabric then 1 else 0) * 2 ^ 92 + link % 256 * 2 ^ 84 + (if header then 1 else 0) * 2 ^ 83
      + (if header then 15 else typ % 16) * 2 ^ 79)

/-- Whether a grant of E or M, or a WbD, of a line is on its way: what a flit of unknown content could have carried. -/
def State.ownershipMoves (s : State) (line : Nat) : Bool :=
  ((s.busyOf line).any (fun b => b.msgs.any (fun m => match m with
    | .grant _ st _ => st != .s
    | _ => false))) || s.agenda.any (fun e => match e with
    | .wbd _ l => l == line
    | _ => false)

/-- A line whose directory can no longer be known enters N (R172); the requests that waited for it go on. -/
def loseLine (fabric header own : Bool) (link typ line : Nat) (s : State) : State :=
  let p := lostPayload s line fabric header link typ
  let (d, ty, ix) := homeChecker s line
  let waiting := ((s.busyOf line).map (·.queue)).getD []
  let dirty := own || (!header && typ == 7) || (header && s.ownershipMoves line) || s.ownedDirty line
  (((s.storePayload d ty ix p).enterN line p dirty).updDie (s.lineDie line) (fun x =>
    { x with busy := AMap.erase x.busy line, reread := x.reread.filter (· != line) })).push waiting

/-- A flit carried a message of a line that is homed here: a directory update or an acknowledgement puts the line in N; the
receiver of clean read data asks for it once more, and for the line in N when that fails too (R172, R174). -/
def loseHere (fabric own : Bool) (link typ line : Nat) (s : State) : State :=
  let home := s.lineDie line
  let grant := own && (typ == 0 || typ == 1)
  let clean := (typ == 0 && !own) || typ == 9 || typ == 12 || typ == 14
  if (s.dirOf line).st = .n then s
  else if typ = 1 ∨ 4 ≤ typ ∧ typ ≤ 8 ∨ grant ∨ clean ∧ (s.die home).reread.contains line then
    loseLine fabric false grant link typ line s
  else if clean then
    (s.updDie home (fun d => { d with reread := d.reread ++ [line] })).push
      ((((s.busyOf line).map (·.msgs)).getD []).filterMap (fun m => match m with
        | .grant a .s _ => some (Event.grantReceipt a line)
        | _ => none))
  else s

/-! ## Accesses to peers -/

/-- An access of this package to a peer that has not been answered: its tag, and where the answer goes. -/
inductive PeerAsk where
  | slot (g q : Nat) (x : ExtAccess)
  | unit (a : Nat × Nat × Nat)
  deriving Repr, Inhabited

/-- Tag under which an access is known to its owner. -/
def PeerAsk.tag : PeerAsk → Nat
  | .slot _ _ x => x.tag
  | .unit a => a.1 * 65536 + a.2.1

/-- Address of an access. -/
def PeerAsk.pa : PeerAsk → Nat
  | .slot _ _ x => x.pa
  | .unit a => a.2.2

/-- The accesses to peers that wait for an answer. -/
def State.peerAsks (s : State) : List PeerAsk :=
  (s.cores.flatMap (fun p => p.2.slots.flatMap (fun h =>
    (h.2.ext.filter (fun x => x.failed.isNone && regionOf s x.pa == .peer)).map (PeerAsk.slot p.1 h.1)))
    ++ (s.ctl.engineAsks.filter (fun a => regionOf s a.2.2 == .peer)).map PeerAsk.unit)

/-- The request of an access, as it was sent. -/
def State.peerSent (s : State) (x : PeerAsk) : Option (Nat × PeerReq) :=
  s.outbox.reverse.findSome? (fun m => match m with
    | .peer r owner => if r.tag = x.tag then some (owner, r) else none
    | _ => none)

/-- An access to a peer is lost: it completes at the importer with a poison fault (R174). -/
def losePeer (x : PeerAsk) (s : State) : State :=
  match x with
  | .slot g q a => peerExt s g q a .lost
  | .unit a => unitReply s a .lost

/-- The answer to an access is lost: clean read data is asked for once more (R174). -/
def loseAnswer (typ : Nat) (x : PeerAsk) (s : State) : State :=
  let line := x.pa / 128
  let die := portDie (s.peerPort x.pa)
  match s.peerSent x with
  | some (owner, r) =>
    match r.op with
    | .read _ =>
      if typ = 14 ∧ !(s.die die).reread.contains line then
        (s.updDie die (fun d => { d with reread := d.reread ++ [line] })).sendFabric owner line (.peer r owner)
      else losePeer x (s.updDie die (fun d => { d with reread := d.reread.filter (· != line) }))
    | _ => losePeer x s
  | none => losePeer x s

/-- A flit that this package sent cannot be delivered: an access that it carried is lost; the sender of another message hears of
it by the time that passes (R213, R473, R476). -/
def loseSent (m : OutMsg) (s : State) : State :=
  match m with
  | .peer r _ =>
    match s.peerAsks.find? (fun x => x.tag == r.tag) with
    | some x => losePeer x s
    | none => s
  | _ => s

/-- The flits that a port keeps unacknowledged are uncorrectable (R171, R470). -/
def loseKept (port : Nat) (s : State) : State :=
  let l := s.link port
  let msgs := l.unacked.filterMap (fun n => AMap.find? l.kept n)
  msgs.foldl (fun s m => loseSent m s)
    ((s.updLink port (fun l => { l with unacked := [], kept := [], replays := 0 })).send (.report 4 port l.unacked.length))

/-! ## Transactions on a link -/

/-- The die of an agent: the control die for those outside the compute dies. -/
def agentDie : Agent → Nat
  | .core g => dieOf g
  | .fused c | .copyEngine c | .matrix c => c / 8
  | .collEngine d => d
  | _ => 8

/-- Whether the route between two dies takes the link between dies a and b. -/
def State.crosses (s : State) (a b src dst : Nat) : Bool :=
  let hops := src :: dieRoute s src dst
  src != dst && (hops.zip hops.tail).any (fun h => (h.1 == a && h.2 == b) || (h.1 == b && h.2 == a))

/-- Lines with a transaction outstanding on the link between dies a and b (R173): those of which a message to or from a holder
or a requester is to pass over it. -/
def State.linkLines (s : State) (a b : Nat) : List Nat :=
  let on := fun (line : Nat) (x : Agent) => s.crosses a b (s.lineDie line) (agentDie x)
  ((s.dies.flatMap (fun p => p.2.busy.filterMap (fun x =>
      if x.2.msgs.any (fun m => on x.1 m.target) then some x.1 else none)))
    ++ s.agenda.filterMap (fun e => match e with
      | .rds x l | .rdx x l | .upg x l | .wbd x l | .evc x l | .engineRead x l | .forwardReceipt x l | .grantReceipt x l =>
        if on l x then some l else none
      | _ => none)).eraseDups

/-- Lines of this package of which a peer's access, taken over a fabric port, is still to be performed (R173). -/
def State.portLines (s : State) (port : Nat) : List Nat :=
  (s.ctl.heldPeer.filterMap (fun r =>
    if s.portTo r.src (r.off / 128) = some port then (s.exportEntry r.exportIdx).map (fun e => (field e 76 52 + r.off) / 128)
    else none)).eraseDups

/-- UNCORRECTABLE_FLIT, received over a fabric port, or at a die over one of its links; `ownership` says that a
message of type 0 or 1 granted E or M. With the header lost, the lines are those with a transaction outstanding on the
link, else those whose messages the flit carried. -/
def execUncorrectableFlit (fabric : Bool) (link : LinkEnd) (header ownership : Bool) (typ : Nat) (lines : List Nat)
    (s : State) : Out :=
  let far := s.peerAsks.filter (fun x => fabric && s.peerPort x.pa == link.link && (header || lines.contains (x.pa / 128)))
  let s1 := far.foldl (fun s x => if header then losePeer x s else loseAnswer typ x s) s
  let here := fun (l : Nat) => (homeDie s (l * 128)).isSome || isHostLine s l
  if header then
    let mine := if fabric then s.portLines link.link else s.linkLines link.near link.link
    .next ((mine.filter here).foldl (fun s l => if (s.dirOf l).st = .n then s else loseLine fabric true false link.link typ l s) s1)
  else .next ((lines.filter here).foldl (fun s l => loseHere fabric ownership link.link typ l s) s1)

/-! ## Flits of a fabric port (R469, R470) -/

/-- Whether flit number x comes before number n of a 4,096-wrapping sequence. -/
def flitBefore (x n : Nat) : Bool := let d := (n + 4096 - x % 4096) % 4096; decide (1 ≤ d) && decide (d ≤ 256)

/-- RETRY_REQUEST: the sender replays every flit from the requested number on; after the sixteenth failed replay of one flit
the flits are uncorrectable (R171). -/
def execRetryRequest (port n : Nat) (s : State) : Out :=
  let l := s.link port
  let left := l.unacked.filter (fun x => !flitBefore x n)
  let tries := if left.head? = l.unacked.head? then l.replays + 1 else 1
  let s1 := s.updLink port (fun l => { l with unacked := left, replays := tries })
  if left.isEmpty then .next (s.updLink port (fun l => { l with unacked := [], replays := 0 }))
  else if 16 < tries then .next (loseKept port s1)
  else .next (s1.send (.replay port n))

/-- FLIT_RECEIPT: a flit with a CRC mismatch, a reserved bit or a kind above 3 is asked for again; a data flit counts only
in its turn; the acknowledgement frees what the sender keeps. -/
def execFlitReceipt (port : Nat) (f : Flit) (s : State) : Out :=
  let l := s.link port
  if !f.crcOk ∨ f.reserved ≠ 0 ∨ 3 < f.kind then .next (s.send (.retry port l.rxExpect))
  else
    let left := l.unacked.filter (fun x => !flitBefore x f.ack)
    let s1 := s.updLink port (fun l => { l with
      unacked := left
      replays := if left.head? = l.unacked.head? then l.replays else 0
      rxExpect := if f.kind = 1 ∧ f.seq = l.rxExpect then (l.rxExpect + 1) % 4096 else l.rxExpect })
    if f.kind = 2 then execRetryRequest port f.ack s1 else .next s1

/-! ## A link goes down -/

/-- What a message of a line under way carries: its type, and whether it grants E or M. -/
def msgFlit : Msg → Nat × Bool
  | .fwdS _ | .fwdX _ => (2, false)
  | .inv _ => (5, false)
  | .grant _ st data => (if data then 0 else 1, st != .s)

/-- The messages of lines that are under way over the link between dies a and b (R171): the flits not acknowledged. -/
def State.linkFlits (s : State) (a b : Nat) : List (Nat × Nat × Bool) :=
  let on := fun (line : Nat) (x : Agent) => s.crosses a b (s.lineDie line) (agentDie x)
  s.dies.flatMap (fun p => p.2.busy.flatMap (fun x =>
    (x.2.msgs.filter (fun m => on x.1 m.target && x.2.stamps.any (fun t => t.1 == m.target))).map (fun m => (x.1, msgFlit m))))
    ++ s.agenda.filterMap (fun e => match e with
      | .wbd x l => if on l x then some (l, 7, false) else none
      | .evc x l => if on l x then some (l, 8, false) else none
      | _ => none)

/-- LINK_DOWN: the link between two dies carries nothing until it trains again, and its unacknowledged flits are uncorrectable
(R14, R171). -/
def execLinkDown (a b : Nat) (s : State) : Out :=
  let cut := fun (s : State) (x y : Nat) => s.updDie x (fun d => { d with links := d.links.filter (· != y) })
  if s.linkUp a b then
    let flits := s.linkFlits a b
    .next (flits.foldl (fun (s : State) f => loseHere false f.2.2 b f.2.1 f.1 s) (cut (cut s a b) b a))
  else .next s

end Sys2Proof.Machine
end

