-- ==== Sys2Proof/Machine/Power.lean ====
section
/-! DEFINITION. Bring-up, the core clock, power gating of clusters and dies, and storage links (spec 23 R505-R511, 01 R12,
R20, 04 R101, R102, 18 R460, R461, R467). -/

namespace Sys2Proof.Machine

/-! ## Bring-up (R505-R508) -/

/-- Capacity of the DDR tier in GiB (R12): none when a channel is empty or the channels differ. -/
def ddrCapacity (modules : List Nat) : Nat :=
  match modules with
  | m :: _ => if modules.length = 16 ∧ modules.all (· == m) ∧ (m = 64 ∨ m = 128 ∨ m = 256) then 16 * m else 0
  | [] => 0

/-- BRINGUP: steps 1 to 3 of R505; step 3 is taken once for each CXL port, which stays disabled when it fails. Step 4 is
DIE_BRINGUP. -/
def execBringup (step : Nat) (ok : Bool) (s : State) : Out :=
  let c := s.ctl
  if c.bootFailed ∨ step ≠ c.bootStep + 1 then .next s
  else
    match step with
    | 1 => .next (s.updCtl (fun c => if ok then { c with bootStep := 1 } else { c with bootFailed := true }))
    | 2 => .next (s.updCtl (fun c =>
        if ok then { c with bootStep := 2, firmwareUp := true, ddrGiB := ddrCapacity Config.ddrModules }
        else { c with bootFailed := true }))
    | 3 => .next (s.updCtl (fun c => { c with cxl := c.cxl ++ [ok], bootStep := if 4 ≤ c.cxl.length + 1 then 3 else 2 }))
    | _ => .next s

/-- SIGNED_IMAGE_UPLOAD: after a failed check the boot ROM starts again with a new image. -/
def execSignedImageUpload (ok : Bool) (s : State) : Out :=
  if s.ctl.bootFailed ∧ ok then .next (s.updCtl (fun c => { c with bootFailed := false, bootStep := 0 })) else .next s

/-- The core clock moves, or will when the thermal limit has cleared (R508, R511). -/
def State.setRate (s : State) (mhz : Nat) : State :=
  s.updCtl (fun c => if c.thermal then { c with savedMHz := mhz } else { c with clockMHz := mhz })

/-- CAPDIE.State and the clock follow the dies while bring-up runs (R507, R508). -/
def State.bootProgress (s : State) : State :=
  let ds := (List.range 8).map s.die
  let on := ds.any (·.online)
  let more := ds.any (fun d => !d.online && !d.failed)
  if 2 ≤ s.ctl.bootState then s
  else
    let st := if more then (if on then 1 else 0) else if on then 2 else 3
    let s1 := s.updCtl (fun c => { c with bootState := st })
    if st = 2 then s1.setRate 1400 else s1

/-- The link of a die to the control die and its ring and cross links to the dies already online train (R506). -/
def State.trainLinks (s : State) (d : Nat) : State :=
  let far := 8 :: (List.range 8).filter (fun k => linkExists d k && (s.die k).online)
  (far.foldl (fun (s : State) k => s.updDie k (fun x => { x with links := x.links.filter (· != d) ++ [d] })) s).updDie d (fun x =>
    { x with links := far })

/-- A cluster powers on with empty caches and no split (R102). -/
def State.powerCluster (s : State) (x : Nat) : State :=
  (cluCores x).foldl (fun (s : State) g => s.updCore g (fun c => { c with l1Banks := 0, spmBanks := 0, spm := [] }))
    (s.updCluster x (fun c => { c with powered := true }))

/-- What a step of R506 does when it succeeds. -/
def State.dieStep (s : State) (d step : Nat) : State :=
  let s1 := s.updDie d (fun x => { x with step_ := step })
  if step = 1 then s1.updDie d (fun x => { x with powered := true })
  else if step = 2 then s1.trainLinks d
  else if step = 3 then s1
  else
    let s2 := s1.powerCluster (8 * d + (step - 4))
    if step < 11 then s2
    else
      let s3 := (s2.updDie d (fun x => { x with online := true, resetting := false })).bootProgress
      s3.push ((List.range 8).map (fun x => Event.passFormation (8 * d + x)))

/-- DIE_BRINGUP: dies come up in ascending order; a reset die comes up by itself. -/
def execDieBringup (die step : Nat) (ok : Bool) (s : State) : Out :=
  let d := s.die die
  let turn := d.resetting || (List.range die).all (fun k => (s.die k).online || (s.die k).failed || (s.die k).resetting)
  if 8 ≤ die ∨ s.ctl.bootStep < 3 ∨ d.online ∨ d.failed ∨ !turn ∨ step ≠ d.step_ + 1 ∨ 11 < step then .next s
  else if ok then .next (s.dieStep die step)
  else .next (s.updDie die (fun x => { x with failed := true })).bootProgress

/-- CLOCK_CHANGE. -/
def execClockChange (mhz : Nat) (s : State) : Out :=
  if mhz = 1000 ∨ mhz = 1400 then .next (s.setRate mhz) else .next s

/-- THERMAL_LIMIT: the clock drops to 1.0 GHz. -/
def execThermalLimit (s : State) : Out :=
  if s.ctl.thermal then .next s
  else .next (s.updCtl (fun c => { c with thermal := true, savedMHz := c.clockMHz, clockMHz := 1000 }))

/-- THERMAL_CLEAR_TIMEOUT: the clock is restored. -/
def execThermalClearTimeout (s : State) : Out :=
  if s.ctl.thermal then .next (s.updCtl (fun c => { c with thermal := false, clockMHz := c.savedMHz })) else .next s

/-! ## Power gating (R101, R102, R510) -/

/-- Whether a cluster may be gated (R101). -/
def State.quiescent (s : State) (x : Nat) : Bool :=
  let gs := cluCores x
  gs.all (fun g => (s.core g).slots.isEmpty && (s.core g).l1.isEmpty && (s.core g).wbuf.isEmpty)
    && (s.cluster x).table.isEmpty && !s.commands.any (fun c => c.2.engine == 256 + x)
    && s.dies.all (fun d => d.2.dir.all (fun e => e.2.holders.all (fun a => !(gs.any (fun g => a == .core g) || a == .fused x))))
    && s.ctl.filter.all (fun f => f.2.dir.holders.all (fun a => !(gs.any (fun g => a == .core g) || a == .fused x)))

/-- CLUSTER_GATE: refused with "not quiescent", or power goes and with it the unified store, the pool and the TLBs. -/
def execClusterGate (clu : Nat) (s : State) : Out :=
  if !(s.cluster clu).powered then .next s
  else if !s.quiescent clu then .next (s.send (.report 7 clu 1))
  else
    let s1 := (cluCores clu).foldl (fun (s : State) g => s.updCore g (fun c => { c with
      l1Banks := 0, spmBanks := 0, spm := [], tlb := [], icache := [], ccache := [], misses := [] })) s
    .next (s1.updCluster clu (fun c => { c with powered := false, fused := false, tiles := [], units := [], tlb := [] }))

/-- CLUSTER_WAKE. -/
def execClusterWake (clu : Nat) (s : State) : Out :=
  if (s.cluster clu).powered ∨ !(s.die (clu / 8)).powered then .next s
  else .next (s.powerCluster clu)

/-- DIE_GATE: only when its clusters are gated and nobody else holds a line that it homes. -/
def execDieGate (die : Nat) (s : State) : Out :=
  let d := s.die die
  if d.online ∧ d.powered ∧ (List.range 8).all (fun k => !(s.cluster (8 * die + k)).powered) ∧ d.dir.all (fun e => e.2.holders.isEmpty)
      ∧ s.ctl.filter.all (fun f => homeDie s (128 * f.1) != some die || f.2.dir.holders.isEmpty) ∧ d.busy.isEmpty then
    .next (s.updDie die (fun x => { x with powered := false }))
  else .next s

/-- DIE_WAKE. -/
def execDieWake (die : Nat) (s : State) : Out :=
  if (s.die die).online then .next (s.updDie die (fun x => { x with powered := true })) else .next s

/-! ## Storage links (R467) -/

/-- STORAGE_LINK_CHANGE: rate and width are codes of PSTAT. -/
def execStorageLinkChange (port : Nat) (up : Bool) (rate width : Nat) (s : State) : Out :=
  if 2 ≤ port then .next s
  else
    .next (s.updCtl (fun c => { c with storage := AMap.upd c.storage port {} (fun x => { x with
      up := up
      rate := if up then rate % 8 else x.rate
      width := if up then width % 8 else x.width }) }))

end Sys2Proof.Machine
end

