-- ==== Sys2Proof/Machine/IntOps.lean ====
section
/-! DEFINITION. Integer and bit operations on elements of w bits, given as numbers below 2^w (spec 12 R305-R308,
13 R336-R340). -/

namespace Sys2Proof.Machine

/-- The value of an element read as signed or unsigned (R305, R332). -/
def intOf (signed : Bool) (w x : Nat) : Int := if signed then sextI x w else x % 2 ^ w

/-- Sum modulo 2^w. -/
def iAdd (w x y : Nat) : Nat := (x + y) % 2 ^ w
/-- Difference modulo 2^w. -/
def iSub (w x y : Nat) : Nat := (x + (2 ^ w - y % 2 ^ w)) % 2 ^ w
/-- Low half of the product. -/
def iMul (w x y : Nat) : Nat := (x * y) % 2 ^ w
/-- High half of the product of the operands as the type reads them. -/
def iMulh (signed : Bool) (w x y : Nat) : Nat := wrapI (intOf signed w x * intOf signed w y / 2 ^ w) w
/-- Product and sum (R336). -/
def iMad (w x y z : Nat) : Nat := (x * y + z) % 2 ^ w
/-- The lesser operand. -/
def iMin (signed : Bool) (w x y : Nat) : Nat := if intOf signed w x ≤ intOf signed w y then x else y
/-- The greater operand. -/
def iMax (signed : Bool) (w x y : Nat) : Nat := if intOf signed w x ≥ intOf signed w y then x else y
/-- Quotient truncated toward zero; all ones for a divisor of zero (R306). -/
def iDiv (signed : Bool) (w x y : Nat) : Nat :=
  if y % 2 ^ w = 0 then 2 ^ w - 1 else wrapI ((intOf signed w x).tdiv (intOf signed w y)) w
/-- Remainder with the dividend's sign; the dividend for a divisor of zero (R306). -/
def iRem (signed : Bool) (w x y : Nat) : Nat :=
  if y % 2 ^ w = 0 then x % 2 ^ w else wrapI ((intOf signed w x).tmod (intOf signed w y)) w
/-- Shift left by y mod w. -/
def iShl (w x y : Nat) : Nat := (x * 2 ^ (y % w)) % 2 ^ w
/-- Logical shift right by y mod w. -/
def iShr (w x y : Nat) : Nat := x % 2 ^ w / 2 ^ (y % w)
/-- Arithmetic shift right by y mod w. -/
def iSar (w x y : Nat) : Nat := wrapI (sextI x w / 2 ^ (y % w)) w
/-- Rotate left by y mod w. -/
def iRot (w x y : Nat) : Nat := rotlN x (y % w) w
/-- The absolute value modulo 2^w. -/
def iAbs (w x : Nat) : Nat := wrapI (sextI x w).natAbs w
/-- The absolute difference (R336). -/
def iAbsd (signed : Bool) (w x y : Nat) : Nat := (intOf signed w x - intOf signed w y).natAbs % 2 ^ w
/-- Saturation to the range of the type (R336). -/
def iSat (signed : Bool) (w : Nat) (v : Int) : Nat :=
  let lo : Int := if signed then -(2 ^ (w - 1)) else 0
  let hi : Int := if signed then 2 ^ (w - 1) - 1 else 2 ^ w - 1
  wrapI (if v < lo then lo else if hi < v then hi else v) w
/-- Saturating sum. -/
def iSadd (signed : Bool) (w x y : Nat) : Nat := iSat signed w (intOf signed w x + intOf signed w y)
/-- Saturating difference. -/
def iSsub (signed : Bool) (w x y : Nat) : Nat := iSat signed w (intOf signed w x - intOf signed w y)
/-- x and not y. -/
def iAndn (w x y : Nat) : Nat := x &&& ((2 ^ w - 1) ^^^ (y % 2 ^ w))

/-- Field position and effective length of a control word (R307). -/
def bitField (w ctl : Nat) : Nat × Nat :=
  let pos := field ctl 0 7
  let len := field ctl 8 7
  (pos, if pos ≥ w ∨ len = 0 then 0 else min len (w - pos))

/-- Extract a field (R307). -/
def iBfx (signed : Bool) (w x ctl : Nat) : Nat :=
  let (pos, nf) := bitField w ctl
  if nf = 0 then 0
  else
    let f := field x pos nf
    if signed then wrapI (sextI f nf) w else f

/-- Insert a field (R307). -/
def iBfi (w x y ctl : Nat) : Nat :=
  let (pos, nf) := bitField w ctl
  if nf = 0 then x else setField x pos nf y

/-- A truth table of three inputs, bit by bit (R338). -/
def iLop3 (w x y old z : Nat) : Nat :=
  (List.range w).foldl (fun acc j =>
    let k := (if bitN x j then 4 else 0) + (if bitN y j then 2 else 0) + (if bitN old j then 1 else 0)
    if bitN z k then acc + 2 ^ j else acc) 0

/-- Deposit bits of x at the one bits of y (R338). -/
def iPdep (w x y : Nat) : Nat :=
  ((List.range w).foldl (fun (a : Nat × Nat) j =>
    if bitN y j then (a.1 + 1, if bitN x a.1 then a.2 + 2 ^ j else a.2) else a) (0, 0)).2

/-- Gather the bits of x at the one bits of y (R338). -/
def iPext (w x y : Nat) : Nat :=
  ((List.range w).foldl (fun (a : Nat × Nat) j =>
    if bitN y j then (a.1 + 1, if bitN x j then a.2 + 2 ^ a.1 else a.2) else a) (0, 0)).2

/-- Permute 64 bits; `c` gives the 16 control words (R339). -/
def iBperm (x : Nat) (c : Nat → Nat) : Nat :=
  (List.range 64).foldl (fun acc j => if bitN x (field (c (j / 4)) (8 * (j % 4)) 6) then acc + 2 ^ j else acc) 0

/-- Multiply bytes by an 8 x 8 bit matrix over GF(2) (R340). -/
def iGfmat (x y : Nat) : Nat :=
  (List.range 64).foldl (fun acc j =>
    if popN 8 (field x (8 * (j / 8)) 8 &&& field y (8 * (j % 8)) 8) % 2 = 1 then acc + 2 ^ j else acc) 0

/-- A condition on two elements (R281, R347). -/
def intCond (c : Cond) (signed : Bool) (w x y : Nat) : Bool :=
  let a := intOf signed w x
  let b := intOf signed w y
  match c with
  | .eq => a == b
  | .ne => a != b
  | .lt => decide (a < b)
  | .le => decide (a ≤ b)
  | .gt => decide (a > b)
  | .ge => decide (a ≥ b)
  | _ => false

/-- Apply an operation to each element of a packed value (R250, R332): k elements of w bits. -/
def packed (w : Nat) (f : Nat → Nat → Nat) : Nat → Nat → Nat → Nat
  | 0, _, _ => 0
  | k + 1, x, y => packed w f k x y + (f (field x (w * k) w) (field y (w * k) w) % 2 ^ w) * 2 ^ (w * k)

/-- Apply a two-operand operation as a type's elements ask: whole, or each element of a packed type. -/
def perElem (t : Ty) (f : Nat → Nat → Nat → Nat) (x y : Nat) : Nat :=
  match t with
  | .i16x2 => packed 16 (f 16) 2 x y
  | .i8x4 => packed 8 (f 8) 4 x y
  | _ => f (if t.wide then 64 else 32) x y

end Sys2Proof.Machine
end

