-- ==== Sys2Proof/Machine/Scalar.lean ====
section
/-! DEFINITION. The scalar instructions of majors 0x01 to 0x07 and 0x10 to 0x14 (spec 12 R302-R308). -/

namespace Sys2Proof.Machine

/-- A scalar instruction: its checks, its effect on the holder, the next instruction. -/
def scalar (i : Instr) (s : State) (f : Holder → Holder) : Out :=
  issue i s fun g q h =>
    let h1 := f h
    .next ((s.retire g q i h1).traceMaskOf g q h (h1.advance i.size))

/-- Width of a scalar type. -/
def Ty.w (t : Ty) : Nat := if t.wide then 64 else 32

/-- D := f(w, x, y), every operand of the type's width. -/
def sBin (i : Instr) (o : SOp) (f : Nat → Nat → Nat → Nat) (s : State) : Out :=
  scalar i s fun h => h.writeW o.ty.wide o.d (f (Ty.w o.ty) (h.readW o.ty.wide o.a) (h.readW o.ty.wide o.b))

/-- D := f(w, x, n), B one register. -/
def sShift (i : Instr) (o : SOp) (f : Nat → Nat → Nat → Nat) (s : State) : Out :=
  scalar i s fun h => h.writeW o.ty.wide o.d (f (Ty.w o.ty) (h.readW o.ty.wide o.a) (h.readW false o.b))

/-- D := f(w, x); D has the type's width when `dw`. -/
def sUn (i : Instr) (o : SOp) (dw : Bool) (f : Nat → Nat → Nat) (s : State) : Out :=
  scalar i s fun h => h.writeW (o.ty.wide && dw) o.d (f (Ty.w o.ty) (h.readW o.ty.wide o.a))

/-- `nop` (R288, R309). -/
def execNop (s : State) : Out := scalar .nop s id
/-- `sadd` (R305). -/
def execSadd (o : SOp) (s : State) : Out := sBin (.sadd o) o iAdd s
/-- `ssub` (R305). -/
def execSsub (o : SOp) (s : State) : Out := sBin (.ssub o) o iSub s
/-- `smul` (R305). -/
def execSmul (o : SOp) (s : State) : Out := sBin (.smul o) o iMul s
/-- `smulh` (R305). -/
def execSmulh (o : SOp) (s : State) : Out := sBin (.smulh o) o (iMulh o.ty.signed) s
/-- `smin` (R305). -/
def execSmin (o : SOp) (s : State) : Out := sBin (.smin o) o (iMin o.ty.signed) s
/-- `smax` (R305). -/
def execSmax (o : SOp) (s : State) : Out := sBin (.smax o) o (iMax o.ty.signed) s
/-- `sdiv` (R306). -/
def execSdiv (o : SOp) (s : State) : Out := sBin (.sdiv o) o (iDiv o.ty.signed) s
/-- `srem` (R306). -/
def execSrem (o : SOp) (s : State) : Out := sBin (.srem o) o (iRem o.ty.signed) s
/-- `sand` (R305). -/
def execSand (o : SOp) (s : State) : Out := sBin (.sand o) o (fun _ x y => x &&& y) s
/-- `sor` (R305). -/
def execSor (o : SOp) (s : State) : Out := sBin (.sor o) o (fun _ x y => x ||| y) s
/-- `sxor` (R305). -/
def execSxor (o : SOp) (s : State) : Out := sBin (.sxor o) o (fun _ x y => x ^^^ y) s
/-- `sshl` (R305). -/
def execSshl (o : SOp) (s : State) : Out := sShift (.sshl o) o iShl s
/-- `sshr` (R305). -/
def execSshr (o : SOp) (s : State) : Out := sShift (.sshr o) o iShr s
/-- `ssar` (R305). -/
def execSsar (o : SOp) (s : State) : Out := sShift (.ssar o) o iSar s
/-- `srot` (R305). -/
def execSrot (o : SOp) (s : State) : Out := sShift (.srot o) o iRot s
/-- `sclz` (R305). -/
def execSclz (o : SOp) (s : State) : Out := sUn (.sclz o) o false clzN s
/-- `spop` (R305). -/
def execSpop (o : SOp) (s : State) : Out := sUn (.spop o) o false popN s
/-- `sbrev` (R305). -/
def execSbrev (o : SOp) (s : State) : Out := sUn (.sbrev o) o true brevN s
/-- `sbfx` (R307). -/
def execSbfx (o : SOp) (s : State) : Out := sShift (.sbfx o) o (iBfx o.ty.signed) s
/-- `sbfi` (R307). -/
def execSbfi (o : SOp) (s : State) : Out :=
  scalar (.sbfi o) s fun h => h.writeW o.ty.wide o.d
    (iBfi (Ty.w o.ty) (h.readW o.ty.wide o.a) (h.readW o.ty.wide o.b) (h.readW false o.c))
/-- `smov` (R305). -/
def execSmov (o : SOp) (s : State) : Out := sUn (.smov o) o true (fun _ x => x) s
/-- `ssel` (R305). -/
def execSsel (o : SOp) (s : State) : Out :=
  scalar (.ssel o) s fun h => h.writeW o.ty.wide o.d
    (if h.readS o.c = 0#32 then h.readW o.ty.wide o.b else h.readW o.ty.wide o.a)
/-- `scmp` (R305). -/
def execScmp (c : Cond) (o : SOp) (s : State) : Out :=
  scalar (.scmp c o) s fun h => h.writeW false o.d
    (if intCond c o.ty.signed (Ty.w o.ty) (h.readW o.ty.wide o.a) (h.readW o.ty.wide o.b) then 1 else 0)

/-! ## Immediate forms (R279, R308) -/

/-- sext(imm, 24) mod 2^32. -/
def simm (imm : Nat) : Nat := wrapI (sextI imm 24) 32

/-- D := f(A, imm). -/
def sImm (i : Instr) (o : SIOp) (f : Nat → Nat → Nat) (imm : Nat) (s : State) : Out :=
  scalar i s fun h => h.writeW false o.d (f (h.readW false o.a) imm)

/-- `sli`. -/
def execSli (o : SIOp) (s : State) : Out := scalar (.sli o) s fun h => h.writeW false o.d (simm o.imm)
/-- `slhi`. -/
def execSlhi (o : SIOp) (s : State) : Out :=
  scalar (.slhi o) s fun h => h.writeW false o.d (o.imm * 2 ^ 8 + h.readW false o.d % 2 ^ 8)
/-- `sadd` with an immediate. -/
def execSaddImm (o : SIOp) (s : State) : Out := sImm (.saddImm o) o (iAdd 32) (simm o.imm) s
/-- `smul` with an immediate. -/
def execSmulImm (o : SIOp) (s : State) : Out := sImm (.smulImm o) o (iMul 32) (simm o.imm) s
/-- `smin.i32` with an immediate. -/
def execSminI32Imm (o : SIOp) (s : State) : Out := sImm (.sminI32Imm o) o (iMin true 32) (simm o.imm) s
/-- `smax.i32` with an immediate. -/
def execSmaxI32Imm (o : SIOp) (s : State) : Out := sImm (.smaxI32Imm o) o (iMax true 32) (simm o.imm) s
/-- `smin.n32` with an immediate. -/
def execSminN32Imm (o : SIOp) (s : State) : Out := sImm (.sminN32Imm o) o (iMin false 32) o.imm s
/-- `smax.n32` with an immediate. -/
def execSmaxN32Imm (o : SIOp) (s : State) : Out := sImm (.smaxN32Imm o) o (iMax false 32) o.imm s
/-- `sand` with an immediate. -/
def execSandImm (o : SIOp) (s : State) : Out := sImm (.sandImm o) o (· &&& ·) o.imm s
/-- `sor` with an immediate. -/
def execSorImm (o : SIOp) (s : State) : Out := sImm (.sorImm o) o (· ||| ·) o.imm s
/-- `sxor` with an immediate. -/
def execSxorImm (o : SIOp) (s : State) : Out := sImm (.sxorImm o) o (· ^^^ ·) o.imm s
/-- `sshl` with an immediate. -/
def execSshlImm (o : SIOp) (s : State) : Out := sImm (.sshlImm o) o (iShl 32) o.imm s
/-- `sshr` with an immediate. -/
def execSshrImm (o : SIOp) (s : State) : Out := sImm (.sshrImm o) o (iShr 32) o.imm s
/-- `ssar` with an immediate. -/
def execSsarImm (o : SIOp) (s : State) : Out := sImm (.ssarImm o) o (iSar 32) o.imm s
/-- `srot` with an immediate. -/
def execSrotImm (o : SIOp) (s : State) : Out := sImm (.srotImm o) o (iRot 32) o.imm s
/-- `scmp` with an immediate. -/
def execScmpImm (c : Cond) (uns : Bool) (o : SIOp) (s : State) : Out :=
  sImm (.scmpImm c uns o) o (fun x y => if intCond c (!uns) 32 x y then 1 else 0)
    (if uns then o.imm else simm o.imm) s

end Sys2Proof.Machine
end

