-- ==== Sys2Proof/Machine/VecInt.lean ====
section
/-! DEFINITION. Vector integer, bit and immediate instructions (spec 13 R335-R341; forms of 07 R185). -/

namespace Sys2Proof.Machine

/-- The form a row of R185 gives for the registers of A and B. -/
abbrev FormRow := FormCtx → List VReg → List VReg → Option (VReg × VReg)

/-- No row: dense unless every source is uniform (R185, R188). -/
def noForm : FormRow := fun _ _ _ => none

/-- A row for the 32-bit types. -/
def form32 (t : Ty) (k : FormCtx → VReg → VReg → Option VReg) : FormRow := fun x as bs =>
  match t, as, bs with
  | .b32, [a], [b] | .i32, [a], [b] | .n32, [a], [b] => (k x a b).map (fun r => (r, .uni 0#32))
  | _, _, _ => none

/-- Add and subtract, 32 and 64 bits. -/
def formAS (sub : Bool) (t : Ty) : FormRow := fun x as bs =>
  match as, bs with
  | [al, ah], [bl, bh] => formAdd64 sub x al ah bl bh
  | _, _ => form32 t (fun _ a b => if sub then formSub a b else formAdd a b) x as bs

/-- A lane operation without flags. -/
def noFlags (f : Nat → Nat → Nat) : Nat → Nat → Nat × Nat := fun x y => (f x y, 0)

/-- A V3 instruction of two sources; `dw` and `bw` say whether D and B have the type's width. -/
def v3Bin (i : Instr) (o : V3Op) (dw bw : Bool) (form : FormRow) (f : Nat → Nat → Nat × Nat) (s : State) : Out :=
  vec i s fun h =>
    let w := o.ty.wide
    { gd := o.g
      d := o.d
      wide := w && dw
      srcs := h.srcForms false w o.a ++ h.srcForms o.bk (w && bw) o.b
      form := fun x => form x (h.srcForms false w o.a) (h.srcForms o.bk (w && bw) o.b)
      f := fun L => f (h.vWide w o.a L) (h.srcLane o.bk (w && bw) o.b L) }

/-- A V3 instruction of one source. -/
def v3Un (i : Instr) (o : V3Op) (dw : Bool) (form : FormRow) (f : Nat → Nat × Nat) (s : State) : Out :=
  vec i s fun h =>
    let w := o.ty.wide
    { gd := o.g
      d := o.d
      wide := w && dw
      srcs := h.srcForms false w o.a
      form := fun x => form x (h.srcForms false w o.a) []
      f := fun L => f (h.vWide w o.a L) }

/-- A V3 instruction of three sources of the type's width. -/
def v3Tri (i : Instr) (o : V3Op) (cw : Bool) (form : Holder → FormCtx → Option (VReg × VReg))
    (f : Nat → Nat → Nat → Nat × Nat) (s : State) : Out :=
  vec i s fun h =>
    let w := o.ty.wide
    { gd := o.g
      d := o.d
      wide := w
      srcs := h.srcForms false w o.a ++ h.srcForms o.bk w o.b ++ h.srcForms o.ck (w && cw) o.c
      form := form h
      f := fun L => f (h.vWide w o.a L) (h.srcLane o.bk w o.b L) (h.srcLane o.ck (w && cw) o.c L) }

/-- A row of one source for the 32-bit types. -/
def formUn32 (t : Ty) (k : FormCtx → VReg → Option VReg) : FormRow := fun x as _ =>
  match t, as with
  | .b32, [a] | .i32, [a] | .n32, [a] => (k x a).map (fun r => (r, .uni 0#32))
  | _, _ => none

/-- The widened immediate (R278). -/
def VImm.value (m : VImm) (t : Ty) : Nat :=
  match m with
  | .short n =>
    match t with
    | .i32 => wrapI (sextI n 16) 32
    | .i64 => wrapI (sextI n 16) 64
    | .f32 => n * 2 ^ 16
    | .f64 => (fpConvert .f32 .f64 .rn false (n * 2 ^ 16)).1
    | .f16x2 | .bf16x2 | .i16x2 => n + n * 2 ^ 16
    | .i8x4 => n % 256 * 0x01010101
    | _ => n
  | .tail n =>
    match t with
    | .i64 => wrapI (sextI n 32) 64
    | .f64 => (fpConvert .f32 .f64 .rn false n).1
    | _ => n

/-- A VI instruction: the V3 twin with y the immediate (R341). -/
def viBin (i : Instr) (o : VIOp) (form : FormRow) (f : Nat → Nat → Nat × Nat) (s : State) : Out :=
  vec i s fun h =>
    let w := o.ty.wide
    let y := VImm.value o.imm o.ty
    let ys := if w then [(uniPair y).1, (uniPair y).2] else [(uniPair y).1]
    { gd := o.g
      d := o.d
      wide := w
      srcs := h.srcForms false w o.a
      form := fun x => form x (h.srcForms false w o.a) ys
      f := fun L => f (h.vWide w o.a L) y }

/-! ## Arithmetic (R335, R336) -/

/-- `vadd`. -/
def execVadd (o : V3Op) (s : State) : Out :=
  v3Bin (.vadd o) o true true (formAS false o.ty) (noFlags (perElem o.ty iAdd)) s
/-- `vsub`. -/
def execVsub (o : V3Op) (s : State) : Out :=
  v3Bin (.vsub o) o true true (formAS true o.ty) (noFlags (perElem o.ty iSub)) s
/-- `vsadd`. -/
def execVsadd (o : V3Op) (s : State) : Out :=
  v3Bin (.vsadd o) o true true (form32 o.ty (formSat false o.ty.signed)) (noFlags (perElem o.ty (iSadd o.ty.signed))) s
/-- `vssub`. -/
def execVssub (o : V3Op) (s : State) : Out :=
  v3Bin (.vssub o) o true true (form32 o.ty (formSat true o.ty.signed)) (noFlags (perElem o.ty (iSsub o.ty.signed))) s
/-- `vabsd`. -/
def execVabsd (o : V3Op) (s : State) : Out :=
  v3Bin (.vabsd o) o true true (form32 o.ty (formAbsd o.ty.signed)) (noFlags (perElem o.ty (iAbsd o.ty.signed))) s
/-- `vmin`. -/
def execVmin (o : V3Op) (s : State) : Out :=
  v3Bin (.vmin o) o true true (form32 o.ty (formMinMax false o.ty.signed)) (noFlags (perElem o.ty (iMin o.ty.signed))) s
/-- `vmax`. -/
def execVmax (o : V3Op) (s : State) : Out :=
  v3Bin (.vmax o) o true true (form32 o.ty (formMinMax true o.ty.signed)) (noFlags (perElem o.ty (iMax o.ty.signed))) s
/-- `vabs`. -/
def execVabs (o : V3Op) (s : State) : Out :=
  v3Un (.vabs o) o true (formUn32 o.ty formAbs) (fun x => (perElem o.ty (fun w a _ => iAbs w a) x 0, 0)) s
/-- `vneg`. -/
def execVneg (o : V3Op) (s : State) : Out :=
  v3Un (.vneg o) o true (formUn32 o.ty (fun _ a => formNeg a)) (fun x => (perElem o.ty (fun w a _ => iSub w 0 a) x 0, 0)) s
/-- `vmul`. -/
def execVmul (o : V3Op) (s : State) : Out :=
  v3Bin (.vmul o) o true true (form32 o.ty (fun _ a b => formMul a b)) (noFlags (perElem o.ty iMul)) s
/-- `vmulh`. -/
def execVmulh (o : V3Op) (s : State) : Out :=
  v3Bin (.vmulh o) o true true noForm (noFlags (perElem o.ty (iMulh o.ty.signed))) s
/-- `vmad`. -/
def execVmad (o : V3Op) (s : State) : Out :=
  v3Tri (.vmad o) o true
    (fun h _ =>
      if o.ty.wide then none
      else ((formMul (h.readV o.a) (h.srcForm o.bk o.b)).bind (fun m => formAdd m (h.srcForm o.ck o.c))).map
        (fun r => (r, .uni 0#32)))
    (fun x y z => (iMad (if o.ty.wide then 64 else 32) x y z, 0)) s

/-! ## Logic and shifts (R337, R338) -/

/-- `vand`. -/
def execVand (o : V3Op) (s : State) : Out :=
  v3Bin (.vand o) o true true (form32 o.ty (fun _ a b => formAnd a b)) (noFlags (· &&& ·)) s
/-- `vor`. -/
def execVor (o : V3Op) (s : State) : Out :=
  v3Bin (.vor o) o true true (form32 o.ty (fun _ a b => formOrXor (· ||| ·) a b)) (noFlags (· ||| ·)) s
/-- `vxor`. -/
def execVxor (o : V3Op) (s : State) : Out :=
  v3Bin (.vxor o) o true true (form32 o.ty (fun _ a b => formOrXor (· ^^^ ·) a b)) (noFlags (· ^^^ ·)) s
/-- `vandn`. -/
def execVandn (o : V3Op) (s : State) : Out :=
  v3Bin (.vandn o) o true true (form32 o.ty (fun _ a b => formAndn a b)) (noFlags (perElem o.ty iAndn)) s
/-- `vlop3`: D is read too. -/
def execVlop3 (o : V3Op) (s : State) : Out :=
  vec (.vlop3 o) s fun h =>
    let w := o.ty.wide
    { gd := o.g
      d := o.d
      wide := w
      srcs := h.srcForms false w o.a ++ h.srcForms o.bk w o.b ++ h.srcForms o.ck false o.c ++ h.srcForms false w o.d
      form := fun _ => none
      f := fun L => (iLop3 (if w then 64 else 32) (h.vWide w o.a L) (h.srcLane o.bk w o.b L) (h.vWide w o.d L)
        (h.srcLane o.ck false o.c L), 0) }
/-- `vshl`. -/
def execVshl (o : V3Op) (s : State) : Out :=
  v3Bin (.vshl o) o true false (form32 o.ty (fun _ a b => formShl a b)) (noFlags (perElem o.ty iShl)) s
/-- `vshr`. -/
def execVshr (o : V3Op) (s : State) : Out :=
  v3Bin (.vshr o) o true false (form32 o.ty (formShr false)) (noFlags (perElem o.ty iShr)) s
/-- `vsar`. -/
def execVsar (o : V3Op) (s : State) : Out :=
  v3Bin (.vsar o) o true false (form32 o.ty (formShr true)) (noFlags (perElem o.ty iSar)) s
/-- `vrot`. -/
def execVrot (o : V3Op) (s : State) : Out :=
  v3Bin (.vrot o) o true false (form32 o.ty (fun _ a b => formRot a b)) (noFlags (perElem o.ty iRot)) s
/-- `vclz`. -/
def execVclz (o : V3Op) (s : State) : Out :=
  v3Un (.vclz o) o false noForm (fun x => (perElem o.ty (fun w a _ => clzN w a) x 0, 0)) s
/-- `vctz`. -/
def execVctz (o : V3Op) (s : State) : Out :=
  v3Un (.vctz o) o false noForm (fun x => (perElem o.ty (fun w a _ => ctzN w a) x 0, 0)) s
/-- `vpop`. -/
def execVpop (o : V3Op) (s : State) : Out :=
  v3Un (.vpop o) o false noForm (fun x => (perElem o.ty (fun w a _ => popN w a) x 0, 0)) s
/-- `vbrev`. -/
def execVbrev (o : V3Op) (s : State) : Out :=
  v3Un (.vbrev o) o true noForm (fun x => (perElem o.ty (fun w a _ => brevN w a) x 0, 0)) s
/-- `vbfx`. -/
def execVbfx (o : V3Op) (s : State) : Out :=
  v3Bin (.vbfx o) o true false noForm (noFlags (perElem o.ty (iBfx o.ty.signed))) s
/-- `vbfi`. -/
def execVbfi (o : V3Op) (s : State) : Out :=
  v3Tri (.vbfi o) o false (fun _ _ => none) (fun x y z => (iBfi (if o.ty.wide then 64 else 32) x y z, 0)) s
/-- `vpdep`. -/
def execVpdep (o : V3Op) (s : State) : Out :=
  v3Bin (.vpdep o) o true true noForm (noFlags (perElem o.ty iPdep)) s
/-- `vpext`. -/
def execVpext (o : V3Op) (s : State) : Out :=
  v3Bin (.vpext o) o true true noForm (noFlags (perElem o.ty iPext)) s
/-- `vbperm` (R339): 16 control registers. -/
def execVbperm (o : V3Op) (s : State) : Out :=
  vec (.vbperm o) s fun h =>
    { gd := o.g
      d := o.d
      wide := true
      srcs := h.srcForms false true o.a ++ (List.range 16).map (fun n => h.srcForm o.bk (o.b + n))
      form := fun _ => none
      f := fun L => (iBperm (h.vWide true o.a L) (fun n => h.srcLane o.bk false (o.b + n) L), 0) }
/-- `vgfmat` (R340). -/
def execVgfmat (o : V3Op) (s : State) : Out := v3Bin (.vgfmat o) o true true noForm (noFlags iGfmat) s

/-! ## Immediate forms (R341) -/

/-- `vadd` with an immediate. -/
def execVaddImm (o : VIOp) (s : State) : Out :=
  viBin (.vaddImm o) o (formAS false o.ty) (noFlags (perElem o.ty iAdd)) s
/-- `vsub` with an immediate. -/
def execVsubImm (o : VIOp) (s : State) : Out :=
  viBin (.vsubImm o) o (formAS true o.ty) (noFlags (perElem o.ty iSub)) s
/-- `vsadd` with an immediate. -/
def execVsaddImm (o : VIOp) (s : State) : Out :=
  viBin (.vsaddImm o) o (form32 o.ty (formSat false o.ty.signed)) (noFlags (perElem o.ty (iSadd o.ty.signed))) s
/-- `vssub` with an immediate. -/
def execVssubImm (o : VIOp) (s : State) : Out :=
  viBin (.vssubImm o) o (form32 o.ty (formSat true o.ty.signed)) (noFlags (perElem o.ty (iSsub o.ty.signed))) s
/-- `vabsd` with an immediate. -/
def execVabsdImm (o : VIOp) (s : State) : Out :=
  viBin (.vabsdImm o) o (form32 o.ty (formAbsd o.ty.signed)) (noFlags (perElem o.ty (iAbsd o.ty.signed))) s
/-- `vmin` with an immediate. -/
def execVminImm (o : VIOp) (s : State) : Out :=
  viBin (.vminImm o) o (form32 o.ty (formMinMax false o.ty.signed)) (noFlags (perElem o.ty (iMin o.ty.signed))) s
/-- `vmax` with an immediate. -/
def execVmaxImm (o : VIOp) (s : State) : Out :=
  viBin (.vmaxImm o) o (form32 o.ty (formMinMax true o.ty.signed)) (noFlags (perElem o.ty (iMax o.ty.signed))) s
/-- `vmul` with an immediate. -/
def execVmulImm (o : VIOp) (s : State) : Out :=
  viBin (.vmulImm o) o (form32 o.ty (fun _ a b => formMul a b)) (noFlags (perElem o.ty iMul)) s
/-- `vand` with an immediate. -/
def execVandImm (o : VIOp) (s : State) : Out :=
  viBin (.vandImm o) o (form32 o.ty (fun _ a b => formAnd a b)) (noFlags (· &&& ·)) s
/-- `vor` with an immediate. -/
def execVorImm (o : VIOp) (s : State) : Out :=
  viBin (.vorImm o) o (form32 o.ty (fun _ a b => formOrXor (· ||| ·) a b)) (noFlags (· ||| ·)) s
/-- `vxor` with an immediate. -/
def execVxorImm (o : VIOp) (s : State) : Out :=
  viBin (.vxorImm o) o (form32 o.ty (fun _ a b => formOrXor (· ^^^ ·) a b)) (noFlags (· ^^^ ·)) s
/-- `vandn` with an immediate. -/
def execVandnImm (o : VIOp) (s : State) : Out :=
  viBin (.vandnImm o) o (form32 o.ty (fun _ a b => formAndn a b)) (noFlags (perElem o.ty iAndn)) s
/-- `vshl` with an immediate. -/
def execVshlImm (o : VIOp) (s : State) : Out :=
  viBin (.vshlImm o) o (form32 o.ty (fun _ a b => formShl a b)) (noFlags (perElem o.ty iShl)) s
/-- `vshr` with an immediate. -/
def execVshrImm (o : VIOp) (s : State) : Out :=
  viBin (.vshrImm o) o (form32 o.ty (formShr false)) (noFlags (perElem o.ty iShr)) s
/-- `vsar` with an immediate. -/
def execVsarImm (o : VIOp) (s : State) : Out :=
  viBin (.vsarImm o) o (form32 o.ty (formShr true)) (noFlags (perElem o.ty iSar)) s
/-- `vrot` with an immediate. -/
def execVrotImm (o : VIOp) (s : State) : Out :=
  viBin (.vrotImm o) o (form32 o.ty (fun _ a b => formRot a b)) (noFlags (perElem o.ty iRot)) s

end Sys2Proof.Machine
end

