-- ==== Sys2Proof/Machine/VecFloat.lean ====
section
/-! DEFINITION. Vector floating-point instructions and their immediate forms (spec 13 R341-R345, 10 R252-R261). -/

namespace Sys2Proof.Machine

/-- Format of a floating-point type's elements. -/
def fmtOf : Ty → Option Fmt
  | .f32 => some .f32
  | .f64 => some .f64
  | .f16x2 | .f16 => some .f16
  | .bf16x2 | .bf16 => some .bf16
  | .e4m3 => some .e4m3
  | .e5m2 => some .e5m2
  | _ => none

/-- Apply an operation of three sources to each element; the flags of all elements are ORed (R250). -/
def fpElem (t : Ty) (f : Fmt → Nat → Nat → Nat → Nat × Nat) (x y z : Nat) : Nat × Nat :=
  match t with
  | .f16x2 | .bf16x2 =>
    let m := (fmtOf t).getD .f16
    let a := f m (x % 2 ^ 16) (y % 2 ^ 16) (z % 2 ^ 16)
    let b := f m (field x 16 16) (field y 16 16) (field z 16 16)
    (a.1 % 2 ^ 16 + b.1 % 2 ^ 16 * 2 ^ 16, a.2 ||| b.2)
  | _ => f ((fmtOf t).getD .f32) x y z

/-- Two sources. -/
def fpElem2 (t : Ty) (f : Fmt → Nat → Nat → Nat × Nat) (x y : Nat) : Nat × Nat :=
  fpElem t (fun m a b _ => f m a b) x y 0

/-- One source. -/
def fpElem1 (t : Ty) (f : Fmt → Nat → Nat × Nat) (x : Nat) : Nat × Nat := fpElem t (fun m a _ _ => f m a) x 0 0

/-- Two-source floating-point instruction. -/
def vf2 (i : Instr) (o : V3Op) (f : Fmt → Nat → Nat → Nat × Nat) (s : State) : Out :=
  v3Bin i o true true noForm (fpElem2 o.ty f) s

/-- One-source floating-point instruction. -/
def vf1 (i : Instr) (o : V3Op) (f : Fmt → Nat → Nat × Nat) (s : State) : Out :=
  v3Un i o true noForm (fpElem1 o.ty f) s

/-- `vfadd`. -/
def execVfadd (o : V3Op) (s : State) : Out := vf2 (.vfadd o) o (fun m x y => fpAdd m o.mode x y) s
/-- `vfmul`. -/
def execVfmul (o : V3Op) (s : State) : Out := vf2 (.vfmul o) o (fun m x y => fpMul m o.mode x y) s
/-- `vfma`. -/
def execVfma (o : V3Op) (s : State) : Out :=
  v3Tri (.vfma o) o true (fun _ _ => none) (fpElem o.ty (fun m x y z => fpFma m o.mode x y z)) s
/-- `vfmin`. -/
def execVfmin (o : V3Op) (s : State) : Out := vf2 (.vfmin o) o fpMin s
/-- `vfmax`. -/
def execVfmax (o : V3Op) (s : State) : Out := vf2 (.vfmax o) o fpMax s
/-- `vfclass` (R345): no flag. -/
def execVfclass (o : V3Op) (s : State) : Out :=
  v3Un (.vfclass o) o false noForm (fpElem1 o.ty (fun m x => (fpClass m x, 0))) s
/-- `vfrnd` (R344). -/
def execVfrnd (o : V3Op) (s : State) : Out := vf1 (.vfrnd o) o (fun m x => fpRnd m o.mode x) s
/-- `vfscale`: the exponent is 32 bits, or 16 for each packed element. -/
def execVfscale (o : V3Op) (s : State) : Out :=
  v3Bin (.vfscale o) o true false noForm
    (fpElem2 o.ty (fun m x y => fpScale m o.mode x (sextI y (if m.bits = 16 then 16 else 32)))) s
/-- `vfrcp`. -/
def execVfrcp (o : V3Op) (s : State) : Out := vf1 (.vfrcp o) o (fun m x => fpRcp m o.mode x) s
/-- `vfrsq`. -/
def execVfrsq (o : V3Op) (s : State) : Out := vf1 (.vfrsq o) o (fun m x => fpRsq m o.mode x) s
/-- `vfsqrt`. -/
def execVfsqrt (o : V3Op) (s : State) : Out := vf1 (.vfsqrt o) o (fun m x => fpSqrt m o.mode x) s
/-- `vfdiv`. -/
def execVfdiv (o : V3Op) (s : State) : Out := vf2 (.vfdiv o) o (fun m x y => fpDiv m o.mode x y) s
/-- `vfexp2`. -/
def execVfexp2 (o : V3Op) (s : State) : Out := vf1 (.vfexp2 o) o (fun m x => fpExp2 m o.mode x) s
/-- `vflog2`. -/
def execVflog2 (o : V3Op) (s : State) : Out := vf1 (.vflog2 o) o (fun m x => fpLog2 m o.mode x) s
/-- `vfsinp`. -/
def execVfsinp (o : V3Op) (s : State) : Out := vf1 (.vfsinp o) o (fun m x => fpSinp m o.mode x) s
/-- `vfcosp`. -/
def execVfcosp (o : V3Op) (s : State) : Out := vf1 (.vfcosp o) o (fun m x => fpCosp m o.mode x) s

/-- `vfadd` with an immediate. -/
def execVfaddImm (o : VIOp) (s : State) : Out :=
  viBin (.vfaddImm o) o noForm (fpElem2 o.ty (fun m x y => fpAdd m o.mode x y)) s
/-- `vfmul` with an immediate. -/
def execVfmulImm (o : VIOp) (s : State) : Out :=
  viBin (.vfmulImm o) o noForm (fpElem2 o.ty (fun m x y => fpMul m o.mode x y)) s
/-- `vfmin` with an immediate. -/
def execVfminImm (o : VIOp) (s : State) : Out := viBin (.vfminImm o) o noForm (fpElem2 o.ty fpMin) s
/-- `vfmax` with an immediate. -/
def execVfmaxImm (o : VIOp) (s : State) : Out := viBin (.vfmaxImm o) o noForm (fpElem2 o.ty fpMax) s

end Sys2Proof.Machine
end

