-- ==== Sys2Proof/Machine/VecPred.lean ====
section
/-! DEFINITION. Compares, predicates, conversions and moves (spec 13 R346-R352). -/

namespace Sys2Proof.Machine

/-! ## Compares (R346, R347, R186) -/

/-- Destinations of a compare and their lane values: D takes r, C takes not r, and D alone when both are one. -/
def cmpDests {α : Type} (o : CmpOp) (r nr : α) : List (Nat × α) :=
  if o.c = o.d then [(o.d, r)] else [(o.d, r), (o.c, nr)]

/-- A compare: `form` is the true set in a range context with an affine operand, `f` the relation and flags. -/
def vcmp (i : Instr) (o : CmpOp) (form : Holder → FormCtx → Option TruthSet) (f : Nat → Nat → Bool × Nat) (s : State) :
    Out :=
  issue i s fun g q h =>
    let w := o.ty.wide
    let at_ := fun L => f (h.vWide w o.a L) (h.vWide w o.b L)
    match h.kind with
    | .range =>
      let uni := (h.srcForms false w o.a ++ h.srcForms false w o.b).all (·.isUni)
      let r := if uni then some (if (at_ 0).1 then TruthSet.all else .none) else form h (s.formCtx h)
      .next (predRange i s g q h o.g (r.map (fun ts => cmpDests o ts ts.compl)) (if uni then (at_ 0).2 else 0))
    | _ =>
      .next (s.retire g q i (predGroup h (h.activeLanes o.g)
        (cmpDests o (fun L => (at_ L).1) (fun L => !(at_ L).1)) (fun L => (at_ L).2)))

/-- `vicmp`. -/
def execVicmp (o : CmpOp) (s : State) : Out :=
  vcmp (.vicmp o) o
    (fun h x => if o.ty.wide then none else formCmp o.cond o.ty.signed x (h.readV o.a) (h.readV o.b))
    (fun x y => (intCond o.cond o.ty.signed (if o.ty.wide then 64 else 32) x y, 0)) s

/-- `vfcmp`. -/
def execVfcmp (o : CmpOp) (s : State) : Out :=
  vcmp (.vfcmp o) o (fun _ _ => none)
    (fun x y =>
      let m := (fmtOf o.ty).getD .f32
      fpCmp m o.cond (x % 2 ^ m.bits) (y % 2 ^ m.bits)) s

/-! ## Predicate logic (R348, R185) -/

/-- A predicate instruction: `form` on true sets, `f` on bits. -/
def vpred (i : Instr) (o : PredOp) (form : Holder → Option TruthSet) (f : Holder → Nat → Bool) (s : State) : Out :=
  issue i s fun g q h =>
    match h.kind with
    | .range => .next (predRange i s g q h o.g ((form h).map (fun ts => [(o.d, ts)])) 0)
    | _ => .next (s.retire g q i (predGroup h (h.activeLanes o.g) [(o.d, f h)] (fun _ => 0)))

/-- True set of a predicate of a range context. -/
def Holder.truthOf (h : Holder) (p : Nat) : TruthSet := (h.readP p).truth false h.lo h.hi

/-- AND of true sets (R185). -/
def andTruth (a b : TruthSet) : Option TruthSet :=
  match a, b with
  | .all, x => some x
  | x, .all => some x
  | .none, _ => some .none
  | _, .none => some .none
  | .upTo c, .upTo d => some (.upTo (min c d))
  | _, _ => none

/-- OR of true sets. -/
def orTruth (a b : TruthSet) : Option TruthSet :=
  match a, b with
  | .all, _ => some .all
  | _, .all => some .all
  | .none, x => some x
  | x, .none => some x
  | .upTo c, .upTo d => some (.upTo (max c d))
  | _, _ => none

/-- XOR of true sets: XOR with true is as `vpnot`. -/
def xorTruth (a b : TruthSet) : Option TruthSet :=
  match a, b with
  | .none, x => some x
  | x, .none => some x
  | .all, x => some x.compl
  | x, .all => some x.compl
  | .upTo c, .upTo d => if c = d then some .none else none
  | _, _ => none

/-- `vpand`. -/
def execVpand (o : PredOp) (s : State) : Out :=
  vpred (.vpand o) o (fun h => andTruth (h.truthOf o.a) (h.truthOf o.b))
    (fun h L => lane (h.predSet o.a false) L && lane (h.predSet o.b false) L) s
/-- `vpor`. -/
def execVpor (o : PredOp) (s : State) : Out :=
  vpred (.vpor o) o (fun h => orTruth (h.truthOf o.a) (h.truthOf o.b))
    (fun h L => lane (h.predSet o.a false) L || lane (h.predSet o.b false) L) s
/-- `vpxor`. -/
def execVpxor (o : PredOp) (s : State) : Out :=
  vpred (.vpxor o) o (fun h => xorTruth (h.truthOf o.a) (h.truthOf o.b))
    (fun h L => lane (h.predSet o.a false) L != lane (h.predSet o.b false) L) s
/-- `vpnot`: a threshold cuts the context (R187). -/
def execVpnot (o : PredOp) (s : State) : Out :=
  vpred (.vpnot o) o (fun h => some (h.truthOf o.a).compl) (fun h L => !lane (h.predSet o.a false) L) s
/-- `vpmov`: its form is in no row of R185 but that of uniform operands; a threshold source is its own copy
(LOG 27). -/
def execVpmov (o : PredOp) (s : State) : Out :=
  vpred (.vpmov o) o (fun h => match h.truthOf o.a with
    | .all => some .all
    | .none => some .none
    | _ => none) (fun h L => lane (h.predSet o.a false) L) s
/-- `vsetp`. -/
def execVsetp (o : PredOp) (s : State) : Out :=
  vpred (.vsetp o) o
    (fun h => match h.readV o.a with
      | .uni c => some (if c = 0#32 then .none else .all)
      | _ => none)
    (fun h L => h.vLane o.a L != 0) s

/-! ## Conversions (R349-R351) -/

/-- Bits and signedness of an integer type of `vcvt`; none for a float. -/
def intTy : Ty → Option (Nat × Bool)
  | .i8 => some (8, true)
  | .n8 => some (8, false)
  | .i16 => some (16, true)
  | .n16 => some (16, false)
  | .i32 => some (32, true)
  | .n32 => some (32, false)
  | .i64 => some (64, true)
  | .n64 => some (64, false)
  | _ => none

/-- A narrow result in its register: sign-extended for the signed types. -/
def placeNarrow (t : Ty) (v : Nat) : Nat :=
  match intTy t with
  | some (b, true) => if b < 32 then wrapI (sextI v b) 32 else v
  | some (b, false) => v % 2 ^ b
  | none => v

/-- One conversion (R254, R255): value in the destination's register and flags. -/
def cvtValue (o : CvtOp) (x : Nat) : Nat × Nat :=
  match intTy o.src, intTy o.dst with
  | some (a, sg), some (b, _) => (placeNarrow o.dst (wrapI (intOf sg a x) b), 0)
  | some (a, sg), none => fpOfInt ((fmtOf o.dst).getD .f32) o.mode o.nanov (intOf sg a x)
  | none, some (b, sg) =>
    let m := (fmtOf o.src).getD .f32
    let r := fpToInt m o.mode sg b (x % 2 ^ m.bits)
    (placeNarrow o.dst r.1, r.2)
  | none, none =>
    let m := (fmtOf o.src).getD .f32
    fpConvert m ((fmtOf o.dst).getD .f32) o.mode o.nanov (x % 2 ^ m.bits)

/-- `vcvt`. -/
def execVcvt (o : CvtOp) (s : State) : Out :=
  vec (.vcvt o) s fun h =>
    { gd := o.g
      d := o.d
      wide := o.dst.wide
      srcs := h.srcForms false o.src.wide o.a
      form := fun _ => none
      f := fun L => cvtValue o (h.vWide o.src.wide o.a L) }

/-- Narrow one element for `vpack`: float narrowing rounds, integer narrowing saturates without a flag. -/
def packElem (o : CvtOp) (x : Nat) : Nat × Nat :=
  match o.dst with
  | .i16x2 => (iSat true 16 (sextI x 32), 0)
  | .i8x4 => (iSat true 8 (sextI x 16), 0)
  | _ => fpConvert ((fmtOf o.src).getD .f32) ((fmtOf o.dst).getD .f16) o.mode false x

/-- `vpack` on two sources. -/
def packValue (o : CvtOp) (x y : Nat) : Nat × Nat :=
  let put := fun (w : Nat) (es : List Nat) =>
    (es.map (packElem o)).foldr (fun r acc => (r.1 % 2 ^ w + acc.1 * 2 ^ w, r.2 ||| acc.2)) (0, 0)
  match o.dst with
  | .f16x2 | .bf16x2 | .i16x2 => put 16 [x, y]
  | _ => put 8 [x % 2 ^ 16, field x 16 16, y % 2 ^ 16, field y 16 16]

/-- `vpack`. -/
def execVpack (o : CvtOp) (s : State) : Out :=
  vec (.vpack o) s fun h =>
    { gd := o.g
      d := o.d
      wide := false
      srcs := [h.readV o.a, h.srcForm o.bk o.b]
      form := fun _ => none
      f := fun L => packValue o (h.vLane o.a L) (h.srcLane o.bk false o.b L) }

/-- Widen one element for `vunpack` exactly. -/
def widenElem (o : CvtOp) (x : Nat) : Nat × Nat :=
  match o.dst, o.src with
  | .i32, .i16x2 => (wrapI (sextI x 16) 32, 0)
  | .i32, _ => (wrapI (sextI x 8) 32, 0)
  | .i16x2, _ => (wrapI (sextI x 8) 16, 0)
  | _, _ => fpConvert ((fmtOf o.src).getD .f16) ((fmtOf o.dst).getD .f32) .rn false x

/-- `vunpack` of the element or pair that the selector picks. -/
def unpackValue (o : CvtOp) (x y : Nat) : Nat × Nat :=
  let eb := match o.src with
    | .f16x2 | .bf16x2 | .i16x2 => 16
    | _ => 8
  match o.dst with
  | .f16x2 | .i16x2 =>
    let p := y % 2
    let a := widenElem o (field x (16 * p) 8)
    let b := widenElem o (field x (16 * p + 8) 8)
    (a.1 % 2 ^ 16 + b.1 % 2 ^ 16 * 2 ^ 16, a.2 ||| b.2)
  | _ => widenElem o (field x (eb * (y % (32 / eb))) eb)

/-- `vunpack`. -/
def execVunpack (o : CvtOp) (s : State) : Out :=
  vec (.vunpack o) s fun h =>
    { gd := o.g
      d := o.d
      wide := false
      srcs := [h.readV o.a, h.srcForm o.bk o.b]
      form := fun _ => none
      f := fun L => unpackValue o (h.vLane o.a L) (h.srcLane o.bk false o.b L) }

/-! ## Moves (R352) -/

/-- `vmov`: the form is copied. -/
def execVmov (o : V3Op) (s : State) : Out :=
  v3Un (.vmov o) o true (fun _ as _ => match as with
    | [.dense _] => none
    | [a] => some (a, .uni 0#32)
    | [.dense _, _] => none
    | [_, .dense _] => none
    | [a, b] => some (a, b)
    | _ => none) (fun x => (x, 0)) s

/-- `vmov` with an immediate (R341). -/
def execVmovImm (o : VIOp) (s : State) : Out :=
  vec (.vmovImm o) s fun _ =>
    { gd := o.g
      d := o.d
      wide := o.ty.wide
      srcs := []
      form := fun _ => none
      f := fun _ => (VImm.value o.imm o.ty, 0) }

/-- Two forms that are the same function over a holder's members. -/
def sameForms (x : FormCtx) (as bs : List VReg) : Bool :=
  (as.zip bs).all (fun p => match p with
    | (.dense _, _) => false
    | (_, .dense _) => false
    | (a, b) => sameOver x.t x.lo x.hi a b)

/-- A list of one or two forms as a result. -/
def formList : List VReg → Option (VReg × VReg)
  | [.dense _] => none
  | [a] => some (a, .uni 0#32)
  | [.dense _, _] => none
  | [_, .dense _] => none
  | [a, b] => some (a, b)
  | _ => none

/-- `vsel`: in a range context the predicate is an operand with a form of its own, so that uniform registers alone do
not make the result uniform (R185). -/
def execVsel (o : V3Op) (s : State) : Out :=
  issue (.vsel o) s fun g q h =>
    let w := o.ty.wide
    let as := h.srcForms false w o.a
    let bs := h.srcForms o.bk w o.b
    let pick := fun (h : Holder) (x : FormCtx) => match h.kind with
      | .range =>
        match h.truthOf o.c with
        | .all => formList as
        | .none => formList bs
        | _ => if sameForms x as bs then formList as else none
      | _ =>
        let p := h.predSet o.c false
        if p &&& h.live = h.live then formList as
        else if p &&& h.live = 0#96 then formList bs
        else if sameForms x as bs then formList as else none
    let v : VecSpec :=
      { gd := o.g
        d := o.d
        wide := w
        srcs := [.aff 0#32 0#32 1#32]
        form := pick h
        f := fun L => (if lane (h.predSet o.c false) L then h.vWide w o.a L else h.srcLane o.bk w o.b L, 0) }
    match h.kind with
    | .range => .next (v.range (.vsel o) s g q h)
    | _ => .next (s.retire g q (.vsel o) (v.group (s.formCtx h) h))

/-- `vbcast`. -/
def execVbcast (o : V3Op) (s : State) : Out :=
  vec (.vbcast o) s fun h =>
    { gd := o.g
      d := o.d
      wide := o.ty.wide
      srcs := []
      form := fun _ => none
      f := fun _ => (h.readW o.ty.wide o.a, 0) }

/-- Value of `vidx` in a lane. -/
def Holder.idxLane (h : Holder) (k L : Nat) : Nat :=
  match k with
  | 0 => h.item L
  | 1 => h.team
  | _ => L

/-- Form of `vidx` (R185, R202, R352): the high half of a team index is uniform when its bits 47:32 are the same for
every member. -/
def idxForm (kind : HKind) (k : Nat) (wide : Bool) (x : FormCtx) : Option (VReg × VReg) :=
  match k with
  | 0 => if kind = .bin then none else some (.aff 0#32 0#32 1#32, .uni 0#32)
  | 1 =>
    let a := x.lo / x.t
    let b := (x.hi - 1) / x.t
    if wide ∧ a / 2 ^ 32 ≠ b / 2 ^ 32 then none else some (.aff 0#32 1#32 0#32, .uni (BitVec.ofNat 32 (a / 2 ^ 32)))
  | _ =>
    let gr := x.lo % x.t / 96
    if kind ≠ .bin ∧ x.lo / x.t = (x.hi - 1) / x.t ∧ gr = (x.hi - 1) % x.t / 96 then
      some (mkAff (BitVec.ofInt 32 (-(96 * gr : Int))) 0#32 1#32, .uni 0#32)
    else none

/-- `vidx`. -/
def execVidx (o : V3Op) (s : State) : Out :=
  vec (.vidx o) s fun h =>
    { gd := o.g
      d := o.d
      wide := o.ty.wide
      srcs := [.aff 0#32 0#32 1#32]
      form := fun x => idxForm h.kind o.a o.ty.wide x
      f := fun L => (h.idxLane o.a L, 0) }

end Sys2Proof.Machine
end

