-- ==== Sys2Proof/Machine/XLane.lean ====
section
/-! DEFINITION. Cross-lane instructions (spec 13 R353-R358, 07 R188, R203, 10 R262). -/

namespace Sys2Proof.Machine

/-- First lane and size of the block of group register n that holds a lane (R203, R241). -/
def Holder.block (h : Holder) (n L : Nat) : Nat × Nat :=
  match (if n = 0 then 0 else AMap.getD h.gcodes n 0) with
  | 0 => (0, 96)
  | c => let k := 2 ^ (c + 1); (L / k * k, k)

/-- Lanes of the block of lane L. -/
def Holder.blockLanes (h : Holder) (n L : Nat) : List Nat :=
  let b := h.block n L
  (List.range b.2).map (· + b.1)

/-- A cross-lane instruction: a range context unfolds first (R188); a group takes the effect. -/
def xlane (i : Instr) (gd : Guard) (always : Bool) (s : State) (f : Holder → Holder) : Out :=
  issue i s fun g q h =>
    match h.kind with
    | .range => .next (if h.rangeGuard gd = .none ∧ !always then s.retire g q i h else s.unfoldHere g q h)
    | _ => .next (s.retire g q i (f h))

/-- `vshfl` (R355). -/
def execVshfl (o : XLaneOp) (s : State) : Out :=
  xlane (.vshfl o) o.g false s fun h =>
    let w := o.ty.wide
    h.setWide w o.d (h.activeLanes o.g) (fun L =>
      let b := h.block o.grp L
      let src := b.1 + h.srcLane o.bk false o.b L % b.2
      if lane h.live src then h.vWide w o.a src else 0)

/-- Vote inputs of a predicate: active lanes with it true (R353). -/
def Holder.votes (h : Holder) (gd : Guard) (p : Nat) : Lanes := h.activeLanes gd &&& h.predSet p false

/-- `vbal` (R356): the scalars are written whatever the mask and guard. -/
def execVbal (o : XLaneOp) (s : State) : Out :=
  xlane (.vbal o) o.g true s fun h =>
    let v := h.votes o.g o.a
    (List.range 3).foldl (fun h b => h.writeS (o.d + b) (maskBeat v b)) h

/-- `vcnt` (R356). -/
def execVcnt (o : XLaneOp) (s : State) : Out :=
  xlane (.vcnt o) o.g true s fun h => h.writeS o.d (BitVec.ofNat 32 (laneCount (h.votes o.g o.a)))

/-- `vany` and `vall` in a range context: a uniform predicate gives a uniform result. -/
def voteAll (i : Instr) (o : XLaneOp) (f : Holder → Lanes → Nat → Bool) (s : State) : Out :=
  issue i s fun g q h =>
    match h.kind with
    | .range =>
      .next (predRange i s g q h o.g (match h.truthOf o.a with
        | .all => some [(o.d, .all)]
        | .none => some [(o.d, .none)]
        | _ => none) 0)
    | _ =>
      let act := h.activeLanes o.g
      .next (s.retire g q i (predGroup h act [(o.d, f h act)] (fun _ => 0)))

/-- `vany` (R356). -/
def execVany (o : XLaneOp) (s : State) : Out :=
  voteAll (.vany o) o (fun h _ L => (h.blockLanes o.grp L).any (lane (h.votes o.g o.a))) s

/-- `vall` (R356). -/
def execVall (o : XLaneOp) (s : State) : Out :=
  voteAll (.vall o) o (fun h act L =>
    (h.blockLanes o.grp L).all (fun k => !lane act k || lane (h.predSet o.a false) k)) s

/-- Whether two keys of `vmatch` match (R357). -/
def keysMatch (t : Ty) (x y : Nat) : Bool :=
  match t with
  | .f32 => (fpCmp .f32 .eq x y).1
  | _ => x == y

/-- `vmatch` (R357): the lowest active lane of the block with a matching key; a NaN's lane is its own leader. -/
def execVmatch (o : XLaneOp) (s : State) : Out :=
  xlane (.vmatch o) o.g false s fun h =>
    let w := o.ty.wide
    let act := h.activeLanes o.g
    h.setLanes o.d act (fun L =>
      ((h.blockLanes o.grp L).find? (fun k => lane act k && keysMatch o.ty (h.vWide w o.a k) (h.vWide w o.a L))).getD L)

/-- One step of a reduction with its flags (R262). -/
def redStep (op : RedOp) (t : Ty) (md : RMode) (x y : Nat) : Nat × Nat :=
  let w := if t.wide then 64 else 32
  if t.isFloat then
    let m := (fmtOf t).getD .f32
    match op with
    | .min => fpMin m x y
    | .max => fpMax m x y
    | _ => fpAdd m md x y
  else
    (match op with
      | .add => iAdd w x y
      | .min => iMin t.signed w x y
      | .max => iMax t.signed w x y
      | .and => x &&& y
      | .or => x ||| y
      | .xor => x ^^^ y, 0)

/-- Identity of a reduction (R262). -/
def redIdent (op : RedOp) (t : Ty) : Nat :=
  let w := if t.wide then 64 else 32
  if t.isFloat then
    let m := (fmtOf t).getD .f32
    match op with
    | .min => m.infOrMax false
    | .max => m.infOrMax true
    | _ => m.zero true
  else
    match op with
    | .min => if t.signed then 2 ^ (w - 1) - 1 else 2 ^ w - 1
    | .max => if t.signed then 2 ^ (w - 1) else 0
    | .and => 2 ^ w - 1
    | _ => 0

/-- tree of R262 over 2^n elements from lo. -/
def redTree (f : Nat → Nat → Nat × Nat) (x : Nat → Nat × Nat) : Nat → Nat → Nat × Nat
  | 0, lo => x lo
  | n + 1, lo =>
    let a := redTree f x n lo
    let b := redTree f x n (lo + 2 ^ n)
    let r := f a.1 b.1
    (r.1, a.2 ||| b.2 ||| r.2)

/-- The reduction of a block (R262). -/
def redBlock (f : Nat → Nat → Nat × Nat) (x : Nat → Nat × Nat) (b : Nat × Nat) : Nat × Nat :=
  if b.2 = 96 then
    let p := redTree f x 5 0
    let q := redTree f x 5 32
    let r := redTree f x 5 64
    let u := f p.1 q.1
    let v := f u.1 r.1
    (v.1, p.2 ||| q.2 ||| r.2 ||| u.2 ||| v.2)
  else redTree f x (Nat.log2 b.2) b.1

/-- `vred` (R358). -/
def execVred (o : VRedOp) (s : State) : Out :=
  xlane (.vred o) o.g false s fun h =>
    let w := o.ty.wide
    let act := h.activeLanes o.g
    let x := fun L => (if lane act L then h.vWide w o.a L else redIdent o.op o.ty, 0)
    let r := fun L => redBlock (redStep o.op o.ty o.mode) x (h.block o.grp L)
    let starts := ((List.range 96).filter (fun L => (h.block o.grp L).1 == L && (h.blockLanes o.grp L).any (lane act)))
    (h.setWide w o.d act (fun L => (r L).1)).raiseFlags (orFlags (starts.map (fun L => (r L).2)))

end Sys2Proof.Machine
end

