-- ==== Sys2Proof/Machine/Dispatch.lean ====
section
/-! DEFINITION. What each instruction and each step of a unit does: one arm for each constructor of `Instr`. -/

namespace Sys2Proof.Machine

def exec (i : Instr) (s : State) : Host.Outcome State Fault Refusal :=
  match i with
  | .nop => Sys2Proof.Machine.execNop s
  | .sadd o => Sys2Proof.Machine.execSadd o s
  | .ssub o => Sys2Proof.Machine.execSsub o s
  | .smul o => Sys2Proof.Machine.execSmul o s
  | .smulh o => Sys2Proof.Machine.execSmulh o s
  | .smin o => Sys2Proof.Machine.execSmin o s
  | .smax o => Sys2Proof.Machine.execSmax o s
  | .sdiv o => Sys2Proof.Machine.execSdiv o s
  | .srem o => Sys2Proof.Machine.execSrem o s
  | .sand o => Sys2Proof.Machine.execSand o s
  | .sor o => Sys2Proof.Machine.execSor o s
  | .sxor o => Sys2Proof.Machine.execSxor o s
  | .sshl o => Sys2Proof.Machine.execSshl o s
  | .sshr o => Sys2Proof.Machine.execSshr o s
  | .ssar o => Sys2Proof.Machine.execSsar o s
  | .srot o => Sys2Proof.Machine.execSrot o s
  | .sclz o => Sys2Proof.Machine.execSclz o s
  | .spop o => Sys2Proof.Machine.execSpop o s
  | .sbrev o => Sys2Proof.Machine.execSbrev o s
  | .sbfx o => Sys2Proof.Machine.execSbfx o s
  | .sbfi o => Sys2Proof.Machine.execSbfi o s
  | .smov o => Sys2Proof.Machine.execSmov o s
  | .ssel o => Sys2Proof.Machine.execSsel o s
  | .scmp cond o => Sys2Proof.Machine.execScmp cond o s
  | .sli o => Sys2Proof.Machine.execSli o s
  | .slhi o => Sys2Proof.Machine.execSlhi o s
  | .saddImm o => Sys2Proof.Machine.execSaddImm o s
  | .smulImm o => Sys2Proof.Machine.execSmulImm o s
  | .sminI32Imm o => Sys2Proof.Machine.execSminI32Imm o s
  | .smaxI32Imm o => Sys2Proof.Machine.execSmaxI32Imm o s
  | .sminN32Imm o => Sys2Proof.Machine.execSminN32Imm o s
  | .smaxN32Imm o => Sys2Proof.Machine.execSmaxN32Imm o s
  | .sandImm o => Sys2Proof.Machine.execSandImm o s
  | .sorImm o => Sys2Proof.Machine.execSorImm o s
  | .sxorImm o => Sys2Proof.Machine.execSxorImm o s
  | .sshlImm o => Sys2Proof.Machine.execSshlImm o s
  | .sshrImm o => Sys2Proof.Machine.execSshrImm o s
  | .ssarImm o => Sys2Proof.Machine.execSsarImm o s
  | .srotImm o => Sys2Proof.Machine.execSrotImm o s
  | .scmpImm cond uns o => Sys2Proof.Machine.execScmpImm cond uns o s
  | .bra off => Sys2Proof.Machine.execBra off s
  | .bz d off => Sys2Proof.Machine.execBz d off s
  | .bnz d off => Sys2Proof.Machine.execBnz d off s
  | .call off k => Sys2Proof.Machine.execCall off k s
  | .vbr neg p off => Sys2Proof.Machine.execVbr neg p off s
  | .brx a => Sys2Proof.Machine.execBrx a s
  | .callx a k => Sys2Proof.Machine.execCallx a k s
  | .ret => Sys2Proof.Machine.execRet s
  | .vjoin => Sys2Proof.Machine.execVjoin s
  | .exit => Sys2Proof.Machine.execExit s
  | .yield => Sys2Proof.Machine.execYield s
  | .dwait k => Sys2Proof.Machine.execDwait k s
  | .unfold => Sys2Proof.Machine.execUnfold s
  | .rinfo d => Sys2Proof.Machine.execRinfo d s
  | .part n code => Sys2Proof.Machine.execPart n code s
  | .spawn g d a n => Sys2Proof.Machine.execSpawn g d a n s
  | .fold d n hold preds => Sys2Proof.Machine.execFold d n hold preds s
  | .vadd o => Sys2Proof.Machine.execVadd o s
  | .vsub o => Sys2Proof.Machine.execVsub o s
  | .vsadd o => Sys2Proof.Machine.execVsadd o s
  | .vssub o => Sys2Proof.Machine.execVssub o s
  | .vabsd o => Sys2Proof.Machine.execVabsd o s
  | .vmin o => Sys2Proof.Machine.execVmin o s
  | .vmax o => Sys2Proof.Machine.execVmax o s
  | .vabs o => Sys2Proof.Machine.execVabs o s
  | .vneg o => Sys2Proof.Machine.execVneg o s
  | .vmul o => Sys2Proof.Machine.execVmul o s
  | .vmulh o => Sys2Proof.Machine.execVmulh o s
  | .vmad o => Sys2Proof.Machine.execVmad o s
  | .vand o => Sys2Proof.Machine.execVand o s
  | .vor o => Sys2Proof.Machine.execVor o s
  | .vxor o => Sys2Proof.Machine.execVxor o s
  | .vandn o => Sys2Proof.Machine.execVandn o s
  | .vlop3 o => Sys2Proof.Machine.execVlop3 o s
  | .vshl o => Sys2Proof.Machine.execVshl o s
  | .vshr o => Sys2Proof.Machine.execVshr o s
  | .vsar o => Sys2Proof.Machine.execVsar o s
  | .vrot o => Sys2Proof.Machine.execVrot o s
  | .vclz o => Sys2Proof.Machine.execVclz o s
  | .vctz o => Sys2Proof.Machine.execVctz o s
  | .vpop o => Sys2Proof.Machine.execVpop o s
  | .vbrev o => Sys2Proof.Machine.execVbrev o s
  | .vbfx o => Sys2Proof.Machine.execVbfx o s
  | .vbfi o => Sys2Proof.Machine.execVbfi o s
  | .vpdep o => Sys2Proof.Machine.execVpdep o s
  | .vpext o => Sys2Proof.Machine.execVpext o s
  | .vbperm o => Sys2Proof.Machine.execVbperm o s
  | .vgfmat o => Sys2Proof.Machine.execVgfmat o s
  | .vaddImm o => Sys2Proof.Machine.execVaddImm o s
  | .vsubImm o => Sys2Proof.Machine.execVsubImm o s
  | .vsaddImm o => Sys2Proof.Machine.execVsaddImm o s
  | .vssubImm o => Sys2Proof.Machine.execVssubImm o s
  | .vabsdImm o => Sys2Proof.Machine.execVabsdImm o s
  | .vminImm o => Sys2Proof.Machine.execVminImm o s
  | .vmaxImm o => Sys2Proof.Machine.execVmaxImm o s
  | .vmulImm o => Sys2Proof.Machine.execVmulImm o s
  | .vandImm o => Sys2Proof.Machine.execVandImm o s
  | .vorImm o => Sys2Proof.Machine.execVorImm o s
  | .vxorImm o => Sys2Proof.Machine.execVxorImm o s
  | .vandnImm o => Sys2Proof.Machine.execVandnImm o s
  | .vshlImm o => Sys2Proof.Machine.execVshlImm o s
  | .vshrImm o => Sys2Proof.Machine.execVshrImm o s
  | .vsarImm o => Sys2Proof.Machine.execVsarImm o s
  | .vrotImm o => Sys2Proof.Machine.execVrotImm o s
  | .vfaddImm o => Sys2Proof.Machine.execVfaddImm o s
  | .vfmulImm o => Sys2Proof.Machine.execVfmulImm o s
  | .vfminImm o => Sys2Proof.Machine.execVfminImm o s
  | .vfmaxImm o => Sys2Proof.Machine.execVfmaxImm o s
  | .vmovImm o => Sys2Proof.Machine.execVmovImm o s
  | .vfadd o => Sys2Proof.Machine.execVfadd o s
  | .vfmul o => Sys2Proof.Machine.execVfmul o s
  | .vfma o => Sys2Proof.Machine.execVfma o s
  | .vfmin o => Sys2Proof.Machine.execVfmin o s
  | .vfmax o => Sys2Proof.Machine.execVfmax o s
  | .vfclass o => Sys2Proof.Machine.execVfclass o s
  | .vfrnd o => Sys2Proof.Machine.execVfrnd o s
  | .vfscale o => Sys2Proof.Machine.execVfscale o s
  | .vfrcp o => Sys2Proof.Machine.execVfrcp o s
  | .vfrsq o => Sys2Proof.Machine.execVfrsq o s
  | .vfsqrt o => Sys2Proof.Machine.execVfsqrt o s
  | .vfdiv o => Sys2Proof.Machine.execVfdiv o s
  | .vfexp2 o => Sys2Proof.Machine.execVfexp2 o s
  | .vflog2 o => Sys2Proof.Machine.execVflog2 o s
  | .vfsinp o => Sys2Proof.Machine.execVfsinp o s
  | .vfcosp o => Sys2Proof.Machine.execVfcosp o s
  | .vicmp o => Sys2Proof.Machine.execVicmp o s
  | .vfcmp o => Sys2Proof.Machine.execVfcmp o s
  | .vpand o => Sys2Proof.Machine.execVpand o s
  | .vpor o => Sys2Proof.Machine.execVpor o s
  | .vpxor o => Sys2Proof.Machine.execVpxor o s
  | .vpnot o => Sys2Proof.Machine.execVpnot o s
  | .vpmov o => Sys2Proof.Machine.execVpmov o s
  | .vsetp o => Sys2Proof.Machine.execVsetp o s
  | .vcvt o => Sys2Proof.Machine.execVcvt o s
  | .vpack o => Sys2Proof.Machine.execVpack o s
  | .vunpack o => Sys2Proof.Machine.execVunpack o s
  | .vmov o => Sys2Proof.Machine.execVmov o s
  | .vsel o => Sys2Proof.Machine.execVsel o s
  | .vbcast o => Sys2Proof.Machine.execVbcast o s
  | .vidx o => Sys2Proof.Machine.execVidx o s
  | .vshfl o => Sys2Proof.Machine.execVshfl o s
  | .vbal o => Sys2Proof.Machine.execVbal o s
  | .vany o => Sys2Proof.Machine.execVany o s
  | .vall o => Sys2Proof.Machine.execVall o s
  | .vcnt o => Sys2Proof.Machine.execVcnt o s
  | .vmatch o => Sys2Proof.Machine.execVmatch o s
  | .vred o => Sys2Proof.Machine.execVred o s
  | .vld o => Sys2Proof.Machine.execVld o s
  | .vldu o => Sys2Proof.Machine.execVldu o s
  | .vgath o => Sys2Proof.Machine.execVgath o s
  | .vgathMt o => Sys2Proof.Machine.execVgathMt o s
  | .vst o => Sys2Proof.Machine.execVst o s
  | .vscat o => Sys2Proof.Machine.execVscat o s
  | .sld o => Sys2Proof.Machine.execSld o s
  | .sst o => Sys2Proof.Machine.execSst o s
  | .pref o => Sys2Proof.Machine.execPref o s
  | .vatomAdd o => Sys2Proof.Machine.execVatomAdd o s
  | .vatomMin o => Sys2Proof.Machine.execVatomMin o s
  | .vatomMax o => Sys2Proof.Machine.execVatomMax o s
  | .vatomAnd o => Sys2Proof.Machine.execVatomAnd o s
  | .vatomOr o => Sys2Proof.Machine.execVatomOr o s
  | .vatomXor o => Sys2Proof.Machine.execVatomXor o s
  | .vatomExch o => Sys2Proof.Machine.execVatomExch o s
  | .vatomCas o => Sys2Proof.Machine.execVatomCas o s
  | .satomAdd o => Sys2Proof.Machine.execSatomAdd o s
  | .satomMin o => Sys2Proof.Machine.execSatomMin o s
  | .satomMax o => Sys2Proof.Machine.execSatomMax o s
  | .satomAnd o => Sys2Proof.Machine.execSatomAnd o s
  | .satomOr o => Sys2Proof.Machine.execSatomOr o s
  | .satomXor o => Sys2Proof.Machine.execSatomXor o s
  | .satomExch o => Sys2Proof.Machine.execSatomExch o s
  | .satomCas o => Sys2Proof.Machine.execSatomCas o s
  | .fence order scope => Sys2Proof.Machine.execFence order scope s
  | .fencex => Sys2Proof.Machine.execFencex s
  | .bari a b => Sys2Proof.Machine.execBari a b s
  | .bara d b => Sys2Proof.Machine.execBara d b s
  | .barw a b => Sys2Proof.Machine.execBarw a b s
  | .barx d b => Sys2Proof.Machine.execBarx d b s
  | .bclose d => Sys2Proof.Machine.execBclose d s
  | .bwait a => Sys2Proof.Machine.execBwait a s
  | .cflush o => Sys2Proof.Machine.execCflush o s
  | .cinv o => Sys2Proof.Machine.execCinv o s
  | .cclean o => Sys2Proof.Machine.execCclean o s
  | .wqpop o => Sys2Proof.Machine.execWqpop o s
  | .wqpush o => Sys2Proof.Machine.execWqpush o s
  | .evwait o => Sys2Proof.Machine.execEvwait o s
  | .macq g acc cols => Sys2Proof.Machine.execMacq g acc cols s
  | .mrel g acc => Sys2Proof.Machine.execMrel g acc s
  | .mrelF g acc => Sys2Proof.Machine.execMrelF g acc s
  | .mzero g acc => Sys2Proof.Machine.execMzero g acc s
  | .mmul g acc a b c e f z => Sys2Proof.Machine.execMmul g acc a b c e f z s
  | .mrd g la ctr d acc b logn => Sys2Proof.Machine.execMrd g la ctr d acc b logn s
  | .mwr g acc a b logn => Sys2Proof.Machine.execMwr g acc a b logn s
  | .mld g la ctr acc a b space scope => Sys2Proof.Machine.execMld g la ctr acc a b space scope s
  | .mst g acc a b space scope => Sys2Proof.Machine.execMst g acc a b space scope s
  | .hld la ctr d a space => Sys2Proof.Machine.execHld la ctr d a space s
  | .hst d a space => Sys2Proof.Machine.execHst d a space s
  | .hset d a k => Sys2Proof.Machine.execHset d a k s
  | .hget d a k => Sys2Proof.Machine.execHget d a k s
  | .cpyt o => Sys2Proof.Machine.execCpyt o s
  | .cpyl o src dst => Sys2Proof.Machine.execCpyl o src dst s
  | .gath o => Sys2Proof.Machine.execGath o s
  | .coll o => Sys2Proof.Machine.execColl o s
  | .qfence queue mask => Sys2Proof.Machine.execQfence queue mask s
  | .fwait a => Sys2Proof.Machine.execFwait a s
  | .ftest d a => Sys2Proof.Machine.execFtest d a s
  | .fcancel a => Sys2Proof.Machine.execFcancel a s
  | .glaunch g d a => Sys2Proof.Machine.execGlaunch g d a s
  | .gcancel g a => Sys2Proof.Machine.execGcancel g a s
  | .gwait g a => Sys2Proof.Machine.execGwait g a s
  | .gwaitAll g => Sys2Proof.Machine.execGwaitAll g s
  | .trap n => Sys2Proof.Machine.execTrap n s
  | .tret => Sys2Proof.Machine.execTret s
  | .tesc => Sys2Proof.Machine.execTesc s
  | .halt => Sys2Proof.Machine.execHalt s
  | .sget d num => Sys2Proof.Machine.execSget d num s
  | .sset a num => Sys2Proof.Machine.execSset a num s
  | .tlbinv d a b c => Sys2Proof.Machine.execTlbinv d a b c s
  | .own d a b c => Sys2Proof.Machine.execOwn d a b c s
  | .issueCycle core => Sys2Proof.Machine.execIssueCycle core s
  | .longLatencyComplete core slot idx => Sys2Proof.Machine.execLongLatencyComplete core slot idx s
  | .futureComplete fut status => Sys2Proof.Machine.execFutureComplete fut status s
  | .swap core slot => Sys2Proof.Machine.execSwap core slot s
  | .watchdogExpiry core slot => Sys2Proof.Machine.execWatchdogExpiry core slot s
  | .piecePlace core => Sys2Proof.Machine.execPiecePlace core s
  | .barwPieceHandoff core slot => Sys2Proof.Machine.execBarwPieceHandoff core slot s
  | .foldHoldExpiry core slot => Sys2Proof.Machine.execFoldHoldExpiry core slot s
  | .foldMerge core slot other => Sys2Proof.Machine.execFoldMerge core slot other s
  | .binTimerExpiry core bin => Sys2Proof.Machine.execBinTimerExpiry core bin s
  | .compaction core => Sys2Proof.Machine.execCompaction core s
  | .capacityReport child grid n => Sys2Proof.Machine.execCapacityReport child grid n s
  | .dealRound node grid => Sys2Proof.Machine.execDealRound node grid s
  | .rangeReceipt core grid lo hi => Sys2Proof.Machine.execRangeReceipt core grid lo hi s
  | .launchRecordCheck idx => Sys2Proof.Machine.execLaunchRecordCheck idx s
  | .podLaunchAck pkg grid => Sys2Proof.Machine.execPodLaunchAck pkg grid s
  | .podAckTimeout pkg grid => Sys2Proof.Machine.execPodAckTimeout pkg grid s
  | .teamRetire core grid team => Sys2Proof.Machine.execTeamRetire core grid team s
  | .completionReport node grid dispatched completed rest => Sys2Proof.Machine.execCompletionReport node grid dispatched completed rest s
  | .gridComplete grid => Sys2Proof.Machine.execGridComplete grid s
  | .gridCancel grid => Sys2Proof.Machine.execGridCancel grid s
  | .rootFailover pkg => Sys2Proof.Machine.execRootFailover pkg s
  | .reDeal grid pkg => Sys2Proof.Machine.execReDeal grid pkg s
  | .walk core asid va => Sys2Proof.Machine.execWalk core asid va s
  | .dirtyBitWalk core asid va => Sys2Proof.Machine.execDirtyBitWalk core asid va s
  | .invalidationComplete id => Sys2Proof.Machine.execInvalidationComplete id s
  | .invalWalkRestart id => Sys2Proof.Machine.execInvalWalkRestart id s
  | .flipComplete id => Sys2Proof.Machine.execFlipComplete id s
  | .rds agent line => Sys2Proof.Machine.execRds agent line s
  | .rdx agent line => Sys2Proof.Machine.execRdx agent line s
  | .upg agent line => Sys2Proof.Machine.execUpg agent line s
  | .wbd agent line => Sys2Proof.Machine.execWbd agent line s
  | .evc agent line => Sys2Proof.Machine.execEvc agent line s
  | .engineRead agent line => Sys2Proof.Machine.execEngineRead agent line s
  | .recall line => Sys2Proof.Machine.execRecall line s
  | .forwardReceipt agent line => Sys2Proof.Machine.execForwardReceipt agent line s
  | .grantReceipt agent line => Sys2Proof.Machine.execGrantReceipt agent line s
  | .homeAtomic r => Sys2Proof.Machine.execHomeAtomic r s
  | .uncachedAccess r => Sys2Proof.Machine.execUncachedAccess r s
  | .directoryEviction line => Sys2Proof.Machine.execDirectoryEviction line s
  | .filterEviction line => Sys2Proof.Machine.execFilterEviction line s
  | .snpInv line => Sys2Proof.Machine.execSnpInv line s
  | .snpData line => Sys2Proof.Machine.execSnpData line s
  | .snpCur line => Sys2Proof.Machine.execSnpCur line s
  | .hostAccess r => Sys2Proof.Machine.execHostAccess r s
  | .registerSpaceAnswer core slot => Sys2Proof.Machine.execRegisterSpaceAnswer core slot s
  | .storageCompletion core slot data => Sys2Proof.Machine.execStorageCompletion core slot data s
  | .inboundRequest port atomicOrPeer x size data => Sys2Proof.Machine.execInboundRequest port atomicOrPeer x size data s
  | .peerAccess r => Sys2Proof.Machine.execPeerAccess r s
  | .peerReply core slot r => Sys2Proof.Machine.execPeerReply core slot r s
  | .releaseComplete core => Sys2Proof.Machine.execReleaseComplete core s
  | .tasterCheck core => Sys2Proof.Machine.execTasterCheck core s
  | .epochClose core => Sys2Proof.Machine.execEpochClose core s
  | .epochCompare core die => Sys2Proof.Machine.execEpochCompare core die s
  | .epochTimeout core die => Sys2Proof.Machine.execEpochTimeout core die s
  | .flitReceipt port f => Sys2Proof.Machine.execFlitReceipt port f s
  | .retryRequest port n => Sys2Proof.Machine.execRetryRequest port n s
  | .uncorrectableFlit fabric link header ownership typ lines => Sys2Proof.Machine.execUncorrectableFlit fabric link header ownership typ lines s
  | .linkDown a b => Sys2Proof.Machine.execLinkDown a b s
  | .barrierArrivalCount core => Sys2Proof.Machine.execBarrierArrivalCount core s
  | .evwaitTimeout core slot => Sys2Proof.Machine.execEvwaitTimeout core slot s
  | .commandStart cmd => Sys2Proof.Machine.execCommandStart cmd s
  | .commandComplete cmd => Sys2Proof.Machine.execCommandComplete cmd s
  | .engineFaultDelivery core slot => Sys2Proof.Machine.execEngineFaultDelivery core slot s
  | .passFormation clu => Sys2Proof.Machine.execPassFormation clu s
  | .aStagingComplete clu entry => Sys2Proof.Machine.execAStagingComplete clu entry s
  | .bFetchComplete clu => Sys2Proof.Machine.execBFetchComplete clu s
  | .passLeavesArray clu => Sys2Proof.Machine.execPassLeavesArray clu s
  | .trapEntry core slot => Sys2Proof.Machine.execTrapEntry core slot s
  | .deferredTrap core slot => Sys2Proof.Machine.execDeferredTrap core slot s
  | .dispositionResume core slot => Sys2Proof.Machine.execDispositionResume core slot s
  | .dispositionEnd core slot => Sys2Proof.Machine.execDispositionEnd core slot s
  | .dispositionCancel core slot => Sys2Proof.Machine.execDispositionCancel core slot s
  | .breakpointHit core slot bp => Sys2Proof.Machine.execBreakpointHit core slot bp s
  | .singleStep core slot => Sys2Proof.Machine.execSingleStep core slot s
  | .preemptionRequest base dies => Sys2Proof.Machine.execPreemptionRequest base dies s
  | .coreHalted core => Sys2Proof.Machine.execCoreHalted core s
  | .contextSave core => Sys2Proof.Machine.execContextSave core s
  | .contextRestore src dst => Sys2Proof.Machine.execContextRestore src dst s
  | .scrubStart value => Sys2Proof.Machine.execScrubStart value s
  | .scrubPerform => Sys2Proof.Machine.execScrubPerform s
  | .quarantineClear => Sys2Proof.Machine.execQuarantineClear s
  | .packageColdReset => Sys2Proof.Machine.execPackageColdReset s
  | .packageWarmReset => Sys2Proof.Machine.execPackageWarmReset s
  | .computeDieReset die => Sys2Proof.Machine.execComputeDieReset die s
  | .firmwareRestart => Sys2Proof.Machine.execFirmwareRestart s
  | .bringup step ok => Sys2Proof.Machine.execBringup step ok s
  | .dieBringup die step ok => Sys2Proof.Machine.execDieBringup die step ok s
  | .clockChange mhz => Sys2Proof.Machine.execClockChange mhz s
  | .thermalLimit => Sys2Proof.Machine.execThermalLimit s
  | .thermalClearTimeout => Sys2Proof.Machine.execThermalClearTimeout s
  | .clusterGate clu => Sys2Proof.Machine.execClusterGate clu s
  | .clusterWake clu => Sys2Proof.Machine.execClusterWake clu s
  | .dieGate die => Sys2Proof.Machine.execDieGate die s
  | .dieWake die => Sys2Proof.Machine.execDieWake die s
  | .launchWindowSeal slot off bytes => Sys2Proof.Machine.execLaunchWindowSeal slot off bytes s
  | .windowRecordAccept slot => Sys2Proof.Machine.execWindowRecordAccept slot s
  | .submit port value => Sys2Proof.Machine.execSubmit port value s
  | .instatClear port => Sys2Proof.Machine.execInstatClear port s
  | .doorbellAccept port => Sys2Proof.Machine.execDoorbellAccept port s
  | .semRead port k => Sys2Proof.Machine.execSemRead port k s
  | .semWrite port k value => Sys2Proof.Machine.execSemWrite port k value s
  | .cancelPacket q => Sys2Proof.Machine.execCancelPacket q s
  | .ownPacket q => Sys2Proof.Machine.execOwnPacket q s
  | .invalPacket q => Sys2Proof.Machine.execInvalPacket q s
  | .waitPacket q => Sys2Proof.Machine.execWaitPacket q s
  | .signalPacket q => Sys2Proof.Machine.execSignalPacket q s
  | .fencePacket q => Sys2Proof.Machine.execFencePacket q s
  | .copyPacket q => Sys2Proof.Machine.execCopyPacket q s
  | .feedPacket q => Sys2Proof.Machine.execFeedPacket q s
  | .launchPacket q => Sys2Proof.Machine.execLaunchPacket q s
  | .predPacket q => Sys2Proof.Machine.execPredPacket q s
  | .packetComplete idx => Sys2Proof.Machine.execPacketComplete idx s
  | .queueRingFault q va => Sys2Proof.Machine.execQueueRingFault q va s
  | .journalAccept idx => Sys2Proof.Machine.execJournalAccept idx s
  | .eventWrite e value => Sys2Proof.Machine.execEventWrite e value s
  | .queueDescriptorWrite q off size value => Sys2Proof.Machine.execQueueDescriptorWrite q off size value s
  | .workQueueDescriptorWrite w off size value => Sys2Proof.Machine.execWorkQueueDescriptorWrite w off size value s
  | .streamWrite k whole data => Sys2Proof.Machine.execStreamWrite k whole data s
  | .streamResync k value => Sys2Proof.Machine.execStreamResync k value s
  | .streamGapTimeout k => Sys2Proof.Machine.execStreamGapTimeout k s
  | .handleInstall slot handle => Sys2Proof.Machine.execHandleInstall slot handle s
  | .installReply slot status => Sys2Proof.Machine.execInstallReply slot status s
  | .handleUninstall slot => Sys2Proof.Machine.execHandleUninstall slot s
  | .slotDrained slot => Sys2Proof.Machine.execSlotDrained slot s
  | .packageLoss pkg => Sys2Proof.Machine.execPackageLoss pkg s
  | .heartbeatMiss pkg => Sys2Proof.Machine.execHeartbeatMiss pkg s
  | .mapEpochInstall epoch entries => Sys2Proof.Machine.execMapEpochInstall epoch entries s
  | .haltResume core slot => Sys2Proof.Machine.execHaltResume core slot s
  | .haltEnd core slot => Sys2Proof.Machine.execHaltEnd core slot s
  | .tbaseWrite core value => Sys2Proof.Machine.execTbaseWrite core value s
  | .estatResume engine => Sys2Proof.Machine.execEstatResume engine s
  | .eictlWrite die value => Sys2Proof.Machine.execEictlWrite die value s
  | .prefetchCounterClear core k => Sys2Proof.Machine.execPrefetchCounterClear core k s
  | .ckstatClear checker => Sys2Proof.Machine.execCkstatClear checker s
  | .unclmClear die => Sys2Proof.Machine.execUnclmClear die s
  | .unclaimedAccess die write => Sys2Proof.Machine.execUnclaimedAccess die write s
  | .registerWrite off size value => Sys2Proof.Machine.execRegisterWrite off size value s
  | .pcSample core => Sys2Proof.Machine.execPcSample core s
  | .traceLoss core => Sys2Proof.Machine.execTraceLoss core s
  | .deadlockScan => Sys2Proof.Machine.execDeadlockScan s
  | .cxlHostResponse line r => Sys2Proof.Machine.execCxlHostResponse line r s
  | .memoryControllerAcceptance line write => Sys2Proof.Machine.execMemoryControllerAcceptance line write s
  | .evwaitReread core slot => Sys2Proof.Machine.execEvwaitReread core slot s
  | .workQueueUnitArrival => Sys2Proof.Machine.execWorkQueueUnitArrival s
  | .injectedDelayExpiry core => Sys2Proof.Machine.execInjectedDelayExpiry core s
  | .ownerInstallCheck src handle slot => Sys2Proof.Machine.execOwnerInstallCheck src handle slot s
  | .hostDecoderChange decoders => Sys2Proof.Machine.execHostDecoderChange decoders s
  | .storageLinkChange port up rate width => Sys2Proof.Machine.execStorageLinkChange port up rate width s
  | .signedImageUpload ok => Sys2Proof.Machine.execSignedImageUpload ok s

end Sys2Proof.Machine
end

