-- ==== Sys2Proof/Machine/Step.lean ====
section
/-! DEFINITION. One step of the machine (LOG 2): the next slot chosen by the issue cycle issues its instruction; when
none is left, the oldest step of the agenda is taken, then the oldest input from outside; else the next core runs an
issue cycle. -/

namespace Sys2Proof.Machine

/-- One step. -/
def step (s : State) : Host.Outcome State Fault Refusal :=
  match s.issue with
  | (g, q) :: rest =>
    match State.turnOf { s with issue := rest, cur := some (g, q) } g q with
    | .run i s1 => exec i s1
    | .stop s1 => .next s1
  | [] =>
    match s.agenda with
    | e :: rest => runEvent e { s with agenda := rest, cur := none }
    | [] =>
      match s.inputs with
      | i :: rest => exec i { s with inputs := rest, cur := none }
      | [] => exec (.issueCycle s.turn) { s with cur := none }

/-- `s` with an instruction whose bits are `w` where slot 0 of core 0 fetches next: a dense group of 96 lanes stands in
that slot, its page is mapped, and the slot has the next turn (LOG 8). -/
def State.withFetchWord (s : State) (_nbits w : Nat) : State :=
  { s with
    mem := Memory.writeLE s.mem 0x10000 16 w
    cores := AMap.set s.cores 0 { s.core 0 with
      l1Banks := 32
      spmBanks := 5
      slots := AMap.set (s.core 0).slots 0
        { kind := .group, live := BitVec.allOnes 96, mask := BitVec.allOnes 96, path := BitVec.allOnes 96,
          pc := 0x10000, w := 64 }
      active := [0]
      tlb := [{ asid := 0, va := 0x10000, size := 0x10000, pa := 0x10000, attr := 0xC7D }] }
    dies := AMap.set s.dies 0 { s.die 0 with online := true, powered := true }
    issue := [(0, 0)] }

end Sys2Proof.Machine
end

