-- ==== Sys2Proof/Safety.lean ====
section
/-! DEFINITION. What counts as a safe run: no step of it faults or is refused, and the invariants that every step is
meant to keep hold in every state of it. -/

namespace Sys2Proof

/-- The memories of the package are in their canonical form: device memory, the launch window, every scratchpad. -/
def Machine.State.memOk (s : Machine.State) : Prop :=
  Machine.Memory.wf s.mem = true ∧ Machine.Memory.wf s.ctl.window = true
    ∧ ∀ p ∈ s.cores, Machine.Memory.wf p.2.spm = true

/-- k steps from s end in a state, with no fault and no refusal. -/
inductive SafeRun : Nat → Machine.State → Machine.State → Prop where
  | done (s : Machine.State) : SafeRun 0 s s
  | more {k : Nat} {s s1 s2 : Machine.State} : Machine.step s = .next s1 → SafeRun k s1 s2 → SafeRun (k + 1) s s2

namespace Machine

/-! ## Terms in which claims are stated -/

/-- Whether an instruction of a range context in user mode would write s62 or s63, or s61 within a run, so that the
context unfolds first (R181). -/
def writesMask (i : Instr) : Bool := (operands i).any (fun o => o.file == .s && o.write && decide (61 < o.n + o.cnt))

/-- Holder `h` has the turn in slot q of core g, and `i` passes the checks at issue: privilege, misnamed registers,
lookahead, counted writers, future tags (R242, R282, R284 to R287, R425). `h` is the holder with the statuses that `i`
reads marked as read (R242). A range context has no mask write to make (R181). -/
abbrev Issues (i : Instr) (s : State) (g q : Nat) (h : Holder) : Prop :=
  s.cur = some (g, q)
    ∧ (s.holder? g q).map (fun x => (issueCheck x i, x.seenReads i)) = some (.go, h)
    ∧ (h.kind = .range → h.mode = false → writesMask i = false ∧ h.maskWrites = [])

/-- Nothing of the state but the holder in slot q of core g, that core's debug unit, and from which reads the registers of
the slot come (R148), differs. -/
abbrev OnlyHolder (s t : State) (g q : Nat) : Prop :=
  { t with cores := s.cores } = s
    ∧ (∀ k, k ≠ g → t.core k = s.core k)
    ∧ { t.core g with slots := (s.core g).slots, dbg := (s.core g).dbg, floors := (s.core g).floors } = s.core g
    ∧ (∀ r, r ≠ q → AMap.getD (t.core g).floors r {} = AMap.getD (s.core g).floors r {})
    ∧ { AMap.getD (t.core g).floors q {} with prov := (AMap.getD (s.core g).floors q {}).prov }
        = AMap.getD (s.core g).floors q {}
    ∧ ∀ r, r ≠ q → t.holder? g r = s.holder? g r

/-- The branch trace of a core is off (R489). -/
abbrev TraceOff (s : State) (g : Nat) : Prop := bitN (s.core g).dbg.dbgctl 1 = false

/-- An outcome is a next state with a property. -/
def Reaches (o : Out) (p : State → Prop) : Prop := ∃ t, o = .next t ∧ p t

end Machine

end Sys2Proof
end

