-- ==== Sys2Proof/Certificates/Slice0/Obligations.lean ====
section
/-! DEFINITION. The statements for the provers, and the tables of values they are stated with. -/

set_option Elab.async false

namespace Sys2Proof.Claims

open Sys2Proof.Machine

/-! ## Scalar instructions (R302 to R308) -/

/-- w of R302. -/
def bitsOf (t : Ty) : Nat := if t.wide then 64 else 32

/-- A value of W bits read as signed or unsigned (R305). -/
def asInt (signed : Bool) (W x : Nat) : Int := if signed = true ∧ 2 ^ (W - 1) ≤ x then (x : Int) - 2 ^ W else x

/-- An integer modulo 2^W. -/
def modW (W : Nat) (v : Int) : Nat := (v % (2 ^ W : Int)).toNat

/-- Destination of a scalar arithmetic, logic or shift instruction, and whether it is a pair. -/
def arithDest : Instr → Option (Nat × Bool)
  | .sadd o | .ssub o | .smul o | .smulh o | .smin o | .smax o | .sdiv o | .srem o | .sand o | .sor o | .sxor o
  | .sshl o | .sshr o | .ssar o | .srot o => some (o.d, o.ty.wide)
  | _ => none

/-- x and y of R305: the values of A and B. -/
abbrev xOf (h : Holder) (o : SOp) : Nat := h.readW o.ty.wide o.a
abbrev yOf (h : Holder) (o : SOp) : Nat := h.readW o.ty.wide o.b
/-- X and Y of R305. -/
abbrev XOf (h : Holder) (o : SOp) : Int := asInt o.ty.signed (bitsOf o.ty) (xOf h o)
abbrev YOf (h : Holder) (o : SOp) : Int := asInt o.ty.signed (bitsOf o.ty) (yOf h o)
/-- n of R305: s[B] mod w. -/
abbrev nOf (h : Holder) (o : SOp) : Nat := (h.readS o.b).toNat % bitsOf o.ty

/-- The value that R305 and R306 give D. -/
def arithValue (h : Holder) : Instr → Nat
  | .sadd o => (xOf h o + yOf h o) % 2 ^ bitsOf o.ty
  | .ssub o => modW (bitsOf o.ty) ((xOf h o : Int) - yOf h o)
  | .smul o => (xOf h o * yOf h o) % 2 ^ bitsOf o.ty
  | .smulh o => modW (bitsOf o.ty) (XOf h o * YOf h o / 2 ^ bitsOf o.ty)
  | .smin o => if XOf h o ≤ YOf h o then xOf h o else yOf h o
  | .smax o => if XOf h o ≥ YOf h o then xOf h o else yOf h o
  | .sdiv o => if yOf h o = 0 then 2 ^ bitsOf o.ty - 1 else modW (bitsOf o.ty) ((XOf h o).tdiv (YOf h o))
  | .srem o => if yOf h o = 0 then xOf h o else modW (bitsOf o.ty) (XOf h o - YOf h o * (XOf h o).tdiv (YOf h o))
  | .sand o => xOf h o &&& yOf h o
  | .sor o => xOf h o ||| yOf h o
  | .sxor o => xOf h o ^^^ yOf h o
  | .sshl o => (xOf h o * 2 ^ nOf h o) % 2 ^ bitsOf o.ty
  | .sshr o => xOf h o / 2 ^ nOf h o
  | .ssar o => modW (bitsOf o.ty) (asInt true (bitsOf o.ty) (xOf h o) / 2 ^ nOf h o)
  | .srot o => (xOf h o * 2 ^ nOf h o + xOf h o / 2 ^ (bitsOf o.ty - nOf h o)) % 2 ^ bitsOf o.ty
  | _ => 0

/-- The state after a scalar instruction has given D a value: the holder moves past it, and a write of s61 to s63 that
changes the mask leaves a packet in the branch trace (R489). -/
abbrev afterScalar (s : State) (g q : Nat) (h : Holder) (i : Instr) (d : Nat) (wide : Bool) (v : Nat) : State :=
  (s.retire g q i (h.writeW wide d v)).traceMaskOf g q h ((h.writeW wide d v).advance i.size)

/-- Destination of the scalar bit-field, move and compare instructions. -/
def bitDest : Instr → Option (Nat × Bool)
  | .sclz o | .spop o | .scmp _ o => some (o.d, false)
  | .sbrev o | .sbfx o | .sbfi o | .smov o | .ssel o => some (o.d, o.ty.wide)
  | _ => none

/-- pos, and nf of R307. -/
abbrev posOf (ctl : Nat) : Nat := ctl % 2 ^ 7
def nfOf (W ctl : Nat) : Nat :=
  if W ≤ posOf ctl ∨ ctl / 2 ^ 8 % 2 ^ 7 = 0 then 0 else min (ctl / 2 ^ 8 % 2 ^ 7) (W - posOf ctl)

/-- The value that R305 and R307 give D. -/
def bitGives (h : Holder) : Instr → Nat → Prop
  | .sclz o, v => v = if xOf h o = 0 then bitsOf o.ty else bitsOf o.ty - 1 - Nat.log2 (xOf h o)
  | .spop o, v => v = ((List.range (bitsOf o.ty)).filter (fun j => (xOf h o).testBit j)).length
  | .sbrev o, v => v < 2 ^ bitsOf o.ty ∧ ∀ j < bitsOf o.ty, v.testBit j = (xOf h o).testBit (bitsOf o.ty - 1 - j)
  | .sbfx o, v =>
    let c := (h.readS o.b).toNat
    let nf := nfOf (bitsOf o.ty) c
    let f := xOf h o / 2 ^ posOf c % 2 ^ nf
    v = if nf = 0 then 0 else if o.ty.signed then modW (bitsOf o.ty) (asInt true nf f) else f
  | .sbfi o, v =>
    let c := (h.readS o.c).toNat
    let nf := nfOf (bitsOf o.ty) c
    v = if nf = 0 then xOf h o
      else xOf h o - xOf h o / 2 ^ posOf c % 2 ^ nf * 2 ^ posOf c + yOf h o % 2 ^ nf * 2 ^ posOf c
  | .smov o, v => v = xOf h o
  | .ssel o, v => v = if h.readS o.c = 0#32 then yOf h o else xOf h o
  | .scmp c o, v => v = if condInt c (XOf h o - YOf h o) then 1 else 0
  | _, _ => False

/-- sext(imm, 24) mod 2^32, and zext (R308). -/
def simm24 (imm : Nat) : Nat := modW 32 (asInt true 24 imm)

/-- The value that R308 gives D; A is 32 bits. -/
def immValue (h : Holder) : Instr → Option (Nat × Nat)
  | .sli o => some (o.d, simm24 o.imm)
  | .slhi o => some (o.d, o.imm * 2 ^ 8 + (h.readS o.d).toNat % 2 ^ 8)
  | .saddImm o => some (o.d, ((h.readS o.a).toNat + simm24 o.imm) % 2 ^ 32)
  | .smulImm o => some (o.d, ((h.readS o.a).toNat * simm24 o.imm) % 2 ^ 32)
  | .sminI32Imm o => some (o.d, if (h.readS o.a).toInt ≤ asInt true 24 o.imm then (h.readS o.a).toNat else simm24 o.imm)
  | .smaxI32Imm o => some (o.d, if (h.readS o.a).toInt ≥ asInt true 24 o.imm then (h.readS o.a).toNat else simm24 o.imm)
  | .sminN32Imm o => some (o.d, min (h.readS o.a).toNat o.imm)
  | .smaxN32Imm o => some (o.d, max (h.readS o.a).toNat o.imm)
  | .sandImm o => some (o.d, (h.readS o.a).toNat &&& o.imm)
  | .sorImm o => some (o.d, (h.readS o.a).toNat ||| o.imm)
  | .sxorImm o => some (o.d, (h.readS o.a).toNat ^^^ o.imm)
  | .sshlImm o => some (o.d, ((h.readS o.a).toNat * 2 ^ o.imm) % 2 ^ 32)
  | .sshrImm o => some (o.d, (h.readS o.a).toNat / 2 ^ o.imm)
  | .ssarImm o => some (o.d, modW 32 ((h.readS o.a).toInt / 2 ^ o.imm))
  | .srotImm o => some (o.d, ((h.readS o.a).toNat * 2 ^ o.imm + (h.readS o.a).toNat / 2 ^ (32 - o.imm)) % 2 ^ 32)
  | .scmpImm c u o => some (o.d,
      if condInt c ((if u then ((h.readS o.a).toNat : Int) else (h.readS o.a).toInt) - (if u then (o.imm : Int) else asInt true 24 o.imm))
      then 1 else 0)
  | _ => none

/-! ## Decoding, fetching, reset, traps: the vocabulary -/

/-- A fetch of 8 bytes at `va` by holder `h` of core `g` answers the word `w` and leaves the state `s'` (R53, R63,
R269): the address resolves, the line of a read-only import is held, and the bytes are had. -/
def FetchesWord (s : State) (g : Nat) (h : Holder) (va : Nat) (s' : State) (w : Nat) : Prop :=
  ∃ x xs s1 bs s2, s.resolve (fetchCtx s g h) .glob va 8 .fetch true = .ok (.phys (x :: xs)) s1
    ∧ (peerReadOnly s1 x.e x.pa = true → s1.srHeld (fetchCtx s g h).agent (x.pa / 128) = true)
    ∧ s1.codeBytes (fetchCtx s g h) h (x :: xs) = .ok bs s2
    ∧ w = leValue bs ∧ s' = (s2.endAway g).codeLine g h.asid (x.pa / 128)

/-- The next turn is that of holder `h` in slot q of core g, with nothing to come before its instruction: no pending
trap, no breakpoint. `s0` is the state in which it fetches. -/
def AtInstruction (s : State) (g q : Nat) (h : Holder) (s0 : State) : Prop :=
  ∃ rest, s.issue = (g, q) :: rest
    ∧ s.holder? g q = some h
    ∧ s0 = ({ s with issue := rest, cur := some (g, q) } : State).traceIssue g q h
    ∧ h.status ≠ .halted ∧ h.status ≠ .awaiting ∧ h.status ≠ .stopped
    ∧ (h.mode = true ∨ (h.stepping = false ∧ h.pend = []))
    ∧ (s.core g).breakpoint h = none

/-- A holder in user mode whose handler is installed, whose grid is not cancelled and that has nothing outstanding. -/
def MayTrap (s : State) (g q : Nat) (h : Holder) : Prop :=
  h.mode = false ∧ trapReady s g q h = true ∧ s.cancelled h = false ∧ (s.core g).tbase ≠ 0

/-- What a precise trap at the holder's instruction leaves: the handler's address, the cause, the value, the saved PC,
supervisor mode, and every register as it was. -/
def TakesTrap (s t : State) (g q : Nat) (h : Holder) (cause tval : Nat) : Prop :=
  t.mem = s.mem ∧ ∃ h', t.holder? g q = some h' ∧ h'.mode = true ∧ h'.status = .ready ∧ h'.pc = (s.core g).tbase
    ∧ h'.tcause % 256 = cause ∧ h'.tval = tval % 2 ^ 64 ∧ h'.tpc = h.pc % 2 ^ 64
    ∧ h'.sregs = h.sregs ∧ h'.vregs = h.vregs ∧ h'.preds = h.preds ∧ h'.accs = h.accs ∧ h'.shapes = h.shapes
    ∧ h'.mask = h.mask ∧ h'.path = h.path ∧ h'.live = h.live ∧ h'.stack = h.stack ∧ h'.dcs = h.dcs
    ∧ h'.tags = h.tags ∧ h'.fflags = h.fflags

/-! ## Scalar and control instructions: the vocabulary -/

/-- Destination and width of the scalar instructions with an immediate. -/
def immDest : Instr → Option Nat
  | .sli o | .slhi o | .saddImm o | .smulImm o | .sminI32Imm o | .smaxI32Imm o | .sminN32Imm o | .smaxN32Imm o
  | .sandImm o | .sorImm o | .sxorImm o | .sshlImm o | .sshrImm o | .ssarImm o | .srotImm o | .scmpImm _ _ o => some o.d
  | _ => none

/-- Destination and width of every scalar instruction of R302. -/
def scalarDest (i : Instr) : Option (Nat × Bool) :=
  (arithDest i).or ((bitDest i).or ((immDest i).map (fun d => (d, false))))

/-- PC + 8 × sext(offset, 24) (R280). -/
def branchTarget (pc off : Nat) : Nat := modW 64 ((pc : Int) + 8 * asInt true 24 off)

/-- s64[A] (R233). -/
def pairOf (h : Holder) (a : Nat) : Nat := (h.readS a).toNat + 2 ^ 32 * (h.readS (a + 1)).toNat

/-- Where the scalar branches of R309 and `nop` go on. -/
def branchPc (h : Holder) : Instr → Option Nat
  | .nop => some ((h.pc + 8) % 2 ^ 64)
  | .bra off => some (branchTarget h.pc off)
  | .bz d off => some (if h.readS d = 0#32 then branchTarget h.pc off else (h.pc + 8) % 2 ^ 64)
  | .bnz d off => some (if h.readS d = 0#32 then (h.pc + 8) % 2 ^ 64 else branchTarget h.pc off)
  | .brx a => if pairOf h a % 8 = 0 then some (pairOf h a) else none
  | _ => none

/-- The holder with its place in the program, and what issuing counts, taken from another. -/
abbrev atPlaceOf (h' h : Holder) : Holder :=
  { h' with
    pc := h.pc, status := h.status, ll := h.ll, bpSkip := h.bpSkip, stepping := h.stepping, replay := h.replay
    replaying := h.replaying, replayPC := h.replayPC, frameDone := h.frameDone }

/-- Lanes in which a predicate is true, complemented when `neg` (R311). -/
def trueLane (h : Holder) (p : Nat) (neg : Bool) (L : Nat) : Bool :=
  (match h.readP p with
    | .uni b => b
    | .thr _ => false
    | .dense m => m.getLsbD L) != neg

/-- Nothing of a holder's split stack or frames is in the spill area. -/
def Unspilled (h : Holder) : Prop := h.spilled = [] ∧ h.outFrames = [] ∧ h.outGrans = [] ∧ h.stack.length ≤ 32

/-! ## Vector instructions: the vocabulary -/

/-- Width and number of the elements of a 32- or 64-bit value (R250, R332). -/
def shapeOf : Ty → Nat × Nat
  | .i16x2 | .f16x2 | .bf16x2 => (16, 2)
  | .i8x4 => (8, 4)
  | t => (if t.wide then 64 else 32, 1)

/-- Element e of w bits of a value. -/
def elemOf (w x e : Nat) : Nat := x / 2 ^ (w * e) % 2 ^ w

/-- The number whose bits below w a test gives. -/
def bitSum (w : Nat) (f : Nat → Bool) : Nat := (List.range w).foldl (fun a j => a + if f j then 2 ^ j else 0) 0

/-- One bits of y below bit j. -/
def onesBelow (y j : Nat) : Nat := ((List.range j).filter (fun k => y.testBit k)).length

/-- sat of R336. -/
def saturate (signed : Bool) (w : Nat) (v : Int) : Nat :=
  if signed then modW w (max (-(2 ^ (w - 1))) (min (2 ^ (w - 1) - 1) v)) else modW w (max 0 (min (2 ^ w - 1) v))

/-- The element of w bits that R336 and R338 give D from elements x and y; `sg` says whether the type is signed. -/
def elemGives (sg : Bool) (w x y : Nat) : Instr → Option Nat
  | .vadd _ => some ((x + y) % 2 ^ w)
  | .vsub _ => some (modW w ((x : Int) - y))
  | .vsadd _ => some (saturate sg w (asInt sg w x + asInt sg w y))
  | .vssub _ => some (saturate sg w (asInt sg w x - asInt sg w y))
  | .vabsd _ => some ((asInt sg w x - asInt sg w y).natAbs % 2 ^ w)
  | .vmin _ => some (if asInt sg w x ≤ asInt sg w y then x else y)
  | .vmax _ => some (if asInt sg w x ≥ asInt sg w y then x else y)
  | .vabs _ => some (modW w (asInt true w x).natAbs)
  | .vneg _ => some (modW w (-(x : Int)))
  | .vmul _ => some (x * y % 2 ^ w)
  | .vmulh _ => some (modW w (asInt sg w x * asInt sg w y / 2 ^ w))
  | .vand _ => some (x &&& y)
  | .vor _ => some (x ||| y)
  | .vxor _ => some (x ^^^ y)
  | .vandn _ => some (x &&& (2 ^ w - 1 - y))
  | .vshl _ => some (x * 2 ^ (y % w) % 2 ^ w)
  | .vshr _ => some (x / 2 ^ (y % w))
  | .vsar _ => some (modW w (asInt true w x / 2 ^ (y % w)))
  | .vrot _ => some ((x * 2 ^ (y % w) + x / 2 ^ (w - y % w)) % 2 ^ w)
  | .vclz _ => some (if x = 0 then w else w - 1 - Nat.log2 x)
  | .vctz _ => some (((List.range w).find? (fun j => x.testBit j)).getD w)
  | .vpop _ => some (onesBelow x w)
  | .vbrev _ => some (bitSum w (fun j => x.testBit (w - 1 - j)))
  | .vbfx _ =>
    let nf := nfOf w y
    let f := x / 2 ^ posOf y % 2 ^ nf
    some (if nf = 0 then 0 else if sg then modW w (asInt true nf f) else f)
  | .vpdep _ => some (bitSum w (fun j => y.testBit j && x.testBit (onesBelow y j)))
  | .vpext _ => some ((List.range w).foldl (fun a j => a + if y.testBit j && x.testBit j then 2 ^ onesBelow y j else 0) 0)
  | .vgfmat _ => some (bitSum 64 (fun j =>
      onesBelow (elemOf 8 x (j / 8) &&& elemOf 8 y (j % 8)) 8 % 2 == 1))
  | _ => none

/-- Operands of the instructions of R335 and R337 with at most two sources: whether D, and whether B, has the type's
width. -/
def elemOps : Instr → Option (V3Op × Bool × Bool)
  | .vadd o | .vsub o | .vsadd o | .vssub o | .vabsd o | .vmin o | .vmax o | .vabs o | .vneg o | .vmul o | .vmulh o
  | .vand o | .vor o | .vxor o | .vandn o | .vbrev o | .vpdep o | .vpext o | .vgfmat o => some (o, true, true)
  | .vshl o | .vshr o | .vsar o | .vrot o | .vbfx o => some (o, true, false)
  | .vclz o | .vctz o | .vpop o => some (o, false, true)
  | _ => none

/-- The value of a lane of D for the instructions with three sources and `vbperm` (R336, R338, R339). -/
def wideGives (h : Holder) (L : Nat) : Instr → Option (V3Op × Nat)
  | .vmad o =>
    let w := if o.ty.wide then 64 else 32
    some (o, (h.vWide o.ty.wide o.a L * h.srcLane o.bk o.ty.wide o.b L + h.srcLane o.ck o.ty.wide o.c L) % 2 ^ w)
  | .vbfi o =>
    let w := if o.ty.wide then 64 else 32
    let x := h.vWide o.ty.wide o.a L
    let c := h.srcLane o.ck false o.c L
    some (o, if nfOf w c = 0 then x
      else x - x / 2 ^ posOf c % 2 ^ nfOf w c * 2 ^ posOf c
        + h.srcLane o.bk o.ty.wide o.b L % 2 ^ nfOf w c * 2 ^ posOf c)
  | .vlop3 o =>
    let bit := fun (v j : Nat) => if v.testBit j then 1 else 0
    some (o, bitSum (if o.ty.wide then 64 else 32) (fun j => (h.srcLane o.ck false o.c L).testBit
      (4 * bit (h.vWide o.ty.wide o.a L) j + 2 * bit (h.srcLane o.bk o.ty.wide o.b L) j
        + bit (h.vWide o.ty.wide o.d L) j)))
  | .vbperm o => some (o, bitSum 64 (fun j => (h.vWide true o.a L).testBit
      (h.srcLane o.bk false (o.b + j / 4) L / 2 ^ (8 * (j % 4)) % 2 ^ 6)))
  | _ => none

/-- The value of the immediate of a VI instruction (R278), for the integer types. -/
def widened (t : Ty) : VImm → Nat
  | .short n =>
    match t with
    | .i32 => modW 32 (asInt true 16 n)
    | .i64 => modW 64 (asInt true 16 n)
    | .i16x2 => n + n * 2 ^ 16
    | .i8x4 => n % 256 * 0x01010101
    | _ => n
  | .tail n => if t = .i64 then modW 64 (asInt true 32 n) else n

/-- The V3 twin of an integer VI instruction (R341), with B and C unused. -/
def twin : Instr → Option (VIOp × Instr)
  | .vaddImm o => some (o, .vadd ⟨o.g, o.d, o.a, 0, 0, o.ty, false, false, .rn⟩)
  | .vsubImm o => some (o, .vsub ⟨o.g, o.d, o.a, 0, 0, o.ty, false, false, .rn⟩)
  | .vsaddImm o => some (o, .vsadd ⟨o.g, o.d, o.a, 0, 0, o.ty, false, false, .rn⟩)
  | .vssubImm o => some (o, .vssub ⟨o.g, o.d, o.a, 0, 0, o.ty, false, false, .rn⟩)
  | .vabsdImm o => some (o, .vabsd ⟨o.g, o.d, o.a, 0, 0, o.ty, false, false, .rn⟩)
  | .vminImm o => some (o, .vmin ⟨o.g, o.d, o.a, 0, 0, o.ty, false, false, .rn⟩)
  | .vmaxImm o => some (o, .vmax ⟨o.g, o.d, o.a, 0, 0, o.ty, false, false, .rn⟩)
  | .vmulImm o => some (o, .vmul ⟨o.g, o.d, o.a, 0, 0, o.ty, false, false, .rn⟩)
  | .vandImm o => some (o, .vand ⟨o.g, o.d, o.a, 0, 0, o.ty, false, false, .rn⟩)
  | .vorImm o => some (o, .vor ⟨o.g, o.d, o.a, 0, 0, o.ty, false, false, .rn⟩)
  | .vxorImm o => some (o, .vxor ⟨o.g, o.d, o.a, 0, 0, o.ty, false, false, .rn⟩)
  | .vandnImm o => some (o, .vandn ⟨o.g, o.d, o.a, 0, 0, o.ty, false, false, .rn⟩)
  | .vshlImm o => some (o, .vshl ⟨o.g, o.d, o.a, 0, 0, o.ty, false, false, .rn⟩)
  | .vshrImm o => some (o, .vshr ⟨o.g, o.d, o.a, 0, 0, o.ty, false, false, .rn⟩)
  | .vsarImm o => some (o, .vsar ⟨o.g, o.d, o.a, 0, 0, o.ty, false, false, .rn⟩)
  | .vrotImm o => some (o, .vrot ⟨o.g, o.d, o.a, 0, 0, o.ty, false, false, .rn⟩)
  | _ => none

/-- Operands of the floating-point instructions: whether D, and whether B, has the type's width. -/
def floatOps : Instr → Option (V3Op × Bool × Bool)
  | .vfadd o | .vfmul o | .vfma o | .vfmin o | .vfmax o | .vfrnd o | .vfrcp o | .vfrsq o | .vfsqrt o | .vfdiv o
  | .vfexp2 o | .vflog2 o | .vfsinp o | .vfcosp o => some (o, true, true)
  | .vfscale o => some (o, true, false)
  | .vfclass o => some (o, false, true)
  | _ => none

/-- The element and flags that R343 to R345 give from elements x, y and z of format m: the operation of the format, in
the instruction's mode. -/
def floatGives (m : Fmt) (x y z : Nat) : Instr → Nat × Nat
  | .vfadd o => fpAdd m o.mode x y
  | .vfmul o => fpMul m o.mode x y
  | .vfma o => fpFma m o.mode x y z
  | .vfmin _ => fpMin m x y
  | .vfmax _ => fpMax m x y
  | .vfclass _ => (fpClass m x, 0)
  | .vfrnd o => fpRnd m o.mode x
  | .vfscale o => fpScale m o.mode x (asInt true (if m.bits = 16 then 16 else 32) y)
  | .vfrcp o => fpRcp m o.mode x
  | .vfrsq o => fpRsq m o.mode x
  | .vfsqrt o => fpSqrt m o.mode x
  | .vfdiv o => fpDiv m o.mode x y
  | .vfexp2 o => fpExp2 m o.mode x
  | .vflog2 o => fpLog2 m o.mode x
  | .vfsinp o => fpSinp m o.mode x
  | .vfcosp o => fpCosp m o.mode x
  | _ => (0, 0)

/-- Operands and twin of the floating-point VI instructions. -/
def floatTwin : Instr → Option (VIOp × Instr)
  | .vfaddImm o => some (o, .vfadd ⟨o.g, o.d, o.a, 0, 0, o.ty, false, false, o.mode⟩)
  | .vfmulImm o => some (o, .vfmul ⟨o.g, o.d, o.a, 0, 0, o.ty, false, false, o.mode⟩)
  | .vfminImm o => some (o, .vfmin ⟨o.g, o.d, o.a, 0, 0, o.ty, false, false, o.mode⟩)
  | .vfmaxImm o => some (o, .vfmax ⟨o.g, o.d, o.a, 0, 0, o.ty, false, false, o.mode⟩)
  | _ => none

/-- Format of a floating-point type's elements. -/
def formatOf : Ty → Fmt
  | .f64 => .f64
  | .f16x2 | .f16 => .f16
  | .bf16x2 | .bf16 => .bf16
  | .e4m3 => .e4m3
  | .e5m2 => .e5m2
  | _ => .f32

/-- Whether a vector instruction of a group runs lane by lane, or on uniform registers alone: it is masked or guarded, or
reads a dense register, or reads no affine one. (A whole group may keep affine registers affine, R196: the rows of R185
have statements of their own.) -/
def LaneRun (h : Holder) (gd : Guard) (i : Instr) : Prop :=
  h.mask ≠ h.live ∨ gd ≠ ⟨false, 0⟩ ∨ h.skipLanes ≠ 0#96
    ∨ (∃ o ∈ operands i, o.file = .v ∧ o.write = false ∧ ∃ j < o.cnt, ∃ xs, h.readV (o.n + j) = .dense xs)
    ∨ (∀ o ∈ operands i, o.file = .v → o.write = false → ∀ j < o.cnt, ∃ c, h.readV (o.n + j) = .uni c)

/-- What a vector instruction with destination D leaves: the state past it, with only D and the flags changed; each active
lane of D has a value that `p` accepts, each live lane that is not active keeps its value, and every other register
keeps its own. -/
def VectorResult (s t : State) (g q : Nat) (h : Holder) (i : Instr) (gd : Guard) (d : Nat) (wide : Bool)
    (p : Nat → Nat → Prop) : Prop :=
  ∃ h', t = s.retire g q i h' ∧ { h' with vregs := h.vregs, fflags := h.fflags } = h
    ∧ (∀ L < 96, (h.activeLanes gd).getLsbD L = true → p L (h'.vWide wide d L))
    ∧ (∀ L < 96, (h.activeLanes gd).getLsbD L = false → h.live.getLsbD L = true → h'.vWide wide d L = h.vWide wide d L)
    ∧ (∀ n, h.vkey n ≠ h.vkey d → (wide = true → h.vkey n ≠ h.vkey (d + 1)) → h'.readV n = h.readV n)

/-- The value of a finite decoded number. -/
def valueOf : Val → ℚ
  | .fin n m e => (if n then -1 else 1) * (m : ℚ) * (2 : ℚ) ^ e
  | _ => 0

/-- Whether a decoded value is a finite number. -/
def isFinite : Val → Bool
  | .fin _ _ _ => true
  | _ => false

/-- The nearest integer, ties to even. -/
def nearestEven (q : ℚ) : Int :=
  if q - ⌊q⌋ < 1 / 2 then ⌊q⌋ else if q - ⌊q⌋ > 1 / 2 then ⌊q⌋ + 1 else if ⌊q⌋ % 2 = 0 then ⌊q⌋ else ⌊q⌋ + 1

/-- The magnitude to which R253 rounds an exact non-zero x. -/
def roundedMagnitude (f : Fmt) (md : RMode) (x : ℚ) : ℚ :=
  let unit : ℚ := (2 : ℚ) ^ (max (Int.log 2 |x|) f.emin - f.p + 1)
  let q := |x| / unit
  let n : Int := match md with
    | .rn => nearestEven q
    | .rz => ⌊q⌋
    | .ru => if x < 0 then ⌊q⌋ else ⌈q⌉
    | .rd => if x < 0 then ⌈q⌉ else ⌊q⌋
  n * unit

/-- The largest finite value of a format (R248). -/
def largest (f : Fmt) : ℚ := (f.maxN : ℚ) * (2 : ℚ) ^ (f.emax - f.p + 1)

/-- A bit pattern is `round(x, f, md)` of R253 for an exact non-zero x. -/
def RoundsTo (f : Fmt) (md : RMode) (x : ℚ) (r : Nat) : Prop :=
  if largest f < roundedMagnitude f md x then
    r = (if md = .rn ∨ (md = .ru ∧ 0 < x) ∨ (md = .rd ∧ x < 0) then f.infOrMax (decide (x < 0)) else f.maxFinite (decide (x < 0)))
  else ∃ m e, f.decode r = .fin (decide (x < 0)) m e ∧ (m : ℚ) * (2 : ℚ) ^ e = roundedMagnitude f md x

/-- Condition of R281 on decoded values that are no NaN, by their order. -/
def orders (c : Cond) (a b : Val) : Bool :=
  match c with
  | .eq => decide (valueOf a = valueOf b)
  | .ne => decide (valueOf a ≠ valueOf b)
  | .lt => decide (valueOf a < valueOf b)
  | .le => decide (valueOf a ≤ valueOf b)
  | .gt => decide (valueOf a > valueOf b)
  | .ge => decide (valueOf a ≥ valueOf b)
  | .ord => true
  | .un => false

/-- What an instruction with predicate destinations leaves in a dense group: each destination other than p0 has, in the
active lanes, the value of `p`, every other lane and predicate its own. -/
def PredicateResult (s t : State) (g q : Nat) (h : Holder) (i : Instr) (gd : Guard) (ds : List (Nat × (Nat → Bool))) : Prop :=
  ∃ h', t = s.retire g q i h' ∧ { h' with preds := h.preds, fflags := h.fflags } = h
    ∧ (∀ x ∈ ds, x.1 ≠ 0 → ∀ L < 96, trueLane h' x.1 false L
        = if (h.activeLanes gd).getLsbD L then x.2 L else trueLane h x.1 false L)
    ∧ (∀ n, (∀ x ∈ ds, n ≠ x.1) → h'.readP n = h.readP n)
    ∧ h'.readP 0 = .uni true

/-- First lane and number of lanes of the block of group register n that holds lane L (R203, R241). -/
def blockSize (h : Holder) (n : Nat) : Nat :=
  if n = 0 ∨ AMap.getD h.gcodes n 0 = 0 then 96 else 2 ^ (AMap.getD h.gcodes n 0 + 1)
def blockStart (h : Holder) (n L : Nat) : Nat := L / blockSize h n * blockSize h n

/-- Whether a lane of a block takes part as an active lane. -/
def inBlock (h : Holder) (n L k : Nat) : Prop := blockStart h n L ≤ k ∧ k < blockStart h n L + blockSize h n ∧ k < 96

/-- The reduction of the active lanes of a block for the integer and bit operations of R358. -/
def Reduces (h : Holder) (o : VRedOp) (L v : Nat) : Prop :=
  let w := if o.ty.wide then 64 else 32
  let x := fun k => h.vWide o.ty.wide o.a k
  let act := fun k => (h.activeLanes o.g).getLsbD k = true ∧ inBlock h o.grp L k
  match o.op with
  | .add => ∃ ks : List Nat, ks.Nodup ∧ (∀ k, k ∈ ks ↔ act k) ∧ v = (ks.map x).sum % 2 ^ w
  | .min => (∃ k, act k ∧ v = x k) ∧ ∀ k, act k → asInt o.ty.signed w v ≤ asInt o.ty.signed w (x k)
  | .max => (∃ k, act k ∧ v = x k) ∧ ∀ k, act k → asInt o.ty.signed w (x k) ≤ asInt o.ty.signed w v
  | .and => ∀ j < w, v.testBit j = true ↔ ∀ k, act k → (x k).testBit j = true
  | .or => ∀ j < w, v.testBit j = true ↔ ∃ k, act k ∧ (x k).testBit j = true
  | .xor => ∀ j < w, ∃ ks : List Nat, ks.Nodup ∧ (∀ k, k ∈ ks ↔ act k ∧ (x k).testBit j = true)
      ∧ (v.testBit j = true ↔ ks.length % 2 = 1)

/-! ## Memory instructions: the vocabulary -/

/-- Operands of a load, and whether its destination is a vector register (R365 to R368). -/
def loadOf : Instr → Option (MOp × Bool)
  | .vld o | .vldu o | .vgath o | .vgathMt o => some (o, true)
  | .sld o => some (o, false)
  | _ => none

/-- Operands of a store, and whether its data is a vector register (R369, R370). -/
def storeOf : Instr → Option (MOp × Bool)
  | .vst o | .vscat o => some (o, true)
  | .sst o => some (o, false)
  | _ => none

/-- Operation and operands of an atomic, and whether it is a vector instruction (R372). -/
def atomOf : Instr → Option (AtomOp × MOp × Bool)
  | .vatomAdd o => some (.add, o, true)
  | .vatomMin o => some (.min, o, true)
  | .vatomMax o => some (.max, o, true)
  | .vatomAnd o => some (.and, o, true)
  | .vatomOr o => some (.or, o, true)
  | .vatomXor o => some (.xor, o, true)
  | .vatomExch o => some (.exch, o, true)
  | .vatomCas o => some (.cas, o, true)
  | .satomAdd o => some (.add, o, false)
  | .satomMin o => some (.min, o, false)
  | .satomMax o => some (.max, o, false)
  | .satomAnd o => some (.and, o, false)
  | .satomOr o => some (.or, o, false)
  | .satomXor o => some (.xor, o, false)
  | .satomExch o => some (.exch, o, false)
  | .satomCas o => some (.cas, o, false)
  | _ => none

/-- Whether the offsets of an instruction are 64-bit vector pairs (R366, R370). -/
def pairOffset : Instr → Bool
  | .vgath _ | .vgathMt _ | .vscat _ => true
  | _ => false

/-- ea of R361 in lane L. -/
def eaOf (h : Holder) (i : Instr) (a b : Nat) (k : OffKind) (L : Nat) : Nat :=
  modW 64 ((pairOf h a : Int) + match k with
    | .vec => if pairOffset i then (h.vWide true b L : Int) else asInt true 32 (h.vLane b L)
    | .sca => asInt true 32 (h.readS b).toNat
    | .disp => asInt true 8 b
    | .non => 0)

/-- Whether a `vld` of a group makes one access for all its lanes: its offset is uniform, and every live lane is active (R185,
R196). -/
def OneAccess (h : Holder) (o : MOp) : Bool :=
  h.mask == h.live && o.g.pred == 0 && !o.g.neg && h.skipLanes == 0#96 && o.space != .reg
    && (match (h.readV o.b).coef with
      | some c => c.2.1 == 0#32 && c.2.2 == 0#32
      | none => false)

/-- Lanes and addresses of a group's memory instruction: every active lane of a vector instruction, the lowest one for
`vldu` and for a `vld` with one address; lane number 127 stands for none. -/
def accessesOf (h : Holder) (i : Instr) (o : MOp) (vec : Bool) : List (Nat × Nat) :=
  if vec then
    (match i with
      | .vldu _ => (laneList (h.activeLanes o.g)).take 1
      | .vld _ => if OneAccess h o then (laneList (h.activeLanes o.g)).take 1 else laneList (h.activeLanes o.g)
      | _ => laneList (h.activeLanes o.g)).map (fun L => (L, eaOf h i o.a o.b o.kind L))
  else [(127, eaOf h i o.a o.b o.kind 127)]

/-- The scope with which an access acts: at most the team's for space 1, at most the cluster's for space 2 (R106). -/
def narrowed (sp : Space) (sc : Scope) : Scope :=
  if sp = .team ∧ 1 < sc.code then .team else if sp = .clu ∧ 2 < sc.code then .clu else sc

/-- Nothing holds a group's memory instruction back at its issue (R43, R121, R149, R376), its team has its scratchpad, and
memory trace and delay injection are off. -/
def MemGoes (s : State) (g q : Nat) (h : Holder) (i : Instr) (o : MOp) (vec writes : Bool) : Prop :=
  Issues i s g q h ∧ wellFormed i = true ∧ h.kind ≠ .range ∧ h.replaying = none
    ∧ memWait s g q h (!vec && o.space == .glob) writes = none ∧ s.farRead g q h i = none
    ∧ (o.space = .reg → h.vecPending = false)
    ∧ (teamSpace o.space = true → s.needTeam g q h = none)
    ∧ bitN (s.core g).dbg.dbgctl 0 = false ∧ (s.core g).delays q = false

/-- The holder past an instruction: registers, predicates, mask, path and stack as they were. -/
def PastIt (h' h : Holder) (i : Instr) : Prop :=
  h'.pc = (h.pc + i.size) % 2 ^ 64 ∧ h'.status = .ready ∧ h'.sregs = h.sregs ∧ h'.vregs = h.vregs ∧ h'.preds = h.preds
    ∧ h'.mask = h.mask ∧ h'.path = h.path ∧ h'.live = h.live ∧ h'.stack = h.stack ∧ h'.frames = h.frames
    ∧ h'.accs = h.accs ∧ h'.shapes = h.shapes

/-- The n bytes of the register aperture at ea (R43): word w is lane w mod 96 of register w / 96. -/
def apertureValue (h : Holder) (ea n : Nat) : Nat :=
  (h.vLane (ea / 384) (ea / 4 % 96) + 2 ^ 32 * h.vLane ((ea + 4) / 384) ((ea + 4) / 4 % 96)) / 2 ^ (8 * (ea % 4)) % 2 ^ (8 * n)

/-- Registers that a loaded value fills (R362). -/
def loadedWords (e : Elem) (v : Nat) : List Nat :=
  match e with
  | .n8 | .n16 => [v]
  | .i8 => [modW 32 (asInt true 8 v)]
  | .i16 => [modW 32 (asInt true 16 v)]
  | _ => (List.range (e.bytes / 4)).map (fun j => v / 2 ^ (32 * j) % 2 ^ 32)

/-- Words of an element lie in registers that are not one another. -/
def WordsApart (h : Holder) (d n : Nat) : Prop := ∀ a b, a < b → b < n / 4 → h.vkey (d + a) ≠ h.vkey (d + b)

/-- Where the accesses of a holder in a team's or a cluster's space fall: `place` gives core and offset (R41, R42). -/
def InScratchpad (s : State) (g : Nat) (h : Holder) (vec : Bool) (sp : Space) (n : Nat) (a : Acc) (hostOk : Bool)
    (place : Nat → Nat × Nat) (eas : List Nat) : Prop :=
  ∀ x ∈ eas, s.resolve (holderCtx s g h vec) sp x n a hostOk = .ok (.spm (place x).1 (place x).2 n) s

/-- Whether n bytes at a place hold a byte of a core's scratchpad. -/
def covers (p : Nat × Nat) (n k a : Nat) : Prop := p.1 = k ∧ p.2 ≤ a ∧ a < p.2 + n

/-- The data of a lane of a store: the registers from D up (R362). -/
def dataOf (h : Holder) (vec : Bool) (d n L : Nat) : Nat :=
  elemValue n d (fun m => if vec then h.vLane m L else (h.readS m).toNat)

/-- The value that an atomic leaves for old value o and operands x, y (R372, R373); none for a `cas` that fails. -/
def atomGives (op : AtomOp) (e : Elem) (o x y : Nat) : Option Nat :=
  let w := 8 * e.bytes
  let sg := e == .i32 || e == .i64
  let two := fun (f : Fmt → Nat → Nat → Nat × Nat) (m : Fmt) =>
    (f m (o % 2 ^ 16) (x % 2 ^ 16)).1 + (f m (o / 2 ^ 16) (x / 2 ^ 16)).1 * 2 ^ 16
  let float := fun (f : Fmt → Nat → Nat → Nat × Nat) (else_ : Nat) =>
    match e with
    | .f32 => (f .f32 o x).1
    | .f64 => (f .f64 o x).1
    | .f16x2 => two f .f16
    | .bf16x2 => two f .bf16
    | _ => else_
  match op with
  | .add => some (float (fun m => fpAdd m .rn) ((o + x) % 2 ^ w))
  | .min => some (float fpMin (if asInt sg w o ≤ asInt sg w x then o else x))
  | .max => some (float fpMax (if asInt sg w o ≥ asInt sg w x then o else x))
  | .and => some (o &&& x)
  | .or => some (o ||| x)
  | .xor => some (o ^^^ x)
  | .exch => some x
  | .cas => if o = x then some y else none

/-- Operand and new value of a lane of an atomic. -/
def newOf (h : Holder) (op : AtomOp) (o : MOp) (vec : Bool) (L : Nat) : Nat :=
  if op = .cas then dataOf h vec (o.d + if o.elem.bytes = 8 then 2 else 1) o.elem.bytes L else 0

/-! ## Ordering, barriers, queues, accumulators, shapes: the vocabulary -/

/-- The holder past an instruction: predicates, mask, path, stack and frames as they were. -/
def WentOn (h' h : Holder) (i : Instr) : Prop :=
  h'.pc = (h.pc + i.size) % 2 ^ 64 ∧ h'.status = .ready ∧ h'.preds = h.preds ∧ h'.mask = h.mask ∧ h'.path = h.path
    ∧ h'.live = h.live ∧ h'.stack = h.stack ∧ h'.frames = h.frames

/-- Registers but d, and all vector registers, accumulators and shapes, as they were. -/
def OnlyScalar (h' h : Holder) (d : Nat) : Prop :=
  (∀ n, n ≠ d → h'.readS n = h.readS n) ∧ h'.vregs = h.vregs ∧ h'.accs = h.accs ∧ h'.shapes = h.shapes

/-- A release that an instruction is at its place (R133, R136) completes there: what it orders has performed and been checked,
and nothing contains it (R159 to R163). -/
def ReleasesHere (s : State) (g q : Nat) : Prop :=
  (∀ e ∈ (s.core g).taster, e.slot ≠ q) ∧ ((s.core g).floor q).contain = 0 ∧ ((s.core g).floor q).covered = []
    ∧ (∀ d < 9, AMap.find? (s.die d).quarantined g = none) ∧ ((s.die (dieOf g)).checker 1 (g % 32)).peers = []

/-- Items that an arrival counts (R379): the active lanes, or the members of a range context. -/
def itemsArriving (h : Holder) : Nat :=
  if h.kind = .range then h.hi - h.lo else ((List.range 96).filter (fun L => h.mask.getLsbD L)).length

/-- Element (m, n) of a tile. -/
def tileElem (t : Tile) (m n : Nat) : Nat := AMap.getD t.elems (128 * m + n) 0

/-- An instruction on an accumulator of a group that passes the checks, with an active lane. -/
def AccGoes (s : State) (g q : Nat) (h : Holder) (i : Instr) (gd : Guard) : Prop :=
  Issues i s g q h ∧ wellFormed i = true ∧ h.kind ≠ .range ∧ h.replaying = none ∧ h.activeLanes gd ≠ 0#96

/-- Address of row L of a transfer between memory and a tile (R405). -/
def rowAddress (h : Holder) (a b L : Nat) : Nat := modW 64 ((pairOf h a : Int) + L * asInt true 32 (h.readS b).toNat)

/-! ## Commands, futures, grids, system instructions: the vocabulary -/

/-- A shape register. -/
abbrev recAt (h : Holder) (n : Nat) : Nat := AMap.getD h.shapes n 0

/-- Five signed origins in successive scalar registers (R409). -/
def originsOf (h : Holder) (n : Nat) : List Int := (List.range 5).map (fun j => asInt true 32 (h.readS (n + j)).toNat)

/-- Operands and effect of an engine command, with whether the collective engine takes it: R409 to R412. `k` is the place
of a collective among the team's commands of the same ranks. None where the spec makes it an illegal encoding. -/
def commandOf (h : Holder) (k : Nat) : Instr → Option (CmdOp × Option CmdBody × Bool)
  | .cpyt o =>
    let a := recAt h o.a
    let b := recAt h o.b
    some (o, if shOk a (shBox a 0) false = true ∧ shOk b (shBox a 0) true = true ∧ shRank a = shRank b ∧ shFmt a = shFmt b
      then some (.cpyt a b (originsOf h o.c) (originsOf h (o.c + 5))) else none, false)
  | .cpyl o src dst =>
    some (o, if pairOf h o.c < 2 ^ 40 then some (.cpyl (pairOf h o.a) (pairOf h o.b) src dst (pairOf h o.c)) else none, false)
  | .gath o =>
    let a := recAt h o.a
    let b := recAt h o.b
    some (o, if shOk a (shBox a 0) false = true ∧ shOk b (shBox a 0) false = true ∧ shRank a = 2 ∧ shRank b = 2
        ∧ shFmt a = shFmt b ∧ (h.readS (o.c + 2)).toNat ≤ 2 ^ 20 ∧ pairOf h o.c % 4 = 0
      then some (.gath a b (pairOf h o.c) (h.readS (o.c + 2)).toNat (asInt true 32 (h.readS (o.c + 3)).toNat)) else none, false)
  | .coll o =>
    let a := recAt h o.a
    let c := (h.readS o.b).toNat
    let n := (h.readS (o.c + 2)).toNat
    some (o, if o.c % 2 = 0 ∧ o.c ≤ 56 ∧ shOk a (shBox a 0) false = true ∧ shRank a = 1 ∧ shSpace a = 0
        ∧ shFmt a ∈ [3, 4, 5, 10, 11, 12, 13] ∧ c % 4 ≤ 1 ∧ c / 4 % 4 ≠ 3 ∧ c / 16 % 2 ^ 12 = 0 ∧ 1 ≤ n ∧ n ≤ 65536
      then some (.coll a c (pairOf h o.c) n k) else none, true)
  | _ => none

/-- Place of a collective among the team's commands with the same first rank and number of ranks. -/
def collPlace (s : State) (h : Holder) (o : CmdOp) : Nat :=
  AMap.getD (s.grid h.grid).collSeq ((h.team * 2 ^ 64 + pairOf h o.c) * 2 ^ 17 + (h.readS (o.c + 2)).toNat) 0

/-- An instruction of a group that passes the checks, is issued for the first time and has an active lane. -/
def GroupGoes (s : State) (g q : Nat) (h : Holder) (i : Instr) (gd : Guard) : Prop :=
  Issues i s g q h ∧ wellFormed i = true ∧ h.kind ≠ .range ∧ h.replaying = none ∧ h.activeLanes gd ≠ 0#96

/-- D is tagged with future f and holds its handle; the other registers are as they were. -/
def TaggedWith (h' h : Holder) (d f : Nat) : Prop :=
  AMap.find? h'.tags d = some f ∧ (h'.readS d).toNat = f % 2 ^ 32 ∧ OnlyScalar h' h d

/-- Another 64 registers are tagged: the tag of D would be one more (R242). -/
def TagsFull (h : Holder) (d : Nat) : Prop := 64 ≤ h.tags.length ∧ AMap.has h.tags d = false

/-- An instruction that acts once for its holder, group or range context, and does. -/
def OnceGoes (s : State) (g q : Nat) (h : Holder) (i : Instr) (gd : Guard) : Prop :=
  Issues i s g q h ∧ h.replaying = none ∧ s.needTeam g q h = none ∧ h.actsOnce gd = true

/-! ## Steps of cores and of the control die: the vocabulary -/

/-- Nothing of a core's debug unit acts: no trace, no sampler, no single step, and its FIFO is empty. -/
def DebugOff (s : State) (g : Nat) : Prop := (s.core g).dbg.dbgctl % 16 = 0 ∧ (s.core g).dbg.fifo = []

/-- The place that a pending trap gives `%tpc`, and its value (R421, R431, R512): the trap of an instruction keeps its own, a
deferred one, an engine fault, the watchdog and single step name the boundary's instruction. -/
def boundaryPc (h : Holder) (p : PendTrap) : Nat :=
  if p.engine = false ∧ p.cause ≠ 9 ∧ p.cause ≠ 13 ∧ p.queued = false then p.tpc else h.pc
def boundaryValue (h : Holder) (p : PendTrap) : Nat := if p.cause = 9 ∧ p.engine = false then h.watchdog else p.tval

/-- A holder stands at an instruction boundary at which it can enter its handler (R423, R424). -/
def AtBoundary (s : State) (g q : Nat) (h : Holder) : Prop :=
  s.holder? g q = some h ∧ s.coreRuns g = true ∧ MayTrap s g q h ∧ h.status ≠ .halted ∧ h.status ≠ .awaiting
    ∧ h.status ≠ .stopped ∧ s.wqFlying g q = false

/-- A first trap goes before a second at a boundary (R423): instruction, engine fault, watchdog, single step. -/
def trapBefore (a b : PendTrap) : Bool :=
  let rank := fun (t : PendTrap) => if t.engine then 1 else if t.cause = 9 then 2 else if t.cause = 13 then 3 else 0
  decide (rank a < rank b)

/-! ## Dispatch and completion of grids: the vocabulary -/

/-- The checks of a launch record from its highest bit down (R206): lowest bit, width, the values allowed, the status of a
refusal. `online` says which dies are. -/
def recordChecks (r : Nat) (window : Bool) (online : Nat → Bool) : List (Nat × Nat × (Nat → Bool) × Nat) :=
  [(1008, 8, (· == 1), 0x100), (990, 2, (decide <| · ≤ 1), 0x107),
   (982, 8, fun m => (List.range 8).any (fun d => (m == 0 || m.testBit d) && online d), 0x106), (976, 1, (· == 0), 0x101),
   (901, 11, (decide <| · < 1536), 0x102), (894, 2, (· != 3), 0x103), (889, 5, fun n => decide (5 ≤ n ∧ n ≤ 21), 0x103),
   (876, 13, fun n => decide (256 * n ≤ 65536 * field r 889 5), 0x103), (871, 5, fun n => decide (n = 0 ∨ 16 ≤ n), 0x101),
   (867, 4, fun n => !window || n == 0, 0x108), (848, 3, (· == 0), 0x101), (837, 11, (decide <| · ≤ 1024), 0x105),
   (832, 5, (· == 0), 0x101), (776, 56, (· % 8 == 0), 0x104), (768, 8, (· == 0), 0x101), (712, 56, (· % 64 == 0), 0x104),
   (704, 8, (· == 0), 0x101), (648, 56, (· % 128 == 0), 0x104), (640, 8, (· == 0), 0x101), (584, 56, (· % 64 == 0), 0x104),
   (576, 8, (· == 0), 0x101), (520, 56, (· % 65536 == 0), 0x104), (456, 56, (· % 4096 == 0), 0x104), (448, 8, (· == 0), 0x101),
   (0, 384, (· == 0), 0x101)]

/-- The status of the first field that fails, 0 for a record that is accepted (R207). -/
def checkStatus (s : State) (gr : Grid) : Nat :=
  match (recordChecks gr.record gr.window (fun d => (s.die d).online)).find? (fun c => !c.2.2.1 (gr.record / 2 ^ c.1 % 2 ^ c.2.1)) with
  | some c => c.2.2.2
  | none => 0

/-- Sum of the first j of some capacities. -/
def sumTo (cap : Nat → Nat) : Nat → Nat
  | 0 => 0
  | j + 1 => sumTo cap j + cap j

/-- Start of the range that a round deals to child j of m (R211). -/
def dealStart (a q m : Nat) (cap : Nat → Nat) (j : Nat) : Nat := a + q * sumTo cap j / sumTo cap m

/-- G of a round: the grain of the record (R206). -/
def grainOf (r : Nat) : Nat := if field r 851 16 = 0 then max 1 (1536 / (field r 901 11 + 1)) else field r 851 16

/-- Bytes 0 to 59 of a completion record (R214). -/
def completionHead (gr : Grid) (d c x stamp : Nat) : Nat :=
  gr.number % 2 ^ 32 * 2 ^ 448 + field gr.record 384 64 * 2 ^ 384 + d % 2 ^ 48 * 2 ^ 336 + c % 2 ^ 48 * 2 ^ 288 + x % 2 ^ 48 * 2 ^ 240
    + min (gr.faults.foldl (fun t p => t + p.2) 0) 0xFFFFFFFF * 2 ^ 208 + stamp % 2 ^ 48 * 2 ^ 160 + Config.pkgId % 2 ^ 11 * 2 ^ 149

/-- The code with which a grid completes (R215). -/
def completionCode (gr : Grid) : Nat :=
  if gr.failed then 3 else if gr.cancel then 2 else if gr.faults.foldl (fun t p => t + p.2) 0 = 0 then 0 else 1

/-! ## Coherence and the host: the vocabulary -/

/-- Die that keeps a line's home state; the control die also keeps the host's lines. -/
def homeOf (s : State) (line : Nat) : Nat := (homeDie s (line * 128)).getD 8

/-- A device line whose home is idle and can serve it: online, awake, its copy present (R86, R88, R94). -/
def LineReady (s : State) (line : Nat) : Prop :=
  homeDie s (line * 128) = some (homeOf s line) ∧ AMap.find? (s.die (homeOf s line)).busy line = none
    ∧ s.homePoison line = none ∧ s.wakeHome line = s ∧ isHostLine s line = false ∧ s.dirRoom line = some s
    ∧ AMap.has (s.die (homeOf s line)).msc line = true

/-- No die's injector is armed (R488). -/
def NoInjector (s : State) : Prop := ∀ d, bitN (s.die d).eictl 31 = false

/-- The messages of a busy line at its home. -/
def msgsOf (s : State) (line : Nat) : Option (List Msg) := (AMap.find? (s.die (homeOf s line)).busy line).map (·.msgs)

/-- Memory, the launch window and every scratchpad are as they were. -/
def DataKept (s t : State) : Prop := t.mem = s.mem ∧ t.ctl.window = s.ctl.window ∧ ∀ k, (t.core k).spm = (s.core k).spm

/-- The requester has the line to itself: the home's entry names it in X and the interval has moved on (R90, R93). -/
def OwnedBy (s t : State) (line : Nat) (a : Agent) : Prop :=
  (t.dirOf line).st = .x ∧ (t.dirOf line).owner = some a ∧ t.intervalOf line = (s.intervalOf line + 1) % 2 ^ 32

/-! ## Checking, repair, fabric, peers, pod: the vocabulary -/

/-- a comes after b by serial arithmetic of 48 bits (R145). -/
def after48 (a b : Nat) : Prop := 1 ≤ (a + 2 ^ 48 - b % 2 ^ 48) % 2 ^ 48 ∧ (a + 2 ^ 48 - b % 2 ^ 48) % 2 ^ 48 < 2 ^ 47

/-- The stamp that an ordinary read of a slot must be above: that of its last acquire, or where the slot started (R148). -/
def readFloor (f : Floors) : Nat := if f.acqf.row = 0 then f.start else f.acqf.stamp

/-- The newest release of a core may complete: it is alone, its slot's accesses have performed and been checked, and
nothing contains it (R159 to R163). -/
def ReleaseGoes (s : State) (g : Nat) (r : Release) (h : Holder) : Prop :=
  (s.core g).releases = [r] ∧ s.holder? g r.slot = some h ∧ h.ll = [] ∧ h.ext = [] ∧ (s.core g).delayed = []
    ∧ (∀ e ∈ (s.core g).taster, (e.slot ≠ r.slot ∨ r.seq ≤ e.seq) ∧ (e.seq = r.seq → e.kind = 3 ∨ e.kind = 7))
    ∧ ((s.core g).floor r.slot).covered = []
    ∧ (∀ d < 9, AMap.find? (s.die d).quarantined g = none) ∧ ((s.die (dieOf g)).checker 1 (g % 32)).peers = []

/-- Fields of a handle that an importer accepts (R36, R473). -/
def handleGood (w : Nat) : Prop :=
  field w 53 11 ≠ Config.pkgId ∧ 12 ≤ field w 23 6 ∧ field w 23 6 ≤ 38 ∧ field w 16 4 = 0 ∧ bitN w 20 = true

/-- An entry of the export table that stands for an export of 2^n bytes at base (R36, R472). -/
def exportGood (s : State) (e : Nat) : Prop :=
  bitN e 57 = true ∧ 12 ≤ field e 70 6 ∧ field e 70 6 ≤ 38 ∧ field e 76 52 % 2 ^ field e 70 6 = 0
    ∧ (regionOf s (field e 76 52) = .hbm ∨ regionOf s (field e 76 52) = .ddr)
    ∧ regionOf s (field e 76 52 + 2 ^ field e 70 6 - 1) = regionOf s (field e 76 52)

/-- The state of a package in the pod map. -/
def podState (s : State) (p : Nat) : Option Nat := (AMap.find? s.ctl.podMap p).map (·.state)

/-! ## Matrix passes, pre-emption, resets, power: the vocabulary -/

/-- Entries that a pass holds already: those of the fetch stage and of the array (R402). -/
def inPasses (c : Cluster) : List Nat :=
  (match c.fetch with | some p => p.entries | none => []) ++ (match c.array with | some p => p.entries | none => [])

/-- An entry that may start: staged, in no pass, its accumulator's token at the engine (R228). -/
def EntryFree (s : State) (c : Cluster) (e : MatEntry) : Prop :=
  e.staged = true ∧ e.id ∉ inPasses c ∧ ∀ h, s.holder? e.core e.slot = some h → ∀ a ∈ h.accs, a.2.tile = e.tile → a.2.state ≠ 1

/-- Two entries have the same key (R228). -/
def sameKey (e f : MatEntry) : Bool := e.asid == f.asid && e.b == f.b && e.i == f.i && e.fb == f.fb

/-- Rows that an entry takes of a pass: 8 for each octet (R227). -/
def rowsOf (e : MatEntry) : Nat := 8 * ((List.range 12).filter (fun k => (List.range 8).any (fun j => e.rows.getLsbD (8 * k + j)))).length

/-- Value of an 8-bit integer element: code 6 signed, code 7 not (R266). -/
def int8 (code x : Nat) : Int := if code = 6 ∧ 128 ≤ x % 256 then (x % 256 : Int) - 256 else (x % 256 : Int)

/-- Sum over k of A(m,k) times B(k,n) of integer operands (R266, R398, R399). -/
def intDot (fb row : Nat) (got : List Byte) (n : Nat) : Int :=
  ((List.range 128).map (fun k => int8 (field fb 140 4) (row / 2 ^ (8 * k)) * int8 (field fb 136 4) (got.getD (128 * k + n) 0#8).toNat)).sum

/-- Whether an address lies in what a warm reset keeps: the DDR tier or the journal's region (R12, R17). -/
def lasts (s : State) (a : Nat) : Bool :=
  (decide (0x0400_0000_0000 ≤ a) && decide (a < 0x0400_0000_0000 + s.ctl.ddrGiB * 2 ^ 30))
    || (decide (s.ctl.ddrGiB = 0) && decide (0x000F_FC00_0000 ≤ a) && decide (a < 0x0010_0000_0000))

/-- Whether an address lies in the stacks of die d that its reset zeroes (R18). -/
def inStacks (s : State) (d a : Nat) : Bool :=
  decide (a < 2 ^ 40) && field a 37 3 == d && !(d == 0 && s.ctl.ddrGiB == 0 && decide (0x000F_FC00_0000 ≤ a) && decide (a < 0x0010_0000_0000))

/-- The conditions of R101 for gating a cluster. -/
def CanGate (s : State) (x : Nat) : Prop :=
  (∀ k < 4, (s.core (4 * x + k)).slots = [] ∧ (s.core (4 * x + k)).l1 = [] ∧ (s.core (4 * x + k)).wbuf = [])
    ∧ (s.cluster x).table = [] ∧ (∀ c ∈ s.commands, c.2.engine ≠ 256 + x)
    ∧ (∀ d ∈ s.dies, ∀ e ∈ d.2.dir, ∀ a ∈ e.2.holders, a ≠ .fused x ∧ ∀ k < 4, a ≠ .core (4 * x + k))
    ∧ ∀ e ∈ s.ctl.filter, ∀ a ∈ e.2.dir.holders, a ≠ .fused x ∧ ∀ k < 4, a ≠ .core (4 * x + k)

/-- Nothing of a holder is outstanding. -/
def Settled (h : Holder) : Prop := h.ll = [] ∧ h.ext = [] ∧ h.writers = []

/-- A die may come up: the lower ones are done, or it has been reset by itself (R505, R508). -/
def DieTurn (s : State) (d : Nat) : Prop :=
  d < 8 ∧ 3 ≤ s.ctl.bootStep ∧ (s.die d).online = false ∧ (s.die d).failed = false
    ∧ ((s.die d).resetting = true ∨ ∀ k < d, (s.die k).online = true ∨ (s.die k).failed = true ∨ (s.die k).resetting = true)

/-! ## The command front end: the vocabulary -/

/-- Every byte of memory outside [a, a + n) reads as before. -/
def MemOutside (s t : State) (a n : Nat) : Prop := ∀ b, b < a ∨ a + n ≤ b → Memory.read t.mem b = Memory.read s.mem b

/-- Where entry j of the journal lies (R456). -/
def entryAt (s : State) (j : Nat) : Nat :=
  (if s.ctl.ddrGiB = 0 then 0x000F_FC00_0000 else 0x0400_0000_0000 + s.ctl.ddrGiB * 2 ^ 30 - 2 ^ 26) + 64 * (j % 2 ^ 20)

/-- The half of an entry that is written once (R456, R457). -/
def firstHalf (j : Nat) (e : JEntry) : Nat :=
  j % 2 ^ 64 + (e.port * 2 ^ 8 + e.queue % 2 ^ 8 * 2 ^ 16 + e.type % 2 ^ 8 * 2 ^ 24) % 2 ^ 32 * 2 ^ 64 + e.sequence % 2 ^ 32 * 2 ^ 96
    + e.digest % 2 ^ 64 * 2 ^ 128 + e.acceptTime % 2 ^ 64 * 2 ^ 192

/-- The half that each change of state rewrites, with its state and final time. -/
def secondHalf (e : JEntry) (st time : Nat) : Nat :=
  st + e.position % 2 ^ 24 * 2 ^ 104 + time % 2 ^ 64 * 2 ^ 128 + e.result % 2 ^ 64 * 2 ^ 192

/-- The home of a device line takes a write at once: it is online, the line is idle and no cache holds it (R86, R88, R94). -/
def HomeServes (s : State) (l : Nat) : Prop :=
  s.homePoison l = none ∧ s.busyLine l = false ∧ (s.dirOf l).st = .i ∧ isHostLine s l = false

/-- The home of entry j's line takes a write. -/
def JournalServed (s : State) (j : Nat) : Prop := HomeServes s (entryAt s j / 128) ∧ NoInjector s

/-- Nothing differs but which lines of code and of constants the cores have at hand (R454). -/
def AheadOnly (s t : State) : Prop :=
  { t with cores := s.cores } = s ∧ ∀ g, { t.core g with icache := (s.core g).icache, ccache := (s.core g).ccache } = s.core g

/-- The head packet of a queue may be decoded: the firmware runs, the queue serves a packet, none of its packets waits to be
handed off, the journal's ring has not come round, and no arm is being discarded. -/
def Serves (s : State) (q : Nat) : Prop :=
  s.ctl.firmwareUp = true ∧ (s.queue q).enable = true ∧ (s.queue q).head ≠ (s.queue q).tail
    ∧ (∀ p ∈ s.ctl.journal, p.2.queue = q → p.2.type < 16 → p.2.state ≠ 1) ∧ s.ctl.jnext < 2 ^ 20

/-- Address of a queue's head packet (R447). -/
def headAddress (s : State) (q : Nat) : Nat := (s.queue q).base + 64 * ((s.queue q).head % 2 ^ (s.queue q).size)

/-- Field of a packet at a byte offset. -/
def pkt (b o n : Nat) : Nat := b / 2 ^ (8 * o) % 2 ^ (8 * n)

/-- Body fields of the packet types (R449): offset and size. -/
def bodyOf : Nat → List (Nat × Nat)
  | 1 => [(16, 8)] | 2 => [(16, 8), (24, 8), (32, 2), (34, 1)] | 3 => [(16, 8), (24, 8), (32, 2), (34, 1)]
  | 4 => [(16, 2), (24, 8)] | 5 => [(16, 2)] | 7 => [(16, 8), (24, 8), (32, 8), (40, 2), (42, 1)]
  | 8 => [(16, 8), (24, 4), (28, 1)] | 9 => [(16, 8), (24, 2), (26, 1), (32, 2), (40, 8)]
  | 10 => [(16, 8), (24, 2), (26, 1), (27, 1), (28, 1), (32, 8), (40, 8)] | _ => []

/-- What must be 0 in a packet is 0 (R449). -/
def zerosHold (b : Nat) : Prop :=
  pkt b 1 1 < 2 ∧ pkt b 2 6 = 0 ∧ (pkt b 1 1 = 0 → pkt b 8 8 = 0) ∧ (pkt b 0 1 = 3 → pkt b 34 1 < 2)
    ∧ ∀ k, 16 ≤ k → k < 64 → (∀ f ∈ bodyOf (pkt b 0 1), k < f.1 ∨ f.1 + f.2 ≤ k) → pkt b k 1 = 0

/-- Every value of a packet is in its range (R449). -/
def rangesHold (s : State) (b : Nat) : Prop :=
  (pkt b 1 1 % 2 = 1 → pkt b 8 8 % 8 = 0) ∧ (pkt b 0 1 = 2 → pkt b 34 1 ≤ 1)
    ∧ (pkt b 0 1 = 4 ∨ pkt b 0 1 = 5 → pkt b 16 2 < 4096) ∧ (pkt b 0 1 = 7 → pkt b 32 8 < 2 ^ 40 ∧ pkt b 42 1 < 8)
    ∧ (pkt b 0 1 = 8 → 1 ≤ pkt b 24 4 ∧ pkt b 24 4 ≤ 65536 ∧ (s.wq (pkt b 28 1)).enable = true)
    ∧ (pkt b 0 1 = 9 → pkt b 16 8 % 128 = 0 ∧ pkt b 26 1 ≤ 1 ∧ pkt b 32 2 < 4096)
    ∧ (pkt b 0 1 = 10 → pkt b 16 8 % 8 = 0 ∧ pkt b 26 1 ≤ 5)

/-- The queue's head packet is journaled in a state with a status, and Head moves past it. -/
def Journaled (s t : State) (q b st status : Nat) (extra : List Byte) : Prop :=
  t.mem = s.mem ∧ (t.queue q).head = ((s.queue q).head + 1) % 2 ^ 24 ∧ (t.queue q).tail = (s.queue q).tail
    ∧ t.ctl.jnext = s.ctl.jnext + 1 ∧ Event.journalAccept s.ctl.jnext ∈ t.agenda
    ∧ ∃ e, AMap.find? t.ctl.journal s.ctl.jnext = some e ∧ e.type = pkt b 0 1 ∧ e.state = st ∧ e.status = status ∧ e.queue = q
        ∧ e.position = (s.queue q).head ∧ e.body = b ∧ e.extra = extra ∧ e.accepted = false
        ∧ e.completion = if pkt b 1 1 % 2 = 1 ∧ st ≠ 6 then some (pkt b 8 8) else none

/-- Entry j is over with a status: its completion follows. -/
def Ended (s t : State) (j status : Nat) : Prop :=
  Event.packetComplete j ∈ t.agenda ∧ ∃ e, AMap.find? t.ctl.journal j = some e ∧ e.ended = true ∧ e.status = status
    ∧ (AMap.find? s.ctl.journal j).map (·.state) = some e.state

/-- Entry j is handed off: its state is 2, in memory too (R457). -/
def HandedOff (s t : State) (j : Nat) (e : JEntry) : Prop :=
  (AMap.find? t.ctl.journal j).map (·.state) = some 2 ∧ MemOutside s t (entryAt s j + 32) 32
    ∧ Memory.readLE t.mem (entryAt s j + 32) 32 = secondHalf e 2 s.clock ∧ AMap.has t.ctl.taken j = true

/-- What comparing gives in a PRED (R281, R455). -/
def predTrue (c x v : Nat) : Bool :=
  [decide (x = v), decide (x ≠ v), decide (x < v), decide (x ≤ v), decide (v < x), decide (v ≤ x)].getD c false

/-! ## Streams, registers, debug: the vocabulary -/

/-- Fields of a stream write (R464): sequence, count, byte offset. -/
abbrev seqOf (w : Nat) : Nat := w % 2 ^ 32
abbrev countOf (w : Nat) : Nat := w / 2 ^ 32 % 2 ^ 3
abbrev offsetOf (w : Nat) : Nat := w / 2 ^ 35 % 2 ^ 29 * 8

/-- A stream write that the aperture may hold: enabled, whole, of 1 to 7 words inside the span (R464, R465). -/
def StreamTakes (x : Stream) (whole : Bool) (w : Nat) : Prop :=
  x.enable = true ∧ whole = true ∧ countOf w ≠ 0 ∧ offsetOf w + 8 * countOf w ≤ 2 ^ (20 + x.span)

/-- d of R465. -/
def streamAhead (x : Stream) (w : Nat) : Nat := (seqOf w + 2 ^ 32 - x.expected) % 2 ^ 32

/-- One more, up to 2^32 - 1. -/
def oneMore (n : Nat) : Nat := min (n + 1) 0xFFFFFFFF

/-- Nothing but stream k differs. -/
def OnlyStream (s t : State) (k : Nat) (x : Stream) : Prop := t.mem = s.mem ∧ t.cores = s.cores ∧ t.dies = s.dies ∧ t.stream k = x

/-- A ring of a core or of the deadlock report that writes, with room for n bytes before it wraps, whose homes take them (R477). -/
def RingRoom (s : State) (r : Ring) (n : Nat) : Prop :=
  r.ok s = true ∧ r.head % r.size + n ≤ r.size ∧ NoInjector s ∧ ∀ l ∈ linesOf (r.base + r.head % r.size) n, HomeServes s l

end Sys2Proof.Claims

open Sys2Proof Sys2Proof.Machine Sys2Proof.Claims

/-- The worked encodings of chapter 11 and 12: the words written out there decode to the instructions they stand
for; the all-zero word stands for none (R288). -/
def Obligations.WorkedEncodingsDecode : Prop :=
  decode 0xA094C10080401044 0 = .ok (.vld ⟨⟨true, 5⟩, 3, 0, 0, 4, 2, 1, .b32, .glob, .dev, .acq, .vec⟩)
    ∧ decode 0x200001BFFFFEC200 0 = .ok (.bnz 6 0xFFFFFB)
    ∧ decode 0x600001C1C0000018 0x186A0 = .ok (.vaddImm ⟨⟨false, 0⟩, 7, 7, .tail 100000, .i32, .rn⟩)
    ∧ decode 0x0200010102000050 0 = .ok (.sadd ⟨.i64, 4, 4, 8, 0⟩)
    ∧ decode 0x140000C1C000FA12 0 = .ok (.scmpImm .lt true ⟨3, 7, 1000⟩)
    ∧ decode 0x0100000000000000 0 = .ok .nop
    ∧ decode 0 0 = .error .unassignedMajor

/-- Decoding the bytes of a well-formed instruction, whatever follows them, gives the instruction back, and the
rest. -/
def Obligations.DecodeOfEncode : Prop :=
  ∀ (i : Instr) (rest : List Byte), wellFormed i = true → i.isInstruction = true →
    decodeBytes (encodeBytes i ++ rest) = .ok (i, rest)

/-- A word that decodes is the encoding of what it decodes to: no bit of it is dropped. -/
def Obligations.DecodeDropsNoBit : Prop :=
  ∀ (w t : Nat) (i : Instr), w < 2 ^ 64 → t < 2 ^ 64 → (hasTail w = false → t = 0) → decode w t = .ok i →
    encode i = if hasTail w then [w, t] else [w]

/-- A step runs the decoded instruction: the holder whose turn it is fetches the word at its PC, and the tail word 8
bytes on where the head has one; a word that decodes is executed, one that does not takes the illegal-encoding trap
with the head word as its value. -/
def Obligations.StepRunsDecodedInstruction : Prop :=
  ∀ (s s0 s1 : State) (g q w : Nat) (h : Holder), AtInstruction s g q h s0 → FetchesWord s0 g h h.pc s1 w →
    (hasTail w = false → ∀ i, decode w 0 = .ok i → step s = exec i s1)
    ∧ (hasTail w = false → ∀ e, decode w 0 = .error e → step s = .next (s1.trapHere g q h 0 0 w))
    ∧ (hasTail w = true → ∀ s2 t, FetchesWord s1 g h (h.pc + 8) s2 t →
        (∀ i, decode w t = .ok i → step s = exec i s2)
        ∧ ∀ e, decode w t = .error e → step s = .next (s2.trapHere g q h 0 0 w))

/-- What package cold reset leaves, as far as the spec states it: no die online (R505), every slot free, the clock
at 0 (R243), every handler address 0 (R243), event counters 0 (R453), the launch window 0 and each expected seal 1
(R441), every INSEQ 1 (R445), every semaphore free (R446). -/
def Obligations.ResetState : Prop :=
  State.reset.clock = 0
    ∧ (∀ d, (State.reset.die d).online = false)
    ∧ (∀ g q, State.reset.holder? g q = none)
    ∧ (∀ g, (State.reset.core g).tbase = 0)
    ∧ (∀ e, AMap.getD State.reset.ctl.events e 0 = 0)
    ∧ (∀ a, Memory.read State.reset.ctl.window a = 0#8)
    ∧ (∀ k, (AMap.getD State.reset.ctl.lw k {}).expected = 1 ∧ (AMap.getD State.reset.ctl.lw k {}).pending = false)
    ∧ (∀ p, (AMap.getD State.reset.ctl.ports p {}).inseq = 1)
    ∧ (∀ k, AMap.has State.reset.ctl.sems k = false)
    ∧ State.reset.grids = [] ∧ State.reset.commands = []

/-- The memories are in their canonical form after reset. -/
def Obligations.ResetMemoryCanonical : Prop := State.reset.memOk

/-- An invariant of every step, from any state: the memories of the package (device memory, the launch window, every
scratchpad) stay in their canonical form. It rests on the model's choice of one listed form (LOG 1). -/
def Obligations.StepKeepsMemoryCanonical : Prop := ∀ (s t : State), s.memOk → step s = .next t → t.memOk

/-- A byte written is the byte read there, every other byte reads as before, and the canonical form is kept. The n
low bytes of a value stored little-endian (R5) read back as that value, and no other byte changes. -/
def Obligations.MemoryReadsBackWrites : Prop :=
  (∀ (m : Memory) (a : Nat) (b : Byte), Memory.wf m = true →
      Memory.wf (Memory.write m a b) = true
      ∧ Memory.read (Memory.write m a b) a = b
      ∧ ∀ x, x ≠ a → Memory.read (Memory.write m a b) x = Memory.read m x)
  ∧ (∀ (m : Memory) (a n v : Nat), Memory.wf m = true →
      Memory.readLE (Memory.writeLE m a n v) a n = v % 2 ^ (8 * n)
      ∧ ∀ x, (x < a ∨ a + n ≤ x) → Memory.read (Memory.writeLE m a n v) x = Memory.read m x)

/-- A trap at an instruction of a holder in user mode (R424, R427): `%tcause`, `%tval` and `%tpc` are set, `%mode`
becomes 1, the handler runs from `%tbase`, registers stay; the trap frame has the cause word, the value, the PC, the
slot, the core and the ASID in the fields of R427. -/
def Obligations.TrapEntersHandler : Prop :=
  ∀ (s : State) (g q : Nat) (h : Holder) (cause kind tval : Nat), MayTrap s g q h → cause < 14 →
    TakesTrap s (s.trapHere g q h cause kind tval) g q h cause tval
    ∧ ∃ f, AMap.find? ((s.trapHere g q h cause kind tval).core g).trapFrames q = some f
      ∧ field f 992 8 = cause ∧ field f 928 64 = tval % 2 ^ 64 ∧ field f 872 56 = h.pc % 2 ^ 56
      ∧ field f 808 5 = q % 32 ∧ field f 800 8 = g % 256 ∧ field f 769 16 = h.asid % 2 ^ 16

/-- Without a handler (`%tbase` 0) the trap is escalated at once: the holder waits for a disposition, the recovery
firmware receives the frame, and the mode stays (R424). A trap raised in supervisor mode is escalated with In
handler set, and the frame of the trap being handled is kept beside it (R426). -/
def Obligations.TrapsEscalate : Prop :=
  (∀ (s : State) (g q : Nat) (h : Holder) (cause kind tval : Nat),
      h.mode = false → trapReady s g q h = true → s.cancelled h = false → (s.core g).tbase = 0 → cause < 14 →
      ∃ h' f, (s.trapHere g q h cause kind tval).holder? g q = some h'
        ∧ h'.status = .awaiting ∧ h'.mode = false ∧ h'.pc = h.pc
        ∧ (s.trapHere g q h cause kind tval).ctl.reports = s.ctl.reports ++ [f] ∧ field f 992 8 = cause ∧ bitN f 1017 = false)
  ∧ (∀ (s : State) (g q : Nat) (h : Holder) (cause kind tval : Nat),
      h.mode = true → trapReady s g q h = true → s.cancelled h = false → cause < 14 →
      ∃ h' f, (s.trapHere g q h cause kind tval).holder? g q = some h'
        ∧ h'.status = .awaiting ∧ h'.mode = true ∧ h'.trapFrame = h.trapFrame ∧ h'.escFrame = f
        ∧ (s.trapHere g q h cause kind tval).ctl.reports = s.ctl.reports ++ [f] ∧ field f 992 8 = cause ∧ bitN f 1017 = true)

/-- Failure 6 of R282: `tret`, `tesc`, `halt`, `tlbinv` and `own` in user mode, a read of a supervisor register and
a write of any special register but `%fflags`, take the illegal-encoding trap with the head word as its value.
Failure 7 of R282: an instruction that names a vector register outside the holder's frame takes the illegal-register
trap, when no earlier failure decides. Only the instructions of R425 decode in single-lane mode; any other is
escalated as an illegal encoding (R426). -/
def Obligations.IssueChecksTrap : Prop :=
  (∀ (s : State) (g q : Nat) (h : Holder) (i : Instr),
      (i = .tret ∨ i = .tesc ∨ i = .halt ∨ (∃ d a b c, i = .tlbinv d a b c) ∨ (∃ d a b c, i = .own d a b c)
        ∨ (∃ d n, i = .sget d n ∧ (n = 0x20 ∨ n = 0x22 ∨ n = 0x24 ∨ n = 0x26)) ∨ (∃ a n, i = .sset a n ∧ n ≠ 0x12)) →
      s.cur = some (g, q) → s.holder? g q = some h → MayTrap s g q h →
      Reaches (exec i s) fun t => TakesTrap s t g q h 0 ((encode i).headD 0))
  ∧ (∀ (s : State) (g q : Nat) (h : Holder) (i : Instr) (o : Opnd), i.isInstruction = true →
      s.cur = some (g, q) → s.holder? g q = some h → MayTrap s g q h →
      sysIllegal i = false → privileged i = false → o ∈ operands i → o.file = .v → 0 < o.cnt → h.bound < o.n + o.cnt →
      ∃ n, (∃ x ∈ operands i, x.n = n) ∧ Reaches (exec i s) fun t => TakesTrap s t g q h 1 n)
  ∧ (∀ (s : State) (g q : Nat) (h : Holder) (i : Instr), i.isInstruction = true → handlerOk i = false →
      s.cur = some (g, q) → s.holder? g q = some h → h.mode = true → trapReady s g q h = true → s.cancelled h = false →
      Reaches (exec i s) fun t => ∃ h' f, t.holder? g q = some h' ∧ h'.status = .awaiting
        ∧ t.ctl.reports = s.ctl.reports ++ [f] ∧ field f 992 8 = 0 ∧ bitN f 1017 = true)

/-- R286: an instruction that names a register which a long-latency instruction with an open window writes raises
the lookahead violation before it performs: it stays pending with the long-latency instruction's PC until the
windows close, and no register changes. R284: after L further instructions have issued behind a window, the next one
waits until the long-latency instruction completes; a register written by an instruction that a counter tracks is
waited for, not trapped on (R286). -/
def Obligations.WindowsHoldBack : Prop :=
  (∀ (s : State) (g q : Nat) (h : Holder) (i : Instr) (l : LongOp), i.isInstruction = true →
      s.cur = some (g, q) → s.holder? g q = some h → h.mode = false → decodeCheck h i = .go →
      h.ll = [l] → l.window.isSome = true → l.window ≠ some 0 →
      (∃ x ∈ operands l.instr, x.write = true ∧ ∃ o ∈ operands i, x.file = o.file ∧ x.n < o.n + o.cnt ∧ o.n < x.n + x.cnt) →
      Reaches (exec i s) fun t => t.mem = s.mem ∧ ∃ h' p, t.holder? g q = some h' ∧ h'.pend = h.pend ++ [p]
        ∧ p.cause = 2 ∧ p.tval = l.pc ∧ p.pc = h.pc ∧ p.tpc = h.pc
        ∧ h'.sregs = h.sregs ∧ h'.vregs = h.vregs ∧ h'.preds = h.preds ∧ h'.pc = h.pc ∧ h'.ll = h.ll)
  ∧ (∀ (s : State) (g q : Nat) (h : Holder) (i : Instr) (l : LongOp), i.isInstruction = true →
      s.cur = some (g, q) → s.holder? g q = some h → l ∈ h.ll → l.window = some 0 →
      exec i s = .next (s.putHolder g q { h with status := .blocked .window }))

/-- R305, R306, R307: the value of D after every register-operand scalar instruction, on every register and in every
holder. R308: the value of D after the sixteen instructions with a 24-bit immediate. -/
def Obligations.ScalarInstructionsGiveD : Prop :=
  (∀ (s : State) (g q : Nat) (h : Holder) (i : Instr) (d : Nat) (w : Bool), Issues i s g q h → wellFormed i = true →
      (arithDest i = some (d, w) → exec i s = .next (afterScalar s g q h i d w (arithValue h i)))
      ∧ (bitDest i = some (d, w) → ∃ v, bitGives h i v ∧ exec i s = .next (afterScalar s g q h i d w v)))
  ∧ (∀ (s : State) (g q : Nat) (h : Holder) (i : Instr) (d v : Nat),
      Issues i s g q h → wellFormed i = true → immValue h i = some (d, v) →
      exec i s = .next (afterScalar s g q h i d false v))

/-- The frame of the scalar instructions and of `nop`: of the whole package only the holder and its core's trace
change; of the holder only D (with its future tag), the place in the program and, where D is one of s61 to s63, the
mask. -/
def Obligations.ScalarFrame : Prop :=
  ∀ (s t : State) (g q : Nat) (h : Holder) (i : Instr) (d : Nat) (w : Bool),
    Issues i s g q h → (scalarDest i = some (d, w) ∨ (i = .nop ∧ d = 64 ∧ w = false)) → exec i s = .next t →
    OnlyHolder s t g q ∧ (∀ a, Memory.read t.mem a = Memory.read s.mem a)
    ∧ ∃ h', t.holder? g q = some h'
      ∧ { atPlaceOf h' h with
            sregs := h.sregs, tags := h.tags, landed := h.landed, mask := h.mask, maskWrites := h.maskWrites } = h
      ∧ (d + (if w then 2 else 1) ≤ 61 → h'.mask = h.mask ∧ h'.maskWrites = h.maskWrites)
      ∧ ∀ n, n ≠ d → (w = true → n ≠ d + 1) → (n < 61 ∨ d + (if w then 2 else 1) ≤ 61) → h'.readS n = h.readS n

/-- R234, R235, R181: s61 to s63 read as the execute mask, 32 lanes each, and as all ones in a range context; a
write in user mode makes the mask the value written, ANDed with the lane set of the path and with the live lanes. -/
def Obligations.ExecuteMaskIsS61ToS63 : Prop :=
  ∀ (s : State) (g q : Nat) (h : Holder) (d a : Nat), Issues (.smov ⟨.b32, d, a, 0, 0⟩) s g q h →
    Reaches (exec (.smov ⟨.b32, d, a, 0, 0⟩) s) fun t => ∃ h', t.holder? g q = some h'
      ∧ (∀ b j, a = 61 + b → b < 3 → j < 32 → d < 61 →
          (h'.readS d).getLsbD j = if h.kind = .range then true else h.mask.getLsbD (32 * b + j))
      ∧ (∀ b L, d = 61 + b → b < 3 → L < 96 → h.kind ≠ .range → h.mode = false →
          h'.mask.getLsbD L = ((if L / 32 = b then (h.readS a).getLsbD (L % 32) else h.mask.getLsbD L)
            && h.path.getLsbD L && h.live.getLsbD L))

/-- R309 with R270 and R280: where `bra`, `bz`, `bnz`, `brx` and `nop` go on, in every holder and whatever the mask;
no register, predicate or byte of memory changes. R270: a `brx`, `callx` or `ret` whose target, and a `spawn` whose
entry, is no multiple of 8 takes the illegal-encoding trap at the instruction, and the jump is not taken. -/
def Obligations.BranchesMoveOrTrap : Prop :=
  (∀ (s : State) (g q : Nat) (h : Holder) (i : Instr) (p : Nat),
      Issues i s g q h → wellFormed i = true → h.replaying = none → branchPc h i = some p →
      Reaches (exec i s) fun t => OnlyHolder s t g q ∧ t.mem = s.mem
        ∧ ∃ h', t.holder? g q = some h' ∧ h'.pc = p ∧ h'.status = .ready ∧ atPlaceOf h' h = h)
  ∧ (∀ (s : State) (g q : Nat) (h : Holder) (i : Instr) (p : Nat), Issues i s g q h → MayTrap s g q h → p % 8 ≠ 0 →
      ((∃ a, i = .brx a ∧ p = pairOf h a) ∨ (∃ a k, i = .callx a k ∧ p = pairOf h a)
        ∨ (i = .ret ∧ (h.getFrame h.frame).depth ≠ 0 ∧ p = (h.getFrame h.frame).ret)
        ∨ (∃ gd d a n, i = .spawn gd d a n ∧ p = pairOf h a)) →
      Reaches (exec i s) fun t => TakesTrap s t g q h 0 ((encode i).headD 0))

/-- R311: `vbr` of a dense group. No lane of the mask true, or an empty mask: it falls through. Every lane true: the
path moves to the target. Else the lanes that are not taken, and those masked off, are pushed as a ready entry at PC
+ 8, and the taken lanes go on at the target as lane set and mask. R191, R192: `vbr` of a range context never
pushes. A uniform predicate moves the whole context; a threshold inside the range cuts it there, the lower part
staying in its slot and the upper taking a free one. R312: `vjoin` of a dense group whose top entry holds a live
lane, or whose stack is empty; in a range context it has no effect (R192). -/
def Obligations.SplitStackDivergesAndJoins : Prop :=
  (∀ (s : State) (g q : Nat) (h : Holder) (neg : Bool) (p off : Nat),
      Issues (.vbr neg p off) s g q h → wellFormed (.vbr neg p off) = true → h.kind ≠ .range → h.replaying = none →
      Unspilled h → h.stack.length < 32 →
      Reaches (exec (.vbr neg p off) s) fun t => t.mem = s.mem ∧ ∃ h', t.holder? g q = some h'
        ∧ h'.sregs = h.sregs ∧ h'.vregs = h.vregs ∧ h'.preds = h.preds ∧ h'.live = h.live ∧ h'.frame = h.frame
        ∧ ((∀ L < 96, h.mask.getLsbD L = true → trueLane h p neg L = false) →
            h'.pc = (h.pc + 8) % 2 ^ 64 ∧ h'.mask = h.mask ∧ h'.path = h.path ∧ h'.stack = h.stack)
        ∧ (h.mask ≠ 0#96 → (∀ L < 96, h.mask.getLsbD L = true → trueLane h p neg L = true) →
            h'.pc = branchTarget h.pc off ∧ h'.mask = h.mask ∧ h'.path = h.path ∧ h'.stack = h.stack)
        ∧ ((∃ L < 96, h.mask.getLsbD L = true ∧ trueLane h p neg L = true) →
            (∃ L < 96, h.mask.getLsbD L = true ∧ trueLane h p neg L = false) →
            h'.pc = branchTarget h.pc off ∧ h'.path = h'.mask
            ∧ (∀ L < 96, h'.mask.getLsbD L = (h.mask.getLsbD L && trueLane h p neg L))
            ∧ ∃ e, h'.stack = e :: h.stack ∧ e.pc = (h.pc + 8) % 2 ^ 64 ∧ e.waiting = false ∧ e.frame = h.frame
              ∧ e.depth = (h.getFrame h.frame).depth
              ∧ ∀ L < 96, e.lanes.getLsbD L = ((h.mask.getLsbD L && !trueLane h p neg L)
                  || (h.path.getLsbD L && !h.mask.getLsbD L))))
  ∧ (∀ (s : State) (g q : Nat) (h : Holder) (neg : Bool) (p off : Nat),
      Issues (.vbr neg p off) s g q h → wellFormed (.vbr neg p off) = true → h.kind = .range → h.replaying = none →
      (∀ b, h.readP p = .uni b → Reaches (exec (.vbr neg p off) s) fun t => ∃ h', t.holder? g q = some h'
          ∧ h'.pc = (if b != neg then branchTarget h.pc off else (h.pc + 8) % 2 ^ 64) ∧ atPlaceOf h' h = h)
      ∧ (∀ c k j win, h.readP p = .thr c → h.lo < c → c < h.hi → trapReady s g q h = true → h.outParts = [] →
          s.findSlot g h.w = some (k, j, win) → (k, j) ≠ (g, q) →
          Reaches (exec (.vbr neg p off) s) fun t => t.mem = s.mem ∧ ∃ low high,
            t.holder? g q = some low ∧ t.holder? k j = some high
            ∧ low.lo = h.lo ∧ low.hi = c ∧ high.lo = c ∧ high.hi = h.hi
            ∧ low.stack = h.stack ∧ high.stack = h.stack ∧ low.vregs = h.vregs ∧ high.vregs = h.vregs
            ∧ low.pc = (if neg then (h.pc + 8) % 2 ^ 64 else branchTarget h.pc off)
            ∧ high.pc = (if neg then branchTarget h.pc off else (h.pc + 8) % 2 ^ 64)))
  ∧ (∀ (s : State) (g q : Nat) (h : Holder), Issues .vjoin s g q h → Unspilled h → h.replaying = none →
      (h.kind = .range → exec .vjoin s = .next (s.retire g q .vjoin h))
      ∧ (h.kind ≠ .range → h.stack = [] → exec .vjoin s = .next (s.issued g q (h.advance 8)))
      ∧ (∀ e rest, h.kind ≠ .range → h.stack = e :: rest → e.lanes &&& h.live ≠ 0#96 →
          (e.waiting = true ∧ e.pc = h.pc ∧ e.frame = h.frame →
            Reaches (exec .vjoin s) fun t => t.mem = s.mem ∧ ∃ h', t.holder? g q = some h' ∧ h'.stack = rest
              ∧ h'.pc = (h.pc + 8) % 2 ^ 64 ∧ h'.mask = h'.path ∧ h'.path = (h.path ||| e.lanes) &&& h.live
              ∧ h'.sregs = h.sregs ∧ h'.vregs = h.vregs ∧ h'.preds = h.preds ∧ h'.frame = h.frame)
          ∧ (¬(e.waiting = true ∧ e.pc = h.pc ∧ e.frame = h.frame) → ∀ h0 s1 h1,
            h0 = { h with
              stack := (if h.path &&& h.live ≠ 0#96 then
                [⟨h.pc, h.path, (h.getFrame h.frame).depth, h.frame, true⟩] else []) ++ rest
              pc := (if e.waiting then e.pc + 8 else e.pc) % 2 ^ 64
              path := e.lanes &&& h.live
              mask := e.lanes &&& h.live } →
            s.takeFrame g q h0 e.frame = .ok s1 h1 →
            Reaches (exec .vjoin s) fun t => ∃ h', t.holder? g q = some h' ∧ h'.stack = h0.stack
              ∧ h'.pc = h0.pc ∧ h'.mask = h0.mask ∧ h'.path = h0.path ∧ h'.sregs = h.sregs ∧ h'.preds = h.preds
              ∧ h'.frame = e.frame)))

/-- R314: `call` and `callx` with k granules, k at most W/8: a frame record with the return address PC + 8, the
caller as parent, its depth one more and k granules at successive ring positions from the caller's last one; the
path goes on at the target in the new frame. R314: a `call` or `callx` of more granules than the window has takes
the illegal-register trap. R315: `ret` moves the whole path to the parent frame at the return address; at depth 0 it
acts as `exit`. -/
def Obligations.CallsAndReturns : Prop :=
  (∀ (s s1 : State) (g q : Nat) (h h1 : Holder) (i : Instr) (target k f : Nat),
      Issues i s g q h → wellFormed i = true → Unspilled h →
      ((∃ off, i = .call off k ∧ target = branchTarget h.pc off)
        ∨ (∃ a, i = .callx a k ∧ target = pairOf h a ∧ pairOf h a % 8 = 0)) →
      k ≤ h.w / 8 → h.freeFrame = some f →
      s.enterFrame g q { h with frames := AMap.set h.frames f (h.callFrame f k ((h.pc + 8) % 2 ^ 64)) } f = .ok s1 h1 →
      Reaches (exec i s) fun t => ∃ h' x, t.holder? g q = some h' ∧ h'.pc = target ∧ h'.frame = f
        ∧ h'.sregs = h.sregs ∧ h'.preds = h.preds ∧ h'.mask = h.mask ∧ h'.path = h.path ∧ h'.stack = h.stack
        ∧ AMap.find? h'.frames f = some x ∧ x.ret = (h.pc + 8) % 2 ^ 64 ∧ x.parent = h.frame
        ∧ x.depth = (h.getFrame h.frame).depth + 1
        ∧ ((h.getFrame h.frame).grans ≠ [] → 0 < k → x.grans.length = k
          ∧ x.grans.head? = (h.getFrame h.frame).grans.getLast?
          ∧ ∀ j < k, 0 < j → x.pos.getD j 0 = ((h.getFrame h.frame).pos.getLast?.getD 0 + j) % (h.w / 8)))
  ∧ (∀ (s : State) (g q : Nat) (h : Holder) (i : Instr) (k : Nat), Issues i s g q h → MayTrap s g q h →
      ((∃ off, i = .call off k) ∨ (∃ a, i = .callx a k ∧ pairOf h a % 8 = 0)) → h.w / 8 < k →
      Reaches (exec i s) fun t => TakesTrap s t g q h 1 (8 * k))
  ∧ (∀ (s : State) (g q : Nat) (h : Holder), Issues .ret s g q h →
      ((h.getFrame h.frame).depth = 0 → Issues .exit s g q h → exec .ret s = exec .exit s)
      ∧ (∀ s1 h1, (h.getFrame h.frame).depth ≠ 0 → (h.getFrame h.frame).ret % 8 = 0 → (h.getFrame h.frame).ret < 2 ^ 64 →
          s.takeFrame g q h (h.getFrame h.frame).parent = .ok s1 h1 →
          Reaches (exec .ret s) fun t => ∃ h', t.holder? g q = some h' ∧ h'.pc = (h.getFrame h.frame).ret
            ∧ h'.frame = (h.getFrame h.frame).parent ∧ h'.sregs = h.sregs ∧ h'.preds = h.preds
            ∧ h'.mask = h.mask ∧ h'.path = h.path ∧ h'.live = h.live))

/-- R313: `exit` ends the items of the active lanes, which are counted toward their team (R180) and leave the lane
set and every split-stack entry; a path that keeps a live lane goes on at PC + 8 with an empty mask; when nothing is
left, and in a range context, the holder ends and its slot is free. R319, R218: `yield` sets the slot's age and its
watchdog count to 0 and goes on; a context of a cancelled grid stops there. R320: `dwait dcK` goes on when the
counter is 0, else the holder is blocked until it is, with nothing else changed. -/
def Obligations.ExitYieldAndDwait : Prop :=
  (∀ (s : State) (g q : Nat) (h : Holder) (gr : Grid), Issues .exit s g q h → trapReady s g q h = true →
      ReleasesHere s g q → h.replaying = none → needsRecord s g h (laneCount h.mask) = false → AMap.find? s.grids h.grid = some gr →
      AMap.sorted (s.core g).slots = true →
      (h.kind ≠ .range → h.mask ≠ 0#96 → (h.path &&& ~~~h.mask) &&& (h.live &&& ~~~h.mask) ≠ 0#96 →
        Reaches (exec .exit s) fun t =>
          AMap.getD (t.grid h.grid).teams h.team 0 = AMap.getD gr.teams h.team 0 + laneCount h.mask
          ∧ ∃ h', t.holder? g q = some h' ∧ h'.pc = (h.pc + 8) % 2 ^ 64 ∧ h'.mask = 0#96
            ∧ h'.live = h.live &&& ~~~h.mask ∧ h'.path = h.path &&& ~~~h.mask
            ∧ h'.stack = h.stack.map (fun e => { e with lanes := e.lanes &&& ~~~h.mask }))
      ∧ (h.kind ≠ .range → h.mask = 0#96 → exec .exit s = .next (s.issued g q (h.advance 8)))
      ∧ (h.kind ≠ .range → h.mask ≠ 0#96 → (h.path &&& ~~~h.mask) &&& (h.live &&& ~~~h.mask) = 0#96 → h.stack = [] →
        h.spilled = [] → Reaches (exec .exit s) fun t => t.holder? g q = none)
      ∧ (h.kind = .range → Reaches (exec .exit s) fun t => t.holder? g q = none))
  ∧ (∀ (s : State) (g q : Nat) (h : Holder), Issues .yield s g q h → h.replaying = none →
      (s.cancelled h = false → Reaches (exec .yield s) fun t => t.mem = s.mem ∧ ∃ h', t.holder? g q = some h'
        ∧ h'.age = 0 ∧ h'.watchdog = 0 ∧ h'.pc = (h.pc + 8) % 2 ^ 64
        ∧ h'.sregs = h.sregs ∧ h'.vregs = h.vregs ∧ h'.preds = h.preds ∧ h'.mask = h.mask)
      ∧ (s.cancelled h = true → trapReady s g q h = true → AMap.sorted (s.core g).slots = true →
          Reaches (exec .yield s) fun t => t.holder? g q = none))
  ∧ (∀ (s : State) (g q k : Nat) (h : Holder), Issues (.dwait k) s g q h → h.replaying = none →
      (AMap.getD h.dcs k 0 = 0 → Reaches (exec (.dwait k) s) fun t => t.mem = s.mem ∧ ∃ h', t.holder? g q = some h'
        ∧ h'.pc = (h.pc + 8) % 2 ^ 64 ∧ h'.status = .ready ∧ h'.dcs = h.dcs ∧ h'.sregs = h.sregs ∧ h'.vregs = h.vregs)
      ∧ (AMap.getD h.dcs k 0 ≠ 0 → exec (.dwait k) s = .next (s.putHolder g q { h with status := .blocked (.counter k) })))

/-- R195, R321: a range context that unfolds becomes, in its own slot, the dense group of its lowest members: the
team of lo, the lanes whose members lie in the range, scalars and vector registers as they were, at the same PC. A
group goes on. R322: `rinfo` writes lo and hi of a range context; of a group, the lowest linear index of its live
lanes and one more than the highest. R203, R323: `part gN, k` sets the code of gN and nothing else. -/
def Obligations.UnfoldRinfoAndPart : Prop :=
  (∀ (s : State) (g q : Nat) (h : Holder), Issues .unfold s g q h →
      (h.kind ≠ .range → exec .unfold s = .next (s.retire g q .unfold h))
      ∧ (∀ s1, h.kind = .range → h.mode = false → h.lo < h.hi → trapReady s g q h = true → s.unfold g q h = .ok s1 →
          exec .unfold s = .next (s1.endAway g) ∧ ∃ h', s1.holder? g q = some h' ∧ h'.kind = .group ∧ h'.pc = h.pc
            ∧ h'.team = h.lo / s.tsize h ∧ h'.group = h.lo % s.tsize h / 96
            ∧ h'.sregs = h.sregs ∧ h'.vregs = h.vregs ∧ h'.gcodes = h.gcodes ∧ h'.dcs = h.dcs ∧ h'.path = h'.live
            ∧ ∀ L < 96, h'.live.getLsbD L = (decide (96 * h'.group + L < s.tsize h)
                && decide (h.lo ≤ h'.team * s.tsize h + 96 * h'.group + L)
                && decide (h'.team * s.tsize h + 96 * h'.group + L < h.hi))))
  ∧ (∀ (s : State) (g q d : Nat) (h : Holder), Issues (.rinfo d) s g q h → h.lo < 2 ^ 64 → h.hi < 2 ^ 64 →
      Reaches (exec (.rinfo d) s) fun t => t.mem = s.mem ∧ ∃ h', t.holder? g q = some h'
        ∧ h'.vregs = h.vregs ∧ h'.preds = h.preds ∧ (∀ n, n < d ∨ d + 4 ≤ n → n < 61 → h'.readS n = h.readS n)
        ∧ (h.kind = .range → pairOf h' d = h.lo ∧ pairOf h' (d + 2) = h.hi)
        ∧ (h.kind ≠ .range → h.live = 0#96 → pairOf h' d = 0 ∧ pairOf h' (d + 2) = 0)
        ∧ (h.kind ≠ .range → (∀ L < 96, h.member (s.tsize h) L < 2 ^ 63) → ∀ L < 96, h.live.getLsbD L = true →
            pairOf h' d ≤ h.member (s.tsize h) L ∧ h.member (s.tsize h) L < pairOf h' (d + 2)
              ∧ (∃ k < 96, h.live.getLsbD k = true ∧ pairOf h' d = h.member (s.tsize h) k)
              ∧ ∃ k < 96, h.live.getLsbD k = true ∧ pairOf h' (d + 2) = h.member (s.tsize h) k + 1))
  ∧ (∀ (s : State) (g q n code : Nat) (h : Holder), Issues (.part n code) s g q h →
      Reaches (exec (.part n code) s) fun t => OnlyHolder s t g q ∧ t.mem = s.mem ∧ ∃ h', t.holder? g q = some h'
        ∧ AMap.getD h'.gcodes n 0 = code ∧ (∀ m, m ≠ n → AMap.getD h'.gcodes m 0 = AMap.getD h.gcodes m 0)
        ∧ { atPlaceOf h' h with gcodes := h.gcodes } = h)

/-- R198, R199, R325: a range context at `fold` keeps the named vector registers and predicates; every other is u(0)
or false. With no hold it goes on at once; else it waits with the deadline now + H. R198: a dense group that a
condition of R198 keeps from folding (its mask is not its live lanes, a path is on the stack, or a future is
pending) executes `fold` as `nop`. R200, R324: the active lanes of a dense group that spawns leave it with their
item index and carried values for the bin of (entry, team), and the path goes on with its other lanes; with no
active lane nothing leaves. -/
def Obligations.FoldAndSpawn : Prop :=
  (∀ (s : State) (g q d n hold ps : Nat) (h : Holder), Issues (.fold d n hold ps) s g q h →
      wellFormed (.fold d n hold ps) = true → h.kind = .range → trapReady s g q h = true → h.replaying = none →
      (∀ a b, a < b → b < n → h.vkey (d + a) ≠ h.vkey (d + b)) →
      Reaches (exec (.fold d n hold ps) s) fun t => t.mem = s.mem ∧ ∃ h', t.holder? g q = some h'
        ∧ (∀ j < n, h'.readV (d + j) = h.readV (d + j))
        ∧ (∀ k, (∀ j < n, h.vkey k ≠ h.vkey (d + j)) → h'.readV k = .uni 0#32)
        ∧ (∀ p < 24, h'.readP p = if bitN ps p ∨ p = 0 then h.readP p else .uni false)
        ∧ h'.sregs = h.sregs ∧ h'.lo = h.lo ∧ h'.hi = h.hi
        ∧ (hold = 0 → h'.pc = (h.pc + 16) % 2 ^ 64 ∧ h'.status = .ready)
        ∧ (hold ≠ 0 → h'.pc = h.pc ∧ h'.status = .blocked .fold ∧ h'.deadline = s.clock + hold))
  ∧ (∀ (s : State) (g q d n hold ps : Nat) (h : Holder), Issues (.fold d n hold ps) s g q h → h.kind ≠ .range →
      (h.stack ≠ [] ∨ h.spilled ≠ [] ∨ h.mask ≠ h.live ∨ h.tags ≠ [] ∨ h.openBatch ≠ []) →
      exec (.fold d n hold ps) s = .next (s.issued g q (h.advance 16)))
  ∧ (∀ (s : State) (g q d a n : Nat) (gd : Guard) (h : Holder), Issues (.spawn gd d a n) s g q h → h.kind ≠ .range →
      pairOf h a % 8 = 0 → trapReady s g q h = true → h.replaying = none →
      (h.activeLanes gd = 0#96 → exec (.spawn gd d a n) s = .next (s.issued g q (h.advance 8)))
      ∧ (∀ s1, h.activeLanes gd ≠ 0#96 → (h.path &&& ~~~h.activeLanes gd) &&& (h.live &&& ~~~h.activeLanes gd) ≠ 0#96 →
          binAddAll g ((laneList (h.activeLanes gd)).map (fun L =>
            (⟨pairOf h a, h.grid, h.team, 0, [], h.w, h.prio, 0⟩,
              (h.item L, (List.range n).map (fun j => (h.readV (d + j)).at h.team (h.item L) L))))) s = .ok s1 →
          Reaches (exec (.spawn gd d a n) s) fun t => (t.core g).bins = (s1.core g).bins ∧ ∃ h', t.holder? g q = some h'
            ∧ h'.pc = (h.pc + 8) % 2 ^ 64 ∧ h'.live = h.live &&& ~~~h.activeLanes gd
            ∧ h'.path = h.path &&& ~~~h.activeLanes gd ∧ h'.mask = h.mask &&& ~~~h.activeLanes gd))

/-- R336, R338, R340 in a dense group: every active lane of D takes the value of the table, element by element in
the packed types; lanes that are live and not active, and every other register, stay; no flag is set. R336, R338,
R339 in a dense group for `vmad`, `vbfi`, `vlop3` and `vbperm`. -/
def Obligations.VectorIntegerLanes : Prop :=
  (∀ (s : State) (g q : Nat) (h : Holder) (i : Instr) (o : V3Op) (dw bw : Bool),
      Issues i s g q h → wellFormed i = true → h.kind ≠ .range → h.fflags < 32 → elemOps i = some (o, dw, bw) →
      LaneRun h o.g i →
      Reaches (exec i s) fun t => (∀ n, t.holder? g q = some n → n.fflags = h.fflags)
        ∧ VectorResult s t g q h i o.g o.d (o.ty.wide && dw) fun L v =>
          ∀ e < (shapeOf o.ty).2, some (elemOf (shapeOf o.ty).1 v e) = elemGives o.ty.signed (shapeOf o.ty).1
            (elemOf (shapeOf o.ty).1 (h.vWide o.ty.wide o.a L) e)
            (elemOf (shapeOf o.ty).1 (h.srcLane o.bk (o.ty.wide && bw) o.b L) e) i)
  ∧ (∀ (s : State) (g q : Nat) (h : Holder) (i : Instr) (o : V3Op),
      Issues i s g q h → wellFormed i = true → h.kind ≠ .range → h.fflags < 32 →
      (i = .vmad o ∨ i = .vbfi o ∨ i = .vlop3 o ∨ i = .vbperm o) → LaneRun h o.g i →
      Reaches (exec i s) fun t => (∀ n, t.holder? g q = some n → n.fflags = h.fflags)
        ∧ VectorResult s t g q h i o.g o.d o.ty.wide fun L v => wideGives h L i = some (o, v))

/-- R341 in a dense group: an integer VI instruction takes the value of its V3 twin with y the widened immediate;
`vmov` with an immediate writes it. R341 for the floating-point VI instructions of the 32-bit and packed types: the
twin with y the immediate of R278. -/
def Obligations.VectorImmediateLanes : Prop :=
  (∀ (s : State) (g q : Nat) (h : Holder) (i : Instr) (o : VIOp),
      Issues i s g q h → wellFormed i = true → h.kind ≠ .range → h.fflags < 32 → LaneRun h o.g i →
      (∀ j, twin i = some (o, j) →
        Reaches (exec i s) fun t => (∀ n, t.holder? g q = some n → n.fflags = h.fflags)
          ∧ VectorResult s t g q h i o.g o.d o.ty.wide fun L v =>
            ∀ e < (shapeOf o.ty).2, some (elemOf (shapeOf o.ty).1 v e) = elemGives o.ty.signed (shapeOf o.ty).1
              (elemOf (shapeOf o.ty).1 (h.vWide o.ty.wide o.a L) e)
              (elemOf (shapeOf o.ty).1 (widened o.ty o.imm) e) j)
      ∧ (i = .vmovImm o → o.ty ≠ .f32 → o.ty ≠ .f64 → o.ty ≠ .f16x2 → o.ty ≠ .bf16x2 →
        Reaches (exec i s) fun t => VectorResult s t g q h i o.g o.d o.ty.wide fun _ v => v = widened o.ty o.imm))
  ∧ (∀ (s : State) (g q : Nat) (h : Holder) (i j : Instr) (o : VIOp) (n : Nat),
      Issues i s g q h → wellFormed i = true → h.kind ≠ .range → floatTwin i = some (o, j) → LaneRun h o.g i →
      (o.imm = .tail n ∨ o.imm = .short n) → o.ty ≠ .f64 →
      let y := if o.imm = .tail n then n else if o.ty = .f32 then n * 2 ^ 16 else n + n * 2 ^ 16
      let w := (shapeOf o.ty).1
      Reaches (exec i s) fun t => VectorResult s t g q h i o.g o.d o.ty.wide fun L v =>
        ∀ e < (shapeOf o.ty).2, elemOf w v e
          = (floatGives (formatOf o.ty) (elemOf w (h.vWide o.ty.wide o.a L) e) (elemOf w y e) 0 j).1 % 2 ^ w)

/-- R343 to R345, R250 and R256 in a dense group: each element of each active lane of D is the operation of the
format on the elements, and `%fflags` takes the OR of the flags of every element of every active lane. -/
def Obligations.VectorFloatLanes : Prop :=
  ∀ (s : State) (g q : Nat) (h : Holder) (i : Instr) (o : V3Op) (dw bw : Bool),
    Issues i s g q h → wellFormed i = true → h.kind ≠ .range → h.fflags < 32 → floatOps i = some (o, dw, bw) →
    LaneRun h o.g i →
    let w := (shapeOf o.ty).1
    let r := fun L e => floatGives (formatOf o.ty) (elemOf w (h.vWide o.ty.wide o.a L) e)
      (elemOf w (h.srcLane o.bk (o.ty.wide && bw) o.b L) e) (elemOf w (h.srcLane o.ck o.ty.wide o.c L) e) i
    Reaches (exec i s) fun t =>
      (∀ n, t.holder? g q = some n → n.fflags < 32 ∧ ∀ b < 5, (n.fflags.testBit b = true ↔ h.fflags.testBit b = true
        ∨ ∃ L < 96, (h.activeLanes o.g).getLsbD L = true ∧ ∃ e < (shapeOf o.ty).2, (r L e).2.testBit b = true))
      ∧ VectorResult s t g q h i o.g o.d (o.ty.wide && dw) fun L v =>
        ∀ e < (shapeOf o.ty).2, elemOf w v e = (r L e).1 % 2 ^ w

/-- R253, R261: sums, products, fused products, quotients and scalings of finite operands round their exact result
once, by the rounding of R253, in every mode and in each of the formats that arithmetic takes. -/
def Obligations.FloatArithmeticRoundsOnce : Prop :=
  ∀ (f : Fmt) (md : RMode) (x y z : Nat) (n : Int), f ≠ .e4m3 → f ≠ .e5m2 →
    isFinite (f.decode x) = true → isFinite (f.decode y) = true → isFinite (f.decode z) = true →
    let a := valueOf (f.decode x)
    let b := valueOf (f.decode y)
    let c := valueOf (f.decode z)
    (a + b ≠ 0 → RoundsTo f md (a + b) (fpAdd f md x y).1)
    ∧ (a * b ≠ 0 → RoundsTo f md (a * b) (fpMul f md x y).1)
    ∧ (a * b + c ≠ 0 → RoundsTo f md (a * b + c) (fpFma f md x y z).1)
    ∧ (a ≠ 0 → b ≠ 0 → RoundsTo f md (a / b) (fpDiv f md x y).1)
    ∧ (a ≠ 0 → RoundsTo f md (a * (2 : ℚ) ^ n) (fpScale f md x n).1)

/-- R257 to R259: NaN operands give the canonical NaN and a signalling one sets invalid; infinity minus infinity and
zero times infinity are invalid; exact zero sums; `vfmin` and `vfmax` return the other operand of a NaN and order −0
below +0. R347: a floating-point compare by the order of the values; with a NaN only `.ne` and `.un` are true; a
signalling NaN sets invalid. -/
def Obligations.FloatSpecialCasesAndCompare : Prop :=
  (∀ (f : Fmt) (md : RMode) (x y z : Nat),
      ((f.decode x).isNan = true ∨ (f.decode y).isNan = true →
        (fpAdd f md x y).1 = f.cnan ∧ (fpMul f md x y).1 = f.cnan ∧ (fpFma f md x y z).1 = f.cnan
        ∧ (fpDiv f md x y).1 = f.cnan
        ∧ (fpAdd f md x y).2 = (if (f.decode x).snan || (f.decode y).snan then 16 else 0))
      ∧ (∀ s, f.decode x = .inf s → f.decode y = .inf (!s) → fpAdd f md x y = (f.cnan, 16))
      ∧ (∀ s, f.decode x = .inf s → isFinite (f.decode y) = true → valueOf (f.decode y) = 0 →
          fpMul f md x y = (f.cnan, 16) ∧ ((f.decode z).isNan = false → fpFma f md x y z = (f.cnan, 16)))
      ∧ (isFinite (f.decode x) = true → isFinite (f.decode y) = true → x ≠ y →
          valueOf (f.decode x) ≠ 0 → valueOf (f.decode x) + valueOf (f.decode y) = 0 →
          fpAdd f md x y = (f.zero (md == .rd), 0))
      ∧ ((f.decode x).isNan = true → (f.decode y).isNan = false → (fpMin f x y).1 = y ∧ (fpMax f x y).1 = y)
      ∧ ((f.decode x).isNan = false → (f.decode y).isNan = true → (fpMin f x y).1 = x ∧ (fpMax f x y).1 = x)
      ∧ ((f.decode x).isNan = true → (f.decode y).isNan = true → (fpMin f x y).1 = f.cnan ∧ (fpMax f x y).1 = f.cnan)
      ∧ (isFinite (f.decode x) = true → isFinite (f.decode y) = true → valueOf (f.decode x) < valueOf (f.decode y) →
          fpMin f x y = (x, 0) ∧ fpMax f x y = (y, 0))
      ∧ (fpMin f (f.zero true) (f.zero false)).1 = f.zero true ∧ (fpMax f (f.zero true) (f.zero false)).1 = f.zero false)
  ∧ (∀ (f : Fmt) (c : Cond) (x y : Nat),
      (isFinite (f.decode x) = true → isFinite (f.decode y) = true →
        fpCmp f c x y = (orders c (f.decode x) (f.decode y), 0))
      ∧ ((f.decode x).isNan = true ∨ (f.decode y).isNan = true →
        fpCmp f c x y = (c == .ne || c == .un, if (f.decode x).snan || (f.decode y).snan then 16 else 0)))

/-- R346, R347, R238: a compare of a dense group writes r to p[D] and not r to p[C] in the active lanes, r alone
when both are one predicate, and nothing to p0. R348: the predicate instructions of a dense group. -/
def Obligations.CompareAndPredicates : Prop :=
  (∀ (s : State) (g q : Nat) (h : Holder) (i : Instr) (o : CmpOp), Issues i s g q h → wellFormed i = true →
      h.kind ≠ .range → (i = .vicmp o ∨ i = .vfcmp o) →
      let w := if o.ty.wide then 64 else 32
      let r := fun L => if i = .vicmp o then
          condInt o.cond (asInt o.ty.signed w (h.vWide o.ty.wide o.a L) - asInt o.ty.signed w (h.vWide o.ty.wide o.b L))
        else (fpCmp (formatOf o.ty) o.cond (h.vWide o.ty.wide o.a L % 2 ^ (formatOf o.ty).bits)
          (h.vWide o.ty.wide o.b L % 2 ^ (formatOf o.ty).bits)).1
      Reaches (exec i s) fun t =>
        PredicateResult s t g q h i o.g (if o.c = o.d then [(o.d, r)] else [(o.d, r), (o.c, fun L => !r L)]))
  ∧ (∀ (s : State) (g q : Nat) (h : Holder) (i : Instr) (o : PredOp) (r : Nat → Bool), Issues i s g q h → h.kind ≠ .range →
      ((i = .vpand o ∧ r = fun L => trueLane h o.a false L && trueLane h o.b false L)
        ∨ (i = .vpor o ∧ r = fun L => trueLane h o.a false L || trueLane h o.b false L)
        ∨ (i = .vpxor o ∧ r = fun L => trueLane h o.a false L != trueLane h o.b false L)
        ∨ (i = .vpnot o ∧ r = fun L => !trueLane h o.a false L)
        ∨ (i = .vpmov o ∧ r = fun L => trueLane h o.a false L)
        ∨ (i = .vsetp o ∧ r = fun L => decide (h.vLane o.a L ≠ 0))) →
      Reaches (exec i s) fun t => PredicateResult s t g q h i o.g [(o.d, r)])

/-- R352: the moves in a dense group: `vmov` copies, `vsel` picks by the predicate, `vbcast` copies a scalar. R352,
R176: `vidx` gives the item index, the team index or the lane, whatever form the register takes. -/
def Obligations.VectorMovesAndVidx : Prop :=
  (∀ (s : State) (g q : Nat) (h : Holder) (i : Instr) (o : V3Op) (p : Nat → Nat), Issues i s g q h → wellFormed i = true →
      h.kind ≠ .range → LaneRun h o.g i →
      ((i = .vmov o ∧ p = fun L => h.vWide o.ty.wide o.a L)
        ∨ (i = .vsel o ∧ p = fun L => if trueLane h o.c false L then h.vWide o.ty.wide o.a L
            else h.srcLane o.bk o.ty.wide o.b L)
        ∨ (i = .vbcast o ∧ p = fun _ => h.readW o.ty.wide o.a)) →
      Reaches (exec i s) fun t => VectorResult s t g q h i o.g o.d o.ty.wide fun L v => v = p L)
  ∧ (∀ (s : State) (g q : Nat) (h : Holder) (o : V3Op), Issues (.vidx o) s g q h → wellFormed (.vidx o) = true →
      h.kind ≠ .range → h.team < 2 ^ 48 → (∀ L < 96, h.live.getLsbD L = true → h.item L < s.tsize h) →
      h.mask &&& h.live = h.mask →
      Reaches (exec (.vidx o) s) fun t => VectorResult s t g q h (.vidx o) o.g o.d o.ty.wide fun L v =>
        v = if o.a = 0 then h.item L else if o.a = 1 then h.team % (if o.ty.wide then 2 ^ 64 else 2 ^ 32) else L)

/-- R349 to R351, R254, R255 in a dense group: `vcvt` between integer types truncates or extends; from an integer it
rounds; `vpack` of integers saturates and places two or four elements; `vunpack` of integers extends the element
that the selector picks. Conversions from and to the floating formats are those of the formats. -/
def Obligations.VectorConversions : Prop :=
  ∀ (s : State) (g q : Nat) (h : Holder) (o : CvtOp), h.kind ≠ .range → h.fflags < 32 →
    (∀ a sg, Issues (.vcvt o) s g q h → wellFormed (.vcvt o) = true → LaneRun h o.g (.vcvt o) → intTy o.src = some (a, sg) →
      (∀ b sd, intTy o.dst = some (b, sd) →
        Reaches (exec (.vcvt o) s) fun t => VectorResult s t g q h (.vcvt o) o.g o.d o.dst.wide fun L v =>
          let r := modW b (asInt sg a (h.vWide o.src.wide o.a L % 2 ^ a))
          v = if sd then modW (max b 32) (asInt true b r) else r)
      ∧ (intTy o.dst = none →
        Reaches (exec (.vcvt o) s) fun t => VectorResult s t g q h (.vcvt o) o.g o.d o.dst.wide fun L v =>
          v = (fpOfInt (formatOf o.dst) o.mode o.nanov (asInt sg a (h.vWide o.src.wide o.a L % 2 ^ a))).1
            % 2 ^ (if o.dst.wide then 64 else 32)))
    ∧ (∀ b sd, Issues (.vcvt o) s g q h → wellFormed (.vcvt o) = true → LaneRun h o.g (.vcvt o) → intTy o.src = none →
      intTy o.dst = some (b, sd) →
        Reaches (exec (.vcvt o) s) fun t => VectorResult s t g q h (.vcvt o) o.g o.d o.dst.wide fun L v =>
          let r := (fpToInt (formatOf o.src) o.mode sd b (h.vWide o.src.wide o.a L % 2 ^ (formatOf o.src).bits)).1
          v % 2 ^ b = r % 2 ^ b)
    ∧ (Issues (.vpack o) s g q h → wellFormed (.vpack o) = true → LaneRun h o.g (.vpack o) → o.dst = .i16x2 →
        Reaches (exec (.vpack o) s) fun t => VectorResult s t g q h (.vpack o) o.g o.d false fun L v =>
          v = saturate true 16 (asInt true 32 (h.vLane o.a L))
            + 2 ^ 16 * saturate true 16 (asInt true 32 (h.srcLane o.bk false o.b L)))
    ∧ (Issues (.vpack o) s g q h → wellFormed (.vpack o) = true → LaneRun h o.g (.vpack o) → o.dst = .i8x4 →
        Reaches (exec (.vpack o) s) fun t => VectorResult s t g q h (.vpack o) o.g o.d false fun L v =>
          ∀ e < 4, elemOf 8 v e = saturate true 8 (asInt true 16
            (elemOf 16 (if e < 2 then h.vLane o.a L else h.srcLane o.bk false o.b L) (e % 2))))
    ∧ (Issues (.vpack o) s g q h → wellFormed (.vpack o) = true → LaneRun h o.g (.vpack o) →
        (o.dst = .f16x2 ∨ o.dst = .bf16x2) →
        Reaches (exec (.vpack o) s) fun t => VectorResult s t g q h (.vpack o) o.g o.d false fun L v =>
          ∀ e < 2, elemOf 16 v e = (fpConvert .f32 (formatOf o.dst) o.mode false
            (if e = 0 then h.vLane o.a L else h.srcLane o.bk false o.b L)).1 % 2 ^ 16)
    ∧ (Issues (.vunpack o) s g q h → wellFormed (.vunpack o) = true → LaneRun h o.g (.vunpack o) → o.dst = .i32 →
        Reaches (exec (.vunpack o) s) fun t => VectorResult s t g q h (.vunpack o) o.g o.d false fun L v =>
          let w := (shapeOf o.src).1
          v = modW 32 (asInt true w (elemOf w (h.vLane o.a L) (h.srcLane o.bk false o.b L % (shapeOf o.src).2))))
    ∧ (Issues (.vunpack o) s g q h → wellFormed (.vunpack o) = true → LaneRun h o.g (.vunpack o) → o.dst = .f32 →
        (o.src = .f16x2 ∨ o.src = .bf16x2) →
        Reaches (exec (.vunpack o) s) fun t => VectorResult s t g q h (.vunpack o) o.g o.d false fun L v =>
          v = (fpConvert (formatOf o.src) .f32 .rn false
            (elemOf 16 (h.vLane o.a L) (h.srcLane o.bk false o.b L % 2))).1 % 2 ^ 32)

/-- R355, R357, R358: `vshfl`, `vmatch` and the integer reductions in a dense group, each block of the group
register on its own. R356: votes in a dense group. `vbal` and `vcnt` write their scalars whatever the mask and
guard; `vany` and `vall` write the active lanes. -/
def Obligations.CrossLaneAndVotes : Prop :=
  (∀ (s : State) (g q : Nat) (h : Holder), h.kind ≠ .range → (∀ n, AMap.getD h.gcodes n 0 < 4) →
      (∀ o, Issues (.vshfl o) s g q h → wellFormed (.vshfl o) = true →
        Reaches (exec (.vshfl o) s) fun t => VectorResult s t g q h (.vshfl o) o.g o.d o.ty.wide fun L v =>
          let k := blockStart h o.grp L + h.srcLane o.bk false o.b L % blockSize h o.grp
          v = if h.live.getLsbD k then h.vWide o.ty.wide o.a k else 0)
      ∧ (∀ o, Issues (.vmatch o) s g q h → wellFormed (.vmatch o) = true → o.ty ≠ .f32 →
        Reaches (exec (.vmatch o) s) fun t => VectorResult s t g q h (.vmatch o) o.g o.d false fun L v =>
          inBlock h o.grp L v ∧ (h.activeLanes o.g).getLsbD v = true
          ∧ h.vWide o.ty.wide o.a v = h.vWide o.ty.wide o.a L
          ∧ ∀ k < v, inBlock h o.grp L k → (h.activeLanes o.g).getLsbD k = true →
            h.vWide o.ty.wide o.a k ≠ h.vWide o.ty.wide o.a L)
      ∧ (∀ o, Issues (.vred o) s g q h → wellFormed (.vred o) = true → o.ty.isFloat = false →
        Reaches (exec (.vred o) s) fun t => VectorResult s t g q h (.vred o) o.g o.d o.ty.wide fun L v => Reduces h o L v))
  ∧ (∀ (s : State) (g q : Nat) (h : Holder) (o : XLaneOp), h.kind ≠ .range → (∀ n, AMap.getD h.gcodes n 0 < 4) →
      let vote := fun L => (h.activeLanes o.g).getLsbD L && trueLane h o.a false L
      (Issues (.vbal o) s g q h → Reaches (exec (.vbal o) s) fun t => t.mem = s.mem ∧ ∃ h', t.holder? g q = some h'
        ∧ (∀ b < 3, ∀ j < 32, (h'.readS (o.d + b)).getLsbD j = vote (32 * b + j))
        ∧ (∀ n, n < 61 → (n < o.d ∨ o.d + 3 ≤ n) → h'.readS n = h.readS n)
        ∧ h'.vregs = h.vregs ∧ h'.preds = h.preds ∧ h'.mask = h.mask ∧ h'.fflags = h.fflags)
      ∧ (Issues (.vcnt o) s g q h → Reaches (exec (.vcnt o) s) fun t => t.mem = s.mem ∧ ∃ h', t.holder? g q = some h'
        ∧ (h'.readS o.d).toNat = ((List.range 96).filter vote).length
        ∧ (∀ n, n < 61 → n ≠ o.d → h'.readS n = h.readS n)
        ∧ h'.vregs = h.vregs ∧ h'.preds = h.preds ∧ h'.mask = h.mask ∧ h'.fflags = h.fflags)
      ∧ (Issues (.vany o) s g q h → Reaches (exec (.vany o) s) fun t => PredicateResult s t g q h (.vany o) o.g
          [(o.d, fun L => (List.range 96).any (fun k => decide (blockStart h o.grp L ≤ k)
            && decide (k < blockStart h o.grp L + blockSize h o.grp) && vote k))])
      ∧ (Issues (.vall o) s g q h → Reaches (exec (.vall o) s) fun t => PredicateResult s t g q h (.vall o) o.g
          [(o.d, fun L => (List.range 96).all (fun k => !(decide (blockStart h o.grp L ≤ k)
            && decide (k < blockStart h o.grp L + blockSize h o.grp) && (h.activeLanes o.g).getLsbD k)
              || trueLane h o.a false k))]))

/-- R185: the rows whose result is componentwise. Where a row gives a form, its value at every member is the
operation on the operands' values there: addition, subtraction, negation, product with a uniform, shift left and
rotation by a uniform, and masks. R185, R189: a range context adds and subtracts whole forms: it stays one context,
and D holds the form of the sum or difference over all members. -/
def Obligations.LinearFormRows : Prop :=
  (∀ (a b r : VReg) (t i : Nat),
      (formAdd a b = some r → r.at t i 0 = a.at t i 0 + b.at t i 0)
      ∧ (formSub a b = some r → r.at t i 0 = a.at t i 0 - b.at t i 0)
      ∧ (formNeg a = some r → r.at t i 0 = -(a.at t i 0))
      ∧ (formMul a b = some r → r.at t i 0 = a.at t i 0 * b.at t i 0)
      ∧ (formShl a b = some r → r.at t i 0 = a.at t i 0 <<< ((b.at t i 0).toNat % 32))
      ∧ (formRot a b = some r → r.at t i 0 = (a.at t i 0).rotateLeft ((b.at t i 0).toNat % 32))
      ∧ (formAnd a b = some r → r.at t i 0 = a.at t i 0 &&& b.at t i 0)
      ∧ (formAndn a b = some r → r.at t i 0 = a.at t i 0 &&& ~~~(b.at t i 0))
      ∧ (formOrXor (· ||| ·) a b = some r → r.at t i 0 = a.at t i 0 ||| b.at t i 0)
      ∧ (formOrXor (· ^^^ ·) a b = some r → r.at t i 0 = a.at t i 0 ^^^ b.at t i 0))
  ∧ (∀ (s : State) (g q : Nat) (h : Holder) (i : Instr) (o : V3Op) (sub : Bool),
      Issues i s g q h → h.kind = .range → o.g = ⟨false, 0⟩ → o.ty = .i32 → o.bk = false →
      (i = .vadd o ∧ sub = false ∨ i = .vsub o ∧ sub = true) →
      (h.readV o.a).coef ≠ none → (h.readV o.b).coef ≠ none →
      Reaches (exec i s) fun t => t.mem = s.mem ∧ ∃ h', t = s.retire g q i h' ∧ h'.kind = .range
        ∧ h'.lo = h.lo ∧ h'.hi = h.hi ∧ (h'.readV o.d).coef ≠ none
        ∧ ∀ m, (h'.readV o.d).at (m / s.tsize h) (m % s.tsize h) 0
          = if sub then (h.readV o.a).at (m / s.tsize h) (m % s.tsize h) 0 - (h.readV o.b).at (m / s.tsize h) (m % s.tsize h) 0
            else (h.readV o.a).at (m / s.tsize h) (m % s.tsize h) 0 + (h.readV o.b).at (m / s.tsize h) (m % s.tsize h) 0)

/-- R184, R185: the rows with a condition at the corners of the range. Where such a row gives a form over the
members [lo, hi) of teams of T items, its value at every member is the operation on the operands' values there.
R186: the true set of a compare in a range context holds exactly the members at which the condition holds. -/
def Obligations.CornerFormRows : Prop :=
  (∀ (T lo hi m : Nat) (sg : Bool) (a b r : VReg), 0 < T → lo ≤ m → m < hi →
      let x := cornersOf T lo hi
      let v := fun (y : VReg) => (y.at (m / T) (m % T) 0).toNat
      (formShr sg x a b = some r →
        v r = if sg then modW 32 (asInt true 32 (v a) / 2 ^ (v b % 32)) else v a / 2 ^ (v b % 32))
      ∧ (formMinMax false sg x a b = some r → v r = if asInt sg 32 (v a) ≤ asInt sg 32 (v b) then v a else v b)
      ∧ (formMinMax true sg x a b = some r → v r = if asInt sg 32 (v a) ≥ asInt sg 32 (v b) then v a else v b)
      ∧ (formAbs x a = some r → v r = modW 32 (asInt true 32 (v a)).natAbs)
      ∧ (formAbsd sg x a b = some r → v r = (asInt sg 32 (v a) - asInt sg 32 (v b)).natAbs % 2 ^ 32)
      ∧ (formSat false sg x a b = some r → v r = saturate sg 32 (asInt sg 32 (v a) + asInt sg 32 (v b)))
      ∧ (formSat true sg x a b = some r → v r = saturate sg 32 (asInt sg 32 (v a) - asInt sg 32 (v b))))
  ∧ (∀ (T lo hi m : Nat) (c : Cond) (sg : Bool) (a b : VReg) (ts : TruthSet), 0 < T → lo ≤ m → m < hi → hi < 2 ^ 60 →
      c ≠ .ord → c ≠ .un → formCmp c sg (cornersOf T lo hi) a b = some ts →
      (match ts with
        | .all => true
        | .none => false
        | .upTo k => decide (m < k)
        | .fromOn k => decide (k ≤ m))
        = condInt c (asInt sg 32 (a.at (m / T) (m % T) 0).toNat - asInt sg 32 (b.at (m / T) (m % T) 0).toNat))

/-- R361, R284, R365: a load of a group forms its addresses, moves the holder on with no register changed, and stays
outstanding behind its window or its counter until its completion step. With no active lane it does nothing. In
space 3 it takes the registers' values at once, and an address outside the frame traps (R43). -/
def Obligations.LoadsIssue : Prop :=
  ∀ (s : State) (g q : Nat) (h : Holder) (i : Instr) (o : MOp) (vec : Bool), loadOf i = some (o, vec) →
    MemGoes s g q h i o vec false → h.counterFull o.la o.ctr = false →
    (vec = true → h.activeLanes o.g = 0#96 → exec i s = .next (s.retire g q i h))
    ∧ ((vec = true → h.activeLanes o.g ≠ 0#96) →
        (o.space = .reg → ∀ y ∈ accessesOf h i o vec, h.apOk y.2 o.elem.bytes = true) →
        Reaches (exec i s) fun t => t.mem = s.mem ∧ ∃ h' l, t.holder? g q = some h' ∧ PastIt h' h i
          ∧ h'.ll = h.ll.map LongOp.tick ++ [l] ∧ l.instr = i ∧ l.pc = h.pc
          ∧ (o.la < 15 → l.window = some o.la ∧ l.ctr = none ∧ h'.dcs = h.dcs)
          ∧ (15 ≤ o.la → l.window = none ∧ l.ctr = some o.ctr
              ∧ AMap.getD h'.dcs o.ctr 0 = AMap.getD h.dcs o.ctr 0 + 1)
          ∧ (o.space ≠ .reg → l.vals = [] ∧ l.lanes.map (fun y => (y.lane, y.ea)) = accessesOf h i o vec)
          ∧ (o.space = .reg → l.vals = (accessesOf h i o vec).map (fun y => (y.1, apertureValue h y.2 o.elem.bytes)))
          ∧ Event.longLatencyComplete g q l.idx ∈ t.agenda)
    ∧ (MayTrap s g q h → o.space = .reg → (∃ y ∈ accessesOf h i o vec, h.apOk y.2 o.elem.bytes = false) →
        ∃ v, Reaches (exec i s) fun t => TakesTrap s t g q h 1 v)

/-- R362, R365 to R368: the completion of a load. In a scratchpad every lane's registers take its element, narrow
ones extended, `vldu`, and a `vld` that was issued with one address (R196), give one element to every active lane, and nothing else of the package changes. A single
access in any space gives D what the access read. A miss-tolerant gather whose pages all miss writes its miss
predicate and no register (R70). -/
def Obligations.LoadsComplete : Prop :=
  ∀ (s : State) (g q idx : Nat) (h : Holder) (l : LongOp) (o : MOp) (vec : Bool),
    s.holder? g q = some h → h.long? idx = some l → l.idx = idx → loadOf l.instr = some (o, vec) → h.kind ≠ .range →
    l.due ≤ s.clock → l.bad = none → l.vals = [] → l.lanes ≠ [] → h.asking idx = false → h.readsBefore idx = false →
    (vec = true → WordsApart h o.d o.elem.bytes) →
    let one := l.instr = .vldu o ∨ l.uni = true
    (∀ place, l.instr ≠ .vgathMt o → teamSpace o.space = true →
      InScratchpad s g h vec o.space o.elem.bytes .load true place (l.lanes.map (·.ea)) →
      (l.lanes.map (·.lane)).Nodup → (vec = true → ∀ y ∈ l.lanes, y.lane < 96) → (vec = false → l.lanes.length = 1) →
      (one → l.lanes.length = 1) →
      Reaches (exec (.longLatencyComplete g q idx) s) fun t => t.mem = s.mem
        ∧ (∀ k a, Memory.read (t.core k).spm a = Memory.read (s.core k).spm a)
        ∧ ∃ h', t.holder? g q = some h' ∧ h'.ll = h.ll.filter (fun x => x.idx != idx) ∧ h'.pc = h.pc
          ∧ h'.preds = h.preds ∧ (vec = true → h'.sregs = h.sregs) ∧ (vec = false → h'.vregs = h.vregs)
          ∧ ∀ y ∈ l.lanes, ∀ j w,
              (loadedWords o.elem (Memory.readLE (s.core (place y.ea).1).spm (place y.ea).2 o.elem.bytes))[j]? = some w →
              (vec = false → o.d + j < 61 → (h'.readS (o.d + j)).toNat = w)
              ∧ (vec = true → ¬one → h'.vLane (o.d + j) y.lane = w)
              ∧ (vec = true → one → ∀ L < 96, l.active.getLsbD L = true → h'.vLane (o.d + j) L = w))
    ∧ (∀ y t0 s1 bs lo hi s2, (l.instr = .sld o ∨ l.instr = .vldu o ∨ (l.instr = .vld o ∧ l.uni = true)) → l.lanes = [y] →
      isConstRead s h ⟨l.instr, o, vec, false, false, false⟩ y.ea = false →
      s.resolve (holderCtx s g h vec) o.space y.ea o.elem.bytes .load true = .ok t0 s1 → t0.isReg s1 = false →
      s1.readTarget (holderCtx s g h vec) t0 = .ok bs lo hi s2 → bs.length = o.elem.bytes →
      Reaches (exec (.longLatencyComplete g q idx) s) fun t => t.mem = s2.mem ∧ ∃ h', t.holder? g q = some h'
        ∧ h'.ll = h.ll.filter (fun x => x.idx != idx)
        ∧ ∀ j w, (loadedWords o.elem (leValue bs))[j]? = some w →
            (vec = false → o.d + j < 61 → (h'.readS (o.d + j)).toNat = w % 2 ^ 32)
            ∧ (vec = true → ∀ L < 96, l.active.getLsbD L = true → h'.vLane (o.d + j) L = w % 2 ^ 32))
    ∧ (l.instr = .vgathMt o → o.space = .glob →
      (∀ y ∈ l.lanes, ∀ p ∈ pagesOf y.ea o.elem.bytes, s.tlbLookup (.core g) h.asid p.1 = none) →
      Reaches (exec (.longLatencyComplete g q idx) s) fun t => ∃ h', t.holder? g q = some h'
        ∧ h'.ll = h.ll.filter (fun x => x.idx != idx) ∧ h'.vregs = h.vregs ∧ h'.sregs = h.sregs
        ∧ (o.x ≠ 0 → ∀ L < 96, trueLane h' o.x false L = (l.active.getLsbD L || trueLane h o.x false L)))

/-- R361 to R364, R369, R370: a store of a group that does not release performs at its issue in ascending lanes. In
a scratchpad each byte of an element lies at its place, the highest lane deciding, and every other byte of the
package stays; to device memory a single access stores its bytes and no other byte changes; in space 3 it writes the
register; a release store enters the release buffer with its lanes and writes nothing yet (R160). No register
changes. -/
def Obligations.StoresPerform : Prop :=
  ∀ (s : State) (g q : Nat) (h : Holder) (i : Instr) (o : MOp) (vec : Bool), storeOf i = some (o, vec) →
    MemGoes s g q h i o vec true →
    let acc := accessesOf h i o vec
    let n := o.elem.bytes
    (acc = [] → exec i s = .next (s.retire g q i h))
    ∧ (∀ place, acc ≠ [] → orderRel o.order = false → teamSpace o.space = true →
      (∀ k, Memory.wf (s.core k).spm = true) →
      InScratchpad s g h vec o.space n .store true place (acc.map (·.2)) →
      Reaches (exec i s) fun t => t.mem = s.mem ∧ (∃ h', t.holder? g q = some h' ∧ PastIt h' h i)
        ∧ (∀ y ∈ acc, ∀ b < n, (∀ z ∈ acc, y.1 < z.1 → ¬covers (place z.2) n (place y.2).1 ((place y.2).2 + b)) →
            (Memory.read (t.core (place y.2).1).spm ((place y.2).2 + b)).toNat
              = dataOf h vec o.d n y.1 / 2 ^ (8 * b) % 2 ^ 8)
        ∧ ∀ k a, (∀ y ∈ acc, ¬covers (place y.2) n k a) → Memory.read (t.core k).spm a = Memory.read (s.core k).spm a)
    ∧ (∀ y z s1, acc = [y] → orderRel o.order = false → o.space = .glob → Memory.wf s.mem = true →
      s.resolve (holderCtx s g h vec) .glob y.2 n .store true = .ok (.phys [z]) s → z.len = n →
      (regionOf s z.pa = .hbm ∨ regionOf s z.pa = .ddr) → pteType z.e.attr = 0 →
      (∀ ln ∈ linesOf z.pa n, s.busyLine ln = false) →
      ownLines (holderCtx s g h vec) (linesOf z.pa n) s = .ok s1 → ownLines (holderCtx s g h vec) (linesOf z.pa n) s1 = .ok s1 →
      Reaches (exec i s) fun t => (∃ h', t.holder? g q = some h' ∧ PastIt h' h i)
        ∧ (∀ k, (t.core k).spm = (s.core k).spm)
        ∧ ∀ a, (Memory.read t.mem a).toNat = if z.pa ≤ a ∧ a < z.pa + n
            then dataOf h vec o.d n y.1 / 2 ^ (8 * (a - z.pa)) % 2 ^ 8 else (Memory.read s.mem a).toNat)
    ∧ (∀ y, acc = [y] → o.space = .reg → h.apOk y.2 n = true → n = 4 →
      Reaches (exec i s) fun t => t.mem = s.mem ∧ ∃ h', t.holder? g q = some h' ∧ h'.pc = (h.pc + i.size) % 2 ^ 64
        ∧ h'.sregs = h.sregs ∧ h'.preds = h.preds ∧ h'.vLane (y.2 / 384) (y.2 / 4 % 96) = dataOf h vec o.d 4 y.1
        ∧ (∀ L < 96, L ≠ y.2 / 4 % 96 → h'.vLane (y.2 / 384) L = h.vLane (y.2 / 384) L)
        ∧ ∀ m, h.vkey m ≠ h.vkey (y.2 / 384) → h'.readV m = h.readV m)
    ∧ (∀ place, acc ≠ [] → orderRel o.order = true → teamSpace o.space = true →
      (s.core g).releases.length < 16 → InScratchpad s g h vec o.space n .store true place (acc.map (·.2)) →
      Reaches (exec i s) fun t => t.mem = s.mem ∧ (∀ k, (t.core k).spm = (s.core k).spm)
        ∧ (∃ h', t.holder? g q = some h' ∧ PastIt h' h i)
        ∧ ∃ r lanes, (t.core g).releases = (s.core g).releases ++ [r] ∧ r.slot = q ∧ r.scope = narrowed o.space o.scope ∧ r.pc = h.pc
          ∧ r.kind = .store i lanes ∧ lanes.map (fun y => (y.lane, y.ea)) = acc)

/-- R364, R372, R373: the atomics of a group. Misaligned addresses trap before any lane performs. Without a result a
single access at a scratchpad leaves the operation's value there at once; with one it issues with its lanes and
operands and changes no memory, and its completion leaves the value and gives D the old one. No other byte changes. -/
def Obligations.AtomicsPerform : Prop :=
  ∀ (s : State) (g q : Nat) (h : Holder) (i : Instr) (op : AtomOp) (o : MOp) (vec : Bool), atomOf i = some (op, o, vec) →
    let n := o.elem.bytes
    let acc := accessesOf h i o vec
    (MemGoes s g q h i o vec true → h.counterFull o.la o.ctr = false → MayTrap s g q h →
      (∃ y ∈ acc, y.2 % n ≠ 0) → Reaches (exec i s) fun t => TakesTrap s t g q h 6 ((acc.map (·.2)).headD 0))
    ∧ (MemGoes s g q h i o vec true → o.x % 2 = 1 → acc = [] → exec i s = .next (s.retire g q i h))
    ∧ (∀ y place, MemGoes s g q h i o vec true → o.x % 2 = 1 → acc = [y] → y.2 % n = 0 → orderRel o.order = false →
      teamSpace o.space = true → (∀ k, Memory.wf (s.core k).spm = true) →
      InScratchpad s g h vec o.space n .atomic (hostAtomicOk op o.elem) place [y.2] →
      Reaches (exec i s) fun t => t.mem = s.mem ∧ (∃ h', t.holder? g q = some h' ∧ PastIt h' h i)
        ∧ (∀ v, atomGives op o.elem (Memory.readLE (s.core (place y.2).1).spm (place y.2).2 n)
              (dataOf h vec o.d n y.1) (newOf h op o vec y.1) = some v →
            Memory.readLE (t.core (place y.2).1).spm (place y.2).2 n = v % 2 ^ (8 * n))
        ∧ (atomGives op o.elem (Memory.readLE (s.core (place y.2).1).spm (place y.2).2 n)
              (dataOf h vec o.d n y.1) (newOf h op o vec y.1) = none →
            ∀ k, (t.core k).spm = (s.core k).spm)
        ∧ ∀ k a, ¬covers (place y.2) n k a → Memory.read (t.core k).spm a = Memory.read (s.core k).spm a)
    ∧ (MemGoes s g q h i o vec true → o.x % 2 = 0 → acc ≠ [] → (∀ y ∈ acc, y.2 % n = 0) → o.space ≠ .reg →
      h.counterFull o.la o.ctr = false → orderRel o.order = false →
      Reaches (exec i s) fun t => t.mem = s.mem ∧ (∀ k, (t.core k).spm = (s.core k).spm)
        ∧ ∃ h' l, t.holder? g q = some h' ∧ PastIt h' h i ∧ h'.ll = h.ll.map LongOp.tick ++ [l] ∧ l.instr = i
          ∧ l.pc = h.pc ∧ l.vals = []
          ∧ l.lanes.map (fun y => (y.lane, y.ea, y.x, y.new))
            = acc.map (fun y => (y.1, y.2, dataOf h vec o.d n y.1, newOf h op o vec y.1)))
    ∧ (∀ idx l y place, s.holder? g q = some h → h.long? idx = some l → l.idx = idx → l.instr = i → h.kind ≠ .range →
      l.due ≤ s.clock → l.bad = none → l.vals = [] → l.lanes = [y] → h.asking idx = false → h.readsBefore idx = false → atomHeld s g q l = false →
      (vec = true → y.lane < 96 ∧ WordsApart h o.d n) → (vec = false → y.lane = 127) → y.x < 2 ^ (8 * n) → y.new < 2 ^ (8 * n) →
      n % 4 = 0 → teamSpace o.space = true → (∀ k, Memory.wf (s.core k).spm = true) →
      InScratchpad s g h vec o.space n .atomic (hostAtomicOk op o.elem) place [y.ea] →
      let old := Memory.readLE (s.core (place y.ea).1).spm (place y.ea).2 n
      Reaches (exec (.longLatencyComplete g q idx) s) fun t => t.mem = s.mem
        ∧ (∀ v, atomGives op o.elem old y.x y.new = some v → Memory.readLE (t.core (place y.ea).1).spm (place y.ea).2 n = v % 2 ^ (8 * n))
        ∧ (atomGives op o.elem old y.x y.new = none → ∀ k, (t.core k).spm = (s.core k).spm)
        ∧ (∀ k a, ¬covers (place y.ea) n k a → Memory.read (t.core k).spm a = Memory.read (s.core k).spm a)
        ∧ ∃ h', t.holder? g q = some h' ∧ h'.ll = h.ll.filter (fun x => x.idx != idx)
          ∧ ∀ j < n / 4, (vec = false → o.d + j < 61 → (h'.readS (o.d + j)).toNat = old / 2 ^ (32 * j) % 2 ^ 32)
            ∧ (vec = true → h'.vLane (o.d + j) y.lane = old / 2 ^ (32 * j) % 2 ^ 32))

/-- R371, R382, R383: `pref`, `cinv`, `cclean` and `cflush` of a group change no register and go on, and of `pref` that holds
whatever its translation answers (R63). At level 0 a prefetched line enters the L1 marked as prefetched, at level 1 the
home's memory-side copy; after `cinv` the line is not in the L1 of the core, after `cflush` in no L1 and its entry is I; after
`cclean` and `cflush` memory has what was written (no stale image of it is left), `cclean` of a line without an owner leaves
every copy; no byte of memory or scratchpad changes. A flush says so when the checks of its recalls pass (R163), the states of
lines when no injector is armed. -/
def Obligations.CacheOperations : Prop :=
  ∀ (s : State) (g q : Nat) (h : Holder) (i : Instr) (o : LineOp), Issues i s g q h → wellFormed i = true →
    h.kind ≠ .range → h.replaying = none → bitN (s.core g).dbg.dbgctl 0 = false →
    (i = .pref o → Reaches (exec i s) fun t => (∀ k, (t.core k).spm = (s.core k).spm)
      ∧ ∃ h', t.holder? g q = some h' ∧ PastIt h' h i)
    ∧ (∀ L z d, i = .pref o → laneList (h.activeLanes o.g) = [L] → o.d = 1 →
      s.resolve { holderCtx s g h true with vector := true } .glob (eaOf h i o.a o.b o.kind L) 1 .load true
        = .ok (.phys [z]) s →
      pteType z.e.attr = 0 → (regionOf s z.pa = .hbm ∨ regionOf s z.pa = .ddr) → isHostLine s (z.pa / 128) = false →
      homeDie s (z.pa / 128 * 128) = some d → homeDie s z.pa = some d → s.busyLine (z.pa / 128) = false →
      s.homePoison (z.pa / 128) = none →
      Reaches (exec i s) fun t => t.mem = s.mem ∧ AMap.has (t.die d).msc (z.pa / 128) = true)
    ∧ (∀ L z s2 x, i = .pref o → laneList (h.activeLanes o.g) = [L] → o.d = 0 →
      s.resolve { holderCtx s g h true with vector := true } .glob (eaOf h i o.a o.b o.kind L) 1 .load true
        = .ok (.phys [z]) s →
      pteType z.e.attr = 0 → regionOf s z.pa ≠ .peer → s.busyLine (z.pa / 128) = false →
      s.homePoison (z.pa / 128) = none → (s.cluster (cluOf g)).fused = false →
      AMap.find? (s.core g).l1 (z.pa / 128) = none → s.transact .rds (.core g) (z.pa / 128) = .ok s2 →
      AMap.find? (s2.core g).l1 (z.pa / 128) = some x →
      Reaches (exec i s) fun t => t.mem = s2.mem
        ∧ AMap.find? (t.core g).l1 (z.pa / 128) = some { x with pref := true })
    ∧ (∀ L z, (i = .cflush o ∨ i = .cinv o ∨ i = .cclean o) → laneList (h.activeLanes o.g) = [L] →
      trapReady s g q { h with ext := h.ext.filter (fun e => e.size != 0) } = true →
      translatePages { holderCtx s g h true with vector := true } .load [(eaOf h i o.a o.b o.kind L, 1)] [] s
        = .ok (.phys [z]) s →
      segCheck s { holderCtx s g h true with vector := true } .load true z = none → pteType z.e.attr ≠ 2 →
      s.homePoison (z.pa / 128) = none → s.busyLine (z.pa / 128) = false → (s.cluster (cluOf g)).fused = false →
      isHostLine s (z.pa / 128) = false → (regionOf s z.pa = .hbm ∨ regionOf s z.pa = .ddr) →
      AMap.sorted (s.core g).l1 = true → AMap.sorted s.backing = true →
      (i = .cflush o → ((s.recallOut (z.pa / 128)).dirOf (z.pa / 128)).st ≠ .n) →
      Reaches (exec i s) fun t => t.mem = s.mem ∧ (∀ k, (t.core k).spm = (s.core k).spm)
        ∧ (∃ h', t.holder? g q = some h' ∧ PastIt h' h i)
        ∧ (i = .cinv o → AMap.find? (t.core g).l1 (z.pa / 128) = none)
        ∧ (i = .cflush o → (.core g ∈ (s.dirOf (z.pa / 128)).holders → (s.dirOf (z.pa / 128)).st ≠ .i → AMap.find? (t.core g).l1 (z.pa / 128) = none))
        ∧ (i = .cflush o → NoInjector s → (t.dirOf (z.pa / 128)).st = .i)
        ∧ (i = .cclean o → NoInjector s → (s.dirOf (z.pa / 128)).owner = none → ∀ k, (t.core k).l1 = (s.core k).l1)
        ∧ (i ≠ .cinv o → AMap.find? t.backing (z.pa / 128) = none))
    ∧ ((i = .cflush o ∨ i = .cinv o ∨ i = .cclean o) → h.activeLanes o.g = 0#96 → exec i s = .next (s.retire g q i h))

/-- R376, R377: a fence goes on with no register or byte changed and its entry in the Taster's window; one that
releases, and `fencex`, stand in the release buffer until what they order has performed. -/
def Obligations.FencesEnterTheOrder : Prop :=
  ∀ (s : State) (g q : Nat) (h : Holder) (i : Instr) (rel : Bool) (sc : Scope) (k : RelKind), Issues i s g q h →
    wellFormed i = true → h.replaying = none → (s.core g).taster.length < 1024 → (s.core g).releases.length < 16 →
    (∀ e ∈ h.ext, e.size ≠ 0) →
    ((∃ o, i = .fence o sc ∧ rel = orderRel o ∧ k = .fence o ∧ (orderAcq o = true → h.ll = [] ∧ h.ext = []))
      ∨ (i = .fencex ∧ rel = true ∧ sc = .die ∧ k = .fencex)) →
    Reaches (exec i s) fun t => t.mem = s.mem ∧ (∃ h', t.holder? g q = some h' ∧ PastIt h' h i)
      ∧ (∃ e, (t.core g).taster = (s.core g).taster ++ [e] ∧ e.slot = q ∧ e.kind = 3)
      ∧ (rel = false → (t.core g).releases = (s.core g).releases)
      ∧ (rel = true → ∃ r, (t.core g).releases = (s.core g).releases ++ [r] ∧ r.slot = q ∧ r.scope = sc ∧ r.kind = k)

/-- R378 to R380: `bari` sets the expected count of the team's object and clears its arrivals; `bara` and `barx` put
an arrival of the holder's items into the release buffer, and D waits for it; `barw` goes on when the phase has
passed, else it blocks. The arrival is then counted: D gets the phase before it, and the phase moves on when the
count is reached. -/
def Obligations.BarriersCountArrivals : Prop :=
  ∀ (s : State) (g q : Nat) (h : Holder) (b : Nat), h.replaying = none → s.needTeam g q h = none →
    let k := (s.barrierOf g h b).1
    let o := (s.barrierOf g h b).2
    let x := AMap.getD (s.core k).barriers o {}
    (∀ a, Issues (.bari a b) s g q h → Reaches (exec (.bari a b) s) fun t => t.mem = s.mem
      ∧ (∃ h', t.holder? g q = some h' ∧ PastIt h' h (.bari a b))
      ∧ (∃ y, AMap.find? (t.core k).barriers o = some y ∧ y.e = (h.readS a).toNat % 2 ^ 16 ∧ y.arrived = 0 ∧ y.drop = 0
          ∧ y.p = x.p)
      ∧ ∀ n, n ≠ o → AMap.find? (t.core k).barriers n = AMap.find? (s.core k).barriers n)
    ∧ (∀ d i, (i = .bara d b ∨ i = .barx d b) → Issues i s g q h → (s.core g).releases.length < 16 →
      (s.core g).taster.length < 1024 →
      Reaches (exec i s) fun t => t.mem = s.mem
        ∧ (∃ h', t.holder? g q = some h' ∧ PastIt h' h i ∧ h'.writers = h.writers ++ [d])
        ∧ ∃ r, (t.core g).releases = (s.core g).releases ++ [r] ∧ r.slot = q
          ∧ r.kind = .arrive k o (itemsArriving h) (if i = .barx d b then itemsArriving h else 0) d)
    ∧ (∀ a, Issues (.barw a b) s g q h →
      ((x.e = 0 ∨ (1 ≤ (x.p + 2 ^ 32 - (h.readS a).toNat) % 2 ^ 32 ∧ (x.p + 2 ^ 32 - (h.readS a).toNat) % 2 ^ 32 < 2 ^ 31)) →
        Reaches (exec (.barw a b) s) fun t => t.mem = s.mem ∧ ∃ h', t.holder? g q = some h' ∧ PastIt h' h (.barw a b))
      ∧ (¬(x.e = 0 ∨ (1 ≤ (x.p + 2 ^ 32 - (h.readS a).toNat) % 2 ^ 32
            ∧ (x.p + 2 ^ 32 - (h.readS a).toNat) % 2 ^ 32 < 2 ^ 31)) →
        Reaches (exec (.barw a b) s) fun t => t.mem = s.mem ∧ t.cores = (s.putHolder g q { h with
          status := .blocked (.barrier o (h.readS a).toNat) }).cores))
    ∧ (∀ a rest h0, (s.core g).arrivals = a :: rest → s.holder? g a.slot = some h0 → a.dest < 61 →
      let y := AMap.getD (s.core a.home).barriers a.obj {}
      Reaches (exec (.barrierArrivalCount g) s) fun t => t.mem = s.mem ∧ (t.core g).arrivals = rest
        ∧ (∃ h', t.holder? g a.slot = some h' ∧ (h'.readS a.dest).toNat = y.p % 2 ^ 32 ∧ h'.writers = h0.writers.erase a.dest
            ∧ OnlyScalar h' h0 a.dest ∧ h'.pc = h0.pc)
        ∧ ∃ z, AMap.getD (t.core a.home).barriers a.obj {} = z
          ∧ (y.e = 0 → z = y)
          ∧ (y.e ≠ 0 → y.arrived + a.n < y.e → z.p = y.p ∧ z.arrived = y.arrived + a.n ∧ z.e = y.e
              ∧ z.drop = (y.drop + a.drop) % 2 ^ 16)
          ∧ (y.e ≠ 0 → y.arrived + a.n = y.e → z.p = (y.p + 1) % 2 ^ 32 ∧ z.arrived = 0
              ∧ z.e = y.e - (y.drop + a.drop) % 2 ^ 16 ∧ z.drop = 0))

/-- R381, R385 to R388: `bclose` numbers the open batch and `bwait` waits for it; `wqpush` and `wqpop` send their
request to the work-queue unit and wait there, and its answer goes to D: 2 from a queue that is off or another
address space's, 1 from a full one; a pop of an empty queue sleeps, a push that is accepted advances Tail. `evwait`
ends when the value read differs from D, and else waits. -/
def Obligations.QueuesAndEventWaits : Prop :=
  ∀ (s : State) (g q : Nat) (h : Holder), h.replaying = none →
    (∀ d, Issues (.bclose d) s g q h → h.kind ≠ .range → (s.openBatches h).length < 256 → d < 61 →
      Reaches (exec (.bclose d) s) fun t => t.mem = s.mem ∧ ∃ h', t.holder? g q = some h' ∧ WentOn h' h (.bclose d)
        ∧ OnlyScalar h' h d ∧ (h'.readS d).toNat = (h.batchCount + 1) % 2 ^ 32 ∧ h'.openBatch = []
        ∧ h'.batchCount = (h.batchCount + 1) % 2 ^ 32
        ∧ AMap.find? h'.batches ((h.batchCount + 1) % 2 ^ 32) = some h.openBatch)
    ∧ (∀ a, Issues (.bwait a) s g q h → h.kind ≠ .range →
      (s.batchPast h (h.readS a).toNat = true → Reaches (exec (.bwait a) s) fun t => t.mem = s.mem
        ∧ ∃ h', t.holder? g q = some h' ∧ PastIt h' h (.bwait a))
      ∧ (s.batchPast h (h.readS a).toNat = false →
        exec (.bwait a) s = .next (s.putHolder g q { h with status := .blocked (.batch (h.readS a).toNat) })))
    ∧ (∀ o i k al, (i = .wqpop o ∨ i = .wqpush o) → Issues i s g q h → wellFormed i = true → o.space = .team →
      (s.core g).taster = [] → s.needTeam g q h = none → trapReady s g q h = true →
      ReleasesHere s g q → bitN (s.core g).dbg.dbgctl 0 = false →
      let w := (h.readS o.q).toNat % 256
      let ea := eaOf h i o.a o.b o.kind 127
      let n := 16 * 2 ^ (s.wq w).record
      s.teamAlloc g h.grid (h.teamOf (s.tsize h)) = some (k, al) → ea + n ≤ al.size →
      Reaches (exec i s) fun t => t.mem = s.mem
        ∧ (∃ h', t.holder? g q = some h' ∧ h'.status = .blocked (.workQueue w) ∧ h'.pc = h.pc
            ∧ h'.sregs = h.sregs ∧ h'.vregs = h.vregs ∧ h'.preds = h.preds)
        ∧ ∃ a, t.ctl.wqArrivals = s.ctl.wqArrivals ++ [a] ∧ a.core = g ∧ a.slot = q ∧ a.w = w ∧ a.ea = ea ∧ a.dest = o.d
          ∧ (a.pop = true ↔ i = .wqpop o)
          ∧ (i = .wqpush o → (s.wq w).enable = true → (s.wq w).asid = h.asid →
              a.data = Memory.readBytes (s.core k).spm (al.off + ea) n))
    ∧ (∀ a rest h0, s.ctl.wqArrivals = a :: rest → s.holder? a.core a.slot = some h0 → h0.replaying = none → a.dest < 61 →
      let w := s.wq a.w
      ((w.enable = false ∨ w.asid ≠ h0.asid) → Reaches (exec .workQueueUnitArrival s) fun t => t.mem = s.mem
        ∧ t.ctl.wqArrivals = rest ∧ ∃ h', t.holder? a.core a.slot = some h' ∧ h'.pc = (h0.pc + 8) % 2 ^ 64
          ∧ h'.readS a.dest = 2#32 ∧ OnlyScalar h' h0 a.dest)
      ∧ (w.enable = true → w.asid = h0.asid → a.pop = false → w.count = w.cap →
        Reaches (exec .workQueueUnitArrival s) fun t => t.mem = s.mem
          ∧ (t.wq a.w).refused = min (w.refused + 1) 0xFFFFFFFF ∧ (t.wq a.w).tail = w.tail
          ∧ ∃ h', t.holder? a.core a.slot = some h' ∧ h'.pc = (h0.pc + 8) % 2 ^ 64 ∧ h'.readS a.dest = 1#32)
      ∧ (∀ s1 bs, w.enable = true → w.asid = h0.asid → a.pop = false → w.count ≠ w.cap → w.sleepers = [] →
        (s.updCtl (fun c => { c with wqArrivals := rest })).ctlWrite w.asid (w.base + w.tail % 2 ^ w.size * (16 * 2 ^ w.record))
          a.data = .ok s1 bs → s1.wq a.w = w → s1.holder? a.core a.slot = some h0 →
        Reaches (exec .workQueueUnitArrival s) fun t => t.mem = s1.mem ∧ (t.wq a.w).tail = (w.tail + 1) % 2 ^ 32
          ∧ (t.wq a.w).head = w.head
          ∧ ∃ h', t.holder? a.core a.slot = some h' ∧ h'.pc = (h0.pc + 8) % 2 ^ 64 ∧ h'.readS a.dest = 0#32)
      ∧ (w.enable = true → w.asid = h0.asid → a.pop = true → w.count = 0 →
        Reaches (exec .workQueueUnitArrival s) fun t => t.mem = s.mem ∧ (t.wq a.w).sleepers = w.sleepers ++ [a]
          ∧ t.holder? a.core a.slot = some h0))
    ∧ (∀ o k al, Issues (.evwait o) s g q h → wellFormed (.evwait o) = true → o.space = .team →
      memWait s g q h false false = none → s.farRead g q h (.evwait o) = none → h.readsBefore h.nextIdx = false →
      s.needTeam g q h = none → h.ext = [] → bitN (s.core g).dbg.dbgctl 0 = false →
      o.d + (if o.elem = .b64 then 2 else 1) ≤ 61 →
      let ea := eaOf h (.evwait o) o.a o.b o.kind 127
      s.teamAlloc g h.grid (h.teamOf (s.tsize h)) = some (k, al) → ea + o.elem.bytes ≤ al.size →
      let v := Memory.readLE (s.core k).spm (al.off + ea) o.elem.bytes
      (v ≠ h.readW (o.elem == .b64) o.d → Reaches (exec (.evwait o) s) fun t => t.mem = s.mem
        ∧ ∃ h', t.holder? g q = some h' ∧ WentOn h' h (.evwait o) ∧ h'.readW (o.elem == .b64) o.d = v ∧ h'.vregs = h.vregs)
      ∧ (v = h.readW (o.elem == .b64) o.d → Reaches (exec (.evwait o) s) fun t => t.mem = s.mem
        ∧ ∃ h', t.holder? g q = some h' ∧ h'.status = .blocked .event ∧ h'.pc = h.pc ∧ h'.sregs = h.sregs
          ∧ ∃ e, h'.ev = some e ∧ e.comparand = v
            ∧ e.deadline = if h.readS o.t = 0#32 then none else some (s.clock + (h.readS o.t).toNat)))

/-- R395, R396, R404: the accumulator instructions of a group. `macq` binds an unbound name to a new tile of zeros,
or takes a tile back from the engine when no pass is on it; `mrel` gives it to the engine, `mrel.f` frees it;
`mzero` clears the active rows; `mwr` writes columns of the active rows and `mrd` reads them into a long-latency
instruction. On a name in another state they trap. -/
def Obligations.AccumulatorInstructions : Prop :=
  ∀ (s : State) (g q : Nat) (h : Holder) (gd : Guard) (a : Nat),
    (∀ i, (i = .mrel gd a ∨ i = .mrelF gd a ∨ i = .mzero gd a) → AccGoes s g q h i gd → MayTrap s g q h →
      (h.acc a).state ≠ 1 → Reaches (exec i s) fun t => TakesTrap s t g q h 3 a)
    ∧ (∀ cols, AccGoes s g q h (.macq gd a cols) gd → (h.acc a).state = 0 → cols + 1 ≤ (s.cluster (cluOf g)).freeUnits →
      Reaches (exec (.macq gd a cols) s) fun t => t.mem = s.mem ∧ ∃ h' tile, t.holder? g q = some h'
        ∧ WentOn h' h (.macq gd a cols) ∧ h'.sregs = h.sregs ∧ h'.vregs = h.vregs ∧ h'.shapes = h.shapes
        ∧ h'.acc a = ⟨1, (s.cluster (cluOf g)).nextTile⟩ ∧ (∀ b, b ≠ a → h'.acc b = h.acc b)
        ∧ t.tile? (cluOf g) (s.cluster (cluOf g)).nextTile = some tile ∧ tile.cols = 16 * (cols + 1) ∧ tile.passes = 0
        ∧ ∀ m n, tileElem tile m n = 0)
    ∧ (∀ cols, AccGoes s g q h (.macq gd a cols) gd → (h.acc a).state = 0 → (s.cluster (cluOf g)).freeUnits < cols + 1 →
      exec (.macq gd a cols) s = .next (s.putHolder g q { h with status := .blocked (.units (cols + 1)) }))
    ∧ (∀ cols tile, AccGoes s g q h (.macq gd a cols) gd → (h.acc a).state = 2 →
      s.tile? (cluOf g) (h.acc a).tile = some tile → tile.poison = 0 → tile.payload = 0 →
      (tile.passes = 0 → Reaches (exec (.macq gd a cols) s) fun t => t.mem = s.mem ∧ ∃ h', t.holder? g q = some h'
        ∧ WentOn h' h (.macq gd a cols) ∧ h'.acc a = ⟨1, (h.acc a).tile⟩ ∧ h'.fflags = (h.fflags ||| tile.flags) % 32)
      ∧ (tile.passes ≠ 0 →
        exec (.macq gd a cols) s = .next (s.putHolder g q { h with status := .blocked (.tile (h.acc a).tile) })))
    ∧ (AccGoes s g q h (.mrel gd a) gd → (h.acc a).state = 1 →
      Reaches (exec (.mrel gd a) s) fun t => t.mem = s.mem ∧ ∃ h', t.holder? g q = some h' ∧ WentOn h' h (.mrel gd a)
        ∧ h'.acc a = ⟨2, (h.acc a).tile⟩ ∧ h'.sregs = h.sregs ∧ h'.vregs = h.vregs
        ∧ t.tile? (cluOf g) (h.acc a).tile = s.tile? (cluOf g) (h.acc a).tile)
    ∧ (AccGoes s g q h (.mrelF gd a) gd → (h.acc a).state = 1 → bitN (s.cluster (cluOf g)).eng.ectl 1 = false →
      AMap.sorted (s.cluster (cluOf g)).tiles = true → AMap.sorted h.accs = true →
      Reaches (exec (.mrelF gd a) s) fun t => t.mem = s.mem ∧ ∃ h', t.holder? g q = some h' ∧ WentOn h' h (.mrelF gd a)
        ∧ (h'.acc a).state = 0 ∧ h'.sregs = h.sregs ∧ h'.vregs = h.vregs ∧ t.tile? (cluOf g) (h.acc a).tile = none)
    ∧ (∀ tile, AccGoes s g q h (.mzero gd a) gd → (h.acc a).state = 1 → s.tile? (cluOf g) (h.acc a).tile = some tile →
      AMap.sorted tile.elems = true →
      Reaches (exec (.mzero gd a) s) fun t => t.mem = s.mem ∧ (∃ h', t.holder? g q = some h' ∧ PastIt h' h (.mzero gd a))
        ∧ ∃ tile', t.tile? (cluOf g) (h.acc a).tile = some tile'
          ∧ ∀ m < 96, ∀ n < 128, tileElem tile' m n = if (h.activeLanes gd).getLsbD m then 0 else tileElem tile m n)
    ∧ (∀ v b logn tile, AccGoes s g q h (.mwr gd a v b logn) gd → (h.acc a).state = 1 →
      s.tile? (cluOf g) (h.acc a).tile = some tile → AMap.sorted tile.elems = true → tile.cols ≤ 128 →
      let c0 := (h.readS b).toNat % 128
      c0 + 2 ^ logn ≤ tile.cols →
      Reaches (exec (.mwr gd a v b logn) s) fun t => t.mem = s.mem
        ∧ (∃ h', t.holder? g q = some h' ∧ PastIt h' h (.mwr gd a v b logn))
        ∧ ∃ tile', t.tile? (cluOf g) (h.acc a).tile = some tile'
          ∧ ∀ m < 96, ∀ n < 128, tileElem tile' m n
            = if (h.activeLanes gd).getLsbD m ∧ c0 ≤ n ∧ n < c0 + 2 ^ logn then h.vLane (v + (n - c0)) m else tileElem tile m n)
    ∧ (∀ la ctr d b logn tile, AccGoes s g q h (.mrd gd la ctr d a b logn) gd → (h.acc a).state = 1 →
      h.counterFull la ctr = false → s.tile? (cluOf g) (h.acc a).tile = some tile →
      (∀ m n, tileElem tile m n < 2 ^ 32) →
      let c0 := (h.readS b).toNat % 128
      c0 + 2 ^ logn ≤ tile.cols →
      Reaches (exec (.mrd gd la ctr d a b logn) s) fun t => t.mem = s.mem ∧ ∃ h' l, t.holder? g q = some h'
        ∧ PastIt h' h (.mrd gd la ctr d a b logn) ∧ h'.ll = h.ll.map LongOp.tick ++ [l]
        ∧ l.instr = .mrd gd la ctr d a b logn ∧ l.vals.map (·.1) = laneList (h.activeLanes gd)
        ∧ ∀ p ∈ l.vals, ∀ j < 2 ^ logn, p.2 / 2 ^ (32 * j) % 2 ^ 32 = tileElem tile p.1 (c0 + j))
    ∧ (∀ idx l la ctr d b logn, s.holder? g q = some h → h.long? idx = some l → l.idx = idx →
      l.instr = .mrd gd la ctr d a b logn → l.due ≤ s.clock → l.bad = none → l.vals ≠ [] → (l.vals.map (·.1)).Nodup →
      (∀ j k, j < k → k < 2 ^ logn → h.vkey (d + j) ≠ h.vkey (d + k)) →
      Reaches (exec (.longLatencyComplete g q idx) s) fun t => t.mem = s.mem ∧ ∃ h', t.holder? g q = some h'
        ∧ h'.ll = h.ll.filter (fun x => x.idx != idx) ∧ h'.sregs = h.sregs
        ∧ ∀ p ∈ l.vals, p.1 < 96 → ∀ j < 2 ^ logn, h'.vLane (d + j) p.1 = p.2 / 2 ^ (32 * j) % 2 ^ 32)

/-- R397 to R401, R227: an `mmul` whose operands translate enters its entries into the reservation table and goes
on, with no register changed; a full table holds it; a name the engine does not have traps. R405: `mld` issues one
row address a lane, and `mst` of a bound tile stores its rows. R406: `hset` and `hget` move one 64-bit word of a
shape record, `hst` stores its 64 bytes and `hld` issues a load of them. -/
def Obligations.MatrixAndShapeInstructions : Prop :=
  ∀ (s : State) (g q : Nat) (h : Holder),
    (∀ gd a sa sb c e f z, let i := Instr.mmul gd a sa sb c e f z
      Issues i s g q h → wellFormed i = true → h.kind ≠ .range → h.replaying = none → h.activeLanes gd = 0#96 →
      (h.acc a).state = 2 → exec i s = .next (s.retire g q i h))
    ∧ (∀ gd a sa sb c e f z os s1 r, let i := Instr.mmul gd a sa sb c e f z
      AccGoes s g q h i gd → (h.acc a).state = 2 → s.fencexPending g q = false → (h.readS sa).toNat < 2 ^ 20 → (h.readS sa).toNat % 16 = 0 →
      (h.readS sb).toNat % 2 ^ 12 % 16 = 0 → (h.readS sb).toNat / 2 ^ 12 % 2 ^ 16 % 16 = 0 →
      fbOk (AMap.getD h.shapes f 0) = true → s.needTeam g q h = none → (s.core g).taster.length < 1024 →
      checkOctets g h (h.activeLanes gd) (AMap.getD h.shapes f 0) c e (octets (h.activeLanes gd)) [] s = .ok s1 os →
      (64 < (s1.cluster (cluOf g)).table.length + (octetKeys os).length →
        exec i s = .next (s1.putHolder g q { h with status := .blocked (.table (octetKeys os).length) }))
      ∧ ((s1.cluster (cluOf g)).table.length + (octetKeys os).length ≤ 64 →
        readRows g h (AMap.getD h.shapes f 0) (h.readS sa).toNat (h.readS sb).toNat (laneList (h.activeLanes gd)) { s := s1 }
          = .ok r.s r →
        Reaches (exec i s) fun t => t.mem = r.s.mem ∧ (∃ h', t.holder? g q = some h' ∧ PastIt h' h i)
          ∧ ∃ es, (t.cluster (cluOf g)).table = (r.s.cluster (cluOf g)).table ++ es ∧ es.length = (octetKeys os).length
            ∧ ∀ x ∈ es, x.core = g ∧ x.slot = q ∧ x.tile = (h.acc a).tile ∧ x.zero = z ∧ x.staged = false
              ∧ x.rows &&& h.activeLanes gd = x.rows))
    ∧ (∀ gd a sa sb c e f z, let i := Instr.mmul gd a sa sb c e f z
      Issues i s g q h → wellFormed i = true → h.kind ≠ .range → h.activeLanes gd = 0#96 → MayTrap s g q h →
      (h.acc a).state ≠ 2 → Reaches (exec i s) fun t => TakesTrap s t g q h 3 a)
    ∧ (∀ gd la ctr a b p sp sc, let i := Instr.mld gd la ctr a b p sp sc
      AccGoes s g q h i gd → (h.acc a).state = 1 → memWait s g q h false false = none → s.farRead g q h i = none →
      h.counterFull la ctr = false → (teamSpace sp = true → s.needTeam g q h = none) →
      Reaches (exec i s) fun t => t.mem = s.mem ∧ ∃ h' l, t.holder? g q = some h' ∧ PastIt h' h i
        ∧ h'.ll = h.ll.map LongOp.tick ++ [l] ∧ l.instr = i ∧ l.vals = []
        ∧ l.lanes.map (fun y => (y.lane, y.ea)) = (laneList (h.activeLanes gd)).map (fun L => (L, rowAddress h b p L)))
    ∧ (∀ gd a b p sc tile place, let i := Instr.mst gd a b p .team sc
      AccGoes s g q h i gd → (h.acc a).state = 1 → s.tile? (cluOf g) (h.acc a).tile = some tile →
      (∀ m n, tileElem tile m n < 2 ^ 32) →
      memWait s g q h false true = none → s.needTeam g q h = none → (∀ k, Memory.wf (s.core k).spm = true) →
      InScratchpad s g h true .team (4 * tile.cols) .store true place
        ((laneList (h.activeLanes gd)).map (fun L => rowAddress h b p L)) →
      (∀ L ∈ laneList (h.activeLanes gd), ∀ M ∈ laneList (h.activeLanes gd), L ≠ M → ∀ k a,
        ¬(covers (place (rowAddress h b p L)) (4 * tile.cols) k a ∧ covers (place (rowAddress h b p M)) (4 * tile.cols) k a)) →
      Reaches (exec i s) fun t => t.mem = s.mem ∧ (∃ h', t.holder? g q = some h' ∧ PastIt h' h i)
        ∧ (∀ L ∈ laneList (h.activeLanes gd), ∀ n < tile.cols,
            Memory.readLE (t.core (place (rowAddress h b p L)).1).spm ((place (rowAddress h b p L)).2 + 4 * n) 4
              = tileElem tile L n)
        ∧ ∀ k a, (∀ L ∈ laneList (h.activeLanes gd), ¬covers (place (rowAddress h b p L)) (4 * tile.cols) k a) →
            Memory.read (t.core k).spm a = Memory.read (s.core k).spm a)
    ∧ (∀ d a k, Issues (.hset d a k) s g q h → h.replaying = none → AMap.getD h.shapes d 0 < 2 ^ 512 → k < 8 →
      Reaches (exec (.hset d a k) s) fun t => t.mem = s.mem ∧ ∃ h', t.holder? g q = some h' ∧ WentOn h' h (.hset d a k)
        ∧ h'.sregs = h.sregs ∧ h'.vregs = h.vregs ∧ h'.accs = h.accs
        ∧ AMap.getD h'.shapes d 0 / 2 ^ (64 * k) % 2 ^ 64 = pairOf h a
        ∧ (∀ j < 8, j ≠ k → AMap.getD h'.shapes d 0 / 2 ^ (64 * j) % 2 ^ 64 = AMap.getD h.shapes d 0 / 2 ^ (64 * j) % 2 ^ 64)
        ∧ ∀ e, e ≠ d → AMap.getD h'.shapes e 0 = AMap.getD h.shapes e 0)
    ∧ (∀ d a k, Issues (.hget d a k) s g q h → h.replaying = none → d + 2 ≤ 61 →
      Reaches (exec (.hget d a k) s) fun t => t.mem = s.mem ∧ ∃ h', t.holder? g q = some h' ∧ WentOn h' h (.hget d a k)
        ∧ pairOf h' d = AMap.getD h.shapes a 0 / 2 ^ (64 * k) % 2 ^ 64 ∧ h'.vregs = h.vregs ∧ h'.accs = h.accs
        ∧ h'.shapes = h.shapes ∧ ∀ n, n ≠ d → n ≠ d + 1 → h'.readS n = h.readS n)
    ∧ (∀ d a, Issues (.hst d a .team) s g q h → h.replaying = none → memWait s g q h false true = none →
      s.needTeam g q h = none → h.kind ≠ .range → (∀ k, Memory.wf (s.core k).spm = true) →
      (s.core g).delays q = false → AMap.getD h.shapes d 0 < 2 ^ 512 → ∀ place,
      InScratchpad s g h true .team 64 .store true place [pairOf h a] →
      Reaches (exec (.hst d a .team) s) fun t => t.mem = s.mem ∧ (∃ h', t.holder? g q = some h' ∧ PastIt h' h (.hst d a .team))
        ∧ Memory.readLE (t.core (place (pairOf h a)).1).spm (place (pairOf h a)).2 64 = AMap.getD h.shapes d 0
        ∧ ∀ k b, ¬covers (place (pairOf h a)) 64 k b → Memory.read (t.core k).spm b = Memory.read (s.core k).spm b)
    ∧ (∀ la ctr d a sp, Issues (.hld la ctr d a sp) s g q h → h.replaying = none → memWait s g q h false false = none →
      s.farRead g q h (.hld la ctr d a sp) = none → h.counterFull la ctr = false →
      (teamSpace sp = true → s.needTeam g q h = none) →
      Reaches (exec (.hld la ctr d a sp) s) fun t => t.mem = s.mem ∧ ∃ h' l, t.holder? g q = some h'
        ∧ PastIt h' h (.hld la ctr d a sp) ∧ h'.ll = h.ll.map LongOp.tick ++ [l] ∧ l.instr = .hld la ctr d a sp
        ∧ l.lanes.map (fun y => (y.lane, y.ea)) = [(127, pairOf h a)])
    ∧ (∀ idx l la ctr d a y place, s.holder? g q = some h → h.long? idx = some l → l.idx = idx →
      l.instr = .hld la ctr d a .team → l.due ≤ s.clock → l.bad = none → l.vals = [] → l.lanes = [y] → h.asking idx = false →
      h.readsBefore idx = false → InScratchpad s g h true .team 64 .load true place [y.ea] →
      Reaches (exec (.longLatencyComplete g q idx) s) fun t => t.mem = s.mem ∧ ∃ h', t.holder? g q = some h'
        ∧ h'.ll = h.ll.filter (fun x => x.idx != idx) ∧ h'.sregs = h.sregs ∧ h'.vregs = h.vregs
        ∧ AMap.getD h'.shapes d 0 = Memory.readLE (s.core (place y.ea).1).spm (place y.ea).2 64)

/-- R391 to R393, R407 to R413: a command of a group with no active lane does nothing; with operands that the rules
refuse it is an illegal encoding; it waits when 64 registers are tagged or 64 commands of its queue live; else it
enters its queue behind the queue's live commands, a new future tags D, and its start is due. `qfence` makes later
commands of the queue wait for those of the named queues. -/
def Obligations.EngineCommandsEnterTheirQueue : Prop :=
  ∀ (s : State) (g q : Nat) (h : Holder),
    (∀ i o b cl k, commandOf h k i = some (o, b, cl) → (cl = true → k = collPlace s h o) →
      (Issues i s g q h → h.kind ≠ .range → h.activeLanes o.g = 0#96 → exec i s = .next (s.retire g q i h))
      ∧ (GroupGoes s g q h i o.g → MayTrap s g q h → b = none →
          Reaches (exec i s) fun t => TakesTrap s t g q h 0 ((encode i).headD 0))
      ∧ (∀ x, GroupGoes s g q h i o.g → b = some x → s.needTeam g q h = none → TagsFull h o.d →
          exec i s = .next (s.putHolder g q { h with status := .blocked .tagsFull }))
      ∧ (∀ x, GroupGoes s g q h i o.g → b = some x → s.needTeam g q h = none → ¬TagsFull h o.d →
          64 ≤ (s.queueLive h.grid h.team o.queue).length →
          exec i s = .next (s.putHolder g q { h with status := .blocked (.queueFull o.queue) }))
      ∧ (∀ x s1 cnt, GroupGoes s g q h i o.g → b = some x → s.needTeam g q h = none → ¬TagsFull h o.d → o.d < 61 →
          (s.queueLive h.grid h.team o.queue).length < 64 →
          (s.commands.filter (fun p => p.2.engine == if cl then 320 + dieOf g else 256 + cluOf g)).length < 16128 →
          (o.cnt = none ∧ s1 = s ∧ cnt = none
            ∨ ∃ n pa attr, o.cnt = some n ∧ counterAt s g h (some n) = .at_ s1 pa attr ∧ cnt = some (pa, attr)) →
          Reaches (exec i s) fun t => t.mem = s1.mem
            ∧ (∃ h', t.holder? g q = some h' ∧ WentOn h' h i ∧ TaggedWith h' h o.d s1.nextFuture
                ∧ h'.cmds = h.cmds ++ [s1.nextCommand]
                ∧ h'.openBatch = if cl then h.openBatch else h.openBatch ++ [s1.nextCommand])
            ∧ AMap.find? t.futures s1.nextFuture = some { op := .command s1.nextCommand }
            ∧ Event.commandStart s1.nextCommand ∈ t.agenda
            ∧ ∃ c, AMap.find? t.commands s1.nextCommand = some c ∧ c.body = x ∧ c.st = .queued ∧ c.grid = h.grid
              ∧ c.team = h.team ∧ c.queue = o.queue ∧ c.asid = h.asid ∧ c.fut = some s1.nextFuture ∧ c.cnt = cnt
              ∧ c.pc = h.pc ∧ c.core = g ∧ c.slot = q ∧ c.off = 0
              ∧ ∀ id ∈ s1.queueLive h.grid h.team o.queue, id ∈ c.deps))
    ∧ (∀ queue mask gr, Issues (.qfence queue mask) s g q h → h.replaying = none → s.needTeam g q h = none →
      AMap.find? s.grids h.grid = some gr →
      Reaches (exec (.qfence queue mask) s) fun t => t.mem = s.mem
        ∧ (∃ h', t.holder? g q = some h' ∧ PastIt h' h (.qfence queue mask))
        ∧ ∃ gr', AMap.find? t.grids h.grid = some gr'
          ∧ ∀ n id, (n = queue ∨ n < 16 ∧ bitN mask n = true) → n < 16 → id ∈ s.queueLive h.grid (h.teamOf (s.tsize h)) n →
              id ∈ AMap.getD gr'.qdeps (h.teamOf (s.tsize h) * 16 + queue) [])

/-- R128, R408, R409, R416: a queued command starts once those it waits for are gone and its engine runs; a running
`cpyl` whose place has reached its length completes, and one that has been cancelled ends with its count; a move
within one scratchpad copies its bytes, advances the place and changes nothing else. A completion puts the status on
the future and ends the command. -/
def Obligations.EngineCommandsRun : Prop :=
  ∀ (s : State) (id : Nat) (c : Command), AMap.find? s.commands id = some c → AMap.sorted s.commands = true →
    (c.st = .queued → (∀ o b k n m, c.body ≠ .coll o b k n m) → c.mayStart s = true → (s.engineOf c).stopped = false →
      c.saved = false → s.dieHalted c.engineDie = false → s.stopsAt c false = false →
      Reaches (exec (.commandStart id) s) fun t => t.mem = s.mem
        ∧ AMap.find? t.commands id = some { c with st := .running, started := s.clock }
        ∧ Event.commandComplete id ∈ t.agenda)
    ∧ (c.st = .queued → c.mayStart s = false → exec (.commandStart id) s = .next s)
    ∧ (∀ src dst ss ds len f, c.body = .cpyl src dst ss ds len → c.st = .running → c.cancel = false → c.asked = false →
      c.saved = false → s.dieHalted c.engineDie = false → len ≤ c.pos → c.cnt = none → c.fut = some f → c.packet = none →
      bitN (s.engineOf c).ectl 0 = false →
      Reaches (exec (.commandComplete id) s) fun t => t.mem = s.mem ∧ AMap.find? t.commands id = none
        ∧ Event.futureComplete f 0 ∈ t.agenda)
    ∧ (∀ f, c.st = .running → c.cancel = true → c.asked = false → c.cnt = none → c.fut = some f → c.packet = none →
      bitN (s.engineOf c).ectl 0 = false →
      Reaches (exec (.commandComplete id) s) fun t => t.mem = s.mem ∧ AMap.find? t.commands id = none
        ∧ Event.futureComplete f (2 ^ 31 + min c.off (2 ^ 31 - 1)) ∈ t.agenda)
    ∧ (∀ src dst len k a1 a2, let n := min (len - c.pos) (min (128 - (src + c.pos) % 2 ^ 64 % 128) (128 - (dst + c.pos) % 2 ^ 64 % 128))
      c.body = .cpyl src dst .team .team len → c.st = .running → c.cancel = false → c.asked = false → c.saved = false →
      s.dieHalted c.engineDie = false → c.pos < len → c.got = none → c.reported = true → c.old = [] →
      Memory.wf (s.core k).spm = true →
      s.resolve c.ctx .team ((src + c.pos) % 2 ^ 64) n .load true = .ok (.spm k a1 n) s →
      s.resolve c.ctx .team ((dst + c.pos) % 2 ^ 64) n .store true = .ok (.spm k a2 n) s →
      Reaches (exec (.commandComplete id) s) fun t => t.mem = s.mem
        ∧ (∃ c', AMap.find? t.commands id = some c' ∧ c'.pos = c.pos + n ∧ c'.off = c.off + n ∧ c'.st = .running ∧ c'.body = c.body)
        ∧ (∀ j < n, Memory.read (t.core k).spm (a2 + j) = Memory.read (s.core k).spm (a1 + j))
        ∧ ∀ j b, (j ≠ k ∨ b < a2 ∨ a2 + n ≤ b) → Memory.read (t.core j).spm b = Memory.read (s.core j).spm b)
    ∧ (c.st = .suspended → s.cmdOwned id = true → exec (.commandComplete id) s = .next s)

/-- R415 to R419: `fwait` and `gwait` wait while their register is tagged; `ftest` gives 0 before the status has
arrived and 1 once after; `fcancel` and `gcancel` ask the operation behind the tag to end; `gwait.all` waits for
every grid of the team. `glaunch` traps at depth 10; a record that is not aligned gives status 0x104; else its grid,
one level deeper and of the same ASID, is to be checked, and D is tagged. -/
def Obligations.FuturesAndGridInstructions : Prop :=
  ∀ (s : State) (g q : Nat) (h : Holder), h.replaying = none →
    (∀ a i gd, (i = .fwait a ∨ i = .gwait gd a ∧ s.needTeam g q h = none ∧ h.actsOnce gd = true) →
      Issues i s g q h →
      (AMap.has h.tags a = true → exec i s = .next (s.putHolder g q { h with status := .blocked (.future a) }))
      ∧ (AMap.has h.tags a = false → Reaches (exec i s) fun t => t.mem = s.mem ∧ ∃ h', t.holder? g q = some h'
          ∧ PastIt h' h i ∧ h'.tags = h.tags))
    ∧ (∀ d a, Issues (.ftest d a) s g q h → d < 61 →
      (AMap.has h.tags a = true → Reaches (exec (.ftest d a) s) fun t => t.mem = s.mem ∧ ∃ h', t.holder? g q = some h'
          ∧ h'.pc = (h.pc + 8) % 2 ^ 64 ∧ h'.readS d = 0#32 ∧ OnlyScalar h' h d ∧ (d ≠ a → AMap.sorted h.tags = true →
            AMap.find? h'.tags a = AMap.find? h.tags a))
      ∧ (AMap.has h.tags a = false → a ∈ h.landed → Reaches (exec (.ftest d a) s) fun t => t.mem = s.mem
          ∧ ∃ h', t.holder? g q = some h' ∧ h'.pc = (h.pc + 8) % 2 ^ 64 ∧ h'.readS d = 1#32 ∧ OnlyScalar h' h d
            ∧ a ∉ h'.landed))
    ∧ (∀ a f, Issues (.fcancel a) s g q h →
      (AMap.find? h.tags a = none → exec (.fcancel a) s = .next (s.retire g q (.fcancel a) h))
      ∧ (∀ n st tm, AMap.find? h.tags a = some f → AMap.find? s.futures f = some ⟨.grid n, st, tm⟩ →
          Reaches (exec (.fcancel a) s) fun t => t.mem = s.mem ∧ Event.gridCancel n ∈ t.agenda
            ∧ ∃ h', t.holder? g q = some h' ∧ PastIt h' h (.fcancel a))
      ∧ (∀ n st tm c, AMap.find? h.tags a = some f → AMap.find? s.futures f = some ⟨.command n, st, tm⟩ →
          AMap.find? s.commands n = some c → c.st = .running → (∀ o b k m x, c.body ≠ .coll o b k m x) →
          Reaches (exec (.fcancel a) s) fun t => t.mem = s.mem ∧ AMap.find? t.commands n = some { c with cancel := true }
            ∧ Event.commandComplete n ∈ t.agenda))
    ∧ (∀ gd a f n st tm, OnceGoes s g q h (.gcancel gd a) gd → AMap.find? h.tags a = some f →
      AMap.find? s.futures f = some ⟨.grid n, st, tm⟩ →
      Reaches (exec (.gcancel gd a) s) fun t => t.mem = s.mem ∧ Event.gridCancel n ∈ t.agenda
        ∧ ∃ h', t.holder? g q = some h' ∧ PastIt h' h (.gcancel gd a))
    ∧ (∀ gd, OnceGoes s g q h (.gwaitAll gd) gd →
      (s.childRuns h.grid (h.teamOf (s.tsize h)) = true → exec (.gwaitAll gd) s = .next (s.putHolder g q { h with status := .blocked .grids }))
      ∧ (s.childRuns h.grid (h.teamOf (s.tsize h)) = false → Reaches (exec (.gwaitAll gd) s) fun t => t.mem = s.mem
          ∧ ∃ h', t.holder? g q = some h' ∧ PastIt h' h (.gwaitAll gd)))
    ∧ (∀ f status fu, AMap.find? s.futures f = some fu → AMap.sorted s.futures = true →
      Reaches (exec (.futureComplete f status) s) fun t => t.mem = s.mem ∧ AMap.find? t.futures f = none
        ∧ ∀ k p x r, s.holder? k p = some x → List.find? (fun y => y.2 == f) x.tags = some (r, f) → r < 61 →
          AMap.sorted x.tags = true →
          ∃ y, t.holder? k p = some y ∧ (y.readS r).toNat = status % 2 ^ 32 ∧ AMap.find? y.tags r = none ∧ r ∈ y.landed
            ∧ OnlyScalar y x r ∧ y.pc = x.pc)
    ∧ (∀ gd d a, Issues (.glaunch gd d a) s g q h → h.kind ≠ .range → h.activeLanes gd = 0#96 →
      exec (.glaunch gd d a) s = .next (s.retire g q (.glaunch gd d a) h))
    ∧ (∀ gd d a, let i := Instr.glaunch gd d a
      GroupGoes s g q h i gd → s.needTeam g q h = none → d < 61 →
      (MayTrap s g q h → 10 ≤ h.depth → Reaches (exec i s) fun t => TakesTrap s t g q h 8 10)
      ∧ (h.depth < 10 → ¬TagsFull h d → pairOf h a % 128 ≠ 0 → Reaches (exec i s) fun t => t.mem = s.mem
          ∧ (∃ h', t.holder? g q = some h' ∧ WentOn h' h i ∧ TaggedWith h' h d s.nextFuture)
          ∧ Event.futureComplete s.nextFuture 0x104 ∈ t.agenda)
      ∧ (∀ t0 s1 s2 bs lo hi, h.depth < 10 → ¬TagsFull h d → pairOf h a % 128 = 0 → (s.core g).taster.length < 1024 →
          s.resolve (holderCtx s g h true) .glob (pairOf h a) 128 .load true = .ok t0 s1 →
          s1.readTarget (holderCtx s g h true) t0 = .ok bs lo hi s2 → trapReady s2 g q h = true →
          (s2.core g).taster = [] → ((s2.core g).floor q).contain = 0 → ((s2.core g).floor q).covered = [] →
          (∀ d < 9, AMap.find? (s2.die d).quarantined g = none) → ((s2.die (dieOf g)).checker 1 (g % 32)).peers = [] →
          Reaches (exec i s) fun t => t.mem = s2.mem
            ∧ (∃ h', t.holder? g q = some h' ∧ WentOn h' h i ∧ TaggedWith h' h d s2.nextFuture)
            ∧ AMap.find? t.futures s2.nextFuture = some { op := .grid s2.nextGrid }
            ∧ Event.launchRecordCheck s2.nextGrid ∈ t.agenda
            ∧ ∃ gr, AMap.find? t.grids s2.nextGrid = some gr ∧ gr.accepted = false ∧ gr.parent = some (h.grid, h.team)
              ∧ gr.fut = some s2.nextFuture
              ∧ gr.record = setField (setField (leValue bs) 867 4 h.depth) 992 16 h.asid))

/-- R327, R328, R428: `trap n` enters the handler with cause 12, value n, its own address as the frame's PC and the
next one in `%tpc`; `tret` leaves the handler for `%tpc`; `tesc` hands the frame to the recovery firmware; `halt`
stops the slot after itself. R243, R244, R329: `sget` gives the register's value, and `sset` writes `%fflags`,
`%tbase` and `%tpc`. -/
def Obligations.SystemInstructions : Prop :=
  ∀ (s : State) (g q : Nat) (h : Holder),
    (∀ n, Issues (.trap n) s g q h → MayTrap s g q h → Reaches (exec (.trap n) s) fun t => t.mem = s.mem
      ∧ ∃ h', t.holder? g q = some h' ∧ h'.mode = true ∧ h'.status = .ready ∧ h'.pc = (s.core g).tbase
        ∧ h'.tcause % 256 = 12 ∧ h'.tval = n % 2 ^ 64 ∧ h'.tpc = (h.pc + 8) % 2 ^ 64 ∧ field h'.trapFrame 872 56 = h.pc % 2 ^ 56
        ∧ h'.sregs = h.sregs ∧ h'.vregs = h.vregs ∧ h'.preds = h.preds ∧ h'.mask = h.mask)
    ∧ (Issues .tret s g q h → trapReady s g q h = true → h.replay = [] → h.frameDone = 0#96 → h.maskWrites = [] →
      bitN h.tcause 16 = false → Reaches (exec .tret s) fun t => t.mem = s.mem ∧ ∃ h', t.holder? g q = some h'
        ∧ h'.mode = false ∧ h'.status = .ready ∧ h'.pc = h.tpc / 8 * 8 ∧ h'.sregs = h.sregs ∧ h'.vregs = h.vregs
        ∧ h'.preds = h.preds ∧ h'.mask = h.mask ∧ h'.path = h.path ∧ h'.live = h.live ∧ h'.stack = h.stack)
    ∧ (Issues .tesc s g q h → Reaches (exec .tesc s) fun t => t.mem = s.mem
      ∧ t.ctl.reports = s.ctl.reports ++ [h.trapFrame]
      ∧ ∃ h', t.holder? g q = some h' ∧ h'.status = .awaiting ∧ h'.mode = h.mode ∧ h'.pc = h.pc ∧ h'.sregs = h.sregs)
    ∧ (Issues .halt s g q h → h.replaying = none → Reaches (exec .halt s) fun t => t.mem = s.mem
      ∧ ∃ h', t.holder? g q = some h' ∧ h'.status = .halted ∧ h'.pc = (h.pc + 8) % 2 ^ 64 ∧ h'.mode = h.mode
        ∧ h'.sregs = h.sregs ∧ h'.vregs = h.vregs)
    ∧ (∀ d num, let i := Instr.sget d num
      Issues i s g q h → h.replaying = none → (num = 0x12 → s.flagsOpen g q h = false) →
      (num = 0 → h.multiTeam (s.tsize h) = false) →
      let v := h.writeW ((sysWide num).getD false) d
      (∀ x, ((num = 0x00 ∧ x = h.teamOf (s.tsize h) % 2 ^ 48) ∨ (num = 0x02 ∧ x = recTeams (s.recOf h))
          ∨ (num = 0x04 ∧ x = s.tsize h) ∨ (num = 0x05 ∧ x = q) ∨ (num = 0x06 ∧ x = g) ∨ (num = 0x07 ∧ x = Config.pkgId) ∨ (num = 0x08 ∧ x = h.depth)
          ∨ (num = 0x09 ∧ x = h.prio) ∨ (num = 0x0A ∧ x = h.w) ∨ (num = 0x0B ∧ x = h.asid)
          ∨ (num = 0x0C ∧ x = (s.grid h.grid).number) ∨ (num = 0x0E ∧ x = recArgs (s.recOf h))
          ∨ (num = 0x10 ∧ x = s.clock) ∨ (num = 0x12 ∧ x = h.fflags) ∨ (num = 0x20 ∧ x = (s.core g).tbase)
          ∨ (num = 0x22 ∧ x = h.tcause) ∨ (num = 0x24 ∧ x = h.tval) ∨ (num = 0x26 ∧ x = h.tpc)
          ∨ (num = 0x28 ∧ x = if h.mode then 1 else 0)) →
        exec i s = .next (s.retire g q i (v x))))
    ∧ (∀ d, Issues (.sget d 0x12) s g q h → s.flagsOpen g q h = true →
      exec (.sget d 0x12) s = .next (s.putHolder g q { h with status := .blocked .flags }))
    ∧ (∀ a, Issues (.sset a 0x12) s g q h → s.flagsOpen g q h = false → h.replaying = none →
      Reaches (exec (.sset a 0x12) s) fun t => t.mem = s.mem ∧ ∃ h', t.holder? g q = some h' ∧ PastIt h' h (.sset a 0x12)
        ∧ h'.fflags = (h.readS a).toNat % 2 ^ 5)
    ∧ (∀ a, Issues (.sset a 0x20) s g q h → h.replaying = none → Reaches (exec (.sset a 0x20) s) fun t => t.mem = s.mem
      ∧ (t.core g).tbase = pairOf h a / 8 * 8 ∧ (∀ k, k ≠ g → (t.core k).tbase = (s.core k).tbase)
      ∧ ∃ h', t.holder? g q = some h' ∧ PastIt h' h (.sset a 0x20))
    ∧ (∀ a, Issues (.sset a 0x26) s g q h → h.replaying = none → Reaches (exec (.sset a 0x26) s) fun t => t.mem = s.mem
      ∧ ∃ h', t.holder? g q = some h' ∧ PastIt h' h (.sset a 0x26) ∧ h'.tpc = pairOf h a)

/-- R64 to R67, R71 to R74, R330, R331: `tlbinv` and `own` tag D with a future of an invalidation or flip of the
widened range; a length of 0 completes at once; with 64 invalidations or 16 flips in flight they wait. From then on
no TLB of the package holds a translation of the range of the named address space. An invalidation whose old
translations serve nothing any more completes; its walks of the range have started again. R51, R52, R57, R73: a walk
sets A of its entry, one for a store sets D, and the core's TLB holds the entry; a flip holds the walks of its
range. Once nothing above memory knows the frames, a flip to the device asks the host for its copies of every line,
and the switch puts the O bit of every entry, and the bias of every frame, as named. -/
def Obligations.InvalidationsAndFlips : Prop :=
  ∀ (s : State) (g q : Nat) (h : Holder) (d a b c : Nat), h.replaying = none → d < 61 →
    let v := (h.readS c).toNat
    let r := widen (pairOf h a) (pairOf h b)
    (∀ i, (i = .tlbinv d a b c ∨ i = .own d a b c) → Issues i s g q h → ¬TagsFull h d → r.2 = 0 →
      Reaches (exec i s) fun t => t.mem = s.mem
        ∧ (∃ h', t.holder? g q = some h' ∧ TaggedWith h' h d s.nextFuture ∧ h'.pc = (h.pc + 8) % 2 ^ 64)
        ∧ Event.futureComplete s.nextFuture 0 ∈ t.agenda)
    ∧ (∀ i, (i = .tlbinv d a b c ∧ 64 ≤ s.ctl.invals.length ∨ i = .own d a b c ∧ 16 ≤ s.ctl.flips.length) →
      Issues i s g q h → ¬TagsFull h d → r.2 ≠ 0 →
      exec i s = .next (s.putHolder g q { h with status := .blocked (if i = .tlbinv d a b c then .invals else .flips) }))
    ∧ (Issues (.tlbinv d a b c) s g q h → ¬TagsFull h d → r.2 ≠ 0 → s.ctl.invals.length < 64 →
      Reaches (exec (.tlbinv d a b c) s) fun t => t.mem = s.mem
        ∧ (∃ h', t.holder? g q = some h' ∧ TaggedWith h' h d s.nextFuture ∧ h'.pc = (h.pc + 8) % 2 ^ 64)
        ∧ AMap.find? t.futures s.nextFuture = some { op := .inval s.nextOp }
        ∧ AMap.find? t.ctl.invals s.nextOp
          = some { asid := v % 2 ^ 16, all := bitN v 16, base := r.1, len := r.2, fut := some s.nextFuture
                   blocks := s.sweptBlocks (bitN v 16) (v % 2 ^ 16) r.1 r.2 }
        ∧ Event.invalidationComplete s.nextOp ∈ t.agenda
        ∧ (∀ k, ∀ e ∈ (t.core k).tlb ++ (t.cluster k).tlb ++ (t.die k).tlb ++ (t.die k).rangeTlb,
            ¬((bitN v 16 = true ∨ e.asid = v % 2 ^ 16) ∧ r.1 < e.va + e.size ∧ e.va < r.1 + r.2)))
    ∧ (Issues (.own d a b c) s g q h → ¬TagsFull h d → r.2 ≠ 0 → s.ctl.flips.length < 16 →
      (∀ p ∈ s.ctl.flips, p.1 < s.nextOp ∧ p.2.asid = v % 2 ^ 16 ∧ meets r.1 r.2 p.2.base p.2.len = true) → s.ctl.flips ≠ [] →
      Reaches (exec (.own d a b c) s) fun t => t.mem = s.mem
        ∧ (∃ h', t.holder? g q = some h' ∧ TaggedWith h' h d s.nextFuture ∧ h'.pc = (h.pc + 8) % 2 ^ 64)
        ∧ AMap.find? t.ctl.flips s.nextOp = some { asid := v % 2 ^ 16, base := r.1, len := r.2, host := bitN v 16
                                                   fut := some s.nextFuture, waiting := true })
    ∧ (Issues (.own d a b c) s g q h → ¬TagsFull h d → r.2 ≠ 0 → s.ctl.flips = [] →
      Reaches (exec (.own d a b c) s) fun t => t.mem = s.mem
        ∧ (∃ h', t.holder? g q = some h' ∧ TaggedWith h' h d s.nextFuture ∧ h'.pc = (h.pc + 8) % 2 ^ 64)
        ∧ ((∃ st, t.ctl.flips = [] ∧ Event.futureComplete s.nextFuture st ∈ t.agenda)
          ∨ (∃ ls, s.leavesOf (v % 2 ^ 16) r.1 r.2 = .ok ls
            ∧ t.ctl.flips = [(s.nextOp, { asid := v % 2 ^ 16, base := r.1, len := r.2, host := bitN v 16
                                          fut := some s.nextFuture, waiting := false, leaves := ls
                                          blocks := s.sweptBlocks false (v % 2 ^ 16) r.1 r.2 })]
            ∧ Event.flipComplete s.nextOp ∈ t.agenda
            ∧ ∀ k, ∀ e ∈ (t.core k).tlb ++ (t.cluster k).tlb ++ (t.die k).tlb ++ (t.die k).rangeTlb,
                ¬(e.asid = v % 2 ^ 16 ∧ r.1 < e.va + e.size ∧ e.va < r.1 + r.2))))
    ∧ (∀ id x f, AMap.find? s.ctl.invals id = some x → x.fut = some f → x.packet = none → AMap.sorted s.ctl.invals = true →
      (s.rangeBusy x.all x.asid x.base x.len x.blocks = true → exec (.invalidationComplete id) s = .next s)
      ∧ (s.rangeBusy x.all x.asid x.base x.len x.blocks = false → Reaches (exec (.invalidationComplete id) s) fun t =>
          t.mem = s.mem ∧ AMap.find? t.ctl.invals id = none ∧ Event.futureComplete f 0 ∈ t.agenda)
      ∧ Reaches (exec (.invalWalkRestart id) s) fun t => t.mem = s.mem
          ∧ ∀ w ∈ t.ctl.walks, w ∈ s.ctl.walks
            ∧ (meets x.base x.len (w.page * 4096) 4096 = true → (x.all = true ∨ w.asid = x.asid) →
                s.flipHolds w.asid (w.page * 4096) = true))
    ∧ (∀ k asid va, va < 2 ^ 56 → s.missFull (.core k) asid va = false →
      (s.flipHolds asid va = true → s.ctl.walkFree (dieOf k) = true →
        Reaches (exec (.walk k asid va) s) fun t => t.mem = s.mem ∧ (t.core k).tlb = (s.core k).tlb
          ∧ ∃ w, (w ∈ t.ctl.walks ∨ w ∈ t.ctl.walkQueue) ∧ w.core = k ∧ w.asid = asid ∧ w.page = va / 4096 ∧ w.parked = true)
      ∧ (∀ cause kind s1, s.flipHolds asid va = false → s.ctl.walkFree (dieOf k) = true → s.walk asid va = .fault cause kind s1 →
        exec (.walk k asid va) s = .next s1)
      ∧ (∀ e ea s1, s.flipHolds asid va = false → s.ctl.walkFree (dieOf k) = true → s.walk asid va = .leaf e ea s1 →
        (bitN e.attr 10 = true → Reaches (exec (.walk k asid va) s) fun t => t.mem = s1.mem
          ∧ ∃ x ∈ (t.core k).tlb, x.covers asid va = true ∧ x.phys va = e.phys va ∧ bitN x.attr 10 = true)
        ∧ (∀ v s2, bitN e.attr 10 = false → Memory.wf s1.mem = true → s1.update64 ea (fun v => v ||| 2 ^ 10) = .ok v s2 →
          v = Memory.readLE s1.mem ea 8 ||| 2 ^ 10
          ∧ Reaches (exec (.walk k asid va) s) fun t => Memory.readLE t.mem ea 8 = v
            ∧ (∀ a, a < ea ∨ ea + 8 ≤ a → Memory.read t.mem a = Memory.read s1.mem a)
            ∧ ∃ x ∈ (t.core k).tlb, x.covers asid va = true ∧ x.phys va = e.phys va ∧ bitN x.attr 10 = true)
        ∧ (∀ y, s.tlbLookup (.core k) asid va = some y → bitN y.attr 11 = false →
          (bitN e.attr 4 = false → exec (.dirtyBitWalk k asid va) s = .next s1)
          ∧ (∀ v s2, bitN e.attr 4 = true → Memory.wf s1.mem = true → s1.update64 ea (fun v => v ||| (2 ^ 10 + 2 ^ 11)) = .ok v s2 →
            v = Memory.readLE s1.mem ea 8 ||| (2 ^ 10 + 2 ^ 11)
            ∧ Reaches (exec (.dirtyBitWalk k asid va) s) fun t => Memory.readLE t.mem ea 8 = v
              ∧ (∀ a, a < ea ∨ ea + 8 ≤ a → Memory.read t.mem a = Memory.read s1.mem a)
              ∧ ∃ x ∈ (t.core k).tlb, x.covers asid va = true ∧ x.phys va = e.phys va ∧ bitN x.attr 11 = true))))
    ∧ (∀ id x f, AMap.find? s.ctl.flips id = some x → x.fut = some f → x.packet = none → AMap.sorted s.ctl.flips = true →
      (x.waiting = true → s.flipOverlaps id x = true → exec (.flipComplete id) s = .next s)
      ∧ (x.waiting = false → s.rangeBusy false x.asid x.base x.len x.blocks = true → exec (.flipComplete id) s = .next s)
      ∧ (x.waiting = false → s.rangeBusy false x.asid x.base x.len x.blocks = false →
        (∀ p ∈ frameLines x.leaves, s.knownLines p.1 p.2 = []) →
        (x.host = false → x.snoops = none → Reaches (exec (.flipComplete id) s) fun t => t.mem = s.mem
          ∧ ∀ p ∈ x.leaves, ∀ l, p.1.pa / 128 ≤ l → l < (p.1.pa + p.1.size) / 128 → OutMsg.hostSnoop l ∈ t.outbox)
        ∧ (∀ s1, (x.host = true ∨ x.snoops = some []) → s.ctl.heldHost = [] →
          rewriteO x.host ((x.leaves.flatMap (fun p => entryCopies p.1 p.2)).eraseDups) s = some s1 →
          Reaches (exec (.flipComplete id) s) fun t => AMap.find? t.ctl.flips id = none ∧ Event.futureComplete f 0 ∈ t.agenda
            ∧ t.mem = s1.mem
            ∧ ∀ p ∈ x.leaves, ∀ fr, p.1.pa / 4096 ≤ fr → fr < p.1.pa / 4096 + p.1.size / 4096 → (fr ∈ t.ctl.bias ↔ x.host = true))))
    ∧ (∀ ea host s1 v, Memory.wf s.mem = true → s.update64 ea (fun v => setField v 9 1 (if host then 1 else 0)) = .ok v s1 →
      rewriteO host [ea] s = some s1 ∧ Memory.readLE s1.mem ea 8 = v
        ∧ v = setField (Memory.readLE s.mem ea 8) 9 1 (if host then 1 else 0)
        ∧ ∀ a, a < ea ∨ ea + 8 ≤ a → Memory.read s1.mem a = Memory.read s.mem a)

/-- R193, R194, R199, R201, R222 to R226, R386, R487: in an issue cycle the holders of a running core grow older, at
most 7 active slots issue, and the turn goes on; after the last core's the clock advances. A blocked active slot
gives its place to a ready pending one, both issue nothing for 2 ck. A piece takes a free slot and window;
compaction only moves windows down; a bin whose timer has passed launches its group; a context whose hold has
expired goes on past its `fold`, with its watchdog restarted; two contexts that adjoin merge; `evwait` ends at its
deadline with the value last read, and reads again before. -/
def Obligations.CoresAttendToTheirSlots : Prop :=
  ∀ (s : State) (g : Nat), AMap.sorted (s.core g).slots = true →
    (∀ k, AMap.has s.cores g = true → DebugOff s g → List.find? (fun (x : Nat) => decide (g < x)) (s.cores.map (·.1)) = some k →
      Reaches (exec (.issueCycle g) s) fun t => t.mem = s.mem ∧ t.clock = s.clock ∧ t.turn = k
        ∧ (∀ q h, s.holder? g q = some h → t.holder? g q
            = some (if s.coreRuns g then { h with
                age := h.age + 1
                watchdog := if h.counts && !AMap.has (s.core g).moving q then h.watchdog + 1 else h.watchdog } else h))
        ∧ ∃ qs : List Nat, t.issue = s.issue ++ qs.map (fun q => (g, q)) ∧ qs.length ≤ 7
            ∧ (s.coreRuns g = false → qs = []) ∧ ∀ q ∈ qs, q ∈ (t.core g).active ∧ (t.holder? g q).isSome = true)
    ∧ (AMap.has s.cores g = true → DebugOff s g → List.find? (fun (x : Nat) => decide (g < x)) (s.cores.map (·.1)) = none →
      s.ctl.streams = [] → s.ctl.heldHost = [] → s.ctl.heldPeer = [] → s.ctl.engineAsks = [] →
      Reaches (exec (.issueCycle g) s) fun t => t.mem = s.mem ∧ t.clock = s.clock + 1)
    ∧ (∀ q h p, s.holder? g q = some h → s.pendingSlot g = some p → s.coreRuns g = true → q ∈ (s.core g).active →
      s.readyNow g q h = false → s.swappable h = true →
      Reaches (exec (.swap g q) s) fun t => t.mem = s.mem
        ∧ (t.core g).active = (s.core g).active.map (fun x => if x = q then p else x)
        ∧ AMap.find? (t.core g).moving q = some 2 ∧ AMap.find? (t.core g).moving p = some 2
        ∧ ∀ k r, t.holder? k r = s.holder? k r)
    ∧ (∀ p rest k q win s1, (s.core g).pieces = p :: rest → s.coreRuns g = true → s.findSlot g p.holder.w = some (k, q, win) →
      pieceIn g k q p s = .ok s1 →
      Reaches (exec (.piecePlace g) s) fun t => t.mem = s1.mem ∧ t.holder? k q = some { p.holder with win := win, age := 0 }
        ∧ (t.core g).pieces = rest)
    ∧ (∀ q h p b x s1 s2, s.holder? g q = some h → h.status = .blocked (.barrier b x) → s.coreRuns g = true →
      s.readyNow g q h = false → trapReady s g q h = true → h.pend = [] →
      (s.core g).pieces.find? (fun y => y.ofTeam h (s.tsize h)) = some p →
      s.placePiece g (spillBaseOf s g q h) { h with status := .ready } = .ok s1 → pieceIn g g q p s1 = .ok s2 →
      Reaches (exec (.barwPieceHandoff g q) s) fun t => t.mem = s2.mem
        ∧ t.holder? g q = some { p.holder with win := h.win, age := 0 })
    ∧ (∀ q h, s.holder? g q = some h → h.status = .blocked .fold → s.coreRuns g = true → h.replaying = none →
      (h.deadline ≤ s.clock → Reaches (exec (.foldHoldExpiry g q) s) fun t => OnlyHolder s t g q
        ∧ ∃ h', t.holder? g q = some h' ∧ h'.pc = (h.pc + 16) % 2 ^ 64 ∧ h'.status = .ready ∧ h'.watchdog = 0
          ∧ h'.vregs = h.vregs ∧ h'.sregs = h.sregs ∧ h'.preds = h.preds)
      ∧ (s.clock < h.deadline → exec (.foldHoldExpiry g q) s = .next s))
    ∧ (∀ q r k j m d n ps, s.holder? g q = some k → s.holder? g r = some j → q ≠ r → k.status = .blocked .fold →
      j.status = .blocked .fold → s.foldOf k = some (d, n, ps) → joinFold (s.tsize k) d n ps k j = some m → j.accs = [] →
      Reaches (exec (.foldMerge g q r) s) fun t => t.mem = s.mem ∧ t.holder? g r = none
        ∧ ∃ h', t.holder? g q = some h' ∧ h'.lo = k.lo ∧ h'.hi = j.hi ∧ h'.kind = k.kind ∧ h'.status = .blocked .fold
          ∧ h'.win = k.win ∧ h'.deadline = max k.deadline j.deadline)
    ∧ (∀ i b, AMap.find? (s.core g).bins i = some b → AMap.sorted (s.core g).bins = true → (s.core g).frozenBins = false →
      (∀ k q win, recBinTimer (s.grid b.grid).record ≤ s.clock - b.started → s.findSlot g b.w = some (k, q, win) →
        Reaches (exec (.binTimerExpiry g i) s) fun t => t.mem = s.mem ∧ AMap.find? (t.core g).bins i = none
          ∧ ∃ h', t.holder? k q = some h' ∧ h'.kind = .bin ∧ h'.team = b.team ∧ h'.pc = b.entry ∧ h'.win = win
            ∧ h'.items = b.items.map (·.1) ∧ h'.live = laneRange 0 b.items.length ∧ h'.mask = h'.live)
      ∧ (s.clock - b.started < recBinTimer (s.grid b.grid).record → exec (.binTimerExpiry g i) s = .next s))
    ∧ Reaches (exec (.compaction g) s) (fun t => t.mem = s.mem ∧ (s.mustCompact g = false → t = s)
        ∧ ∀ q h, s.holder? g q = some h → ∃ a, a ≤ h.win ∧ t.holder? g q = some { h with win := a })
    ∧ (∀ q h e d, s.holder? g q = some h → h.ev = some e → h.status = .blocked .event → e.deadline = some d → h.ext = [] →
      h.replaying = none → e.op.d < 61 → e.op.elem = Elem.b32 →
      (d ≤ s.clock → Reaches (exec (.evwaitTimeout g q) s) fun t => OnlyHolder s t g q ∧ ∃ h', t.holder? g q = some h'
          ∧ WentOn h' h (.evwait e.op) ∧ (h'.readS e.op.d).toNat = e.last % 2 ^ 32 ∧ OnlyScalar h' h e.op.d)
      ∧ (s.clock < d → exec (.evwaitTimeout g q) s = .next s))
    ∧ (∀ q h e t0 s1 bs lo hi s2, s.holder? g q = some h → h.ev = some e → h.status = .blocked .event → h.ext = [] →
      h.replaying = none → e.op.d < 61 → e.op.elem = Elem.b32 → (s.core g).taster.length < 1024 →
      s.resolve { (holderCtx s g h false) with vector := true } e.op.space e.ea 4 .load true = .ok t0 s1 →
      s1.readTarget { (holderCtx s g h false) with vector := true } t0 = .ok bs lo hi s2 →
      Reaches (exec (.evwaitReread g q) s) fun t => t.mem = s2.mem ∧ ∃ h', t.holder? g q = some h'
        ∧ (leValue bs ≠ e.comparand → WentOn h' h (.evwait e.op) ∧ (h'.readS e.op.d).toNat = leValue bs % 2 ^ 32)
        ∧ (leValue bs = e.comparand → h'.status = .blocked .event ∧ h'.pc = h.pc ∧ h'.sregs = h.sregs
            ∧ h'.ev = some { e with last := leValue bs }))
    ∧ (((s.core g).delayed.find? (fun d => decide (d.due ≤ s.clock)) = none → exec (.injectedDelayExpiry g) s = .next s)
      ∧ ∀ d, (s.core g).delayed.find? (fun d => decide (d.due ≤ s.clock)) = some d → d.lanes = [] →
        Reaches (exec (.injectedDelayExpiry g) s) fun t => t.mem = s.mem ∧ d ∉ (t.core g).delayed
          ∧ ∀ k r, t.holder? k r = s.holder? k r)

/-- R205, R328, R423, R424, R431, R477, R478, R512: a pending trap enters the handler at the boundary with its cause
and value, an instruction's before an engine fault, that before the watchdog, that before single step. The watchdog
expires when its count has reached the period; a breakpoint traps with its number. A disposition resumes, ends or
cancels a holder that waits for one; HALTCTL resumes or ends a halted one; a write of `%tbase` keeps it a multiple
of 8; a write of ESTAT lets an engine go on. -/
def Obligations.TrapsAtBoundaries : Prop :=
  ∀ (s : State) (g q : Nat) (h : Holder), s.holder? g q = some h → AMap.sorted (s.core g).slots = true →
    (∀ p e, AtBoundary s g q h → h.kind ≠ .range → h.pend = [p] →
      (e = .trapEntry g q ∨ e = .deferredTrap g q ∧ p.queued = true ∧ p.engine = false ∧ p.cause ≠ 9 ∧ p.cause ≠ 13
        ∨ e = .engineFaultDelivery g q ∧ p.engine = true) →
      Reaches (exec e s) fun t => t.mem = s.mem ∧ ∃ h', t.holder? g q = some h' ∧ h'.mode = true ∧ h'.status = .ready
        ∧ h'.pc = (s.core g).tbase ∧ h'.tcause % 256 = p.cause % 256 ∧ h'.tval = boundaryValue h p % 2 ^ 64
        ∧ h'.tpc = boundaryPc h p % 2 ^ 64 ∧ h'.pend = [] ∧ h'.sregs = h.sregs ∧ h'.vregs = h.vregs
        ∧ h'.preds = h.preds ∧ h'.mask = h.mask)
    ∧ (∀ a b, AtBoundary s g q h → h.kind ≠ .range → h.pend = [b, a] → trapBefore a b = true →
      Reaches (exec (.trapEntry g q) s) fun t => ∃ h', t.holder? g q = some h' ∧ h'.mode = true
        ∧ h'.tcause % 256 = a.cause % 256 ∧ h'.pend = [b])
    ∧ ((∀ p ∈ h.pend, p.cause ≠ 9) →
      (recWatchdog (s.recOf h) ≤ h.watchdog → Reaches (exec (.watchdogExpiry g q) s) fun t => OnlyHolder { s with agenda := t.agenda } t g q
        ∧ Event.trapEntry g q ∈ t.agenda ∧ ∃ p, t.holder? g q = some { h with pend := h.pend ++ [p] } ∧ p.cause = 9 ∧ p.engine = false)
      ∧ (h.watchdog < recWatchdog (s.recOf h) → exec (.watchdogExpiry g q) s = .next s))
    ∧ ((h.stepping = true → Reaches (exec (.singleStep g q) s) fun t => OnlyHolder { s with agenda := t.agenda } t g q
        ∧ Event.trapEntry g q ∈ t.agenda ∧ ∃ p, t.holder? g q = some { h with stepping := false, pend := h.pend ++ [p] }
          ∧ p.cause = 13 ∧ p.engine = false ∧ p.tval = h.pc)
      ∧ (h.stepping = false → exec (.singleStep g q) s = .next s))
    ∧ (∀ bp, MayTrap s g q h → h.kind ≠ .range → (s.core g).breakpoint h = some bp →
      Reaches (exec (.breakpointHit g q bp) s) fun t => TakesTrap s t g q h 12 (0x100 + bp)
        ∧ ∃ h', t.holder? g q = some h' ∧ h'.tcause / 256 % 256 = 1)
    ∧ (h.status = .awaiting →
      (h.replay = [] → h.frameDone = 0#96 → h.maskWrites = [] → bitN h.tcause 16 = false →
        Reaches (exec (.dispositionResume g q) s) fun t => t.mem = s.mem ∧ ∃ h', t.holder? g q = some h' ∧ h'.mode = false
          ∧ h'.status = .ready ∧ h'.pc = h.tpc / 8 * 8 ∧ h'.sregs = h.sregs ∧ h'.vregs = h.vregs ∧ h'.mask = h.mask)
      ∧ (needsRecord s g h (laneCount h.live) = false → TraceOff s g → h.accs = [] →
        Reaches (exec (.dispositionEnd g q) s) fun t => t.mem = s.mem ∧ t.holder? g q = none)
      ∧ (TraceOff s g → h.accs = [] → Reaches (exec (.dispositionCancel g q) s) fun t => t.mem = s.mem
        ∧ t.holder? g q = none ∧ Event.gridCancel h.grid ∈ t.agenda))
    ∧ (h.status = .halted →
      (Reaches (exec (.haltResume g q) s) fun t => { t with cores := s.cores } = s ∧ (∀ k, k ≠ g → t.core k = s.core k)
        ∧ t.holder? g q = some { h with status := .ready })
      ∧ (needsRecord s g h (laneCount h.live) = false → TraceOff s g → h.accs = [] →
        Reaches (exec (.haltEnd g q) s) fun t => t.mem = s.mem ∧ t.holder? g q = none))
    ∧ (h.status ≠ .awaiting → h.status ≠ .halted → ∀ e ∈ [Instr.dispositionResume g q, .dispositionEnd g q, .dispositionCancel g q,
        .haltResume g q, .haltEnd g q], exec e s = .next s)
    ∧ (∀ k v, Reaches (exec (.tbaseWrite k v) s) fun t => t.mem = s.mem ∧ (t.core k).tbase = v % 2 ^ 64 / 8 * 8
        ∧ (t.core k).slots = (s.core k).slots ∧ ∀ j, j ≠ k → t.core j = s.core j)
    ∧ (∀ e, e < 72 → (s.engineAt e).stopped = true → Reaches (exec (.estatResume e) s) fun t => t.mem = s.mem
        ∧ t.commands = s.commands ∧ (t.engineAt e).stopped = false ∧ (t.engineAt e).passed = true
        ∧ ∀ id c, AMap.find? s.commands id = some c → c.engine = engineUnit e → c.st = .queued → Event.commandStart id ∈ t.agenda)

/-- R180, R206, R207, R210 to R221: the check of a launch record refuses it with the status of the first failing
field from the highest bit down, or numbers the grid and gives its teams to the package dispatcher. A core reports
min(F, R / W); a round deals the ranges of R211 and keeps the rest; a core makes a range context of what it
receives. A team whose items have ended retires, unless a child grid runs; reports add up along the tree; the grid
completes once all its teams are accounted for, with the record of R214, and its future receives the code of R215. A
cancel drops what is undealt. A package that has acknowledged may be dealt to; one that is lost takes the grid with
it unless it can be restarted; then its ranges go to the spare and the root mirrors its dealing state. -/
def Obligations.GridsAreDealtAndComplete : Prop :=
  ∀ (s : State) (n : Nat) (gr : Grid), AMap.find? s.grids n = some gr → AMap.sorted s.grids = true →
    (∀ f, gr.accepted = false → gr.packet = none → gr.fut = some f →
      (checkStatus s gr ≠ 0 → (field gr.record 584 56 = 0 ∨ field gr.record 584 56 % 64 ≠ 0 ∨ checkStatus s gr = 0x100) →
        Reaches (exec (.launchRecordCheck n) s) fun t => t.mem = s.mem ∧ AMap.find? t.grids n = none ∧ t.cores = s.cores
          ∧ Event.futureComplete f (checkStatus s gr) ∈ t.agenda)
      ∧ (checkStatus s gr = 0 → field gr.record 584 56 = 0 → field gr.record 990 2 = 0 → gr.cancel = false → gr.undealt = [] →
        Reaches (exec (.launchRecordCheck n) s) fun t => t.mem = s.mem
          ∧ t.ctl.nextGridNo = (s.ctl.nextGridNo + 1) % 2 ^ 32 ∧ Event.dealRound (.pkg Config.pkgId) n ∈ t.agenda
          ∧ ∃ x, AMap.find? t.grids n = some x ∧ x.accepted = true ∧ x.number = s.ctl.nextGridNo ∧ x.record = gr.record
            ∧ x.undealt = [(.pkg Config.pkgId, 0, field gr.record 912 48 + 1)]))
    ∧ (∀ g, gr.undealtAt (.clu (cluOf g)) ≠ 0 → s.dieHalted (dieOf g) = false → bitN gr.record 979 = false → bitN gr.record 978 = false → (s.core g).empty = false →
      (s.die (dieOf g)).online = true → (s.die (dieOf g)).resetting = false → (s.cluster (cluOf g)).powered = true →
      (field gr.record 982 8 = 0 ∨ bitN (field gr.record 982 8) (dieOf g) = true) → dieOf g < 8 → s.splitOk g gr.record = true →
      Reaches (exec (.capacityReport (.core g) n 0) s) fun t => t.mem = s.mem ∧ Event.dealRound (.clu (cluOf g)) n ∈ t.agenda
        ∧ ∃ x, AMap.find? t.grids n = some x ∧ x.undealt = gr.undealt
          ∧ x.caps.find? (fun c => c.1 == .core g) = some (.core g, min (32 - (s.core g).slots.length)
              (((s.core g).regs - (s.core g).slots.foldl (fun u p => u + p.2.w) 0) / (8 * (field gr.record 896 5 + 1)))))
    ∧ (∀ x a b, gr.undealt = [(.clu x, a, b)] → bitN gr.record 979 = false → gr.cancel = false → s.dieHalted (x / 8) = false → x < 64 →
      let cap := fun (j : Nat) => ((gr.caps.find? (fun c => c.1 == .core (4 * x + j))).map (·.2)).getD 0
      let q := min (b - a) (sumTo cap 4 * grainOf gr.record)
      (sumTo cap 4 = 0 → exec (.dealRound (.clu x) n) s = .next s)
      ∧ (sumTo cap 4 ≠ 0 → Reaches (exec (.dealRound (.clu x) n) s) fun t => t.mem = s.mem
          ∧ (∃ y, AMap.find? t.grids n = some y ∧ y.undealt = if a + q < b then [(.clu x, a + q, b)] else [])
          ∧ ∀ j < 4, dealStart a q 4 cap j < dealStart a q 4 cap (j + 1) →
              Event.rangeReceipt (4 * x + j) n (dealStart a q 4 cap j) (dealStart a q 4 cap (j + 1)) ∈ t.agenda))
    ∧ (∀ g lo hi s1 k q win, gr.cancel = false → s.splitOk g gr.record = true →
      s1 = (s.updGrid n (fun x => { x with
        dispatched := x.dispatched + (hi - lo), ran := if x.ran.contains g then x.ran else x.ran ++ [g] })).prepare g gr.record →
      s1.findSlot g (8 * (field gr.record 896 5 + 1)) = some (k, q, win) →
      Reaches (exec (.rangeReceipt g n lo hi) s) fun t => t.mem = s1.mem ∧ ∃ h, t.holder? k q = some h ∧ h.kind = .range
        ∧ h.grid = n ∧ h.lo = lo * (field gr.record 901 11 + 1) ∧ h.hi = hi * (field gr.record 901 11 + 1)
        ∧ h.pc = field gr.record 776 56 ∧ h.w = 8 * (field gr.record 896 5 + 1) ∧ h.win = win ∧ h.prio = field gr.record 980 2
        ∧ h.asid = field gr.record 992 16 ∧ h.depth = field gr.record 867 4 + 1 ∧ h.mode = false ∧ h.status = .ready
        ∧ (∀ r, r < 61 → h.readS r = 0#32) ∧ (∀ r, h.readV r = .uni 0#32) ∧ ∀ p, p ≠ 0 → h.readP p = .uni false)
    ∧ (∀ g team, AMap.getD gr.teams team 0 = field gr.record 901 11 + 1 →
      (s.childRuns n team = true → Reaches (exec (.teamRetire g n team) s) fun t => t.mem = s.mem
        ∧ (g, n, team) ∈ (t.die (dieOf g)).teamRecords ∧ AMap.find? t.grids n = some gr)
      ∧ (s.childRuns n team = false → gr.reports = [] → AMap.sorted gr.teams = true →
        Reaches (exec (.teamRetire g n team) s) fun t => t.mem = s.mem
          ∧ (g, n, team) ∉ (t.die (dieOf g)).teamRecords ∧ Event.completionReport (.core g) n ∈ t.agenda
          ∧ ∃ x, AMap.find? t.grids n = some x ∧ AMap.find? x.teams team = none
            ∧ x.reports = [(.core g, if gr.teamStopped.contains team then (0, 1) else (1, 0))]))
    ∧ (∀ g d e r c x, gr.reports = [(.core g, c, x)] →
      Reaches (exec (.completionReport (.core g) n d e r) s) fun t => t.mem = s.mem
        ∧ Event.completionReport (.clu (cluOf g)) n ∈ t.agenda
        ∧ ∃ y, AMap.find? t.grids n = some y ∧ y.reports = [(.clu (cluOf g), c, x)])
    ∧ (∀ d e r c x, field gr.record 990 2 = 0 → gr.reports = [(.pkg Config.pkgId, c, x)] →
      Reaches (exec (.completionReport (.pkg Config.pkgId) n d e r) s) fun t => t.mem = s.mem ∧ Event.gridComplete n ∈ t.agenda
        ∧ ∃ y, AMap.find? t.grids n = some y ∧ y.completed = gr.completed + c ∧ y.cancelled = gr.cancelled + x ∧ y.reports = [])
    ∧ (∀ p d e r, p ≠ Config.pkgId → Reaches (exec (.completionReport (.pkg p) n d e r) s) fun t => t.mem = s.mem
        ∧ Event.gridComplete n ∈ t.agenda ∧ ∃ y, AMap.find? t.grids n = some y ∧ AMap.find? y.pods p = some { toRestReport := r, dispatched := d, completed := e })
    ∧ (gr.accepted = true → gr.done = none → gr.pods = [] → (∀ c ∈ s.commands, c.2.grid ≠ n) →
      (gr.completed + gr.cancelled + gr.dropped < field gr.record 912 48 + 1 → exec (.gridComplete n) s = .next s)
      ∧ (∀ f, field gr.record 912 48 + 1 ≤ gr.completed + gr.cancelled + gr.dropped → gr.packet = none → gr.fut = some f →
        field gr.record 648 56 = 0 →
        (field gr.record 584 56 = 0 → Reaches (exec (.gridComplete n) s) fun t => t.mem = s.mem
          ∧ (∃ y, AMap.find? t.grids n = some y ∧ y.done = some (completionCode gr))
          ∧ Event.futureComplete f (completionCode gr) ∈ t.agenda)
        ∧ (∀ s1 s2 b1 b2, field gr.record 584 56 ≠ 0 →
          s.ctlWrite (field gr.record 992 16) (field gr.record 584 56)
            (leBytes 60 (completionHead gr gr.dispatched gr.completed gr.cancelled s.ctl.lclock)) = .ok s1 b1 →
          s1.ctlWrite (field gr.record 992 16) (field gr.record 584 56 + 60) (leBytes 4 (completionCode gr)) = .ok s2 b2 →
          AMap.find? s2.grids n = some gr →
          Reaches (exec (.gridComplete n) s) fun t => t.mem = s2.mem
            ∧ (∃ y, AMap.find? t.grids n = some y ∧ y.done = some (completionCode gr))
            ∧ Event.futureComplete f (completionCode gr) ∈ t.agenda)))
    ∧ ((gr.done.isSome = true → exec (.gridCancel n) s = .next s)
      ∧ (gr.done = none → gr.cancel = false → gr.accepted = false → Reaches (exec (.gridCancel n) s) fun t =>
          { t with grids := s.grids } = s ∧ AMap.find? t.grids n = some { gr with cancel := true })
      ∧ (gr.done = none → gr.cancel = false → gr.accepted = true → Reaches (exec (.gridCancel n) s) fun t => Event.gridComplete n ∈ t.agenda
          ∧ (∀ m x, AMap.find? s.grids m = some x → x.done = none → x.parent.map (·.1) = some n → m ≠ n → Event.gridCancel m ∈ t.agenda)
          ∧ ∃ y, AMap.find? t.grids n = some y ∧ y.cancel = true ∧ y.undealt = [] ∧ y.done = none
            ∧ y.dropped = gr.dropped + gr.undealt.foldl (fun u x => u + (x.2.2 - x.2.1)) 0))
    ∧ (∀ p, gr.accepted = true →
      Reaches (exec (.podLaunchAck p n) s) (fun t => t.mem = s.mem ∧ { t with grids := s.grids } = s
        ∧ ∃ y, AMap.find? t.grids n = some y ∧ p ∈ y.acked)
      ∧ (p ∈ s.participants → p ∉ gr.acked → Reaches (exec (.podAckTimeout p n) s) fun t => Event.reDeal n p ∈ t.agenda
          ∧ { t with agenda := s.agenda } = s)
      ∧ (p ∈ gr.acked → exec (.podAckTimeout p n) s = .next s)
      ∧ (gr.done = none → field gr.record 990 2 = 1 →
        (bitN gr.record 977 = false → p ∉ gr.acked → Reaches (exec (.reDeal n p) s) fun t => t.mem = s.mem
          ∧ Event.gridCancel n ∈ t.agenda ∧ ∃ y, AMap.find? t.grids n = some y ∧ y.failed = true ∧ ∀ x ∈ y.sent, x.1 ≠ p)
        ∧ (∀ sp lo hi, bitN gr.record 977 = true → s.spareFor p = some sp → sp ≠ Config.pkgId → sp ≠ p → gr.sent = [(p, lo, hi)] →
          Reaches (exec (.reDeal n p) s) fun t => t.mem = s.mem ∧ OutMsg.podRange sp n lo hi ∈ t.outbox
            ∧ (∀ m, s.participants.find? (· != Config.pkgId) = some m →
                OutMsg.podMirror m n ((gr.undealt.filter (fun u => u.1 == .pod)).map (·.2)) [(sp, lo, hi)] ∈ t.outbox)
            ∧ ∃ y, AMap.find? t.grids n = some y ∧ sp ∈ y.acked ∧ p ∉ y.acked ∧ y.sent = [(sp, lo, hi)] ∧ y.failed = gr.failed)))
    ∧ (∀ p, p ≠ Config.pkgId → gr.root = p → gr.done = none →
      ((s.participants.filter (· != p)).head? = some Config.pkgId → Reaches (exec (.rootFailover p) s) fun t => t.mem = s.mem
        ∧ AMap.find? t.grids n = some { gr with root := Config.pkgId } ∧ Event.dealRound .pod n ∈ t.agenda)
      ∧ ((s.participants.filter (· != p)).head? ≠ some Config.pkgId → exec (.rootFailover p) s = .next s))

/-- R88 to R99: coherence moves no data of the model. An idle home answers each request with the messages of R90's table,
and takes its next state when nothing has to be acknowledged; a request to a busy line waits. The last acknowledgement
brings the grant and the next state. A grant installs the line once every acknowledgement is in, and ends the transaction; a
forward leaves O or S, or takes the line away; a dirty eviction gives I or S, a clean one removes the holder; a recall leaves
state I with no holder. Messages of a holder act so when they pass the checks of R154. -/
def Obligations.CoherenceOfLines : Prop :=
  ∀ (s : State) (line : Nat) (a : Agent),
    (∀ w kind, ∀ e ∈ [Instr.rds a line, .rdx a line, .upg a line, .wbd a line, .evc a line, .engineRead a line, .recall line,
        .forwardReceipt a line, .grantReceipt a line, .directoryEviction line, .filterEviction line,
        .memoryControllerAcceptance line w, if kind = 0 then .snpInv line else if kind = 1 then .snpData line else .snpCur line],
      Reaches (exec e s) (DataKept s))
    ∧ (∀ b, AMap.find? (s.die (homeOf s line)).busy line = some b → s.l1Exists a = true → s.l1Line a line = none →
      (Reaches (exec (.rds a line) s) fun t => AMap.find? (t.die (homeOf s line)).busy line
          = some { b with queue := b.queue ++ [.rds a line] })
      ∧ Reaches (exec (.rdx a line) s) fun t => AMap.find? (t.die (homeOf s line)).busy line
          = some { b with queue := b.queue ++ [.rdx a line] })
    ∧ (LineReady s line → s.l1Exists a = true → s.l1Line a line = none → let e := s.dirOf line
      (e.st = .i → e.holders = [] → Reaches (exec (.rds a line) s) fun t => OwnedBy s t line a
          ∧ msgsOf t line = some [.grant a .e true] ∧ Event.grantReceipt a line ∈ t.agenda)
      ∧ (e.st = .s → Reaches (exec (.rds a line) s) fun t => (t.dirOf line).st = .s ∧ a ∈ (t.dirOf line).sharers
          ∧ (∀ x ∈ e.sharers, x ∈ (t.dirOf line).sharers) ∧ msgsOf t line = some [.grant a .s true])
      ∧ (∀ o, (e.st = .x ∨ e.st = .o) → e.owner = some o → Reaches (exec (.rds a line) s) fun t =>
          msgsOf t line = some [.fwdS o, .grant a .s false] ∧ t.dirOf line = e ∧ Event.forwardReceipt o line ∈ t.agenda)
      ∧ (∀ i, (i = .rdx a line ∨ i = .upg a line ∧ a ∉ e.holders) → (e.st = .i ∨ e.st = .s) → e.owner = none →
          (e.st = .i → e.sharers = []) →
          Reaches (exec i s) fun t => msgsOf t line = some (e.sharers.map Msg.inv ++ [.grant a .m true])
            ∧ (e.sharers = [] → OwnedBy s t line a ∧ (t.dirOf line).sharers = [])
            ∧ (e.sharers ≠ [] → t.dirOf line = e ∧ ∀ x ∈ e.sharers, Event.forwardReceipt x line ∈ t.agenda))
      ∧ (∀ o, (e.st = .x ∧ e.sharers = [] ∨ e.st = .o) → e.owner = some o → Reaches (exec (.rdx a line) s) fun t =>
          t.dirOf line = e ∧ msgsOf t line = some (.fwdX o :: (e.sharers.map Msg.inv ++ [.grant a .m false]))
            ∧ ∀ x ∈ e.holders, Event.forwardReceipt x line ∈ t.agenda))
    ∧ (∀ l, LineReady s line → s.l1Exists a = true → s.l1Line a line = some l → (l.st = .s ∨ l.st = .o) → a ∈ (s.dirOf line).holders →
      ((s.dirOf line).st = .s ∨ (s.dirOf line).st = .o) →
      let others := (s.dirOf line).holders.filter (· != a)
      Reaches (exec (.upg a line) s) fun t => msgsOf t line = some (others.map Msg.inv ++ [.grant a .m false])
        ∧ (others = [] → OwnedBy s t line a ∧ (t.dirOf line).sharers = []) ∧ (others ≠ [] → t.dirOf line = s.dirOf line))
    ∧ (∀ x o, LineReady s line → (a = .copyEngine x ∨ a = .collEngine x ∨ a = .matrix x) → (s.dirOf line).owner = some o →
      ((s.dirOf line).st = .x ∨ (s.dirOf line).st = .o) →
      Reaches (exec (.engineRead a line) s) fun t => msgsOf t line = some [.fwdS o] ∧ (t.dirOf line).st = (s.dirOf line).st
        ∧ Event.forwardReceipt o line ∈ t.agenda)
    ∧ (∀ g st data queue (ss : List (Agent × Nat)) (rp : Option Nat), a = .core g → NoInjector s → (∀ x, rp = some x → x = s.digestOf line) →
      AMap.find? (s.die (homeOf s line)).busy line = some { msgs := [.grant a st data], queue := queue, stamps := ss, report := rp } →
      AMap.sorted (s.die (homeOf s line)).busy = true →
      s.homeCheck line 6 a (s.intervalOf line) (s.digestOf line) = none →
      (((s.core g).l1.map (·.1)).filter (fun x => x != line && sameSet false x line)).length < (s.core g).l1Banks / 2 →
      Reaches (exec (.grantReceipt a line) s) fun t => AMap.find? (t.die (homeOf s line)).busy line = none
        ∧ (∀ ev ∈ queue, ev ∈ t.agenda) ∧ ∃ l, AMap.find? (t.core g).l1 line = some l ∧ l.st = st
            ∧ ((s.core g).held line = none → l.dirty = 0))
    ∧ (∀ b m, AMap.find? (s.die (homeOf s line)).busy line = some b → m ∈ b.msgs → m.isGrant = false →
      exec (.grantReceipt a line) s = .next s)
    ∧ (∀ g r l gr (ss : List (Agent × Nat)) (rp : Option Nat), NoInjector s → a = .core g → (∀ p ∈ ss, p.1 ≠ .core r) → isHostLine s line = false → AMap.find? (s.core g).l1 line = some l →
      AMap.sorted (s.core g).l1 = true → AMap.find? (s.core g).wbuf line = none →
      (AMap.find? (s.die (homeOf s line)).busy line = some { msgs := [.fwdS a, .grant (.core r) .s false], queue := gr, stamps := ss, report := rp } →
        (s.dirOf line).st = .x → s.homeCheck line 4 a l.interval (s.digestOf line) = none →
        Reaches (exec (.forwardReceipt a line) s) fun t => Event.grantReceipt (.core r) line ∈ t.agenda
          ∧ msgsOf t line = some [.grant (.core r) .s false]
          ∧ (AMap.find? (t.core g).l1 line).map (·.st) = some (if l.st = .m ∨ l.st = .o then .o else .s)
          ∧ (t.dirOf line).st = (if l.st = .m ∨ l.st = .o then .o else .s)
          ∧ t.intervalOf line = (s.intervalOf line + 1) % 2 ^ 32
          ∧ .core r ∈ (t.dirOf line).sharers ∧ a ∈ (t.dirOf line).holders)
      ∧ (∀ m, m ∈ [Msg.fwdX a, .inv a] →
        AMap.find? (s.die (homeOf s line)).busy line = some { msgs := [m, .grant (.core r) .m false], queue := gr, stamps := ss, report := rp } →
        (∀ x ∈ (s.dirOf line).holders, x = a ∨ x = .core r) →
        s.homeCheck line (if m = .fwdX a then 4 else 6) a l.interval (s.digestOf line) = none →
        Reaches (exec (.forwardReceipt a line) s) fun t => Event.grantReceipt (.core r) line ∈ t.agenda
          ∧ msgsOf t line = some [.grant (.core r) .m false] ∧ AMap.find? (t.core g).l1 line = none
          ∧ OwnedBy s t line (.core r))
      ∧ (LineReady s line → (l.st = .m ∨ l.st = .o) → (s.dirOf line).owner = some a →
        ((s.dirOf line).st = .x ∨ (s.dirOf line).st = .o) → s.homeCheck line 7 a l.interval (s.digestOf line) = none →
        Reaches (exec (.wbd a line) s) fun t => AMap.find? (t.core g).l1 line = none ∧ (t.dirOf line).owner = none
          ∧ ((s.dirOf line).st = .x → (t.dirOf line).st = .i ∧ t.intervalOf line = (s.intervalOf line + 1) % 2 ^ 32)
          ∧ ((s.dirOf line).st = .o → (t.dirOf line).st = if (s.dirOf line).sharers = [] then .i else .s))
      ∧ (LineReady s line → (l.st = .e ∨ l.st = .s) → s.homeCheck line 8 a l.interval (s.digestOf line) = none →
        Reaches (exec (.evc a line) s) fun t => AMap.find? (t.core g).l1 line = none
          ∧ ((s.dirOf line).st = .x → (t.dirOf line).st = .i)
          ∧ ((s.dirOf line).st = .s → (t.dirOf line).sharers = (s.dirOf line).sharers.filter (· != a)
              ∧ ((t.dirOf line).sharers = [] → (t.dirOf line).st = .i))))
    ∧ (LineReady s line → ((s.recallOut line).dirOf line).st ≠ .n → ∀ e ∈ [Instr.recall line, .directoryEviction line],
      Reaches (exec e s) fun t => (t.dirOf line).st = .i
        ∧ ((s.dirOf line).st ≠ .i → (t.dirOf line).holders = [])
        ∧ ∀ g, .core g ∈ (s.dirOf line).holders → (s.dirOf line).st ≠ .i → AMap.sorted (s.core g).l1 = true →
            AMap.find? (t.core g).l1 line = none)
    ∧ (∀ f, isHostLine s line = true → s.homeFree line = true → AMap.find? s.ctl.filter line = some f → f.evicting = false →
      f.dir.st = .i → Reaches (exec (.filterEviction line) s) fun t => OutMsg.hostEvict line
          (if AMap.has s.backing line then some (s.lineBytes line) else none) ∈ t.outbox
        ∧ (AMap.find? t.ctl.filter line).map (·.evicting) = some true)
    ∧ (NoInjector s → s.homeFree line = true → deviceMem s (line * 128) = true → isHostLine s line = false →
      (Reaches (exec (.memoryControllerAcceptance line false) s) fun t => AMap.has (t.die (homeOf s line)).msc line = true)
      ∧ (AMap.sorted s.backing = true → (s.dirOf line).dirty = false →
        Reaches (exec (.memoryControllerAcceptance line true) s) fun t => AMap.find? t.backing line = none))

/-- R28, R29, R31, R32, R35, R44, R95, R98 to R100, R137, R462, R467, R468: a snoop of a line that the device does
not hold is answered so; of one it holds, with the data where it is dirty. A host access reads or writes the bytes
it names, waits for a flip or a busy line, and faults at an address that the map reserves. The answer of the host gives the filter its
line; a home atomic and an uncached access perform at the home; the answer of register space, or of a storage port,
ends the access. A storage port refuses what lies outside its span. -/
def Obligations.HostsAndStoragePorts : Prop :=
  ∀ (s : State), Memory.wf s.mem = true →
    (∀ line, AMap.find? (s.die (homeOf s line)).busy line = none →
      (AMap.find? s.ctl.filter line = none → ∀ e ∈ [Instr.snpInv line, .snpData line, .snpCur line],
        exec e s = .next (s.send (.snoopAnswer line 0 none)))
      ∧ (∀ f, isHostLine s line = true → AMap.find? s.ctl.filter line = some f → f.host ≠ none → f.asked = none → f.dir.st ≠ .n →
        AMap.sorted s.ctl.filter = true →
        let dirty := f.host = some .m ∨ f.host = some .e ∧ AMap.has s.backing line = true
        let answer := fun (d c : Nat) (t : State) => (dirty → OutMsg.snoopAnswer line d (some (s.lineBytes line)) ∈ t.outbox)
          ∧ (¬dirty → OutMsg.snoopAnswer line c none ∈ t.outbox)
        (((s.recallOut line).dirOf line).st ≠ .n →
          Reaches (exec (.snpInv line) s) fun t => answer 1 2 t ∧ AMap.find? t.ctl.filter line = none)
        ∧ (((s.shareLine line).dirOf line).st ≠ .n →
          Reaches (exec (.snpData line) s) fun t => answer 3 4 t ∧ (AMap.find? t.ctl.filter line).map (·.host) = some (some .s))
        ∧ (Reaches (exec (.snpCur line) s) fun t => answer 5 6 t ∧ t.ctl.filter = s.ctl.filter)))
    ∧ (∀ r : PhysReq, let last := r.pa + r.size - 1
      (∀ rg, (rg = .hbm ∨ rg = .ddr) → regionOf s r.pa = rg → regionOf s last = rg →
        (s.flipHoldsPa r.pa = true ∨ s.flipHoldsPa last = true
            ∨ (∃ l, linesOf r.pa r.size = [l] ∧ s.busyLine l = true ∧ s.homePoison l = none ∧ isHostLine s l = false) →
          exec (.hostAccess r) s = .next (s.updCtl (fun c => { c with heldHost := c.heldHost ++ [r] })))
        ∧ (s.flipHoldsPa r.pa = false → s.flipHoldsPa last = false → (∃ p, r.agent = .host p) →
          (∀ l ∈ linesOf r.pa r.size, s.homePoison l = none) →
          let lines := (linesOf r.pa r.size).filter (fun l => !isHostLine s l)
          (∀ s1, r.data = none → homeReadLines r.agent lines s = .ok s1 → Reaches (exec (.hostAccess r) s) fun t => t.mem = s.mem
            ∧ OutMsg.hostData r.pa r.size (some (Memory.readLE s.mem r.pa r.size)) ∈ t.outbox)
          ∧ (∀ v s1, r.data = some v → homeTakeWrites r.agent 10 r.pa (leBytes r.size v) lines s = .ok s1 →
            Reaches (exec (.hostAccess r) s) fun t =>
              (∀ b, r.pa ≤ b → b < r.pa + r.size → Memory.read t.mem b = BitVec.ofNat 8 (v / 2 ^ (8 * (b - r.pa))))
                ∧ ∀ b, b < r.pa ∨ r.pa + r.size ≤ b → Memory.read t.mem b = Memory.read s.mem b)))
      ∧ ((∀ n, r.agent ≠ .storage n) → r.data = none →
        (regionOf s r.pa = .window → regionOf s last = .window → exec (.hostAccess r) s = .next (s.send (.hostData r.pa r.size
          (some (leValue (Memory.readBytes s.ctl.window (r.pa - windowBase) r.size))))))
        ∧ (regionOf s r.pa = .stream → regionOf s last = .stream →
          exec (.hostAccess r) s = .next (s.send (.hostData r.pa r.size (some 0)))))
      ∧ (regionOf s r.pa = .reserved ∨ regionOf s last = .reserved → exec (.hostAccess r) s = .fault .outsideMap)
      ∧ (regionOf s r.pa ∈ [.storage, .host, .peer] → regionOf s last ≠ .reserved → exec (.hostAccess r) s = .next s)
      ∧ (((∃ l ∈ linesOf r.pa r.size, regionOf s (l * 128) = .reserved) → exec (.uncachedAccess r) s = .fault .outsideMap)
        ∧ ((∀ l ∈ linesOf r.pa r.size, deviceMem s (l * 128) = true) → r.size ≠ 0 →
          (∀ s1, r.data = none → uncachedLines (linesOf r.pa r.size) s = .ok s1 → AMap.sorted s.backing = true →
            Reaches (exec (.uncachedAccess r) s) fun t => t.mem = s.mem
              ∧ ∀ l ∈ linesOf r.pa r.size, AMap.has t.backing l = false)
          ∧ (∀ v s1, r.data = some v →
            homeTakeWrites r.agent (writeType r.agent) r.pa (leBytes r.size v) (linesOf r.pa r.size) s = .ok s1 →
            Reaches (exec (.uncachedAccess r) s) fun t =>
              (∀ b, r.pa ≤ b → b < r.pa + r.size → Memory.read t.mem b = BitVec.ofNat 8 (v / 2 ^ (8 * (b - r.pa))))
                ∧ ∀ b, b < r.pa ∨ r.pa + r.size ≤ b → Memory.read t.mem b = Memory.read s.mem b)))
      ∧ (∀ n p x, AMap.find? s.ctl.storage n = some p →
        ((x < p.ibbase ∨ p.ibbase + p.ibsize < x + r.size) → Reaches (exec (.inboundRequest n false x r.size r.data) s) fun t =>
          t.mem = s.mem ∧ OutMsg.pcie n none ∈ t.outbox
            ∧ (AMap.find? t.ctl.storage n).map (·.refused) = some (min (p.refused + 1) 0xFFFF))
        ∧ (Reaches (exec (.inboundRequest n true x r.size r.data) s) fun t => t.mem = s.mem ∧ OutMsg.pcie n none ∈ t.outbox)
        ∧ (p.spanIn s = true → p.ibbase ≤ x → x + r.size ≤ p.ibbase + p.ibsize → regionOf s (p.ibtgt + (x - p.ibbase)) ≠ .reserved →
          regionOf s (p.ibtgt + (x - p.ibbase) + r.size - 1) ≠ .reserved → exec (.inboundRequest n false x r.size r.data) s
            = exec (.hostAccess ⟨.storage n, p.ibtgt + (x - p.ibbase), r.size, r.data⟩) s)))
    ∧ (∀ r : AtomReq, let n := r.elem.bytes
      (regionOf s r.pa = .reserved → exec (.homeAtomic r) s = .fault .outsideMap)
      ∧ (deviceMem s r.pa = true → r.pa % n ≠ 0 → exec (.homeAtomic r) s = .next s)
      ∧ (∀ s1, deviceMem s r.pa = true → r.pa % n = 0 → s.acquireAtomic r.agent r.pa r.elem = .ok s1 →
        Reaches (exec (.homeAtomic r) s) fun t =>
          Memory.readLE t.mem r.pa n = (atomGives r.op r.elem (Memory.readLE s.mem r.pa n) (r.x % 2 ^ (8 * n)) (r.new % 2 ^ (8 * n))).getD
              (Memory.readLE s.mem r.pa n) % 2 ^ (8 * n)
            ∧ ∀ b, b < r.pa ∨ r.pa + n ≤ b → Memory.read t.mem b = Memory.read s.mem b))
    ∧ (∀ line f bs, AMap.find? s.ctl.filter line = some f → AMap.sorted s.ctl.filter = true → isHostLine s line = true →
      (∀ r, f.evicting = false → f.asked ≠ none → bs.length = 128 → (r = .grantShared bs ∨ r = .grantOwn bs) → Reaches (exec (.cxlHostResponse line r) s) fun t =>
        Memory.readBytes t.mem (line * 128) 128 = bs
          ∧ (∀ b, b < line * 128 ∨ line * 128 + 128 ≤ b → Memory.read t.mem b = Memory.read s.mem b)
          ∧ ((AMap.find? t.ctl.filter line).map (fun x => (x.host, x.asked))
              = some (some (if r = .grantShared bs then .s else if f.asked = some false then .e else .m), none)))
      ∧ (f.evicting = true → Reaches (exec (.cxlHostResponse line .evictDone) s) fun t => t.mem = s.mem
          ∧ AMap.find? t.ctl.filter line = none))
    ∧ (∀ g q h x v, s.holder? g q = some h → h.ext = [x] → x.idx = none → x.wq = none → x.data = some v → x.failed = none → x.atom = none → x.whole = false →
      (∀ s1, regionOf s x.pa = .reg → s1 = s.regWrite false (x.pa - regBase) x.size v → s1.holder? g q = some h →
        regionOf s1 x.pa = .reg → Reaches (exec (.registerSpaceAnswer g q) s) fun t => t.mem = s1.mem ∧ t.ctl = s1.ctl ∧ t.dies = s1.dies
          ∧ ∃ h', t.holder? g q = some h' ∧ h'.ext = [] ∧ h'.sregs = h.sregs ∧ h'.vregs = h.vregs ∧ h'.pc = h.pc)
      ∧ (∀ v', regionOf s x.pa = .storage → Reaches (exec (.storageCompletion g q (some v')) s) fun t => t.mem = s.mem
          ∧ ∃ h', t.holder? g q = some h' ∧ h'.ext = [] ∧ h'.sregs = h.sregs ∧ h'.vregs = h.vregs ∧ h'.pc = h.pc))
    ∧ (∀ n up rate width, n < 2 → Reaches (exec (.storageLinkChange n up rate width) s) fun t =>
      { t with ctl := { t.ctl with storage := s.ctl.storage } } = s ∧ ∃ p, AMap.find? t.ctl.storage n = some p ∧ p.up = up
        ∧ (up = true → p.rate = rate % 8 ∧ p.width = width % 8))
    ∧ ∀ ds, exec (.hostDecoderChange ds) s = .next { s with ctl := { s.ctl with decoders := ds } }

/-- R31, R145 to R149, R156 to R163, R171 to R175, R433, R488: a release completes once its accesses are checked, or
traps when its slot is contained; a read whose stamp is not above the slot's floor contains the slot; sums of an
epoch that agree are forgotten, and sums that do not quarantine the core at that home's die, late counts too. An
uncorrectable flit that carried a directory message puts the line in N; one of clean data is asked for once more.
The scrub port writes a line in N and makes it usable; a clear of CKSTAT, of UNCLM, of a quarantine, and an EICTL
write, do what their registers say. -/
def Obligations.CheckingAndRepair : Prop :=
  ∀ (s : State) (g : Nat),
    (∀ r h, ReleaseGoes s g r h →
      ((r.kind = .fencex ∨ ∃ o, r.kind = .fence o) → ((s.core g).floor r.slot).contain = 0 →
        Reaches (exec (.releaseComplete g) s) fun t => DataKept s t ∧ (t.core g).releases = [] ∧ t.holder? g r.slot = some h)
      ∧ (∀ k o n d x, r.kind = .arrive k o n d x → ((s.core g).floor r.slot).contain = 0 →
        Reaches (exec (.releaseComplete g) s) fun t => (t.core g).releases = [] ∧ Event.barrierArrivalCount g ∈ t.agenda
          ∧ ∃ a, (t.core g).arrivals = (s.core g).arrivals ++ [a] ∧ a.slot = r.slot ∧ a.home = k ∧ a.obj = o ∧ a.n = n
            ∧ a.drop = d ∧ a.dest = x)
      ∧ ((r.kind = .fencex ∨ ∃ o, r.kind = .fence o) → r.idx = none → ((s.core g).floor r.slot).contain ≠ 0 →
        Reaches (exec (.releaseComplete g) s) fun t => DataKept s t ∧ (t.core g).releases = [] ∧ Event.trapEntry g r.slot ∈ t.agenda
          ∧ ∃ h' p, t.holder? g r.slot = some h' ∧ h'.pend = h.pend ++ [p] ∧ p.cause = 10))
    ∧ (∀ r e, (s.core g).releases = [r] → e ∈ (s.core g).taster → e.slot = r.slot → e.seq < r.seq →
      exec (.releaseComplete g) s = .next s)
    ∧ (∀ e, (s.core g).taster = [e] → e.stamped = true → e.kind = 0 → e.order = 0 → e.dep = 0 → e.fencex = false →
      let f := (s.core g).floor e.slot
      f.parts = [] →
      ¬after48 (((s.core g).lclock + 2 ^ 48 - 2 ^ 40) % 2 ^ 48) (readFloor f) → f.contain = 0 →
      Reaches (exec (.tasterCheck g) s) fun t => DataKept s t ∧ (t.core g).taster = []
        ∧ (after48 e.min (readFloor f) → ((t.core g).floor e.slot).contain = 0 ∧ t.ctl.reports = s.ctl.reports)
        ∧ (¬after48 e.min (readFloor f) → ((t.core g).floor e.slot).contain ≠ 0
            ∧ t.ctl.reports.length = s.ctl.reports.length + 1))
    ∧ (s.clock % 65536 ≠ 256 * g % 65536 → exec (.epochClose g) s = .next s)
    ∧ (∀ id, s.clock % 65536 = 256 * g % 65536 → ((s.die (dieOf g)).checker 1 (g % 32)).peers = [id] → id / 2 ^ 12 < 9 →
      Reaches (exec (.epochClose g) s) fun t => DataKept s t ∧ Event.epochCompare g (id / 2 ^ 12) ∈ t.agenda
        ∧ ∃ e, (t.die (id / 2 ^ 12)).closes = (s.die (id / 2 ^ 12)).closes ++ [e] ∧ e.core = g ∧ e.home = id ∧ e.at_ = s.clock)
    ∧ (∀ d e, (s.die d).closes = [e] → e.core = g → e.home / 2 ^ 12 = d →
      (e.sent.2 = e.got.2 → e.back.2 = e.ret.2 → ((e.sent.1 = e.got.1 ∧ e.back.1 = e.ret.1) →
          Reaches (exec (.epochCompare g d) s) fun t => DataKept s t ∧ (t.die d).closes = [] ∧ t.ctl.reports = s.ctl.reports
            ∧ (t.die d).quarantined = (s.die d).quarantined)
        ∧ (¬(e.sent.1 = e.got.1 ∧ e.back.1 = e.ret.1) →
          Reaches (exec (.epochCompare g d) s) fun t => DataKept s t ∧ (t.die d).closes = []
            ∧ t.ctl.reports.length = s.ctl.reports.length + 1 ∧ AMap.has (t.die d).quarantined g = true))
      ∧ ((e.sent.2 ≠ e.got.2 ∨ e.back.2 ≠ e.ret.2) →
        (Reaches (exec (.epochCompare g d) s) fun t => DataKept s t ∧ (t.die d).closes = [e] ∧ t.ctl.reports = s.ctl.reports)
        ∧ (e.at_ + 8192 ≤ s.clock → Reaches (exec (.epochTimeout g d) s) fun t => DataKept s t ∧ (t.die d).closes = []
            ∧ t.ctl.reports.length = s.ctl.reports.length + 1 ∧ AMap.has (t.die d).quarantined g = true)
        ∧ (s.clock < e.at_ + 8192 → Reaches (exec (.epochTimeout g d) s) fun t => DataKept s t ∧ (t.die d).closes = [e])))
    ∧ (let k := field s.ctl.scraddr 0 16
      let c := 32 * (k / 2 ^ 12) + k % 2 ^ 9
      (k / 2 ^ 9 % 8 = 1 → s.dies.any (fun p => AMap.has p.2.quarantined c) = true → (∀ p ∈ s.dies, AMap.sorted p.2.quarantined = true) →
        Reaches (exec .quarantineClear s) fun t => t.mem = s.mem ∧ t.ctl.scrRefused = false
          ∧ ∀ d, AMap.find? (t.die d).quarantined c = none)
      ∧ (k / 2 ^ 9 % 8 ≠ 1 → Reaches (exec .quarantineClear s) fun t => t.ctl.scrRefused = true ∧ t.dies = s.dies))
    ∧ (∀ k, Reaches (exec (.ckstatClear k) s) fun t => t.mem = s.mem
        ∧ ((t.die (k / 2 ^ 12)).checker (k / 2 ^ 9 % 8) (k % 2 ^ 9)).violations = 0
        ∧ ((t.die (k / 2 ^ 12)).checker (k / 2 ^ 9 % 8) (k % 2 ^ 9)).last = 0)
    ∧ (∀ d v, (Reaches (exec (.unclmClear d) s) fun t => { t with dies := s.dies } = s ∧ (t.die d).unclm = 0)
      ∧ Reaches (exec (.eictlWrite d v) s) fun t => { t with dies := s.dies } = s
          ∧ (t.die d).eictl = v / 2 ^ 31 % 2 * 2 ^ 31 + v % 2 ^ 8)
    ∧ (let line := field s.ctl.scraddr 0 45
      (∀ v, bitN v 0 = false → exec (.scrubStart v) s = .next s)
      ∧ (∀ v, bitN v 0 = true → (s.dirOf line).st = .n → s.ctl.scrBusy = false → deviceMem s (line * 128) = true →
        Reaches (exec (.scrubStart v) s) fun t => t.mem = s.mem ∧ t.ctl.scrBusy = true ∧ t.ctl.scrRefused = false
          ∧ Event.scrubPerform ∈ t.agenda)
      ∧ (∀ v, bitN v 0 = true → (s.dirOf line).st ≠ .n → Reaches (exec (.scrubStart v) s) fun t => t.mem = s.mem
          ∧ t.ctl.scrBusy = s.ctl.scrBusy ∧ t.ctl.scrRefused = true)
      ∧ (s.ctl.scrBusy = true → s.busyLine line = false → Memory.wf s.mem = true → Reaches (exec .scrubPerform s) fun t =>
          (∀ b < 128, Memory.read t.mem (line * 128 + b) = BitVec.ofNat 8 (s.ctl.scrdata / 2 ^ (8 * b)))
            ∧ (∀ b, b < line * 128 ∨ line * 128 + 128 ≤ b → Memory.read t.mem b = Memory.read s.mem b)
            ∧ (t.dirOf line).st = .i ∧ line ∉ t.poison ∧ t.ctl.scrBusy = false))
    ∧ (∀ fabric near link own typ l, (fabric = true → s.peerAsks = []) → ((homeDie s (l * 128)).isSome ∨ isHostLine s l) →
      (s.dirOf l).st ≠ .n →
      (∀ ls, (if fabric then s.portLines link else s.linkLines near link) = [l] →
        Reaches (exec (.uncorrectableFlit fabric ⟨near, link⟩ true own typ ls) s) fun t => DataKept s t ∧ (t.dirOf l).st = .n
          ∧ (t.dirOf l).holders = [] ∧ (s.ownershipMoves l = true ∨ s.ownedDirty l = true → l ∈ t.poison)
          ∧ (s.ownershipMoves l = false → s.ownedDirty l = false → t.poison = s.poison)
          ∧ t.ctl.reports.length = s.ctl.reports.length + 1)
      ∧ (typ ∈ [9, 12, 14] ∨ typ = 0 ∧ own = false →
        (l ∉ (s.die (s.lineDie l)).reread → Reaches (exec (.uncorrectableFlit fabric ⟨near, link⟩ false own typ [l]) s) fun t =>
          DataKept s t ∧ t.dirOf l = s.dirOf l ∧ t.poison = s.poison ∧ l ∈ (t.die (s.lineDie l)).reread)
        ∧ (l ∈ (s.die (s.lineDie l)).reread → Reaches (exec (.uncorrectableFlit fabric ⟨near, link⟩ false own typ [l]) s) fun t =>
          DataKept s t ∧ (t.dirOf l).st = .n ∧ (t.dirOf l).holders = []))
      ∧ (typ ∈ [1, 4, 5, 6, 7, 8] ∨ typ = 0 ∧ own = true →
        Reaches (exec (.uncorrectableFlit fabric ⟨near, link⟩ false own typ [l]) s) fun t => DataKept s t
          ∧ (t.dirOf l).st = .n ∧ (t.dirOf l).holders = []
          ∧ (typ = 7 ∨ (typ = 0 ∨ typ = 1) ∧ own = true ∨ s.ownedDirty l = true → l ∈ t.poison)))

/-- R13, R36 to R38, R174, R469, R470, R473 to R476: a flit that fails its check is asked for again, a data flit
counts in its turn only, and an acknowledgement frees what comes before it; a replay is counted. A link that goes
down carries nothing. An install goes
from Empty through Installing to Active on the owner's word, or back with its status; an uninstall drains. The owner
performs a peer's access that its export allows, or answers that it is revoked; the answer ends the access here, and
a lost or revoked one leaves a trap. A newer map is taken; the fourth missed heartbeat, as a loss, marks the package
lost and brings in the spare. -/
def Obligations.FabricPeersAndPod : Prop :=
  ∀ (s : State),
    (∀ port f, (f.crcOk = false ∨ f.reserved ≠ 0 ∨ 3 < f.kind → exec (.flitReceipt port f) s = .next (s.send (.retry port (s.link port).rxExpect)))
      ∧ (f.crcOk = true → f.reserved = 0 → f.kind = 1 → Reaches (exec (.flitReceipt port f) s) fun t => t.mem = s.mem
          ∧ (t.link port).rxExpect = (if f.seq = (s.link port).rxExpect then ((s.link port).rxExpect + 1) % 4096 else (s.link port).rxExpect)
          ∧ (t.link port).unacked = (s.link port).unacked.filter (fun x => !(decide (1 ≤ (f.ack + 4096 - x % 4096) % 4096)
              && decide ((f.ack + 4096 - x % 4096) % 4096 ≤ 256)))))
    ∧ (∀ port n, (∀ x ∈ (s.link port).unacked, 256 < (n + 4096 - x % 4096) % 4096 ∨ (n + 4096 - x % 4096) % 4096 = 0) → (s.link port).unacked ≠ [] →
      ((s.link port).replays < 16 → Reaches (exec (.retryRequest port n) s) fun t => t.mem = s.mem
        ∧ (t.link port).replays = (s.link port).replays + 1 ∧ (t.link port).unacked = (s.link port).unacked
        ∧ OutMsg.replay port n ∈ t.outbox)
      ∧ ((s.link port).replays = 16 → (∀ x ∈ (s.link port).kept, ∀ r o, x.2 ≠ .peer r o) → Reaches (exec (.retryRequest port n) s) fun t => t.mem = s.mem ∧ (t.link port).unacked = []
        ∧ OutMsg.report 4 port (s.link port).unacked.length ∈ t.outbox))
    ∧ (∀ a b, (s.linkUp a b = false → exec (.linkDown a b) s = .next s)
      ∧ (s.linkUp a b = true → Reaches (exec (.linkDown a b) s) fun t => DataKept s t ∧ t.linkUp a b = false ∧ t.linkUp b a = false
          ∧ (s.linkFlits a b = [] → { t with dies := s.dies } = s)))
    ∧ (∀ i w, (4096 ≤ i → exec (.handleInstall i w) s = .next s)
      ∧ (i < 4096 → (∀ n, (((s.peer i).st ≠ .empty ∧ n = 1) ∨ ((s.peer i).st = .empty ∧ ¬handleGood w ∧ n = 2)
            ∨ ((s.peer i).st = .empty ∧ handleGood w ∧ podState s (field w 53 11) = some 3 ∧ n = 4)) →
          Reaches (exec (.handleInstall i w) s) fun t => t.mem = s.mem ∧ t.peer i = { s.peer i with status := n })
        ∧ ((s.peer i).st = .empty → handleGood w → podState s (field w 53 11) ≠ some 3 →
          Reaches (exec (.handleInstall i w) s) fun t => t.mem = s.mem ∧ (t.peer i).st = .installing
            ∧ (t.peer i).handle = w % 2 ^ 64 ∧ OutMsg.installAsk (field w 53 11) w i ∈ t.outbox))
      ∧ (∀ n, ((s.peer i).st ≠ .installing → exec (.installReply i n) s = .next s)
        ∧ ((s.peer i).st = .installing → Reaches (exec (.installReply i n) s) fun t => t.mem = s.mem
            ∧ (n = 0 → (t.peer i).st = .active ∧ (t.peer i).handle = (s.peer i).handle)
            ∧ (n ≠ 0 → (t.peer i).st = .empty ∧ (t.peer i).status = n % 256)))
      ∧ ((s.peer i).st ≠ .active → exec (.handleUninstall i) s = .next s)
      ∧ ((s.peer i).st = .active → Reaches (exec (.handleUninstall i) s) fun t => t.mem = s.mem
          ∧ t.peer i = { s.peer i with st := .draining } ∧ Event.slotDrained i ∈ t.agenda)
      ∧ ((s.peer i).st = .draining → (s.peer i).inflight ≠ 0 → exec (.slotDrained i) s = .next s)
      ∧ ((s.peer i).st = .draining → (s.peer i).inflight = 0 → Reaches (exec (.slotDrained i) s) fun t => t.mem = s.mem
          ∧ (t.peer i).st = .empty ∧ ∀ k, ∀ l ∈ (t.core k).l1, l.2.st = .sr → field (l.1 * 128) 38 12 ≠ i))
    ∧ (∀ r : PeerReq, let n := match r.op with | .read k => k | .write k _ => k | .atomic _ e _ _ => e.bytes
      (s.exportEntry r.exportIdx = none → Reaches (exec (.peerAccess r) s) fun t => t.mem = s.mem
        ∧ OutMsg.peerAnswer r.src r.tag .revoked ∈ t.outbox)
      ∧ (∀ e, s.exportEntry r.exportIdx = some e →
        (¬exportGood s e ∨ field e 62 8 ≠ r.gen ∨ 2 ^ field e 70 6 < r.off + n → Reaches (exec (.peerAccess r) s) fun t => t.mem = s.mem
          ∧ OutMsg.peerAnswer r.src r.tag .revoked ∈ t.outbox)
        ∧ (exportGood s e → field e 62 8 = r.gen → r.off + n ≤ 2 ^ field e 70 6 → let pa := field e 76 52 + r.off
          (s.flipHoldsPa pa = true ∨ s.flipHoldsPa (pa + n - 1) = true →
            exec (.peerAccess r) s = .next (s.updCtl (fun c => { c with heldPeer := c.heldPeer ++ [r] })))
          ∧ (s.flipHoldsPa pa = false → s.flipHoldsPa (pa + n - 1) = false → Memory.wf s.mem = true → let a := Agent.peer r.src
            (∀ s1, r.op = .read n → (if Config.exportUncached r.exportIdx then uncachedLines (linesOf pa n) s
                  else readLines { ctlCtx 0 with agent := a } (linesOf pa n) s) = .ok s1 →
              Reaches (exec (.peerAccess r) s) fun t => t.mem = s.mem
                ∧ OutMsg.peerAnswer r.src r.tag (.data (leValue (s.physBytes pa n))) ∈ t.outbox)
            ∧ (∀ v s1, r.op = .write n v → homeTakeWrites a 14 pa (leBytes n v) (linesOf pa n) s = .ok s1 →
              Reaches (exec (.peerAccess r) s) fun t =>
                (∀ b < n, Memory.read t.mem (pa + b) = BitVec.ofNat 8 (v / 2 ^ (8 * b)))
                  ∧ (∀ b, b < pa ∨ pa + n ≤ b → Memory.read t.mem b = Memory.read s.mem b)
                  ∧ OutMsg.peerAnswer r.src r.tag (.data 0) ∈ t.outbox)
            ∧ (∀ op el x new s1, r.op = .atomic op el x new → s.acquireAtomic a pa el = .ok s1 →
              Reaches (exec (.peerAccess r) s) fun t =>
                let old := Memory.readLE s.mem pa n
                Memory.readLE t.mem pa n = (atomGives op el old (x % 2 ^ (8 * n)) (new % 2 ^ (8 * n))).getD old % 2 ^ (8 * n)
                  ∧ (∀ b, b < pa ∨ pa + n ≤ b → Memory.read t.mem b = Memory.read s.mem b)
                  ∧ OutMsg.peerAnswer r.src r.tag (.data old) ∈ t.outbox)))))
    ∧ (∀ g q h x v, g < 256 → s.orphanReply g q = none → s.holder? g q = some h → h.ext = [x] → x.idx = none → x.wq = none →
      x.data = some v → x.failed = none → x.atom = none → x.whole = false → regionOf s x.pa = .peer →
      (∀ w, Reaches (exec (.peerReply g q (.data w)) s) fun t => t.mem = s.mem
        ∧ (t.peer (field x.pa 38 12)).inflight = (s.peer (field x.pa 38 12)).inflight - 1
        ∧ ∃ h', t.holder? g q = some h' ∧ h'.ext = [] ∧ h'.pend = h.pend ∧ h'.sregs = h.sregs ∧ h'.vregs = h.vregs ∧ h'.pc = h.pc)
      ∧ (∀ w c k, (w = .lost ∧ c = 11 ∧ k = 5 ∨ w = .revoked ∧ c = 5 ∧ k = 0x18) → Reaches (exec (.peerReply g q w) s) fun t => t.mem = s.mem
        ∧ Event.trapEntry g q ∈ t.agenda ∧ ∃ h' p, t.holder? g q = some h' ∧ h'.ext = [] ∧ h'.pend = h.pend ++ [p]
          ∧ p.cause = c ∧ p.kind = k ∧ p.tval = x.ea ∧ p.pc = x.pc))
    ∧ (∀ src w i, Reaches (exec (.ownerInstallCheck src w i) s) fun t => t.mem = s.mem
        ∧ (s.exportEntry (field w 37 16) = none → OutMsg.installAnswer src i 3 ∈ t.outbox)
        ∧ ∀ e, s.exportEntry (field w 37 16) = some e →
            let ok := exportGood s e ∧ field w 0 16 = handleCheck (field w 16 48)
              ∧ field w 29 8 = field e 62 8 ∧ field w 20 3 &&& field e 58 3 = field w 20 3
              ∧ (bitN w 22 = true ∨ bitN w 21 = true ∨ bitN e 61 = true)
            (ok → OutMsg.installAnswer src i 0 ∈ t.outbox) ∧ (¬ok → OutMsg.installAnswer src i 3 ∈ t.outbox))
    ∧ (∀ n es, n ≤ s.ctl.podEpoch → exec (.mapEpochInstall n es) s = .next s)
    ∧ (∀ n e, s.ctl.podEpoch < n → e.state ≠ 3 → Reaches (exec (.mapEpochInstall n [e]) s) fun t => DataKept s t
        ∧ t.ctl.podEpoch = n % 2 ^ 32 ∧ AMap.find? t.ctl.podMap e.pkg = some e)
    ∧ (∀ p e q x, p ≠ Config.pkgId → AMap.find? s.ctl.podMap p = some e → e.pkg = p → e.state = 1 → s.slotsOf p = [] →
      List.find? (fun (y : Nat × PodEntry) => y.2.state == 2 && y.1 != p) s.ctl.podMap = some (q, x) → x.pkg = q →
      AMap.sorted s.ctl.routing = true →
      (Reaches (exec (.packageLoss p) s) fun t => DataKept s t ∧ podState t p = some 3
        ∧ AMap.find? t.ctl.podMap q = some { x with state := 1, replaced := p } ∧ t.ctl.podEpoch = (s.ctl.podEpoch + 1) % 2 ^ 32
        ∧ AMap.find? t.ctl.routing p = none ∧ Event.rootFailover p ∈ t.agenda
        ∧ ∀ n gr, AMap.find? s.grids n = some gr → gr.done = none → Event.reDeal n p ∈ t.agenda)
      ∧ (AMap.getD s.ctl.heartbeats p 0 = 3 → Reaches (exec (.heartbeatMiss p) s) fun t => podState t p = some 3))
    ∧ ∀ p, AMap.getD s.ctl.heartbeats p 0 < 3 → Reaches (exec (.heartbeatMiss p) s) fun t =>
        { t with ctl := { t.ctl with heartbeats := s.ctl.heartbeats } } = s
          ∧ AMap.find? t.ctl.heartbeats p = some (AMap.getD s.ctl.heartbeats p 0 + 1)

/-- R227, R228, R266, R400 to R403: an entry whose rows are in is staged, once a peer has been asked for a scale
that it holds; the fetch stage, when empty, takes the ready entry that leads and the one of its key that fits, and
none behind an older entry of its tile; what is read of the B tile is kept, and a whole one enters the array when
that is free; a pass that leaves the array adds its integer products to the rows of its entries and to no other
element, or marks them when it is poisoned, and frees its entries. -/
def Obligations.MatrixEngineSteps : Prop :=
  ∀ (s : State) (x : Nat), let c := s.cluster x
    ((∀ e n, c.table = [e] → e.id ≠ n → exec (.aStagingComplete x n) s = .next s)
      ∧ ∀ e, c.table = [e] → e.staged = false →
        (e.todo = [] → Reaches (exec (.aStagingComplete x e.id) s) fun t => DataKept s t
          ∧ (t.cluster x).table = [{ e with staged := true }] ∧ Event.passFormation x ∈ t.agenda)
        ∧ (∀ m pa rest, e.todo = (m, pa) :: rest → AMap.find? e.aScales (1000 + m) = none → regionOf s pa = .peer →
          Reaches (exec (.aStagingComplete x e.id) s) fun t => DataKept s t
            ∧ (t.peer (field pa 38 12)).inflight = (s.peer (field pa 38 12)).inflight + 1
            ∧ ∃ y, (t.cluster x).table = [y] ∧ y.staged = false ∧ y.id = e.id))
    ∧ ((c.fetch ≠ none ∨ s.dieHalted (x / 8) = true ∨ c.table = []) → exec (.passFormation x) s = .next s)
    ∧ (c.fetch = none → s.dieHalted (x / 8) = false →
      (∀ e, c.table = [e] → EntryFree s c e → Reaches (exec (.passFormation x) s) fun t => DataKept s t
        ∧ (t.cluster x).table = [e] ∧ Event.bFetchComplete x ∈ t.agenda
        ∧ ∃ p, (t.cluster x).fetch = some p ∧ p.entries = [e.id] ∧ p.todo = e.bsegs ++ e.ssegs ∧ p.got = [])
      ∧ (∀ e f, c.table = [e, f] → e.id ≠ f.id → e.tile = f.tile → e.staged = false → e.id ∉ inPasses c →
        exec (.passFormation x) s = .next s)
      ∧ (∀ e f, c.table = [e, f] → e.id ≠ f.id → e.tile ≠ f.tile → EntryFree s c e → EntryFree s c f →
        let both := sameKey e f = true ∧ rowsOf e + rowsOf f ≤ 96
        ((4096 ≤ s.clock - e.born ∨ (s.clock - f.born < 4096 ∧ f.prio ≤ e.prio)) →
          Reaches (exec (.passFormation x) s) fun t => ∃ p, (t.cluster x).fetch = some p
            ∧ (both → p.entries = [e.id, f.id]) ∧ (¬both → p.entries = [e.id]))
        ∧ (s.clock - e.born < 4096 → (4096 ≤ s.clock - f.born ∨ e.prio < f.prio) →
          Reaches (exec (.passFormation x) s) fun t => ∃ p, (t.cluster x).fetch = some p
            ∧ (both → p.entries = [f.id, e.id]) ∧ (¬both → p.entries = [f.id]))))
    ∧ (c.fetch = none → exec (.bFetchComplete x) s = .next s)
    ∧ (∀ p, c.fetch = some p → p.todo = [] →
      (c.array ≠ none → Reaches (exec (.bFetchComplete x) s) fun t => DataKept s t ∧ (t.cluster x).fetch = some p
        ∧ (t.cluster x).array = c.array)
      ∧ (c.array = none → (∀ e ∈ c.table, e.sspm = none) → Reaches (exec (.bFetchComplete x) s) fun t => DataKept s t
        ∧ (t.cluster x).fetch = none ∧ (t.cluster x).array = some p ∧ Event.passLeavesArray x ∈ t.agenda
        ∧ Event.passFormation x ∈ t.agenda))
    ∧ (∀ p pa n a, c.fetch = some p → p.todo = [(pa, n, a)] → p.asked = false → c.array = none →
      (∀ e ∈ c.table, e.sspm = none) → regionOf s pa = .hbm → pteType a ≠ 1 → NoInjector s →
      (∀ l ∈ linesOf pa n, LineReady s l ∧ ((s.dirOf l).st = .i ∨ (s.dirOf l).st = .s)) →
      Reaches (exec (.bFetchComplete x) s) fun t => t.mem = s.mem ∧ (t.cluster x).fetch = none
        ∧ ∃ y, (t.cluster x).array = some y ∧ y.got = p.got ++ Memory.readBytes s.mem pa n ∧ y.todo = [] ∧ y.entries = p.entries
            ∧ y.poison = p.poison)
    ∧ (c.array = none → exec (.passLeavesArray x) s = .next s)
    ∧ ∀ p e tile, c.array = some p → p.entries = [e.id] → c.table = [e] → AMap.find? c.tiles e.tile = some tile →
      AMap.sorted tile.elems = true → (∀ y ∈ c.tiles, y.2.orphan = false) → tile.cols ≤ 128 →
      (p.poison = 0 → p.payload = 0 → (field e.fb 140 4 = 6 ∨ field e.fb 140 4 = 7) → (field e.fb 136 4 = 6 ∨ field e.fb 136 4 = 7) →
        Reaches (exec (.passLeavesArray x) s) fun t => DataKept s t ∧ (t.cluster x).array = none ∧ (t.cluster x).table = []
          ∧ Event.passFormation x ∈ t.agenda ∧ ∃ y, AMap.find? (t.cluster x).tiles e.tile = some y ∧ y.passes = tile.passes - 1
            ∧ y.poison = tile.poison
            ∧ ∀ m < 96, ∀ n < 128, tileElem y m n = if e.rows.getLsbD m ∧ n < tile.cols then
                modW 32 (((if e.zero then 0 else tileElem tile m n : Nat) : Int) + intDot e.fb (AMap.getD e.aRows m 0) p.got n)
              else tileElem tile m n)
      ∧ (p.poison ≠ 0 → Reaches (exec (.passLeavesArray x) s) fun t => DataKept s t ∧ (t.cluster x).array = none
          ∧ (t.cluster x).table = [] ∧ ∃ y, AMap.find? (t.cluster x).tiles e.tile = some y ∧ y.passes = tile.passes - 1 ∧ y.poison ≠ 0
            ∧ ∀ m < 96, ∀ n < 128, tileElem y m n = if e.rows.getLsbD m ∧ n < tile.cols then 0x7FC00000 else tileElem tile m n)

/-- R17 to R20, R434 to R439, R456: a pre-emption request at an aligned base stops its dies, and no register
changes; a core whose accesses have performed is halted, its context is saved away, and a restore puts it on a core
or refuses its record with the status of R439; a core that was not saved goes on. A cold reset leaves the state
after reset; a warm one keeps the clock, the DDR tier and the journal's region; a die's reset waits until every core
is halted and zeroes its stacks and nothing else that no cache of the die held. -/
def Obligations.PreemptionAndResets : Prop :=
  ∀ (s : State),
    (∀ base dies, ((base % 2 ^ 30 ≠ 0 ∨ (regionOf s base ≠ .hbm ∧ regionOf s base ≠ .ddr)) →
        exec (.preemptionRequest base dies) s = .next s)
      ∧ (base % 2 ^ 30 = 0 → (regionOf s base = .hbm ∨ regionOf s base = .ddr) →
        Reaches (exec (.preemptionRequest base dies) s) fun t => DataKept s t ∧ t.ctl.saveBase = some base
          ∧ t.ctl.haltDies = s.ctl.haltDies ||| dies % 256 ∧ ∀ g, (t.core g).slots = (s.core g).slots))
    ∧ (∀ g, ((s.dieHalted (dieOf g) = false ∨ g ∈ s.ctl.haltedCores) → exec (.coreHalted g) s = .next s)
      ∧ (s.dieHalted (dieOf g) = true → g ∉ s.ctl.haltedCores → (s.core g).releases = [] → (s.core g).delayed = [] →
        (s.core g).arrivals = [] → (∀ a ∈ s.ctl.wqArrivals, a.core ≠ g) → AMap.sorted (s.core g).slots = true →
        (∀ p ∈ (s.core g).slots, Settled p.2) →
        Reaches (exec (.coreHalted g) s) fun t => DataKept s t ∧ t.ctl.haltedCores = s.ctl.haltedCores ++ [g]
          ∧ t.outbox = s.outbox ++ [.report 5 g 0]
          ∧ ∀ q h, s.holder? g q = some h → ∃ h', t.holder? g q = some h' ∧ h'.pc = h.pc ∧ h'.sregs = h.sregs
            ∧ h'.vregs = h.vregs ∧ h'.preds = h.preds ∧ (∀ w, h.status = .blocked w → h'.status = .ready)
            ∧ ((∀ w, h.status ≠ .blocked w) → h' = h)))
    ∧ (∀ g, ((s.ctl.saveBase = none ∨ g ∉ s.ctl.haltedCores) → exec (.contextSave g) s = .next s)
      ∧ (∀ base, s.ctl.saveBase = some base → g ∈ s.ctl.haltedCores → (∀ p ∈ (s.core g).slots, Settled p.2) →
        (∀ e ∈ (s.cluster (cluOf g)).table, e.core = g → e.id ∉ inPasses (s.cluster (cluOf g))) →
        Reaches (exec (.contextSave g) s) fun t => (t.core g).slots = [] ∧ (t.core g).allocs = [] ∧ (t.core g).barriers = []
          ∧ (AMap.find? t.ctl.savedCores g).isSome = true
          ∧ ∀ p ∈ (s.core g).slots, (g, p.1, p.2) ∈ t.ctl.saved))
    ∧ (∀ a b, (∀ p ∈ s.cores, dieOf p.1 = dieOf b → p.1 ∈ s.ctl.haltedCores) → (s.core b).slots = [] →
      (AMap.find? s.ctl.savedCores a = none → a ≠ b → exec (.contextRestore a b) s = .next s)
      ∧ (∀ base c, s.ctl.saveBase = some base → AMap.find? s.ctl.savedCores a = some c → AMap.getD s.ctl.savedTiles a {} = {} →
        AMap.sorted s.ctl.savedCores = true →
        (s.ctl.saved = [] → Reaches (exec (.contextRestore a b) s) fun t => t.mem = s.mem ∧ (t.core b).allocs = c.allocs
          ∧ (t.core b).barriers = c.barriers ∧ (t.core b).tbase = c.tbase ∧ AMap.find? t.ctl.savedCores a = none
          ∧ b ∉ t.ctl.haltedCores ∧ t.dieHalted (dieOf b) = false)
        ∧ (∀ q h, s.ctl.saved = [(a, q, h)] → h.accs = [] → h.outParts = [] → h.replay = [] →
          (recordRefusal s base a b q h = 0 → Reaches (exec (.contextRestore a b) s) fun t => t.holder? b q = some h
            ∧ t.mem = s.mem ∧ t.ctl.saved = [])
          ∧ (recordRefusal s base a b q h ≠ 0 → Reaches (exec (.contextRestore a b) s) fun t => t.holder? b q = none
            ∧ .report 6 (32 * a + q) (recordRefusal s base a b q h) ∈ t.outbox ∧ t.ctl.saved = []))))
    ∧ (∀ g, (∀ p ∈ s.cores, dieOf p.1 = dieOf g → p.1 ∈ s.ctl.haltedCores) → g ∈ s.ctl.haltedCores →
      AMap.find? s.ctl.savedCores g = none → Reaches (exec (.contextRestore g g) s) fun t => t.mem = s.mem
        ∧ t.ctl.haltedCores = s.ctl.haltedCores.filter (· != g) ∧ t.dieHalted (dieOf g) = false
        ∧ ((∀ p ∈ (s.core g).slots, p.2.replay = []) → (t.core g).slots = (s.core g).slots))
    ∧ exec .packageColdReset s = .next { State.reset with inputs := s.inputs, outbox := s.outbox, fresh := s.fresh }
    ∧ (Memory.wf s.mem = true → s.backing = [] → Reaches (exec .packageWarmReset s) fun t =>
        t.clock = s.clock ∧ t.cores = [] ∧ t.grids = [] ∧ t.dies = State.reset.dies ∧ t.issue = []
          ∧ ∀ b, Memory.read t.mem b = if lasts s b then Memory.read s.mem b else 0#8)
    ∧ (∀ d, ((8 ≤ d ∨ (s.die d).resetting = true) → exec (.computeDieReset d) s = .next s)
      ∧ (d < 8 → (s.die d).resetting = false →
        (s.ctl.resetDie = none → Reaches (exec (.computeDieReset d) s) fun t => DataKept s t
          ∧ t.ctl.resetDie = some (d, s.ctl.haltDies, s.ctl.haltedCores) ∧ t.ctl.haltDies = s.ctl.haltDies ||| 255
          ∧ Event.computeDieReset d ∈ t.agenda ∧ ∀ g, (t.core g).slots = (s.core g).slots)
        ∧ (∀ y, s.ctl.resetDie = some (d, y) → (∃ p ∈ s.cores, p.1 ∉ s.ctl.haltedCores) → exec (.computeDieReset d) s = .next s)
        ∧ (∀ y, s.ctl.resetDie = some (d, y) → (∀ p ∈ s.cores, p.1 ∈ s.ctl.haltedCores) → Memory.wf s.mem = true →
          (∀ p ∈ s.cores, dieOf p.1 = d → p.2.wbuf = [] ∧ ∀ l ∈ p.2.l1, l.2.st ≠ .m ∧ l.2.st ≠ .o) →
          Reaches (exec (.computeDieReset d) s) fun t => (t.die d).resetting = true ∧ (t.die d).online = false
            ∧ t.ctl.resetDie = none ∧ t.ctl.haltDies = y.1 ∧ (∀ g, dieOf g = d → (t.core g).slots = [])
            ∧ ∀ b, Memory.read t.mem b = if inStacks s d b then 0#8 else Memory.read s.mem b)))
    ∧ Reaches (exec .firmwareRestart s) fun t => DataKept s t ∧ t.cores = s.cores ∧ t.grids = s.grids ∧ t.ctl.firmwareUp = true
        ∧ t.ctl.journal = s.ctl.journal ∧ ∀ p ∈ s.ctl.journal, p.2.state = 1 → Event.journalAccept p.1 ∈ t.agenda

/-- R12, R101, R102, R505 to R511: a step of bring-up out of turn does nothing; one that fails stops what R505 says,
and one that succeeds starts the firmware with the capacity of R12, a CXL port, a die's rail, links and clusters,
and puts the die online at the end. The clock moves to 1,000 or 1,400 MHz, or when the thermal limit has cleared. A
cluster is gated only when the conditions of R101 hold, and loses its pool and scratchpads; it wakes with its split
cleared. A die is gated behind its clusters and wakes. -/
def Obligations.BringUpAndPower : Prop :=
  ∀ (s : State),
    (∀ k ok, ((s.ctl.bootFailed = true ∨ k ≠ s.ctl.bootStep + 1) → exec (.bringup k ok) s = .next s)
      ∧ (s.ctl.bootFailed = false → k = s.ctl.bootStep + 1 →
        ((k = 1 ∨ k = 2) → ok = false → exec (.bringup k ok) s = .next { s with ctl := { s.ctl with bootFailed := true } })
        ∧ (k = 1 → ok = true → exec (.bringup k ok) s = .next { s with ctl := { s.ctl with bootStep := 1 } })
        ∧ (k = 2 → ok = true → Reaches (exec (.bringup k ok) s) fun t => t.mem = s.mem ∧ t.cores = s.cores ∧ t.ctl.bootStep = 2
            ∧ t.ctl.firmwareUp = true
            ∧ (∀ m, Config.ddrModules = List.replicate 16 m → m ∈ [64, 128, 256] → t.ctl.ddrGiB = 16 * m)
            ∧ ((∀ m ∈ [64, 128, 256], Config.ddrModules ≠ List.replicate 16 m) → t.ctl.ddrGiB = 0))
        ∧ (k = 3 → exec (.bringup k ok) s = .next { s with ctl := { s.ctl with
            cxl := s.ctl.cxl ++ [ok], bootStep := if 3 ≤ s.ctl.cxl.length then 3 else 2 } })))
    ∧ (∀ ok, exec (.signedImageUpload ok) s = .next (if s.ctl.bootFailed = true ∧ ok = true then
        { s with ctl := { s.ctl with bootFailed := false, bootStep := 0 } } else s))
    ∧ (∀ d k, (¬DieTurn s d ∨ k ≠ (s.die d).step_ + 1 ∨ 11 < k → ∀ ok, exec (.dieBringup d k ok) s = .next s)
      ∧ (DieTurn s d → k = (s.die d).step_ + 1 → k ≤ 11 →
        (Reaches (exec (.dieBringup d k false) s) fun t => t.mem = s.mem ∧ t.cores = s.cores ∧ t.clusters = s.clusters
          ∧ (t.die d).failed = true ∧ (t.die d).online = false)
        ∧ Reaches (exec (.dieBringup d k true) s) fun t => t.mem = s.mem ∧ (t.die d).step_ = k
          ∧ (k = 1 → (t.die d).powered = true) ∧ (k = 2 → t.linkUp d 8 = true ∧ t.linkUp 8 d = true
              ∧ ∀ j < 8, (s.die j).online = true → linkExists d j = true → t.linkUp d j = true ∧ t.linkUp j d = true)
          ∧ (4 ≤ k → (t.cluster (8 * d + (k - 4))).powered = true
              ∧ ∀ j < 4, (t.core (4 * (8 * d + (k - 4)) + j)).spm = [] ∧ (t.core (4 * (8 * d + (k - 4)) + j)).l1Banks = 0)
          ∧ (t.die d).online = decide (k = 11) ∧ (k = 11 → (t.die d).resetting = false)))
    ∧ (∀ mhz, (mhz ≠ 1000 → mhz ≠ 1400 → exec (.clockChange mhz) s = .next s)
      ∧ ((mhz = 1000 ∨ mhz = 1400) → exec (.clockChange mhz) s = .next { s with ctl := if s.ctl.thermal = true then
          { s.ctl with savedMHz := mhz } else { s.ctl with clockMHz := mhz } }))
    ∧ exec .thermalLimit s = .next { s with ctl := if s.ctl.thermal = true then s.ctl else
        { s.ctl with thermal := true, savedMHz := s.ctl.clockMHz, clockMHz := 1000 } }
    ∧ exec .thermalClearTimeout s = .next { s with ctl := if s.ctl.thermal = true then
        { s.ctl with thermal := false, clockMHz := s.ctl.savedMHz } else s.ctl }
    ∧ (∀ x, ((s.cluster x).powered = false → exec (.clusterGate x) s = .next s)
      ∧ ((s.cluster x).powered = true → ¬CanGate s x → exec (.clusterGate x) s = .next { s with outbox := s.outbox ++ [.report 7 x 1] })
      ∧ ((s.cluster x).powered = true → CanGate s x → Reaches (exec (.clusterGate x) s) fun t => t.mem = s.mem ∧ t.outbox = s.outbox
          ∧ (t.cluster x).powered = false ∧ (t.cluster x).tiles = [] ∧ (t.cluster x).units = [] ∧ (t.cluster x).tlb = []
          ∧ ∀ k < 4, (t.core (4 * x + k)).spm = [] ∧ (t.core (4 * x + k)).tlb = [])
      ∧ (((s.cluster x).powered = true ∨ (s.die (x / 8)).powered = false) → exec (.clusterWake x) s = .next s)
      ∧ ((s.cluster x).powered = false → (s.die (x / 8)).powered = true → Reaches (exec (.clusterWake x) s) fun t => t.mem = s.mem
          ∧ (t.cluster x).powered = true ∧ ∀ k < 4, (t.core (4 * x + k)).spm = [] ∧ (t.core (4 * x + k)).l1Banks = 0
            ∧ (t.core (4 * x + k)).spmBanks = 0))
    ∧ ∀ d, let quiet := (∀ k < 8, (s.cluster (8 * d + k)).powered = false) ∧ (∀ e ∈ (s.die d).dir, e.2.holders = [])
        ∧ (∀ f ∈ s.ctl.filter, homeDie s (128 * f.1) = some d → f.2.dir.holders = []) ∧ (s.die d).busy = []
      ((s.die d).online = true → (s.die d).powered = true → quiet → Reaches (exec (.dieGate d) s) fun t =>
        { t with dies := s.dies } = s ∧ t.die d = { s.die d with powered := false })
      ∧ (¬quiet → exec (.dieGate d) s = .next s)
      ∧ ((s.die d).online = true → Reaches (exec (.dieWake d) s) fun t =>
        { t with dies := s.dies } = s ∧ t.die d = { s.die d with powered := true })
      ∧ ((s.die d).online = false → exec (.dieGate d) s = .next s ∧ exec (.dieWake d) s = .next s)

/-- R33, R229, R441 to R448, R453, R456 to R458, R514: a host write to a launch slot is stored, and a seal that
stands at the expected value is captured; a captured record is journaled. SUBMIT takes a number and enters the FIFO
or is counted; the oldest doorbell is journaled, accepted or refused; a semaphore is taken by a read and freed by
its holder. An entry is written to memory as R456 lays it out, JTAIL follows, and an accepted doorbell moves Tail; a
completion word holds the status and the index. A ring that cannot be read stops its queue. A descriptor of an
enabled queue changes only in Enable, and one is enabled only with a good base and size. -/
def Obligations.FrontEndTakesWork : Prop :=
  ∀ (s : State),
    (∀ slot off bytes, let w := AMap.getD s.ctl.lw slot {}
      (8192 < 128 * slot + off + bytes.length → exec (.launchWindowSeal slot off bytes) s = .fault .outsideMap)
      ∧ (slot < 64 → off + bytes.length ≤ 128 → bytes ≠ [] → Memory.wf s.ctl.window = true →
        let pa := windowBase + (128 * slot + off)
        ∀ s1, homeTakeWrites (.host 0) 10 pa bytes (linesOf pa bytes.length) s = .ok s1 →
        Reaches (exec (.launchWindowSeal slot off bytes) s) fun t => t.mem = s.mem
          ∧ Memory.readBytes t.ctl.window (128 * slot + off) bytes.length = bytes
          ∧ (∀ a, a < 128 * slot + off ∨ 128 * slot + off + bytes.length ≤ a → Memory.read t.ctl.window a = Memory.read s.ctl.window a)
          ∧ (w.pending = false → (Memory.read t.ctl.window (128 * slot + 127)).toNat = w.expected →
              AMap.getD t.ctl.lw slot {} = { w with pending := true, captured := Memory.readLE t.ctl.window (128 * slot) 128 }
                ∧ Event.windowRecordAccept slot ∈ t.agenda)
          ∧ ((w.pending = true ∨ (Memory.read t.ctl.window (128 * slot + 127)).toNat ≠ w.expected) → t.ctl.lw = s.ctl.lw))
      ∧ ((w.pending = false ∨ s.ctl.firmwareUp = false) → exec (.windowRecordAccept slot) s = .next s)
      ∧ (w.pending = true → s.ctl.firmwareUp = true → s.ctl.jnext < 2 ^ 20 →
        (∀ p ∈ s.ctl.journal, p.2.type = 16 → p.2.queue = slot → p.2.state ≠ 1 ∧ p.2.state ≠ 2) →
        Reaches (exec (.windowRecordAccept slot) s) fun t => t.mem = s.mem ∧ t.ctl.jnext = s.ctl.jnext + 1
          ∧ Event.journalAccept s.ctl.jnext ∈ t.agenda ∧ ∃ e, AMap.find? t.ctl.journal s.ctl.jnext = some e ∧ e.type = 16 ∧ e.queue = slot
            ∧ e.port = 2 ∧ e.position = slot ∧ e.body = w.captured ∧ e.state = 1 ∧ e.sequence = 0))
    ∧ (∀ p v, let x := s.port p
      Reaches (exec (.submit p v) s) (fun t => t.mem = s.mem ∧ (t.port p).inseq = (x.inseq + 1) % 2 ^ 32
        ∧ (x.fifo.length < 256 → (t.port p).fifo = x.fifo ++ [(x.inseq, v % 2 ^ 64)] ∧ (t.port p).overflow = x.overflow
            ∧ (t.port p).lost = x.lost ∧ Event.doorbellAccept p ∈ t.agenda)
        ∧ (256 ≤ x.fifo.length → (t.port p).fifo = x.fifo ∧ (t.port p).overflow = true ∧ (t.port p).lost = min (x.lost + 1) 65535
            ∧ (t.port p).firstLost = if x.overflow then x.firstLost else x.inseq))
      ∧ Reaches (exec (.instatClear p) s) (fun t => t.mem = s.mem ∧ t.port p = { x with overflow := false, lost := 0 })
      ∧ ((x.fifo = [] ∨ s.ctl.firmwareUp = false) → exec (.doorbellAccept p) s = .next s)
      ∧ (∀ n v rest, x.fifo = (n, v) :: rest → s.ctl.firmwareUp = true → s.ctl.jnext < 2 ^ 20 →
        let q := v % 2 ^ 7
        let tail := v / 2 ^ 8 % 2 ^ 24
        let good := v / 2 ^ 32 % 2 ^ 32 = 0 ∧ v / 2 ^ 7 % 2 = 0 ∧ (s.queue q).enable = true
          ∧ (tail + 2 ^ 24 - (s.queue q).head) % 2 ^ 24 ≤ 2 ^ (s.queue q).size
        Reaches (exec (.doorbellAccept p) s) fun t => t.mem = s.mem ∧ (t.port p).fifo = rest ∧ t.ctl.queues = s.ctl.queues
          ∧ Event.journalAccept s.ctl.jnext ∈ t.agenda ∧ ∃ e, AMap.find? t.ctl.journal s.ctl.jnext = some e ∧ e.type = 17 ∧ e.queue = q
            ∧ e.sequence = n ∧ e.result = tail ∧ e.port = p ∧ (good → e.state = 1) ∧ (¬good → e.state = 4))
      ∧ (∀ k, let c := AMap.getD s.ctl.sems k 0
        Reaches (exec (.semRead p k) s) (fun t => t.mem = s.mem ∧ t.outbox = s.outbox ++ [.semAnswer p k c]
          ∧ AMap.getD t.ctl.sems k 0 = if c = 0 then p + 1 else c)
        ∧ (c = p + 1 → Reaches (exec (.semWrite p k 0) s) fun t => t.mem = s.mem ∧ AMap.getD t.ctl.sems k 0 = 0)
        ∧ ((c ≠ p + 1 ∨ v ≠ 0) → exec (.semWrite p k v) s = .next s)))
    ∧ (∀ j e, AMap.find? s.ctl.journal j = some e → e.accepted = false →
      ((∃ p ∈ s.ctl.journal, p.1 < j ∧ p.2.accepted = false) → exec (.journalAccept j) s = .next s)
      ∧ (s.jready j = false → exec (.journalAccept j) s = .next s)
      ∧ ((∀ p ∈ s.ctl.journal, p.1 < j → p.2.accepted = true) → JournalServed s j → Memory.wf s.mem = true →
        e.state < 256 →
        (e.state = 4 → Reaches (exec (.journalAccept j) s) fun t => MemOutside s t (entryAt s j) 64 ∧ t.ctl.jtail = j
          ∧ Memory.readLE t.mem (entryAt s j) 32 = firstHalf j e ∧ Memory.readLE t.mem (entryAt s j + 32) 32 = secondHalf e 4 e.finalTime
          ∧ t.ctl.queues = s.ctl.queues ∧ (e.completion ≠ none → Event.packetComplete j ∈ t.agenda))
        ∧ (e.state = 1 → e.type = 17 → Reaches (exec (.journalAccept j) s) fun t => MemOutside s t (entryAt s j) 64 ∧ t.ctl.jtail = j
          ∧ Memory.readLE t.mem (entryAt s j) 32 = firstHalf j e ∧ Memory.readLE t.mem (entryAt s j + 32) 32 = secondHalf e 3 s.clock
          ∧ (t.queue e.queue).tail = e.result ∧ (t.queue e.queue).head = (s.queue e.queue).head)
        ∧ (e.state = 1 → e.type = 16 → AMap.has s.ctl.taken j = false → Reaches (exec (.journalAccept j) s) fun t => t.ctl.jtail = j
          ∧ Memory.readLE t.mem (entryAt s j) 32 = firstHalf j e ∧ Memory.readLE t.mem (entryAt s j + 32) 32 = secondHalf e 2 s.clock
          ∧ Event.launchRecordCheck s.nextGrid ∈ t.agenda ∧ ∃ g, AMap.find? t.grids s.nextGrid = some g ∧ g.record = e.body
            ∧ g.packet = some j ∧ g.window = true)))
    ∧ (∀ j e, AMap.find? s.ctl.journal j = some e → e.ended = true → e.state = 2 → e.type = 3 →
      (e.completion = none → e.accepted = true → JournalServed s j → Memory.wf s.mem = true → Reaches (exec (.packetComplete j) s) fun t =>
        MemOutside s t (entryAt s j + 32) 32 ∧ Memory.readLE t.mem (entryAt s j + 32) 32 = secondHalf e 3 s.clock
          ∧ (AMap.find? t.ctl.journal j).map (·.state) = some 3)
      ∧ (∀ a s1 bs, e.completion = some a → s.ctlWrite e.asid a (leBytes 4 e.status ++ leBytes 4 j) = .ok s1 bs →
        AMap.find? s1.ctl.journal j = some e → e.accepted = false → Reaches (exec (.packetComplete j) s) fun t => t.mem = s1.mem
          ∧ (AMap.find? t.ctl.journal j).map (·.state) = some 3))
    ∧ (∀ q va, ((s.queue q).enable = false → exec (.queueRingFault q va) s = .next s)
      ∧ ((s.queue q).enable = true → s.ctl.jnext < 2 ^ 20 → Reaches (exec (.queueRingFault q va) s) fun t => t.mem = s.mem
        ∧ t.queue q = { s.queue q with enable := false } ∧ t.ctl.reports.length = s.ctl.reports.length + 1
        ∧ ∃ e, AMap.find? t.ctl.journal s.ctl.jnext = some e ∧ e.type = 18 ∧ e.state = 4 ∧ e.queue = q ∧ e.result = va
          ∧ e.position = (s.queue q).head ∧ e.completion = none))
    ∧ (∀ e v, Reaches (exec (.eventWrite e v) s) fun t => t.mem = s.mem ∧ AMap.getD t.ctl.events e 0 = v % 2 ^ 64
        ∧ ∀ p ∈ s.ctl.journal, p.2.state = 1 → p.2.accepted = true → (p.2.type = 4 ∨ p.2.type = 9) → Event.journalAccept p.1 ∈ t.agenda)
    ∧ (∀ q v, (∀ off n, 32 < off + n → exec (.queueDescriptorWrite q off n v) s = .next s
          ∧ exec (.workQueueDescriptorWrite q off n v) s = .next s)
      ∧ ((s.queue q).enable = true → Reaches (exec (.queueDescriptorWrite q 0 32 v) s) fun t => t.mem = s.mem
          ∧ t.queue q = { s.queue q with enable := bitN v 0 })
      ∧ ((s.queue q).enable = false →
        let good := v / 2 ^ 200 % 2 ^ 56 % 64 = 0 ∧ 4 ≤ v / 2 ^ 179 % 2 ^ 5 ∧ v / 2 ^ 179 % 2 ^ 5 ≤ 20
        Reaches (exec (.queueDescriptorWrite q 0 32 v) s) fun t => t.mem = s.mem
          ∧ t.queue q = { s.queue q with
              base := v / 2 ^ 200 % 2 ^ 56
              asid := v / 2 ^ 184 % 2 ^ 16
              size := v / 2 ^ 179 % 2 ^ 5
              enable := (t.queue q).enable }
          ∧ ((t.queue q).enable = true ↔ bitN v 0 = true ∧ good) ∧ ((t.queue q).enable = true → Event.packet 0 q ∈ t.agenda))
      ∧ ((s.wq q).enable = true → bitN v 0 = true → Reaches (exec (.workQueueDescriptorWrite q 0 32 v) s) fun t => t.mem = s.mem
          ∧ t.wq q = s.wq q)
      ∧ ((s.wq q).enable = true → bitN v 0 = false → (s.wq q).sleepers = [] →
        Reaches (exec (.workQueueDescriptorWrite q 0 32 v) s) fun t => t.mem = s.mem ∧ t.wq q = { s.wq q with enable := false })
      ∧ ((s.wq q).enable = false →
        let good := v / 2 ^ 200 % 2 ^ 56 % 64 = 0 ∧ 4 ≤ v / 2 ^ 179 % 2 ^ 5 ∧ v / 2 ^ 179 % 2 ^ 5 ≤ 20 ∧ v / 2 ^ 176 % 2 ^ 3 ≤ 4
        Reaches (exec (.workQueueDescriptorWrite q 0 32 v) s) fun t => t.mem = s.mem
          ∧ t.wq q = { s.wq q with
              base := v / 2 ^ 200 % 2 ^ 56
              asid := v / 2 ^ 184 % 2 ^ 16
              size := v / 2 ^ 179 % 2 ^ 5
              record := v / 2 ^ 176 % 2 ^ 3
              head := v / 2 ^ 128 % 2 ^ 32
              tail := v / 2 ^ 96 % 2 ^ 32
              refused := v / 2 ^ 64 % 2 ^ 32
              enable := (t.wq q).enable }
          ∧ ((t.wq q).enable = true ↔ bitN v 0 = true ∧ good)))

/-- R449 to R455, R457, R458, R514: the head packet of a queue that serves is decoded by the pass of its type; it is
refused with the status of its first failing check, or journaled with its operands, and discarded in an arm that is;
a ring that cannot be read stops the queue. An entry that memory has accepted then acts: CANCEL cancels the grid of
its LAUNCH, OWN and INVAL start their flips and invalidations, WAIT and a dependence wait for their event, SIGNAL
adds 1 to its event and FENCE ends, both behind the earlier packets, COPY starts its copy, FEED appends, LAUNCH
brings its grid and PRED says which arm is discarded. Behind a packet that waits, only lines of code and constants are
copied to the cores. -/
def Obligations.PacketsAreServed : Prop :=
  ∀ (s : State) (q : Nat),
    (∀ ev k, (ev, k) ∈ [(Instr.cancelPacket q, 1), (.ownPacket q, 2), (.invalPacket q, 3), (.waitPacket q, 4), (.signalPacket q, 5),
        (.fencePacket q, 6), (.copyPacket q, 7), (.feedPacket q, 8), (.launchPacket q, 9), (.predPacket q, 10)] →
      ((s.ctl.firmwareUp = false ∨ (s.queue q).enable = false) → exec ev s = .next s)
      ∧ (((s.queue q).head = (s.queue q).tail ∨ ∃ p ∈ s.ctl.journal, p.2.queue = q ∧ p.2.type < 16 ∧ p.2.state = 1) →
        (Reaches (exec ev s) (AheadOnly s))
        ∧ ((∀ p ∈ s.ctl.journal, p.2.queue = q → p.2.type ∈ [4, 9, 10] → p.2.state ≠ 1) → exec ev s = .next s))
      ∧ (Serves s q → (∀ s1, s.ctlRead (s.queue q).asid (headAddress s q) 64 = .wait s1 → exec ev s = .next s1)
        ∧ (∀ s1 c n a, s.ctlRead (s.queue q).asid (headAddress s q) 64 = .fault s1 c n a → s1.ctl = s.ctl →
          Reaches (exec ev s) fun t => t.mem = s1.mem ∧ t.queue q = { s.queue q with enable := false })
        ∧ ∀ s1 bs, s.ctlRead (s.queue q).asid (headAddress s q) 64 = .ok s1 bs → bs.length = 64 →
          let b := leValue bs
          (pkt b 0 1 ≠ k → exec ev s = .next s)
          ∧ (pkt b 0 1 = k →
            (∀ x, (s.queue q).skipTo = [x] → ((s.queue q).head + 2 ^ 24 - x.1) % 2 ^ 24 < x.2 → k ≠ 10 →
              Reaches (exec ev s) fun t => Journaled s1 t q b 6 0 [])
            ∧ ((s.queue q).skipTo = [] →
              (¬zerosHold b → Reaches (exec ev s) fun t => Journaled s1 t q b 4 0x202 [])
              ∧ (zerosHold b → ¬rangesHold s1 b → Reaches (exec ev s) fun t => Journaled s1 t q b 4 0x203 [])
              ∧ (zerosHold b → rangesHold s1 b →
                (k ≤ 6 → Reaches (exec ev s) fun t => Journaled s1 t q b 1 0 [])
                ∧ (k = 7 → ((s1.die (pkt b 42 1)).online = true → Reaches (exec ev s) fun t => Journaled s1 t q b 1 0 [])
                  ∧ ((s1.die (pkt b 42 1)).online = false → Reaches (exec ev s) fun t => Journaled s1 t q b 4 0x205 []))
                ∧ (∀ a va n, (k = 8 ∧ a = (s.queue q).asid ∧ va = pkt b 16 8
                      ∧ n = pkt b 24 4 * (16 * 2 ^ (s1.wq (pkt b 28 1)).record)
                    ∨ k = 9 ∧ a = pkt b 24 2 ∧ va = pkt b 16 8 ∧ n = 128) →
                  (∀ s2 xs, s1.ctlRead a va n = .ok s2 xs → Reaches (exec ev s) fun t => Journaled s2 t q b 1 0 xs)
                  ∧ (∀ s2 c y z, s1.ctlRead a va n = .fault s2 c y z → Reaches (exec ev s) fun t => Journaled s2 t q b 4 0x204 [])
                  ∧ (∀ s2, s1.ctlRead a va n = .wait s2 → exec ev s = .next s2))
                ∧ (k = 10 → let far := ((s.queue q).tail + 2 ^ 24 - (s.queue q).head) % 2 ^ 24
                  (far < 1 + pkt b 27 1 + pkt b 28 1 → Reaches (exec ev s) (AheadOnly s))
                  ∧ (1 + pkt b 27 1 + pkt b 28 1 ≤ far → Reaches (exec ev s) fun t => Journaled s1 t q b 1 0 [])))))))
    ∧ ∀ j e, AMap.find? s.ctl.journal j = some e → e.accepted = true → e.state = 1 → e.owed = false →
      AMap.has s.ctl.taken j = false → Memory.wf s.mem = true →
      let b := e.body
      let done := ∀ p ∈ s.ctl.journal, p.2.queue = e.queue → p.2.type < 16 → p.1 < j → 3 ≤ p.2.state
      (e.type = 1 → Reaches (exec (.journalAccept j) s) fun t => t.mem = s.mem ∧ Ended s t j 0
        ∧ (∀ x g y, AMap.find? s.ctl.journal (pkt b 16 8) = some x → x.type = 9 → s.grids = [(g, y)] → y.packet = some (pkt b 16 8) →
            Event.gridCancel g ∈ t.agenda)
        ∧ (∀ x, AMap.find? s.ctl.journal (pkt b 16 8) = some x → x.type = 9 → s.grids = [] → x.state = 1 →
            (AMap.find? t.ctl.journal (pkt b 16 8)).map (·.cancel) = some true))
      ∧ ((e.type = 2 ∨ e.type = 3) → pkt b 24 8 = 0 → Reaches (exec (.journalAccept j) s) fun t => t.mem = s.mem ∧ Ended s t j 0)
      ∧ (e.type = 2 → pkt b 24 8 ≠ 0 → pkt b 16 8 + pkt b 24 8 ≤ 2 ^ 56 - 4096 → 16 ≤ s.ctl.flips.length → exec (.journalAccept j) s = .next s)
      ∧ (e.type = 2 → pkt b 16 8 + pkt b 24 8 ≤ 2 ^ 56 - 4096 → pkt b 24 8 ≠ 0 → s.ctl.flips = [] → Reaches (exec (.journalAccept j) s) fun t =>
        (AMap.find? t.ctl.journal j).map (fun (x : JEntry) => decide (2 ≤ x.state)) = some true
          ∧ ((∃ f, AMap.find? t.ctl.flips s.nextOp = some f ∧ f.asid = pkt b 32 2 ∧ f.packet = some j
                ∧ f.base = pkt b 16 8 / 4096 * 4096 ∧ f.base + f.len = (pkt b 16 8 + pkt b 24 8 + 4095) / 4096 * 4096)
              ∨ ∃ st, Ended t t j st))
      ∧ (e.type = 3 → pkt b 24 8 ≠ 0 → s.ctl.invals.length < 64 → pkt b 16 8 + pkt b 24 8 ≤ 2 ^ 56 - 4096 → JournalServed s j →
        Reaches (exec (.journalAccept j) s) fun t => HandedOff s t j e ∧ ∃ v, AMap.find? t.ctl.invals s.nextOp = some v
          ∧ v.asid = pkt b 32 2 ∧ v.packet = some j ∧ v.base = pkt b 16 8 / 4096 * 4096
          ∧ v.base + v.len = (pkt b 16 8 + pkt b 24 8 + 4095) / 4096 * 4096 ∧ (v.all = true ↔ pkt b 34 1 % 2 = 1))
      ∧ (e.type = 4 → (AMap.getD s.ctl.events (pkt b 16 2) 0 < pkt b 24 8 → Reaches (exec (.journalAccept j) s) (AheadOnly s))
        ∧ (pkt b 24 8 ≤ AMap.getD s.ctl.events (pkt b 16 2) 0 → Reaches (exec (.journalAccept j) s) fun t => t.mem = s.mem ∧ Ended s t j 0))
      ∧ ((e.type = 5 ∨ e.type = 6) → ¬done → exec (.journalAccept j) s = .next s)
      ∧ (done → (e.type = 5 → Reaches (exec (.journalAccept j) s) fun t => t.mem = s.mem ∧ Ended s t j 0
          ∧ AMap.getD t.ctl.events (pkt b 16 2) 0 = (AMap.getD s.ctl.events (pkt b 16 2) 0 + 1) % 2 ^ 64)
        ∧ (e.type = 6 → Reaches (exec (.journalAccept j) s) fun t => t.mem = s.mem ∧ t.ctl.events = s.ctl.events ∧ Ended s t j 0))
      ∧ (e.type = 7 → JournalServed s j → Reaches (exec (.journalAccept j) s) fun t => HandedOff s t j e ∧ Event.commandStart s.nextCommand ∈ t.agenda
        ∧ ∃ c, AMap.find? t.commands s.nextCommand = some c ∧ c.body = .cpyl (pkt b 16 8) (pkt b 24 8) .glob .glob (pkt b 32 8)
          ∧ c.asid = pkt b 40 2 ∧ c.super = true ∧ c.engine = 256 + 8 * pkt b 42 1 ∧ c.packet = some j)
      ∧ (e.type = 8 → e.stepsDone = 0 → let w := s.wq (pkt b 28 1)
        ((2 ^ w.size < (w.tail + 2 ^ 32 - w.head) % 2 ^ 32 + pkt b 24 4 → exec (.journalAccept j) s = .next s)
        ∧ (∀ s1 bs, pkt b 24 4 = 1 → (w.tail + 2 ^ 32 - w.head) % 2 ^ 32 + 1 ≤ 2 ^ w.size → w.sleepers = [] →
          s.ctlWrite w.asid (w.base + w.tail % 2 ^ w.size * (16 * 2 ^ w.record)) (e.extra.take (16 * 2 ^ w.record)) = .ok s1 bs →
          s1.ctl = s.ctl → Reaches (exec (.journalAccept j) s) fun t => t.mem = s1.mem
            ∧ (t.wq (pkt b 28 1)).tail = (w.tail + 1) % 2 ^ 32 ∧ (t.wq (pkt b 28 1)).head = w.head
            ∧ Ended s t j 0)))
      ∧ (e.type = 9 → (pkt b 26 1 = 1 → AMap.getD s.ctl.events (pkt b 32 2) 0 < pkt b 40 8 → Reaches (exec (.journalAccept j) s) (AheadOnly s))
        ∧ ((pkt b 26 1 ≠ 1 ∨ pkt b 40 8 ≤ AMap.getD s.ctl.events (pkt b 32 2) 0) → JournalServed s j → Reaches (exec (.journalAccept j) s) fun t =>
          HandedOff s t j e ∧ Event.launchRecordCheck s.nextGrid ∈ t.agenda ∧ ∃ g, AMap.find? t.grids s.nextGrid = some g
            ∧ g.record = leValue e.extra ∧ g.packet = some j ∧ g.cancel = e.cancel))
      ∧ (e.type = 10 → (¬done → Reaches (exec (.journalAccept j) s) (AheadOnly s))
        ∧ (∀ s1 bs, done → (s.queue e.queue).skipTo = [] → s.ctlRead (pkt b 24 2) (pkt b 16 8) 8 = .ok s1 bs → s1.ctl = s.ctl →
          let first := (e.position + 1) % 2 ^ 24
          let r := predTrue (pkt b 26 1) (leValue bs &&& pkt b 32 8) (pkt b 40 8)
          pkt b 27 1 ≠ 0 → pkt b 28 1 ≠ 0 → pkt b 26 1 ≤ 5 → Reaches (exec (.journalAccept j) s) fun t => t.mem = s1.mem ∧ Ended s t j 0
            ∧ (t.queue e.queue).skipTo = if r then [((first + pkt b 27 1) % 2 ^ 24, pkt b 28 1)] else [(first, pkt b 27 1)]))

/-- R30, R31, R453, R463 to R466, R477, R484 to R486, R488, R489: a stream write that is malformed, stale or
repeated is counted, as is one too far ahead; one that is ahead is held, and the one expected is performed and E
advances; a resync sets E; a gap that outlasts Gap sets Stalled. A register write reaches the register at its offset
and no other state; an offset with no register counts in UNCLM. The PC sampler writes the state of the next occupied
slot, LOSS is written once its SYNCs fit, and the deadlock scan reports a stalled holder that waits for nobody, but not one that waits for a piece of its team. -/
def Obligations.StreamsRegistersAndDebug : Prop :=
  ∀ (s : State),
    (∀ k port whole w, let x := s.stream k
      ((¬StreamTakes x whole w ∨ 2 ^ 31 ≤ streamAhead x w ∨ (streamAhead x w < 64 ∧ AMap.has x.held (streamAhead x w) = true)) →
        Reaches (exec (.streamWrite k whole ⟨port, w⟩) s) fun t => OnlyStream s t k { x with discarded := oneMore x.discarded })
      ∧ (StreamTakes x whole w → 64 ≤ streamAhead x w → streamAhead x w < 2 ^ 31 →
        Reaches (exec (.streamWrite k whole ⟨port, w⟩) s) fun t => OnlyStream s t k { x with refused := oneMore x.refused })
      ∧ (StreamTakes x whole w → 1 ≤ streamAhead x w → streamAhead x w < 64 → x.held = [] →
        Reaches (exec (.streamWrite k whole ⟨port, w⟩) s) fun t => OnlyStream s t k
          { x with held := [(streamAhead x w, port, w % 2 ^ 512)], gapSince := some (x.gapSince.getD s.clock) })
      ∧ (∀ pa n, StreamTakes x whole w → streamAhead x w = 0 → x.held = [] → pa = x.target + offsetOf w → n = 8 * countOf w →
        s.ctl.flips = [] → s.ctl.bias = [] → NoInjector s → Memory.wf s.mem = true →
        (∀ l ∈ linesOf pa n, HomeServes s l) → Reaches (exec (.streamWrite k whole ⟨port, w⟩) s) fun t => (t.stream k).expected = (x.expected + 1) % 2 ^ 32 ∧ (t.stream k).held = []
          ∧ (t.stream k).discarded = min x.discarded 0xFFFFFFFF ∧ Memory.readLE t.mem pa n = w / 2 ^ 64 % 2 ^ (8 * n) ∧ MemOutside s t pa n)
      ∧ (x.enable = false → Reaches (exec (.streamResync k w) s) fun t => OnlyStream s t k { x with expected := w % 2 ^ 32 })
      ∧ (x.enable = true → x.held = [] → Reaches (exec (.streamResync k w) s) fun t => OnlyStream s t k
          { x with expected := w % 2 ^ 32, stalled := false, gapSince := none, discarded := min x.discarded 0xFFFFFFFF })
      ∧ (x.gapSince = none → exec (.streamGapTimeout k) s = .next s)
      ∧ ∀ c, x.gapSince = some c → let gap := if x.gap = 0 then 2 ^ 20 else x.gap
          ((s.clock < c + gap → exec (.streamGapTimeout k) s = .next s)
            ∧ (c + gap ≤ s.clock → Reaches (exec (.streamGapTimeout k) s) fun t => OnlyStream s t k { x with stalled := true })))
    ∧ (∀ off n v, (9 * 2 ^ 30 ≤ off ∧ off < 2 ^ 35 ∨ 2 ^ 36 ≤ off → exec (.registerWrite off n v) s = .fault .outsideMap)
      ∧ (off < 9 * 2 ^ 30 → ((n ≠ 4 ∧ n ≠ 8) ∨ off % n ≠ 0) → Reaches (exec (.registerWrite off n v) s) fun t =>
        { t with dies := s.dies } = s ∧ (t.die (off / 2 ^ 30)).unclm = oneMore (s.die (off / 2 ^ 30)).unclm))
    ∧ (∀ d v b, (Reaches (exec (.unclaimedAccess d b) s) fun t => { t with dies := s.dies } = s
          ∧ t.die d = { s.die d with unclm := oneMore (s.die d).unclm })
      ∧ (d ≤ 8 → (Reaches (exec (.registerWrite (d * 2 ^ 30) 4 v) s) fun t =>
            { t with dies := s.dies } = s ∧ t.die d = { s.die d with unclm := oneMore (s.die d).unclm })
        ∧ (Reaches (exec (.registerWrite (d * 2 ^ 30 + 0x100) 4 v) s) fun t =>
            { t with dies := s.dies } = s ∧ t.die d = { s.die d with unclm := 0 })
        ∧ Reaches (exec (.registerWrite (d * 2 ^ 30 + 0x2100_0010) 4 v) s) fun t => { t with dies := s.dies } = s
            ∧ t.die d = { s.die d with eictl := v / 2 ^ 31 % 2 * 2 ^ 31 + v % 256 })
      ∧ ∀ k, d < 8 → k < 32 → let a := d * 2 ^ 30 + 0x2000_0000 + k * 0x1_0000
        let c := s.core (32 * d + k)
        (c.dbg.psper < 2 ^ 32 → Reaches (exec (.registerWrite (a + 0x54) 4 v) s) fun t => { t with cores := s.cores } = s
            ∧ t.core (32 * d + k) = { c with dbg := { c.dbg with psper := v % 2 ^ 32 } })
        ∧ (Reaches (exec (.registerWrite (a + 0xB0) 8 v) s) fun t => { t with cores := s.cores } = s
            ∧ t.core (32 * d + k) = { c with tbase := v % 2 ^ 64 / 8 * 8 })
        ∧ exec (.registerWrite (a + 0x100) 4 v) s = .next s)
    ∧ (∀ e v, e < 4096 → Reaches (exec (.registerWrite (8 * 2 ^ 30 + 0x0400_9000 + 8 * e) 8 v) s) fun t => t.mem = s.mem
        ∧ AMap.getD t.ctl.events e 0 = v % 2 ^ 64)
    ∧ (∀ g k, AMap.sorted (s.core g).dbg.pf = true → Reaches (exec (.prefetchCounterClear g k) s) fun t => { t with cores := s.cores } = s
        ∧ AMap.getD (t.core g).dbg.pf k 0 = 0 ∧ ∀ j, j ≠ k → AMap.getD (t.core g).dbg.pf j 0 = AMap.getD (s.core g).dbg.pf j 0)
    ∧ (∀ g, let c := s.core g
      let r := AMap.getD c.dbg.rings 2 {}
      let per := if 64 ≤ c.dbg.psper ∧ c.dbg.psper ≤ 2 ^ 24 then c.dbg.psper else 4096
      ((bitN c.dbg.dbgctl 2 = false ∨ s.clock % per ≠ 0 ∨ (c.slots = [] ∧ c.dbg.exited = [])) → exec (.pcSample g) s = .next s)
      ∧ (∀ q h, bitN c.dbg.dbgctl 2 = true → s.clock % per = 0 → c.slots = [(q, h)] → q < 32 → c.dbg.exited = [] → h.status = .ready → h.fetching = false →
        q ∈ c.active → (g, q) ∉ s.issue → RingRoom s r 16 → Memory.wf s.mem = true →
        Reaches (exec (.pcSample g) s) fun t => MemOutside s t (r.base + r.head % r.size) 16
          ∧ Memory.readLE t.mem (r.base + r.head % r.size) 16
              = s.clock % 2 ^ 48 * 2 ^ 80 + q * 2 ^ 75 + 1 * 2 ^ 64 + h.pc % 2 ^ 56
          ∧ (AMap.getD (t.core g).dbg.rings 2 {}).head = r.head + 16 ∧ (t.core g).slots = c.slots)
      ∧ ((c.dbg.dropped = 0 ∨ 1020 < c.dbg.fifo.length) → exec (.traceLoss g) s = .next s)
      ∧ (c.dbg.dropped ≠ 0 → c.dbg.dropped < 65536 → let loss := c.dbg.fifo ++ [0xE0#8, BitVec.ofNat 8 (min (s.clock - c.dbg.lastPacket) 255),
            BitVec.ofNat 8 c.dbg.dropped, BitVec.ofNat 8 (c.dbg.dropped / 256)]
        ((c.slots = [] → c.dbg.fifo.length ≤ 1020 → Reaches (exec (.traceLoss g) s) fun t => { t with cores := s.cores } = s
          ∧ (t.core g).dbg.fifo = loss ∧ (t.core g).dbg.dropped = 0)
        ∧ (∀ q h, c.slots = [(q, h)] → bitN c.dbg.dbgctl (32 + q) = true → h.kind ≠ .range → c.dbg.fifo.length ≤ 992 →
          Reaches (exec (.traceLoss g) s) fun t => { t with cores := s.cores } = s ∧ (t.core g).dbg.dropped = 0
            ∧ (t.core g).dbg.fifo = loss ++ ([BitVec.ofNat 8 (32 + q), 0#8] ++ leBytes 6 s.clock ++ leBytes 7 h.pc
                ++ leBytes 1 (h.stack.length + h.spilled.length) ++ leBytes 12 h.mask.toNat)))))
    ∧ (s.clock % 2 ^ 24 ≠ 0 → exec .deadlockScan s = .next s)
    ∧ (s.clock % 2 ^ 24 = 0 → s.cores = [] → Reaches (exec .deadlockScan s) fun t => t = { s with ctl := { s.ctl with dlSeen := [] } })
    ∧ (∀ g c q h o p x, s.clock % 2 ^ 24 = 0 → s.cores = [(g, c)] → c.slots = [(q, h)] → h.status = .blocked (.barrier o p) →
        x ∈ c.pieces → x.holder.status = .ready → x.holder.grid = h.grid → x.holder.teamOf (s.tsize h) = h.teamOf (s.tsize h) →
        Reaches (exec .deadlockScan s) fun t => t.mem = s.mem ∧ t.ctl.dl = s.ctl.dl ∧ t.ctl.dlCycle = s.ctl.dlCycle ∧ t.cores = s.cores)
    ∧ ∀ g c q h o p, s.clock % 2 ^ 24 = 0 → s.cores = [(g, c)] → g < 256 → q < 32 → c.slots = [(q, h)] → h.status = .blocked (.barrier o p) →
        c.pieces = [] →
        AMap.find? s.ctl.dlSeen (32 * g + q) = some (s.issueCount g q) → RingRoom s s.ctl.dl 32 → Memory.wf s.mem = true →
        let a := s.ctl.dl.base + s.ctl.dl.head % s.ctl.dl.size
        Reaches (exec .deadlockScan s) fun t => MemOutside s t a 32 ∧ t.ctl.dl.head = s.ctl.dl.head + 32
          ∧ t.ctl.dlCycle = (s.ctl.dlCycle + 1) % 2 ^ 32
          ∧ Memory.readLE t.mem a 20 = s.ctl.dlCycle % 2 ^ 32 + Config.pkgId % 2 ^ 16 * 2 ^ 64 + g * 2 ^ 80 + q * 2 ^ 88 + h.pc % 2 ^ 64 * 2 ^ 96
end

