-- ==== Sys2Proof/Laws/Encoding.lean ====
section
/-! SUPPORT. The fields of a word read back from the word, and the words of each format decoded. -/

set_option Elab.async false

namespace Sys2Proof

open Sys2Proof.Machine (field leBytes leValue)

/-! ## Codes -/

@[simp] theorem Ty.ofCode_code (t : Ty) : Ty.ofCode t.code = some t := by cases t <;> rfl
@[simp] theorem Cond.ofCode_code (c : Cond) : Cond.ofCode c.code = some c := by cases c <;> rfl
@[simp] theorem Space.ofCode_code (c : Space) : Space.ofCode c.code = some c := by cases c <;> rfl
@[simp] theorem Scope.ofCode_code (c : Scope) : Scope.ofCode c.code = some c := by cases c <;> rfl
@[simp] theorem Order.ofCode_code (c : Order) : Order.ofCode c.code = c := by cases c <;> rfl
@[simp] theorem Elem.ofCode_code (c : Elem) : Elem.ofCode c.code = some c := by cases c <;> rfl
@[simp] theorem OffKind.ofCode_code (c : OffKind) : OffKind.ofCode c.code = c := by cases c <;> rfl
@[simp] theorem RedOp.ofCode_code (c : RedOp) : RedOp.ofCode c.code = some c := by cases c <;> rfl
@[simp] theorem RMode.ofCode_code (c : RMode) : RMode.ofCode c.code = c := by cases c <;> rfl

theorem Ty.code_lt (t : Ty) : t.code < 32 := by cases t <;> decide
theorem Cond.code_lt (c : Cond) : c.code < 8 := by cases c <;> decide
theorem Space.code_lt (c : Space) : c.code < 4 := by cases c <;> decide
theorem Scope.code_lt (c : Scope) : c.code < 8 := by cases c <;> decide
theorem Order.code_lt (c : Order) : c.code < 4 := by cases c <;> decide
theorem Elem.code_lt (c : Elem) : c.code < 16 := by cases c <;> decide
theorem OffKind.code_lt (c : OffKind) : c.code < 4 := by cases c <;> decide
theorem RedOp.code_lt (c : RedOp) : c.code < 8 := by cases c <;> decide
theorem RMode.code_lt (c : RMode) : c.code < 4 := by cases c <;> decide
theorem bitOf_lt (b : Bool) : bitOf b < 2 := by cases b <;> decide
theorem Guard.negBit_lt (g : Guard) : g.negBit < 2 := by unfold Guard.negBit; split <;> decide

@[simp] theorem bitOf_eq_one (b : Bool) : (bitOf b == 1) = b := by cases b <;> rfl
@[simp] theorem bitOf_eq_one_iff (b : Bool) : (bitOf b = 1) ↔ b = true := by cases b <;> decide
@[simp] theorem Guard.negBit_eq (g : Guard) : (g.negBit == 1) = g.neg := by
  obtain ⟨n, p⟩ := g; cases n <;> rfl

/-! ## Words -/

/-- The bounds of the fields of a word (R271). -/
def RawWord.fits (r : RawWord) : Prop :=
  r.major < 256 ∧ r.neg < 2 ∧ r.pred < 32 ∧ r.la < 16 ∧ r.d < 256 ∧ r.a < 256 ∧ r.b < 256 ∧ r.c < 256 ∧ r.fn < 16384

theorem RawWord.ofNat_toNat (r : RawWord) (h : r.fits) : RawWord.ofNat r.toNat = r := by
  obtain ⟨ma, ne, pr, la, d, a, b, c, fn⟩ := r
  simp only [RawWord.fits] at h
  simp only [RawWord.ofNat, RawWord.toNat, field, RawWord.mk.injEq]
  refine ⟨?_, ?_, ?_, ?_, ?_, ?_, ?_, ?_, ?_⟩ <;> omega

theorem RawWord.toNat_lt (r : RawWord) (h : r.fits) : r.toNat < 2 ^ 64 := by
  obtain ⟨ma, ne, pr, la, d, a, b, c, fn⟩ := r
  simp only [RawWord.fits] at h
  simp only [RawWord.toNat]
  omega

theorem leValue_leBytes (n v : Nat) : leValue (leBytes n v) = v % 256 ^ n := by
  induction n generalizing v with
  | zero => simp [leBytes, leValue, Nat.mod_one]
  | succ n ih =>
    simp only [leBytes, leValue, ih, BitVec.toNat_ofNat]
    have e : 256 ^ (n + 1) = 256 * 256 ^ n := Nat.pow_succ'
    rw [e, Nat.mod_mul]
    omega

@[simp] theorem leBytes_length (n v : Nat) : (leBytes n v).length = n := by
  induction n generalizing v with
  | zero => rfl
  | succ n ih => simp [leBytes, ih]

/-- One word decodes from its bytes. -/
theorem decodeBytes_one (w : Nat) (i : Instr) (rest : List Byte) (lt : w < 2 ^ 64) (nt : hasTail w = false)
    (d : decode w 0 = .ok i) : decodeBytes (leBytes 8 w ++ rest) = .ok (i, rest) := by
  have e : leValue ((leBytes 8 w ++ rest).take 8) = w := by
    rw [List.take_append_of_le_length (by simp), List.take_of_length_le (by simp), leValue_leBytes]
    exact Nat.mod_eq_of_lt lt
  have r : (leBytes 8 w ++ rest).drop 8 = rest := by
    rw [List.drop_append_of_le_length (by simp), List.drop_of_length_le (by simp)]; rfl
  simp only [decodeBytes, e, nt, d, r]; rfl

/-- A head and a tail decode from their bytes. -/
theorem decodeBytes_two (w t : Nat) (i : Instr) (rest : List Byte) (lt : w < 2 ^ 64) (lt' : t < 2 ^ 64)
    (ht : hasTail w = true) (d : decode w t = .ok i) :
    decodeBytes (leBytes 8 w ++ (leBytes 8 t ++ rest)) = .ok (i, rest) := by
  have e : leValue ((leBytes 8 w ++ (leBytes 8 t ++ rest)).take 8) = w := by
    rw [List.take_append_of_le_length (by simp), List.take_of_length_le (by simp), leValue_leBytes]
    exact Nat.mod_eq_of_lt lt
  have r : (leBytes 8 w ++ (leBytes 8 t ++ rest)).drop 8 = leBytes 8 t ++ rest := by
    rw [List.drop_append_of_le_length (by simp), List.drop_of_length_le (by simp)]; rfl
  have e' : leValue (((leBytes 8 w ++ (leBytes 8 t ++ rest)).drop 8).take 8) = t := by
    rw [r, List.take_append_of_le_length (by simp), List.take_of_length_le (by simp), leValue_leBytes]
    exact Nat.mod_eq_of_lt lt'
  have r' : (leBytes 8 w ++ (leBytes 8 t ++ rest)).drop 16 = rest := by
    rw [show (16 : Nat) = 8 + 8 from rfl, ← List.drop_drop, r, List.drop_append_of_le_length (by simp),
      List.drop_of_length_le (by simp)]; rfl
  simp only [decodeBytes, e, ht, e', d, r']; rfl

/-! ## Decoding a word of given fields -/

/-- The term of a word's fields. -/
def decodeFields (r : RawWord) (w t : Nat) : Decoded :=
  if r.major = 0x01 then (if w % 2 ^ 56 = 0 then .ok .nop else .error .reservedField)
  else if 0x02 ≤ r.major ∧ r.major ≤ 0x07 then
    if !r.noGuard then .error .guardField
    else if r.la ≠ 0 then .error .lookaheadField
    else if r.major = 0x07 ∧ r.minor = 2 then
      withCode (Cond.ofCode (field r.fn 0 4)) fun c => decodeS r fun o => .ok (.scmp c o)
    else match sRow r.major r.minor with
      | some f => decodeS r fun o => ifZero [field r.fn 0 4] (f o)
      | none => .error .unassignedMinor
  else if 0x10 ≤ r.major ∧ r.major ≤ 0x14 then
    if !r.noGuard then .error .guardField
    else if r.la ≠ 0 then .error .lookaheadField
    else if r.major = 0x14 then
      withCode (Cond.ofCode (field r.fn 0 4)) fun c =>
        ifZero [field r.fn 5 1] (.scmpImm c (field r.fn 4 1 == 1) ⟨r.d, r.a, r.imm24⟩)
    else match siRow r.major (field r.fn 0 6) with
      | some f => .ok (f ⟨r.d, r.a, r.imm24⟩)
      | none => .error .unassignedMinor
  else if (0x20 ≤ r.major ∧ r.major ≤ 0x26) ∨ (0xF0 ≤ r.major ∧ r.major ≤ 0xF2) then
    if r.la ≠ 0 then .error .lookaheadField
    else if r.major ≠ 0x25 ∧ !r.noGuard then .error .guardField
    else decodeCtl r t
  else if 0x40 ≤ r.major ∧ r.major ≤ 0x9F then
    if r.la ≠ 0 then .error .lookaheadField
    else match v3Row r.major r.minor with
      | some f => decodeV3 r fun o => .ok (f o)
      | none => match viRow r.major r.minor with
        | some f => decodeVI r t fun o => .ok (f o)
        | none => decodeVSpecial r
  else if 0xA0 ≤ r.major ∧ r.major ≤ 0xC6 then
    match mRow r.major with
    | some f => decodeM r fun o => .ok (f o)
    | none => decodeSync r
  else decodeX r t

theorem decodeRaw_eq (w t : Nat) : decodeRaw w t = decodeFields (RawWord.ofNat w) w t := rfl

/-- Whether a head of given fields has a tail. -/
def tailOf (r : RawWord) : Bool :=
  if 0xD0 ≤ r.major ∧ r.major ≤ 0xE6 then true
  else if r.major = 0x25 ∨ r.major = 0x26 ∨ (0x60 ≤ r.major ∧ r.major ≤ 0x63) ∨ r.major = 0x68 ∨ r.major = 0x74 then
    field r.fn 3 1 == 1
  else false

theorem hasTail_eq (w : Nat) : hasTail w = tailOf (RawWord.ofNat w) := rfl

theorem decode_of_raw (w t : Nat) (i : Instr) (d : decodeRaw w t = .ok i) (wf : wellFormed i = true) :
    decode w t = .ok i := by
  unfold decode; rw [d]; simp [wf]

/-- One word of fields `r` reads back as `i`. -/
theorem oneWord (r : RawWord) (i : Instr) (rest : List Byte) (fit : r.fits) (nt : tailOf r = false)
    (wf : wellFormed i = true) (d : decodeFields r r.toNat 0 = .ok i) :
    decodeBytes (leBytes 8 r.toNat ++ rest) = .ok (i, rest) := by
  refine decodeBytes_one _ _ _ (r.toNat_lt fit) ?_ ?_
  · rw [hasTail_eq, r.ofNat_toNat fit, nt]
  · exact decode_of_raw _ _ _ (by rw [decodeRaw_eq, r.ofNat_toNat fit]; exact d) wf

/-- A head of fields `r` with its tail reads back as `i`. -/
theorem twoWords (r : RawWord) (t : Nat) (i : Instr) (rest : List Byte) (fit : r.fits) (lt : t < 2 ^ 64)
    (ht : tailOf r = true) (wf : wellFormed i = true) (d : decodeFields r r.toNat t = .ok i) :
    decodeBytes (leBytes 8 r.toNat ++ (leBytes 8 t ++ rest)) = .ok (i, rest) := by
  refine decodeBytes_two _ _ _ _ (r.toNat_lt fit) lt ?_ ?_
  · rw [hasTail_eq, r.ofNat_toNat fit, ht]
  · exact decode_of_raw _ _ _ (by rw [decodeRaw_eq, r.ofNat_toNat fit]; exact d) wf

/-! ## The formats -/

theorem SOp.ok_bounds {o : SOp} {tys : List Ty} {ub uc : Bool} (h : o.ok tys ub uc = true) :
    o.d < 64 ∧ o.a < 64 ∧ o.b < 64 ∧ o.c < 64 := by
  simp [SOp.ok, scalarOk] at h; omega

theorem SIOp.ok_bounds {o : SIOp} (h : o.ok = true) : o.d < 64 ∧ o.a < 64 ∧ o.imm < 2 ^ 24 := by
  simp [SIOp.ok, scalarOk] at h; omega

theorem V3Op.ok_bounds {o : V3Op} {tys : List Ty} {ub uc md : Bool} (h : o.ok tys ub uc md = true) :
    o.g.pred < 24 ∧ o.d < 256 ∧ o.a < 256 ∧ o.b < 256 ∧ o.c < 256 := by
  simp only [V3Op.ok, Guard.ok, predOk, vecOk, scalarOk, Bool.and_eq_true, decide_eq_true_eq] at h
  obtain ⟨⟨⟨⟨⟨⟨hp, _⟩, hd⟩, ha⟩, hb⟩, hc⟩, _⟩ := h
  refine ⟨hp, hd, ha, ?_, ?_⟩
  · split at hb
    · split at hb <;> simp at hb <;> omega
    · simp at hb; omega
  · split at hc
    · split at hc <;> simp at hc <;> omega
    · simp at hc; omega

theorem VIOp.ok_bounds {o : VIOp} {tys : List Ty} {md : Bool} (h : o.ok tys md = true) :
    o.g.pred < 24 ∧ o.d < 256 ∧ o.a < 256 ∧ (∀ n, o.imm = .short n → n < 65536) ∧ (∀ n, o.imm = .tail n → n < 2 ^ 32) := by
  simp only [VIOp.ok, Guard.ok, predOk, vecOk, Bool.and_eq_true, decide_eq_true_eq] at h
  obtain ⟨⟨⟨⟨⟨hp, _⟩, hd⟩, ha⟩, hi⟩, _⟩ := h
  refine ⟨hp, hd, ha, ?_, ?_⟩ <;> intro n e <;> rw [e] at hi <;> simp [VImm.ok] at hi <;> omega

theorem PredOp.ok_bounds {o : PredOp} {ub : Bool} (h : o.ok ub = true) :
    o.g.pred < 24 ∧ o.d < 24 ∧ o.a < 24 ∧ o.b < 24 := by
  simp [PredOp.ok, Guard.ok, predOk] at h; omega

theorem CvtOp.ok_bounds {o : CvtOp} {ub : Bool} (h : o.ok ub = true) :
    o.g.pred < 24 ∧ o.d < 256 ∧ o.a < 256 ∧ o.b < 256 := by
  simp only [CvtOp.ok, Guard.ok, predOk, vecOk, scalarOk, Bool.and_eq_true, decide_eq_true_eq] at h
  obtain ⟨⟨⟨hp, hd⟩, ha⟩, hb⟩ := h
  refine ⟨hp, hd, ha, ?_⟩
  split at hb
  · split at hb <;> simp at hb <;> omega
  · simp at hb; omega

theorem XLaneOp.ok_bounds {o : XLaneOp} {tys : List Ty} {ub : Bool} (h : o.ok tys ub = true) :
    o.g.pred < 24 ∧ o.grp < 8 ∧ o.b < 256 := by
  simp only [XLaneOp.ok, Guard.ok, predOk, vecOk, scalarOk, Bool.and_eq_true, decide_eq_true_eq] at h
  obtain ⟨⟨⟨hp, _⟩, hg⟩, hb⟩ := h
  refine ⟨hp, hg, ?_⟩
  split at hb
  · split at hb <;> simp at hb <;> omega
  · simp at hb; omega

theorem offOk_lt {k : OffKind} {b : Nat} (h : offOk k b = true) : b < 256 := by
  cases k <;> simp [offOk, vecOk, scalarOk] at h <;> omega

theorem lookOk_lt {la ctr : Nat} (h : lookOk la ctr = true) : la < 16 ∧ ctr < 8 := by
  simp only [lookOk, Bool.and_eq_true, decide_eq_true_eq] at h
  obtain ⟨h1, h2⟩ := h
  refine ⟨h1, ?_⟩
  split at h2 <;> simp at h2 <;> omega

theorem MOp.base_bounds {o : MOp} {ks : List OffKind} {gd : Bool} (h : o.base ks gd = true) :
    o.g.pred < 24 ∧ o.a < 64 ∧ o.b < 256 ∧ o.la < 16 ∧ o.ctr < 8 := by
  simp only [MOp.base, Guard.ok, predOk, scalarOk, Bool.and_eq_true, decide_eq_true_eq] at h
  obtain ⟨⟨⟨⟨⟨hp, _⟩, ha⟩, _⟩, hb⟩, hl⟩ := h
  exact ⟨hp, ha, offOk_lt hb, lookOk_lt hl⟩

theorem MOp.okLoad_bounds {o : MOp} {ks : List OffKind} {gd sd : Bool} (h : o.okLoad ks gd sd = true) :
    o.g.pred < 24 ∧ o.a < 64 ∧ o.b < 256 ∧ o.la < 16 ∧ o.ctr < 8 ∧ o.x < 32 ∧ o.d < 256 := by
  simp only [MOp.okLoad, Bool.and_eq_true] at h
  obtain ⟨⟨⟨⟨hb, _⟩, hx⟩, _⟩, hd⟩ := h
  have := MOp.base_bounds hb
  simp at hx
  refine ⟨this.1, this.2.1, this.2.2.1, this.2.2.2.1, this.2.2.2.2, by omega, ?_⟩
  split at hd <;> simp [scalarOk, vecOk] at hd <;> omega

theorem MOp.okStore_bounds {o : MOp} {ks : List OffKind} {gd sd : Bool} (h : o.okStore ks gd sd = true) :
    o.g.pred < 24 ∧ o.a < 64 ∧ o.b < 256 ∧ o.la < 16 ∧ o.ctr < 8 ∧ o.x < 32 ∧ o.d < 256 := by
  simp only [MOp.okStore, Bool.and_eq_true] at h
  obtain ⟨⟨⟨⟨⟨hb, _⟩, hx⟩, _⟩, hd⟩, _⟩ := h
  have := MOp.base_bounds hb
  simp at hx
  refine ⟨this.1, this.2.1, this.2.2.1, this.2.2.2.1, this.2.2.2.2, by omega, ?_⟩
  split at hd <;> simp [scalarOk, vecOk] at hd <;> omega

theorem MOp.okAtom_bounds {o : MOp} {op : AtomOp} {ks : List OffKind} {gd sd : Bool} (h : o.okAtom op ks gd sd = true) :
    o.g.pred < 24 ∧ o.a < 64 ∧ o.b < 256 ∧ o.la < 16 ∧ o.ctr < 8 ∧ o.x < 32 ∧ o.d < 256 := by
  simp only [MOp.okAtom, Bool.and_eq_true, decide_eq_true_eq] at h
  obtain ⟨⟨⟨⟨hb, _⟩, hx⟩, _⟩, hd⟩ := h
  have := MOp.base_bounds hb
  refine ⟨this.1, this.2.1, this.2.2.1, this.2.2.2.1, this.2.2.2.2, by omega, ?_⟩
  split at hd <;> simp [scalarOk, vecOk] at hd <;> omega

theorem readS_word (mj mn : Nat) (f : SOp → Instr) (o : SOp) (rest : List Byte) (row : sRow mj mn = some f)
    (mr : 2 ≤ mj ∧ mj ≤ 7) (ne : ¬(mj = 7 ∧ mn = 2)) (ml : mn < 32)
    (b : o.d < 64 ∧ o.a < 64 ∧ o.b < 64 ∧ o.c < 64) (wf : wellFormed (f o) = true) :
    decodeBytes (leBytes 8 (plainWord mj o.d o.a o.b o.c (mn * 512 + o.ty.code * 16)) ++ rest) = .ok (f o, rest) := by
  have tl := o.ty.code_lt
  refine oneWord _ _ rest ?_ ?_ wf ?_
  · simp only [RawWord.fits]; omega
  · simp only [tailOf]; rw [if_neg (by omega), if_neg (by omega)]
  · have m : field (mn * 512 + o.ty.code * 16) 9 5 = mn := by simp only [field]; omega
    have c : field (mn * 512 + o.ty.code * 16) 4 5 = o.ty.code := by simp only [field]; omega
    have z : field (mn * 512 + o.ty.code * 16) 0 4 = 0 := by simp only [field]; omega
    have h1 : mj ≠ 1 := by omega
    simp [decodeFields, RawWord.minor, RawWord.tyCode, RawWord.noGuard, decodeS, withCode, ifZero, m, c, z, row, mr.1, mr.2,
      h1, ne]

theorem readSI_word (mj mn : Nat) (f : SIOp → Instr) (o : SIOp) (rest : List Byte) (row : siRow mj mn = some f)
    (mr : 0x10 ≤ mj ∧ mj ≤ 0x13) (ml : mn < 64)
    (b : o.d < 64 ∧ o.a < 64 ∧ o.imm < 2 ^ 24) (wf : wellFormed (f o) = true) :
    decodeBytes (leBytes 8 (siWord mj mn o) ++ rest) = .ok (f o, rest) := by
  refine oneWord _ _ rest ?_ ?_ wf ?_
  · simp only [RawWord.fits]; omega
  · simp only [tailOf]; rw [if_neg (by omega), if_neg (by omega)]
  · have m : field (o.imm % 256 * 64 + mn) 0 6 = mn := by simp only [field]; omega
    have i : o.imm / 2 ^ 16 * 2 ^ 16 + o.imm / 2 ^ 8 % 256 * 2 ^ 8 + field (o.imm % 256 * 64 + mn) 6 8 = o.imm := by
      simp only [field]; omega
    simp only [decodeFields, RawWord.imm24]
    rw [if_neg (by omega), if_neg (by omega), if_pos (by omega), if_neg (by simp [RawWord.noGuard]), if_neg (by simp),
      if_neg (by omega), m, row, i]

theorem readV3_word (mj mn : Nat) (f : V3Op → Instr) (o : V3Op) (rest : List Byte) (row : v3Row mj mn = some f)
    (mr : 0x40 ≤ mj ∧ mj ≤ 0x5F) (ml : mn < 32)
    (b : o.g.pred < 24 ∧ o.d < 256 ∧ o.a < 256 ∧ o.b < 256 ∧ o.c < 256) (wf : wellFormed (f o) = true) :
    decodeBytes (leBytes 8 (guardWord mj o.g 0 o.d o.a o.b o.c
      (mn * 512 + o.ty.code * 16 + bitOf o.bk * 8 + bitOf o.ck * 4 + o.mode.code)) ++ rest) = .ok (f o, rest) := by
  have tl := o.ty.code_lt
  have gl := o.g.negBit_lt
  have b1 := bitOf_lt o.bk
  have b2 := bitOf_lt o.ck
  have ml' := o.mode.code_lt
  refine oneWord _ _ rest ?_ ?_ wf ?_
  · simp only [RawWord.fits]; omega
  · simp only [tailOf]; rw [if_neg (by omega), if_neg (by omega)]
  · generalize hf : mn * 512 + o.ty.code * 16 + bitOf o.bk * 8 + bitOf o.ck * 4 + o.mode.code = fn
    have m : field fn 9 5 = mn := by simp only [field]; omega
    have c : field fn 4 5 = o.ty.code := by simp only [field]; omega
    have x : field fn 3 1 = bitOf o.bk := by simp only [field]; omega
    have y : field fn 2 1 = bitOf o.ck := by simp only [field]; omega
    have z : field fn 0 2 = o.mode.code := by simp only [field]; omega
    simp only [decodeFields, RawWord.minor, RawWord.tyCode, RawWord.guard, decodeV3]
    rw [if_neg (by omega), if_neg (by omega), if_neg (by omega), if_neg (by omega), if_pos (by omega),
      if_neg (by simp), m, row, c, x, y, z]
    simp [withCode]

theorem split256 (n : Nat) : n / 256 * 256 + n % 256 = n := by omega

theorem readVI_word (mj mn : Nat) (f : VIOp → Instr) (o : VIOp) (rest : List Byte) (no3 : v3Row mj mn = none)
    (row : viRow mj mn = some f)
    (mr : (0x60 ≤ mj ∧ mj ≤ 0x63) ∨ mj = 0x68 ∨ mj = 0x74) (ml : mn < 32)
    (b : o.g.pred < 24 ∧ o.d < 256 ∧ o.a < 256 ∧ (∀ n, o.imm = .short n → n < 65536) ∧ (∀ n, o.imm = .tail n → n < 2 ^ 32))
    (wf : wellFormed (f o) = true) :
    decodeBytes ((viWords mj mn o).flatMap (leBytes 8) ++ rest) = .ok (f o, rest) := by
  obtain ⟨bp, bd, ba, bs, bt⟩ := b
  have tl := o.ty.code_lt
  have gl := o.g.negBit_lt
  have ml' := o.mode.code_lt
  obtain ⟨g, d, a, imm, ty, mode⟩ := o
  cases imm with
  | short n =>
    have nl := bs n rfl
    simp only [viWords, List.flatMap_cons, List.flatMap_nil, List.append_nil]
    refine oneWord _ _ rest ?_ ?_ wf ?_
    · simp only [RawWord.fits]; simp only at *; omega
    · simp only [tailOf]
      rw [if_neg (by omega)]
      have : field (mn * 512 + ty.code * 16 + mode.code) 3 1 = 0 := by simp only [field]; simp only at *; omega
      simp [this]
    · generalize hf : mn * 512 + ty.code * 16 + mode.code = fn
      simp only at *
      have m : field fn 9 5 = mn := by simp only [field]; omega
      have c : field fn 4 5 = ty.code := by simp only [field]; omega
      have x : field fn 3 1 = 0 := by simp only [field]; omega
      have y : field fn 2 1 = 0 := by simp only [field]; omega
      have z : field fn 0 2 = mode.code := by simp only [field]; omega
      have i : n / 256 * 256 + n % 256 = n := split256 n
      clear hf wf bs bt
      simp only [decodeFields, RawWord.minor]
      rw [if_neg (by omega), if_neg (by omega), if_neg (by omega), if_neg (by omega), if_pos (by omega),
        if_neg (by simp), m, no3, row]
      simp [decodeVI, RawWord.tyCode, RawWord.guard, RawWord.imm16, withCode, c, x, y, z, i]
  | tail n =>
    have nl := bt n rfl
    simp only [viWords, List.flatMap_cons, List.flatMap_nil, List.append_nil, List.append_assoc]
    refine twoWords _ _ _ rest ?_ ?_ ?_ wf ?_
    · simp only [RawWord.fits]; simp only at *; omega
    · omega
    · simp only [tailOf]
      rw [if_neg (by omega)]
      have : field (mn * 512 + ty.code * 16 + 8 + mode.code) 3 1 = 1 := by simp only [field]; simp only at *; omega
      simp only [this]
      rw [if_pos (by omega)]; rfl
    · generalize hf : mn * 512 + ty.code * 16 + 8 + mode.code = fn
      simp only at *
      have m : field fn 9 5 = mn := by simp only [field]; omega
      have c : field fn 4 5 = ty.code := by simp only [field]; omega
      have x : field fn 3 1 = 1 := by simp only [field]; omega
      have y : field fn 2 1 = 0 := by simp only [field]; omega
      have z : field fn 0 2 = mode.code := by simp only [field]; omega
      have u : field n 32 32 = 0 := by simp only [field]; omega
      have v : field n 0 32 = n := by simp only [field]; omega
      clear hf wf bs bt nl
      simp only [decodeFields, RawWord.minor]
      rw [if_neg (by omega), if_neg (by omega), if_neg (by omega), if_neg (by omega), if_pos (by omega),
        if_neg (by simp), m, no3, row]
      simp [decodeVI, RawWord.tyCode, RawWord.guard, RawWord.imm16, withCode, c, x, y, z, u, v]

theorem mFn_lt (e : Elem) (sp : Space) (sc : Scope) (od : Order) (k : OffKind) : mFn e sp sc od k < 16384 := by
  have := e.code_lt; have := sp.code_lt; have := sc.code_lt; have := od.code_lt; have := k.code_lt
  simp only [mFn]; omega

theorem mFn_elem (e : Elem) (sp : Space) (sc : Scope) (od : Order) (k : OffKind) : field (mFn e sp sc od k) 10 4 = e.code := by
  have := e.code_lt; have := sp.code_lt; have := sc.code_lt; have := od.code_lt; have := k.code_lt
  simp only [mFn, field]; omega
theorem mFn_space (e : Elem) (sp : Space) (sc : Scope) (od : Order) (k : OffKind) : field (mFn e sp sc od k) 7 3 = sp.code := by
  have := e.code_lt; have := sp.code_lt; have := sc.code_lt; have := od.code_lt; have := k.code_lt
  simp only [mFn, field]; omega
theorem mFn_scope (e : Elem) (sp : Space) (sc : Scope) (od : Order) (k : OffKind) : field (mFn e sp sc od k) 4 3 = sc.code := by
  have := e.code_lt; have := sp.code_lt; have := sc.code_lt; have := od.code_lt; have := k.code_lt
  simp only [mFn, field]; omega
theorem mFn_order (e : Elem) (sp : Space) (sc : Scope) (od : Order) (k : OffKind) : field (mFn e sp sc od k) 2 2 = od.code := by
  have := e.code_lt; have := sp.code_lt; have := sc.code_lt; have := od.code_lt; have := k.code_lt
  simp only [mFn, field]; omega
theorem mFn_kind (e : Elem) (sp : Space) (sc : Scope) (od : Order) (k : OffKind) : field (mFn e sp sc od k) 0 2 = k.code := by
  have := e.code_lt; have := sp.code_lt; have := sc.code_lt; have := od.code_lt; have := k.code_lt
  simp only [mFn, field]; omega

theorem readM_word (mj : Nat) (f : MOp → Instr) (o : MOp) (rest : List Byte) (row : mRow mj = some f)
    (mr : 0xA0 ≤ mj ∧ mj ≤ 0xC6)
    (b : o.g.pred < 24 ∧ o.a < 64 ∧ o.b < 256 ∧ o.la < 16 ∧ o.ctr < 8 ∧ o.x < 32 ∧ o.d < 256)
    (wf : wellFormed (f o) = true) :
    decodeBytes ((mWords mj o).flatMap (leBytes 8) ++ rest) = .ok (f o, rest) := by
  have gl := o.g.negBit_lt
  have ml := mFn_lt o.elem o.space o.scope o.order o.kind
  simp only [mWords, List.flatMap_cons, List.flatMap_nil, List.append_nil]
  refine oneWord _ _ rest ?_ ?_ wf ?_
  · simp only [RawWord.fits]; omega
  · simp only [tailOf]; rw [if_neg (by omega), if_neg (by omega)]
  · have x : field (o.ctr * 32 + o.x) 5 3 = o.ctr := by simp only [field]; omega
    have y : field (o.ctr * 32 + o.x) 0 5 = o.x := by simp only [field]; omega
    simp only [decodeFields, RawWord.guard, decodeM]
    rw [if_neg (by omega), if_neg (by omega), if_neg (by omega), if_neg (by omega), if_neg (by omega),
      if_pos (by omega), row]
    simp [mFn_elem, mFn_space, mFn_scope, mFn_order, mFn_kind, withCode, x, y]

theorem readPred_word (mn : Nat) (f : PredOp → Instr) (o : PredOp) (rest : List Byte) (no3 : v3Row 0x4D mn = none)
    (noI : viRow 0x4D mn = none) (row : predRow 0x4D mn = some f) (ml : mn < 32)
    (b : o.g.pred < 24 ∧ o.d < 24 ∧ o.a < 24 ∧ o.b < 24) (wf : wellFormed (f o) = true) :
    decodeBytes (leBytes 8 (guardWord 0x4D o.g 0 o.d o.a o.b 0 (mn * 512)) ++ rest) = .ok (f o, rest) := by
  have gl := o.g.negBit_lt
  refine oneWord _ _ rest ?_ ?_ wf ?_
  · simp only [RawWord.fits]; omega
  · simp only [tailOf]; rw [if_neg (by omega), if_neg (by omega)]
  · have m : field (mn * 512) 9 5 = mn := by simp only [field]; omega
    have z : field (mn * 512) 0 9 = 0 := by simp only [field]; omega
    simp only [decodeFields, RawWord.minor, RawWord.guard, decodeVSpecial]
    rw [if_neg (by omega), if_neg (by omega), if_neg (by omega), if_neg (by omega), if_pos (by omega),
      if_neg (by simp), m, no3, noI, row]
    simp [ifZero, z]

theorem readCvt_word (mn : Nat) (f : CvtOp → Instr) (o : CvtOp) (rest : List Byte) (no3 : v3Row 0x50 mn = none)
    (noI : viRow 0x50 mn = none) (row : cvtRow 0x50 mn = some f) (ml : mn < 32)
    (b : o.g.pred < 24 ∧ o.d < 256 ∧ o.a < 256 ∧ o.b < 256) (wf : wellFormed (f o) = true) :
    decodeBytes (leBytes 8 (guardWord 0x50 o.g 0 o.d o.a o.b o.src.code
      (mn * 512 + o.dst.code * 16 + bitOf o.bk * 8 + bitOf o.nanov * 4 + o.mode.code)) ++ rest) = .ok (f o, rest) := by
  have gl := o.g.negBit_lt
  have tl := o.dst.code_lt
  have sl := o.src.code_lt
  have b1 := bitOf_lt o.bk
  have b2 := bitOf_lt o.nanov
  have ml' := o.mode.code_lt
  refine oneWord _ _ rest ?_ ?_ wf ?_
  · simp only [RawWord.fits]; omega
  · simp only [tailOf]; rw [if_neg (by omega), if_neg (by omega)]
  · generalize hf : mn * 512 + o.dst.code * 16 + bitOf o.bk * 8 + bitOf o.nanov * 4 + o.mode.code = fn
    have m : field fn 9 5 = mn := by simp only [field]; omega
    have c : field fn 4 5 = o.dst.code := by simp only [field]; omega
    have x : field fn 3 1 = bitOf o.bk := by simp only [field]; omega
    have y : field fn 2 1 = bitOf o.nanov := by simp only [field]; omega
    have z : field fn 0 2 = o.mode.code := by simp only [field]; omega
    have s0 : field o.src.code 0 5 = o.src.code := by simp only [field]; omega
    have s1 : field o.src.code 5 3 = 0 := by simp only [field]; omega
    simp only [decodeFields, RawWord.minor, RawWord.tyCode, RawWord.guard, decodeVSpecial]
    rw [if_neg (by omega), if_neg (by omega), if_neg (by omega), if_neg (by omega), if_pos (by omega),
      if_neg (by simp), m, no3, noI, row, c, x, y, z, s0, s1]
    simp [withCode, ifZero]

theorem readXLane_word (mn : Nat) (f : XLaneOp → Instr) (o : XLaneOp) (rest : List Byte) (no3 : v3Row 0x58 mn = none)
    (noI : viRow 0x58 mn = none) (row : xlaneRow 0x58 mn = some f) (ml : mn < 6)
    (b : o.g.pred < 24 ∧ o.grp < 8 ∧ o.b < 256) (bd : o.d < 256 ∧ o.a < 256) (wf : wellFormed (f o) = true) :
    decodeBytes (leBytes 8 (guardWord 0x58 o.g 0 o.d o.a o.b o.grp
      (mn * 512 + o.ty.code * 16 + bitOf o.bk * 8)) ++ rest) = .ok (f o, rest) := by
  have gl := o.g.negBit_lt
  have tl := o.ty.code_lt
  have b1 := bitOf_lt o.bk
  refine oneWord _ _ rest ?_ ?_ wf ?_
  · simp only [RawWord.fits]; omega
  · simp only [tailOf]; rw [if_neg (by omega), if_neg (by omega)]
  · generalize hf : mn * 512 + o.ty.code * 16 + bitOf o.bk * 8 = fn
    have m : field fn 9 5 = mn := by simp only [field]; omega
    have c : field fn 4 5 = o.ty.code := by simp only [field]; omega
    have x : field fn 3 1 = bitOf o.bk := by simp only [field]; omega
    have z : field fn 0 3 = 0 := by simp only [field]; omega
    simp only [decodeFields, RawWord.minor, RawWord.tyCode, RawWord.guard, decodeVSpecial]
    rw [if_neg (by omega), if_neg (by omega), if_neg (by omega), if_neg (by omega), if_pos (by omega),
      if_neg (by simp), m, no3, noI, c]
    simp only [withCode, Ty.ofCode_code]
    split
    · omega
    · rw [row, x, z]; simp [ifZero]

end Sys2Proof
end

