-- ==== Sys2Proof/Laws/Tables.lean ====
section
/-! SUPPORT. Reading a sparse table after one key is set. -/

set_option Elab.async false

namespace Sys2Proof.Machine

@[simp] theorem AMap.find?_set_self {α : Type} (m : AMap α) (n : Nat) (v : α) :
    AMap.find? (AMap.set m n v) n = some v := by
  induction m with
  | nil => simp [AMap.set, AMap.find?]
  | cons p rest ih =>
    obtain ⟨k, w⟩ := p
    simp only [AMap.set]
    split
    · simp [AMap.find?]
    · split
      · simp [AMap.find?]
      · simp_all [AMap.find?]

theorem AMap.find?_set_ne {α : Type} (m : AMap α) (n k : Nat) (v : α) (ne : k ≠ n) :
    AMap.find? (AMap.set m n v) k = AMap.find? m k := by
  induction m with
  | nil =>
    simp only [AMap.set, AMap.find?]
    split
    · omega
    · simp
  | cons p rest ih =>
    obtain ⟨j, w⟩ := p
    simp only [AMap.set]
    split
    · subst_vars
      simp only [AMap.find?]
      split
      · omega
      · rfl
    · split
      · simp only [AMap.find?]
        split
        · omega
        · repeat' split
          all_goals first | rfl | omega
      · simp only [AMap.find?, ih]

@[simp] theorem AMap.getD_set_self {α : Type} (m : AMap α) (n : Nat) (v d : α) :
    AMap.getD (AMap.set m n v) n d = v := by
  simp [AMap.getD]

theorem AMap.getD_set_ne {α : Type} (m : AMap α) (n k : Nat) (v d : α) (ne : k ≠ n) :
    AMap.getD (AMap.set m n v) k d = AMap.getD m k d := by
  simp [AMap.getD, AMap.find?_set_ne m n k v ne]

@[simp] theorem AMap.has_set_self {α : Type} (m : AMap α) (n : Nat) (v : α) : AMap.has (AMap.set m n v) n = true := by
  simp [AMap.has]

theorem AMap.has_set_ne {α : Type} (m : AMap α) (n k : Nat) (v : α) (ne : k ≠ n) :
    AMap.has (AMap.set m n v) k = AMap.has m k := by
  simp [AMap.has, AMap.find?_set_ne m n k v ne]

end Sys2Proof.Machine
end

