-- ==== Sys2Proof/Laws/State.lean ====
section
/-! SUPPORT. What each update of the state leaves alone, field by field. -/

set_option Elab.async false

namespace Sys2Proof.Machine

/-! ## `State.setCore` -/

@[simp] theorem State.setCore_clock (s : State) (g : Nat) (c : Core) : (s.setCore g c).clock = s.clock := rfl
@[simp] theorem State.setCore_mem (s : State) (g : Nat) (c : Core) : (s.setCore g c).mem = s.mem := rfl
@[simp] theorem State.setCore_backing (s : State) (g : Nat) (c : Core) : (s.setCore g c).backing = s.backing := rfl
@[simp] theorem State.setCore_poison (s : State) (g : Nat) (c : Core) : (s.setCore g c).poison = s.poison := rfl
@[simp] theorem State.setCore_intervals (s : State) (g : Nat) (c : Core) : (s.setCore g c).intervals = s.intervals := rfl
@[simp] theorem State.setCore_clusters (s : State) (g : Nat) (c : Core) : (s.setCore g c).clusters = s.clusters := rfl
@[simp] theorem State.setCore_dies (s : State) (g : Nat) (c : Core) : (s.setCore g c).dies = s.dies := rfl
@[simp] theorem State.setCore_ctl (s : State) (g : Nat) (c : Core) : (s.setCore g c).ctl = s.ctl := rfl
@[simp] theorem State.setCore_grids (s : State) (g : Nat) (c : Core) : (s.setCore g c).grids = s.grids := rfl
@[simp] theorem State.setCore_nextGrid (s : State) (g : Nat) (c : Core) : (s.setCore g c).nextGrid = s.nextGrid := rfl
@[simp] theorem State.setCore_futures (s : State) (g : Nat) (c : Core) : (s.setCore g c).futures = s.futures := rfl
@[simp] theorem State.setCore_nextFuture (s : State) (g : Nat) (c : Core) : (s.setCore g c).nextFuture = s.nextFuture := rfl
@[simp] theorem State.setCore_commands (s : State) (g : Nat) (c : Core) : (s.setCore g c).commands = s.commands := rfl
@[simp] theorem State.setCore_nextCommand (s : State) (g : Nat) (c : Core) : (s.setCore g c).nextCommand = s.nextCommand := rfl
@[simp] theorem State.setCore_nextOp (s : State) (g : Nat) (c : Core) : (s.setCore g c).nextOp = s.nextOp := rfl
@[simp] theorem State.setCore_agenda (s : State) (g : Nat) (c : Core) : (s.setCore g c).agenda = s.agenda := rfl
@[simp] theorem State.setCore_inputs (s : State) (g : Nat) (c : Core) : (s.setCore g c).inputs = s.inputs := rfl
@[simp] theorem State.setCore_issue (s : State) (g : Nat) (c : Core) : (s.setCore g c).issue = s.issue := rfl
@[simp] theorem State.setCore_cur (s : State) (g : Nat) (c : Core) : (s.setCore g c).cur = s.cur := rfl
@[simp] theorem State.setCore_turn (s : State) (g : Nat) (c : Core) : (s.setCore g c).turn = s.turn := rfl
@[simp] theorem State.setCore_outbox (s : State) (g : Nat) (c : Core) : (s.setCore g c).outbox = s.outbox := rfl
@[simp] theorem State.setCore_fresh (s : State) (g : Nat) (c : Core) : (s.setCore g c).fresh = s.fresh := rfl

/-! ## `State.updCore` -/

@[simp] theorem State.updCore_clock (s : State) (g : Nat) (f : Core → Core) : (s.updCore g f).clock = s.clock := rfl
@[simp] theorem State.updCore_mem (s : State) (g : Nat) (f : Core → Core) : (s.updCore g f).mem = s.mem := rfl
@[simp] theorem State.updCore_backing (s : State) (g : Nat) (f : Core → Core) : (s.updCore g f).backing = s.backing := rfl
@[simp] theorem State.updCore_poison (s : State) (g : Nat) (f : Core → Core) : (s.updCore g f).poison = s.poison := rfl
@[simp] theorem State.updCore_intervals (s : State) (g : Nat) (f : Core → Core) : (s.updCore g f).intervals = s.intervals := rfl
@[simp] theorem State.updCore_clusters (s : State) (g : Nat) (f : Core → Core) : (s.updCore g f).clusters = s.clusters := rfl
@[simp] theorem State.updCore_dies (s : State) (g : Nat) (f : Core → Core) : (s.updCore g f).dies = s.dies := rfl
@[simp] theorem State.updCore_ctl (s : State) (g : Nat) (f : Core → Core) : (s.updCore g f).ctl = s.ctl := rfl
@[simp] theorem State.updCore_grids (s : State) (g : Nat) (f : Core → Core) : (s.updCore g f).grids = s.grids := rfl
@[simp] theorem State.updCore_nextGrid (s : State) (g : Nat) (f : Core → Core) : (s.updCore g f).nextGrid = s.nextGrid := rfl
@[simp] theorem State.updCore_futures (s : State) (g : Nat) (f : Core → Core) : (s.updCore g f).futures = s.futures := rfl
@[simp] theorem State.updCore_nextFuture (s : State) (g : Nat) (f : Core → Core) : (s.updCore g f).nextFuture = s.nextFuture := rfl
@[simp] theorem State.updCore_commands (s : State) (g : Nat) (f : Core → Core) : (s.updCore g f).commands = s.commands := rfl
@[simp] theorem State.updCore_nextCommand (s : State) (g : Nat) (f : Core → Core) : (s.updCore g f).nextCommand = s.nextCommand := rfl
@[simp] theorem State.updCore_nextOp (s : State) (g : Nat) (f : Core → Core) : (s.updCore g f).nextOp = s.nextOp := rfl
@[simp] theorem State.updCore_agenda (s : State) (g : Nat) (f : Core → Core) : (s.updCore g f).agenda = s.agenda := rfl
@[simp] theorem State.updCore_inputs (s : State) (g : Nat) (f : Core → Core) : (s.updCore g f).inputs = s.inputs := rfl
@[simp] theorem State.updCore_issue (s : State) (g : Nat) (f : Core → Core) : (s.updCore g f).issue = s.issue := rfl
@[simp] theorem State.updCore_cur (s : State) (g : Nat) (f : Core → Core) : (s.updCore g f).cur = s.cur := rfl
@[simp] theorem State.updCore_turn (s : State) (g : Nat) (f : Core → Core) : (s.updCore g f).turn = s.turn := rfl
@[simp] theorem State.updCore_outbox (s : State) (g : Nat) (f : Core → Core) : (s.updCore g f).outbox = s.outbox := rfl
@[simp] theorem State.updCore_fresh (s : State) (g : Nat) (f : Core → Core) : (s.updCore g f).fresh = s.fresh := rfl

/-! ## `State.updCluster` -/

@[simp] theorem State.updCluster_clock (s : State) (x : Nat) (f : Cluster → Cluster) : (s.updCluster x f).clock = s.clock := rfl
@[simp] theorem State.updCluster_mem (s : State) (x : Nat) (f : Cluster → Cluster) : (s.updCluster x f).mem = s.mem := rfl
@[simp] theorem State.updCluster_backing (s : State) (x : Nat) (f : Cluster → Cluster) : (s.updCluster x f).backing = s.backing := rfl
@[simp] theorem State.updCluster_poison (s : State) (x : Nat) (f : Cluster → Cluster) : (s.updCluster x f).poison = s.poison := rfl
@[simp] theorem State.updCluster_intervals (s : State) (x : Nat) (f : Cluster → Cluster) : (s.updCluster x f).intervals = s.intervals := rfl
@[simp] theorem State.updCluster_cores (s : State) (x : Nat) (f : Cluster → Cluster) : (s.updCluster x f).cores = s.cores := rfl
@[simp] theorem State.updCluster_dies (s : State) (x : Nat) (f : Cluster → Cluster) : (s.updCluster x f).dies = s.dies := rfl
@[simp] theorem State.updCluster_ctl (s : State) (x : Nat) (f : Cluster → Cluster) : (s.updCluster x f).ctl = s.ctl := rfl
@[simp] theorem State.updCluster_grids (s : State) (x : Nat) (f : Cluster → Cluster) : (s.updCluster x f).grids = s.grids := rfl
@[simp] theorem State.updCluster_nextGrid (s : State) (x : Nat) (f : Cluster → Cluster) : (s.updCluster x f).nextGrid = s.nextGrid := rfl
@[simp] theorem State.updCluster_futures (s : State) (x : Nat) (f : Cluster → Cluster) : (s.updCluster x f).futures = s.futures := rfl
@[simp] theorem State.updCluster_nextFuture (s : State) (x : Nat) (f : Cluster → Cluster) : (s.updCluster x f).nextFuture = s.nextFuture := rfl
@[simp] theorem State.updCluster_commands (s : State) (x : Nat) (f : Cluster → Cluster) : (s.updCluster x f).commands = s.commands := rfl
@[simp] theorem State.updCluster_nextCommand (s : State) (x : Nat) (f : Cluster → Cluster) : (s.updCluster x f).nextCommand = s.nextCommand := rfl
@[simp] theorem State.updCluster_nextOp (s : State) (x : Nat) (f : Cluster → Cluster) : (s.updCluster x f).nextOp = s.nextOp := rfl
@[simp] theorem State.updCluster_agenda (s : State) (x : Nat) (f : Cluster → Cluster) : (s.updCluster x f).agenda = s.agenda := rfl
@[simp] theorem State.updCluster_inputs (s : State) (x : Nat) (f : Cluster → Cluster) : (s.updCluster x f).inputs = s.inputs := rfl
@[simp] theorem State.updCluster_issue (s : State) (x : Nat) (f : Cluster → Cluster) : (s.updCluster x f).issue = s.issue := rfl
@[simp] theorem State.updCluster_cur (s : State) (x : Nat) (f : Cluster → Cluster) : (s.updCluster x f).cur = s.cur := rfl
@[simp] theorem State.updCluster_turn (s : State) (x : Nat) (f : Cluster → Cluster) : (s.updCluster x f).turn = s.turn := rfl
@[simp] theorem State.updCluster_outbox (s : State) (x : Nat) (f : Cluster → Cluster) : (s.updCluster x f).outbox = s.outbox := rfl
@[simp] theorem State.updCluster_fresh (s : State) (x : Nat) (f : Cluster → Cluster) : (s.updCluster x f).fresh = s.fresh := rfl

/-! ## `State.updDie` -/

@[simp] theorem State.updDie_clock (s : State) (d : Nat) (f : Die → Die) : (s.updDie d f).clock = s.clock := rfl
@[simp] theorem State.updDie_mem (s : State) (d : Nat) (f : Die → Die) : (s.updDie d f).mem = s.mem := rfl
@[simp] theorem State.updDie_backing (s : State) (d : Nat) (f : Die → Die) : (s.updDie d f).backing = s.backing := rfl
@[simp] theorem State.updDie_poison (s : State) (d : Nat) (f : Die → Die) : (s.updDie d f).poison = s.poison := rfl
@[simp] theorem State.updDie_intervals (s : State) (d : Nat) (f : Die → Die) : (s.updDie d f).intervals = s.intervals := rfl
@[simp] theorem State.updDie_cores (s : State) (d : Nat) (f : Die → Die) : (s.updDie d f).cores = s.cores := rfl
@[simp] theorem State.updDie_clusters (s : State) (d : Nat) (f : Die → Die) : (s.updDie d f).clusters = s.clusters := rfl
@[simp] theorem State.updDie_ctl (s : State) (d : Nat) (f : Die → Die) : (s.updDie d f).ctl = s.ctl := rfl
@[simp] theorem State.updDie_grids (s : State) (d : Nat) (f : Die → Die) : (s.updDie d f).grids = s.grids := rfl
@[simp] theorem State.updDie_nextGrid (s : State) (d : Nat) (f : Die → Die) : (s.updDie d f).nextGrid = s.nextGrid := rfl
@[simp] theorem State.updDie_futures (s : State) (d : Nat) (f : Die → Die) : (s.updDie d f).futures = s.futures := rfl
@[simp] theorem State.updDie_nextFuture (s : State) (d : Nat) (f : Die → Die) : (s.updDie d f).nextFuture = s.nextFuture := rfl
@[simp] theorem State.updDie_commands (s : State) (d : Nat) (f : Die → Die) : (s.updDie d f).commands = s.commands := rfl
@[simp] theorem State.updDie_nextCommand (s : State) (d : Nat) (f : Die → Die) : (s.updDie d f).nextCommand = s.nextCommand := rfl
@[simp] theorem State.updDie_nextOp (s : State) (d : Nat) (f : Die → Die) : (s.updDie d f).nextOp = s.nextOp := rfl
@[simp] theorem State.updDie_agenda (s : State) (d : Nat) (f : Die → Die) : (s.updDie d f).agenda = s.agenda := rfl
@[simp] theorem State.updDie_inputs (s : State) (d : Nat) (f : Die → Die) : (s.updDie d f).inputs = s.inputs := rfl
@[simp] theorem State.updDie_issue (s : State) (d : Nat) (f : Die → Die) : (s.updDie d f).issue = s.issue := rfl
@[simp] theorem State.updDie_cur (s : State) (d : Nat) (f : Die → Die) : (s.updDie d f).cur = s.cur := rfl
@[simp] theorem State.updDie_turn (s : State) (d : Nat) (f : Die → Die) : (s.updDie d f).turn = s.turn := rfl
@[simp] theorem State.updDie_outbox (s : State) (d : Nat) (f : Die → Die) : (s.updDie d f).outbox = s.outbox := rfl
@[simp] theorem State.updDie_fresh (s : State) (d : Nat) (f : Die → Die) : (s.updDie d f).fresh = s.fresh := rfl

/-! ## `State.updCtl` -/

@[simp] theorem State.updCtl_clock (s : State) (f : Control → Control) : (s.updCtl f).clock = s.clock := rfl
@[simp] theorem State.updCtl_mem (s : State) (f : Control → Control) : (s.updCtl f).mem = s.mem := rfl
@[simp] theorem State.updCtl_backing (s : State) (f : Control → Control) : (s.updCtl f).backing = s.backing := rfl
@[simp] theorem State.updCtl_poison (s : State) (f : Control → Control) : (s.updCtl f).poison = s.poison := rfl
@[simp] theorem State.updCtl_intervals (s : State) (f : Control → Control) : (s.updCtl f).intervals = s.intervals := rfl
@[simp] theorem State.updCtl_cores (s : State) (f : Control → Control) : (s.updCtl f).cores = s.cores := rfl
@[simp] theorem State.updCtl_clusters (s : State) (f : Control → Control) : (s.updCtl f).clusters = s.clusters := rfl
@[simp] theorem State.updCtl_dies (s : State) (f : Control → Control) : (s.updCtl f).dies = s.dies := rfl
@[simp] theorem State.updCtl_grids (s : State) (f : Control → Control) : (s.updCtl f).grids = s.grids := rfl
@[simp] theorem State.updCtl_nextGrid (s : State) (f : Control → Control) : (s.updCtl f).nextGrid = s.nextGrid := rfl
@[simp] theorem State.updCtl_futures (s : State) (f : Control → Control) : (s.updCtl f).futures = s.futures := rfl
@[simp] theorem State.updCtl_nextFuture (s : State) (f : Control → Control) : (s.updCtl f).nextFuture = s.nextFuture := rfl
@[simp] theorem State.updCtl_commands (s : State) (f : Control → Control) : (s.updCtl f).commands = s.commands := rfl
@[simp] theorem State.updCtl_nextCommand (s : State) (f : Control → Control) : (s.updCtl f).nextCommand = s.nextCommand := rfl
@[simp] theorem State.updCtl_nextOp (s : State) (f : Control → Control) : (s.updCtl f).nextOp = s.nextOp := rfl
@[simp] theorem State.updCtl_agenda (s : State) (f : Control → Control) : (s.updCtl f).agenda = s.agenda := rfl
@[simp] theorem State.updCtl_inputs (s : State) (f : Control → Control) : (s.updCtl f).inputs = s.inputs := rfl
@[simp] theorem State.updCtl_issue (s : State) (f : Control → Control) : (s.updCtl f).issue = s.issue := rfl
@[simp] theorem State.updCtl_cur (s : State) (f : Control → Control) : (s.updCtl f).cur = s.cur := rfl
@[simp] theorem State.updCtl_turn (s : State) (f : Control → Control) : (s.updCtl f).turn = s.turn := rfl
@[simp] theorem State.updCtl_outbox (s : State) (f : Control → Control) : (s.updCtl f).outbox = s.outbox := rfl
@[simp] theorem State.updCtl_fresh (s : State) (f : Control → Control) : (s.updCtl f).fresh = s.fresh := rfl

/-! ## `State.putHolder` -/

@[simp] theorem State.putHolder_clock (s : State) (g q : Nat) (h : Holder) : (s.putHolder g q h).clock = s.clock := rfl
@[simp] theorem State.putHolder_mem (s : State) (g q : Nat) (h : Holder) : (s.putHolder g q h).mem = s.mem := rfl
@[simp] theorem State.putHolder_backing (s : State) (g q : Nat) (h : Holder) : (s.putHolder g q h).backing = s.backing := rfl
@[simp] theorem State.putHolder_poison (s : State) (g q : Nat) (h : Holder) : (s.putHolder g q h).poison = s.poison := rfl
@[simp] theorem State.putHolder_intervals (s : State) (g q : Nat) (h : Holder) : (s.putHolder g q h).intervals = s.intervals := rfl
@[simp] theorem State.putHolder_clusters (s : State) (g q : Nat) (h : Holder) : (s.putHolder g q h).clusters = s.clusters := rfl
@[simp] theorem State.putHolder_dies (s : State) (g q : Nat) (h : Holder) : (s.putHolder g q h).dies = s.dies := rfl
@[simp] theorem State.putHolder_ctl (s : State) (g q : Nat) (h : Holder) : (s.putHolder g q h).ctl = s.ctl := rfl
@[simp] theorem State.putHolder_grids (s : State) (g q : Nat) (h : Holder) : (s.putHolder g q h).grids = s.grids := rfl
@[simp] theorem State.putHolder_nextGrid (s : State) (g q : Nat) (h : Holder) : (s.putHolder g q h).nextGrid = s.nextGrid := rfl
@[simp] theorem State.putHolder_futures (s : State) (g q : Nat) (h : Holder) : (s.putHolder g q h).futures = s.futures := rfl
@[simp] theorem State.putHolder_nextFuture (s : State) (g q : Nat) (h : Holder) : (s.putHolder g q h).nextFuture = s.nextFuture := rfl
@[simp] theorem State.putHolder_commands (s : State) (g q : Nat) (h : Holder) : (s.putHolder g q h).commands = s.commands := rfl
@[simp] theorem State.putHolder_nextCommand (s : State) (g q : Nat) (h : Holder) : (s.putHolder g q h).nextCommand = s.nextCommand := rfl
@[simp] theorem State.putHolder_nextOp (s : State) (g q : Nat) (h : Holder) : (s.putHolder g q h).nextOp = s.nextOp := rfl
@[simp] theorem State.putHolder_agenda (s : State) (g q : Nat) (h : Holder) : (s.putHolder g q h).agenda = s.agenda := rfl
@[simp] theorem State.putHolder_inputs (s : State) (g q : Nat) (h : Holder) : (s.putHolder g q h).inputs = s.inputs := rfl
@[simp] theorem State.putHolder_issue (s : State) (g q : Nat) (h : Holder) : (s.putHolder g q h).issue = s.issue := rfl
@[simp] theorem State.putHolder_cur (s : State) (g q : Nat) (h : Holder) : (s.putHolder g q h).cur = s.cur := rfl
@[simp] theorem State.putHolder_turn (s : State) (g q : Nat) (h : Holder) : (s.putHolder g q h).turn = s.turn := rfl
@[simp] theorem State.putHolder_outbox (s : State) (g q : Nat) (h : Holder) : (s.putHolder g q h).outbox = s.outbox := rfl
@[simp] theorem State.putHolder_fresh (s : State) (g q : Nat) (h : Holder) : (s.putHolder g q h).fresh = s.fresh := rfl

/-! ## `State.push` -/

@[simp] theorem State.push_clock (s : State) (is : List Event) : (s.push is).clock = s.clock := rfl
@[simp] theorem State.push_mem (s : State) (is : List Event) : (s.push is).mem = s.mem := rfl
@[simp] theorem State.push_backing (s : State) (is : List Event) : (s.push is).backing = s.backing := rfl
@[simp] theorem State.push_poison (s : State) (is : List Event) : (s.push is).poison = s.poison := rfl
@[simp] theorem State.push_intervals (s : State) (is : List Event) : (s.push is).intervals = s.intervals := rfl
@[simp] theorem State.push_cores (s : State) (is : List Event) : (s.push is).cores = s.cores := rfl
@[simp] theorem State.push_clusters (s : State) (is : List Event) : (s.push is).clusters = s.clusters := rfl
@[simp] theorem State.push_dies (s : State) (is : List Event) : (s.push is).dies = s.dies := rfl
@[simp] theorem State.push_ctl (s : State) (is : List Event) : (s.push is).ctl = s.ctl := rfl
@[simp] theorem State.push_grids (s : State) (is : List Event) : (s.push is).grids = s.grids := rfl
@[simp] theorem State.push_nextGrid (s : State) (is : List Event) : (s.push is).nextGrid = s.nextGrid := rfl
@[simp] theorem State.push_futures (s : State) (is : List Event) : (s.push is).futures = s.futures := rfl
@[simp] theorem State.push_nextFuture (s : State) (is : List Event) : (s.push is).nextFuture = s.nextFuture := rfl
@[simp] theorem State.push_commands (s : State) (is : List Event) : (s.push is).commands = s.commands := rfl
@[simp] theorem State.push_nextCommand (s : State) (is : List Event) : (s.push is).nextCommand = s.nextCommand := rfl
@[simp] theorem State.push_nextOp (s : State) (is : List Event) : (s.push is).nextOp = s.nextOp := rfl
@[simp] theorem State.push_inputs (s : State) (is : List Event) : (s.push is).inputs = s.inputs := rfl
@[simp] theorem State.push_issue (s : State) (is : List Event) : (s.push is).issue = s.issue := rfl
@[simp] theorem State.push_cur (s : State) (is : List Event) : (s.push is).cur = s.cur := rfl
@[simp] theorem State.push_turn (s : State) (is : List Event) : (s.push is).turn = s.turn := rfl
@[simp] theorem State.push_outbox (s : State) (is : List Event) : (s.push is).outbox = s.outbox := rfl
@[simp] theorem State.push_fresh (s : State) (is : List Event) : (s.push is).fresh = s.fresh := rfl

/-! ## `State.send` -/

@[simp] theorem State.send_clock (s : State) (m : OutMsg) : (s.send m).clock = s.clock := rfl
@[simp] theorem State.send_mem (s : State) (m : OutMsg) : (s.send m).mem = s.mem := rfl
@[simp] theorem State.send_backing (s : State) (m : OutMsg) : (s.send m).backing = s.backing := rfl
@[simp] theorem State.send_poison (s : State) (m : OutMsg) : (s.send m).poison = s.poison := rfl
@[simp] theorem State.send_intervals (s : State) (m : OutMsg) : (s.send m).intervals = s.intervals := rfl
@[simp] theorem State.send_cores (s : State) (m : OutMsg) : (s.send m).cores = s.cores := rfl
@[simp] theorem State.send_clusters (s : State) (m : OutMsg) : (s.send m).clusters = s.clusters := rfl
@[simp] theorem State.send_dies (s : State) (m : OutMsg) : (s.send m).dies = s.dies := rfl
@[simp] theorem State.send_ctl (s : State) (m : OutMsg) : (s.send m).ctl = s.ctl := rfl
@[simp] theorem State.send_grids (s : State) (m : OutMsg) : (s.send m).grids = s.grids := rfl
@[simp] theorem State.send_nextGrid (s : State) (m : OutMsg) : (s.send m).nextGrid = s.nextGrid := rfl
@[simp] theorem State.send_futures (s : State) (m : OutMsg) : (s.send m).futures = s.futures := rfl
@[simp] theorem State.send_nextFuture (s : State) (m : OutMsg) : (s.send m).nextFuture = s.nextFuture := rfl
@[simp] theorem State.send_commands (s : State) (m : OutMsg) : (s.send m).commands = s.commands := rfl
@[simp] theorem State.send_nextCommand (s : State) (m : OutMsg) : (s.send m).nextCommand = s.nextCommand := rfl
@[simp] theorem State.send_nextOp (s : State) (m : OutMsg) : (s.send m).nextOp = s.nextOp := rfl
@[simp] theorem State.send_agenda (s : State) (m : OutMsg) : (s.send m).agenda = s.agenda := rfl
@[simp] theorem State.send_inputs (s : State) (m : OutMsg) : (s.send m).inputs = s.inputs := rfl
@[simp] theorem State.send_issue (s : State) (m : OutMsg) : (s.send m).issue = s.issue := rfl
@[simp] theorem State.send_cur (s : State) (m : OutMsg) : (s.send m).cur = s.cur := rfl
@[simp] theorem State.send_turn (s : State) (m : OutMsg) : (s.send m).turn = s.turn := rfl
@[simp] theorem State.send_fresh (s : State) (m : OutMsg) : (s.send m).fresh = s.fresh := rfl

/-! ## `State.useFresh` -/

@[simp] theorem State.useFresh_clock (s : State) : (s.useFresh).clock = s.clock := rfl
@[simp] theorem State.useFresh_mem (s : State) : (s.useFresh).mem = s.mem := rfl
@[simp] theorem State.useFresh_backing (s : State) : (s.useFresh).backing = s.backing := rfl
@[simp] theorem State.useFresh_poison (s : State) : (s.useFresh).poison = s.poison := rfl
@[simp] theorem State.useFresh_intervals (s : State) : (s.useFresh).intervals = s.intervals := rfl
@[simp] theorem State.useFresh_cores (s : State) : (s.useFresh).cores = s.cores := rfl
@[simp] theorem State.useFresh_clusters (s : State) : (s.useFresh).clusters = s.clusters := rfl
@[simp] theorem State.useFresh_dies (s : State) : (s.useFresh).dies = s.dies := rfl
@[simp] theorem State.useFresh_ctl (s : State) : (s.useFresh).ctl = s.ctl := rfl
@[simp] theorem State.useFresh_grids (s : State) : (s.useFresh).grids = s.grids := rfl
@[simp] theorem State.useFresh_nextGrid (s : State) : (s.useFresh).nextGrid = s.nextGrid := rfl
@[simp] theorem State.useFresh_futures (s : State) : (s.useFresh).futures = s.futures := rfl
@[simp] theorem State.useFresh_nextFuture (s : State) : (s.useFresh).nextFuture = s.nextFuture := rfl
@[simp] theorem State.useFresh_commands (s : State) : (s.useFresh).commands = s.commands := rfl
@[simp] theorem State.useFresh_nextCommand (s : State) : (s.useFresh).nextCommand = s.nextCommand := rfl
@[simp] theorem State.useFresh_nextOp (s : State) : (s.useFresh).nextOp = s.nextOp := rfl
@[simp] theorem State.useFresh_agenda (s : State) : (s.useFresh).agenda = s.agenda := rfl
@[simp] theorem State.useFresh_inputs (s : State) : (s.useFresh).inputs = s.inputs := rfl
@[simp] theorem State.useFresh_issue (s : State) : (s.useFresh).issue = s.issue := rfl
@[simp] theorem State.useFresh_cur (s : State) : (s.useFresh).cur = s.cur := rfl
@[simp] theorem State.useFresh_turn (s : State) : (s.useFresh).turn = s.turn := rfl
@[simp] theorem State.useFresh_outbox (s : State) : (s.useFresh).outbox = s.outbox := rfl

/-! ## `State.countIssue` -/

@[simp] theorem State.countIssue_clock (s : State) (g q : Nat) : (s.countIssue g q).clock = s.clock := rfl
@[simp] theorem State.countIssue_mem (s : State) (g q : Nat) : (s.countIssue g q).mem = s.mem := rfl
@[simp] theorem State.countIssue_backing (s : State) (g q : Nat) : (s.countIssue g q).backing = s.backing := rfl
@[simp] theorem State.countIssue_poison (s : State) (g q : Nat) : (s.countIssue g q).poison = s.poison := rfl
@[simp] theorem State.countIssue_intervals (s : State) (g q : Nat) : (s.countIssue g q).intervals = s.intervals := rfl
@[simp] theorem State.countIssue_clusters (s : State) (g q : Nat) : (s.countIssue g q).clusters = s.clusters := rfl
@[simp] theorem State.countIssue_dies (s : State) (g q : Nat) : (s.countIssue g q).dies = s.dies := rfl
@[simp] theorem State.countIssue_ctl (s : State) (g q : Nat) : (s.countIssue g q).ctl = s.ctl := rfl
@[simp] theorem State.countIssue_grids (s : State) (g q : Nat) : (s.countIssue g q).grids = s.grids := rfl
@[simp] theorem State.countIssue_nextGrid (s : State) (g q : Nat) : (s.countIssue g q).nextGrid = s.nextGrid := rfl
@[simp] theorem State.countIssue_futures (s : State) (g q : Nat) : (s.countIssue g q).futures = s.futures := rfl
@[simp] theorem State.countIssue_nextFuture (s : State) (g q : Nat) : (s.countIssue g q).nextFuture = s.nextFuture := rfl
@[simp] theorem State.countIssue_commands (s : State) (g q : Nat) : (s.countIssue g q).commands = s.commands := rfl
@[simp] theorem State.countIssue_nextCommand (s : State) (g q : Nat) : (s.countIssue g q).nextCommand = s.nextCommand := rfl
@[simp] theorem State.countIssue_nextOp (s : State) (g q : Nat) : (s.countIssue g q).nextOp = s.nextOp := rfl
@[simp] theorem State.countIssue_agenda (s : State) (g q : Nat) : (s.countIssue g q).agenda = s.agenda := rfl
@[simp] theorem State.countIssue_inputs (s : State) (g q : Nat) : (s.countIssue g q).inputs = s.inputs := rfl
@[simp] theorem State.countIssue_issue (s : State) (g q : Nat) : (s.countIssue g q).issue = s.issue := rfl
@[simp] theorem State.countIssue_cur (s : State) (g q : Nat) : (s.countIssue g q).cur = s.cur := rfl
@[simp] theorem State.countIssue_turn (s : State) (g q : Nat) : (s.countIssue g q).turn = s.turn := rfl
@[simp] theorem State.countIssue_outbox (s : State) (g q : Nat) : (s.countIssue g q).outbox = s.outbox := rfl
@[simp] theorem State.countIssue_fresh (s : State) (g q : Nat) : (s.countIssue g q).fresh = s.fresh := rfl

/-! ## `State.issued` -/

@[simp] theorem State.issued_clock (s : State) (g q : Nat) (h : Holder) : (s.issued g q h).clock = s.clock := rfl
@[simp] theorem State.issued_mem (s : State) (g q : Nat) (h : Holder) : (s.issued g q h).mem = s.mem := rfl
@[simp] theorem State.issued_backing (s : State) (g q : Nat) (h : Holder) : (s.issued g q h).backing = s.backing := rfl
@[simp] theorem State.issued_poison (s : State) (g q : Nat) (h : Holder) : (s.issued g q h).poison = s.poison := rfl
@[simp] theorem State.issued_intervals (s : State) (g q : Nat) (h : Holder) : (s.issued g q h).intervals = s.intervals := rfl
@[simp] theorem State.issued_clusters (s : State) (g q : Nat) (h : Holder) : (s.issued g q h).clusters = s.clusters := rfl
@[simp] theorem State.issued_dies (s : State) (g q : Nat) (h : Holder) : (s.issued g q h).dies = s.dies := rfl
@[simp] theorem State.issued_ctl (s : State) (g q : Nat) (h : Holder) : (s.issued g q h).ctl = s.ctl := rfl
@[simp] theorem State.issued_grids (s : State) (g q : Nat) (h : Holder) : (s.issued g q h).grids = s.grids := rfl
@[simp] theorem State.issued_nextGrid (s : State) (g q : Nat) (h : Holder) : (s.issued g q h).nextGrid = s.nextGrid := rfl
@[simp] theorem State.issued_futures (s : State) (g q : Nat) (h : Holder) : (s.issued g q h).futures = s.futures := rfl
@[simp] theorem State.issued_nextFuture (s : State) (g q : Nat) (h : Holder) : (s.issued g q h).nextFuture = s.nextFuture := rfl
@[simp] theorem State.issued_commands (s : State) (g q : Nat) (h : Holder) : (s.issued g q h).commands = s.commands := rfl
@[simp] theorem State.issued_nextCommand (s : State) (g q : Nat) (h : Holder) : (s.issued g q h).nextCommand = s.nextCommand := rfl
@[simp] theorem State.issued_nextOp (s : State) (g q : Nat) (h : Holder) : (s.issued g q h).nextOp = s.nextOp := rfl
@[simp] theorem State.issued_agenda (s : State) (g q : Nat) (h : Holder) : (s.issued g q h).agenda = s.agenda := rfl
@[simp] theorem State.issued_inputs (s : State) (g q : Nat) (h : Holder) : (s.issued g q h).inputs = s.inputs := rfl
@[simp] theorem State.issued_issue (s : State) (g q : Nat) (h : Holder) : (s.issued g q h).issue = s.issue := rfl
@[simp] theorem State.issued_cur (s : State) (g q : Nat) (h : Holder) : (s.issued g q h).cur = s.cur := rfl
@[simp] theorem State.issued_turn (s : State) (g q : Nat) (h : Holder) : (s.issued g q h).turn = s.turn := rfl
@[simp] theorem State.issued_outbox (s : State) (g q : Nat) (h : Holder) : (s.issued g q h).outbox = s.outbox := rfl
@[simp] theorem State.issued_fresh (s : State) (g q : Nat) (h : Holder) : (s.issued g q h).fresh = s.fresh := rfl

/-! ## `State.flow` -/

@[simp] theorem State.flow_clock (s : State) (g q : Nat) (h : Holder) (i : Instr) (own : Option Nat) : (s.flow g q h i own).clock = s.clock := rfl
@[simp] theorem State.flow_mem (s : State) (g q : Nat) (h : Holder) (i : Instr) (own : Option Nat) : (s.flow g q h i own).mem = s.mem := rfl
@[simp] theorem State.flow_backing (s : State) (g q : Nat) (h : Holder) (i : Instr) (own : Option Nat) : (s.flow g q h i own).backing = s.backing := rfl
@[simp] theorem State.flow_poison (s : State) (g q : Nat) (h : Holder) (i : Instr) (own : Option Nat) : (s.flow g q h i own).poison = s.poison := rfl
@[simp] theorem State.flow_intervals (s : State) (g q : Nat) (h : Holder) (i : Instr) (own : Option Nat) : (s.flow g q h i own).intervals = s.intervals := rfl
@[simp] theorem State.flow_clusters (s : State) (g q : Nat) (h : Holder) (i : Instr) (own : Option Nat) : (s.flow g q h i own).clusters = s.clusters := rfl
@[simp] theorem State.flow_dies (s : State) (g q : Nat) (h : Holder) (i : Instr) (own : Option Nat) : (s.flow g q h i own).dies = s.dies := rfl
@[simp] theorem State.flow_ctl (s : State) (g q : Nat) (h : Holder) (i : Instr) (own : Option Nat) : (s.flow g q h i own).ctl = s.ctl := rfl
@[simp] theorem State.flow_grids (s : State) (g q : Nat) (h : Holder) (i : Instr) (own : Option Nat) : (s.flow g q h i own).grids = s.grids := rfl
@[simp] theorem State.flow_nextGrid (s : State) (g q : Nat) (h : Holder) (i : Instr) (own : Option Nat) : (s.flow g q h i own).nextGrid = s.nextGrid := rfl
@[simp] theorem State.flow_futures (s : State) (g q : Nat) (h : Holder) (i : Instr) (own : Option Nat) : (s.flow g q h i own).futures = s.futures := rfl
@[simp] theorem State.flow_nextFuture (s : State) (g q : Nat) (h : Holder) (i : Instr) (own : Option Nat) : (s.flow g q h i own).nextFuture = s.nextFuture := rfl
@[simp] theorem State.flow_commands (s : State) (g q : Nat) (h : Holder) (i : Instr) (own : Option Nat) : (s.flow g q h i own).commands = s.commands := rfl
@[simp] theorem State.flow_nextCommand (s : State) (g q : Nat) (h : Holder) (i : Instr) (own : Option Nat) : (s.flow g q h i own).nextCommand = s.nextCommand := rfl
@[simp] theorem State.flow_nextOp (s : State) (g q : Nat) (h : Holder) (i : Instr) (own : Option Nat) : (s.flow g q h i own).nextOp = s.nextOp := rfl
@[simp] theorem State.flow_agenda (s : State) (g q : Nat) (h : Holder) (i : Instr) (own : Option Nat) : (s.flow g q h i own).agenda = s.agenda := rfl
@[simp] theorem State.flow_inputs (s : State) (g q : Nat) (h : Holder) (i : Instr) (own : Option Nat) : (s.flow g q h i own).inputs = s.inputs := rfl
@[simp] theorem State.flow_issue (s : State) (g q : Nat) (h : Holder) (i : Instr) (own : Option Nat) : (s.flow g q h i own).issue = s.issue := rfl
@[simp] theorem State.flow_cur (s : State) (g q : Nat) (h : Holder) (i : Instr) (own : Option Nat) : (s.flow g q h i own).cur = s.cur := rfl
@[simp] theorem State.flow_turn (s : State) (g q : Nat) (h : Holder) (i : Instr) (own : Option Nat) : (s.flow g q h i own).turn = s.turn := rfl
@[simp] theorem State.flow_outbox (s : State) (g q : Nat) (h : Holder) (i : Instr) (own : Option Nat) : (s.flow g q h i own).outbox = s.outbox := rfl
@[simp] theorem State.flow_fresh (s : State) (g q : Nat) (h : Holder) (i : Instr) (own : Option Nat) : (s.flow g q h i own).fresh = s.fresh := rfl

/-! ## `State.retire` -/

@[simp] theorem State.retire_clock (s : State) (g q : Nat) (i : Instr) (h : Holder) : (s.retire g q i h).clock = s.clock := rfl
@[simp] theorem State.retire_mem (s : State) (g q : Nat) (i : Instr) (h : Holder) : (s.retire g q i h).mem = s.mem := rfl
@[simp] theorem State.retire_backing (s : State) (g q : Nat) (i : Instr) (h : Holder) : (s.retire g q i h).backing = s.backing := rfl
@[simp] theorem State.retire_poison (s : State) (g q : Nat) (i : Instr) (h : Holder) : (s.retire g q i h).poison = s.poison := rfl
@[simp] theorem State.retire_intervals (s : State) (g q : Nat) (i : Instr) (h : Holder) : (s.retire g q i h).intervals = s.intervals := rfl
@[simp] theorem State.retire_clusters (s : State) (g q : Nat) (i : Instr) (h : Holder) : (s.retire g q i h).clusters = s.clusters := rfl
@[simp] theorem State.retire_dies (s : State) (g q : Nat) (i : Instr) (h : Holder) : (s.retire g q i h).dies = s.dies := rfl
@[simp] theorem State.retire_ctl (s : State) (g q : Nat) (i : Instr) (h : Holder) : (s.retire g q i h).ctl = s.ctl := rfl
@[simp] theorem State.retire_grids (s : State) (g q : Nat) (i : Instr) (h : Holder) : (s.retire g q i h).grids = s.grids := rfl
@[simp] theorem State.retire_nextGrid (s : State) (g q : Nat) (i : Instr) (h : Holder) : (s.retire g q i h).nextGrid = s.nextGrid := rfl
@[simp] theorem State.retire_futures (s : State) (g q : Nat) (i : Instr) (h : Holder) : (s.retire g q i h).futures = s.futures := rfl
@[simp] theorem State.retire_nextFuture (s : State) (g q : Nat) (i : Instr) (h : Holder) : (s.retire g q i h).nextFuture = s.nextFuture := rfl
@[simp] theorem State.retire_commands (s : State) (g q : Nat) (i : Instr) (h : Holder) : (s.retire g q i h).commands = s.commands := rfl
@[simp] theorem State.retire_nextCommand (s : State) (g q : Nat) (i : Instr) (h : Holder) : (s.retire g q i h).nextCommand = s.nextCommand := rfl
@[simp] theorem State.retire_nextOp (s : State) (g q : Nat) (i : Instr) (h : Holder) : (s.retire g q i h).nextOp = s.nextOp := rfl
@[simp] theorem State.retire_agenda (s : State) (g q : Nat) (i : Instr) (h : Holder) : (s.retire g q i h).agenda = s.agenda := rfl
@[simp] theorem State.retire_inputs (s : State) (g q : Nat) (i : Instr) (h : Holder) : (s.retire g q i h).inputs = s.inputs := rfl
@[simp] theorem State.retire_issue (s : State) (g q : Nat) (i : Instr) (h : Holder) : (s.retire g q i h).issue = s.issue := rfl
@[simp] theorem State.retire_cur (s : State) (g q : Nat) (i : Instr) (h : Holder) : (s.retire g q i h).cur = s.cur := rfl
@[simp] theorem State.retire_turn (s : State) (g q : Nat) (i : Instr) (h : Holder) : (s.retire g q i h).turn = s.turn := rfl
@[simp] theorem State.retire_outbox (s : State) (g q : Nat) (i : Instr) (h : Holder) : (s.retire g q i h).outbox = s.outbox := rfl
@[simp] theorem State.retire_fresh (s : State) (g q : Nat) (i : Instr) (h : Holder) : (s.retire g q i h).fresh = s.fresh := rfl

/-! ## `State.block` -/

@[simp] theorem State.block_clock (s : State) (g q : Nat) (h : Holder) (w : Wait) : (s.block g q h w).clock = s.clock := rfl
@[simp] theorem State.block_mem (s : State) (g q : Nat) (h : Holder) (w : Wait) : (s.block g q h w).mem = s.mem := rfl
@[simp] theorem State.block_backing (s : State) (g q : Nat) (h : Holder) (w : Wait) : (s.block g q h w).backing = s.backing := rfl
@[simp] theorem State.block_poison (s : State) (g q : Nat) (h : Holder) (w : Wait) : (s.block g q h w).poison = s.poison := rfl
@[simp] theorem State.block_intervals (s : State) (g q : Nat) (h : Holder) (w : Wait) : (s.block g q h w).intervals = s.intervals := rfl
@[simp] theorem State.block_clusters (s : State) (g q : Nat) (h : Holder) (w : Wait) : (s.block g q h w).clusters = s.clusters := rfl
@[simp] theorem State.block_dies (s : State) (g q : Nat) (h : Holder) (w : Wait) : (s.block g q h w).dies = s.dies := rfl
@[simp] theorem State.block_ctl (s : State) (g q : Nat) (h : Holder) (w : Wait) : (s.block g q h w).ctl = s.ctl := rfl
@[simp] theorem State.block_grids (s : State) (g q : Nat) (h : Holder) (w : Wait) : (s.block g q h w).grids = s.grids := rfl
@[simp] theorem State.block_nextGrid (s : State) (g q : Nat) (h : Holder) (w : Wait) : (s.block g q h w).nextGrid = s.nextGrid := rfl
@[simp] theorem State.block_futures (s : State) (g q : Nat) (h : Holder) (w : Wait) : (s.block g q h w).futures = s.futures := rfl
@[simp] theorem State.block_nextFuture (s : State) (g q : Nat) (h : Holder) (w : Wait) : (s.block g q h w).nextFuture = s.nextFuture := rfl
@[simp] theorem State.block_commands (s : State) (g q : Nat) (h : Holder) (w : Wait) : (s.block g q h w).commands = s.commands := rfl
@[simp] theorem State.block_nextCommand (s : State) (g q : Nat) (h : Holder) (w : Wait) : (s.block g q h w).nextCommand = s.nextCommand := rfl
@[simp] theorem State.block_nextOp (s : State) (g q : Nat) (h : Holder) (w : Wait) : (s.block g q h w).nextOp = s.nextOp := rfl
@[simp] theorem State.block_agenda (s : State) (g q : Nat) (h : Holder) (w : Wait) : (s.block g q h w).agenda = s.agenda := rfl
@[simp] theorem State.block_inputs (s : State) (g q : Nat) (h : Holder) (w : Wait) : (s.block g q h w).inputs = s.inputs := rfl
@[simp] theorem State.block_issue (s : State) (g q : Nat) (h : Holder) (w : Wait) : (s.block g q h w).issue = s.issue := rfl
@[simp] theorem State.block_cur (s : State) (g q : Nat) (h : Holder) (w : Wait) : (s.block g q h w).cur = s.cur := rfl
@[simp] theorem State.block_turn (s : State) (g q : Nat) (h : Holder) (w : Wait) : (s.block g q h w).turn = s.turn := rfl
@[simp] theorem State.block_outbox (s : State) (g q : Nat) (h : Holder) (w : Wait) : (s.block g q h w).outbox = s.outbox := rfl
@[simp] theorem State.block_fresh (s : State) (g q : Nat) (h : Holder) (w : Wait) : (s.block g q h w).fresh = s.fresh := rfl

/-! ## `State.unsync` -/

@[simp] theorem State.unsync_clock (s : State) (g q : Nat) : (s.unsync g q).clock = s.clock := rfl
@[simp] theorem State.unsync_mem (s : State) (g q : Nat) : (s.unsync g q).mem = s.mem := rfl
@[simp] theorem State.unsync_backing (s : State) (g q : Nat) : (s.unsync g q).backing = s.backing := rfl
@[simp] theorem State.unsync_poison (s : State) (g q : Nat) : (s.unsync g q).poison = s.poison := rfl
@[simp] theorem State.unsync_intervals (s : State) (g q : Nat) : (s.unsync g q).intervals = s.intervals := rfl
@[simp] theorem State.unsync_clusters (s : State) (g q : Nat) : (s.unsync g q).clusters = s.clusters := rfl
@[simp] theorem State.unsync_dies (s : State) (g q : Nat) : (s.unsync g q).dies = s.dies := rfl
@[simp] theorem State.unsync_ctl (s : State) (g q : Nat) : (s.unsync g q).ctl = s.ctl := rfl
@[simp] theorem State.unsync_grids (s : State) (g q : Nat) : (s.unsync g q).grids = s.grids := rfl
@[simp] theorem State.unsync_nextGrid (s : State) (g q : Nat) : (s.unsync g q).nextGrid = s.nextGrid := rfl
@[simp] theorem State.unsync_futures (s : State) (g q : Nat) : (s.unsync g q).futures = s.futures := rfl
@[simp] theorem State.unsync_nextFuture (s : State) (g q : Nat) : (s.unsync g q).nextFuture = s.nextFuture := rfl
@[simp] theorem State.unsync_commands (s : State) (g q : Nat) : (s.unsync g q).commands = s.commands := rfl
@[simp] theorem State.unsync_nextCommand (s : State) (g q : Nat) : (s.unsync g q).nextCommand = s.nextCommand := rfl
@[simp] theorem State.unsync_nextOp (s : State) (g q : Nat) : (s.unsync g q).nextOp = s.nextOp := rfl
@[simp] theorem State.unsync_agenda (s : State) (g q : Nat) : (s.unsync g q).agenda = s.agenda := rfl
@[simp] theorem State.unsync_inputs (s : State) (g q : Nat) : (s.unsync g q).inputs = s.inputs := rfl
@[simp] theorem State.unsync_issue (s : State) (g q : Nat) : (s.unsync g q).issue = s.issue := rfl
@[simp] theorem State.unsync_cur (s : State) (g q : Nat) : (s.unsync g q).cur = s.cur := rfl
@[simp] theorem State.unsync_turn (s : State) (g q : Nat) : (s.unsync g q).turn = s.turn := rfl
@[simp] theorem State.unsync_outbox (s : State) (g q : Nat) : (s.unsync g q).outbox = s.outbox := rfl
@[simp] theorem State.unsync_fresh (s : State) (g q : Nat) : (s.unsync g q).fresh = s.fresh := rfl

/-! ## `State.updGrid` -/

@[simp] theorem State.updGrid_clock (s : State) (n : Nat) (f : Grid → Grid) : (s.updGrid n f).clock = s.clock := by
  unfold State.updGrid; split <;> rfl
@[simp] theorem State.updGrid_mem (s : State) (n : Nat) (f : Grid → Grid) : (s.updGrid n f).mem = s.mem := by
  unfold State.updGrid; split <;> rfl
@[simp] theorem State.updGrid_backing (s : State) (n : Nat) (f : Grid → Grid) : (s.updGrid n f).backing = s.backing := by
  unfold State.updGrid; split <;> rfl
@[simp] theorem State.updGrid_poison (s : State) (n : Nat) (f : Grid → Grid) : (s.updGrid n f).poison = s.poison := by
  unfold State.updGrid; split <;> rfl
@[simp] theorem State.updGrid_intervals (s : State) (n : Nat) (f : Grid → Grid) : (s.updGrid n f).intervals = s.intervals := by
  unfold State.updGrid; split <;> rfl
@[simp] theorem State.updGrid_cores (s : State) (n : Nat) (f : Grid → Grid) : (s.updGrid n f).cores = s.cores := by
  unfold State.updGrid; split <;> rfl
@[simp] theorem State.updGrid_clusters (s : State) (n : Nat) (f : Grid → Grid) : (s.updGrid n f).clusters = s.clusters := by
  unfold State.updGrid; split <;> rfl
@[simp] theorem State.updGrid_dies (s : State) (n : Nat) (f : Grid → Grid) : (s.updGrid n f).dies = s.dies := by
  unfold State.updGrid; split <;> rfl
@[simp] theorem State.updGrid_ctl (s : State) (n : Nat) (f : Grid → Grid) : (s.updGrid n f).ctl = s.ctl := by
  unfold State.updGrid; split <;> rfl
@[simp] theorem State.updGrid_nextGrid (s : State) (n : Nat) (f : Grid → Grid) : (s.updGrid n f).nextGrid = s.nextGrid := by
  unfold State.updGrid; split <;> rfl
@[simp] theorem State.updGrid_futures (s : State) (n : Nat) (f : Grid → Grid) : (s.updGrid n f).futures = s.futures := by
  unfold State.updGrid; split <;> rfl
@[simp] theorem State.updGrid_nextFuture (s : State) (n : Nat) (f : Grid → Grid) : (s.updGrid n f).nextFuture = s.nextFuture := by
  unfold State.updGrid; split <;> rfl
@[simp] theorem State.updGrid_commands (s : State) (n : Nat) (f : Grid → Grid) : (s.updGrid n f).commands = s.commands := by
  unfold State.updGrid; split <;> rfl
@[simp] theorem State.updGrid_nextCommand (s : State) (n : Nat) (f : Grid → Grid) : (s.updGrid n f).nextCommand = s.nextCommand := by
  unfold State.updGrid; split <;> rfl
@[simp] theorem State.updGrid_nextOp (s : State) (n : Nat) (f : Grid → Grid) : (s.updGrid n f).nextOp = s.nextOp := by
  unfold State.updGrid; split <;> rfl
@[simp] theorem State.updGrid_agenda (s : State) (n : Nat) (f : Grid → Grid) : (s.updGrid n f).agenda = s.agenda := by
  unfold State.updGrid; split <;> rfl
@[simp] theorem State.updGrid_inputs (s : State) (n : Nat) (f : Grid → Grid) : (s.updGrid n f).inputs = s.inputs := by
  unfold State.updGrid; split <;> rfl
@[simp] theorem State.updGrid_issue (s : State) (n : Nat) (f : Grid → Grid) : (s.updGrid n f).issue = s.issue := by
  unfold State.updGrid; split <;> rfl
@[simp] theorem State.updGrid_cur (s : State) (n : Nat) (f : Grid → Grid) : (s.updGrid n f).cur = s.cur := by
  unfold State.updGrid; split <;> rfl
@[simp] theorem State.updGrid_turn (s : State) (n : Nat) (f : Grid → Grid) : (s.updGrid n f).turn = s.turn := by
  unfold State.updGrid; split <;> rfl
@[simp] theorem State.updGrid_outbox (s : State) (n : Nat) (f : Grid → Grid) : (s.updGrid n f).outbox = s.outbox := by
  unfold State.updGrid; split <;> rfl
@[simp] theorem State.updGrid_fresh (s : State) (n : Nat) (f : Grid → Grid) : (s.updGrid n f).fresh = s.fresh := by
  unfold State.updGrid; split <;> rfl

/-! ## What the updates give -/

@[simp] theorem State.updCtl_ctl (s : State) (f : Control → Control) : (s.updCtl f).ctl = f s.ctl := rfl
@[simp] theorem State.push_agenda (s : State) (is : List Event) : (s.push is).agenda = s.agenda ++ is := rfl
@[simp] theorem State.send_outbox (s : State) (m : OutMsg) : (s.send m).outbox = s.outbox ++ [m] := rfl
@[simp] theorem State.useFresh_fresh (s : State) : s.useFresh.fresh = s.fresh + 1 := rfl

@[simp] theorem State.setCore_core_self (s : State) (g : Nat) (c : Core) : (s.setCore g c).core g = c := by
  simp [State.core, State.setCore]
theorem State.setCore_core_ne (s : State) (g k : Nat) (c : Core) (n : k ≠ g) : (s.setCore g c).core k = s.core k := by
  simp [State.core, State.setCore, AMap.getD_set_ne _ _ _ _ _ n]
@[simp] theorem State.updCore_core_self (s : State) (g : Nat) (f : Core → Core) :
    (s.updCore g f).core g = f (s.core g) := by
  simp [State.updCore]
theorem State.updCore_core_ne (s : State) (g k : Nat) (f : Core → Core) (n : k ≠ g) :
    (s.updCore g f).core k = s.core k := by
  simp [State.updCore, State.setCore_core_ne _ _ _ _ n]
@[simp] theorem State.updDie_die_self (s : State) (d : Nat) (f : Die → Die) : (s.updDie d f).die d = f (s.die d) := by
  simp [State.die, State.updDie]
theorem State.updDie_die_ne (s : State) (d k : Nat) (f : Die → Die) (n : k ≠ d) :
    (s.updDie d f).die k = s.die k := by
  simp [State.die, State.updDie, AMap.getD_set_ne _ _ _ _ _ n]
@[simp] theorem State.updCluster_cluster_self (s : State) (x : Nat) (f : Cluster → Cluster) :
    (s.updCluster x f).cluster x = f (s.cluster x) := by
  simp [State.cluster, State.updCluster]
theorem State.updCluster_cluster_ne (s : State) (x k : Nat) (f : Cluster → Cluster) (n : k ≠ x) :
    (s.updCluster x f).cluster k = s.cluster k := by
  simp [State.cluster, State.updCluster, AMap.getD_set_ne _ _ _ _ _ n]

/-! ## Holders -/

@[simp] theorem State.holder?_putHolder (s : State) (g q : Nat) (h : Holder) :
    (s.putHolder g q h).holder? g q = some h := by
  simp [State.holder?, State.putHolder]
theorem State.holder?_putHolder_ne (s : State) (g q k r : Nat) (h : Holder) (n : (k, r) ≠ (g, q)) :
    (s.putHolder g q h).holder? k r = s.holder? k r := by
  by_cases e : k = g
  · subst e
    have : r ≠ q := fun c => n (by rw [c])
    simp [State.holder?, State.putHolder, AMap.find?_set_ne _ _ _ _ this]
  · simp [State.holder?, State.putHolder, State.updCore_core_ne _ _ _ _ e]
@[simp] theorem State.holder?_countIssue (s : State) (g q k r : Nat) :
    (s.countIssue g q).holder? k r = s.holder? k r := by
  by_cases e : k = g
  · subst e; simp [State.holder?, State.countIssue]
  · simp [State.holder?, State.countIssue, State.updCore_core_ne _ _ _ _ e]
@[simp] theorem State.holder?_push (s : State) (is : List Event) (k r : Nat) :
    (s.push is).holder? k r = s.holder? k r := rfl
@[simp] theorem State.holder?_unsync (s : State) (g q k r : Nat) :
    (s.unsync g q).holder? k r = s.holder? k r := by
  by_cases e : k = g
  · subst e; simp [State.holder?, State.unsync]
  · simp [State.holder?, State.unsync, State.updCore_core_ne _ _ _ _ e]
@[simp] theorem State.holder?_updCtl (s : State) (f : Control → Control) (k r : Nat) :
    (s.updCtl f).holder? k r = s.holder? k r := rfl
@[simp] theorem State.holder?_updGrid (s : State) (n : Nat) (f : Grid → Grid) (k r : Nat) :
    (s.updGrid n f).holder? k r = s.holder? k r := by
  unfold State.updGrid; split <;> rfl
@[simp] theorem State.holder?_block (s : State) (g q : Nat) (h : Holder) (w : Wait) :
    (s.block g q h w).holder? g q = some { h with status := .blocked w } := by
  simp [State.block]
theorem State.holder?_issued_ne (s : State) (g q k r : Nat) (h : Holder) (n : (k, r) ≠ (g, q)) :
    (s.issued g q h).holder? k r = s.holder? k r := by
  simp [State.issued, State.holder?_putHolder_ne _ _ _ _ _ _ n]

/-- Single step is on for the slot, outside a handler (R478). -/
theorem State.holder?_issued (s : State) (g q : Nat) (h : Holder) :
    (s.issued g q h).holder? g q =
      some { h with stepping := h.stepping || (bitN (s.core g).dbg.dbgctl 3 && bitN (s.core g).dbg.dbgctl (32 + q) && !h.mode) } := by
  simp [State.issued]

/-! ## `Holder.jump`, `Holder.writeS`, `Holder.writeW` -/

@[simp] theorem Holder.jump_kind (h : Holder) (pc : Nat) : (h.jump pc).kind = h.kind := rfl
@[simp] theorem Holder.jump_grid (h : Holder) (pc : Nat) : (h.jump pc).grid = h.grid := rfl
@[simp] theorem Holder.jump_lo (h : Holder) (pc : Nat) : (h.jump pc).lo = h.lo := rfl
@[simp] theorem Holder.jump_hi (h : Holder) (pc : Nat) : (h.jump pc).hi = h.hi := rfl
@[simp] theorem Holder.jump_team (h : Holder) (pc : Nat) : (h.jump pc).team = h.team := rfl
@[simp] theorem Holder.jump_group (h : Holder) (pc : Nat) : (h.jump pc).group = h.group := rfl
@[simp] theorem Holder.jump_items (h : Holder) (pc : Nat) : (h.jump pc).items = h.items := rfl
@[simp] theorem Holder.jump_live (h : Holder) (pc : Nat) : (h.jump pc).live = h.live := rfl
@[simp] theorem Holder.jump_sregs (h : Holder) (pc : Nat) : (h.jump pc).sregs = h.sregs := rfl
@[simp] theorem Holder.jump_mask (h : Holder) (pc : Nat) : (h.jump pc).mask = h.mask := rfl
@[simp] theorem Holder.jump_path (h : Holder) (pc : Nat) : (h.jump pc).path = h.path := rfl
@[simp] theorem Holder.jump_stack (h : Holder) (pc : Nat) : (h.jump pc).stack = h.stack := rfl
@[simp] theorem Holder.jump_spilled (h : Holder) (pc : Nat) : (h.jump pc).spilled = h.spilled := rfl
@[simp] theorem Holder.jump_frames (h : Holder) (pc : Nat) : (h.jump pc).frames = h.frames := rfl
@[simp] theorem Holder.jump_frame (h : Holder) (pc : Nat) : (h.jump pc).frame = h.frame := rfl
@[simp] theorem Holder.jump_outFrames (h : Holder) (pc : Nat) : (h.jump pc).outFrames = h.outFrames := rfl
@[simp] theorem Holder.jump_vregs (h : Holder) (pc : Nat) : (h.jump pc).vregs = h.vregs := rfl
@[simp] theorem Holder.jump_ring (h : Holder) (pc : Nat) : (h.jump pc).ring = h.ring := rfl
@[simp] theorem Holder.jump_outGrans (h : Holder) (pc : Nat) : (h.jump pc).outGrans = h.outGrans := rfl
@[simp] theorem Holder.jump_preds (h : Holder) (pc : Nat) : (h.jump pc).preds = h.preds := rfl
@[simp] theorem Holder.jump_accs (h : Holder) (pc : Nat) : (h.jump pc).accs = h.accs := rfl
@[simp] theorem Holder.jump_shapes (h : Holder) (pc : Nat) : (h.jump pc).shapes = h.shapes := rfl
@[simp] theorem Holder.jump_gcodes (h : Holder) (pc : Nat) : (h.jump pc).gcodes = h.gcodes := rfl
@[simp] theorem Holder.jump_dcs (h : Holder) (pc : Nat) : (h.jump pc).dcs = h.dcs := rfl
@[simp] theorem Holder.jump_tags (h : Holder) (pc : Nat) : (h.jump pc).tags = h.tags := rfl
@[simp] theorem Holder.jump_writers (h : Holder) (pc : Nat) : (h.jump pc).writers = h.writers := rfl
@[simp] theorem Holder.jump_batchCount (h : Holder) (pc : Nat) : (h.jump pc).batchCount = h.batchCount := rfl
@[simp] theorem Holder.jump_openBatch (h : Holder) (pc : Nat) : (h.jump pc).openBatch = h.openBatch := rfl
@[simp] theorem Holder.jump_cmds (h : Holder) (pc : Nat) : (h.jump pc).cmds = h.cmds := rfl
@[simp] theorem Holder.jump_landed (h : Holder) (pc : Nat) : (h.jump pc).landed = h.landed := rfl
@[simp] theorem Holder.jump_batches (h : Holder) (pc : Nat) : (h.jump pc).batches = h.batches := rfl
@[simp] theorem Holder.jump_fflags (h : Holder) (pc : Nat) : (h.jump pc).fflags = h.fflags := rfl
@[simp] theorem Holder.jump_age (h : Holder) (pc : Nat) : (h.jump pc).age = h.age := rfl
@[simp] theorem Holder.jump_watchdog (h : Holder) (pc : Nat) : (h.jump pc).watchdog = h.watchdog := rfl
@[simp] theorem Holder.jump_deadline (h : Holder) (pc : Nat) : (h.jump pc).deadline = h.deadline := rfl
@[simp] theorem Holder.jump_mode (h : Holder) (pc : Nat) : (h.jump pc).mode = h.mode := rfl
@[simp] theorem Holder.jump_trapLane (h : Holder) (pc : Nat) : (h.jump pc).trapLane = h.trapLane := rfl
@[simp] theorem Holder.jump_tcause (h : Holder) (pc : Nat) : (h.jump pc).tcause = h.tcause := rfl
@[simp] theorem Holder.jump_tval (h : Holder) (pc : Nat) : (h.jump pc).tval = h.tval := rfl
@[simp] theorem Holder.jump_tpc (h : Holder) (pc : Nat) : (h.jump pc).tpc = h.tpc := rfl
@[simp] theorem Holder.jump_trapFrame (h : Holder) (pc : Nat) : (h.jump pc).trapFrame = h.trapFrame := rfl
@[simp] theorem Holder.jump_escFrame (h : Holder) (pc : Nat) : (h.jump pc).escFrame = h.escFrame := rfl
@[simp] theorem Holder.jump_framePC (h : Holder) (pc : Nat) : (h.jump pc).framePC = h.framePC := rfl
@[simp] theorem Holder.jump_frameDone (h : Holder) (pc : Nat) : (h.jump pc).frameDone = h.frameDone := rfl
@[simp] theorem Holder.jump_maskWrites (h : Holder) (pc : Nat) : (h.jump pc).maskWrites = h.maskWrites := rfl
@[simp] theorem Holder.jump_replay (h : Holder) (pc : Nat) : (h.jump pc).replay = h.replay := rfl
@[simp] theorem Holder.jump_replaying (h : Holder) (pc : Nat) : (h.jump pc).replaying = h.replaying := rfl
@[simp] theorem Holder.jump_replayPC (h : Holder) (pc : Nat) : (h.jump pc).replayPC = h.replayPC := rfl
@[simp] theorem Holder.jump_pend (h : Holder) (pc : Nat) : (h.jump pc).pend = h.pend := rfl
@[simp] theorem Holder.jump_nextIdx (h : Holder) (pc : Nat) : (h.jump pc).nextIdx = h.nextIdx := rfl
@[simp] theorem Holder.jump_ext (h : Holder) (pc : Nat) : (h.jump pc).ext = h.ext := rfl
@[simp] theorem Holder.jump_ev (h : Holder) (pc : Nat) : (h.jump pc).ev = h.ev := rfl
@[simp] theorem Holder.jump_prio (h : Holder) (pc : Nat) : (h.jump pc).prio = h.prio := rfl
@[simp] theorem Holder.jump_w (h : Holder) (pc : Nat) : (h.jump pc).w = h.w := rfl
@[simp] theorem Holder.jump_win (h : Holder) (pc : Nat) : (h.jump pc).win = h.win := rfl
@[simp] theorem Holder.jump_depth (h : Holder) (pc : Nat) : (h.jump pc).depth = h.depth := rfl
@[simp] theorem Holder.jump_asid (h : Holder) (pc : Nat) : (h.jump pc).asid = h.asid := rfl
@[simp] theorem Holder.jump_stepping (h : Holder) (pc : Nat) : (h.jump pc).stepping = h.stepping := rfl
@[simp] theorem Holder.jump_queues (h : Holder) (pc : Nat) : (h.jump pc).queues = h.queues := rfl
@[simp] theorem Holder.writeS_kind (h : Holder) (n : Nat) (v : Word) : (h.writeS n v).kind = h.kind := by
  unfold Holder.writeS; repeat' split
  all_goals rfl
@[simp] theorem Holder.writeS_status (h : Holder) (n : Nat) (v : Word) : (h.writeS n v).status = h.status := by
  unfold Holder.writeS; repeat' split
  all_goals rfl
@[simp] theorem Holder.writeS_grid (h : Holder) (n : Nat) (v : Word) : (h.writeS n v).grid = h.grid := by
  unfold Holder.writeS; repeat' split
  all_goals rfl
@[simp] theorem Holder.writeS_lo (h : Holder) (n : Nat) (v : Word) : (h.writeS n v).lo = h.lo := by
  unfold Holder.writeS; repeat' split
  all_goals rfl
@[simp] theorem Holder.writeS_hi (h : Holder) (n : Nat) (v : Word) : (h.writeS n v).hi = h.hi := by
  unfold Holder.writeS; repeat' split
  all_goals rfl
@[simp] theorem Holder.writeS_team (h : Holder) (n : Nat) (v : Word) : (h.writeS n v).team = h.team := by
  unfold Holder.writeS; repeat' split
  all_goals rfl
@[simp] theorem Holder.writeS_group (h : Holder) (n : Nat) (v : Word) : (h.writeS n v).group = h.group := by
  unfold Holder.writeS; repeat' split
  all_goals rfl
@[simp] theorem Holder.writeS_items (h : Holder) (n : Nat) (v : Word) : (h.writeS n v).items = h.items := by
  unfold Holder.writeS; repeat' split
  all_goals rfl
@[simp] theorem Holder.writeS_live (h : Holder) (n : Nat) (v : Word) : (h.writeS n v).live = h.live := by
  unfold Holder.writeS; repeat' split
  all_goals rfl
@[simp] theorem Holder.writeS_pc (h : Holder) (n : Nat) (v : Word) : (h.writeS n v).pc = h.pc := by
  unfold Holder.writeS; repeat' split
  all_goals rfl
@[simp] theorem Holder.writeS_path (h : Holder) (n : Nat) (v : Word) : (h.writeS n v).path = h.path := by
  unfold Holder.writeS; repeat' split
  all_goals rfl
@[simp] theorem Holder.writeS_stack (h : Holder) (n : Nat) (v : Word) : (h.writeS n v).stack = h.stack := by
  unfold Holder.writeS; repeat' split
  all_goals rfl
@[simp] theorem Holder.writeS_spilled (h : Holder) (n : Nat) (v : Word) : (h.writeS n v).spilled = h.spilled := by
  unfold Holder.writeS; repeat' split
  all_goals rfl
@[simp] theorem Holder.writeS_frames (h : Holder) (n : Nat) (v : Word) : (h.writeS n v).frames = h.frames := by
  unfold Holder.writeS; repeat' split
  all_goals rfl
@[simp] theorem Holder.writeS_frame (h : Holder) (n : Nat) (v : Word) : (h.writeS n v).frame = h.frame := by
  unfold Holder.writeS; repeat' split
  all_goals rfl
@[simp] theorem Holder.writeS_outFrames (h : Holder) (n : Nat) (v : Word) : (h.writeS n v).outFrames = h.outFrames := by
  unfold Holder.writeS; repeat' split
  all_goals rfl
@[simp] theorem Holder.writeS_vregs (h : Holder) (n : Nat) (v : Word) : (h.writeS n v).vregs = h.vregs := by
  unfold Holder.writeS; repeat' split
  all_goals rfl
@[simp] theorem Holder.writeS_ring (h : Holder) (n : Nat) (v : Word) : (h.writeS n v).ring = h.ring := by
  unfold Holder.writeS; repeat' split
  all_goals rfl
@[simp] theorem Holder.writeS_outGrans (h : Holder) (n : Nat) (v : Word) : (h.writeS n v).outGrans = h.outGrans := by
  unfold Holder.writeS; repeat' split
  all_goals rfl
@[simp] theorem Holder.writeS_preds (h : Holder) (n : Nat) (v : Word) : (h.writeS n v).preds = h.preds := by
  unfold Holder.writeS; repeat' split
  all_goals rfl
@[simp] theorem Holder.writeS_accs (h : Holder) (n : Nat) (v : Word) : (h.writeS n v).accs = h.accs := by
  unfold Holder.writeS; repeat' split
  all_goals rfl
@[simp] theorem Holder.writeS_shapes (h : Holder) (n : Nat) (v : Word) : (h.writeS n v).shapes = h.shapes := by
  unfold Holder.writeS; repeat' split
  all_goals rfl
@[simp] theorem Holder.writeS_gcodes (h : Holder) (n : Nat) (v : Word) : (h.writeS n v).gcodes = h.gcodes := by
  unfold Holder.writeS; repeat' split
  all_goals rfl
@[simp] theorem Holder.writeS_dcs (h : Holder) (n : Nat) (v : Word) : (h.writeS n v).dcs = h.dcs := by
  unfold Holder.writeS; repeat' split
  all_goals rfl
@[simp] theorem Holder.writeS_writers (h : Holder) (n : Nat) (v : Word) : (h.writeS n v).writers = h.writers := by
  unfold Holder.writeS; repeat' split
  all_goals rfl
@[simp] theorem Holder.writeS_batchCount (h : Holder) (n : Nat) (v : Word) : (h.writeS n v).batchCount = h.batchCount := by
  unfold Holder.writeS; repeat' split
  all_goals rfl
@[simp] theorem Holder.writeS_openBatch (h : Holder) (n : Nat) (v : Word) : (h.writeS n v).openBatch = h.openBatch := by
  unfold Holder.writeS; repeat' split
  all_goals rfl
@[simp] theorem Holder.writeS_cmds (h : Holder) (n : Nat) (v : Word) : (h.writeS n v).cmds = h.cmds := by
  unfold Holder.writeS; repeat' split
  all_goals rfl
@[simp] theorem Holder.writeS_batches (h : Holder) (n : Nat) (v : Word) : (h.writeS n v).batches = h.batches := by
  unfold Holder.writeS; repeat' split
  all_goals rfl
@[simp] theorem Holder.writeS_fflags (h : Holder) (n : Nat) (v : Word) : (h.writeS n v).fflags = h.fflags := by
  unfold Holder.writeS; repeat' split
  all_goals rfl
@[simp] theorem Holder.writeS_age (h : Holder) (n : Nat) (v : Word) : (h.writeS n v).age = h.age := by
  unfold Holder.writeS; repeat' split
  all_goals rfl
@[simp] theorem Holder.writeS_watchdog (h : Holder) (n : Nat) (v : Word) : (h.writeS n v).watchdog = h.watchdog := by
  unfold Holder.writeS; repeat' split
  all_goals rfl
@[simp] theorem Holder.writeS_deadline (h : Holder) (n : Nat) (v : Word) : (h.writeS n v).deadline = h.deadline := by
  unfold Holder.writeS; repeat' split
  all_goals rfl
@[simp] theorem Holder.writeS_mode (h : Holder) (n : Nat) (v : Word) : (h.writeS n v).mode = h.mode := by
  unfold Holder.writeS; repeat' split
  all_goals rfl
@[simp] theorem Holder.writeS_trapLane (h : Holder) (n : Nat) (v : Word) : (h.writeS n v).trapLane = h.trapLane := by
  unfold Holder.writeS; repeat' split
  all_goals rfl
@[simp] theorem Holder.writeS_tcause (h : Holder) (n : Nat) (v : Word) : (h.writeS n v).tcause = h.tcause := by
  unfold Holder.writeS; repeat' split
  all_goals rfl
@[simp] theorem Holder.writeS_tval (h : Holder) (n : Nat) (v : Word) : (h.writeS n v).tval = h.tval := by
  unfold Holder.writeS; repeat' split
  all_goals rfl
@[simp] theorem Holder.writeS_tpc (h : Holder) (n : Nat) (v : Word) : (h.writeS n v).tpc = h.tpc := by
  unfold Holder.writeS; repeat' split
  all_goals rfl
@[simp] theorem Holder.writeS_trapFrame (h : Holder) (n : Nat) (v : Word) : (h.writeS n v).trapFrame = h.trapFrame := by
  unfold Holder.writeS; repeat' split
  all_goals rfl
@[simp] theorem Holder.writeS_escFrame (h : Holder) (n : Nat) (v : Word) : (h.writeS n v).escFrame = h.escFrame := by
  unfold Holder.writeS; repeat' split
  all_goals rfl
@[simp] theorem Holder.writeS_framePC (h : Holder) (n : Nat) (v : Word) : (h.writeS n v).framePC = h.framePC := by
  unfold Holder.writeS; repeat' split
  all_goals rfl
@[simp] theorem Holder.writeS_frameDone (h : Holder) (n : Nat) (v : Word) : (h.writeS n v).frameDone = h.frameDone := by
  unfold Holder.writeS; repeat' split
  all_goals rfl
@[simp] theorem Holder.writeS_replay (h : Holder) (n : Nat) (v : Word) : (h.writeS n v).replay = h.replay := by
  unfold Holder.writeS; repeat' split
  all_goals rfl
@[simp] theorem Holder.writeS_replaying (h : Holder) (n : Nat) (v : Word) : (h.writeS n v).replaying = h.replaying := by
  unfold Holder.writeS; repeat' split
  all_goals rfl
@[simp] theorem Holder.writeS_replayPC (h : Holder) (n : Nat) (v : Word) : (h.writeS n v).replayPC = h.replayPC := by
  unfold Holder.writeS; repeat' split
  all_goals rfl
@[simp] theorem Holder.writeS_pend (h : Holder) (n : Nat) (v : Word) : (h.writeS n v).pend = h.pend := by
  unfold Holder.writeS; repeat' split
  all_goals rfl
@[simp] theorem Holder.writeS_ll (h : Holder) (n : Nat) (v : Word) : (h.writeS n v).ll = h.ll := by
  unfold Holder.writeS; repeat' split
  all_goals rfl
@[simp] theorem Holder.writeS_nextIdx (h : Holder) (n : Nat) (v : Word) : (h.writeS n v).nextIdx = h.nextIdx := by
  unfold Holder.writeS; repeat' split
  all_goals rfl
@[simp] theorem Holder.writeS_ext (h : Holder) (n : Nat) (v : Word) : (h.writeS n v).ext = h.ext := by
  unfold Holder.writeS; repeat' split
  all_goals rfl
@[simp] theorem Holder.writeS_ev (h : Holder) (n : Nat) (v : Word) : (h.writeS n v).ev = h.ev := by
  unfold Holder.writeS; repeat' split
  all_goals rfl
@[simp] theorem Holder.writeS_prio (h : Holder) (n : Nat) (v : Word) : (h.writeS n v).prio = h.prio := by
  unfold Holder.writeS; repeat' split
  all_goals rfl
@[simp] theorem Holder.writeS_w (h : Holder) (n : Nat) (v : Word) : (h.writeS n v).w = h.w := by
  unfold Holder.writeS; repeat' split
  all_goals rfl
@[simp] theorem Holder.writeS_win (h : Holder) (n : Nat) (v : Word) : (h.writeS n v).win = h.win := by
  unfold Holder.writeS; repeat' split
  all_goals rfl
@[simp] theorem Holder.writeS_depth (h : Holder) (n : Nat) (v : Word) : (h.writeS n v).depth = h.depth := by
  unfold Holder.writeS; repeat' split
  all_goals rfl
@[simp] theorem Holder.writeS_asid (h : Holder) (n : Nat) (v : Word) : (h.writeS n v).asid = h.asid := by
  unfold Holder.writeS; repeat' split
  all_goals rfl
@[simp] theorem Holder.writeS_bpSkip (h : Holder) (n : Nat) (v : Word) : (h.writeS n v).bpSkip = h.bpSkip := by
  unfold Holder.writeS; repeat' split
  all_goals rfl
@[simp] theorem Holder.writeS_stepping (h : Holder) (n : Nat) (v : Word) : (h.writeS n v).stepping = h.stepping := by
  unfold Holder.writeS; repeat' split
  all_goals rfl
@[simp] theorem Holder.writeS_queues (h : Holder) (n : Nat) (v : Word) : (h.writeS n v).queues = h.queues := by
  unfold Holder.writeS; repeat' split
  all_goals rfl
@[simp] theorem Holder.writeW_kind (h : Holder) (w : Bool) (n v : Nat) : (h.writeW w n v).kind = h.kind := by
  unfold Holder.writeW Holder.writeS64; split <;> simp
@[simp] theorem Holder.writeW_status (h : Holder) (w : Bool) (n v : Nat) : (h.writeW w n v).status = h.status := by
  unfold Holder.writeW Holder.writeS64; split <;> simp
@[simp] theorem Holder.writeW_grid (h : Holder) (w : Bool) (n v : Nat) : (h.writeW w n v).grid = h.grid := by
  unfold Holder.writeW Holder.writeS64; split <;> simp
@[simp] theorem Holder.writeW_lo (h : Holder) (w : Bool) (n v : Nat) : (h.writeW w n v).lo = h.lo := by
  unfold Holder.writeW Holder.writeS64; split <;> simp
@[simp] theorem Holder.writeW_hi (h : Holder) (w : Bool) (n v : Nat) : (h.writeW w n v).hi = h.hi := by
  unfold Holder.writeW Holder.writeS64; split <;> simp
@[simp] theorem Holder.writeW_team (h : Holder) (w : Bool) (n v : Nat) : (h.writeW w n v).team = h.team := by
  unfold Holder.writeW Holder.writeS64; split <;> simp
@[simp] theorem Holder.writeW_group (h : Holder) (w : Bool) (n v : Nat) : (h.writeW w n v).group = h.group := by
  unfold Holder.writeW Holder.writeS64; split <;> simp
@[simp] theorem Holder.writeW_items (h : Holder) (w : Bool) (n v : Nat) : (h.writeW w n v).items = h.items := by
  unfold Holder.writeW Holder.writeS64; split <;> simp
@[simp] theorem Holder.writeW_live (h : Holder) (w : Bool) (n v : Nat) : (h.writeW w n v).live = h.live := by
  unfold Holder.writeW Holder.writeS64; split <;> simp
@[simp] theorem Holder.writeW_pc (h : Holder) (w : Bool) (n v : Nat) : (h.writeW w n v).pc = h.pc := by
  unfold Holder.writeW Holder.writeS64; split <;> simp
@[simp] theorem Holder.writeW_path (h : Holder) (w : Bool) (n v : Nat) : (h.writeW w n v).path = h.path := by
  unfold Holder.writeW Holder.writeS64; split <;> simp
@[simp] theorem Holder.writeW_stack (h : Holder) (w : Bool) (n v : Nat) : (h.writeW w n v).stack = h.stack := by
  unfold Holder.writeW Holder.writeS64; split <;> simp
@[simp] theorem Holder.writeW_spilled (h : Holder) (w : Bool) (n v : Nat) : (h.writeW w n v).spilled = h.spilled := by
  unfold Holder.writeW Holder.writeS64; split <;> simp
@[simp] theorem Holder.writeW_frames (h : Holder) (w : Bool) (n v : Nat) : (h.writeW w n v).frames = h.frames := by
  unfold Holder.writeW Holder.writeS64; split <;> simp
@[simp] theorem Holder.writeW_frame (h : Holder) (w : Bool) (n v : Nat) : (h.writeW w n v).frame = h.frame := by
  unfold Holder.writeW Holder.writeS64; split <;> simp
@[simp] theorem Holder.writeW_outFrames (h : Holder) (w : Bool) (n v : Nat) : (h.writeW w n v).outFrames = h.outFrames := by
  unfold Holder.writeW Holder.writeS64; split <;> simp
@[simp] theorem Holder.writeW_vregs (h : Holder) (w : Bool) (n v : Nat) : (h.writeW w n v).vregs = h.vregs := by
  unfold Holder.writeW Holder.writeS64; split <;> simp
@[simp] theorem Holder.writeW_ring (h : Holder) (w : Bool) (n v : Nat) : (h.writeW w n v).ring = h.ring := by
  unfold Holder.writeW Holder.writeS64; split <;> simp
@[simp] theorem Holder.writeW_outGrans (h : Holder) (w : Bool) (n v : Nat) : (h.writeW w n v).outGrans = h.outGrans := by
  unfold Holder.writeW Holder.writeS64; split <;> simp
@[simp] theorem Holder.writeW_preds (h : Holder) (w : Bool) (n v : Nat) : (h.writeW w n v).preds = h.preds := by
  unfold Holder.writeW Holder.writeS64; split <;> simp
@[simp] theorem Holder.writeW_accs (h : Holder) (w : Bool) (n v : Nat) : (h.writeW w n v).accs = h.accs := by
  unfold Holder.writeW Holder.writeS64; split <;> simp
@[simp] theorem Holder.writeW_shapes (h : Holder) (w : Bool) (n v : Nat) : (h.writeW w n v).shapes = h.shapes := by
  unfold Holder.writeW Holder.writeS64; split <;> simp
@[simp] theorem Holder.writeW_gcodes (h : Holder) (w : Bool) (n v : Nat) : (h.writeW w n v).gcodes = h.gcodes := by
  unfold Holder.writeW Holder.writeS64; split <;> simp
@[simp] theorem Holder.writeW_dcs (h : Holder) (w : Bool) (n v : Nat) : (h.writeW w n v).dcs = h.dcs := by
  unfold Holder.writeW Holder.writeS64; split <;> simp
@[simp] theorem Holder.writeW_writers (h : Holder) (w : Bool) (n v : Nat) : (h.writeW w n v).writers = h.writers := by
  unfold Holder.writeW Holder.writeS64; split <;> simp
@[simp] theorem Holder.writeW_batchCount (h : Holder) (w : Bool) (n v : Nat) : (h.writeW w n v).batchCount = h.batchCount := by
  unfold Holder.writeW Holder.writeS64; split <;> simp
@[simp] theorem Holder.writeW_openBatch (h : Holder) (w : Bool) (n v : Nat) : (h.writeW w n v).openBatch = h.openBatch := by
  unfold Holder.writeW Holder.writeS64; split <;> simp
@[simp] theorem Holder.writeW_cmds (h : Holder) (w : Bool) (n v : Nat) : (h.writeW w n v).cmds = h.cmds := by
  unfold Holder.writeW Holder.writeS64; split <;> simp
@[simp] theorem Holder.writeW_batches (h : Holder) (w : Bool) (n v : Nat) : (h.writeW w n v).batches = h.batches := by
  unfold Holder.writeW Holder.writeS64; split <;> simp
@[simp] theorem Holder.writeW_fflags (h : Holder) (w : Bool) (n v : Nat) : (h.writeW w n v).fflags = h.fflags := by
  unfold Holder.writeW Holder.writeS64; split <;> simp
@[simp] theorem Holder.writeW_age (h : Holder) (w : Bool) (n v : Nat) : (h.writeW w n v).age = h.age := by
  unfold Holder.writeW Holder.writeS64; split <;> simp
@[simp] theorem Holder.writeW_watchdog (h : Holder) (w : Bool) (n v : Nat) : (h.writeW w n v).watchdog = h.watchdog := by
  unfold Holder.writeW Holder.writeS64; split <;> simp
@[simp] theorem Holder.writeW_deadline (h : Holder) (w : Bool) (n v : Nat) : (h.writeW w n v).deadline = h.deadline := by
  unfold Holder.writeW Holder.writeS64; split <;> simp
@[simp] theorem Holder.writeW_mode (h : Holder) (w : Bool) (n v : Nat) : (h.writeW w n v).mode = h.mode := by
  unfold Holder.writeW Holder.writeS64; split <;> simp
@[simp] theorem Holder.writeW_trapLane (h : Holder) (w : Bool) (n v : Nat) : (h.writeW w n v).trapLane = h.trapLane := by
  unfold Holder.writeW Holder.writeS64; split <;> simp
@[simp] theorem Holder.writeW_tcause (h : Holder) (w : Bool) (n v : Nat) : (h.writeW w n v).tcause = h.tcause := by
  unfold Holder.writeW Holder.writeS64; split <;> simp
@[simp] theorem Holder.writeW_tval (h : Holder) (w : Bool) (n v : Nat) : (h.writeW w n v).tval = h.tval := by
  unfold Holder.writeW Holder.writeS64; split <;> simp
@[simp] theorem Holder.writeW_tpc (h : Holder) (w : Bool) (n v : Nat) : (h.writeW w n v).tpc = h.tpc := by
  unfold Holder.writeW Holder.writeS64; split <;> simp
@[simp] theorem Holder.writeW_trapFrame (h : Holder) (w : Bool) (n v : Nat) : (h.writeW w n v).trapFrame = h.trapFrame := by
  unfold Holder.writeW Holder.writeS64; split <;> simp
@[simp] theorem Holder.writeW_escFrame (h : Holder) (w : Bool) (n v : Nat) : (h.writeW w n v).escFrame = h.escFrame := by
  unfold Holder.writeW Holder.writeS64; split <;> simp
@[simp] theorem Holder.writeW_framePC (h : Holder) (w : Bool) (n v : Nat) : (h.writeW w n v).framePC = h.framePC := by
  unfold Holder.writeW Holder.writeS64; split <;> simp
@[simp] theorem Holder.writeW_frameDone (h : Holder) (w : Bool) (n v : Nat) : (h.writeW w n v).frameDone = h.frameDone := by
  unfold Holder.writeW Holder.writeS64; split <;> simp
@[simp] theorem Holder.writeW_replay (h : Holder) (w : Bool) (n v : Nat) : (h.writeW w n v).replay = h.replay := by
  unfold Holder.writeW Holder.writeS64; split <;> simp
@[simp] theorem Holder.writeW_replaying (h : Holder) (w : Bool) (n v : Nat) : (h.writeW w n v).replaying = h.replaying := by
  unfold Holder.writeW Holder.writeS64; split <;> simp
@[simp] theorem Holder.writeW_replayPC (h : Holder) (w : Bool) (n v : Nat) : (h.writeW w n v).replayPC = h.replayPC := by
  unfold Holder.writeW Holder.writeS64; split <;> simp
@[simp] theorem Holder.writeW_pend (h : Holder) (w : Bool) (n v : Nat) : (h.writeW w n v).pend = h.pend := by
  unfold Holder.writeW Holder.writeS64; split <;> simp
@[simp] theorem Holder.writeW_ll (h : Holder) (w : Bool) (n v : Nat) : (h.writeW w n v).ll = h.ll := by
  unfold Holder.writeW Holder.writeS64; split <;> simp
@[simp] theorem Holder.writeW_nextIdx (h : Holder) (w : Bool) (n v : Nat) : (h.writeW w n v).nextIdx = h.nextIdx := by
  unfold Holder.writeW Holder.writeS64; split <;> simp
@[simp] theorem Holder.writeW_ext (h : Holder) (w : Bool) (n v : Nat) : (h.writeW w n v).ext = h.ext := by
  unfold Holder.writeW Holder.writeS64; split <;> simp
@[simp] theorem Holder.writeW_ev (h : Holder) (w : Bool) (n v : Nat) : (h.writeW w n v).ev = h.ev := by
  unfold Holder.writeW Holder.writeS64; split <;> simp
@[simp] theorem Holder.writeW_prio (h : Holder) (w : Bool) (n v : Nat) : (h.writeW w n v).prio = h.prio := by
  unfold Holder.writeW Holder.writeS64; split <;> simp
@[simp] theorem Holder.writeW_w (h : Holder) (w : Bool) (n v : Nat) : (h.writeW w n v).w = h.w := by
  unfold Holder.writeW Holder.writeS64; split <;> simp
@[simp] theorem Holder.writeW_win (h : Holder) (w : Bool) (n v : Nat) : (h.writeW w n v).win = h.win := by
  unfold Holder.writeW Holder.writeS64; split <;> simp
@[simp] theorem Holder.writeW_depth (h : Holder) (w : Bool) (n v : Nat) : (h.writeW w n v).depth = h.depth := by
  unfold Holder.writeW Holder.writeS64; split <;> simp
@[simp] theorem Holder.writeW_asid (h : Holder) (w : Bool) (n v : Nat) : (h.writeW w n v).asid = h.asid := by
  unfold Holder.writeW Holder.writeS64; split <;> simp
@[simp] theorem Holder.writeW_bpSkip (h : Holder) (w : Bool) (n v : Nat) : (h.writeW w n v).bpSkip = h.bpSkip := by
  unfold Holder.writeW Holder.writeS64; split <;> simp
@[simp] theorem Holder.writeW_stepping (h : Holder) (w : Bool) (n v : Nat) : (h.writeW w n v).stepping = h.stepping := by
  unfold Holder.writeW Holder.writeS64; split <;> simp
@[simp] theorem Holder.writeW_queues (h : Holder) (w : Bool) (n v : Nat) : (h.writeW w n v).queues = h.queues := by
  unfold Holder.writeW Holder.writeS64; split <;> simp

@[simp] theorem Holder.advance_kind (h : Holder) (n : Nat) : (h.advance n).kind = h.kind := by
  unfold Holder.advance Holder.nextReplay; simp only []; repeat' split
  all_goals rfl
@[simp] theorem Holder.advance_grid (h : Holder) (n : Nat) : (h.advance n).grid = h.grid := by
  unfold Holder.advance Holder.nextReplay; simp only []; repeat' split
  all_goals rfl
@[simp] theorem Holder.advance_lo (h : Holder) (n : Nat) : (h.advance n).lo = h.lo := by
  unfold Holder.advance Holder.nextReplay; simp only []; repeat' split
  all_goals rfl
@[simp] theorem Holder.advance_hi (h : Holder) (n : Nat) : (h.advance n).hi = h.hi := by
  unfold Holder.advance Holder.nextReplay; simp only []; repeat' split
  all_goals rfl
@[simp] theorem Holder.advance_team (h : Holder) (n : Nat) : (h.advance n).team = h.team := by
  unfold Holder.advance Holder.nextReplay; simp only []; repeat' split
  all_goals rfl
@[simp] theorem Holder.advance_group (h : Holder) (n : Nat) : (h.advance n).group = h.group := by
  unfold Holder.advance Holder.nextReplay; simp only []; repeat' split
  all_goals rfl
@[simp] theorem Holder.advance_items (h : Holder) (n : Nat) : (h.advance n).items = h.items := by
  unfold Holder.advance Holder.nextReplay; simp only []; repeat' split
  all_goals rfl
@[simp] theorem Holder.advance_live (h : Holder) (n : Nat) : (h.advance n).live = h.live := by
  unfold Holder.advance Holder.nextReplay; simp only []; repeat' split
  all_goals rfl
@[simp] theorem Holder.advance_sregs (h : Holder) (n : Nat) : (h.advance n).sregs = h.sregs := by
  unfold Holder.advance Holder.nextReplay; simp only []; repeat' split
  all_goals rfl
@[simp] theorem Holder.advance_mask (h : Holder) (n : Nat) : (h.advance n).mask = h.mask := by
  unfold Holder.advance Holder.nextReplay; simp only []; repeat' split
  all_goals rfl
@[simp] theorem Holder.advance_path (h : Holder) (n : Nat) : (h.advance n).path = h.path := by
  unfold Holder.advance Holder.nextReplay; simp only []; repeat' split
  all_goals rfl
@[simp] theorem Holder.advance_stack (h : Holder) (n : Nat) : (h.advance n).stack = h.stack := by
  unfold Holder.advance Holder.nextReplay; simp only []; repeat' split
  all_goals rfl
@[simp] theorem Holder.advance_spilled (h : Holder) (n : Nat) : (h.advance n).spilled = h.spilled := by
  unfold Holder.advance Holder.nextReplay; simp only []; repeat' split
  all_goals rfl
@[simp] theorem Holder.advance_frames (h : Holder) (n : Nat) : (h.advance n).frames = h.frames := by
  unfold Holder.advance Holder.nextReplay; simp only []; repeat' split
  all_goals rfl
@[simp] theorem Holder.advance_frame (h : Holder) (n : Nat) : (h.advance n).frame = h.frame := by
  unfold Holder.advance Holder.nextReplay; simp only []; repeat' split
  all_goals rfl
@[simp] theorem Holder.advance_outFrames (h : Holder) (n : Nat) : (h.advance n).outFrames = h.outFrames := by
  unfold Holder.advance Holder.nextReplay; simp only []; repeat' split
  all_goals rfl
@[simp] theorem Holder.advance_vregs (h : Holder) (n : Nat) : (h.advance n).vregs = h.vregs := by
  unfold Holder.advance Holder.nextReplay; simp only []; repeat' split
  all_goals rfl
@[simp] theorem Holder.advance_ring (h : Holder) (n : Nat) : (h.advance n).ring = h.ring := by
  unfold Holder.advance Holder.nextReplay; simp only []; repeat' split
  all_goals rfl
@[simp] theorem Holder.advance_outGrans (h : Holder) (n : Nat) : (h.advance n).outGrans = h.outGrans := by
  unfold Holder.advance Holder.nextReplay; simp only []; repeat' split
  all_goals rfl
@[simp] theorem Holder.advance_preds (h : Holder) (n : Nat) : (h.advance n).preds = h.preds := by
  unfold Holder.advance Holder.nextReplay; simp only []; repeat' split
  all_goals rfl
@[simp] theorem Holder.advance_accs (h : Holder) (n : Nat) : (h.advance n).accs = h.accs := by
  unfold Holder.advance Holder.nextReplay; simp only []; repeat' split
  all_goals rfl
@[simp] theorem Holder.advance_shapes (h : Holder) (n : Nat) : (h.advance n).shapes = h.shapes := by
  unfold Holder.advance Holder.nextReplay; simp only []; repeat' split
  all_goals rfl
@[simp] theorem Holder.advance_gcodes (h : Holder) (n : Nat) : (h.advance n).gcodes = h.gcodes := by
  unfold Holder.advance Holder.nextReplay; simp only []; repeat' split
  all_goals rfl
@[simp] theorem Holder.advance_dcs (h : Holder) (n : Nat) : (h.advance n).dcs = h.dcs := by
  unfold Holder.advance Holder.nextReplay; simp only []; repeat' split
  all_goals rfl
@[simp] theorem Holder.advance_tags (h : Holder) (n : Nat) : (h.advance n).tags = h.tags := by
  unfold Holder.advance Holder.nextReplay; simp only []; repeat' split
  all_goals rfl
@[simp] theorem Holder.advance_writers (h : Holder) (n : Nat) : (h.advance n).writers = h.writers := by
  unfold Holder.advance Holder.nextReplay; simp only []; repeat' split
  all_goals rfl
@[simp] theorem Holder.advance_batchCount (h : Holder) (n : Nat) : (h.advance n).batchCount = h.batchCount := by
  unfold Holder.advance Holder.nextReplay; simp only []; repeat' split
  all_goals rfl
@[simp] theorem Holder.advance_openBatch (h : Holder) (n : Nat) : (h.advance n).openBatch = h.openBatch := by
  unfold Holder.advance Holder.nextReplay; simp only []; repeat' split
  all_goals rfl
@[simp] theorem Holder.advance_cmds (h : Holder) (n : Nat) : (h.advance n).cmds = h.cmds := by
  unfold Holder.advance Holder.nextReplay; simp only []; repeat' split
  all_goals rfl
@[simp] theorem Holder.advance_landed (h : Holder) (n : Nat) : (h.advance n).landed = h.landed := by
  unfold Holder.advance Holder.nextReplay; simp only []; repeat' split
  all_goals rfl
@[simp] theorem Holder.advance_batches (h : Holder) (n : Nat) : (h.advance n).batches = h.batches := by
  unfold Holder.advance Holder.nextReplay; simp only []; repeat' split
  all_goals rfl
@[simp] theorem Holder.advance_fflags (h : Holder) (n : Nat) : (h.advance n).fflags = h.fflags := by
  unfold Holder.advance Holder.nextReplay; simp only []; repeat' split
  all_goals rfl
@[simp] theorem Holder.advance_age (h : Holder) (n : Nat) : (h.advance n).age = h.age := by
  unfold Holder.advance Holder.nextReplay; simp only []; repeat' split
  all_goals rfl
@[simp] theorem Holder.advance_watchdog (h : Holder) (n : Nat) : (h.advance n).watchdog = h.watchdog := by
  unfold Holder.advance Holder.nextReplay; simp only []; repeat' split
  all_goals rfl
@[simp] theorem Holder.advance_deadline (h : Holder) (n : Nat) : (h.advance n).deadline = h.deadline := by
  unfold Holder.advance Holder.nextReplay; simp only []; repeat' split
  all_goals rfl
@[simp] theorem Holder.advance_mode (h : Holder) (n : Nat) : (h.advance n).mode = h.mode := by
  unfold Holder.advance Holder.nextReplay; simp only []; repeat' split
  all_goals rfl
@[simp] theorem Holder.advance_trapLane (h : Holder) (n : Nat) : (h.advance n).trapLane = h.trapLane := by
  unfold Holder.advance Holder.nextReplay; simp only []; repeat' split
  all_goals rfl
@[simp] theorem Holder.advance_tcause (h : Holder) (n : Nat) : (h.advance n).tcause = h.tcause := by
  unfold Holder.advance Holder.nextReplay; simp only []; repeat' split
  all_goals rfl
@[simp] theorem Holder.advance_tval (h : Holder) (n : Nat) : (h.advance n).tval = h.tval := by
  unfold Holder.advance Holder.nextReplay; simp only []; repeat' split
  all_goals rfl
@[simp] theorem Holder.advance_tpc (h : Holder) (n : Nat) : (h.advance n).tpc = h.tpc := by
  unfold Holder.advance Holder.nextReplay; simp only []; repeat' split
  all_goals rfl
@[simp] theorem Holder.advance_trapFrame (h : Holder) (n : Nat) : (h.advance n).trapFrame = h.trapFrame := by
  unfold Holder.advance Holder.nextReplay; simp only []; repeat' split
  all_goals rfl
@[simp] theorem Holder.advance_escFrame (h : Holder) (n : Nat) : (h.advance n).escFrame = h.escFrame := by
  unfold Holder.advance Holder.nextReplay; simp only []; repeat' split
  all_goals rfl
@[simp] theorem Holder.advance_framePC (h : Holder) (n : Nat) : (h.advance n).framePC = h.framePC := by
  unfold Holder.advance Holder.nextReplay; simp only []; repeat' split
  all_goals rfl
@[simp] theorem Holder.advance_maskWrites (h : Holder) (n : Nat) : (h.advance n).maskWrites = h.maskWrites := by
  unfold Holder.advance Holder.nextReplay; simp only []; repeat' split
  all_goals rfl
@[simp] theorem Holder.advance_pend (h : Holder) (n : Nat) : (h.advance n).pend = h.pend := by
  unfold Holder.advance Holder.nextReplay; simp only []; repeat' split
  all_goals rfl
@[simp] theorem Holder.advance_nextIdx (h : Holder) (n : Nat) : (h.advance n).nextIdx = h.nextIdx := by
  unfold Holder.advance Holder.nextReplay; simp only []; repeat' split
  all_goals rfl
@[simp] theorem Holder.advance_ext (h : Holder) (n : Nat) : (h.advance n).ext = h.ext := by
  unfold Holder.advance Holder.nextReplay; simp only []; repeat' split
  all_goals rfl
@[simp] theorem Holder.advance_ev (h : Holder) (n : Nat) : (h.advance n).ev = h.ev := by
  unfold Holder.advance Holder.nextReplay; simp only []; repeat' split
  all_goals rfl
@[simp] theorem Holder.advance_prio (h : Holder) (n : Nat) : (h.advance n).prio = h.prio := by
  unfold Holder.advance Holder.nextReplay; simp only []; repeat' split
  all_goals rfl
@[simp] theorem Holder.advance_w (h : Holder) (n : Nat) : (h.advance n).w = h.w := by
  unfold Holder.advance Holder.nextReplay; simp only []; repeat' split
  all_goals rfl
@[simp] theorem Holder.advance_win (h : Holder) (n : Nat) : (h.advance n).win = h.win := by
  unfold Holder.advance Holder.nextReplay; simp only []; repeat' split
  all_goals rfl
@[simp] theorem Holder.advance_depth (h : Holder) (n : Nat) : (h.advance n).depth = h.depth := by
  unfold Holder.advance Holder.nextReplay; simp only []; repeat' split
  all_goals rfl
@[simp] theorem Holder.advance_asid (h : Holder) (n : Nat) : (h.advance n).asid = h.asid := by
  unfold Holder.advance Holder.nextReplay; simp only []; repeat' split
  all_goals rfl
@[simp] theorem Holder.advance_stepping (h : Holder) (n : Nat) : (h.advance n).stepping = h.stepping := by
  unfold Holder.advance Holder.nextReplay; simp only []; repeat' split
  all_goals rfl
@[simp] theorem Holder.advance_queues (h : Holder) (n : Nat) : (h.advance n).queues = h.queues := by
  unfold Holder.advance Holder.nextReplay; simp only []; repeat' split
  all_goals rfl

end Sys2Proof.Machine
end

