-- ==== Sys2Proof/Laws/Issue.lean ====
section
/-! SUPPORT. What the shared frame of an instruction does: its checks, then its effect. -/

set_option Elab.async false

namespace Sys2Proof.Machine

/-- An instruction that passes the checks takes its effect. -/
theorem issue_go {i : Instr} {s : State} {g q : Nat} {h : Holder} (r : Issues i s g q h)
    (f : Nat → Nat → Holder → Out) : issue i s f = f g q h := by
  obtain ⟨c, e, m⟩ := r
  cases x : s.holder? g q with
  | none => simp [x] at e
  | some h0 =>
    simp only [x, Option.map_some, Option.some.injEq, Prod.mk.injEq] at e
    obtain ⟨e1, e2⟩ := e
    subst e2
    have k : (h0.seenReads i).kind = h0.kind := by unfold Holder.seenReads; split <;> rfl
    have md : (h0.seenReads i).mode = h0.mode := by unfold Holder.seenReads; split <;> rfl
    have mw : (h0.seenReads i).maskWrites = h0.maskWrites := by unfold Holder.seenReads; split <;> rfl
    rw [k, md, mw] at m
    simp only [issue, withHolder, c, x, e1]
    rw [if_neg]
    rintro ⟨a, b, w⟩
    obtain ⟨m1, m2⟩ := m a (by simpa using b)
    rw [writesMask] at m1
    rw [m1, m2] at w
    exact absurd w (by simp)

/-- The checks of an instruction that traps. -/
theorem issue_trap {i : Instr} {s : State} {g q c v : Nat} {h : Holder} (t : s.cur = some (g, q))
    (x : s.holder? g q = some h) (e : issueCheck h i = .trap c v) (f : Nat → Nat → Holder → Out) :
    issue i s f = .next (s.trapHere g q h c 0 v) := by
  simp [issue, withHolder, t, x, e]

/-- The checks of an instruction that waits. -/
theorem issue_wait {i : Instr} {s : State} {g q : Nat} {w : Wait} {h : Holder} (t : s.cur = some (g, q))
    (x : s.holder? g q = some h) (e : issueCheck h i = .wait w) (f : Nat → Nat → Holder → Out) :
    issue i s f = .next (s.block g q h w) := by
  simp [issue, withHolder, t, x, e]

end Sys2Proof.Machine
end

