-- ==== Sys2Proof/Laws/Exec.lean ====
section
/-! SUPPORT. Every instruction goes through the checks at issue (R282): its meaning is `issue` of an effect of its own. -/

set_option Elab.async false

namespace Sys2Proof.Machine

set_option linter.unusedSimpArgs false in
set_option maxHeartbeats 4000000 in
/-- An instruction is its checks at issue, then an effect. -/
theorem exec_issue (i : Instr) (hi : i.isInstruction = true) (s : State) : ∃ f, exec i s = issue i s f := by
  cases i
  case nop => simp only [exec, execNop, scalar]; exact ⟨_, rfl⟩
  case sadd => simp only [exec, execSadd, sBin, scalar]; exact ⟨_, rfl⟩
  case ssub => simp only [exec, execSsub, sBin, scalar]; exact ⟨_, rfl⟩
  case smul => simp only [exec, execSmul, sBin, scalar]; exact ⟨_, rfl⟩
  case smulh => simp only [exec, execSmulh, sBin, scalar]; exact ⟨_, rfl⟩
  case smin => simp only [exec, execSmin, sBin, scalar]; exact ⟨_, rfl⟩
  case smax => simp only [exec, execSmax, sBin, scalar]; exact ⟨_, rfl⟩
  case sdiv => simp only [exec, execSdiv, sBin, scalar]; exact ⟨_, rfl⟩
  case srem => simp only [exec, execSrem, sBin, scalar]; exact ⟨_, rfl⟩
  case sand => simp only [exec, execSand, sBin, scalar]; exact ⟨_, rfl⟩
  case sor => simp only [exec, execSor, sBin, scalar]; exact ⟨_, rfl⟩
  case sxor => simp only [exec, execSxor, sBin, scalar]; exact ⟨_, rfl⟩
  case sshl => simp only [exec, execSshl, sShift, scalar]; exact ⟨_, rfl⟩
  case sshr => simp only [exec, execSshr, sShift, scalar]; exact ⟨_, rfl⟩
  case ssar => simp only [exec, execSsar, sShift, scalar]; exact ⟨_, rfl⟩
  case srot => simp only [exec, execSrot, sShift, scalar]; exact ⟨_, rfl⟩
  case sclz => simp only [exec, execSclz, sUn, scalar]; exact ⟨_, rfl⟩
  case spop => simp only [exec, execSpop, sUn, scalar]; exact ⟨_, rfl⟩
  case sbrev => simp only [exec, execSbrev, sUn, scalar]; exact ⟨_, rfl⟩
  case sbfx => simp only [exec, execSbfx, sShift, scalar]; exact ⟨_, rfl⟩
  case sbfi => simp only [exec, execSbfi, scalar]; exact ⟨_, rfl⟩
  case smov => simp only [exec, execSmov, sUn, scalar]; exact ⟨_, rfl⟩
  case ssel => simp only [exec, execSsel, scalar]; exact ⟨_, rfl⟩
  case scmp => simp only [exec, execScmp, scalar]; exact ⟨_, rfl⟩
  case sli => simp only [exec, execSli, scalar]; exact ⟨_, rfl⟩
  case slhi => simp only [exec, execSlhi, scalar]; exact ⟨_, rfl⟩
  case saddImm => simp only [exec, execSaddImm, sImm, scalar]; exact ⟨_, rfl⟩
  case smulImm => simp only [exec, execSmulImm, sImm, scalar]; exact ⟨_, rfl⟩
  case sminI32Imm => simp only [exec, execSminI32Imm, sImm, scalar]; exact ⟨_, rfl⟩
  case smaxI32Imm => simp only [exec, execSmaxI32Imm, sImm, scalar]; exact ⟨_, rfl⟩
  case sminN32Imm => simp only [exec, execSminN32Imm, sImm, scalar]; exact ⟨_, rfl⟩
  case smaxN32Imm => simp only [exec, execSmaxN32Imm, sImm, scalar]; exact ⟨_, rfl⟩
  case sandImm => simp only [exec, execSandImm, sImm, scalar]; exact ⟨_, rfl⟩
  case sorImm => simp only [exec, execSorImm, sImm, scalar]; exact ⟨_, rfl⟩
  case sxorImm => simp only [exec, execSxorImm, sImm, scalar]; exact ⟨_, rfl⟩
  case sshlImm => simp only [exec, execSshlImm, sImm, scalar]; exact ⟨_, rfl⟩
  case sshrImm => simp only [exec, execSshrImm, sImm, scalar]; exact ⟨_, rfl⟩
  case ssarImm => simp only [exec, execSsarImm, sImm, scalar]; exact ⟨_, rfl⟩
  case srotImm => simp only [exec, execSrotImm, sImm, scalar]; exact ⟨_, rfl⟩
  case scmpImm => simp only [exec, execScmpImm, sImm, scalar]; exact ⟨_, rfl⟩
  case bra => simp only [exec, execBra]; exact ⟨_, rfl⟩
  case bz => simp only [exec, execBz]; exact ⟨_, rfl⟩
  case bnz => simp only [exec, execBnz]; exact ⟨_, rfl⟩
  case call => simp only [exec, execCall]; exact ⟨_, rfl⟩
  case vbr => simp only [exec, execVbr]; exact ⟨_, rfl⟩
  case brx => simp only [exec, execBrx]; exact ⟨_, rfl⟩
  case callx => simp only [exec, execCallx]; exact ⟨_, rfl⟩
  case ret => simp only [exec, execRet]; exact ⟨_, rfl⟩
  case vjoin => simp only [exec, execVjoin]; exact ⟨_, rfl⟩
  case exit => simp only [exec, execExit]; exact ⟨_, rfl⟩
  case yield => simp only [exec, execYield]; exact ⟨_, rfl⟩
  case dwait => simp only [exec, execDwait]; exact ⟨_, rfl⟩
  case unfold => simp only [exec, execUnfold]; exact ⟨_, rfl⟩
  case rinfo => simp only [exec, execRinfo]; exact ⟨_, rfl⟩
  case part => simp only [exec, execPart]; exact ⟨_, rfl⟩
  case spawn => simp only [exec, execSpawn]; exact ⟨_, rfl⟩
  case fold => simp only [exec, execFold]; exact ⟨_, rfl⟩
  case vadd => simp only [exec, execVadd, v3Bin, vec]; exact ⟨_, rfl⟩
  case vsub => simp only [exec, execVsub, v3Bin, vec]; exact ⟨_, rfl⟩
  case vsadd => simp only [exec, execVsadd, v3Bin, vec]; exact ⟨_, rfl⟩
  case vssub => simp only [exec, execVssub, v3Bin, vec]; exact ⟨_, rfl⟩
  case vabsd => simp only [exec, execVabsd, v3Bin, vec]; exact ⟨_, rfl⟩
  case vmin => simp only [exec, execVmin, v3Bin, vec]; exact ⟨_, rfl⟩
  case vmax => simp only [exec, execVmax, v3Bin, vec]; exact ⟨_, rfl⟩
  case vabs => simp only [exec, execVabs, v3Un, vec]; exact ⟨_, rfl⟩
  case vneg => simp only [exec, execVneg, v3Un, vec]; exact ⟨_, rfl⟩
  case vmul => simp only [exec, execVmul, v3Bin, vec]; exact ⟨_, rfl⟩
  case vmulh => simp only [exec, execVmulh, v3Bin, vec]; exact ⟨_, rfl⟩
  case vmad => simp only [exec, execVmad, v3Tri, vec]; exact ⟨_, rfl⟩
  case vand => simp only [exec, execVand, v3Bin, vec]; exact ⟨_, rfl⟩
  case vor => simp only [exec, execVor, v3Bin, vec]; exact ⟨_, rfl⟩
  case vxor => simp only [exec, execVxor, v3Bin, vec]; exact ⟨_, rfl⟩
  case vandn => simp only [exec, execVandn, v3Bin, vec]; exact ⟨_, rfl⟩
  case vlop3 => simp only [exec, execVlop3, vec]; exact ⟨_, rfl⟩
  case vshl => simp only [exec, execVshl, v3Bin, vec]; exact ⟨_, rfl⟩
  case vshr => simp only [exec, execVshr, v3Bin, vec]; exact ⟨_, rfl⟩
  case vsar => simp only [exec, execVsar, v3Bin, vec]; exact ⟨_, rfl⟩
  case vrot => simp only [exec, execVrot, v3Bin, vec]; exact ⟨_, rfl⟩
  case vclz => simp only [exec, execVclz, v3Un, vec]; exact ⟨_, rfl⟩
  case vctz => simp only [exec, execVctz, v3Un, vec]; exact ⟨_, rfl⟩
  case vpop => simp only [exec, execVpop, v3Un, vec]; exact ⟨_, rfl⟩
  case vbrev => simp only [exec, execVbrev, v3Un, vec]; exact ⟨_, rfl⟩
  case vbfx => simp only [exec, execVbfx, v3Bin, vec]; exact ⟨_, rfl⟩
  case vbfi => simp only [exec, execVbfi, v3Tri, vec]; exact ⟨_, rfl⟩
  case vpdep => simp only [exec, execVpdep, v3Bin, vec]; exact ⟨_, rfl⟩
  case vpext => simp only [exec, execVpext, v3Bin, vec]; exact ⟨_, rfl⟩
  case vbperm => simp only [exec, execVbperm, vec]; exact ⟨_, rfl⟩
  case vgfmat => simp only [exec, execVgfmat, v3Bin, vec]; exact ⟨_, rfl⟩
  case vaddImm => simp only [exec, execVaddImm, viBin, vec]; exact ⟨_, rfl⟩
  case vsubImm => simp only [exec, execVsubImm, viBin, vec]; exact ⟨_, rfl⟩
  case vsaddImm => simp only [exec, execVsaddImm, viBin, vec]; exact ⟨_, rfl⟩
  case vssubImm => simp only [exec, execVssubImm, viBin, vec]; exact ⟨_, rfl⟩
  case vabsdImm => simp only [exec, execVabsdImm, viBin, vec]; exact ⟨_, rfl⟩
  case vminImm => simp only [exec, execVminImm, viBin, vec]; exact ⟨_, rfl⟩
  case vmaxImm => simp only [exec, execVmaxImm, viBin, vec]; exact ⟨_, rfl⟩
  case vmulImm => simp only [exec, execVmulImm, viBin, vec]; exact ⟨_, rfl⟩
  case vandImm => simp only [exec, execVandImm, viBin, vec]; exact ⟨_, rfl⟩
  case vorImm => simp only [exec, execVorImm, viBin, vec]; exact ⟨_, rfl⟩
  case vxorImm => simp only [exec, execVxorImm, viBin, vec]; exact ⟨_, rfl⟩
  case vandnImm => simp only [exec, execVandnImm, viBin, vec]; exact ⟨_, rfl⟩
  case vshlImm => simp only [exec, execVshlImm, viBin, vec]; exact ⟨_, rfl⟩
  case vshrImm => simp only [exec, execVshrImm, viBin, vec]; exact ⟨_, rfl⟩
  case vsarImm => simp only [exec, execVsarImm, viBin, vec]; exact ⟨_, rfl⟩
  case vrotImm => simp only [exec, execVrotImm, viBin, vec]; exact ⟨_, rfl⟩
  case vfaddImm => simp only [exec, execVfaddImm, viBin, vec]; exact ⟨_, rfl⟩
  case vfmulImm => simp only [exec, execVfmulImm, viBin, vec]; exact ⟨_, rfl⟩
  case vfminImm => simp only [exec, execVfminImm, viBin, vec]; exact ⟨_, rfl⟩
  case vfmaxImm => simp only [exec, execVfmaxImm, viBin, vec]; exact ⟨_, rfl⟩
  case vmovImm => simp only [exec, execVmovImm, vec]; exact ⟨_, rfl⟩
  case vfadd => simp only [exec, execVfadd, vf2, v3Bin, vec]; exact ⟨_, rfl⟩
  case vfmul => simp only [exec, execVfmul, vf2, v3Bin, vec]; exact ⟨_, rfl⟩
  case vfma => simp only [exec, execVfma, v3Tri, vec]; exact ⟨_, rfl⟩
  case vfmin => simp only [exec, execVfmin, vf2, v3Bin, vec]; exact ⟨_, rfl⟩
  case vfmax => simp only [exec, execVfmax, vf2, v3Bin, vec]; exact ⟨_, rfl⟩
  case vfclass => simp only [exec, execVfclass, v3Un, vec]; exact ⟨_, rfl⟩
  case vfrnd => simp only [exec, execVfrnd, vf1, v3Un, vec]; exact ⟨_, rfl⟩
  case vfscale => simp only [exec, execVfscale, v3Bin, vec]; exact ⟨_, rfl⟩
  case vfrcp => simp only [exec, execVfrcp, vf1, v3Un, vec]; exact ⟨_, rfl⟩
  case vfrsq => simp only [exec, execVfrsq, vf1, v3Un, vec]; exact ⟨_, rfl⟩
  case vfsqrt => simp only [exec, execVfsqrt, vf1, v3Un, vec]; exact ⟨_, rfl⟩
  case vfdiv => simp only [exec, execVfdiv, vf2, v3Bin, vec]; exact ⟨_, rfl⟩
  case vfexp2 => simp only [exec, execVfexp2, vf1, v3Un, vec]; exact ⟨_, rfl⟩
  case vflog2 => simp only [exec, execVflog2, vf1, v3Un, vec]; exact ⟨_, rfl⟩
  case vfsinp => simp only [exec, execVfsinp, vf1, v3Un, vec]; exact ⟨_, rfl⟩
  case vfcosp => simp only [exec, execVfcosp, vf1, v3Un, vec]; exact ⟨_, rfl⟩
  case vicmp => simp only [exec, execVicmp, vcmp]; exact ⟨_, rfl⟩
  case vfcmp => simp only [exec, execVfcmp, vcmp]; exact ⟨_, rfl⟩
  case vpand => simp only [exec, execVpand, vpred]; exact ⟨_, rfl⟩
  case vpor => simp only [exec, execVpor, vpred]; exact ⟨_, rfl⟩
  case vpxor => simp only [exec, execVpxor, vpred]; exact ⟨_, rfl⟩
  case vpnot => simp only [exec, execVpnot, vpred]; exact ⟨_, rfl⟩
  case vpmov => simp only [exec, execVpmov, vpred]; exact ⟨_, rfl⟩
  case vsetp => simp only [exec, execVsetp, vpred]; exact ⟨_, rfl⟩
  case vcvt => simp only [exec, execVcvt, vec]; exact ⟨_, rfl⟩
  case vpack => simp only [exec, execVpack, vec]; exact ⟨_, rfl⟩
  case vunpack => simp only [exec, execVunpack, vec]; exact ⟨_, rfl⟩
  case vmov => simp only [exec, execVmov, v3Un, vec]; exact ⟨_, rfl⟩
  case vsel => simp only [exec, execVsel]; exact ⟨_, rfl⟩
  case vbcast => simp only [exec, execVbcast, vec]; exact ⟨_, rfl⟩
  case vidx => simp only [exec, execVidx, vec]; exact ⟨_, rfl⟩
  case vshfl => simp only [exec, execVshfl, xlane]; exact ⟨_, rfl⟩
  case vbal => simp only [exec, execVbal, xlane]; exact ⟨_, rfl⟩
  case vany => simp only [exec, execVany, voteAll]; exact ⟨_, rfl⟩
  case vall => simp only [exec, execVall, voteAll]; exact ⟨_, rfl⟩
  case vcnt => simp only [exec, execVcnt, xlane]; exact ⟨_, rfl⟩
  case vmatch => simp only [exec, execVmatch, xlane]; exact ⟨_, rfl⟩
  case vred => simp only [exec, execVred, xlane]; exact ⟨_, rfl⟩
  case vld => simp only [exec, execVld, load]; exact ⟨_, rfl⟩
  case vldu => simp only [exec, execVldu, load]; exact ⟨_, rfl⟩
  case vgath => simp only [exec, execVgath, load]; exact ⟨_, rfl⟩
  case vgathMt => simp only [exec, execVgathMt, load]; exact ⟨_, rfl⟩
  case vst => simp only [exec, execVst, store]; exact ⟨_, rfl⟩
  case vscat => simp only [exec, execVscat, store]; exact ⟨_, rfl⟩
  case sld => simp only [exec, execSld, load]; exact ⟨_, rfl⟩
  case sst => simp only [exec, execSst, store]; exact ⟨_, rfl⟩
  case pref => simp only [exec, execPref, vec]; exact ⟨_, rfl⟩
  case vatomAdd => simp only [exec, execVatomAdd, atomic]; exact ⟨_, rfl⟩
  case vatomMin => simp only [exec, execVatomMin, atomic]; exact ⟨_, rfl⟩
  case vatomMax => simp only [exec, execVatomMax, atomic]; exact ⟨_, rfl⟩
  case vatomAnd => simp only [exec, execVatomAnd, atomic]; exact ⟨_, rfl⟩
  case vatomOr => simp only [exec, execVatomOr, atomic]; exact ⟨_, rfl⟩
  case vatomXor => simp only [exec, execVatomXor, atomic]; exact ⟨_, rfl⟩
  case vatomExch => simp only [exec, execVatomExch, atomic]; exact ⟨_, rfl⟩
  case vatomCas => simp only [exec, execVatomCas, atomic]; exact ⟨_, rfl⟩
  case satomAdd => simp only [exec, execSatomAdd, atomic]; exact ⟨_, rfl⟩
  case satomMin => simp only [exec, execSatomMin, atomic]; exact ⟨_, rfl⟩
  case satomMax => simp only [exec, execSatomMax, atomic]; exact ⟨_, rfl⟩
  case satomAnd => simp only [exec, execSatomAnd, atomic]; exact ⟨_, rfl⟩
  case satomOr => simp only [exec, execSatomOr, atomic]; exact ⟨_, rfl⟩
  case satomXor => simp only [exec, execSatomXor, atomic]; exact ⟨_, rfl⟩
  case satomExch => simp only [exec, execSatomExch, atomic]; exact ⟨_, rfl⟩
  case satomCas => simp only [exec, execSatomCas, atomic]; exact ⟨_, rfl⟩
  case fence => simp only [exec, execFence]; exact ⟨_, rfl⟩
  case fencex => simp only [exec, execFencex]; exact ⟨_, rfl⟩
  case bari => simp only [exec, execBari, barrierOp]; exact ⟨_, rfl⟩
  case bara => simp only [exec, execBara, arriveAt, barrierOp]; exact ⟨_, rfl⟩
  case barw => simp only [exec, execBarw, barrierOp]; exact ⟨_, rfl⟩
  case barx => simp only [exec, execBarx, arriveAt, barrierOp]; exact ⟨_, rfl⟩
  case bclose => simp only [exec, execBclose, groupOp]; exact ⟨_, rfl⟩
  case bwait => simp only [exec, execBwait, groupOp]; exact ⟨_, rfl⟩
  case cflush => simp only [exec, execCflush, cacheOp, vec]; exact ⟨_, rfl⟩
  case cinv => simp only [exec, execCinv, cacheOp, vec]; exact ⟨_, rfl⟩
  case cclean => simp only [exec, execCclean, cacheOp, vec]; exact ⟨_, rfl⟩
  case wqpop => simp only [exec, execWqpop, store, wqOp]; exact ⟨_, rfl⟩
  case wqpush => simp only [exec, execWqpush, load, wqOp]; exact ⟨_, rfl⟩
  case evwait => simp only [exec, execEvwait]; exact ⟨_, rfl⟩
  case macq => simp only [exec, execMacq, accOp, groupOp]; exact ⟨_, rfl⟩
  case mrel => simp only [exec, execMrel, accOp, groupOp]; exact ⟨_, rfl⟩
  case mrelF => simp only [exec, execMrelF, accOp, groupOp]; exact ⟨_, rfl⟩
  case mzero => simp only [exec, execMzero, accOp, groupOp]; exact ⟨_, rfl⟩
  case mmul => simp only [exec, execMmul, groupOp]; exact ⟨_, rfl⟩
  case mrd => simp only [exec, execMrd, accOp, groupOp]; exact ⟨_, rfl⟩
  case mwr => simp only [exec, execMwr, accOp, groupOp]; exact ⟨_, rfl⟩
  case mld => simp only [exec, execMld, accOp, groupOp]; exact ⟨_, rfl⟩
  case mst => simp only [exec, execMst, accOp, groupOp]; exact ⟨_, rfl⟩
  case hld => simp only [exec, execHld]; exact ⟨_, rfl⟩
  case hst => simp only [exec, execHst]; exact ⟨_, rfl⟩
  case hset => simp only [exec, execHset]; exact ⟨_, rfl⟩
  case hget => simp only [exec, execHget]; exact ⟨_, rfl⟩
  case cpyt => simp only [exec, execCpyt, command]; exact ⟨_, rfl⟩
  case cpyl => simp only [exec, execCpyl, command]; exact ⟨_, rfl⟩
  case gath => simp only [exec, execGath, command]; exact ⟨_, rfl⟩
  case coll => simp only [exec, execColl, command]; exact ⟨_, rfl⟩
  case qfence => simp only [exec, execQfence]; exact ⟨_, rfl⟩
  case fwait => simp only [exec, execFwait]; exact ⟨_, rfl⟩
  case ftest => simp only [exec, execFtest]; exact ⟨_, rfl⟩
  case fcancel => simp only [exec, execFcancel, command]; exact ⟨_, rfl⟩
  case glaunch => simp only [exec, execGlaunch, load]; exact ⟨_, rfl⟩
  case gcancel => simp only [exec, execGcancel]; exact ⟨_, rfl⟩
  case gwait => simp only [exec, execGwait]; exact ⟨_, rfl⟩
  case gwaitAll => simp only [exec, execGwaitAll]; exact ⟨_, rfl⟩
  case trap => simp only [exec, execTrap]; exact ⟨_, rfl⟩
  case tret => simp only [exec, execTret]; exact ⟨_, rfl⟩
  case tesc => simp only [exec, execTesc]; exact ⟨_, rfl⟩
  case halt => simp only [exec, execHalt]; exact ⟨_, rfl⟩
  case sget => simp only [exec, execSget]; exact ⟨_, rfl⟩
  case sset => simp only [exec, execSset]; exact ⟨_, rfl⟩
  case tlbinv => simp only [exec, execTlbinv]; exact ⟨_, rfl⟩
  case own => simp only [exec, execOwn]; exact ⟨_, rfl⟩
  all_goals (exfalso; revert hi; simp [Instr.isInstruction, encode, sCode, siCode, v3Code, viCode, mCode, predCode, cvtCode, xlaneCode, encodeSpecial]; done)

end Sys2Proof.Machine
end

