-- ==== Sys2Proof/Laws/Memory.lean ====
section
/-! SUPPORT. The canonical form of byte memories: every memory operation keeps it, and every update of the state that
writes no memory keeps it for the package. -/

set_option Elab.async false

namespace Sys2Proof.Machine

/-! ## One memory -/

theorem Memory.above_of_lt {a b : Nat} {m : Memory} (h : Memory.above b m = true) (l : a ≤ b) : Memory.above a m = true := by
  cases m with
  | nil => rfl
  | cons c rest => simp only [Memory.above, decide_eq_true_eq] at h ⊢; omega

/-- The first cell, the order behind it, and the form of the rest. -/
theorem Memory.wf_cons {c : Host.Cell} {m : Memory} :
    Memory.wf (c :: m) = true ↔ c.2 ≠ Memory.blank ∧ Memory.above c.1 m = true ∧ Memory.wf m = true := by
  obtain ⟨k, v⟩ := c
  simp [Memory.wf, and_assoc]

theorem Memory.above_write {k a : Nat} {b : Byte} {m : Memory} (hm : Memory.above k m = true) (h : k < a) :
    Memory.wf m = true → Memory.above k (Memory.write m a b) = true := by
  cases m with
  | nil => intro _; simp only [Memory.write]; split <;> simp [Memory.above, h]
  | cons c rest =>
    obtain ⟨k', v⟩ := c
    intro w
    have w' := Memory.wf_cons.1 w
    have l : k < k' := by simpa [Memory.above] using hm
    simp only [Memory.write]
    split
    · split
      · exact Memory.above_of_lt w'.2.1 (Nat.le_of_lt l)
      · simp [Memory.above, h]
    · split
      · split <;> simp [Memory.above, h, l]
      · simp [Memory.above, l]

/-- Writing a byte keeps the canonical form. -/
theorem Memory.wf_write {m : Memory} (a : Nat) (b : Byte) (h : Memory.wf m = true) : Memory.wf (Memory.write m a b) = true := by
  induction m with
  | nil => simp only [Memory.write]; split <;> simp_all [Memory.wf, Memory.above]
  | cons c rest ih =>
    obtain ⟨k, v⟩ := c
    have h' := Memory.wf_cons.1 h
    simp only [Memory.write]
    split
    · split
      · exact h'.2.2
      · next e n => subst e; exact Memory.wf_cons.2 ⟨n, h'.2.1, h'.2.2⟩
    · split
      · next l =>
        split
        · exact h
        · next n => exact Memory.wf_cons.2 ⟨n, by simp [Memory.above, l], h⟩
      · next n l => exact Memory.wf_cons.2 ⟨h'.1, Memory.above_write h'.2.1 (show k < a by omega) h'.2.2, ih h'.2.2⟩

/-- So does writing bytes. -/
theorem Memory.wf_writeBytes {m : Memory} (a : Nat) (bs : List Byte) (h : Memory.wf m = true) :
    Memory.wf (Memory.writeBytes m a bs) = true := by
  induction bs generalizing m a with
  | nil => exact h
  | cons b bs ih => exact ih (a + 1) (Memory.wf_write a b h)

/-- So does writing a little-endian value. -/
theorem Memory.wf_writeLE {m : Memory} (a n v : Nat) (h : Memory.wf m = true) : Memory.wf (Memory.writeLE m a n v) = true :=
  Memory.wf_writeBytes a _ h

theorem Memory.above_filter {k : Nat} {m : Memory} (p : Host.Cell → Bool) (h : Memory.above k m = true) (w : Memory.wf m = true) :
    Memory.above k (m.filter p) = true := by
  induction m with
  | nil => rfl
  | cons c rest ih =>
    have w' := Memory.wf_cons.1 w
    have l : k < c.1 := by obtain ⟨k', v⟩ := c; simpa [Memory.above] using h
    by_cases q : p c
    · rw [List.filter_cons_of_pos q]; obtain ⟨k', v⟩ := c; simpa [Memory.above] using h
    · rw [List.filter_cons_of_neg q]; exact ih (Memory.above_of_lt w'.2.1 (Nat.le_of_lt l)) w'.2.2

/-- So does dropping cells. -/
theorem Memory.wf_filter {m : Memory} (p : Host.Cell → Bool) (h : Memory.wf m = true) : Memory.wf (m.filter p) = true := by
  induction m with
  | nil => rfl
  | cons c rest ih =>
    have w := Memory.wf_cons.1 h
    by_cases q : p c
    · rw [List.filter_cons_of_pos q]; exact Memory.wf_cons.2 ⟨w.1, Memory.above_filter p w.2.1 w.2.2, ih w.2.2⟩
    · rw [List.filter_cons_of_neg q]; exact ih w.2.2

/-- So does clearing a span. -/
theorem Memory.wf_clear {m : Memory} (lo hi : Nat) (h : Memory.wf m = true) : Memory.wf (Memory.clear m lo hi) = true :=
  Memory.wf_filter _ h

/-- So does writing cells one after another, wherever each goes. -/
theorem Memory.wf_foldl_write {α : Type} (xs : List α) (at_ : α → Nat) (b : α → Byte) {m : Memory} (h : Memory.wf m = true) :
    Memory.wf (xs.foldl (fun m x => Memory.write m (at_ x) (b x)) m) = true := by
  induction xs generalizing m with
  | nil => exact h
  | cons x xs ih => exact ih (Memory.wf_write _ _ h)

/-- So does moving a memory that starts at or above d down by d. -/
theorem Memory.wf_down {m : Memory} (d : Nat) (h : Memory.wf m = true) (l : ∀ c ∈ m, d ≤ c.1) :
    Memory.wf (m.map (fun c => (c.1 - d, c.2))) = true := by
  induction m with
  | nil => rfl
  | cons c rest ih =>
    have w := Memory.wf_cons.1 h
    refine Memory.wf_cons.2 ⟨w.1, ?_, ih w.2.2 (fun x hx => l x (List.mem_cons_of_mem _ hx))⟩
    cases rest with
    | nil => rfl
    | cons y ys =>
      have a := w.2.1
      have b := l c List.mem_cons_self
      have e := l y (List.mem_cons_of_mem _ List.mem_cons_self)
      obtain ⟨k', v⟩ := y
      simp only [Memory.above, decide_eq_true_eq, List.map_cons] at a ⊢
      omega

/-! ## The memories of the package -/

theorem AMap.mem_of_find? {α : Type} {m : AMap α} {n : Nat} {v : α} (h : AMap.find? m n = some v) : (n, v) ∈ m := by
  induction m with
  | nil => simp [AMap.find?] at h
  | cons c rest ih =>
    obtain ⟨k, w⟩ := c
    simp only [AMap.find?] at h
    split at h
    · next e => subst e; simp_all
    · split at h
      · simp at h
      · exact List.mem_cons_of_mem _ (ih h)

theorem AMap.mem_set {α : Type} {m : AMap α} {n : Nat} {v : α} {p : Nat × α} (h : p ∈ AMap.set m n v) : p = (n, v) ∨ p ∈ m := by
  induction m with
  | nil => simpa [AMap.set] using h
  | cons c rest ih =>
    obtain ⟨k, w⟩ := c
    simp only [AMap.set] at h
    split at h
    · rcases List.mem_cons.1 h with h | h
      · exact .inl h
      · exact .inr (List.mem_cons_of_mem _ h)
    · split at h
      · rcases List.mem_cons.1 h with h | h
        · exact .inl h
        · exact .inr h
      · rcases List.mem_cons.1 h with h | h
        · exact .inr (h ▸ List.mem_cons_self)
        · rcases ih h with h | h
          · exact .inl h
          · exact .inr (List.mem_cons_of_mem _ h)

/-- The scratchpad of a core. -/
theorem State.memOk.core {s : State} (h : s.memOk) (g : Nat) : Memory.wf (s.core g).spm = true := by
  simp only [State.core, AMap.getD]
  cases e : AMap.find? s.cores g with
  | none => rfl
  | some c => exact h.2.2 _ (AMap.mem_of_find? e)

/-- A core whose scratchpad is canonical may take its place. -/
theorem State.memOk.setCore {s : State} (h : s.memOk) (g : Nat) {c : Core} (w : Memory.wf c.spm = true) : (s.setCore g c).memOk := by
  refine ⟨h.1, h.2.1, fun p hp => ?_⟩
  rcases AMap.mem_set (show p ∈ AMap.set s.cores g c from hp) with rfl | hp
  · exact w
  · exact h.2.2 p hp

/-- A change of a core that keeps its scratchpad canonical. -/
theorem State.memOk.updCore {s : State} (h : s.memOk) (g : Nat) {f : Core → Core}
    (w : Memory.wf (s.core g).spm = true → Memory.wf (f (s.core g)).spm = true) : (s.updCore g f).memOk :=
  h.setCore g (w (h.core g))

/-- What writes no memory. -/
theorem State.memOk.of_eq {s t : State} (h : s.memOk) (a : t.mem = s.mem) (b : t.ctl.window = s.ctl.window) (c : t.cores = s.cores) :
    t.memOk := by
  unfold State.memOk; rw [a, b, c]; exact h

theorem State.memOk.putHolder {s : State} (h : s.memOk) (g q : Nat) (x : Holder) : (s.putHolder g q x).memOk :=
  h.updCore g id

theorem State.memOk.updCluster {s : State} (h : s.memOk) (x : Nat) (f : Cluster → Cluster) : (s.updCluster x f).memOk :=
  h.of_eq rfl rfl rfl

theorem State.memOk.updDie {s : State} (h : s.memOk) (d : Nat) (f : Die → Die) : (s.updDie d f).memOk := h.of_eq rfl rfl rfl

theorem State.memOk.updCtl {s : State} (h : s.memOk) {f : Control → Control} (w : (f s.ctl).window = s.ctl.window) : (s.updCtl f).memOk :=
  h.of_eq rfl w rfl

theorem State.memOk.send {s : State} (h : s.memOk) (m : OutMsg) : (s.send m).memOk := h.of_eq rfl rfl rfl

theorem State.memOk.useFresh {s : State} (h : s.memOk) : s.useFresh.memOk := h.of_eq rfl rfl rfl

/-- Memory after a write that keeps the form. -/
theorem State.memOk.withMem {s : State} (h : s.memOk) {m : Memory} (w : Memory.wf m = true) : ({ s with mem := m } : State).memOk :=
  ⟨w, h.2⟩

end Sys2Proof.Machine
end

