-- ==== Sys2Proof/Laws/PerInstr.lean ====
section
/-! SUPPORT. One lemma for each constructor: an instruction's words decode to it. -/

set_option Elab.async false

set_option linter.unusedSimpArgs false

namespace Sys2Proof.Laws.RoundTrip

open Sys2Proof Sys2Proof.Machine

/-- The words of a well-formed instruction decode to it, whatever bytes follow. -/
def Statement (i : Instr) : Prop :=
  wellFormed i = true → i.isInstruction = true → ∀ rest : List Byte, decodeBytes (encodeBytes i ++ rest) = .ok (i, rest)

theorem bytes_one (i : Instr) (w : Nat) (h : encode i = [w]) (rest : List Byte) :
    encodeBytes i ++ rest = leBytes 8 w ++ rest := by
  simp [encodeBytes, h]

theorem bytes_two (i : Instr) (w t : Nat) (h : encode i = [w, t]) (rest : List Byte) :
    encodeBytes i ++ rest = leBytes 8 w ++ (leBytes 8 t ++ rest) := by
  simp [encodeBytes, h]

theorem sadd (o : SOp) : Statement (.sadd o) := by
  intro wf _ rest
  rw [bytes_one _ _ rfl]
  exact readS_word 0x02 0 .sadd o rest rfl (by decide) (by decide) (by decide) (SOp.ok_bounds wf) wf
theorem ssub (o : SOp) : Statement (.ssub o) := by
  intro wf _ rest
  rw [bytes_one _ _ rfl]
  exact readS_word 0x02 1 .ssub o rest rfl (by decide) (by decide) (by decide) (SOp.ok_bounds wf) wf
theorem smul (o : SOp) : Statement (.smul o) := by
  intro wf _ rest
  rw [bytes_one _ _ rfl]
  exact readS_word 0x02 2 .smul o rest rfl (by decide) (by decide) (by decide) (SOp.ok_bounds wf) wf
theorem smulh (o : SOp) : Statement (.smulh o) := by
  intro wf _ rest
  rw [bytes_one _ _ rfl]
  exact readS_word 0x02 3 .smulh o rest rfl (by decide) (by decide) (by decide) (SOp.ok_bounds wf) wf
theorem smin (o : SOp) : Statement (.smin o) := by
  intro wf _ rest
  rw [bytes_one _ _ rfl]
  exact readS_word 0x02 4 .smin o rest rfl (by decide) (by decide) (by decide) (SOp.ok_bounds wf) wf
theorem smax (o : SOp) : Statement (.smax o) := by
  intro wf _ rest
  rw [bytes_one _ _ rfl]
  exact readS_word 0x02 5 .smax o rest rfl (by decide) (by decide) (by decide) (SOp.ok_bounds wf) wf
theorem sdiv (o : SOp) : Statement (.sdiv o) := by
  intro wf _ rest
  rw [bytes_one _ _ rfl]
  exact readS_word 0x03 0 .sdiv o rest rfl (by decide) (by decide) (by decide) (SOp.ok_bounds wf) wf
theorem srem (o : SOp) : Statement (.srem o) := by
  intro wf _ rest
  rw [bytes_one _ _ rfl]
  exact readS_word 0x03 1 .srem o rest rfl (by decide) (by decide) (by decide) (SOp.ok_bounds wf) wf
theorem sand (o : SOp) : Statement (.sand o) := by
  intro wf _ rest
  rw [bytes_one _ _ rfl]
  exact readS_word 0x04 0 .sand o rest rfl (by decide) (by decide) (by decide) (SOp.ok_bounds wf) wf
theorem sor (o : SOp) : Statement (.sor o) := by
  intro wf _ rest
  rw [bytes_one _ _ rfl]
  exact readS_word 0x04 1 .sor o rest rfl (by decide) (by decide) (by decide) (SOp.ok_bounds wf) wf
theorem sxor (o : SOp) : Statement (.sxor o) := by
  intro wf _ rest
  rw [bytes_one _ _ rfl]
  exact readS_word 0x04 2 .sxor o rest rfl (by decide) (by decide) (by decide) (SOp.ok_bounds wf) wf
theorem sshl (o : SOp) : Statement (.sshl o) := by
  intro wf _ rest
  rw [bytes_one _ _ rfl]
  exact readS_word 0x05 0 .sshl o rest rfl (by decide) (by decide) (by decide) (SOp.ok_bounds wf) wf
theorem sshr (o : SOp) : Statement (.sshr o) := by
  intro wf _ rest
  rw [bytes_one _ _ rfl]
  exact readS_word 0x05 1 .sshr o rest rfl (by decide) (by decide) (by decide) (SOp.ok_bounds wf) wf
theorem ssar (o : SOp) : Statement (.ssar o) := by
  intro wf _ rest
  rw [bytes_one _ _ rfl]
  exact readS_word 0x05 2 .ssar o rest rfl (by decide) (by decide) (by decide) (SOp.ok_bounds wf) wf
theorem srot (o : SOp) : Statement (.srot o) := by
  intro wf _ rest
  rw [bytes_one _ _ rfl]
  exact readS_word 0x05 3 .srot o rest rfl (by decide) (by decide) (by decide) (SOp.ok_bounds wf) wf
theorem sclz (o : SOp) : Statement (.sclz o) := by
  intro wf _ rest
  rw [bytes_one _ _ rfl]
  exact readS_word 0x06 0 .sclz o rest rfl (by decide) (by decide) (by decide) (SOp.ok_bounds wf) wf
theorem spop (o : SOp) : Statement (.spop o) := by
  intro wf _ rest
  rw [bytes_one _ _ rfl]
  exact readS_word 0x06 1 .spop o rest rfl (by decide) (by decide) (by decide) (SOp.ok_bounds wf) wf
theorem sbrev (o : SOp) : Statement (.sbrev o) := by
  intro wf _ rest
  rw [bytes_one _ _ rfl]
  exact readS_word 0x06 2 .sbrev o rest rfl (by decide) (by decide) (by decide) (SOp.ok_bounds wf) wf
theorem sbfx (o : SOp) : Statement (.sbfx o) := by
  intro wf _ rest
  rw [bytes_one _ _ rfl]
  exact readS_word 0x06 3 .sbfx o rest rfl (by decide) (by decide) (by decide) (SOp.ok_bounds wf) wf
theorem sbfi (o : SOp) : Statement (.sbfi o) := by
  intro wf _ rest
  rw [bytes_one _ _ rfl]
  exact readS_word 0x06 4 .sbfi o rest rfl (by decide) (by decide) (by decide) (SOp.ok_bounds wf) wf
theorem smov (o : SOp) : Statement (.smov o) := by
  intro wf _ rest
  rw [bytes_one _ _ rfl]
  exact readS_word 0x07 0 .smov o rest rfl (by decide) (by decide) (by decide) (SOp.ok_bounds wf) wf
theorem ssel (o : SOp) : Statement (.ssel o) := by
  intro wf _ rest
  rw [bytes_one _ _ rfl]
  exact readS_word 0x07 1 .ssel o rest rfl (by decide) (by decide) (by decide) (SOp.ok_bounds wf) wf
theorem sli (o : SIOp) : Statement (.sli o) := by
  intro wf _ rest
  rw [bytes_one _ _ rfl]
  exact readSI_word 0x10 0 .sli o rest rfl (by decide) (by decide) (SIOp.ok_bounds (Bool.and_eq_true_iff.mp wf).1) wf
theorem slhi (o : SIOp) : Statement (.slhi o) := by
  intro wf _ rest
  rw [bytes_one _ _ rfl]
  exact readSI_word 0x10 1 .slhi o rest rfl (by decide) (by decide) (SIOp.ok_bounds (Bool.and_eq_true_iff.mp wf).1) wf
theorem saddImm (o : SIOp) : Statement (.saddImm o) := by
  intro wf _ rest
  rw [bytes_one _ _ rfl]
  exact readSI_word 0x11 0 .saddImm o rest rfl (by decide) (by decide) (SIOp.ok_bounds wf) wf
theorem smulImm (o : SIOp) : Statement (.smulImm o) := by
  intro wf _ rest
  rw [bytes_one _ _ rfl]
  exact readSI_word 0x11 1 .smulImm o rest rfl (by decide) (by decide) (SIOp.ok_bounds wf) wf
theorem sminI32Imm (o : SIOp) : Statement (.sminI32Imm o) := by
  intro wf _ rest
  rw [bytes_one _ _ rfl]
  exact readSI_word 0x11 2 .sminI32Imm o rest rfl (by decide) (by decide) (SIOp.ok_bounds wf) wf
theorem smaxI32Imm (o : SIOp) : Statement (.smaxI32Imm o) := by
  intro wf _ rest
  rw [bytes_one _ _ rfl]
  exact readSI_word 0x11 3 .smaxI32Imm o rest rfl (by decide) (by decide) (SIOp.ok_bounds wf) wf
theorem sminN32Imm (o : SIOp) : Statement (.sminN32Imm o) := by
  intro wf _ rest
  rw [bytes_one _ _ rfl]
  exact readSI_word 0x11 4 .sminN32Imm o rest rfl (by decide) (by decide) (SIOp.ok_bounds wf) wf
theorem smaxN32Imm (o : SIOp) : Statement (.smaxN32Imm o) := by
  intro wf _ rest
  rw [bytes_one _ _ rfl]
  exact readSI_word 0x11 5 .smaxN32Imm o rest rfl (by decide) (by decide) (SIOp.ok_bounds wf) wf
theorem sandImm (o : SIOp) : Statement (.sandImm o) := by
  intro wf _ rest
  rw [bytes_one _ _ rfl]
  exact readSI_word 0x12 0 .sandImm o rest rfl (by decide) (by decide) (SIOp.ok_bounds wf) wf
theorem sorImm (o : SIOp) : Statement (.sorImm o) := by
  intro wf _ rest
  rw [bytes_one _ _ rfl]
  exact readSI_word 0x12 1 .sorImm o rest rfl (by decide) (by decide) (SIOp.ok_bounds wf) wf
theorem sxorImm (o : SIOp) : Statement (.sxorImm o) := by
  intro wf _ rest
  rw [bytes_one _ _ rfl]
  exact readSI_word 0x12 2 .sxorImm o rest rfl (by decide) (by decide) (SIOp.ok_bounds wf) wf
theorem sshlImm (o : SIOp) : Statement (.sshlImm o) := by
  intro wf _ rest
  rw [bytes_one _ _ rfl]
  exact readSI_word 0x13 0 .sshlImm o rest rfl (by decide) (by decide) (SIOp.ok_bounds (Bool.and_eq_true_iff.mp wf).1) wf
theorem sshrImm (o : SIOp) : Statement (.sshrImm o) := by
  intro wf _ rest
  rw [bytes_one _ _ rfl]
  exact readSI_word 0x13 1 .sshrImm o rest rfl (by decide) (by decide) (SIOp.ok_bounds (Bool.and_eq_true_iff.mp wf).1) wf
theorem ssarImm (o : SIOp) : Statement (.ssarImm o) := by
  intro wf _ rest
  rw [bytes_one _ _ rfl]
  exact readSI_word 0x13 2 .ssarImm o rest rfl (by decide) (by decide) (SIOp.ok_bounds (Bool.and_eq_true_iff.mp wf).1) wf
theorem srotImm (o : SIOp) : Statement (.srotImm o) := by
  intro wf _ rest
  rw [bytes_one _ _ rfl]
  exact readSI_word 0x13 3 .srotImm o rest rfl (by decide) (by decide) (SIOp.ok_bounds (Bool.and_eq_true_iff.mp wf).1) wf
theorem vadd (o : V3Op) : Statement (.vadd o) := by
  intro wf _ rest
  rw [bytes_one _ _ rfl]
  exact readV3_word 0x40 0 .vadd o rest rfl (by decide) (by decide) (V3Op.ok_bounds wf) wf
theorem vsub (o : V3Op) : Statement (.vsub o) := by
  intro wf _ rest
  rw [bytes_one _ _ rfl]
  exact readV3_word 0x40 1 .vsub o rest rfl (by decide) (by decide) (V3Op.ok_bounds wf) wf
theorem vsadd (o : V3Op) : Statement (.vsadd o) := by
  intro wf _ rest
  rw [bytes_one _ _ rfl]
  exact readV3_word 0x40 2 .vsadd o rest rfl (by decide) (by decide) (V3Op.ok_bounds wf) wf
theorem vssub (o : V3Op) : Statement (.vssub o) := by
  intro wf _ rest
  rw [bytes_one _ _ rfl]
  exact readV3_word 0x40 3 .vssub o rest rfl (by decide) (by decide) (V3Op.ok_bounds wf) wf
theorem vabsd (o : V3Op) : Statement (.vabsd o) := by
  intro wf _ rest
  rw [bytes_one _ _ rfl]
  exact readV3_word 0x40 4 .vabsd o rest rfl (by decide) (by decide) (V3Op.ok_bounds wf) wf
theorem vmin (o : V3Op) : Statement (.vmin o) := by
  intro wf _ rest
  rw [bytes_one _ _ rfl]
  exact readV3_word 0x40 5 .vmin o rest rfl (by decide) (by decide) (V3Op.ok_bounds wf) wf
theorem vmax (o : V3Op) : Statement (.vmax o) := by
  intro wf _ rest
  rw [bytes_one _ _ rfl]
  exact readV3_word 0x40 6 .vmax o rest rfl (by decide) (by decide) (V3Op.ok_bounds wf) wf
theorem vabs (o : V3Op) : Statement (.vabs o) := by
  intro wf _ rest
  rw [bytes_one _ _ rfl]
  exact readV3_word 0x40 7 .vabs o rest rfl (by decide) (by decide) (V3Op.ok_bounds wf) wf
theorem vneg (o : V3Op) : Statement (.vneg o) := by
  intro wf _ rest
  rw [bytes_one _ _ rfl]
  exact readV3_word 0x40 8 .vneg o rest rfl (by decide) (by decide) (V3Op.ok_bounds wf) wf
theorem vmul (o : V3Op) : Statement (.vmul o) := by
  intro wf _ rest
  rw [bytes_one _ _ rfl]
  exact readV3_word 0x41 0 .vmul o rest rfl (by decide) (by decide) (V3Op.ok_bounds wf) wf
theorem vmulh (o : V3Op) : Statement (.vmulh o) := by
  intro wf _ rest
  rw [bytes_one _ _ rfl]
  exact readV3_word 0x41 1 .vmulh o rest rfl (by decide) (by decide) (V3Op.ok_bounds wf) wf
theorem vmad (o : V3Op) : Statement (.vmad o) := by
  intro wf _ rest
  rw [bytes_one _ _ rfl]
  exact readV3_word 0x41 2 .vmad o rest rfl (by decide) (by decide) (V3Op.ok_bounds wf) wf
theorem vand (o : V3Op) : Statement (.vand o) := by
  intro wf _ rest
  rw [bytes_one _ _ rfl]
  exact readV3_word 0x42 0 .vand o rest rfl (by decide) (by decide) (V3Op.ok_bounds wf) wf
theorem vor (o : V3Op) : Statement (.vor o) := by
  intro wf _ rest
  rw [bytes_one _ _ rfl]
  exact readV3_word 0x42 1 .vor o rest rfl (by decide) (by decide) (V3Op.ok_bounds wf) wf
theorem vxor (o : V3Op) : Statement (.vxor o) := by
  intro wf _ rest
  rw [bytes_one _ _ rfl]
  exact readV3_word 0x42 2 .vxor o rest rfl (by decide) (by decide) (V3Op.ok_bounds wf) wf
theorem vandn (o : V3Op) : Statement (.vandn o) := by
  intro wf _ rest
  rw [bytes_one _ _ rfl]
  exact readV3_word 0x42 3 .vandn o rest rfl (by decide) (by decide) (V3Op.ok_bounds wf) wf
theorem vlop3 (o : V3Op) : Statement (.vlop3 o) := by
  intro wf _ rest
  rw [bytes_one _ _ rfl]
  exact readV3_word 0x42 4 .vlop3 o rest rfl (by decide) (by decide) (V3Op.ok_bounds wf) wf
theorem vshl (o : V3Op) : Statement (.vshl o) := by
  intro wf _ rest
  rw [bytes_one _ _ rfl]
  exact readV3_word 0x43 0 .vshl o rest rfl (by decide) (by decide) (V3Op.ok_bounds wf) wf
theorem vshr (o : V3Op) : Statement (.vshr o) := by
  intro wf _ rest
  rw [bytes_one _ _ rfl]
  exact readV3_word 0x43 1 .vshr o rest rfl (by decide) (by decide) (V3Op.ok_bounds wf) wf
theorem vsar (o : V3Op) : Statement (.vsar o) := by
  intro wf _ rest
  rw [bytes_one _ _ rfl]
  exact readV3_word 0x43 2 .vsar o rest rfl (by decide) (by decide) (V3Op.ok_bounds wf) wf
theorem vrot (o : V3Op) : Statement (.vrot o) := by
  intro wf _ rest
  rw [bytes_one _ _ rfl]
  exact readV3_word 0x43 3 .vrot o rest rfl (by decide) (by decide) (V3Op.ok_bounds wf) wf
theorem vclz (o : V3Op) : Statement (.vclz o) := by
  intro wf _ rest
  rw [bytes_one _ _ rfl]
  exact readV3_word 0x44 0 .vclz o rest rfl (by decide) (by decide) (V3Op.ok_bounds wf) wf
theorem vctz (o : V3Op) : Statement (.vctz o) := by
  intro wf _ rest
  rw [bytes_one _ _ rfl]
  exact readV3_word 0x44 1 .vctz o rest rfl (by decide) (by decide) (V3Op.ok_bounds wf) wf
theorem vpop (o : V3Op) : Statement (.vpop o) := by
  intro wf _ rest
  rw [bytes_one _ _ rfl]
  exact readV3_word 0x44 2 .vpop o rest rfl (by decide) (by decide) (V3Op.ok_bounds wf) wf
theorem vbrev (o : V3Op) : Statement (.vbrev o) := by
  intro wf _ rest
  rw [bytes_one _ _ rfl]
  exact readV3_word 0x44 3 .vbrev o rest rfl (by decide) (by decide) (V3Op.ok_bounds wf) wf
theorem vbfx (o : V3Op) : Statement (.vbfx o) := by
  intro wf _ rest
  rw [bytes_one _ _ rfl]
  exact readV3_word 0x44 4 .vbfx o rest rfl (by decide) (by decide) (V3Op.ok_bounds wf) wf
theorem vbfi (o : V3Op) : Statement (.vbfi o) := by
  intro wf _ rest
  rw [bytes_one _ _ rfl]
  exact readV3_word 0x44 5 .vbfi o rest rfl (by decide) (by decide) (V3Op.ok_bounds wf) wf
theorem vpdep (o : V3Op) : Statement (.vpdep o) := by
  intro wf _ rest
  rw [bytes_one _ _ rfl]
  exact readV3_word 0x45 0 .vpdep o rest rfl (by decide) (by decide) (V3Op.ok_bounds wf) wf
theorem vpext (o : V3Op) : Statement (.vpext o) := by
  intro wf _ rest
  rw [bytes_one _ _ rfl]
  exact readV3_word 0x45 1 .vpext o rest rfl (by decide) (by decide) (V3Op.ok_bounds wf) wf
theorem vbperm (o : V3Op) : Statement (.vbperm o) := by
  intro wf _ rest
  rw [bytes_one _ _ rfl]
  exact readV3_word 0x45 2 .vbperm o rest rfl (by decide) (by decide) (V3Op.ok_bounds wf) wf
theorem vgfmat (o : V3Op) : Statement (.vgfmat o) := by
  intro wf _ rest
  rw [bytes_one _ _ rfl]
  exact readV3_word 0x45 3 .vgfmat o rest rfl (by decide) (by decide) (V3Op.ok_bounds wf) wf
theorem vaddImm (o : VIOp) : Statement (.vaddImm o) := by
  intro wf _ rest
  exact readVI_word 0x60 0 .vaddImm o rest rfl rfl (by decide) (by decide) (VIOp.ok_bounds wf) wf
theorem vsubImm (o : VIOp) : Statement (.vsubImm o) := by
  intro wf _ rest
  exact readVI_word 0x60 1 .vsubImm o rest rfl rfl (by decide) (by decide) (VIOp.ok_bounds wf) wf
theorem vsaddImm (o : VIOp) : Statement (.vsaddImm o) := by
  intro wf _ rest
  exact readVI_word 0x60 2 .vsaddImm o rest rfl rfl (by decide) (by decide) (VIOp.ok_bounds wf) wf
theorem vssubImm (o : VIOp) : Statement (.vssubImm o) := by
  intro wf _ rest
  exact readVI_word 0x60 3 .vssubImm o rest rfl rfl (by decide) (by decide) (VIOp.ok_bounds wf) wf
theorem vabsdImm (o : VIOp) : Statement (.vabsdImm o) := by
  intro wf _ rest
  exact readVI_word 0x60 4 .vabsdImm o rest rfl rfl (by decide) (by decide) (VIOp.ok_bounds wf) wf
theorem vminImm (o : VIOp) : Statement (.vminImm o) := by
  intro wf _ rest
  exact readVI_word 0x60 5 .vminImm o rest rfl rfl (by decide) (by decide) (VIOp.ok_bounds wf) wf
theorem vmaxImm (o : VIOp) : Statement (.vmaxImm o) := by
  intro wf _ rest
  exact readVI_word 0x60 6 .vmaxImm o rest rfl rfl (by decide) (by decide) (VIOp.ok_bounds wf) wf
theorem vmulImm (o : VIOp) : Statement (.vmulImm o) := by
  intro wf _ rest
  exact readVI_word 0x61 0 .vmulImm o rest rfl rfl (by decide) (by decide) (VIOp.ok_bounds wf) wf
theorem vandImm (o : VIOp) : Statement (.vandImm o) := by
  intro wf _ rest
  exact readVI_word 0x62 0 .vandImm o rest rfl rfl (by decide) (by decide) (VIOp.ok_bounds wf) wf
theorem vorImm (o : VIOp) : Statement (.vorImm o) := by
  intro wf _ rest
  exact readVI_word 0x62 1 .vorImm o rest rfl rfl (by decide) (by decide) (VIOp.ok_bounds wf) wf
theorem vxorImm (o : VIOp) : Statement (.vxorImm o) := by
  intro wf _ rest
  exact readVI_word 0x62 2 .vxorImm o rest rfl rfl (by decide) (by decide) (VIOp.ok_bounds wf) wf
theorem vandnImm (o : VIOp) : Statement (.vandnImm o) := by
  intro wf _ rest
  exact readVI_word 0x62 3 .vandnImm o rest rfl rfl (by decide) (by decide) (VIOp.ok_bounds wf) wf
theorem vshlImm (o : VIOp) : Statement (.vshlImm o) := by
  intro wf _ rest
  exact readVI_word 0x63 0 .vshlImm o rest rfl rfl (by decide) (by decide) (VIOp.ok_bounds wf) wf
theorem vshrImm (o : VIOp) : Statement (.vshrImm o) := by
  intro wf _ rest
  exact readVI_word 0x63 1 .vshrImm o rest rfl rfl (by decide) (by decide) (VIOp.ok_bounds wf) wf
theorem vsarImm (o : VIOp) : Statement (.vsarImm o) := by
  intro wf _ rest
  exact readVI_word 0x63 2 .vsarImm o rest rfl rfl (by decide) (by decide) (VIOp.ok_bounds wf) wf
theorem vrotImm (o : VIOp) : Statement (.vrotImm o) := by
  intro wf _ rest
  exact readVI_word 0x63 3 .vrotImm o rest rfl rfl (by decide) (by decide) (VIOp.ok_bounds wf) wf
theorem vfaddImm (o : VIOp) : Statement (.vfaddImm o) := by
  intro wf _ rest
  exact readVI_word 0x68 0 .vfaddImm o rest rfl rfl (by decide) (by decide) (VIOp.ok_bounds wf) wf
theorem vfmulImm (o : VIOp) : Statement (.vfmulImm o) := by
  intro wf _ rest
  exact readVI_word 0x68 1 .vfmulImm o rest rfl rfl (by decide) (by decide) (VIOp.ok_bounds wf) wf
theorem vfminImm (o : VIOp) : Statement (.vfminImm o) := by
  intro wf _ rest
  exact readVI_word 0x68 3 .vfminImm o rest rfl rfl (by decide) (by decide) (VIOp.ok_bounds wf) wf
theorem vfmaxImm (o : VIOp) : Statement (.vfmaxImm o) := by
  intro wf _ rest
  exact readVI_word 0x68 4 .vfmaxImm o rest rfl rfl (by decide) (by decide) (VIOp.ok_bounds wf) wf
theorem vmovImm (o : VIOp) : Statement (.vmovImm o) := by
  intro wf _ rest
  exact readVI_word 0x74 0 .vmovImm o rest rfl rfl (by decide) (by decide) (VIOp.ok_bounds (Bool.and_eq_true_iff.mp wf).1) wf
theorem vfadd (o : V3Op) : Statement (.vfadd o) := by
  intro wf _ rest
  rw [bytes_one _ _ rfl]
  exact readV3_word 0x48 0 .vfadd o rest rfl (by decide) (by decide) (V3Op.ok_bounds wf) wf
theorem vfmul (o : V3Op) : Statement (.vfmul o) := by
  intro wf _ rest
  rw [bytes_one _ _ rfl]
  exact readV3_word 0x48 1 .vfmul o rest rfl (by decide) (by decide) (V3Op.ok_bounds wf) wf
theorem vfma (o : V3Op) : Statement (.vfma o) := by
  intro wf _ rest
  rw [bytes_one _ _ rfl]
  exact readV3_word 0x48 2 .vfma o rest rfl (by decide) (by decide) (V3Op.ok_bounds wf) wf
theorem vfmin (o : V3Op) : Statement (.vfmin o) := by
  intro wf _ rest
  rw [bytes_one _ _ rfl]
  exact readV3_word 0x48 3 .vfmin o rest rfl (by decide) (by decide) (V3Op.ok_bounds wf) wf
theorem vfmax (o : V3Op) : Statement (.vfmax o) := by
  intro wf _ rest
  rw [bytes_one _ _ rfl]
  exact readV3_word 0x48 4 .vfmax o rest rfl (by decide) (by decide) (V3Op.ok_bounds wf) wf
theorem vfclass (o : V3Op) : Statement (.vfclass o) := by
  intro wf _ rest
  rw [bytes_one _ _ rfl]
  exact readV3_word 0x48 5 .vfclass o rest rfl (by decide) (by decide) (V3Op.ok_bounds wf) wf
theorem vfrnd (o : V3Op) : Statement (.vfrnd o) := by
  intro wf _ rest
  rw [bytes_one _ _ rfl]
  exact readV3_word 0x48 6 .vfrnd o rest rfl (by decide) (by decide) (V3Op.ok_bounds wf) wf
theorem vfscale (o : V3Op) : Statement (.vfscale o) := by
  intro wf _ rest
  rw [bytes_one _ _ rfl]
  exact readV3_word 0x48 7 .vfscale o rest rfl (by decide) (by decide) (V3Op.ok_bounds wf) wf
theorem vfrcp (o : V3Op) : Statement (.vfrcp o) := by
  intro wf _ rest
  rw [bytes_one _ _ rfl]
  exact readV3_word 0x49 0 .vfrcp o rest rfl (by decide) (by decide) (V3Op.ok_bounds wf) wf
theorem vfrsq (o : V3Op) : Statement (.vfrsq o) := by
  intro wf _ rest
  rw [bytes_one _ _ rfl]
  exact readV3_word 0x49 1 .vfrsq o rest rfl (by decide) (by decide) (V3Op.ok_bounds wf) wf
theorem vfsqrt (o : V3Op) : Statement (.vfsqrt o) := by
  intro wf _ rest
  rw [bytes_one _ _ rfl]
  exact readV3_word 0x49 2 .vfsqrt o rest rfl (by decide) (by decide) (V3Op.ok_bounds wf) wf
theorem vfdiv (o : V3Op) : Statement (.vfdiv o) := by
  intro wf _ rest
  rw [bytes_one _ _ rfl]
  exact readV3_word 0x49 3 .vfdiv o rest rfl (by decide) (by decide) (V3Op.ok_bounds wf) wf
theorem vfexp2 (o : V3Op) : Statement (.vfexp2 o) := by
  intro wf _ rest
  rw [bytes_one _ _ rfl]
  exact readV3_word 0x49 4 .vfexp2 o rest rfl (by decide) (by decide) (V3Op.ok_bounds wf) wf
theorem vflog2 (o : V3Op) : Statement (.vflog2 o) := by
  intro wf _ rest
  rw [bytes_one _ _ rfl]
  exact readV3_word 0x49 5 .vflog2 o rest rfl (by decide) (by decide) (V3Op.ok_bounds wf) wf
theorem vfsinp (o : V3Op) : Statement (.vfsinp o) := by
  intro wf _ rest
  rw [bytes_one _ _ rfl]
  exact readV3_word 0x49 6 .vfsinp o rest rfl (by decide) (by decide) (V3Op.ok_bounds wf) wf
theorem vfcosp (o : V3Op) : Statement (.vfcosp o) := by
  intro wf _ rest
  rw [bytes_one _ _ rfl]
  exact readV3_word 0x49 7 .vfcosp o rest rfl (by decide) (by decide) (V3Op.ok_bounds wf) wf
theorem vpand (o : PredOp) : Statement (.vpand o) := by
  intro wf _ rest
  rw [bytes_one _ _ rfl]
  exact readPred_word 0 .vpand o rest rfl rfl rfl (by decide) (PredOp.ok_bounds wf) wf
theorem vpor (o : PredOp) : Statement (.vpor o) := by
  intro wf _ rest
  rw [bytes_one _ _ rfl]
  exact readPred_word 1 .vpor o rest rfl rfl rfl (by decide) (PredOp.ok_bounds wf) wf
theorem vpxor (o : PredOp) : Statement (.vpxor o) := by
  intro wf _ rest
  rw [bytes_one _ _ rfl]
  exact readPred_word 2 .vpxor o rest rfl rfl rfl (by decide) (PredOp.ok_bounds wf) wf
theorem vpnot (o : PredOp) : Statement (.vpnot o) := by
  intro wf _ rest
  rw [bytes_one _ _ rfl]
  exact readPred_word 3 .vpnot o rest rfl rfl rfl (by decide) (PredOp.ok_bounds wf) wf
theorem vpmov (o : PredOp) : Statement (.vpmov o) := by
  intro wf _ rest
  rw [bytes_one _ _ rfl]
  exact readPred_word 4 .vpmov o rest rfl rfl rfl (by decide) (PredOp.ok_bounds wf) wf
theorem vsetp_bounds {o : PredOp} (wf : wellFormed (.vsetp o) = true) :
    o.g.pred < 32 ∧ o.d < 24 ∧ o.a < 256 ∧ o.b = 0 := by
  simp [wellFormed, Guard.ok, predOk, vecOk] at wf; omega

theorem vsetp (o : PredOp) : Statement (.vsetp o) := by
  intro wf _ rest
  rw [bytes_one _ _ rfl]
  have b := vsetp_bounds wf
  have gl := o.g.negBit_lt
  refine oneWord _ _ rest ?_ rfl wf ?_
  · simp only [RawWord.fits]; omega
  · simp [decodeFields, RawWord.minor, RawWord.guard, decodeVSpecial, field, v3Row, viRow, predRow, ifZero]
theorem vcvt (o : CvtOp) : Statement (.vcvt o) := by
  intro wf _ rest
  rw [bytes_one _ _ rfl]
  exact readCvt_word 0 .vcvt o rest rfl rfl rfl (by decide) (CvtOp.ok_bounds (Bool.and_eq_true_iff.mp (Bool.and_eq_true_iff.mp (Bool.and_eq_true_iff.mp (Bool.and_eq_true_iff.mp wf).1).1).1).1) wf
theorem vpack (o : CvtOp) : Statement (.vpack o) := by
  intro wf _ rest
  rw [bytes_one _ _ rfl]
  exact readCvt_word 1 .vpack o rest rfl rfl rfl (by decide) (CvtOp.ok_bounds (Bool.and_eq_true_iff.mp (Bool.and_eq_true_iff.mp wf).1).1) wf
theorem vunpack (o : CvtOp) : Statement (.vunpack o) := by
  intro wf _ rest
  rw [bytes_one _ _ rfl]
  exact readCvt_word 2 .vunpack o rest rfl rfl rfl (by decide) (CvtOp.ok_bounds (Bool.and_eq_true_iff.mp (Bool.and_eq_true_iff.mp wf).1).1) wf
theorem vmov (o : V3Op) : Statement (.vmov o) := by
  intro wf _ rest
  rw [bytes_one _ _ rfl]
  exact readV3_word 0x54 0 .vmov o rest rfl (by decide) (by decide) (V3Op.ok_bounds wf) wf
theorem vsel_bounds {o : V3Op} (wf : wellFormed (.vsel o) = true) :
    o.g.pred < 24 ∧ o.d < 256 ∧ o.a < 256 ∧ o.b < 256 ∧ o.c < 256 := by
  simp only [wellFormed, Guard.ok, predOk, vecOk, scalarOk, Bool.and_eq_true, decide_eq_true_eq] at wf
  obtain ⟨⟨⟨⟨⟨⟨⟨hp, _⟩, hd⟩, ha⟩, hb⟩, hc⟩, _⟩, _⟩ := wf
  refine ⟨hp, hd, ha, ?_, by omega⟩
  split at hb <;> simp at hb <;> omega

theorem vsel (o : V3Op) : Statement (.vsel o) := by
  intro wf _ rest
  rw [bytes_one _ _ rfl]
  exact readV3_word 0x54 1 .vsel o rest rfl (by decide) (by decide) (vsel_bounds wf) wf
theorem vbcast (o : V3Op) : Statement (.vbcast o) := by
  intro wf _ rest
  rw [bytes_one _ _ rfl]
  exact readV3_word 0x54 2 .vbcast o rest rfl (by decide) (by decide) (V3Op.ok_bounds (Bool.and_eq_true_iff.mp wf).1) wf
theorem vidx (o : V3Op) : Statement (.vidx o) := by
  intro wf _ rest
  rw [bytes_one _ _ rfl]
  exact readV3_word 0x54 3 .vidx o rest rfl (by decide) (by decide) (V3Op.ok_bounds (Bool.and_eq_true_iff.mp wf).1) wf
theorem vshfl (o : XLaneOp) : Statement (.vshfl o) := by
  intro wf _ rest
  rw [bytes_one _ _ rfl]
  refine readXLane_word 0 .vshfl o rest rfl rfl rfl (by decide) (XLaneOp.ok_bounds (Bool.and_eq_true_iff.mp (Bool.and_eq_true_iff.mp wf).1).1) ?_ wf
  simp [wellFormed, vecOk, scalarOk, predOk] at wf; omega
theorem vbal (o : XLaneOp) : Statement (.vbal o) := by
  intro wf _ rest
  rw [bytes_one _ _ rfl]
  refine readXLane_word 1 .vbal o rest rfl rfl rfl (by decide) (XLaneOp.ok_bounds (Bool.and_eq_true_iff.mp (Bool.and_eq_true_iff.mp (Bool.and_eq_true_iff.mp wf).1).1).1) ?_ wf
  simp [wellFormed, vecOk, scalarOk, predOk] at wf; omega
theorem vany (o : XLaneOp) : Statement (.vany o) := by
  intro wf _ rest
  rw [bytes_one _ _ rfl]
  refine readXLane_word 2 .vany o rest rfl rfl rfl (by decide) (XLaneOp.ok_bounds (Bool.and_eq_true_iff.mp (Bool.and_eq_true_iff.mp wf).1).1) ?_ wf
  simp [wellFormed, vecOk, scalarOk, predOk] at wf; omega
theorem vall (o : XLaneOp) : Statement (.vall o) := by
  intro wf _ rest
  rw [bytes_one _ _ rfl]
  refine readXLane_word 3 .vall o rest rfl rfl rfl (by decide) (XLaneOp.ok_bounds (Bool.and_eq_true_iff.mp (Bool.and_eq_true_iff.mp wf).1).1) ?_ wf
  simp [wellFormed, vecOk, scalarOk, predOk] at wf; omega
theorem vcnt (o : XLaneOp) : Statement (.vcnt o) := by
  intro wf _ rest
  rw [bytes_one _ _ rfl]
  refine readXLane_word 4 .vcnt o rest rfl rfl rfl (by decide) (XLaneOp.ok_bounds (Bool.and_eq_true_iff.mp (Bool.and_eq_true_iff.mp (Bool.and_eq_true_iff.mp wf).1).1).1) ?_ wf
  simp [wellFormed, vecOk, scalarOk, predOk] at wf; omega
theorem vmatch (o : XLaneOp) : Statement (.vmatch o) := by
  intro wf _ rest
  rw [bytes_one _ _ rfl]
  refine readXLane_word 5 .vmatch o rest rfl rfl rfl (by decide) (XLaneOp.ok_bounds (Bool.and_eq_true_iff.mp (Bool.and_eq_true_iff.mp wf).1).1) ?_ wf
  simp [wellFormed, vecOk, scalarOk, predOk] at wf; omega
theorem vld (o : MOp) : Statement (.vld o) := by
  intro wf _ rest
  exact readM_word 0xA0 .vld o rest rfl (by decide) (MOp.okLoad_bounds wf) wf
theorem vldu (o : MOp) : Statement (.vldu o) := by
  intro wf _ rest
  exact readM_word 0xA1 .vldu o rest rfl (by decide) (MOp.okLoad_bounds wf) wf
theorem vgath (o : MOp) : Statement (.vgath o) := by
  intro wf _ rest
  exact readM_word 0xA2 .vgath o rest rfl (by decide) (MOp.okLoad_bounds wf) wf
theorem vgathMt_bounds {o : MOp} (wf : wellFormed (.vgathMt o) = true) :
    o.g.pred < 24 ∧ o.a < 64 ∧ o.b < 256 ∧ o.la < 16 ∧ o.ctr < 8 ∧ o.x < 32 ∧ o.d < 256 := by
  simp only [wellFormed, Bool.and_eq_true, decide_eq_true_eq] at wf
  obtain ⟨⟨⟨h, _⟩, _⟩, hx⟩ := wf
  have b := MOp.okLoad_bounds h
  exact ⟨b.1, b.2.1, b.2.2.1, b.2.2.2.1, b.2.2.2.2.1, by omega, b.2.2.2.2.2.2⟩

theorem vgathMt (o : MOp) : Statement (.vgathMt o) := by
  intro wf _ rest
  exact readM_word 0xA3 .vgathMt o rest rfl (by decide) (vgathMt_bounds wf) wf
theorem vst (o : MOp) : Statement (.vst o) := by
  intro wf _ rest
  exact readM_word 0xA4 .vst o rest rfl (by decide) (MOp.okStore_bounds wf) wf
theorem vscat (o : MOp) : Statement (.vscat o) := by
  intro wf _ rest
  exact readM_word 0xA5 .vscat o rest rfl (by decide) (MOp.okStore_bounds wf) wf
theorem sld (o : MOp) : Statement (.sld o) := by
  intro wf _ rest
  exact readM_word 0xA6 .sld o rest rfl (by decide) (MOp.okLoad_bounds wf) wf
theorem sst (o : MOp) : Statement (.sst o) := by
  intro wf _ rest
  exact readM_word 0xA7 .sst o rest rfl (by decide) (MOp.okStore_bounds wf) wf
theorem vatomAdd (o : MOp) : Statement (.vatomAdd o) := by
  intro wf _ rest
  exact readM_word 0xA9 .vatomAdd o rest rfl (by decide) (MOp.okAtom_bounds wf) wf
theorem vatomMin (o : MOp) : Statement (.vatomMin o) := by
  intro wf _ rest
  exact readM_word 0xAA .vatomMin o rest rfl (by decide) (MOp.okAtom_bounds wf) wf
theorem vatomMax (o : MOp) : Statement (.vatomMax o) := by
  intro wf _ rest
  exact readM_word 0xAB .vatomMax o rest rfl (by decide) (MOp.okAtom_bounds wf) wf
theorem vatomAnd (o : MOp) : Statement (.vatomAnd o) := by
  intro wf _ rest
  exact readM_word 0xAC .vatomAnd o rest rfl (by decide) (MOp.okAtom_bounds wf) wf
theorem vatomOr (o : MOp) : Statement (.vatomOr o) := by
  intro wf _ rest
  exact readM_word 0xAD .vatomOr o rest rfl (by decide) (MOp.okAtom_bounds wf) wf
theorem vatomXor (o : MOp) : Statement (.vatomXor o) := by
  intro wf _ rest
  exact readM_word 0xAE .vatomXor o rest rfl (by decide) (MOp.okAtom_bounds wf) wf
theorem vatomExch (o : MOp) : Statement (.vatomExch o) := by
  intro wf _ rest
  exact readM_word 0xAF .vatomExch o rest rfl (by decide) (MOp.okAtom_bounds wf) wf
theorem vatomCas (o : MOp) : Statement (.vatomCas o) := by
  intro wf _ rest
  exact readM_word 0xB0 .vatomCas o rest rfl (by decide) (MOp.okAtom_bounds wf) wf
theorem satomAdd (o : MOp) : Statement (.satomAdd o) := by
  intro wf _ rest
  exact readM_word 0xB1 .satomAdd o rest rfl (by decide) (MOp.okAtom_bounds wf) wf
theorem satomMin (o : MOp) : Statement (.satomMin o) := by
  intro wf _ rest
  exact readM_word 0xB2 .satomMin o rest rfl (by decide) (MOp.okAtom_bounds wf) wf
theorem satomMax (o : MOp) : Statement (.satomMax o) := by
  intro wf _ rest
  exact readM_word 0xB3 .satomMax o rest rfl (by decide) (MOp.okAtom_bounds wf) wf
theorem satomAnd (o : MOp) : Statement (.satomAnd o) := by
  intro wf _ rest
  exact readM_word 0xB4 .satomAnd o rest rfl (by decide) (MOp.okAtom_bounds wf) wf
theorem satomOr (o : MOp) : Statement (.satomOr o) := by
  intro wf _ rest
  exact readM_word 0xB5 .satomOr o rest rfl (by decide) (MOp.okAtom_bounds wf) wf
theorem satomXor (o : MOp) : Statement (.satomXor o) := by
  intro wf _ rest
  exact readM_word 0xB6 .satomXor o rest rfl (by decide) (MOp.okAtom_bounds wf) wf
theorem satomExch (o : MOp) : Statement (.satomExch o) := by
  intro wf _ rest
  exact readM_word 0xB7 .satomExch o rest rfl (by decide) (MOp.okAtom_bounds wf) wf
theorem satomCas (o : MOp) : Statement (.satomCas o) := by
  intro wf _ rest
  exact readM_word 0xB8 .satomCas o rest rfl (by decide) (MOp.okAtom_bounds wf) wf
theorem issueCycle (core : Nat) : Statement (.issueCycle core) := fun _ h => nomatch (show false = true from h)
theorem longLatencyComplete (core slot idx : Nat) : Statement (.longLatencyComplete core slot idx) := fun _ h => nomatch (show false = true from h)
theorem futureComplete (fut status : Nat) : Statement (.futureComplete fut status) := fun _ h => nomatch (show false = true from h)
theorem swap (core slot : Nat) : Statement (.swap core slot) := fun _ h => nomatch (show false = true from h)
theorem watchdogExpiry (core slot : Nat) : Statement (.watchdogExpiry core slot) := fun _ h => nomatch (show false = true from h)
theorem piecePlace (core : Nat) : Statement (.piecePlace core) := fun _ h => nomatch (show false = true from h)
theorem barwPieceHandoff (core slot : Nat) : Statement (.barwPieceHandoff core slot) := fun _ h => nomatch (show false = true from h)
theorem foldHoldExpiry (core slot : Nat) : Statement (.foldHoldExpiry core slot) := fun _ h => nomatch (show false = true from h)
theorem foldMerge (core slot other : Nat) : Statement (.foldMerge core slot other) := fun _ h => nomatch (show false = true from h)
theorem binTimerExpiry (core bin : Nat) : Statement (.binTimerExpiry core bin) := fun _ h => nomatch (show false = true from h)
theorem compaction (core : Nat) : Statement (.compaction core) := fun _ h => nomatch (show false = true from h)
theorem capacityReport (child : Node) (grid n : Nat) : Statement (.capacityReport child grid n) := fun _ h => nomatch (show false = true from h)
theorem dealRound (node : Node) (grid : Nat) : Statement (.dealRound node grid) := fun _ h => nomatch (show false = true from h)
theorem rangeReceipt (core grid lo hi : Nat) : Statement (.rangeReceipt core grid lo hi) := fun _ h => nomatch (show false = true from h)
theorem launchRecordCheck (idx : Nat) : Statement (.launchRecordCheck idx) := fun _ h => nomatch (show false = true from h)
theorem podLaunchAck (pkg grid : Nat) : Statement (.podLaunchAck pkg grid) := fun _ h => nomatch (show false = true from h)
theorem podAckTimeout (pkg grid : Nat) : Statement (.podAckTimeout pkg grid) := fun _ h => nomatch (show false = true from h)
theorem teamRetire (core grid team : Nat) : Statement (.teamRetire core grid team) := fun _ h => nomatch (show false = true from h)
theorem completionReport (node : Node) (grid dispatched completed : Nat) (rest : RestReport) : Statement (.completionReport node grid dispatched completed rest) := fun _ h => nomatch (show false = true from h)
theorem gridComplete (grid : Nat) : Statement (.gridComplete grid) := fun _ h => nomatch (show false = true from h)
theorem gridCancel (grid : Nat) : Statement (.gridCancel grid) := fun _ h => nomatch (show false = true from h)
theorem rootFailover (pkg : Nat) : Statement (.rootFailover pkg) := fun _ h => nomatch (show false = true from h)
theorem reDeal (grid pkg : Nat) : Statement (.reDeal grid pkg) := fun _ h => nomatch (show false = true from h)
theorem walk (core asid va : Nat) : Statement (.walk core asid va) := fun _ h => nomatch (show false = true from h)
theorem dirtyBitWalk (core asid va : Nat) : Statement (.dirtyBitWalk core asid va) := fun _ h => nomatch (show false = true from h)
theorem invalidationComplete (id : Nat) : Statement (.invalidationComplete id) := fun _ h => nomatch (show false = true from h)
theorem invalWalkRestart (id : Nat) : Statement (.invalWalkRestart id) := fun _ h => nomatch (show false = true from h)
theorem flipComplete (id : Nat) : Statement (.flipComplete id) := fun _ h => nomatch (show false = true from h)
theorem rds (agent : Agent) (line : Nat) : Statement (.rds agent line) := fun _ h => nomatch (show false = true from h)
theorem rdx (agent : Agent) (line : Nat) : Statement (.rdx agent line) := fun _ h => nomatch (show false = true from h)
theorem upg (agent : Agent) (line : Nat) : Statement (.upg agent line) := fun _ h => nomatch (show false = true from h)
theorem wbd (agent : Agent) (line : Nat) : Statement (.wbd agent line) := fun _ h => nomatch (show false = true from h)
theorem evc (agent : Agent) (line : Nat) : Statement (.evc agent line) := fun _ h => nomatch (show false = true from h)
theorem engineRead (agent : Agent) (line : Nat) : Statement (.engineRead agent line) := fun _ h => nomatch (show false = true from h)
theorem forwardReceipt (agent : Agent) (line : Nat) : Statement (.forwardReceipt agent line) := fun _ h => nomatch (show false = true from h)
theorem grantReceipt (agent : Agent) (line : Nat) : Statement (.grantReceipt agent line) := fun _ h => nomatch (show false = true from h)
theorem homeAtomic (r : AtomReq) : Statement (.homeAtomic r) := fun _ h => nomatch (show false = true from h)
theorem uncachedAccess (r : PhysReq) : Statement (.uncachedAccess r) := fun _ h => nomatch (show false = true from h)
theorem directoryEviction (line : Nat) : Statement (.directoryEviction line) := fun _ h => nomatch (show false = true from h)
theorem filterEviction (line : Nat) : Statement (.filterEviction line) := fun _ h => nomatch (show false = true from h)
theorem snpInv (line : Nat) : Statement (.snpInv line) := fun _ h => nomatch (show false = true from h)
theorem snpData (line : Nat) : Statement (.snpData line) := fun _ h => nomatch (show false = true from h)
theorem snpCur (line : Nat) : Statement (.snpCur line) := fun _ h => nomatch (show false = true from h)
theorem hostAccess (r : PhysReq) : Statement (.hostAccess r) := fun _ h => nomatch (show false = true from h)
theorem registerSpaceAnswer (core slot : Nat) : Statement (.registerSpaceAnswer core slot) := fun _ h => nomatch (show false = true from h)
theorem storageCompletion (core slot : Nat) (data : Option Nat) : Statement (.storageCompletion core slot data) := fun _ h => nomatch (show false = true from h)
theorem inboundRequest (port : Nat) (atomicOrPeer : Bool) (x size : Nat) (data : Option Nat) : Statement (.inboundRequest port atomicOrPeer x size data) := fun _ h => nomatch (show false = true from h)
theorem peerAccess (r : PeerReq) : Statement (.peerAccess r) := fun _ h => nomatch (show false = true from h)
theorem peerReply (core slot : Nat) (r : PeerReply) : Statement (.peerReply core slot r) := fun _ h => nomatch (show false = true from h)
theorem releaseComplete (core : Nat) : Statement (.releaseComplete core) := fun _ h => nomatch (show false = true from h)
theorem tasterCheck (core : Nat) : Statement (.tasterCheck core) := fun _ h => nomatch (show false = true from h)
theorem epochClose (core : Nat) : Statement (.epochClose core) := fun _ h => nomatch (show false = true from h)
theorem epochCompare (core die : Nat) : Statement (.epochCompare core die) := fun _ h => nomatch (show false = true from h)
theorem epochTimeout (core die : Nat) : Statement (.epochTimeout core die) := fun _ h => nomatch (show false = true from h)
theorem flitReceipt (port : Nat) (f : Flit) : Statement (.flitReceipt port f) := fun _ h => nomatch (show false = true from h)
theorem retryRequest (port n : Nat) : Statement (.retryRequest port n) := fun _ h => nomatch (show false = true from h)
theorem uncorrectableFlit (fabric : Bool) (link : LinkEnd) (header ownership : Bool) (typ : Nat) (lines : List Nat) : Statement (.uncorrectableFlit fabric link header ownership typ lines) := fun _ h => nomatch (show false = true from h)
theorem linkDown (a b : Nat) : Statement (.linkDown a b) := fun _ h => nomatch (show false = true from h)
theorem barrierArrivalCount (core : Nat) : Statement (.barrierArrivalCount core) := fun _ h => nomatch (show false = true from h)
theorem evwaitTimeout (core slot : Nat) : Statement (.evwaitTimeout core slot) := fun _ h => nomatch (show false = true from h)
theorem commandStart (cmd : Nat) : Statement (.commandStart cmd) := fun _ h => nomatch (show false = true from h)
theorem commandComplete (cmd : Nat) : Statement (.commandComplete cmd) := fun _ h => nomatch (show false = true from h)
theorem engineFaultDelivery (core slot : Nat) : Statement (.engineFaultDelivery core slot) := fun _ h => nomatch (show false = true from h)
theorem passFormation (clu : Nat) : Statement (.passFormation clu) := fun _ h => nomatch (show false = true from h)
theorem aStagingComplete (clu entry : Nat) : Statement (.aStagingComplete clu entry) := fun _ h => nomatch (show false = true from h)
theorem bFetchComplete (clu : Nat) : Statement (.bFetchComplete clu) := fun _ h => nomatch (show false = true from h)
theorem passLeavesArray (clu : Nat) : Statement (.passLeavesArray clu) := fun _ h => nomatch (show false = true from h)
theorem trapEntry (core slot : Nat) : Statement (.trapEntry core slot) := fun _ h => nomatch (show false = true from h)
theorem deferredTrap (core slot : Nat) : Statement (.deferredTrap core slot) := fun _ h => nomatch (show false = true from h)
theorem dispositionResume (core slot : Nat) : Statement (.dispositionResume core slot) := fun _ h => nomatch (show false = true from h)
theorem dispositionEnd (core slot : Nat) : Statement (.dispositionEnd core slot) := fun _ h => nomatch (show false = true from h)
theorem dispositionCancel (core slot : Nat) : Statement (.dispositionCancel core slot) := fun _ h => nomatch (show false = true from h)
theorem breakpointHit (core slot bp : Nat) : Statement (.breakpointHit core slot bp) := fun _ h => nomatch (show false = true from h)
theorem singleStep (core slot : Nat) : Statement (.singleStep core slot) := fun _ h => nomatch (show false = true from h)
theorem preemptionRequest (base dies : Nat) : Statement (.preemptionRequest base dies) := fun _ h => nomatch (show false = true from h)
theorem coreHalted (core : Nat) : Statement (.coreHalted core) := fun _ h => nomatch (show false = true from h)
theorem contextSave (core : Nat) : Statement (.contextSave core) := fun _ h => nomatch (show false = true from h)
theorem contextRestore (src dst : Nat) : Statement (.contextRestore src dst) := fun _ h => nomatch (show false = true from h)
theorem scrubStart (value : Nat) : Statement (.scrubStart value) := fun _ h => nomatch (show false = true from h)
theorem scrubPerform : Statement .scrubPerform := fun _ h => nomatch (show false = true from h)
theorem quarantineClear : Statement .quarantineClear := fun _ h => nomatch (show false = true from h)
theorem packageColdReset : Statement .packageColdReset := fun _ h => nomatch (show false = true from h)
theorem packageWarmReset : Statement .packageWarmReset := fun _ h => nomatch (show false = true from h)
theorem computeDieReset (die : Nat) : Statement (.computeDieReset die) := fun _ h => nomatch (show false = true from h)
theorem firmwareRestart : Statement .firmwareRestart := fun _ h => nomatch (show false = true from h)
theorem bringup (step : Nat) (ok : Bool) : Statement (.bringup step ok) := fun _ h => nomatch (show false = true from h)
theorem dieBringup (die step : Nat) (ok : Bool) : Statement (.dieBringup die step ok) := fun _ h => nomatch (show false = true from h)
theorem clockChange (mhz : Nat) : Statement (.clockChange mhz) := fun _ h => nomatch (show false = true from h)
theorem thermalLimit : Statement .thermalLimit := fun _ h => nomatch (show false = true from h)
theorem thermalClearTimeout : Statement .thermalClearTimeout := fun _ h => nomatch (show false = true from h)
theorem clusterGate (clu : Nat) : Statement (.clusterGate clu) := fun _ h => nomatch (show false = true from h)
theorem clusterWake (clu : Nat) : Statement (.clusterWake clu) := fun _ h => nomatch (show false = true from h)
theorem dieGate (die : Nat) : Statement (.dieGate die) := fun _ h => nomatch (show false = true from h)
theorem dieWake (die : Nat) : Statement (.dieWake die) := fun _ h => nomatch (show false = true from h)
theorem launchWindowSeal (slot off : Nat) (bytes : List Byte) : Statement (.launchWindowSeal slot off bytes) := fun _ h => nomatch (show false = true from h)
theorem windowRecordAccept (slot : Nat) : Statement (.windowRecordAccept slot) := fun _ h => nomatch (show false = true from h)
theorem submit (port value : Nat) : Statement (.submit port value) := fun _ h => nomatch (show false = true from h)
theorem instatClear (port : Nat) : Statement (.instatClear port) := fun _ h => nomatch (show false = true from h)
theorem doorbellAccept (port : Nat) : Statement (.doorbellAccept port) := fun _ h => nomatch (show false = true from h)
theorem semRead (port k : Nat) : Statement (.semRead port k) := fun _ h => nomatch (show false = true from h)
theorem semWrite (port k value : Nat) : Statement (.semWrite port k value) := fun _ h => nomatch (show false = true from h)
theorem cancelPacket (q : Nat) : Statement (.cancelPacket q) := fun _ h => nomatch (show false = true from h)
theorem ownPacket (q : Nat) : Statement (.ownPacket q) := fun _ h => nomatch (show false = true from h)
theorem invalPacket (q : Nat) : Statement (.invalPacket q) := fun _ h => nomatch (show false = true from h)
theorem waitPacket (q : Nat) : Statement (.waitPacket q) := fun _ h => nomatch (show false = true from h)
theorem signalPacket (q : Nat) : Statement (.signalPacket q) := fun _ h => nomatch (show false = true from h)
theorem fencePacket (q : Nat) : Statement (.fencePacket q) := fun _ h => nomatch (show false = true from h)
theorem copyPacket (q : Nat) : Statement (.copyPacket q) := fun _ h => nomatch (show false = true from h)
theorem feedPacket (q : Nat) : Statement (.feedPacket q) := fun _ h => nomatch (show false = true from h)
theorem launchPacket (q : Nat) : Statement (.launchPacket q) := fun _ h => nomatch (show false = true from h)
theorem predPacket (q : Nat) : Statement (.predPacket q) := fun _ h => nomatch (show false = true from h)
theorem packetComplete (idx : Nat) : Statement (.packetComplete idx) := fun _ h => nomatch (show false = true from h)
theorem queueRingFault (q va : Nat) : Statement (.queueRingFault q va) := fun _ h => nomatch (show false = true from h)
theorem journalAccept (idx : Nat) : Statement (.journalAccept idx) := fun _ h => nomatch (show false = true from h)
theorem eventWrite (e value : Nat) : Statement (.eventWrite e value) := fun _ h => nomatch (show false = true from h)
theorem queueDescriptorWrite (q off size value : Nat) : Statement (.queueDescriptorWrite q off size value) := fun _ h => nomatch (show false = true from h)
theorem workQueueDescriptorWrite (w off size value : Nat) : Statement (.workQueueDescriptorWrite w off size value) := fun _ h => nomatch (show false = true from h)
theorem streamWrite (k : Nat) (whole : Bool) (data : PortWord) : Statement (.streamWrite k whole data) := fun _ h => nomatch (show false = true from h)
theorem streamResync (k value : Nat) : Statement (.streamResync k value) := fun _ h => nomatch (show false = true from h)
theorem streamGapTimeout (k : Nat) : Statement (.streamGapTimeout k) := fun _ h => nomatch (show false = true from h)
theorem handleInstall (slot handle : Nat) : Statement (.handleInstall slot handle) := fun _ h => nomatch (show false = true from h)
theorem installReply (slot status : Nat) : Statement (.installReply slot status) := fun _ h => nomatch (show false = true from h)
theorem handleUninstall (slot : Nat) : Statement (.handleUninstall slot) := fun _ h => nomatch (show false = true from h)
theorem slotDrained (slot : Nat) : Statement (.slotDrained slot) := fun _ h => nomatch (show false = true from h)
theorem packageLoss (pkg : Nat) : Statement (.packageLoss pkg) := fun _ h => nomatch (show false = true from h)
theorem heartbeatMiss (pkg : Nat) : Statement (.heartbeatMiss pkg) := fun _ h => nomatch (show false = true from h)
theorem mapEpochInstall (epoch : Nat) (entries : List PodEntry) : Statement (.mapEpochInstall epoch entries) := fun _ h => nomatch (show false = true from h)
theorem haltResume (core slot : Nat) : Statement (.haltResume core slot) := fun _ h => nomatch (show false = true from h)
theorem haltEnd (core slot : Nat) : Statement (.haltEnd core slot) := fun _ h => nomatch (show false = true from h)
theorem tbaseWrite (core value : Nat) : Statement (.tbaseWrite core value) := fun _ h => nomatch (show false = true from h)
theorem estatResume (engine : Nat) : Statement (.estatResume engine) := fun _ h => nomatch (show false = true from h)
theorem eictlWrite (die value : Nat) : Statement (.eictlWrite die value) := fun _ h => nomatch (show false = true from h)
theorem prefetchCounterClear (core k : Nat) : Statement (.prefetchCounterClear core k) := fun _ h => nomatch (show false = true from h)
theorem ckstatClear (checker : Nat) : Statement (.ckstatClear checker) := fun _ h => nomatch (show false = true from h)
theorem unclmClear (die : Nat) : Statement (.unclmClear die) := fun _ h => nomatch (show false = true from h)
theorem unclaimedAccess (die : Nat) (write : Bool) : Statement (.unclaimedAccess die write) := fun _ h => nomatch (show false = true from h)
theorem registerWrite (off size value : Nat) : Statement (.registerWrite off size value) := fun _ h => nomatch (show false = true from h)
theorem pcSample (core : Nat) : Statement (.pcSample core) := fun _ h => nomatch (show false = true from h)
theorem traceLoss (core : Nat) : Statement (.traceLoss core) := fun _ h => nomatch (show false = true from h)
theorem deadlockScan : Statement .deadlockScan := fun _ h => nomatch (show false = true from h)
theorem cxlHostResponse (line : Nat) (r : HostResp) : Statement (.cxlHostResponse line r) := fun _ h => nomatch (show false = true from h)
theorem memoryControllerAcceptance (line : Nat) (write : Bool) : Statement (.memoryControllerAcceptance line write) := fun _ h => nomatch (show false = true from h)
theorem evwaitReread (core slot : Nat) : Statement (.evwaitReread core slot) := fun _ h => nomatch (show false = true from h)
theorem workQueueUnitArrival : Statement .workQueueUnitArrival := fun _ h => nomatch (show false = true from h)
theorem injectedDelayExpiry (core : Nat) : Statement (.injectedDelayExpiry core) := fun _ h => nomatch (show false = true from h)
theorem ownerInstallCheck (src handle slot : Nat) : Statement (.ownerInstallCheck src handle slot) := fun _ h => nomatch (show false = true from h)
theorem hostDecoderChange (decoders : List HostDecoder) : Statement (.hostDecoderChange decoders) := fun _ h => nomatch (show false = true from h)
theorem storageLinkChange (port : Nat) (up : Bool) (rate width : Nat) : Statement (.storageLinkChange port up rate width) := fun _ h => nomatch (show false = true from h)
theorem signedImageUpload (ok : Bool) : Statement (.signedImageUpload ok) := fun _ h => nomatch (show false = true from h)

theorem ret : Statement .ret := by
  intro wf _ rest
  rw [bytes_one _ _ rfl]
  refine oneWord _ _ rest ?_ rfl wf ?_
  · simp only [RawWord.fits]; omega
  · simp [decodeFields, decodeCtl, decodeSync, decodeX, decodeVSpecial, decodeLine, decodeWq, decodeCmd, RawWord.noGuard, RawWord.minor, RawWord.guard, RawWord.offset, RawWord.imm16, RawWord.imm24, RawWord.tyCode, field, ifZero, withCode, mRow, v3Row, viRow]

theorem vjoin : Statement .vjoin := by
  intro wf _ rest
  rw [bytes_one _ _ rfl]
  refine oneWord _ _ rest ?_ rfl wf ?_
  · simp only [RawWord.fits]; omega
  · simp [decodeFields, decodeCtl, decodeSync, decodeX, decodeVSpecial, decodeLine, decodeWq, decodeCmd, RawWord.noGuard, RawWord.minor, RawWord.guard, RawWord.offset, RawWord.imm16, RawWord.imm24, RawWord.tyCode, field, ifZero, withCode, mRow, v3Row, viRow]

theorem exit : Statement .exit := by
  intro wf _ rest
  rw [bytes_one _ _ rfl]
  refine oneWord _ _ rest ?_ rfl wf ?_
  · simp only [RawWord.fits]; omega
  · simp [decodeFields, decodeCtl, decodeSync, decodeX, decodeVSpecial, decodeLine, decodeWq, decodeCmd, RawWord.noGuard, RawWord.minor, RawWord.guard, RawWord.offset, RawWord.imm16, RawWord.imm24, RawWord.tyCode, field, ifZero, withCode, mRow, v3Row, viRow]

theorem yield : Statement .yield := by
  intro wf _ rest
  rw [bytes_one _ _ rfl]
  refine oneWord _ _ rest ?_ rfl wf ?_
  · simp only [RawWord.fits]; omega
  · simp [decodeFields, decodeCtl, decodeSync, decodeX, decodeVSpecial, decodeLine, decodeWq, decodeCmd, RawWord.noGuard, RawWord.minor, RawWord.guard, RawWord.offset, RawWord.imm16, RawWord.imm24, RawWord.tyCode, field, ifZero, withCode, mRow, v3Row, viRow]

theorem unfold : Statement .unfold := by
  intro wf _ rest
  rw [bytes_one _ _ rfl]
  refine oneWord _ _ rest ?_ rfl wf ?_
  · simp only [RawWord.fits]; omega
  · simp [decodeFields, decodeCtl, decodeSync, decodeX, decodeVSpecial, decodeLine, decodeWq, decodeCmd, RawWord.noGuard, RawWord.minor, RawWord.guard, RawWord.offset, RawWord.imm16, RawWord.imm24, RawWord.tyCode, field, ifZero, withCode, mRow, v3Row, viRow]

theorem fencex : Statement .fencex := by
  intro wf _ rest
  rw [bytes_one _ _ rfl]
  refine oneWord _ _ rest ?_ rfl wf ?_
  · simp only [RawWord.fits]; omega
  · simp [decodeFields, decodeCtl, decodeSync, decodeX, decodeVSpecial, decodeLine, decodeWq, decodeCmd, RawWord.noGuard, RawWord.minor, RawWord.guard, RawWord.offset, RawWord.imm16, RawWord.imm24, RawWord.tyCode, field, ifZero, withCode, mRow, v3Row, viRow]

theorem tret : Statement .tret := by
  intro wf _ rest
  rw [bytes_one _ _ rfl]
  refine oneWord _ _ rest ?_ rfl wf ?_
  · simp only [RawWord.fits]; omega
  · simp [decodeFields, decodeCtl, decodeSync, decodeX, decodeVSpecial, decodeLine, decodeWq, decodeCmd, RawWord.noGuard, RawWord.minor, RawWord.guard, RawWord.offset, RawWord.imm16, RawWord.imm24, RawWord.tyCode, field, ifZero, withCode, mRow, v3Row, viRow]

theorem tesc : Statement .tesc := by
  intro wf _ rest
  rw [bytes_one _ _ rfl]
  refine oneWord _ _ rest ?_ rfl wf ?_
  · simp only [RawWord.fits]; omega
  · simp [decodeFields, decodeCtl, decodeSync, decodeX, decodeVSpecial, decodeLine, decodeWq, decodeCmd, RawWord.noGuard, RawWord.minor, RawWord.guard, RawWord.offset, RawWord.imm16, RawWord.imm24, RawWord.tyCode, field, ifZero, withCode, mRow, v3Row, viRow]

theorem halt : Statement .halt := by
  intro wf _ rest
  rw [bytes_one _ _ rfl]
  refine oneWord _ _ rest ?_ rfl wf ?_
  · simp only [RawWord.fits]; omega
  · simp [decodeFields, decodeCtl, decodeSync, decodeX, decodeVSpecial, decodeLine, decodeWq, decodeCmd, RawWord.noGuard, RawWord.minor, RawWord.guard, RawWord.offset, RawWord.imm16, RawWord.imm24, RawWord.tyCode, field, ifZero, withCode, mRow, v3Row, viRow]

theorem nop : Statement .nop := by
  intro wf _ rest
  rw [bytes_one _ _ rfl]
  exact oneWord ⟨1, 0, 0, 0, 0, 0, 0, 0, 0⟩ _ rest (by simp only [RawWord.fits]; omega) rfl wf rfl

theorem brx (a : Nat) : Statement (.brx a) := by
  intro wf _ rest
  rw [bytes_one _ _ rfl]
  have w := wf; simp [wellFormed, Guard.ok, predOk, vecOk, scalarOk, spaceOk3] at w
  refine oneWord _ _ rest ?_ rfl wf ?_
  · simp only [RawWord.fits]; omega
  · simp [decodeFields, decodeCtl, decodeSync, decodeX, decodeVSpecial, decodeLine, decodeWq, decodeCmd, RawWord.noGuard, RawWord.minor, RawWord.guard, RawWord.offset, RawWord.imm16, RawWord.imm24, RawWord.tyCode, field, ifZero, withCode, mRow, v3Row, viRow]

theorem callx (a : Nat) (k : Nat) : Statement (.callx a k) := by
  intro wf _ rest
  rw [bytes_one _ _ rfl]
  have w := wf; simp [wellFormed, Guard.ok, predOk, vecOk, scalarOk, spaceOk3] at w
  refine oneWord _ _ rest ?_ rfl wf ?_
  · simp only [RawWord.fits]; omega
  · simp [decodeFields, decodeCtl, decodeSync, decodeX, decodeVSpecial, decodeLine, decodeWq, decodeCmd, RawWord.noGuard, RawWord.minor, RawWord.guard, RawWord.offset, RawWord.imm16, RawWord.imm24, RawWord.tyCode, field, ifZero, withCode, mRow, v3Row, viRow]

theorem dwait (k : Nat) : Statement (.dwait k) := by
  intro wf _ rest
  rw [bytes_one _ _ rfl]
  have w := wf; simp [wellFormed, Guard.ok, predOk, vecOk, scalarOk, spaceOk3] at w
  refine oneWord _ _ rest ?_ rfl wf ?_
  · simp only [RawWord.fits]; omega
  · simp [decodeFields, decodeCtl, decodeSync, decodeX, decodeVSpecial, decodeLine, decodeWq, decodeCmd, RawWord.noGuard, RawWord.minor, RawWord.guard, RawWord.offset, RawWord.imm16, RawWord.imm24, RawWord.tyCode, field, ifZero, withCode, mRow, v3Row, viRow]

theorem rinfo (d : Nat) : Statement (.rinfo d) := by
  intro wf _ rest
  rw [bytes_one _ _ rfl]
  have w := wf; simp [wellFormed, Guard.ok, predOk, vecOk, scalarOk, spaceOk3] at w
  refine oneWord _ _ rest ?_ rfl wf ?_
  · simp only [RawWord.fits]; omega
  · simp [decodeFields, decodeCtl, decodeSync, decodeX, decodeVSpecial, decodeLine, decodeWq, decodeCmd, RawWord.noGuard, RawWord.minor, RawWord.guard, RawWord.offset, RawWord.imm16, RawWord.imm24, RawWord.tyCode, field, ifZero, withCode, mRow, v3Row, viRow]

theorem bari (a : Nat) (b : Nat) : Statement (.bari a b) := by
  intro wf _ rest
  rw [bytes_one _ _ rfl]
  have w := wf; simp [wellFormed, Guard.ok, predOk, vecOk, scalarOk, spaceOk3] at w
  refine oneWord _ _ rest ?_ rfl wf ?_
  · simp only [RawWord.fits]; omega
  · simp [decodeFields, decodeCtl, decodeSync, decodeX, decodeVSpecial, decodeLine, decodeWq, decodeCmd, RawWord.noGuard, RawWord.minor, RawWord.guard, RawWord.offset, RawWord.imm16, RawWord.imm24, RawWord.tyCode, field, ifZero, withCode, mRow, v3Row, viRow]

theorem bara (d : Nat) (b : Nat) : Statement (.bara d b) := by
  intro wf _ rest
  rw [bytes_one _ _ rfl]
  have w := wf; simp [wellFormed, Guard.ok, predOk, vecOk, scalarOk, spaceOk3] at w
  refine oneWord _ _ rest ?_ rfl wf ?_
  · simp only [RawWord.fits]; omega
  · simp [decodeFields, decodeCtl, decodeSync, decodeX, decodeVSpecial, decodeLine, decodeWq, decodeCmd, RawWord.noGuard, RawWord.minor, RawWord.guard, RawWord.offset, RawWord.imm16, RawWord.imm24, RawWord.tyCode, field, ifZero, withCode, mRow, v3Row, viRow]

theorem barw (a : Nat) (b : Nat) : Statement (.barw a b) := by
  intro wf _ rest
  rw [bytes_one _ _ rfl]
  have w := wf; simp [wellFormed, Guard.ok, predOk, vecOk, scalarOk, spaceOk3] at w
  refine oneWord _ _ rest ?_ rfl wf ?_
  · simp only [RawWord.fits]; omega
  · simp [decodeFields, decodeCtl, decodeSync, decodeX, decodeVSpecial, decodeLine, decodeWq, decodeCmd, RawWord.noGuard, RawWord.minor, RawWord.guard, RawWord.offset, RawWord.imm16, RawWord.imm24, RawWord.tyCode, field, ifZero, withCode, mRow, v3Row, viRow]

theorem barx (d : Nat) (b : Nat) : Statement (.barx d b) := by
  intro wf _ rest
  rw [bytes_one _ _ rfl]
  have w := wf; simp [wellFormed, Guard.ok, predOk, vecOk, scalarOk, spaceOk3] at w
  refine oneWord _ _ rest ?_ rfl wf ?_
  · simp only [RawWord.fits]; omega
  · simp [decodeFields, decodeCtl, decodeSync, decodeX, decodeVSpecial, decodeLine, decodeWq, decodeCmd, RawWord.noGuard, RawWord.minor, RawWord.guard, RawWord.offset, RawWord.imm16, RawWord.imm24, RawWord.tyCode, field, ifZero, withCode, mRow, v3Row, viRow]

theorem bclose (d : Nat) : Statement (.bclose d) := by
  intro wf _ rest
  rw [bytes_one _ _ rfl]
  have w := wf; simp [wellFormed, Guard.ok, predOk, vecOk, scalarOk, spaceOk3] at w
  refine oneWord _ _ rest ?_ rfl wf ?_
  · simp only [RawWord.fits]; omega
  · simp [decodeFields, decodeCtl, decodeSync, decodeX, decodeVSpecial, decodeLine, decodeWq, decodeCmd, RawWord.noGuard, RawWord.minor, RawWord.guard, RawWord.offset, RawWord.imm16, RawWord.imm24, RawWord.tyCode, field, ifZero, withCode, mRow, v3Row, viRow]

theorem bwait (a : Nat) : Statement (.bwait a) := by
  intro wf _ rest
  rw [bytes_one _ _ rfl]
  have w := wf; simp [wellFormed, Guard.ok, predOk, vecOk, scalarOk, spaceOk3] at w
  refine oneWord _ _ rest ?_ rfl wf ?_
  · simp only [RawWord.fits]; omega
  · simp [decodeFields, decodeCtl, decodeSync, decodeX, decodeVSpecial, decodeLine, decodeWq, decodeCmd, RawWord.noGuard, RawWord.minor, RawWord.guard, RawWord.offset, RawWord.imm16, RawWord.imm24, RawWord.tyCode, field, ifZero, withCode, mRow, v3Row, viRow]

theorem trap (n : Nat) : Statement (.trap n) := by
  intro wf _ rest
  rw [bytes_one _ _ rfl]
  have w := wf; simp [wellFormed, Guard.ok, predOk, vecOk, scalarOk, spaceOk3] at w
  refine oneWord _ _ rest ?_ rfl wf ?_
  · simp only [RawWord.fits]; omega
  · simp [decodeFields, decodeCtl, decodeSync, decodeX, decodeVSpecial, decodeLine, decodeWq, decodeCmd, RawWord.noGuard, RawWord.minor, RawWord.guard, RawWord.offset, RawWord.imm16, RawWord.imm24, RawWord.tyCode, field, ifZero, withCode, mRow, v3Row, viRow]

theorem sget (d num : Nat) : Statement (.sget d num) := by
  intro wf _ rest
  rw [bytes_one _ _ rfl]
  have w := wf; simp [wellFormed, Guard.ok, predOk, vecOk, scalarOk, spaceOk3] at w
  refine oneWord _ _ rest ?_ rfl wf ?_
  · simp only [RawWord.fits]; omega
  · simp [decodeFields, decodeCtl, decodeSync, decodeX, decodeVSpecial, decodeLine, decodeWq, decodeCmd, RawWord.noGuard, RawWord.minor, RawWord.guard, RawWord.offset, RawWord.imm16, RawWord.imm24, RawWord.tyCode, field, ifZero, withCode, mRow, v3Row, viRow]

theorem sset (a num : Nat) : Statement (.sset a num) := by
  intro wf _ rest
  rw [bytes_one _ _ rfl]
  have w := wf; simp [wellFormed, Guard.ok, predOk, vecOk, scalarOk, spaceOk3] at w
  refine oneWord _ _ rest ?_ rfl wf ?_
  · simp only [RawWord.fits]; omega
  · simp [decodeFields, decodeCtl, decodeSync, decodeX, decodeVSpecial, decodeLine, decodeWq, decodeCmd, RawWord.noGuard, RawWord.minor, RawWord.guard, RawWord.offset, RawWord.imm16, RawWord.imm24, RawWord.tyCode, field, ifZero, withCode, mRow, v3Row, viRow]

theorem tlbinv (d a b c : Nat) : Statement (.tlbinv d a b c) := by
  intro wf _ rest
  rw [bytes_one _ _ rfl]
  have w := wf; simp [wellFormed, Guard.ok, predOk, vecOk, scalarOk, spaceOk3] at w
  refine oneWord _ _ rest ?_ rfl wf ?_
  · simp only [RawWord.fits]; omega
  · simp [decodeFields, decodeCtl, decodeSync, decodeX, decodeVSpecial, decodeLine, decodeWq, decodeCmd, RawWord.noGuard, RawWord.minor, RawWord.guard, RawWord.offset, RawWord.imm16, RawWord.imm24, RawWord.tyCode, field, ifZero, withCode, mRow, v3Row, viRow]

theorem own (d a b c : Nat) : Statement (.own d a b c) := by
  intro wf _ rest
  rw [bytes_one _ _ rfl]
  have w := wf; simp [wellFormed, Guard.ok, predOk, vecOk, scalarOk, spaceOk3] at w
  refine oneWord _ _ rest ?_ rfl wf ?_
  · simp only [RawWord.fits]; omega
  · simp [decodeFields, decodeCtl, decodeSync, decodeX, decodeVSpecial, decodeLine, decodeWq, decodeCmd, RawWord.noGuard, RawWord.minor, RawWord.guard, RawWord.offset, RawWord.imm16, RawWord.imm24, RawWord.tyCode, field, ifZero, withCode, mRow, v3Row, viRow]

theorem bra (off : Nat) : Statement (.bra off) := by
  intro wf _ rest
  rw [bytes_one _ _ rfl]
  have w := wf; simp [wellFormed, Guard.ok, predOk, vecOk, scalarOk, spaceOk3] at w
  refine oneWord _ _ rest ?_ rfl wf ?_
  · simp only [RawWord.fits]; omega
  · have o : off / 65536 * 65536 + off / 256 % 256 * 256 + off % 256 = off := by omega
    simp [decodeFields, decodeCtl, decodeSync, decodeX, decodeVSpecial, decodeLine, decodeWq, decodeCmd, RawWord.noGuard, RawWord.minor, RawWord.guard, RawWord.offset, RawWord.imm16, RawWord.imm24, RawWord.tyCode, field, ifZero, withCode, mRow, v3Row, viRow, o]

theorem bz (d : Nat) (off : Nat) : Statement (.bz d off) := by
  intro wf _ rest
  rw [bytes_one _ _ rfl]
  have w := wf; simp [wellFormed, Guard.ok, predOk, vecOk, scalarOk, spaceOk3] at w
  refine oneWord _ _ rest ?_ rfl wf ?_
  · simp only [RawWord.fits]; omega
  · have o : off / 65536 * 65536 + off / 256 % 256 * 256 + off % 256 = off := by omega
    simp [decodeFields, decodeCtl, decodeSync, decodeX, decodeVSpecial, decodeLine, decodeWq, decodeCmd, RawWord.noGuard, RawWord.minor, RawWord.guard, RawWord.offset, RawWord.imm16, RawWord.imm24, RawWord.tyCode, field, ifZero, withCode, mRow, v3Row, viRow, o]

theorem bnz (d : Nat) (off : Nat) : Statement (.bnz d off) := by
  intro wf _ rest
  rw [bytes_one _ _ rfl]
  have w := wf; simp [wellFormed, Guard.ok, predOk, vecOk, scalarOk, spaceOk3] at w
  refine oneWord _ _ rest ?_ rfl wf ?_
  · simp only [RawWord.fits]; omega
  · have o : off / 65536 * 65536 + off / 256 % 256 * 256 + off % 256 = off := by omega
    simp [decodeFields, decodeCtl, decodeSync, decodeX, decodeVSpecial, decodeLine, decodeWq, decodeCmd, RawWord.noGuard, RawWord.minor, RawWord.guard, RawWord.offset, RawWord.imm16, RawWord.imm24, RawWord.tyCode, field, ifZero, withCode, mRow, v3Row, viRow, o]

theorem call (off : Nat) (k : Nat) : Statement (.call off k) := by
  intro wf _ rest
  rw [bytes_one _ _ rfl]
  have w := wf; simp [wellFormed, Guard.ok, predOk, vecOk, scalarOk, spaceOk3] at w
  refine oneWord _ _ rest ?_ rfl wf ?_
  · simp only [RawWord.fits]; omega
  · have o : off / 65536 * 65536 + off / 256 % 256 * 256 + off % 256 = off := by omega
    have k1 : (3 * 256 + k) / 256 % 64 = 3 := by omega
    have k2 : (3 * 256 + k) % 256 = k := by omega
    simp [decodeFields, decodeCtl, decodeSync, decodeX, decodeVSpecial, decodeLine, decodeWq, decodeCmd, RawWord.noGuard, RawWord.minor, RawWord.guard, RawWord.offset, RawWord.imm16, RawWord.imm24, RawWord.tyCode, field, ifZero, withCode, mRow, v3Row, viRow, o, k1, k2]

theorem vbr (neg : Bool) (p : Nat) (off : Nat) : Statement (.vbr neg p off) := by
  intro wf _ rest
  rw [bytes_one _ _ rfl]
  have w := wf; simp [wellFormed, Guard.ok, predOk, vecOk, scalarOk, spaceOk3] at w
  have bl := bitOf_lt neg
  refine oneWord _ _ rest ?_ rfl wf ?_
  · simp only [RawWord.fits]; omega
  · have o : off / 65536 * 65536 + off / 256 % 256 * 256 + off % 256 = off := by omega
    have k1 : (bitOf neg * 128 + p) / 32 % 4 = 0 := by omega
    have k2 : (bitOf neg * 128 + p) / 128 % 2 = bitOf neg := by omega
    have k3 : (bitOf neg * 128 + p) % 32 = p := by omega
    simp [decodeFields, decodeCtl, decodeSync, decodeX, decodeVSpecial, decodeLine, decodeWq, decodeCmd, RawWord.noGuard, RawWord.minor, RawWord.guard, RawWord.offset, RawWord.imm16, RawWord.imm24, RawWord.tyCode, field, ifZero, withCode, mRow, v3Row, viRow, o, k1, k2, k3]

theorem part (n : Nat) (code : Nat) : Statement (.part n code) := by
  intro wf _ rest
  rw [bytes_one _ _ rfl]
  have w := wf; simp [wellFormed, Guard.ok, predOk, vecOk, scalarOk, spaceOk3] at w
  refine oneWord _ _ rest ?_ rfl wf ?_
  · simp only [RawWord.fits]; omega
  · have k1 : (2 * 512 + code) / 512 % 32 = 2 := by omega
    have k2 : (2 * 512 + code) / 4 % 128 = 0 := by omega
    have k3 : (2 * 512 + code) % 4 = code := by omega
    simp [decodeFields, decodeCtl, decodeSync, decodeX, decodeVSpecial, decodeLine, decodeWq, decodeCmd, RawWord.noGuard, RawWord.minor, RawWord.guard, RawWord.offset, RawWord.imm16, RawWord.imm24, RawWord.tyCode, field, ifZero, withCode, mRow, v3Row, viRow, k1, k2, k3]

theorem spawn (g : Guard) (d : Nat) (a : Nat) (n : Nat) : Statement (.spawn g d a n) := by
  intro wf _ rest
  rw [bytes_one _ _ rfl]
  have w := wf; simp [wellFormed, Guard.ok, predOk, vecOk, scalarOk, spaceOk3] at w
  have gl := g.negBit_lt
  refine oneWord _ _ rest ?_ (by simp [tailOf, field]) wf ?_
  · simp only [RawWord.fits]; omega
  · have k1 : n / 256 * 256 + n % 256 = n := by omega
    simp [decodeFields, decodeCtl, decodeSync, decodeX, decodeVSpecial, decodeLine, decodeWq, decodeCmd, RawWord.noGuard, RawWord.minor, RawWord.guard, RawWord.offset, RawWord.imm16, RawWord.imm24, RawWord.tyCode, field, ifZero, withCode, mRow, v3Row, viRow, k1]

theorem fold (d : Nat) (n : Nat) (hold : Nat) (preds : Nat) : Statement (.fold d n hold preds) := by
  intro wf _ rest
  rw [bytes_two _ _ _ rfl]
  have w := wf; simp [wellFormed, Guard.ok, predOk, vecOk, scalarOk, spaceOk3] at w
  refine twoWords _ _ _ rest ?_ ?_ (by simp [tailOf, field]) wf ?_
  · simp only [RawWord.fits]; omega
  · omega
  · have k1 : hold / 256 * 256 + hold % 256 = hold := by omega
    have k2 : preds / 16777216 % 1099511627776 = 0 := by omega
    have k3 : preds % 16777216 = preds := by omega
    simp [decodeFields, decodeCtl, decodeSync, decodeX, decodeVSpecial, decodeLine, decodeWq, decodeCmd, RawWord.noGuard, RawWord.minor, RawWord.guard, RawWord.offset, RawWord.imm16, RawWord.imm24, RawWord.tyCode, field, ifZero, withCode, mRow, v3Row, viRow, k1, k2, k3]

theorem scmp (cond : Cond) (o : SOp) : Statement (.scmp cond o) := by
  intro wf _ rest
  rw [bytes_one _ _ rfl]
  have b := SOp.ok_bounds (Bool.and_eq_true_iff.mp (Bool.and_eq_true_iff.mp (Bool.and_eq_true_iff.mp wf).1).1).1
  have tl := o.ty.code_lt
  have cl := cond.code_lt
  refine oneWord _ _ rest ?_ rfl wf ?_
  · simp only [RawWord.fits]; omega
  · have k1 : (2 * 512 + o.ty.code * 16 + cond.code) / 512 % 32 = 2 := by omega
    have k2 : (2 * 512 + o.ty.code * 16 + cond.code) / 16 % 32 = o.ty.code := by omega
    have k3 : (2 * 512 + o.ty.code * 16 + cond.code) % 16 = cond.code := by omega
    simp [decodeFields, RawWord.noGuard, RawWord.minor, RawWord.tyCode, decodeS, withCode, field, k1, k2, k3]

theorem scmpImm (cond : Cond) (uns : Bool) (o : SIOp) : Statement (.scmpImm cond uns o) := by
  intro wf _ rest
  rw [bytes_one _ _ rfl]
  have b := SIOp.ok_bounds (Bool.and_eq_true_iff.mp (Bool.and_eq_true_iff.mp wf).1).1
  have bl := bitOf_lt uns
  have cl := cond.code_lt
  refine oneWord _ _ rest ?_ rfl wf ?_
  · simp only [RawWord.fits]; omega
  · have k1 : (o.imm % 256 * 64 + (cond.code + 16 * bitOf uns)) % 16 = cond.code := by omega
    have k2 : (o.imm % 256 * 64 + (cond.code + 16 * bitOf uns)) / 32 % 2 = 0 := by omega
    have k3 : (o.imm % 256 * 64 + (cond.code + 16 * bitOf uns)) / 16 % 2 = bitOf uns := by omega
    have k4 : (o.imm % 256 * 64 + (cond.code + 16 * bitOf uns)) / 64 % 256 = o.imm % 256 := by omega
    have k5 : o.imm / 65536 * 65536 + o.imm / 256 % 256 * 256 + o.imm % 256 = o.imm := by omega
    simp [decodeFields, RawWord.noGuard, RawWord.imm24, withCode, ifZero, field, k1, k2, k3, k4, k5]

theorem vicmp_bounds (o : CmpOp) (wf : wellFormed (.vicmp o) = true) :
    o.g.pred < 24 ∧ o.d < 24 ∧ o.c < 24 ∧ o.a < 256 ∧ o.b < 256 := by
  simp [wellFormed, Guard.ok, predOk, vecOk] at wf; omega

theorem vicmp (o : CmpOp) : Statement (.vicmp o) := by
  intro wf _ rest
  rw [bytes_one _ _ rfl]
  have b := vicmp_bounds o wf
  have tl := o.ty.code_lt
  have cl := o.cond.code_lt
  have gl := o.g.negBit_lt
  refine oneWord _ _ rest ?_ rfl wf ?_
  · simp only [RawWord.fits]; omega
  · have k1 : (o.ty.code * 16 + o.cond.code) / 512 % 32 = 0 := by omega
    have k2 : (o.ty.code * 16 + o.cond.code) / 16 % 32 = o.ty.code := by omega
    have k3 : (o.ty.code * 16 + o.cond.code) % 16 = o.cond.code := by omega
    simp [decodeFields, RawWord.minor, RawWord.tyCode, RawWord.guard, decodeVSpecial, withCode, field, v3Row, viRow,
      k1, k2, k3]

theorem vfcmp_bounds (o : CmpOp) (wf : wellFormed (.vfcmp o) = true) :
    o.g.pred < 24 ∧ o.d < 24 ∧ o.c < 24 ∧ o.a < 256 ∧ o.b < 256 := by
  simp [wellFormed, Guard.ok, predOk, vecOk] at wf; omega

theorem vfcmp (o : CmpOp) : Statement (.vfcmp o) := by
  intro wf _ rest
  rw [bytes_one _ _ rfl]
  have b := vfcmp_bounds o wf
  have tl := o.ty.code_lt
  have cl := o.cond.code_lt
  have gl := o.g.negBit_lt
  refine oneWord _ _ rest ?_ rfl wf ?_
  · simp only [RawWord.fits]; omega
  · have k1 : (512 + o.ty.code * 16 + o.cond.code) / 512 % 32 = 1 := by omega
    have k2 : (512 + o.ty.code * 16 + o.cond.code) / 16 % 32 = o.ty.code := by omega
    have k3 : (512 + o.ty.code * 16 + o.cond.code) % 16 = o.cond.code := by omega
    simp [decodeFields, RawWord.minor, RawWord.tyCode, RawWord.guard, decodeVSpecial, withCode, field, v3Row, viRow,
      k1, k2, k3]

theorem vred_bounds (o : VRedOp) (wf : wellFormed (.vred o) = true) :
    o.g.pred < 24 ∧ o.d < 256 ∧ o.a < 256 ∧ o.grp < 8 := by
  simp [wellFormed, Guard.ok, predOk, vecOk] at wf; omega

theorem vred (o : VRedOp) : Statement (.vred o) := by
  intro wf _ rest
  rw [bytes_one _ _ rfl]
  have b := vred_bounds o wf
  have tl := o.ty.code_lt
  have ol := o.op.code_lt
  have ml := o.mode.code_lt
  have gl := o.g.negBit_lt
  refine oneWord _ _ rest ?_ rfl wf ?_
  · simp only [RawWord.fits]; omega
  · have k1 : (6 * 512 + o.ty.code * 16 + o.mode.code) / 512 % 32 = 6 := by omega
    have k2 : (6 * 512 + o.ty.code * 16 + o.mode.code) / 16 % 32 = o.ty.code := by omega
    have k3 : (6 * 512 + o.ty.code * 16 + o.mode.code) / 4 % 4 = 0 := by omega
    have k4 : (6 * 512 + o.ty.code * 16 + o.mode.code) % 4 = o.mode.code := by omega
    simp [decodeFields, RawWord.minor, RawWord.tyCode, RawWord.guard, decodeVSpecial, withCode, ifZero, field, v3Row, viRow,
      k1, k2, k3, k4]

theorem line_bounds {lv : Bool} (o : LineOp) (wf : o.ok lv = true) :
    o.g.pred < 24 ∧ o.a < 64 ∧ o.b < 256 ∧ o.d < 2 := by
  simp only [LineOp.ok, Guard.ok, predOk, scalarOk, Bool.and_eq_true, decide_eq_true_eq] at wf
  obtain ⟨⟨⟨hp, ha⟩, hb⟩, hd⟩ := wf
  refine ⟨hp, ha, offOk_lt hb, ?_⟩
  split at hd <;> simp at hd <;> omega

theorem pref (o : LineOp) : Statement (.pref o) := by
  intro wf _ rest
  rw [bytes_one _ _ rfl]
  have b := line_bounds (lv := true) o wf
  have kl := o.kind.code_lt
  have gl := o.g.negBit_lt
  refine oneWord _ _ rest ?_ rfl wf ?_
  · simp only [RawWord.fits]; omega
  · have k1 : o.kind.code / 4 % 4096 = 0 := by omega
    have k2 : o.kind.code % 4 = o.kind.code := by omega
    simp [decodeFields, RawWord.guard, decodeSync, decodeLine, mRow, ifZero, field, k1, k2]

theorem cflush (o : LineOp) : Statement (.cflush o) := by
  intro wf _ rest
  rw [bytes_one _ _ rfl]
  have b := line_bounds (lv := false) o wf
  have kl := o.kind.code_lt
  have gl := o.g.negBit_lt
  refine oneWord _ _ rest ?_ rfl wf ?_
  · simp only [RawWord.fits]; omega
  · have k1 : o.kind.code / 4 % 4096 = 0 := by omega
    have k2 : o.kind.code % 4 = o.kind.code := by omega
    simp [decodeFields, RawWord.guard, decodeSync, decodeLine, mRow, ifZero, field, k1, k2]

theorem cinv (o : LineOp) : Statement (.cinv o) := by
  intro wf _ rest
  rw [bytes_one _ _ rfl]
  have b := line_bounds (lv := false) o wf
  have kl := o.kind.code_lt
  have gl := o.g.negBit_lt
  refine oneWord _ _ rest ?_ rfl wf ?_
  · simp only [RawWord.fits]; omega
  · have k1 : o.kind.code / 4 % 4096 = 0 := by omega
    have k2 : o.kind.code % 4 = o.kind.code := by omega
    simp [decodeFields, RawWord.guard, decodeSync, decodeLine, mRow, ifZero, field, k1, k2]

theorem cclean (o : LineOp) : Statement (.cclean o) := by
  intro wf _ rest
  rw [bytes_one _ _ rfl]
  have b := line_bounds (lv := false) o wf
  have kl := o.kind.code_lt
  have gl := o.g.negBit_lt
  refine oneWord _ _ rest ?_ rfl wf ?_
  · simp only [RawWord.fits]; omega
  · have k1 : o.kind.code / 4 % 4096 = 0 := by omega
    have k2 : o.kind.code % 4 = o.kind.code := by omega
    simp [decodeFields, RawWord.guard, decodeSync, decodeLine, mRow, ifZero, field, k1, k2]

theorem fence (order : Order) (scope : Scope) : Statement (.fence order scope) := by
  intro wf _ rest
  rw [bytes_one _ _ rfl]
  have ol := order.code_lt
  have sl := scope.code_lt
  refine oneWord _ _ rest ?_ rfl wf ?_
  · simp only [RawWord.fits]; omega
  · have k1 : (scope.code * 16 + order.code * 4) / 16 % 8 = scope.code := by omega
    have k2 : (scope.code * 16 + order.code * 4) / 128 % 128 = 0 := by omega
    have k3 : (scope.code * 16 + order.code * 4) % 4 = 0 := by omega
    have k4 : (scope.code * 16 + order.code * 4) / 4 % 4 = order.code := by omega
    simp [decodeFields, decodeSync, mRow, withCode, ifZero, field, k1, k2, k3, k4]

theorem wq_bounds (o : WqOp) (wf : o.ok = true) : o.d < 64 ∧ o.a < 64 ∧ o.q < 64 ∧ o.b < 256 := by
  simp only [WqOp.ok, scalarOk, Bool.and_eq_true, decide_eq_true_eq] at wf
  obtain ⟨⟨⟨⟨⟨hd, ha⟩, hq⟩, _⟩, hb⟩, _⟩ := wf
  exact ⟨hd, ha, hq, offOk_lt hb⟩

theorem wqpop (o : WqOp) : Statement (.wqpop o) := by
  intro wf _ rest
  rw [bytes_one _ _ rfl]
  have b := wq_bounds o wf
  have kl := o.kind.code_lt
  have sl := o.space.code_lt
  refine oneWord _ _ rest ?_ rfl wf ?_
  · simp only [RawWord.fits]; omega
  · have k1 : (o.space.code * 128 + o.kind.code) / 128 % 8 = o.space.code := by omega
    have k2 : (o.space.code * 128 + o.kind.code) / 1024 % 16 = 0 := by omega
    have k3 : (o.space.code * 128 + o.kind.code) / 4 % 32 = 0 := by omega
    have k4 : (o.space.code * 128 + o.kind.code) % 4 = o.kind.code := by omega
    have k5 : o.q / 64 % 4 = 0 := by omega
    have k6 : o.q % 64 = o.q := by omega
    simp [decodeFields, RawWord.noGuard, decodeSync, decodeWq, mRow, withCode, ifZero, field, k1, k2, k3, k4, k5, k6]

theorem wqpush (o : WqOp) : Statement (.wqpush o) := by
  intro wf _ rest
  rw [bytes_one _ _ rfl]
  have b := wq_bounds o wf
  have kl := o.kind.code_lt
  have sl := o.space.code_lt
  refine oneWord _ _ rest ?_ rfl wf ?_
  · simp only [RawWord.fits]; omega
  · have k1 : (o.space.code * 128 + o.kind.code) / 128 % 8 = o.space.code := by omega
    have k2 : (o.space.code * 128 + o.kind.code) / 1024 % 16 = 0 := by omega
    have k3 : (o.space.code * 128 + o.kind.code) / 4 % 32 = 0 := by omega
    have k4 : (o.space.code * 128 + o.kind.code) % 4 = o.kind.code := by omega
    have k5 : o.q / 64 % 4 = 0 := by omega
    have k6 : o.q % 64 = o.q := by omega
    simp [decodeFields, RawWord.noGuard, decodeSync, decodeWq, mRow, withCode, ifZero, field, k1, k2, k3, k4, k5, k6]

theorem ev_bounds (o : EvOp) (wf : o.ok = true) : o.d < 64 ∧ o.a < 64 ∧ o.t < 64 ∧ o.b < 256 := by
  simp only [EvOp.ok, scalarOk, Bool.and_eq_true, decide_eq_true_eq] at wf
  obtain ⟨⟨⟨⟨⟨⟨⟨hd, ha⟩, ht⟩, _⟩, hb⟩, _⟩, _⟩, _⟩ := wf
  exact ⟨hd, ha, ht, offOk_lt hb⟩

theorem evwait (o : EvOp) : Statement (.evwait o) := by
  intro wf _ rest
  rw [bytes_one _ _ rfl]
  have b := ev_bounds o wf
  have ml := mFn_lt o.elem o.space o.scope o.order o.kind
  refine oneWord _ _ rest ?_ rfl wf ?_
  · simp only [RawWord.fits]; omega
  · have k5 : field o.t 6 2 = 0 := by simp only [field]; omega
    have k6 : field o.t 0 6 = o.t := by simp only [field]; omega
    simp [decodeFields, decodeSync, mRow, withCode, ifZero, mFn_elem, mFn_space, mFn_scope, mFn_order, mFn_kind, k5, k6]

theorem macq (g : Guard) (acc : Nat) (cols : Nat) : Statement (.macq g acc cols) := by
  intro wf _ rest
  rw [bytes_two _ _ _ rfl]
  have w := wf; simp [wellFormed, Guard.ok, predOk, vecOk, scalarOk, spaceOk3] at w
  have gl := g.negBit_lt
  refine twoWords _ _ _ rest ?_ ?_ rfl wf ?_
  · simp only [RawWord.fits]; omega
  · omega
  · have k1 : cols / 256 % 64 = 0 := by omega
    have k2 : cols % 256 = cols := by omega
    have k3 : cols / 8 = 0 := by omega
    have k4 : cols % 8 = cols := by omega
    simp [decodeFields, decodeCtl, decodeSync, decodeX, decodeVSpecial, decodeLine, decodeWq, decodeCmd, RawWord.noGuard, RawWord.minor, RawWord.guard, RawWord.offset, RawWord.imm16, RawWord.imm24, RawWord.tyCode, field, ifZero, withCode, mRow, v3Row, viRow, k1, k2, k3, k4]

theorem mrel (g : Guard) (acc : Nat) : Statement (.mrel g acc) := by
  intro wf _ rest
  rw [bytes_two _ _ _ rfl]
  have w := wf; simp [wellFormed, Guard.ok, predOk, vecOk, scalarOk, spaceOk3] at w
  have gl := g.negBit_lt
  refine twoWords _ _ _ rest ?_ ?_ rfl wf ?_
  · simp only [RawWord.fits]; omega
  · omega
  · simp [decodeFields, decodeCtl, decodeSync, decodeX, decodeVSpecial, decodeLine, decodeWq, decodeCmd, RawWord.noGuard, RawWord.minor, RawWord.guard, RawWord.offset, RawWord.imm16, RawWord.imm24, RawWord.tyCode, field, ifZero, withCode, mRow, v3Row, viRow]

theorem mrelF (g : Guard) (acc : Nat) : Statement (.mrelF g acc) := by
  intro wf _ rest
  rw [bytes_two _ _ _ rfl]
  have w := wf; simp [wellFormed, Guard.ok, predOk, vecOk, scalarOk, spaceOk3] at w
  have gl := g.negBit_lt
  refine twoWords _ _ _ rest ?_ ?_ rfl wf ?_
  · simp only [RawWord.fits]; omega
  · omega
  · simp [decodeFields, decodeCtl, decodeSync, decodeX, decodeVSpecial, decodeLine, decodeWq, decodeCmd, RawWord.noGuard, RawWord.minor, RawWord.guard, RawWord.offset, RawWord.imm16, RawWord.imm24, RawWord.tyCode, field, ifZero, withCode, mRow, v3Row, viRow]

theorem mzero (g : Guard) (acc : Nat) : Statement (.mzero g acc) := by
  intro wf _ rest
  rw [bytes_two _ _ _ rfl]
  have w := wf; simp [wellFormed, Guard.ok, predOk, vecOk, scalarOk, spaceOk3] at w
  have gl := g.negBit_lt
  refine twoWords _ _ _ rest ?_ ?_ rfl wf ?_
  · simp only [RawWord.fits]; omega
  · omega
  · simp [decodeFields, decodeCtl, decodeSync, decodeX, decodeVSpecial, decodeLine, decodeWq, decodeCmd, RawWord.noGuard, RawWord.minor, RawWord.guard, RawWord.offset, RawWord.imm16, RawWord.imm24, RawWord.tyCode, field, ifZero, withCode, mRow, v3Row, viRow]

theorem mmul (g : Guard) (acc : Nat) (a b c e f : Nat) (z : Bool) : Statement (.mmul g acc a b c e f z) := by
  intro wf _ rest
  rw [bytes_two _ _ _ rfl]
  have w := wf; simp [wellFormed, Guard.ok, predOk, vecOk, scalarOk, spaceOk3] at w
  have gl := g.negBit_lt
  have zl := bitOf_lt z
  refine twoWords _ _ _ rest ?_ ?_ rfl wf ?_
  · simp only [RawWord.fits]; omega
  · omega
  · have k1 : bitOf z / 256 % 64 = 0 := by omega
    have k2 : bitOf z % 256 = bitOf z := by omega
    have k3 : bitOf z / 2 = 0 := by omega
    have k4 : bitOf z % 2 = bitOf z := by omega
    have k5 : (e * 256 + f * 65536) % 256 = 0 := by omega
    have k6 : (e * 256 + f * 65536) / 1048576 % 17592186044416 = 0 := by omega
    have k7 : (e * 256 + f * 65536) / 256 % 256 = e := by omega
    have k8 : (e * 256 + f * 65536) / 65536 % 16 = f := by omega
    simp [decodeFields, decodeCtl, decodeSync, decodeX, decodeVSpecial, decodeLine, decodeWq, decodeCmd, RawWord.noGuard, RawWord.minor, RawWord.guard, RawWord.offset, RawWord.imm16, RawWord.imm24, RawWord.tyCode, field, ifZero, withCode, mRow, v3Row, viRow, k1, k2, k3, k4, k5, k6, k7, k8]

theorem mrd (g : Guard) (la ctr d acc b logn : Nat) : Statement (.mrd g la ctr d acc b logn) := by
  intro wf _ rest
  rw [bytes_two _ _ _ rfl]
  have w := wf; simp [wellFormed, Guard.ok, predOk, vecOk, scalarOk, spaceOk3] at w
  have gl := g.negBit_lt
  have ll := lookOk_lt w.1.1.1.1.2
  refine twoWords _ _ _ rest ?_ ?_ rfl wf ?_
  · simp only [RawWord.fits]; omega
  · omega
  · have k1 : logn / 256 % 64 = 0 := by omega
    have k2 : logn % 256 = logn := by omega
    have k3 : logn / 4 = 0 := by omega
    have k4 : logn % 4 = logn := by omega
    have k5 : ctr / 8 % 2305843009213693952 = 0 := by omega
    have k6 : ctr % 8 = ctr := by omega
    simp [decodeFields, decodeCtl, decodeSync, decodeX, decodeVSpecial, decodeLine, decodeWq, decodeCmd, RawWord.noGuard, RawWord.minor, RawWord.guard, RawWord.offset, RawWord.imm16, RawWord.imm24, RawWord.tyCode, field, ifZero, withCode, mRow, v3Row, viRow, k1, k2, k3, k4, k5, k6]

theorem mwr (g : Guard) (acc a b logn : Nat) : Statement (.mwr g acc a b logn) := by
  intro wf _ rest
  rw [bytes_two _ _ _ rfl]
  have w := wf; simp [wellFormed, Guard.ok, predOk, vecOk, scalarOk, spaceOk3] at w
  have gl := g.negBit_lt
  refine twoWords _ _ _ rest ?_ ?_ rfl wf ?_
  · simp only [RawWord.fits]; omega
  · omega
  · have k1 : logn / 256 % 64 = 0 := by omega
    have k2 : logn % 256 = logn := by omega
    have k3 : logn / 4 = 0 := by omega
    have k4 : logn % 4 = logn := by omega
    simp [decodeFields, decodeCtl, decodeSync, decodeX, decodeVSpecial, decodeLine, decodeWq, decodeCmd, RawWord.noGuard, RawWord.minor, RawWord.guard, RawWord.offset, RawWord.imm16, RawWord.imm24, RawWord.tyCode, field, ifZero, withCode, mRow, v3Row, viRow, k1, k2, k3, k4]

theorem mld (g : Guard) (la ctr acc a b : Nat) (space : Space) (scope : Scope) : Statement (.mld g la ctr acc a b space scope) := by
  intro wf _ rest
  rw [bytes_two _ _ _ rfl]
  have w := wf; simp [wellFormed, Guard.ok, predOk, vecOk, scalarOk, spaceOk3] at w
  have gl := g.negBit_lt
  have sl := space.code_lt
  have cl := scope.code_lt
  have ll := lookOk_lt w.1.1.1.1.2
  refine twoWords _ _ _ rest ?_ ?_ rfl wf ?_
  · simp only [RawWord.fits]; omega
  · omega
  · have k1 : (ctr + space.code * 256 + scope.code * 1024) / 256 % 4 = space.code := by omega
    have k2 : (ctr + space.code * 256 + scope.code * 1024) / 1024 % 8 = scope.code := by omega
    have k3 : (ctr + space.code * 256 + scope.code * 1024) / 8 % 32 = 0 := by omega
    have k4 : (ctr + space.code * 256 + scope.code * 1024) / 8192 % 2251799813685248 = 0 := by omega
    have k5 : (ctr + space.code * 256 + scope.code * 1024) % 8 = ctr := by omega
    simp [decodeFields, decodeCtl, decodeSync, decodeX, decodeVSpecial, decodeLine, decodeWq, decodeCmd, RawWord.noGuard, RawWord.minor, RawWord.guard, RawWord.offset, RawWord.imm16, RawWord.imm24, RawWord.tyCode, field, ifZero, withCode, mRow, v3Row, viRow, k1, k2, k3, k4, k5]

theorem mst (g : Guard) (acc a b : Nat) (space : Space) (scope : Scope) : Statement (.mst g acc a b space scope) := by
  intro wf _ rest
  rw [bytes_two _ _ _ rfl]
  have w := wf; simp [wellFormed, Guard.ok, predOk, vecOk, scalarOk, spaceOk3] at w
  have gl := g.negBit_lt
  have sl := space.code_lt
  have cl := scope.code_lt
  refine twoWords _ _ _ rest ?_ ?_ rfl wf ?_
  · simp only [RawWord.fits]; omega
  · omega
  · have k1 : (space.code * 256 + scope.code * 1024) / 256 % 4 = space.code := by omega
    have k2 : (space.code * 256 + scope.code * 1024) / 1024 % 8 = scope.code := by omega
    have k3 : (space.code * 256 + scope.code * 1024) % 256 = 0 := by omega
    have k4 : (space.code * 256 + scope.code * 1024) / 8192 % 2251799813685248 = 0 := by omega
    simp [decodeFields, decodeCtl, decodeSync, decodeX, decodeVSpecial, decodeLine, decodeWq, decodeCmd, RawWord.noGuard, RawWord.minor, RawWord.guard, RawWord.offset, RawWord.imm16, RawWord.imm24, RawWord.tyCode, field, ifZero, withCode, mRow, v3Row, viRow, k1, k2, k3, k4]

theorem hld (la ctr d a : Nat) (space : Space) : Statement (.hld la ctr d a space) := by
  intro wf _ rest
  rw [bytes_two _ _ _ rfl]
  have w := wf; simp [wellFormed, Guard.ok, predOk, vecOk, scalarOk, spaceOk3] at w
  have sl := space.code_lt
  have ll := lookOk_lt w.1.1.1
  have n0 : Guard.negBit ⟨false, 0⟩ = 0 := rfl
  refine twoWords _ _ _ rest ?_ ?_ rfl wf ?_
  · simp only [RawWord.fits]; omega
  · omega
  · have n1 : Guard.negBit ⟨false, 0⟩ = 0 := rfl
    have k1 : (ctr + space.code * 256) / 256 % 4 = space.code := by omega
    have k3 : (ctr + space.code * 256) / 8 % 32 = 0 := by omega
    have k4 : (ctr + space.code * 256) / 1024 % 18014398509481984 = 0 := by omega
    have k5 : (ctr + space.code * 256) % 8 = ctr := by omega
    simp [decodeFields, decodeCtl, decodeSync, decodeX, decodeVSpecial, decodeLine, decodeWq, decodeCmd, RawWord.noGuard, RawWord.minor, RawWord.guard, RawWord.offset, RawWord.imm16, RawWord.imm24, RawWord.tyCode, field, ifZero, withCode, mRow, v3Row, viRow, n1, k1, k3, k4, k5]

theorem hst (d a : Nat) (space : Space) : Statement (.hst d a space) := by
  intro wf _ rest
  rw [bytes_two _ _ _ rfl]
  have w := wf; simp [wellFormed, Guard.ok, predOk, vecOk, scalarOk, spaceOk3] at w
  have sl := space.code_lt
  refine twoWords _ _ _ rest ?_ ?_ rfl wf ?_
  · simp only [RawWord.fits]; omega
  · omega
  · have k2 : space.code % 4 = space.code := by omega
    have k1 : space.code * 256 / 256 % 4 = space.code := by omega
    have k3 : space.code * 256 % 256 = 0 := by omega
    have k4 : space.code * 256 / 1024 % 18014398509481984 = 0 := by omega
    simp [decodeFields, decodeCtl, decodeSync, decodeX, decodeVSpecial, decodeLine, decodeWq, decodeCmd, RawWord.noGuard, RawWord.minor, RawWord.guard, RawWord.offset, RawWord.imm16, RawWord.imm24, RawWord.tyCode, field, ifZero, withCode, mRow, v3Row, viRow, k2, k1, k3, k4]

theorem hset (d a k : Nat) : Statement (.hset d a k) := by
  intro wf _ rest
  rw [bytes_two _ _ _ rfl]
  have w := wf; simp [wellFormed, Guard.ok, predOk, vecOk, scalarOk, spaceOk3] at w
  refine twoWords _ _ _ rest ?_ ?_ rfl wf ?_
  · simp only [RawWord.fits]; omega
  · omega
  · have k1 : k / 256 % 64 = 0 := by omega
    have k2 : k % 256 = k := by omega
    have k3 : k / 8 = 0 := by omega
    have k4 : k % 8 = k := by omega
    simp [decodeFields, decodeCtl, decodeSync, decodeX, decodeVSpecial, decodeLine, decodeWq, decodeCmd, RawWord.noGuard, RawWord.minor, RawWord.guard, RawWord.offset, RawWord.imm16, RawWord.imm24, RawWord.tyCode, field, ifZero, withCode, mRow, v3Row, viRow, k1, k2, k3, k4]

theorem hget (d a k : Nat) : Statement (.hget d a k) := by
  intro wf _ rest
  rw [bytes_two _ _ _ rfl]
  have w := wf; simp [wellFormed, Guard.ok, predOk, vecOk, scalarOk, spaceOk3] at w
  refine twoWords _ _ _ rest ?_ ?_ rfl wf ?_
  · simp only [RawWord.fits]; omega
  · omega
  · have k1 : k / 256 % 64 = 0 := by omega
    have k2 : k % 256 = k := by omega
    have k3 : k / 8 = 0 := by omega
    have k4 : k % 8 = k := by omega
    simp [decodeFields, decodeCtl, decodeSync, decodeX, decodeVSpecial, decodeLine, decodeWq, decodeCmd, RawWord.noGuard, RawWord.minor, RawWord.guard, RawWord.offset, RawWord.imm16, RawWord.imm24, RawWord.tyCode, field, ifZero, withCode, mRow, v3Row, viRow, k1, k2, k3, k4]

theorem cmd_bounds {sa sb : Bool} (o : CmdOp) (wf : o.ok sa sb = true) :
    o.g.pred < 24 ∧ o.d < 64 ∧ o.a < 64 ∧ o.b < 64 ∧ o.c < 64 ∧ o.queue < 16 ∧ (∀ k, o.cnt = some k → k < 64) := by
  simp only [CmdOp.ok, Guard.ok, predOk, scalarOk, Bool.and_eq_true, decide_eq_true_eq] at wf
  obtain ⟨⟨⟨⟨⟨⟨hp, hd⟩, hc⟩, hq⟩, hk⟩, ha⟩, hb⟩ := wf
  refine ⟨hp, hd, ?_, ?_, hc, hq, ?_⟩
  · split at ha <;> simp at ha <;> omega
  · split at hb <;> simp at hb <;> omega
  · intro k e; rw [e] at hk; simpa [cntOk, scalarOk] using hk

theorem cmdTail_lt (o : CmdOp) (b : o.queue < 16 ∧ (∀ k, o.cnt = some k → k < 64)) : cmdTail o < 2 ^ 64 := by
  unfold cmdTail
  split
  · have := b.2 _ ‹_›; omega
  · omega

theorem cmdTail_fields (o : CmdOp) (b : o.queue < 16 ∧ (∀ k, o.cnt = some k → k < 64)) :
    field (cmdTail o) 0 4 = 0 ∧ field (cmdTail o) 15 49 = 0 ∧ field (cmdTail o) 4 4 = o.queue
      ∧ (if field (cmdTail o) 8 1 = 0 then field (cmdTail o) 9 6 else 0) = 0
      ∧ (if field (cmdTail o) 8 1 = 1 then some (field (cmdTail o) 9 6) else none) = o.cnt := by
  obtain ⟨q, k⟩ := b
  cases h : o.cnt with
  | none =>
    have e : cmdTail o = o.queue * 16 := by simp [cmdTail, h]
    have f1 : field (o.queue * 16) 8 1 = 0 := by simp only [field]; omega
    have f2 : field (o.queue * 16) 9 6 = 0 := by simp only [field]; omega
    rw [e, f1, f2]
    simp only [field]
    exact ⟨by omega, by omega, by omega, rfl, rfl⟩
  | some k' =>
    have := k _ h
    have e : cmdTail o = o.queue * 16 + (256 + k' * 512) := by simp [cmdTail, h]
    have f1 : field (o.queue * 16 + (256 + k' * 512)) 8 1 = 1 := by simp only [field]; omega
    have f2 : field (o.queue * 16 + (256 + k' * 512)) 9 6 = k' := by simp only [field]; omega
    rw [e, f1, f2]
    simp only [field]
    exact ⟨by omega, by omega, by omega, rfl, rfl⟩

theorem cmd_reads (mj fn : Nat) (o : CmdOp) (b : o.queue < 16 ∧ (∀ k, o.cnt = some k → k < 64)) {f : CmdOp → Instr}
    (lo : field fn 8 6 = 0 := by rfl) :
    decodeCmd ⟨mj, o.g.negBit, o.g.pred, 0, o.d, o.a, o.b, o.c, fn⟩ (cmdTail o) 0 f = .ok (f o) := by
  have t := cmdTail_fields o b
  simp only [decodeCmd, RawWord.guard, ifZero, t.1, t.2.1, t.2.2.1, t.2.2.2.1, t.2.2.2.2, lo]
  simp

theorem cpyt (o : CmdOp) : Statement (.cpyt o) := by
  intro wf _ rest
  rw [bytes_two _ _ _ rfl]
  have b := cmd_bounds (sa := true) (sb := true) o wf
  have gl := o.g.negBit_lt
  refine twoWords _ _ _ rest ?_ (cmdTail_lt o b.2.2.2.2.2) rfl wf ?_
  · simp only [RawWord.fits]; omega
  · have r := cmd_reads 0xDC 0 o b.2.2.2.2.2 (f := .cpyt)
    simpa [decodeFields, decodeX, field] using r

theorem gath (o : CmdOp) : Statement (.gath o) := by
  intro wf _ rest
  rw [bytes_two _ _ _ rfl]
  have b := cmd_bounds (sa := true) (sb := true) o wf
  have gl := o.g.negBit_lt
  refine twoWords _ _ _ rest ?_ (cmdTail_lt o b.2.2.2.2.2) rfl wf ?_
  · simp only [RawWord.fits]; omega
  · have r := cmd_reads 0xDE 0 o b.2.2.2.2.2 (f := .gath)
    simpa [decodeFields, decodeX, field] using r

theorem coll (o : CmdOp) : Statement (.coll o) := by
  intro wf _ rest
  rw [bytes_two _ _ _ rfl]
  have b := cmd_bounds (sa := true) (sb := false) o wf
  have gl := o.g.negBit_lt
  refine twoWords _ _ _ rest ?_ (cmdTail_lt o b.2.2.2.2.2) rfl wf ?_
  · simp only [RawWord.fits]; omega
  · have r := cmd_reads 0xDF 0 o b.2.2.2.2.2 (f := .coll)
    simpa [decodeFields, decodeX, field] using r

theorem cpyl (o : CmdOp) (src dst : Space) : Statement (.cpyl o src dst) := by
  intro wf _ rest
  rw [bytes_two _ _ _ rfl]
  have b := cmd_bounds (sa := false) (sb := false) o (Bool.and_eq_true_iff.mp (Bool.and_eq_true_iff.mp wf).1).1
  have gl := o.g.negBit_lt
  have sl := src.code_lt
  have dl := dst.code_lt
  refine twoWords _ _ _ rest ?_ (cmdTail_lt o b.2.2.2.2.2) rfl wf ?_
  · simp only [RawWord.fits]; omega
  · have k1 : field (field (src.code + dst.code * 4) 0 8) 0 2 = src.code := by simp only [field]; omega
    have k2 : field (field (src.code + dst.code * 4) 0 8) 2 2 = dst.code := by simp only [field]; omega
    have k3 : field (src.code + dst.code * 4) 0 8 / 16 = 0 := by simp only [field]; omega
    have k4 : field (src.code + dst.code * 4) 8 6 = 0 := by simp only [field]; omega
    have r := cmd_reads 0xDD (src.code + dst.code * 4) o b.2.2.2.2.2 (f := fun o => .cpyl o src dst) k4
    simpa [decodeFields, decodeX, withCode, k1, k2, k3] using r

theorem qfence (queue mask : Nat) : Statement (.qfence queue mask) := by
  intro wf _ rest
  rw [bytes_two _ _ _ rfl]
  have w := wf; simp [wellFormed, Guard.ok, predOk, vecOk, scalarOk, spaceOk3] at w
  refine twoWords _ _ _ rest ?_ ?_ rfl wf ?_
  · simp only [RawWord.fits]; omega
  · omega
  · have k1 : (queue * 16 + mask * 256) % 16 = 0 := by omega
    have k2 : (queue * 16 + mask * 256) / 16777216 % 1099511627776 = 0 := by omega
    have k3 : (queue * 16 + mask * 256) / 16 % 16 = queue := by omega
    have k4 : (queue * 16 + mask * 256) / 256 % 65536 = mask := by omega
    simp [decodeFields, decodeCtl, decodeSync, decodeX, decodeVSpecial, decodeLine, decodeWq, decodeCmd, RawWord.noGuard, RawWord.minor, RawWord.guard, RawWord.offset, RawWord.imm16, RawWord.imm24, RawWord.tyCode, field, ifZero, withCode, mRow, v3Row, viRow, k1, k2, k3, k4]

theorem fwait (a : Nat) : Statement (.fwait a) := by
  intro wf _ rest
  rw [bytes_two _ _ _ rfl]
  have w := wf; simp [wellFormed, Guard.ok, predOk, vecOk, scalarOk, spaceOk3] at w
  refine twoWords _ _ _ rest ?_ ?_ rfl wf ?_
  · simp only [RawWord.fits]; omega
  · omega
  · simp [decodeFields, decodeCtl, decodeSync, decodeX, decodeVSpecial, decodeLine, decodeWq, decodeCmd, RawWord.noGuard, RawWord.minor, RawWord.guard, RawWord.offset, RawWord.imm16, RawWord.imm24, RawWord.tyCode, field, ifZero, withCode, mRow, v3Row, viRow]

theorem ftest (d a : Nat) : Statement (.ftest d a) := by
  intro wf _ rest
  rw [bytes_two _ _ _ rfl]
  have w := wf; simp [wellFormed, Guard.ok, predOk, vecOk, scalarOk, spaceOk3] at w
  refine twoWords _ _ _ rest ?_ ?_ rfl wf ?_
  · simp only [RawWord.fits]; omega
  · omega
  · simp [decodeFields, decodeCtl, decodeSync, decodeX, decodeVSpecial, decodeLine, decodeWq, decodeCmd, RawWord.noGuard, RawWord.minor, RawWord.guard, RawWord.offset, RawWord.imm16, RawWord.imm24, RawWord.tyCode, field, ifZero, withCode, mRow, v3Row, viRow]

theorem fcancel (a : Nat) : Statement (.fcancel a) := by
  intro wf _ rest
  rw [bytes_two _ _ _ rfl]
  have w := wf; simp [wellFormed, Guard.ok, predOk, vecOk, scalarOk, spaceOk3] at w
  refine twoWords _ _ _ rest ?_ ?_ rfl wf ?_
  · simp only [RawWord.fits]; omega
  · omega
  · simp [decodeFields, decodeCtl, decodeSync, decodeX, decodeVSpecial, decodeLine, decodeWq, decodeCmd, RawWord.noGuard, RawWord.minor, RawWord.guard, RawWord.offset, RawWord.imm16, RawWord.imm24, RawWord.tyCode, field, ifZero, withCode, mRow, v3Row, viRow]

theorem glaunch (g : Guard) (d a : Nat) : Statement (.glaunch g d a) := by
  intro wf _ rest
  rw [bytes_two _ _ _ rfl]
  have w := wf; simp [wellFormed, Guard.ok, predOk, vecOk, scalarOk, spaceOk3] at w
  have gl := g.negBit_lt
  refine twoWords _ _ _ rest ?_ ?_ rfl wf ?_
  · simp only [RawWord.fits]; omega
  · omega
  · simp [decodeFields, decodeCtl, decodeSync, decodeX, decodeVSpecial, decodeLine, decodeWq, decodeCmd, RawWord.noGuard, RawWord.minor, RawWord.guard, RawWord.offset, RawWord.imm16, RawWord.imm24, RawWord.tyCode, field, ifZero, withCode, mRow, v3Row, viRow]

theorem gcancel (g : Guard) (a : Nat) : Statement (.gcancel g a) := by
  intro wf _ rest
  rw [bytes_two _ _ _ rfl]
  have w := wf; simp [wellFormed, Guard.ok, predOk, vecOk, scalarOk, spaceOk3] at w
  have gl := g.negBit_lt
  refine twoWords _ _ _ rest ?_ ?_ rfl wf ?_
  · simp only [RawWord.fits]; omega
  · omega
  · simp [decodeFields, decodeCtl, decodeSync, decodeX, decodeVSpecial, decodeLine, decodeWq, decodeCmd, RawWord.noGuard, RawWord.minor, RawWord.guard, RawWord.offset, RawWord.imm16, RawWord.imm24, RawWord.tyCode, field, ifZero, withCode, mRow, v3Row, viRow]

theorem gwait (g : Guard) (a : Nat) : Statement (.gwait g a) := by
  intro wf _ rest
  rw [bytes_two _ _ _ rfl]
  have w := wf; simp [wellFormed, Guard.ok, predOk, vecOk, scalarOk, spaceOk3] at w
  have gl := g.negBit_lt
  refine twoWords _ _ _ rest ?_ ?_ rfl wf ?_
  · simp only [RawWord.fits]; omega
  · omega
  · simp [decodeFields, decodeCtl, decodeSync, decodeX, decodeVSpecial, decodeLine, decodeWq, decodeCmd, RawWord.noGuard, RawWord.minor, RawWord.guard, RawWord.offset, RawWord.imm16, RawWord.imm24, RawWord.tyCode, field, ifZero, withCode, mRow, v3Row, viRow]

theorem gwaitAll (g : Guard) : Statement (.gwaitAll g) := by
  intro wf _ rest
  rw [bytes_two _ _ _ rfl]
  have w := wf; simp [wellFormed, Guard.ok, predOk, vecOk, scalarOk, spaceOk3] at w
  have gl := g.negBit_lt
  refine twoWords _ _ _ rest ?_ ?_ rfl wf ?_
  · simp only [RawWord.fits]; omega
  · omega
  · simp [decodeFields, decodeCtl, decodeSync, decodeX, decodeVSpecial, decodeLine, decodeWq, decodeCmd, RawWord.noGuard, RawWord.minor, RawWord.guard, RawWord.offset, RawWord.imm16, RawWord.imm24, RawWord.tyCode, field, ifZero, withCode, mRow, v3Row, viRow]

end Sys2Proof.Laws.RoundTrip

/-- The word alone is a keyword of Mathlib: the name is written in full. -/
theorem Sys2Proof.Laws.RoundTrip.recall (line : Nat) : Sys2Proof.Laws.RoundTrip.Statement (.recall line) :=
  fun _ h => nomatch (show false = true from h)
end

