-- ==== Sys2Proof/Laws/Traps.lean ====
section
/-! SUPPORT. What taking a trap comes to (R424, R426): the three ways it ends, and when it waits. -/

set_option Elab.async false

namespace Sys2Proof.Machine

/-- A holder that is ready for its trap takes it. -/
theorem State.takeTrap_ready {s : State} {g q : Nat} {h : Holder} (r : trapReady s g q h = true) (t : PendTrap) :
    s.takeTrap g q h t = s.raise g q h t := by
  simp [State.takeTrap, r]

/-- One that is not waits for its windows; only a lookahead violation is kept pending (R286). -/
theorem State.takeTrap_waits {s : State} {g q : Nat} {h : Holder} (r : trapReady s g q h = false) (t : PendTrap) :
    s.takeTrap g q h t = if t.cause = 2 then
        (if h.mode then s.raise g q h t
          else (s.putHolder g q { h with pend := h.pend ++ [t], status := .blocked .window }).push [.trapEntry g q])
      else s.block g q h .window := by
  simp [State.takeTrap, r]

/-- A trap without a payload stops no checker's violation. -/
@[simp] theorem State.markStopped_none (s : State) : s.markStopped 0 = s := rfl

/-- A trap that names no member enters the trap sequence, unless the grid is cancelled (R430). -/
theorem State.raise_enters {s : State} {g q : Nat} {h : Holder} {t : PendTrap} (c : s.cancelled h = false) (m : t.member = none) :
    s.raise g q h t = (s.markStopped t.payload).enterTrap g q h t := by
  unfold State.raise
  rw [c, m]
  cases h.kind <;> simp

/-- A precise trap of a holder that is ready and not cancelled. -/
theorem State.trapHere_enters {s : State} {g q : Nat} {h : Holder} (r : trapReady s g q h = true) (c : s.cancelled h = false)
    (cause kind tval : Nat) :
    s.trapHere g q h cause kind tval = s.enterTrap g q h { cause := cause, kind := kind, tval := tval, pc := h.pc, tpc := h.pc } := by
  rw [State.trapHere, State.takeTrap_ready r, State.raise_enters c rfl, State.markStopped_none]

/-- The holder of a handler that has just begun. -/
def Holder.inHandler (h : Holder) (s : State) (g q : Nat) (t : PendTrap) : Holder :=
  { h with
    tcause := causeWord t false
    tval := t.tval % 2 ^ 64
    tpc := t.tpc % 2 ^ 64
    trapFrame := frameWord s g q h t false
    framePC := t.pc
    frameDone := t.done
    trapLane := h.collapse (recT (s.recOf h)) t
    watchdog := if t.cause = 9 then 0 else h.watchdog
    bpSkip := none
    mode := true
    pc := (s.core g).tbase
    status := .ready }

/-- In user mode with a handler: the handler begins, and the frame stands in the core's register. -/
theorem State.enterTrap_handler {s : State} {g q : Nat} {h : Holder} (m : h.mode = false) (b : (s.core g).tbase ≠ 0) (t : PendTrap) :
    s.enterTrap g q h t =
      ((s.updCore g (fun c => { c with trapFrames := AMap.set c.trapFrames q (frameWord s g q h t false) })).unsync g q).putHolder g q
        (h.inHandler s g q t) := by
  simp only [State.enterTrap, m, State.updCore_core_self, Holder.inHandler]
  simp [b]

/-- In user mode without one: the trap is escalated at once. -/
theorem State.enterTrap_noHandler {s : State} {g q : Nat} {h : Holder} (m : h.mode = false) (b : (s.core g).tbase = 0) (t : PendTrap) :
    ∃ h1 : Holder, h1.mode = false ∧ h1.pc = h.pc ∧ h1.grid = h.grid ∧
    s.enterTrap g q h t =
      (s.updCore g (fun c => { c with trapFrames := AMap.set c.trapFrames q (frameWord s g q h t false) })).escalate g q h1
        (frameWord s g q h t false) := by
  simp only [State.enterTrap, m, State.updCore_core_self, b, Bool.false_eq_true, if_false, if_true]
  refine ⟨_, ?_, ?_, ?_, rfl⟩ <;> rfl

/-- In a handler: it is escalated, and its frame kept beside the one being handled. -/
theorem State.enterTrap_inHandler {s : State} {g q : Nat} {h : Holder} (m : h.mode = true) (t : PendTrap) :
    s.enterTrap g q h t = s.escalate g q { h with escFrame := frameWord s g q h t true } (frameWord s g q h t true) := by
  simp [State.enterTrap, m]

/-- The slot's holder after an escalation. -/
@[simp] theorem State.holder?_escalate (s : State) (g q : Nat) (h : Holder) (f : Nat) :
    (s.escalate g q h f).holder? g q = some { h with status := .awaiting } := by
  simp [State.escalate, State.countFault]

@[simp] theorem State.escalate_mem (s : State) (g q : Nat) (h : Holder) (f : Nat) : (s.escalate g q h f).mem = s.mem := by
  simp [State.escalate, State.countFault]

/-- The recovery firmware receives the frame. -/
theorem State.escalate_reports (s : State) (g q : Nat) (h : Holder) (f : Nat) :
    (s.escalate g q h f).ctl.reports = s.ctl.reports ++ [f] := by
  simp [State.escalate, State.countFault]

end Sys2Proof.Machine
end

