-- ==== Sys2Proof/Tests/Slice0.lean ====
section
/-! SUPPORT. Tests: words of every encoding, ill-formed terms, values worked out from the spec, and for every
statement with hypotheses a state that meets them. -/

set_option Elab.async false

namespace Sys2Proof.Tests

open Sys2Proof.Machine Sys2Proof.Claims

/-! ## Words of the spec's encodings

Each word is built from its fields by the tables of R271 to R277; "guarded" adds the guard ?!p9. -/

/-- A word of R271: major, lookahead, D, A, B, C, function. -/
def word (major la d a b c fn : Nat) : Nat :=
  major * 2 ^ 56 + la * 2 ^ 46 + d * 2 ^ 38 + a * 2 ^ 30 + b * 2 ^ 22 + c * 2 ^ 14 + fn
/-- The guard ?!p9 in bits 55:50. -/
def guarded (w : Nat) : Nat := w + 2 ^ 55 + 9 * 2 ^ 50
/-- S: minor in 13:9, type in 8:4, flags in 3:0. -/
def sWord (major minor ty d a b c fl : Nat) : Nat := word major 0 d a b c (minor * 2 ^ 9 + ty * 2 ^ 4 + fl)
/-- SI: the immediate in word bits 29:6, minor in 5:0. -/
def siWord (major minor d a imm : Nat) : Nat := word major 0 d a 0 0 (imm * 2 ^ 6 + minor)
/-- BR: the offset in word bits 37:14, minor in 13:8, Arg in 7:0. -/
def brWord (minor d off arg : Nat) : Nat := word 0x20 0 d 0 0 0 (off * 2 ^ 14 + minor * 2 ^ 8 + arg)
/-- V3, guarded: minor in 13:9, type in 8:4, kinds and mode in 3:0. -/
def v3Word (major minor ty d a b c fl : Nat) : Nat := guarded (word major 0 d a b c (minor * 2 ^ 9 + ty * 2 ^ 4 + fl))
/-- VI: imm16 in bits 29:14. -/
def viWord0 (major minor ty d a imm fl : Nat) : Nat :=
  word major 0 d a 0 0 (imm * 2 ^ 14 + minor * 2 ^ 9 + ty * 2 ^ 4 + fl)
/-- VI, guarded. -/
def viWord (major minor ty d a imm fl : Nat) : Nat := guarded (viWord0 major minor ty d a imm fl)
/-- M: element in 13:10, space in 9:7, scope in 6:4, order in 3:2, offset kind in 1:0. -/
def mWord (major la d a b c el sp sc od k : Nat) : Nat :=
  word major la d a b c (el * 2 ^ 10 + sp * 2 ^ 7 + sc * 2 ^ 4 + od * 2 ^ 2 + k)
/-- X: minor 0 in 13:8, flags in 7:0. -/
def xWord (major la d a b c fl : Nat) : Nat := word major la d a b c fl

/-- Each head word, with its tail word, decodes to the instruction beside it. -/
def decodesTo (l : List (Nat × Nat × Instr)) : Bool :=
  l.all fun x => match decode x.1 x.2.1 with
    | .ok i => decide (i = x.2.2)
    | .error _ => false

/-- Words of the scalar instructions (R288, R304). -/
theorem test_decode_scalar : decodesTo [
    (sWord 0x02 0 1 5 6 7 0 0, 0, .sadd ⟨.i32, 5, 6, 7, 0⟩),
    (sWord 0x02 1 1 5 6 7 0 0, 0, .ssub ⟨.i32, 5, 6, 7, 0⟩),
    (sWord 0x02 2 1 5 6 7 0 0, 0, .smul ⟨.i32, 5, 6, 7, 0⟩),
    (sWord 0x02 3 6 6 8 10 0 0, 0, .smulh ⟨.n64, 6, 8, 10, 0⟩),
    (sWord 0x02 4 6 6 8 10 0 0, 0, .smin ⟨.n64, 6, 8, 10, 0⟩),
    (sWord 0x02 5 6 6 8 10 0 0, 0, .smax ⟨.n64, 6, 8, 10, 0⟩),
    (sWord 0x03 0 2 5 6 7 0 0, 0, .sdiv ⟨.n32, 5, 6, 7, 0⟩),
    (sWord 0x03 1 2 5 6 7 0 0, 0, .srem ⟨.n32, 5, 6, 7, 0⟩),
    (sWord 0x04 0 4 6 8 10 0 0, 0, .sand ⟨.b64, 6, 8, 10, 0⟩),
    (sWord 0x04 1 4 6 8 10 0 0, 0, .sor ⟨.b64, 6, 8, 10, 0⟩),
    (sWord 0x04 2 4 6 8 10 0 0, 0, .sxor ⟨.b64, 6, 8, 10, 0⟩),
    (sWord 0x05 0 0 5 6 7 0 0, 0, .sshl ⟨.b32, 5, 6, 7, 0⟩),
    (sWord 0x05 1 0 5 6 7 0 0, 0, .sshr ⟨.b32, 5, 6, 7, 0⟩),
    (sWord 0x05 2 0 5 6 7 0 0, 0, .ssar ⟨.b32, 5, 6, 7, 0⟩),
    (sWord 0x05 3 0 5 6 7 0 0, 0, .srot ⟨.b32, 5, 6, 7, 0⟩),
    (sWord 0x06 0 0 5 6 0 0 0, 0, .sclz ⟨.b32, 5, 6, 0, 0⟩),
    (sWord 0x06 1 0 5 6 0 0 0, 0, .spop ⟨.b32, 5, 6, 0, 0⟩),
    (sWord 0x06 2 0 5 6 0 0 0, 0, .sbrev ⟨.b32, 5, 6, 0, 0⟩),
    (sWord 0x06 3 2 5 6 7 0 0, 0, .sbfx ⟨.n32, 5, 6, 7, 0⟩),
    (sWord 0x06 4 0 5 6 7 63 0, 0, .sbfi ⟨.b32, 5, 6, 7, 63⟩),
    (sWord 0x07 0 4 6 8 0 0 0, 0, .smov ⟨.b64, 6, 8, 0, 0⟩),
    (sWord 0x07 1 0 5 6 7 9 0, 0, .ssel ⟨.b32, 5, 6, 7, 9⟩),
    (sWord 0x07 2 2 5 6 7 0 5, 0, .scmp .ge ⟨.n32, 5, 6, 7, 0⟩)] = true := by
  decide

/-- Words of the scalar immediate instructions (R288, R308). -/
theorem test_decode_scalar_imm : decodesTo [
    (siWord 0x10 0 5 0 0xABCDEF, 0, .sli ⟨5, 0, 0xABCDEF⟩),
    (siWord 0x10 1 5 0 0xABCDEF, 0, .slhi ⟨5, 0, 0xABCDEF⟩),
    (siWord 0x11 0 5 6 0xABCDEF, 0, .saddImm ⟨5, 6, 0xABCDEF⟩),
    (siWord 0x11 1 5 6 0xABCDEF, 0, .smulImm ⟨5, 6, 0xABCDEF⟩),
    (siWord 0x11 2 5 6 0xABCDEF, 0, .sminI32Imm ⟨5, 6, 0xABCDEF⟩),
    (siWord 0x11 3 5 6 0xABCDEF, 0, .smaxI32Imm ⟨5, 6, 0xABCDEF⟩),
    (siWord 0x11 4 5 6 0xABCDEF, 0, .sminN32Imm ⟨5, 6, 0xABCDEF⟩),
    (siWord 0x11 5 5 6 0xABCDEF, 0, .smaxN32Imm ⟨5, 6, 0xABCDEF⟩),
    (siWord 0x12 0 5 6 0xABCDEF, 0, .sandImm ⟨5, 6, 0xABCDEF⟩),
    (siWord 0x12 1 5 6 0xABCDEF, 0, .sorImm ⟨5, 6, 0xABCDEF⟩),
    (siWord 0x12 2 5 6 0xABCDEF, 0, .sxorImm ⟨5, 6, 0xABCDEF⟩),
    (siWord 0x13 0 5 6 0x1F, 0, .sshlImm ⟨5, 6, 0x1F⟩),
    (siWord 0x13 1 5 6 0x1F, 0, .sshrImm ⟨5, 6, 0x1F⟩),
    (siWord 0x13 2 5 6 0x1F, 0, .ssarImm ⟨5, 6, 0x1F⟩),
    (siWord 0x13 3 5 6 0x1F, 0, .srotImm ⟨5, 6, 0x1F⟩),
    (siWord 0x14 4 5 6 0xABCDEF, 0, .scmpImm .gt false ⟨5, 6, 0xABCDEF⟩),
    (siWord 0x14 20 5 6 0xABCDEF, 0, .scmpImm .gt true ⟨5, 6, 0xABCDEF⟩)] = true := by
  decide

/-- Words of the control instructions (R288, R309-R320). -/
theorem test_decode_control : decodesTo [
    (word 0x01 0 0 0 0 0 0, 0, .nop),
    (brWord 0 0 0x800001 0, 0, .bra 0x800001),
    (brWord 1 6 0x123456 0, 0, .bz 6 0x123456),
    (brWord 2 7 0x5 0, 0, .bnz 7 5),
    (brWord 3 0 0x9 32, 0, .call 9 32),
    (brWord 4 133 0x9 0, 0, .vbr true 5 9),
    (sWord 0x21 0 0 0 8 0 0 0, 0, .brx 8),
    (sWord 0x21 1 0 0 8 3 0 0, 0, .callx 8 3),
    (sWord 0x21 2 0 0 0 0 0 0, 0, .ret),
    (sWord 0x22 0 0 0 0 0 0 0, 0, .vjoin),
    (sWord 0x22 1 0 0 0 0 0 0, 0, .exit),
    (sWord 0x22 2 0 0 0 0 0 0, 0, .yield),
    (sWord 0x22 3 0 4 0 0 0 0, 0, .dwait 4)] = true := by
  decide

/-- Words of the range instructions (R288, R292, R321-R325). -/
theorem test_decode_range : decodesTo [
    (sWord 0x24 0 0 0 0 0 0 0, 0, .unfold),
    (sWord 0x24 1 0 6 0 0 0 0, 0, .rinfo 6),
    (0x240000C000000402, 0, .part 3 2),
    (guarded (viWord0 0x25 0 0 5 8 2 0), 0, .spawn ⟨true, 9⟩ 5 8 2),
    (viWord0 0x26 0 0 4 2 256 8, 0b1010, .fold 4 2 256 0b1010)] = true := by
  decide

/-- Words of the vector integer instructions (R289). -/
theorem test_decode_vector_int : decodesTo [
    (v3Word 0x40 0 11 5 6 7 0 0, 0, .vadd ⟨⟨true, 9⟩, 5, 6, 7, 0, .i8x4, false, false, .rn⟩),
    (v3Word 0x40 1 10 5 6 7 0 8, 0, .vsub ⟨⟨true, 9⟩, 5, 6, 7, 0, .i16x2, true, false, .rn⟩),
    (v3Word 0x40 2 2 5 6 7 0 0, 0, .vsadd ⟨⟨true, 9⟩, 5, 6, 7, 0, .n32, false, false, .rn⟩),
    (v3Word 0x40 3 1 5 6 7 0 8, 0, .vssub ⟨⟨true, 9⟩, 5, 6, 7, 0, .i32, true, false, .rn⟩),
    (v3Word 0x40 4 1 5 6 7 0 0, 0, .vabsd ⟨⟨true, 9⟩, 5, 6, 7, 0, .i32, false, false, .rn⟩),
    (v3Word 0x40 5 6 5 6 7 0 8, 0, .vmin ⟨⟨true, 9⟩, 5, 6, 7, 0, .n64, true, false, .rn⟩),
    (v3Word 0x40 6 5 5 6 7 0 0, 0, .vmax ⟨⟨true, 9⟩, 5, 6, 7, 0, .i64, false, false, .rn⟩),
    (v3Word 0x40 7 1 5 6 0 0 0, 0, .vabs ⟨⟨true, 9⟩, 5, 6, 0, 0, .i32, false, false, .rn⟩),
    (v3Word 0x40 8 11 5 6 0 0 0, 0, .vneg ⟨⟨true, 9⟩, 5, 6, 0, 0, .i8x4, false, false, .rn⟩),
    (v3Word 0x41 0 11 5 6 7 0 0, 0, .vmul ⟨⟨true, 9⟩, 5, 6, 7, 0, .i8x4, false, false, .rn⟩),
    (v3Word 0x41 1 2 5 6 7 0 0, 0, .vmulh ⟨⟨true, 9⟩, 5, 6, 7, 0, .n32, false, false, .rn⟩),
    (v3Word 0x41 2 1 5 6 7 8 4, 0, .vmad ⟨⟨true, 9⟩, 5, 6, 7, 8, .i32, false, true, .rn⟩),
    (v3Word 0x42 0 0 5 6 7 0 0, 0, .vand ⟨⟨true, 9⟩, 5, 6, 7, 0, .b32, false, false, .rn⟩),
    (v3Word 0x42 1 0 5 6 7 0 0, 0, .vor ⟨⟨true, 9⟩, 5, 6, 7, 0, .b32, false, false, .rn⟩),
    (v3Word 0x42 2 0 5 6 7 0 0, 0, .vxor ⟨⟨true, 9⟩, 5, 6, 7, 0, .b32, false, false, .rn⟩),
    (v3Word 0x42 3 0 5 6 7 0 0, 0, .vandn ⟨⟨true, 9⟩, 5, 6, 7, 0, .b32, false, false, .rn⟩),
    (v3Word 0x42 4 0 5 6 7 8 0, 0, .vlop3 ⟨⟨true, 9⟩, 5, 6, 7, 8, .b32, false, false, .rn⟩),
    (v3Word 0x43 0 4 5 6 8 0 0, 0, .vshl ⟨⟨true, 9⟩, 5, 6, 8, 0, .b64, false, false, .rn⟩),
    (v3Word 0x43 1 4 5 6 8 0 0, 0, .vshr ⟨⟨true, 9⟩, 5, 6, 8, 0, .b64, false, false, .rn⟩),
    (v3Word 0x43 2 4 5 6 8 0 0, 0, .vsar ⟨⟨true, 9⟩, 5, 6, 8, 0, .b64, false, false, .rn⟩),
    (v3Word 0x43 3 4 5 6 8 0 0, 0, .vrot ⟨⟨true, 9⟩, 5, 6, 8, 0, .b64, false, false, .rn⟩),
    (v3Word 0x44 0 0 5 6 0 0 0, 0, .vclz ⟨⟨true, 9⟩, 5, 6, 0, 0, .b32, false, false, .rn⟩),
    (v3Word 0x44 1 0 5 6 0 0 0, 0, .vctz ⟨⟨true, 9⟩, 5, 6, 0, 0, .b32, false, false, .rn⟩),
    (v3Word 0x44 2 0 5 6 0 0 0, 0, .vpop ⟨⟨true, 9⟩, 5, 6, 0, 0, .b32, false, false, .rn⟩),
    (v3Word 0x44 3 0 5 6 0 0 0, 0, .vbrev ⟨⟨true, 9⟩, 5, 6, 0, 0, .b32, false, false, .rn⟩),
    (v3Word 0x44 4 2 5 6 7 0 0, 0, .vbfx ⟨⟨true, 9⟩, 5, 6, 7, 0, .n32, false, false, .rn⟩),
    (v3Word 0x44 5 0 5 6 7 8 0, 0, .vbfi ⟨⟨true, 9⟩, 5, 6, 7, 8, .b32, false, false, .rn⟩),
    (v3Word 0x45 0 0 5 6 7 0 0, 0, .vpdep ⟨⟨true, 9⟩, 5, 6, 7, 0, .b32, false, false, .rn⟩),
    (v3Word 0x45 1 0 5 6 7 0 0, 0, .vpext ⟨⟨true, 9⟩, 5, 6, 7, 0, .b32, false, false, .rn⟩),
    (v3Word 0x45 2 4 5 6 8 0 0, 0, .vbperm ⟨⟨true, 9⟩, 5, 6, 8, 0, .b64, false, false, .rn⟩),
    (v3Word 0x45 3 4 5 6 8 0 0, 0, .vgfmat ⟨⟨true, 9⟩, 5, 6, 8, 0, .b64, false, false, .rn⟩)] = true := by
  decide

/-- Words of the vector immediate instructions (R278, R289). -/
theorem test_decode_vector_imm : decodesTo [
    (viWord 0x60 0 1 5 6 0x12 0, 0, .vaddImm ⟨⟨true, 9⟩, 5, 6, .short 0x12, .i32, .rn⟩),
    (viWord 0x60 1 1 5 6 0x12 0, 0, .vsubImm ⟨⟨true, 9⟩, 5, 6, .short 0x12, .i32, .rn⟩),
    (viWord 0x60 2 1 5 6 0x12 0, 0, .vsaddImm ⟨⟨true, 9⟩, 5, 6, .short 0x12, .i32, .rn⟩),
    (viWord 0x60 3 2 5 6 0x12 0, 0, .vssubImm ⟨⟨true, 9⟩, 5, 6, .short 0x12, .n32, .rn⟩),
    (viWord 0x60 4 2 5 6 0x12 0, 0, .vabsdImm ⟨⟨true, 9⟩, 5, 6, .short 0x12, .n32, .rn⟩),
    (viWord 0x60 5 1 5 6 0x12 0, 0, .vminImm ⟨⟨true, 9⟩, 5, 6, .short 0x12, .i32, .rn⟩),
    (viWord 0x60 6 1 5 6 0x12 0, 0, .vmaxImm ⟨⟨true, 9⟩, 5, 6, .short 0x12, .i32, .rn⟩),
    (viWord 0x61 0 11 5 6 0 8, 0x1020304, .vmulImm ⟨⟨true, 9⟩, 5, 6, .tail 0x1020304, .i8x4, .rn⟩),
    (viWord 0x62 0 0 5 6 0xFFFF 0, 0, .vandImm ⟨⟨true, 9⟩, 5, 6, .short 0xFFFF, .b32, .rn⟩),
    (viWord 0x62 1 0 5 6 0xFFFF 0, 0, .vorImm ⟨⟨true, 9⟩, 5, 6, .short 0xFFFF, .b32, .rn⟩),
    (viWord 0x62 2 0 5 6 0xFFFF 0, 0, .vxorImm ⟨⟨true, 9⟩, 5, 6, .short 0xFFFF, .b32, .rn⟩),
    (viWord 0x62 3 0 5 6 0xFFFF 0, 0, .vandnImm ⟨⟨true, 9⟩, 5, 6, .short 0xFFFF, .b32, .rn⟩),
    (viWord 0x63 0 0 5 6 0x12 0, 0, .vshlImm ⟨⟨true, 9⟩, 5, 6, .short 0x12, .b32, .rn⟩),
    (viWord 0x63 1 0 5 6 0x12 0, 0, .vshrImm ⟨⟨true, 9⟩, 5, 6, .short 0x12, .b32, .rn⟩),
    (viWord 0x63 2 0 5 6 0x12 0, 0, .vsarImm ⟨⟨true, 9⟩, 5, 6, .short 0x12, .b32, .rn⟩),
    (viWord 0x63 3 0 5 6 0x12 0, 0, .vrotImm ⟨⟨true, 9⟩, 5, 6, .short 0x12, .b32, .rn⟩),
    (viWord 0x68 0 3 5 6 0x3F80 1, 0, .vfaddImm ⟨⟨true, 9⟩, 5, 6, .short 0x3F80, .f32, .rz⟩),
    (viWord 0x68 1 3 5 6 0x3F80 2, 0, .vfmulImm ⟨⟨true, 9⟩, 5, 6, .short 0x3F80, .f32, .ru⟩),
    (viWord 0x68 3 3 5 6 0x12 0, 0, .vfminImm ⟨⟨true, 9⟩, 5, 6, .short 0x12, .f32, .rn⟩),
    (viWord 0x68 4 3 5 6 0x12 0, 0, .vfmaxImm ⟨⟨true, 9⟩, 5, 6, .short 0x12, .f32, .rn⟩),
    (viWord 0x74 0 0 5 0 0 8, 0xFFFFFFFF, .vmovImm ⟨⟨true, 9⟩, 5, 0, .tail 0xFFFFFFFF, .b32, .rn⟩)] = true := by
  decide

/-- Words of the floating-point instructions (R289). -/
theorem test_decode_float : decodesTo [
    (v3Word 0x48 0 3 5 6 7 0 1, 0, .vfadd ⟨⟨true, 9⟩, 5, 6, 7, 0, .f32, false, false, .rz⟩),
    (v3Word 0x48 1 7 5 6 8 0 2, 0, .vfmul ⟨⟨true, 9⟩, 5, 6, 8, 0, .f64, false, false, .ru⟩),
    (v3Word 0x48 2 9 5 6 7 8 3, 0, .vfma ⟨⟨true, 9⟩, 5, 6, 7, 8, .bf16x2, false, false, .rd⟩),
    (v3Word 0x48 3 8 5 6 7 0 0, 0, .vfmin ⟨⟨true, 9⟩, 5, 6, 7, 0, .f16x2, false, false, .rn⟩),
    (v3Word 0x48 4 3 5 6 7 0 0, 0, .vfmax ⟨⟨true, 9⟩, 5, 6, 7, 0, .f32, false, false, .rn⟩),
    (v3Word 0x48 5 3 5 6 0 0 0, 0, .vfclass ⟨⟨true, 9⟩, 5, 6, 0, 0, .f32, false, false, .rn⟩),
    (v3Word 0x48 6 3 5 6 0 0 1, 0, .vfrnd ⟨⟨true, 9⟩, 5, 6, 0, 0, .f32, false, false, .rz⟩),
    (v3Word 0x48 7 3 5 6 7 0 3, 0, .vfscale ⟨⟨true, 9⟩, 5, 6, 7, 0, .f32, false, false, .rd⟩),
    (v3Word 0x49 0 3 5 6 0 0 0, 0, .vfrcp ⟨⟨true, 9⟩, 5, 6, 0, 0, .f32, false, false, .rn⟩),
    (v3Word 0x49 1 3 5 6 0 0 1, 0, .vfrsq ⟨⟨true, 9⟩, 5, 6, 0, 0, .f32, false, false, .rz⟩),
    (v3Word 0x49 2 3 5 6 0 0 2, 0, .vfsqrt ⟨⟨true, 9⟩, 5, 6, 0, 0, .f32, false, false, .ru⟩),
    (v3Word 0x49 4 3 5 6 0 0 0, 0, .vfexp2 ⟨⟨true, 9⟩, 5, 6, 0, 0, .f32, false, false, .rn⟩),
    (v3Word 0x49 5 3 5 6 0 0 1, 0, .vflog2 ⟨⟨true, 9⟩, 5, 6, 0, 0, .f32, false, false, .rz⟩),
    (v3Word 0x49 6 3 5 6 0 0 2, 0, .vfsinp ⟨⟨true, 9⟩, 5, 6, 0, 0, .f32, false, false, .ru⟩),
    (v3Word 0x49 7 3 5 6 0 0 3, 0, .vfcosp ⟨⟨true, 9⟩, 5, 6, 0, 0, .f32, false, false, .rd⟩),
    (v3Word 0x49 3 7 5 6 8 0 0, 0, .vfdiv ⟨⟨true, 9⟩, 5, 6, 8, 0, .f64, false, false, .rn⟩)] = true := by
  decide

/-- Words of the compare and predicate instructions (R289, R292). -/
theorem test_decode_predicates : decodesTo [
    (v3Word 0x4C 0 2 5 6 7 8 3, 0, .vicmp ⟨⟨true, 9⟩, .le, .n32, 5, 8, 6, 7⟩),
    (v3Word 0x4C 1 19 5 6 7 8 7, 0, .vfcmp ⟨⟨true, 9⟩, .un, .f16, 5, 8, 6, 7⟩),
    (v3Word 0x4D 0 0 5 6 7 0 0, 0, .vpand ⟨⟨true, 9⟩, 5, 6, 7⟩),
    (v3Word 0x4D 1 0 5 6 7 0 0, 0, .vpor ⟨⟨true, 9⟩, 5, 6, 7⟩),
    (v3Word 0x4D 2 0 5 6 7 0 0, 0, .vpxor ⟨⟨true, 9⟩, 5, 6, 7⟩),
    (v3Word 0x4D 3 0 5 6 0 0 0, 0, .vpnot ⟨⟨true, 9⟩, 5, 6, 0⟩),
    (v3Word 0x4D 4 0 5 6 0 0 0, 0, .vpmov ⟨⟨true, 9⟩, 5, 6, 0⟩),
    (v3Word 0x4D 5 0 5 6 0 0 0, 0, .vsetp ⟨⟨true, 9⟩, 5, 6, 0⟩)] = true := by
  decide

/-- Words of the conversion and move instructions (R289, R292). -/
theorem test_decode_moves : decodesTo [
    (v3Word 0x50 0 15 5 6 0 3 5, 0, .vcvt ⟨⟨true, 9⟩, 5, 6, 0, .e4m3, .f32, false, true, .rz⟩),
    (v3Word 0x50 1 8 5 6 7 3 8, 0, .vpack ⟨⟨true, 9⟩, 5, 6, 7, .f16x2, .f32, true, false, .rn⟩),
    (v3Word 0x50 2 3 5 6 7 9 0, 0, .vunpack ⟨⟨true, 9⟩, 5, 6, 7, .f32, .bf16x2, false, false, .rn⟩),
    (v3Word 0x54 0 0 5 6 0 0 0, 0, .vmov ⟨⟨true, 9⟩, 5, 6, 0, 0, .b32, false, false, .rn⟩),
    (v3Word 0x54 1 0 5 6 7 23 8, 0, .vsel ⟨⟨true, 9⟩, 5, 6, 7, 23, .b32, true, false, .rn⟩),
    (v3Word 0x54 2 0 5 63 0 0 0, 0, .vbcast ⟨⟨true, 9⟩, 5, 63, 0, 0, .b32, false, false, .rn⟩),
    (v3Word 0x54 3 0 5 2 0 0 0, 0, .vidx ⟨⟨true, 9⟩, 5, 2, 0, 0, .b32, false, false, .rn⟩)] = true := by
  decide

/-- Words of the cross-lane instructions (R289, R292). -/
theorem test_decode_cross_lane : decodesTo [
    (v3Word 0x58 0 0 5 6 7 3 8, 0, .vshfl ⟨⟨true, 9⟩, 5, 6, 7, .b32, true, 3⟩),
    (v3Word 0x58 1 0 5 6 0 0 0, 0, .vbal ⟨⟨true, 9⟩, 5, 6, 0, .b32, false, 0⟩),
    (v3Word 0x58 2 0 5 6 0 3 0, 0, .vany ⟨⟨true, 9⟩, 5, 6, 0, .b32, false, 3⟩),
    (v3Word 0x58 3 0 5 6 0 3 0, 0, .vall ⟨⟨true, 9⟩, 5, 6, 0, .b32, false, 3⟩),
    (v3Word 0x58 4 0 5 6 0 0 0, 0, .vcnt ⟨⟨true, 9⟩, 5, 6, 0, .b32, false, 0⟩),
    (v3Word 0x58 5 4 6 8 0 3 0, 0, .vmatch ⟨⟨true, 9⟩, 6, 8, 0, .b64, false, 3⟩),
    (v3Word 0x58 6 3 5 6 0 3 2, 0, .vred ⟨⟨true, 9⟩, .add, 5, 6, .f32, 3, .ru⟩),
    (v3Word 0x58 6 0 5 6 5 3 0, 0, .vred ⟨⟨true, 9⟩, .xor, 5, 6, .b32, 3, .rn⟩)] = true := by
  decide

/-- Words of the load and store instructions (R290, R360). -/
theorem test_decode_loads_stores : decodesTo [
    (guarded (mWord 0xA0 15 5 6 7 160 0 0 6 1 0), 0, .vld ⟨⟨true, 9⟩, 15, 5, 0, 5, 6, 7, .n8, .glob, .pod, .acq, .vec⟩),
    (guarded (mWord 0xA1 14 5 6 128 0 5 1 1 0 2), 0, .vldu ⟨⟨true, 9⟩, 14, 0, 0, 5, 6, 128, .b64, .team, .team, .rlx, .disp⟩),
    (guarded (mWord 0xA2 1 5 6 8 0 4 2 2 0 0), 0, .vgath ⟨⟨true, 9⟩, 1, 0, 0, 5, 6, 8, .b32, .clu, .clu, .rlx, .vec⟩),
    (guarded (mWord 0xA3 0 5 6 8 7 3 0 4 0 0), 0, .vgathMt ⟨⟨true, 9⟩, 0, 0, 7, 5, 6, 8, .i16, .glob, .dev, .rlx, .vec⟩),
    (guarded (mWord 0xA4 0 5 6 7 0 2 3 0 2 0), 0, .vst ⟨⟨true, 9⟩, 0, 0, 0, 5, 6, 7, .n16, .reg, .grp, .rel, .vec⟩),
    (guarded (mWord 0xA5 0 5 6 8 0 6 0 5 0 0), 0, .vscat ⟨⟨true, 9⟩, 0, 0, 0, 5, 6, 8, .b128, .glob, .sys, .rlx, .vec⟩),
    (mWord 0xA6 2 5 6 9 0 1 0 0 1 1, 0, .sld ⟨⟨false, 0⟩, 2, 0, 0, 5, 6, 9, .i8, .glob, .grp, .acq, .sca⟩),
    (mWord 0xA7 0 5 6 0 0 4 0 3 2 3, 0, .sst ⟨⟨false, 0⟩, 0, 0, 0, 5, 6, 0, .b32, .glob, .die, .rel, .non⟩)] = true := by
  decide

/-- Words of the atomic instructions (R290, R360, R374). -/
theorem test_decode_atomics : decodesTo [
    (guarded (mWord 0xA9 0 5 6 7 0 7 0 4 0 0), 0, .vatomAdd ⟨⟨true, 9⟩, 0, 0, 0, 5, 6, 7, .i32, .glob, .dev, .rlx, .vec⟩),
    (mWord 0xB1 3 5 6 8 0 7 1 5 0 1, 0, .satomAdd ⟨⟨false, 0⟩, 3, 0, 0, 5, 6, 8, .i32, .team, .sys, .rlx, .sca⟩),
    (guarded (mWord 0xAA 0 5 6 7 1 9 0 4 1 1), 0, .vatomMin ⟨⟨true, 9⟩, 0, 0, 1, 5, 6, 7, .f32, .glob, .dev, .acq, .sca⟩),
    (mWord 0xB2 0 5 6 8 1 9 1 5 1 1, 0, .satomMin ⟨⟨false, 0⟩, 0, 0, 1, 5, 6, 8, .f32, .team, .sys, .acq, .sca⟩),
    (guarded (mWord 0xAB 0 5 6 7 0 13 0 4 2 2), 0, .vatomMax ⟨⟨true, 9⟩, 0, 0, 0, 5, 6, 7, .f16x2, .glob, .dev, .rel, .disp⟩),
    (mWord 0xB3 3 5 6 8 0 13 1 5 2 1, 0, .satomMax ⟨⟨false, 0⟩, 3, 0, 0, 5, 6, 8, .f16x2, .team, .sys, .rel, .sca⟩),
    (guarded (mWord 0xAC 0 5 6 0 1 4 0 4 3 3), 0, .vatomAnd ⟨⟨true, 9⟩, 0, 0, 1, 5, 6, 0, .b32, .glob, .dev, .ar, .non⟩),
    (mWord 0xB4 0 5 6 8 1 4 1 5 3 1, 0, .satomAnd ⟨⟨false, 0⟩, 0, 0, 1, 5, 6, 8, .b32, .team, .sys, .ar, .sca⟩),
    (guarded (mWord 0xAD 0 5 6 7 0 5 0 4 0 0), 0, .vatomOr ⟨⟨true, 9⟩, 0, 0, 0, 5, 6, 7, .b64, .glob, .dev, .rlx, .vec⟩),
    (mWord 0xB5 3 5 6 8 0 5 1 5 0 1, 0, .satomOr ⟨⟨false, 0⟩, 3, 0, 0, 5, 6, 8, .b64, .team, .sys, .rlx, .sca⟩),
    (guarded (mWord 0xAE 0 5 6 7 1 4 0 4 1 1), 0, .vatomXor ⟨⟨true, 9⟩, 0, 0, 1, 5, 6, 7, .b32, .glob, .dev, .acq, .sca⟩),
    (mWord 0xB6 0 5 6 8 1 4 1 5 1 1, 0, .satomXor ⟨⟨false, 0⟩, 0, 0, 1, 5, 6, 8, .b32, .team, .sys, .acq, .sca⟩),
    (guarded (mWord 0xAF 0 5 6 7 0 5 0 4 2 2), 0, .vatomExch ⟨⟨true, 9⟩, 0, 0, 0, 5, 6, 7, .b64, .glob, .dev, .rel, .disp⟩),
    (mWord 0xB7 3 5 6 8 0 5 1 5 2 1, 0, .satomExch ⟨⟨false, 0⟩, 3, 0, 0, 5, 6, 8, .b64, .team, .sys, .rel, .sca⟩),
    (guarded (mWord 0xB0 0 5 6 0 1 4 0 4 3 3), 0, .vatomCas ⟨⟨true, 9⟩, 0, 0, 1, 5, 6, 0, .b32, .glob, .dev, .ar, .non⟩),
    (mWord 0xB8 0 5 6 8 1 4 1 5 3 1, 0, .satomCas ⟨⟨false, 0⟩, 0, 0, 1, 5, 6, 8, .b32, .team, .sys, .ar, .sca⟩)] = true := by
  decide

/-- Words of the synchronisation instructions (R290, R360, R387). -/
theorem test_decode_sync : decodesTo [
    (guarded (mWord 0xA8 0 1 6 252 0 0 0 0 0 2), 0, .pref ⟨⟨true, 9⟩, 1, 6, 0xFC, .disp⟩),
    (mWord 0xB9 0 0 0 0 0 0 0 6 3 0, 0, .fence .ar .pod),
    (mWord 0xBA 0 0 0 0 0 0 0 0 0 0, 0, .fencex),
    (mWord 0xBB 0 0 6 15 0 0 0 0 0 0, 0, .bari 6 15),
    (mWord 0xBC 0 5 0 15 0 0 0 0 0 0, 0, .bara 5 15),
    (mWord 0xBD 0 0 6 3 0 0 0 0 0 0, 0, .barw 6 3),
    (mWord 0xBE 0 5 0 3 0 0 0 0 0 0, 0, .barx 5 3),
    (mWord 0xBF 0 5 0 0 0 0 0 0 0 0, 0, .bclose 5),
    (mWord 0xC0 0 0 6 0 0 0 0 0 0 0, 0, .bwait 6),
    (guarded (mWord 0xC1 0 0 6 7 0 0 0 0 0 0), 0, .cflush ⟨⟨true, 9⟩, 0, 6, 7, .vec⟩),
    (guarded (mWord 0xC2 0 0 6 7 0 0 0 0 0 1), 0, .cinv ⟨⟨true, 9⟩, 0, 6, 7, .sca⟩),
    (guarded (mWord 0xC3 0 0 6 7 0 0 0 0 0 2), 0, .cclean ⟨⟨true, 9⟩, 0, 6, 7, .disp⟩),
    (mWord 0xC4 0 5 6 7 62 0 0 0 0 1, 0, .wqpop ⟨5, 6, 7, 62, .glob, .sca⟩),
    (mWord 0xC5 0 5 6 0 62 0 1 0 0 3, 0, .wqpush ⟨5, 6, 0, 62, .team, .non⟩),
    (mWord 0xC6 0 6 8 7 62 5 2 3 1 1, 0, .evwait ⟨6, 8, 7, 62, .b64, .clu, .die, .acq, .sca⟩)] = true := by
  decide

/-- Words of the matrix instructions (R290, R392). -/
theorem test_decode_matrix : decodesTo [
    (guarded (xWord 0xD0 0 3 0 0 0 7), 0, .macq ⟨true, 9⟩ 3 7),
    (guarded (xWord 0xD1 0 3 0 0 0 0), 0, .mrel ⟨true, 9⟩ 3),
    (guarded (xWord 0xD1 0 3 0 0 0 1), 0, .mrelF ⟨true, 9⟩ 3),
    (guarded (xWord 0xD2 0 3 0 0 0 0), 0, .mzero ⟨true, 9⟩ 3),
    (guarded (xWord 0xD3 0 3 6 7 8 1), 14 * 2 ^ 16 + 9 * 2 ^ 8, .mmul ⟨true, 9⟩ 3 6 7 8 9 14 true),
    (guarded (xWord 0xD4 15 5 3 7 0 2), 5, .mrd ⟨true, 9⟩ 15 5 5 3 7 2),
    (guarded (xWord 0xD5 0 3 5 7 0 3), 0, .mwr ⟨true, 9⟩ 3 5 7 3),
    (guarded (xWord 0xD6 3 3 6 7 0 0), 4 * 2 ^ 10 + 2 * 2 ^ 8, .mld ⟨true, 9⟩ 3 0 3 6 7 .clu .dev),
    (guarded (xWord 0xD7 0 3 6 7 0 0), 5 * 2 ^ 10 + 1 * 2 ^ 8, .mst ⟨true, 9⟩ 3 6 7 .team .sys),
    (xWord 0xD8 4 15 6 0 0 0, 1 * 2 ^ 8, .hld 4 0 15 6 .team),
    (xWord 0xD9 0 15 6 0 0 0, 0, .hst 15 6 .glob),
    (xWord 0xDA 0 15 6 0 0 7, 0, .hset 15 6 7),
    (xWord 0xDB 0 6 15 0 0 4, 0, .hget 6 15 4)] = true := by
  decide

/-- Words of the engine and future instructions (R290, R392). -/
theorem test_decode_engine : decodesTo [
    (guarded (xWord 0xDC 0 5 14 13 7 0), 3 * 2 ^ 4 + 2 ^ 8 + 14 * 2 ^ 9, .cpyt ⟨⟨true, 9⟩, 5, 14, 13, 7, 3, some 14⟩),
    (guarded (xWord 0xDD 0 5 6 8 10 (2 * 2 ^ 2 + 1)), 15 * 2 ^ 4, .cpyl ⟨⟨true, 9⟩, 5, 6, 8, 10, 15, none⟩ .team .clu),
    (guarded (xWord 0xDE 0 5 14 13 8 0), 3 * 2 ^ 4, .gath ⟨⟨true, 9⟩, 5, 14, 13, 8, 3, none⟩),
    (guarded (xWord 0xDF 0 5 14 7 8 0), 0, .coll ⟨⟨true, 9⟩, 5, 14, 7, 8, 0, none⟩),
    (xWord 0xE0 0 0 0 0 0 0, 9 * 2 ^ 4 + 0x8001 * 2 ^ 8, .qfence 9 0x8001),
    (xWord 0xE1 0 0 6 0 0 0, 0, .fwait 6),
    (xWord 0xE2 0 5 6 0 0 0, 0, .ftest 5 6),
    (xWord 0xE3 0 0 6 0 0 0, 0, .fcancel 6),
    (guarded (xWord 0xE4 0 5 6 0 0 0), 0, .glaunch ⟨true, 9⟩ 5 6),
    (guarded (xWord 0xE5 0 0 6 0 0 0), 0, .gcancel ⟨true, 9⟩ 6),
    (guarded (xWord 0xE6 0 0 6 0 0 0), 0, .gwait ⟨true, 9⟩ 6),
    (guarded (xWord 0xE6 0 0 0 0 0 1), 0, .gwaitAll ⟨true, 9⟩)] = true := by
  decide

/-- Words of the system instructions (R291). -/
theorem test_decode_system : decodesTo [
    (sWord 0xF0 0 0 63 0 0 0 0, 0, .trap 63),
    (sWord 0xF0 1 0 0 0 0 0 0, 0, .tret),
    (sWord 0xF0 2 0 0 0 0 0 0, 0, .tesc),
    (sWord 0xF0 3 0 0 0 0 0 0, 0, .halt),
    (sWord 0xF1 0 0 5 0 0x26 0 0, 0, .sget 5 0x26),
    (sWord 0xF1 1 0 0 6 0x12 0 0, 0, .sset 6 0x12),
    (sWord 0xF2 0 0 5 6 8 7 0, 0, .tlbinv 5 6 8 7),
    (sWord 0xF2 1 0 5 6 8 7 0, 0, .own 5 6 8 7)] = true := by
  decide

/-! ## Ill-formed terms: one for each check of `WellFormed`, which the check refuses -/

/-- The guard that is true in every lane. -/
def g0 : Guard := ⟨false, 0⟩
/-- Every term is refused. -/
def refuses (l : List Instr) : Bool := l.all fun i => !wellFormed i

/-- S and SI rows: a scalar above 63, a type the row does not take, a B or C that it does not use, an immediate of 25
bits, a shift of 32, A of `sli`, a condition of `scmp`. -/
theorem test_ill_formed_scalar : refuses [
    .sadd ⟨.i32, 64, 0, 0, 0⟩, .sadd ⟨.i32, 0, 64, 0, 0⟩, .sadd ⟨.i32, 0, 0, 64, 0⟩, .ssel ⟨.b32, 0, 0, 0, 64⟩,
    .sadd ⟨.f32, 0, 0, 0, 0⟩, .smulh ⟨.b32, 0, 0, 0, 0⟩, .sand ⟨.i32, 0, 0, 0, 0⟩, .smov ⟨.b32, 0, 0, 1, 0⟩,
    .sadd ⟨.i32, 0, 0, 0, 1⟩, .saddImm ⟨0, 0, 0x1000000⟩, .saddImm ⟨64, 0, 0⟩, .saddImm ⟨0, 64, 0⟩,
    .sshlImm ⟨0, 0, 32⟩, .sli ⟨0, 1, 0⟩, .scmp .ord ⟨.i32, 0, 0, 0, 0⟩, .scmp .un ⟨.i32, 0, 0, 0, 0⟩,
    .scmp .lt ⟨.b32, 0, 0, 0, 0⟩, .scmpImm .ord false ⟨0, 0, 0⟩, .scmpImm .un true ⟨0, 0, 0⟩] = true := by
  decide

/-- Control and range rows: an offset of 25 bits, a frame of 0 or 33 granules, a predicate above 23, counter 6, group
register 0, code 0, nine carried registers, a D without carried registers, tail bits above 23. -/
theorem test_ill_formed_control : refuses [
    .bra 0x1000000, .bz 64 0, .bnz 0 0x1000000, .call 0 0, .call 0 33, .vbr false 24 0, .brx 64, .callx 0 0,
    .callx 0 33, .callx 64 1, .dwait 6, .rinfo 64, .part 0 1, .part 8 1, .part 1 0, .part 1 4, .spawn ⟨true, 24⟩ 0 0 1,
    .spawn g0 0 0 9, .spawn g0 1 0 0, .spawn g0 256 0 1, .spawn g0 0 64 1, .fold 256 0 0 0, .fold 0 256 0 0,
    .fold 0 0 0x10000 0, .fold 0 0 0 0x1000000] = true := by
  decide

/-- V3 and VI rows: guard, type, fields, a B or C or kind bit the row does not use, a mode it does not take, an
immediate too wide. -/
theorem test_ill_formed_vector : refuses [
    .vadd ⟨⟨false, 24⟩, 0, 0, 0, 0, .i32, false, false, .rn⟩, .vadd ⟨g0, 0, 0, 0, 0, .f32, false, false, .rn⟩,
    .vadd ⟨g0, 256, 0, 0, 0, .i32, false, false, .rn⟩, .vadd ⟨g0, 0, 256, 0, 0, .i32, false, false, .rn⟩,
    .vadd ⟨g0, 0, 0, 256, 0, .i32, false, false, .rn⟩, .vadd ⟨g0, 0, 0, 64, 0, .i32, true, false, .rn⟩,
    .vabs ⟨g0, 0, 0, 1, 0, .i32, false, false, .rn⟩, .vabs ⟨g0, 0, 0, 0, 0, .i32, true, false, .rn⟩,
    .vadd ⟨g0, 0, 0, 0, 1, .i32, false, false, .rn⟩, .vadd ⟨g0, 0, 0, 0, 0, .i32, false, true, .rn⟩,
    .vmad ⟨g0, 0, 0, 0, 64, .i32, false, true, .rn⟩, .vmad ⟨g0, 0, 0, 0, 256, .i32, false, false, .rn⟩,
    .vadd ⟨g0, 0, 0, 0, 0, .i32, false, false, .rz⟩, .vsadd ⟨g0, 0, 0, 0, 0, .i64, false, false, .rn⟩,
    .vmin ⟨g0, 0, 0, 0, 0, .b32, false, false, .rn⟩, .vneg ⟨g0, 0, 0, 0, 0, .n32, false, false, .rn⟩,
    .vmulh ⟨g0, 0, 0, 0, 0, .b32, false, false, .rn⟩, .vand ⟨g0, 0, 0, 0, 0, .i32, false, false, .rn⟩,
    .vbperm ⟨g0, 0, 0, 0, 0, .b32, false, false, .rn⟩, .vfadd ⟨g0, 0, 0, 0, 0, .i32, false, false, .rn⟩,
    .vfexp2 ⟨g0, 0, 0, 0, 0, .f64, false, false, .rn⟩, .vidx ⟨g0, 0, 3, 0, 0, .b32, false, false, .rn⟩,
    .vbcast ⟨g0, 0, 64, 0, 0, .b32, false, false, .rn⟩,
    .vaddImm ⟨g0, 0, 0, .short 0x10000, .i32, .rn⟩, .vaddImm ⟨g0, 0, 0, .short 256, .i8x4, .rn⟩,
    .vaddImm ⟨g0, 0, 0, .tail 0x100000000, .i32, .rn⟩, .vaddImm ⟨g0, 0, 0, .short 0, .i32, .rz⟩,
    .vmovImm ⟨g0, 0, 1, .short 0, .b32, .rn⟩, .vmovImm ⟨g0, 0, 0, .short 0, .b8, .rn⟩] = true := by
  decide

/-- Compares, predicates, conversions, selects and cross-lane rows. -/
theorem test_ill_formed_lanes : refuses [
    .vicmp ⟨g0, .ord, .i32, 0, 0, 0, 0⟩, .vicmp ⟨g0, .un, .i32, 0, 0, 0, 0⟩, .vicmp ⟨g0, .lt, .b64, 0, 0, 0, 0⟩,
    .vicmp ⟨g0, .eq, .f32, 0, 0, 0, 0⟩, .vicmp ⟨g0, .eq, .i32, 24, 0, 0, 0⟩, .vicmp ⟨g0, .eq, .i32, 0, 24, 0, 0⟩,
    .vfcmp ⟨g0, .eq, .f16x2, 0, 0, 0, 0⟩, .vfcmp ⟨g0, .eq, .f32, 24, 0, 0, 0⟩,
    .vpand ⟨g0, 24, 0, 0⟩, .vpand ⟨g0, 0, 24, 0⟩, .vpand ⟨g0, 0, 0, 24⟩, .vpnot ⟨g0, 0, 0, 1⟩,
    .vsetp ⟨g0, 24, 0, 0⟩, .vsetp ⟨g0, 0, 256, 0⟩, .vsetp ⟨g0, 0, 0, 1⟩,
    .vcvt ⟨g0, 0, 0, 1, .f32, .i32, false, false, .rn⟩, .vcvt ⟨g0, 0, 0, 0, .f32, .f32, false, false, .rn⟩,
    .vcvt ⟨g0, 0, 0, 0, .b32, .f32, false, false, .rn⟩, .vcvt ⟨g0, 0, 0, 0, .f32, .b32, false, false, .rn⟩,
    .vcvt ⟨g0, 0, 0, 0, .f32, .i32, false, true, .rn⟩, .vpack ⟨g0, 0, 0, 0, .f32, .f16x2, false, false, .rn⟩,
    .vpack ⟨g0, 0, 0, 0, .f16x2, .f32, false, true, .rn⟩, .vpack ⟨g0, 0, 0, 64, .f16x2, .f32, true, false, .rn⟩,
    .vunpack ⟨g0, 0, 0, 0, .f16x2, .f32, false, false, .rn⟩, .vunpack ⟨g0, 0, 0, 0, .f32, .f16x2, false, true, .rn⟩,
    .vsel ⟨g0, 0, 0, 0, 24, .b32, false, false, .rn⟩, .vsel ⟨g0, 0, 0, 0, 0, .b32, false, true, .rn⟩,
    .vsel ⟨g0, 0, 0, 64, 0, .b32, true, false, .rn⟩, .vsel ⟨g0, 0, 0, 0, 0, .b32, false, false, .ru⟩,
    .vshfl ⟨g0, 0, 0, 0, .i32, false, 0⟩, .vshfl ⟨g0, 0, 0, 0, .b32, false, 8⟩, .vshfl ⟨g0, 0, 0, 64, .b32, true, 0⟩,
    .vbal ⟨g0, 64, 0, 0, .b32, false, 0⟩, .vbal ⟨g0, 0, 24, 0, .b32, false, 0⟩, .vbal ⟨g0, 0, 0, 0, .b32, false, 1⟩,
    .vbal ⟨g0, 0, 0, 1, .b32, false, 0⟩, .vany ⟨g0, 24, 0, 0, .b32, false, 0⟩, .vall ⟨g0, 0, 0, 0, .b32, true, 0⟩,
    .vcnt ⟨g0, 0, 0, 0, .b64, false, 0⟩, .vmatch ⟨g0, 0, 0, 0, .i32, false, 0⟩,
    .vred ⟨g0, .add, 0, 0, .b32, 0, .rn⟩, .vred ⟨g0, .and, 0, 0, .f32, 0, .rn⟩, .vred ⟨g0, .add, 0, 0, .f32, 8, .rn⟩,
    .vred ⟨g0, .add, 0, 0, .i32, 0, .rz⟩, .vred ⟨g0, .min, 0, 0, .f32, 0, .rz⟩] = true := by
  decide

/-- M rows: lookahead and counter, the base, the offset field of each kind, element, order, the miss predicate, the
no-return mark, space, level, barrier number. -/
theorem test_ill_formed_memory : refuses [
    .vld ⟨g0, 16, 0, 0, 0, 0, 0, .b32, .glob, .grp, .rlx, .vec⟩, .vld ⟨g0, 1, 1, 0, 0, 0, 0, .b32, .glob, .grp, .rlx, .vec⟩,
    .vld ⟨g0, 15, 6, 0, 0, 0, 0, .b32, .glob, .grp, .rlx, .vec⟩, .vld ⟨g0, 0, 0, 1, 0, 0, 0, .b32, .glob, .grp, .rlx, .vec⟩,
    .vld ⟨g0, 0, 0, 0, 256, 0, 0, .b32, .glob, .grp, .rlx, .vec⟩, .vld ⟨g0, 0, 0, 0, 0, 64, 0, .b32, .glob, .grp, .rlx, .vec⟩,
    .vld ⟨g0, 0, 0, 0, 0, 0, 256, .b32, .glob, .grp, .rlx, .vec⟩, .vld ⟨g0, 0, 0, 0, 0, 0, 0, .i32, .glob, .grp, .rlx, .vec⟩,
    .vld ⟨g0, 0, 0, 0, 0, 0, 0, .b32, .glob, .grp, .rel, .vec⟩, .vld ⟨g0, 0, 0, 0, 0, 0, 0, .b32, .glob, .grp, .rlx, .sca⟩,
    .vldu ⟨g0, 0, 0, 0, 0, 0, 0, .b32, .glob, .grp, .rlx, .vec⟩, .vldu ⟨g0, 0, 0, 0, 0, 0, 64, .b32, .glob, .grp, .rlx, .sca⟩,
    .vldu ⟨g0, 0, 0, 0, 0, 0, 256, .b32, .glob, .grp, .rlx, .disp⟩, .vldu ⟨g0, 0, 0, 0, 0, 0, 1, .b32, .glob, .grp, .rlx, .non⟩,
    .vgathMt ⟨g0, 0, 0, 0, 0, 0, 0, .b32, .glob, .grp, .rlx, .vec⟩, .vgathMt ⟨g0, 0, 0, 24, 0, 0, 0, .b32, .glob, .grp, .rlx, .vec⟩,
    .vgathMt ⟨g0, 0, 0, 1, 0, 0, 0, .b32, .team, .grp, .rlx, .vec⟩, .vst ⟨g0, 1, 0, 0, 0, 0, 0, .b32, .glob, .grp, .rlx, .vec⟩,
    .vst ⟨g0, 0, 0, 0, 0, 0, 0, .b32, .glob, .grp, .acq, .vec⟩, .vst ⟨g0, 0, 0, 1, 0, 0, 0, .b32, .glob, .grp, .rlx, .vec⟩,
    .sld ⟨⟨true, 0⟩, 0, 0, 0, 0, 0, 0, .b32, .glob, .grp, .rlx, .non⟩, .sld ⟨g0, 0, 0, 0, 64, 0, 0, .b32, .glob, .grp, .rlx, .non⟩,
    .sst ⟨g0, 0, 0, 0, 64, 0, 0, .b32, .glob, .grp, .rlx, .non⟩, .vatomAdd ⟨g0, 0, 0, 0, 0, 0, 0, .b32, .glob, .grp, .rlx, .non⟩,
    .vatomAnd ⟨g0, 0, 0, 0, 0, 0, 0, .i32, .glob, .grp, .rlx, .non⟩, .vatomAdd ⟨g0, 0, 0, 2, 0, 0, 0, .i32, .glob, .grp, .rlx, .non⟩,
    .vatomAdd ⟨g0, 1, 0, 1, 0, 0, 0, .i32, .glob, .grp, .rlx, .non⟩, .satomAdd ⟨g0, 0, 0, 0, 0, 0, 0, .i32, .glob, .grp, .rlx, .vec⟩,
    .satomAdd ⟨⟨false, 1⟩, 0, 0, 0, 0, 0, 0, .i32, .glob, .grp, .rlx, .non⟩] = true := by
  decide

/-- Fences, barriers, cache operations, queues and event waits. -/
theorem test_ill_formed_sync : refuses [
    .pref ⟨g0, 2, 0, 0, .non⟩, .cflush ⟨g0, 1, 0, 0, .non⟩, .cinv ⟨g0, 0, 64, 0, .non⟩, .cclean ⟨g0, 0, 0, 1, .non⟩,
    .cflush ⟨⟨false, 24⟩, 0, 0, 0, .non⟩, .fence .rlx .dev, .bari 64 0, .bari 0 16, .bara 64 0, .bara 0 16, .barw 0 16,
    .barx 0 16, .bclose 64, .bwait 64, .wqpop ⟨64, 0, 0, 0, .glob, .non⟩, .wqpop ⟨0, 64, 0, 0, .glob, .non⟩,
    .wqpop ⟨0, 0, 0, 64, .glob, .non⟩, .wqpop ⟨0, 0, 0, 0, .clu, .non⟩, .wqpop ⟨0, 0, 0, 0, .glob, .vec⟩,
    .wqpush ⟨0, 0, 1, 0, .glob, .non⟩, .evwait ⟨64, 0, 0, 0, .b32, .glob, .dev, .rlx, .non⟩,
    .evwait ⟨0, 0, 0, 64, .b32, .glob, .dev, .rlx, .non⟩, .evwait ⟨0, 0, 0, 0, .n8, .glob, .dev, .rlx, .non⟩,
    .evwait ⟨0, 0, 0, 0, .b32, .reg, .dev, .rlx, .non⟩, .evwait ⟨0, 0, 0, 0, .b32, .glob, .dev, .rel, .non⟩,
    .evwait ⟨0, 0, 0, 0, .b32, .glob, .dev, .rlx, .vec⟩] = true := by
  decide

/-- X and system rows: accumulator, shape and queue fields, spaces, masks, codes. -/
theorem test_ill_formed_engine : refuses [
    .macq ⟨false, 24⟩ 0 0, .macq g0 8 0, .macq g0 0 8, .mrel g0 8, .mrelF g0 8, .mzero g0 8, .mmul g0 0 64 0 0 0 0 false,
    .mmul g0 0 0 0 0 0 16 false, .mmul g0 0 0 0 256 0 0 false, .mrd g0 16 0 0 0 0 0, .mrd g0 0 0 0 0 0 4,
    .mrd g0 0 0 256 0 0 0, .mwr g0 0 0 64 0, .mwr g0 0 0 0 4, .mld g0 0 0 0 0 0 .reg .dev, .mld g0 0 1 0 0 0 .glob .dev,
    .mst g0 0 0 0 .reg .dev, .hld 0 0 16 0 .glob, .hld 0 0 0 0 .reg, .hst 16 0 .glob, .hst 0 64 .glob, .hset 16 0 0,
    .hset 0 0 8, .hget 64 0 0, .hget 0 16 0, .hget 0 0 8, .cpyt ⟨g0, 0, 16, 0, 0, 0, none⟩,
    .cpyt ⟨g0, 0, 0, 16, 0, 0, none⟩, .cpyt ⟨g0, 0, 0, 0, 0, 16, none⟩, .cpyt ⟨g0, 64, 0, 0, 0, 0, none⟩,
    .cpyt ⟨g0, 0, 0, 0, 64, 0, none⟩, .cpyt ⟨g0, 0, 0, 0, 0, 0, some 64⟩, .cpyl ⟨g0, 0, 64, 0, 0, 0, none⟩ .glob .glob,
    .cpyl ⟨g0, 0, 0, 0, 0, 0, none⟩ .reg .glob, .cpyl ⟨g0, 0, 0, 0, 0, 0, none⟩ .glob .reg,
    .gath ⟨⟨true, 24⟩, 0, 0, 0, 0, 0, none⟩, .coll ⟨g0, 0, 16, 0, 0, 0, none⟩, .coll ⟨g0, 0, 0, 64, 0, 0, none⟩,
    .qfence 16 1, .qfence 0 0, .qfence 0 0x10000, .fwait 64, .fcancel 64, .ftest 5 5, .ftest 64 0, .glaunch g0 64 0,
    .glaunch g0 0 64, .gcancel g0 64, .gwait g0 64, .gwaitAll ⟨false, 24⟩, .trap 64, .sget 64 0, .sget 0 256,
    .sset 64 0, .sset 0 256, .tlbinv 64 0 0 0, .own 0 0 0 64] = true := by
  decide

/-- Steps of the other units: numbers outside the ranges of R2. -/
theorem test_ill_formed_steps : refuses [
    .issueCycle 256, .longLatencyComplete 0 32 0, .foldMerge 0 0 32, .breakpointHit 0 0 4, .binTimerExpiry 0 16,
    .rangeReceipt 0 0 4 4, .packageLoss 2048, .teamRetire 256 0 0, .walk 0 0x10000 0, .rds (.host 0) (2 ^ 45),
    .epochCompare 0 9, .inboundRequest 2 true 0 0 none, .flitReceipt 64 ⟨0, 0, 0, 0, true⟩, .retryRequest 0 4096,
    .uncorrectableFlit false ⟨0, 0⟩ false false 15 [], .linkDown 9 0, .passFormation 64, .contextRestore 0 256,
    .preemptionRequest 1 0, .computeDieReset 8, .bringup 5 true, .dieBringup 0 12 true, .clockChange 0,
    .launchWindowSeal 64 0 [], .submit 2 0, .semRead 0 16, .launchPacket 128, .eventWrite 4096 0,
    .queueDescriptorWrite 0 32 4 0, .workQueueDescriptorWrite 256 0 4 0, .streamWrite 256 true ⟨0, 0⟩,
    .handleInstall 4096 0, .mapEpochInstall 0 [⟨0, 4, 0⟩], .estatResume 72, .prefetchCounterClear 0 4,
    .ckstatClear 0x10000, .unclmClear 9, .registerWrite 0 2 0, .ownerInstallCheck 2048 0 0, .hostDecoderChange [⟨0, 0, 4, true⟩],
    .storageLinkChange 2 true 0 0, .peerReply 416 0 .lost, .futureComplete 0 (2 ^ 32)] = true := by
  decide

/-! ## Small states -/

/-- A dense group of 96 lanes in user mode at 0x10000. -/
def group : Holder :=
  { kind := .group, live := BitVec.allOnes 96, mask := BitVec.allOnes 96, path := BitVec.allOnes 96, pc := 0x10000, w := 64 }
/-- A range context of items 0 to 959. -/
def range : Holder := { kind := .range, lo := 0, hi := 960, pc := 0x10000, w := 64 }
/-- The holder in slot 0 of core 0, on whose turn an instruction executes. -/
def at0 (h : Holder) (c : Core := {}) : State :=
  { cores := [(0, { c with slots := [(0, h)], active := [0] })], cur := some (0, 0) }
/-- A property of the next state. -/
def goes (o : Out) (p : State → Bool) : Bool :=
  match o with
  | .next t => p t
  | _ => false
/-- A property of the holder in slot 0 of core 0 in the next state. -/
def leaves (o : Out) (p : Holder → Bool) : Bool := goes o fun t => ((t.holder? 0 0).map p).getD false
/-- A guard-free V3 instruction's operands. -/
def v3 (t : Ty) (d a b : Nat) (c : Nat := 0) (md : RMode := .rn) : V3Op := ⟨g0, d, a, b, c, t, false, false, md⟩

/-! ## States that meet the hypotheses of the statements -/

/-- `nop` at the program counter, and then `vadd` with its tail, and then a word that stands for no instruction. -/
def fetches (w : Nat) : State := State.reset.withFetchWord 128 w
/-- The state in which the group fetches. -/
def turn (w : Nat) : State := ({ fetches w with issue := [], cur := some (0, 0) } : State).traceIssue 0 0 group

/-- What a fetch from memory gives. -/
def fetched (s : State) (va : Nat) : Option (State × Nat) :=
  match s.resolve (fetchCtx s 0 group) .glob va 8 .fetch true with
  | .ok (.phys (x :: xs)) s1 =>
    if peerReadOnly s1 x.e x.pa = false then
      match s1.codeBytes (fetchCtx s 0 group) group (x :: xs) with
      | .ok bs s2 => some ((s2.endAway 0).codeLine 0 group.asid (x.pa / 128), leValue bs)
      | _ => none
    else none
  | _ => none

theorem fetchesWord_of_fetched {s s' : State} {va w : Nat} (e : fetched s va = some (s', w)) : FetchesWord s 0 group va s' w := by
  unfold fetched at e
  split at e
  · rename_i x xs s1 r
    split at e
    · rename_i c
      split at e
      · rename_i bs s2 k
        cases e
        exact ⟨x, xs, s1, bs, s2, r, fun p => absurd p (by simp [c]), k, rfl, rfl⟩
      · cases e
    · cases e
  · cases e

/-- A state and a word from their parts. -/
theorem fetched_eq {s : State} {va w : Nat} (e : (fetched s va).map (·.2) = some w) :
    ∃ s', fetched s va = some (s', w) := by
  cases f : fetched s va with
  | none => simp [f] at e
  | some p =>
    simp only [f, Option.map_some, Option.some.injEq] at e
    exact ⟨p.1, by rw [← e]⟩

theorem witness_atInstruction (w : Nat) : AtInstruction (fetches w) 0 0 group (turn w) :=
  ⟨[], rfl, rfl, rfl, by decide, by decide, by decide, Or.inr ⟨rfl, rfl⟩, by with_unfolding_all rfl⟩

theorem witness_StepRunsDecodedInstruction_head : AtInstruction (fetches 0x0100000000000000) 0 0 group (turn 0x0100000000000000)
    ∧ (∃ s1, FetchesWord (turn 0x0100000000000000) 0 group group.pc s1 0x0100000000000000)
    ∧ hasTail 0x0100000000000000 = false ∧ decode 0x0100000000000000 0 = .ok .nop :=
  ⟨witness_atInstruction _, (fetched_eq (by decide +kernel)).imp fun _ e => fetchesWord_of_fetched e, by decide, by decide⟩

theorem witness_StepRunsDecodedInstruction_illegal : AtInstruction (fetches 0) 0 0 group (turn 0)
    ∧ (∃ s1, FetchesWord (turn 0) 0 group group.pc s1 0) ∧ hasTail 0 = false ∧ decode 0 0 = .error .unassignedMajor :=
  ⟨witness_atInstruction _, (fetched_eq (by decide +kernel)).imp fun _ e => fetchesWord_of_fetched e, by decide, by decide⟩

/-- `vaddImm` with 100000 in its tail, as R292 works it out. -/
def tailed : Nat := 100000 * 2 ^ 64 + 0x600001C1C0000018

theorem witness_StepRunsDecodedInstruction_tail : AtInstruction (fetches tailed) 0 0 group (turn tailed)
    ∧ (∃ s1, FetchesWord (turn tailed) 0 group group.pc s1 0x600001C1C0000018
      ∧ ∃ s2, FetchesWord s1 0 group (group.pc + 8) s2 100000)
    ∧ hasTail 0x600001C1C0000018 = true ∧ (decode 0x600001C1C0000018 100000).isOk = true := by
  refine ⟨witness_atInstruction _, ?_, by decide, by decide⟩
  have e : ((fetched (turn tailed) group.pc).bind fun p => (fetched p.1 (group.pc + 8)).map fun r => (p.2, r.2))
      = some (0x600001C1C0000018, 100000) := by decide +kernel
  cases f : fetched (turn tailed) group.pc with
  | none => simp [f] at e
  | some p =>
    simp only [f, Option.bind_some] at e
    cases k : fetched p.1 (group.pc + 8) with
    | none => simp [k] at e
    | some r =>
      simp only [k, Option.map_some, Option.some.injEq, Prod.mk.injEq] at e
      exact ⟨p.1, fetchesWord_of_fetched (by rw [f, ← e.1]), r.1, fetchesWord_of_fetched (by rw [k, ← e.2])⟩

theorem witness_DecodeOfEncode : wellFormed (.vaddImm ⟨g0, 7, 7, .tail 100000, .i32, .rn⟩) = true
    ∧ (Instr.vaddImm ⟨g0, 7, 7, .tail 100000, .i32, .rn⟩).isInstruction = true := by decide

theorem witness_DecodeDropsNoBit : (0xA094C10080401044 : Nat) < 2 ^ 64 ∧ (0 : Nat) < 2 ^ 64
    ∧ hasTail 0xA094C10080401044 = false ∧ (decode 0xA094C10080401044 0).isOk = true := by decide

theorem witness_StepKeepsMemoryCanonical : ∃ t, State.memOk (fetches 0x0100000000000000)
    ∧ step (fetches 0x0100000000000000) = .next t :=
  ⟨_, ⟨by decide, by decide, by decide⟩, rfl⟩

theorem witness_MemoryReadsBackWrites : Memory.wf [(0, 1#8), (0xFFFFFFFFFFFFF, 0xFF#8)] = true := by decide

/-- A core whose handler is installed. -/
def handled : Core := { tbase := 0x4000 }

theorem witness_TrapEntersHandler : MayTrap (at0 group handled) 0 0 group ∧ (13 : Nat) < 14 := by
  refine ⟨⟨?_, ?_, ?_, ?_⟩, ?_⟩ <;> decide

theorem witness_TrapsEscalate_noHandler : group.mode = false ∧ trapReady (at0 group) 0 0 group = true
    ∧ (at0 group).cancelled group = false ∧ ((at0 group).core 0).tbase = 0 := by decide

theorem witness_TrapsEscalate_inHandler : ∃ h, h.mode = true ∧ trapReady (at0 h handled) 0 0 h = true
    ∧ (at0 h handled).cancelled h = false :=
  ⟨{ group with mode := true }, by decide⟩

theorem witness_IssueChecksTrap_privileged : (at0 group handled).cur = some (0, 0)
    ∧ (at0 group handled).holder? 0 0 = some group ∧ MayTrap (at0 group handled) 0 0 group := by
  refine ⟨by decide, by decide, ?_, ?_, ?_, ?_⟩ <;> decide

/-- v64 is the first register outside a frame of 64. -/
theorem witness_IssueChecksTrap_outside : ∃ i o, i.isInstruction = true ∧ MayTrap (at0 group handled) 0 0 group
    ∧ sysIllegal i = false ∧ privileged i = false ∧ o ∈ operands i ∧ o.file = .v ∧ 0 < o.cnt ∧ group.bound < o.n + o.cnt
    ∧ group.bound = 64 ∧ o.n = 64 :=
  ⟨.vadd (v3 .i32 64 0 0), ⟨.v, 64, 1, true, false⟩, by decide, ⟨by decide, by decide, by decide, by decide⟩, by decide⟩

theorem witness_IssueChecksTrap_inHandler : ∃ i h, i.isInstruction = true ∧ handlerOk i = false
    ∧ (at0 h).cur = some (0, 0) ∧ (at0 h).holder? 0 0 = some h ∧ h.mode = true ∧ trapReady (at0 h) 0 0 h = true
    ∧ (at0 h).cancelled h = false :=
  ⟨.vadd (v3 .i32 0 0 0), { group with mode := true }, by decide⟩

/-- A `vld` into v4 with a window of 3 open. -/
def pendingLoad (n : Nat) : LongOp :=
  { instr := .vld ⟨g0, 3, 0, 0, 4, 2, 1, .b32, .glob, .grp, .rlx, .vec⟩, pc := 0xFFF8, window := some n, idx := 0, active := BitVec.allOnes 96 }

theorem witness_WindowsHoldBack_named : ∃ h l, (at0 h).cur = some (0, 0) ∧ (at0 h).holder? 0 0 = some h ∧ h.mode = false
    ∧ decodeCheck h (.vadd (v3 .i32 8 4 6)) = .go ∧ h.ll = [l] ∧ l.window.isSome = true ∧ l.window ≠ some 0
    ∧ ∃ x ∈ operands l.instr, x.write = true ∧ ∃ o ∈ operands (.vadd (v3 .i32 8 4 6)),
        x.file = o.file ∧ x.n < o.n + o.cnt ∧ o.n < x.n + x.cnt :=
  ⟨{ group with ll := [pendingLoad 3] }, pendingLoad 3, by decide⟩

theorem witness_WindowsHoldBack_exhausted : ∃ h l, (Instr.sadd ⟨.i32, 4, 5, 6, 0⟩).isInstruction = true
    ∧ (at0 h).cur = some (0, 0) ∧ (at0 h).holder? 0 0 = some h ∧ l ∈ h.ll ∧ l.window = some 0 :=
  ⟨{ group with ll := [pendingLoad 0] }, pendingLoad 0, by decide⟩

/-- Destinations at the edge of the plain scalars and on the mask; an odd pair is misnamed and traps. -/
theorem witness_ScalarInstructionsGiveD : Issues (.sadd ⟨.i64, 58, 4, 8, 0⟩) (at0 group) 0 0 group
    ∧ wellFormed (.sadd ⟨.i64, 58, 4, 8, 0⟩) = true ∧ arithDest (.sadd ⟨.i64, 58, 4, 8, 0⟩) = some (58, true)
    ∧ Issues (.sclz ⟨.b32, 61, 4, 0, 0⟩) (at0 group) 0 0 group ∧ wellFormed (.sclz ⟨.b32, 61, 4, 0, 0⟩) = true
    ∧ bitDest (.sclz ⟨.b32, 61, 4, 0, 0⟩) = some (61, false)
    ∧ Issues (.sli ⟨60, 0, 0xFFFFFF⟩) (at0 group) 0 0 group ∧ wellFormed (.sli ⟨60, 0, 0xFFFFFF⟩) = true
    ∧ immValue group (.sli ⟨60, 0, 0xFFFFFF⟩) = some (60, 0xFFFFFFFF) := by decide

theorem witness_ScalarFrame : ∃ t, Issues (.sadd ⟨.i32, 61, 5, 6, 0⟩) (at0 group) 0 0 group
    ∧ scalarDest (.sadd ⟨.i32, 61, 5, 6, 0⟩) = some (61, false)
    ∧ exec (.sadd ⟨.i32, 61, 5, 6, 0⟩) (at0 group) = .next t :=
  ⟨_, by decide, by decide, rfl⟩

/-- Reading s63, in a group and in a range context; writing s63. -/
theorem witness_ExecuteMask : Issues (.smov ⟨.b32, 60, 63, 0, 0⟩) (at0 group) 0 0 group
    ∧ Issues (.smov ⟨.b32, 0, 61, 0, 0⟩) (at0 range) 0 0 range
    ∧ Issues (.smov ⟨.b32, 63, 5, 0, 0⟩) (at0 group) 0 0 group ∧ group.kind ≠ .range ∧ group.mode = false := by decide

/-- A grid of teams of 192 items, and a core that holds one of its holders. -/
def teams : Grid := { record := 191 * 2 ^ 901 + 1000 * 2 ^ 912, number := 0 }
/-- The holder in slot 0 of core 0, in a grid of teams of 192 items. -/
def inGrid (h : Holder) (c : Core := {}) : State :=
  { at0 h { l1Banks := 32, spmBanks := 5, tbase := c.tbase } with grids := [(0, teams)], dies := [(0, { online := true, powered := true })] }
/-- An answer of Drip or of a placement that goes on. -/
def dripOk : Drip → Bool
  | .ok _ _ => true
  | _ => false
def placeOk : Place → Bool
  | .ok _ => true
  | _ => false
theorem drip_of {x : Drip} (e : dripOk x = true) : ∃ s h, x = .ok s h := by
  cases x <;> simp_all [dripOk]
theorem place_of {x : Place} (e : placeOk x = true) : ∃ s, x = .ok s := by
  cases x <;> simp_all [placeOk]

/-- A group that reads 0x20000 in s8 and 4 in s10. -/
def jumper : Holder := { group with sregs := [(8, 0x20000#32), (10, 4#32)] }

theorem witness_BranchesMoveOrTrap_goes : Issues (.brx 8) (at0 jumper) 0 0 jumper ∧ branchPc jumper (.brx 8) = some 0x20000
    ∧ Issues (.bz 0 0x800000) (at0 jumper) 0 0 jumper ∧ wellFormed (.bz 0 0x800000) = true
    ∧ branchPc jumper (.bz 0 0x800000) = some (2 ^ 64 - 0x3FF0000)
    ∧ Issues (.bnz 0 1) (at0 range) 0 0 range ∧ branchPc range (.bnz 0 1) = some 0x10008 ∧ jumper.replaying = none
    ∧ branchPc jumper .nop = some 0x10008 := by decide +kernel

/-- In a called frame whose return address is 4. -/
def called (ret : Nat) : Holder := { group with frame := 1, frames := [(1, { ret := ret, depth := 1 })] }

theorem witness_BranchesMoveOrTrap_misaligned : MayTrap (at0 jumper handled) 0 0 jumper ∧ Issues (.brx 10) (at0 jumper handled) 0 0 jumper
    ∧ pairOf jumper 10 = 4 ∧ Issues (.callx 10 1) (at0 jumper handled) 0 0 jumper
    ∧ Issues (.spawn g0 0 10 0) (at0 jumper handled) 0 0 jumper
    ∧ MayTrap (at0 (called 4) handled) 0 0 (called 4) ∧ Issues .ret (at0 (called 4) handled) 0 0 (called 4)
    ∧ ((called 4).getFrame (called 4).frame).depth ≠ 0 ∧ ((called 4).getFrame (called 4).frame).ret = 4 :=
  ⟨⟨by decide +kernel, by decide +kernel, by decide +kernel, by decide +kernel⟩, by decide +kernel, by decide +kernel, by decide +kernel, by decide +kernel,
    ⟨by decide +kernel, by decide +kernel, by decide +kernel, by decide +kernel⟩, by decide +kernel⟩

/-- p1 true in lane 95 alone. -/
def diverged : Holder := { group with preds := [(1, .dense (1#96 <<< 95))] }

theorem witness_SplitStack_vbr : Issues (.vbr true 23 0xFFFFFF) (at0 diverged) 0 0 diverged
    ∧ wellFormed (.vbr true 23 0xFFFFFF) = true ∧ diverged.kind ≠ .range ∧ diverged.replaying = none ∧ Unspilled diverged
    ∧ diverged.stack.length < 32
    -- no lane taken; every lane taken; one lane taken
    ∧ (∀ L < 96, diverged.mask.getLsbD L = true → trueLane diverged 2 false L = false)
    ∧ diverged.mask ≠ 0#96 ∧ (∀ L < 96, diverged.mask.getLsbD L = true → trueLane diverged 0 false L = true)
    ∧ (∃ L < 96, diverged.mask.getLsbD L = true ∧ trueLane diverged 1 false L = true)
    ∧ ∃ L < 96, diverged.mask.getLsbD L = true ∧ trueLane diverged 1 false L = false :=
  ⟨by decide +kernel, by decide +kernel, by decide +kernel, by decide +kernel, ⟨by decide +kernel, by decide +kernel, by decide +kernel, by decide +kernel⟩, by decide +kernel, by decide +kernel,
    by decide +kernel, by decide +kernel, ⟨95, by decide +kernel⟩, ⟨0, by decide +kernel⟩⟩

/-- A range context whose p1 is true below member 1. -/
def cutAt : Holder := { range with preds := [(1, .thr 1)], w := 64 }

theorem witness_SplitStack_vbrRange : Issues (.vbr false 1 2) (inGrid cutAt) 0 0 cutAt ∧ wellFormed (.vbr false 1 2) = true
    ∧ cutAt.kind = .range ∧ cutAt.replaying = none ∧ cutAt.readP 0 = .uni true ∧ cutAt.readP 1 = .thr 1 ∧ cutAt.lo < 1
    ∧ 1 < cutAt.hi ∧ trapReady (inGrid cutAt) 0 0 cutAt = true ∧ cutAt.outParts = []
    ∧ ∃ k j w, (inGrid cutAt).findSlot 0 cutAt.w = some (k, j, w) ∧ (k, j) ≠ (0, 0) :=
  ⟨by decide +kernel, by decide +kernel, by decide +kernel, by decide +kernel, by decide +kernel, by decide +kernel, by decide +kernel, by decide +kernel, by decide +kernel, by decide +kernel,
    0, 1, 64, by decide +kernel, by decide +kernel⟩

/-- A group at 0x10000 whose top entry waits there, is ready elsewhere, and a group whose stack is empty. -/
def joining (wait : Bool) : Holder :=
  { group with path := 0xFF#96, mask := 0x0F#96, stack := [⟨0x10000, 0xFF00#96, 0, 0, wait⟩] }

theorem witness_SplitStack_vjoin : Issues .vjoin (at0 group) 0 0 group ∧ Unspilled group ∧ group.stack = []
    ∧ Issues .vjoin (at0 range) 0 0 range ∧ Unspilled range ∧ range.kind = .range
    ∧ Issues .vjoin (at0 (joining true)) 0 0 (joining true) ∧ Unspilled (joining true)
    ∧ (∃ e rest, (joining true).stack = e :: rest ∧ e.lanes &&& (joining true).live ≠ 0#96 ∧ e.waiting = true
      ∧ e.pc = (joining true).pc ∧ e.frame = (joining true).frame)
    ∧ Issues .vjoin (at0 (joining false)) 0 0 (joining false) ∧ Unspilled (joining false)
    ∧ ∃ e rest, (joining false).stack = e :: rest ∧ e.lanes &&& (joining false).live ≠ 0#96 ∧ e.waiting = false
      ∧ ∃ s1 h1, (at0 (joining false)).takeFrame 0 0 { joining false with
          stack := [⟨0x10000, 0xFF#96, 0, 0, true⟩], pc := 0x10000, path := 0xFF00#96, mask := 0xFF00#96 } e.frame = .ok s1 h1 :=
  ⟨by decide +kernel, ⟨by decide +kernel, by decide +kernel, by decide +kernel, by decide +kernel⟩, by decide +kernel, by decide +kernel,
    ⟨by decide +kernel, by decide +kernel, by decide +kernel, by decide +kernel⟩, by decide +kernel, by decide +kernel, ⟨by decide +kernel, by decide +kernel, by decide +kernel, by decide +kernel⟩,
    ⟨_, _, rfl, by decide +kernel⟩, by decide +kernel, ⟨by decide +kernel, by decide +kernel, by decide +kernel, by decide +kernel⟩,
    ⟨_, _, rfl, by decide +kernel, by decide +kernel, drip_of (by decide +kernel)⟩⟩

/-- A ring of eight positions with one granule. -/
def ringOf1 : AMap Nat := (List.range 7).map (fun p => (p + 1, noGran))
/-- A group with one granule, which calls with one and with all eight. -/
def caller : Holder := { group with sregs := [(8, 0x20000#32)], frames := [(0, { grans := [0], pos := [0] })], ring := ringOf1 }

theorem witness_CallsAndReturns : Issues (.call 4 8) (inGrid caller) 0 0 caller ∧ wellFormed (.call 4 8) = true
    ∧ Issues (.callx 8 1) (inGrid caller) 0 0 caller ∧ pairOf caller 8 % 8 = 0 ∧ Unspilled caller ∧ 8 ≤ caller.w / 8
    ∧ caller.freeFrame = some 1 ∧ (caller.getFrame caller.frame).grans ≠ []
    ∧ (∃ s1 h1, (inGrid caller).enterFrame 0 0
        { caller with frames := AMap.set caller.frames 1 (caller.callFrame 1 8 ((caller.pc + 8) % 2 ^ 64)) } 1 = .ok s1 h1)
    ∧ ∃ s1 h1, (inGrid caller).enterFrame 0 0
        { caller with frames := AMap.set caller.frames 1 (caller.callFrame 1 1 ((caller.pc + 8) % 2 ^ 64)) } 1 = .ok s1 h1 :=
  ⟨by decide +kernel, by decide +kernel, by decide +kernel, by decide +kernel, ⟨by decide +kernel, by decide +kernel, by decide +kernel, by decide +kernel⟩, by decide +kernel, by decide +kernel,
    by decide +kernel, drip_of (by decide +kernel), drip_of (by decide +kernel)⟩

/-- Nine granules with a window of eight. -/
theorem witness_CallsAndReturns_beyond : Issues (.call 4 9) (at0 group handled) 0 0 group ∧ MayTrap (at0 group handled) 0 0 group
    ∧ group.w / 8 < 9 :=
  ⟨by decide +kernel, ⟨by decide +kernel, by decide +kernel, by decide +kernel, by decide +kernel⟩, by decide +kernel⟩

theorem witness_CallsAndReturns_ret : Issues .ret (at0 group) 0 0 group ∧ (group.getFrame group.frame).depth = 0
    ∧ Issues .exit (at0 group) 0 0 group ∧ Issues .ret (inGrid (called 0x400)) 0 0 (called 0x400)
    ∧ ((called 0x400).getFrame (called 0x400).frame).depth ≠ 0 ∧ ((called 0x400).getFrame (called 0x400).frame).ret % 8 = 0
    ∧ ∃ s1 h1, (inGrid (called 0x400)).takeFrame 0 0 (called 0x400)
        ((called 0x400).getFrame (called 0x400).frame).parent = .ok s1 h1 :=
  ⟨by decide +kernel, by decide +kernel, by decide +kernel, by decide +kernel, by decide +kernel, by decide +kernel, drip_of (by decide +kernel)⟩

/-- A group with lane 0 active, with no lane active, with every lane active. -/
def active (m : Lanes) : Holder := { group with mask := m }

theorem witness_Exit (m : Lanes) (e : m = 1#96 ∨ m = 0#96 ∨ m = BitVec.allOnes 96) : Issues .exit (inGrid (active m)) 0 0 (active m)
    ∧ trapReady (inGrid (active m)) 0 0 (active m) = true ∧ (active m).replaying = none
    ∧ needsRecord (inGrid (active m)) 0 (active m) (laneCount (active m).mask) = false
    ∧ (∃ gr, AMap.find? (inGrid (active m)).grids (active m).grid = some gr)
    ∧ AMap.sorted ((inGrid (active m)).core 0).slots = true ∧ (active m).kind ≠ .range
    ∧ (m = 1#96 → (active m).mask ≠ 0#96
        ∧ ((active m).path &&& ~~~(active m).mask) &&& ((active m).live &&& ~~~(active m).mask) ≠ 0#96)
    ∧ (m = BitVec.allOnes 96 → (active m).mask ≠ 0#96
        ∧ ((active m).path &&& ~~~(active m).mask) &&& ((active m).live &&& ~~~(active m).mask) = 0#96
        ∧ (active m).stack = [] ∧ (active m).spilled = []) := by
  rcases e with rfl | rfl | rfl <;>
    exact ⟨by decide +kernel, by decide +kernel, by decide +kernel, by decide +kernel, ⟨teams, by decide +kernel⟩, by decide +kernel, by decide +kernel, by decide +kernel, by decide +kernel⟩

theorem witness_Exit_range : Issues .exit (inGrid range) 0 0 range ∧ trapReady (inGrid range) 0 0 range = true
    ∧ range.replaying = none ∧ needsRecord (inGrid range) 0 range (laneCount range.mask) = false
    ∧ AMap.find? (inGrid range).grids range.grid = some teams ∧ AMap.sorted ((inGrid range).core 0).slots = true
    ∧ range.kind = .range := by decide +kernel

/-- A grid that is cancelled. -/
def cancelledGrid (h : Holder) : State := { inGrid h with grids := [(0, { teams with cancel := true })] }

theorem witness_Yield : Issues .yield (inGrid group) 0 0 group ∧ group.replaying = none ∧ (inGrid group).cancelled group = false
    ∧ Issues .yield (cancelledGrid group) 0 0 group ∧ (cancelledGrid group).cancelled group = true
    ∧ trapReady (cancelledGrid group) 0 0 group = true ∧ AMap.sorted ((cancelledGrid group).core 0).slots = true := by decide +kernel

theorem witness_Dwait : Issues (.dwait 5) (at0 group) 0 0 group ∧ AMap.getD group.dcs 5 0 = 0
    ∧ ∃ h, Issues (.dwait 5) (at0 h) 0 0 h ∧ h.replaying = none ∧ AMap.getD h.dcs 5 0 ≠ 0 :=
  ⟨by decide +kernel, by decide +kernel, { group with dcs := [(5, 1)] }, by decide +kernel⟩

theorem witness_Unfold : Issues .unfold (inGrid group) 0 0 group ∧ group.kind ≠ .range
    ∧ ∃ h s1, Issues .unfold (inGrid h) 0 0 h ∧ h.kind = .range ∧ h.mode = false ∧ h.lo < h.hi
      ∧ trapReady (inGrid h) 0 0 h = true ∧ (inGrid h).unfold 0 0 h = .ok s1 :=
  ⟨by decide +kernel, by decide +kernel, { range with lo := 5, hi := 100 },
    (place_of (by decide +kernel)).imp fun _ e => ⟨by decide +kernel, by decide +kernel, by decide +kernel, by decide +kernel, by decide +kernel, e⟩⟩

theorem witness_Rinfo : Issues (.rinfo 56) (inGrid range) 0 0 range ∧ range.kind = .range ∧ range.lo < 2 ^ 64 ∧ range.hi < 2 ^ 64
    ∧ Issues (.rinfo 0) (inGrid group) 0 0 group ∧ group.kind ≠ .range
    ∧ (∀ L < 96, group.member ((inGrid group).tsize group) L < 2 ^ 63)
    ∧ ∃ h, Issues (.rinfo 0) (inGrid h) 0 0 h ∧ h.kind ≠ .range ∧ h.live = 0#96 :=
  ⟨by decide +kernel, by decide +kernel, by decide +kernel, by decide +kernel, by decide +kernel, by decide +kernel, by decide +kernel, { group with live := 0#96 }, by decide +kernel⟩

theorem witness_Part : Issues (.part 7 3) (at0 group) 0 0 group := by decide +kernel

theorem witness_Fold_range : Issues (.fold 4 2 256 0b1010) (inGrid range) 0 0 range ∧ wellFormed (.fold 4 2 256 0b1010) = true
    ∧ range.kind = .range ∧ trapReady (inGrid range) 0 0 range = true ∧ range.replaying = none
    ∧ (∀ a b, a < b → b < 2 → range.vkey (4 + a) ≠ range.vkey (4 + b))
    ∧ Issues (.fold 4 0 0 0) (inGrid range) 0 0 range :=
  ⟨by decide +kernel, by decide +kernel, by decide +kernel, by decide +kernel, by decide +kernel, fun a b l m => by
    obtain rfl : b = 1 := by omega
    obtain rfl : a = 0 := by omega
    decide, by decide +kernel⟩

theorem witness_Fold_nop : Issues (.fold 4 2 256 0) (inGrid (active 1#96)) 0 0 (active 1#96) ∧ (active 1#96).kind ≠ .range
    ∧ (active 1#96).mask ≠ (active 1#96).live := by decide +kernel

/-- A group that spawns at 0x20000 the lanes in which p1 is true. -/
def spawner : Holder := { diverged with sregs := [(8, 0x20000#32)] }

theorem witness_Spawn : Issues (.spawn ⟨false, 1⟩ 4 8 1) (inGrid spawner) 0 0 spawner ∧ spawner.kind ≠ .range
    ∧ pairOf spawner 8 % 8 = 0 ∧ trapReady (inGrid spawner) 0 0 spawner = true ∧ spawner.replaying = none
    ∧ Issues (.spawn ⟨true, 0⟩ 4 8 1) (inGrid spawner) 0 0 spawner ∧ spawner.activeLanes ⟨true, 0⟩ = 0#96
    ∧ spawner.activeLanes ⟨false, 1⟩ ≠ 0#96
    ∧ (spawner.path &&& ~~~spawner.activeLanes ⟨false, 1⟩) &&& (spawner.live &&& ~~~spawner.activeLanes ⟨false, 1⟩) ≠ 0#96
    ∧ ∃ s1, binAddAll 0 ((laneList (spawner.activeLanes ⟨false, 1⟩)).map (fun L =>
        (⟨pairOf spawner 8, spawner.grid, spawner.team, 0, [], spawner.w, spawner.prio, 0⟩,
          (spawner.item L, (List.range 1).map (fun j => (spawner.readV (4 + j)).at spawner.team (spawner.item L) L)))))
        (inGrid spawner) = .ok s1 :=
  ⟨by decide +kernel, by decide +kernel, by decide +kernel, by decide +kernel, by decide +kernel, by decide +kernel, by decide +kernel, by decide +kernel, by decide +kernel, place_of (by decide +kernel)⟩

/-- A guarded V3 instruction's operands; the guard p0 complemented is false in every lane, p1 is true in lane 95. -/
def v3g (t : Ty) (d a b : Nat) (c : Nat := 0) (md : RMode := .rn) : V3Op := ⟨⟨false, 1⟩, d, a, b, c, t, false, false, md⟩

/-- A guarded instruction runs lane by lane. -/
theorem laneRun_guarded (h : Holder) (i : Instr) : LaneRun h ⟨false, 1⟩ i := Or.inr (Or.inl (by decide))

/-- The last register of the frame, in 32 bits, as a pair, and with packed elements. -/
theorem witness_VectorIntegerLanes : Issues (.vadd (v3g .i8x4 63 0 1)) (at0 diverged) 0 0 diverged
    ∧ wellFormed (.vadd (v3g .i8x4 63 0 1)) = true ∧ diverged.kind ≠ .range ∧ diverged.fflags < 32
    ∧ elemOps (.vadd (v3g .i8x4 63 0 1)) = some (v3g .i8x4 63 0 1, true, true)
    ∧ LaneRun diverged (v3g .i8x4 63 0 1).g (.vadd (v3g .i8x4 63 0 1))
    ∧ Issues (.vmulh (v3g .i64 62 0 2)) (at0 diverged) 0 0 diverged ∧ wellFormed (.vmulh (v3g .i64 62 0 2)) = true
    ∧ Issues (.vclz (v3g .b64 63 62 0)) (at0 diverged) 0 0 diverged
    ∧ elemOps (.vclz (v3g .b64 63 62 0)) = some (v3g .b64 63 62 0, false, true)
    ∧ Issues (.vmad (v3g .i32 5 6 7 8)) (at0 diverged) 0 0 diverged ∧ wellFormed (.vmad (v3g .i32 5 6 7 8)) = true
    ∧ Issues (.vbperm (v3g .b64 6 8 48)) (at0 diverged) 0 0 diverged ∧ wellFormed (.vbperm (v3g .b64 6 8 48)) = true :=
  ⟨by decide, by decide, by decide, by decide, by decide, laneRun_guarded _ _, by and_intros <;> decide⟩

/-- VI operands under the same guard. -/
def vig (t : Ty) (d a : Nat) (x : VImm) (md : RMode := .rn) : VIOp := ⟨⟨false, 1⟩, d, a, x, t, md⟩

theorem witness_VectorImmediateLanes : Issues (.vaddImm (vig .i32 63 0 (.short 0x8000))) (at0 diverged) 0 0 diverged
    ∧ wellFormed (.vaddImm (vig .i32 63 0 (.short 0x8000))) = true
    ∧ (twin (.vaddImm (vig .i32 63 0 (.short 0x8000)))).isSome = true ∧ LaneRun diverged ⟨false, 1⟩ (.vaddImm (vig .i32 63 0 (.short 0x8000)))
    ∧ Issues (.vmovImm (vig .i64 62 0 (.tail 0xFFFFFFFF))) (at0 diverged) 0 0 diverged
    ∧ wellFormed (.vmovImm (vig .i64 62 0 (.tail 0xFFFFFFFF))) = true
    ∧ Issues (.vfaddImm (vig .f32 5 6 (.short 0x3F80) .rz)) (at0 diverged) 0 0 diverged
    ∧ wellFormed (.vfaddImm (vig .f32 5 6 (.short 0x3F80) .rz)) = true
    ∧ (floatTwin (.vfaddImm (vig .f32 5 6 (.short 0x3F80) .rz))).isSome = true
    ∧ Issues (.vfmulImm (vig .f16x2 5 6 (.tail 0x3C003C00))) (at0 diverged) 0 0 diverged
    ∧ wellFormed (.vfmulImm (vig .f16x2 5 6 (.tail 0x3C003C00))) = true :=
  ⟨by decide, by decide, by decide, laneRun_guarded _ _, by and_intros <;> decide⟩

theorem witness_VectorFloatLanes : Issues (.vfma (v3g .f64 62 0 2 4 .rd)) (at0 diverged) 0 0 diverged
    ∧ wellFormed (.vfma (v3g .f64 62 0 2 4 .rd)) = true ∧ diverged.kind ≠ .range ∧ diverged.fflags < 32
    ∧ floatOps (.vfma (v3g .f64 62 0 2 4 .rd)) = some (v3g .f64 62 0 2 4 .rd, true, true)
    ∧ LaneRun diverged ⟨false, 1⟩ (.vfma (v3g .f64 62 0 2 4 .rd))
    ∧ Issues (.vfclass (v3g .f32 63 0 0)) (at0 diverged) 0 0 diverged ∧ wellFormed (.vfclass (v3g .f32 63 0 0)) = true :=
  ⟨by decide, by decide, by decide, by decide, by decide, laneRun_guarded _ _, by and_intros <;> decide⟩

/-- 1.0 and 2.0. -/
theorem decode_one : Fmt.f32.decode 0x3F800000 = .fin false 0x800000 (-23) := by decide
theorem decode_two : Fmt.f32.decode 0x40000000 = .fin false 0x800000 (-22) := by decide
theorem decode_minus_one : Fmt.f32.decode 0xBF800000 = .fin true 0x800000 (-23) := by decide
theorem decode_zero : Fmt.f32.decode 0 = .fin false 0 (-149) := by decide

theorem witness_FloatArithmeticRoundsOnce : Fmt.f32 ≠ .e4m3 ∧ Fmt.f32 ≠ .e5m2 ∧ isFinite (Fmt.f32.decode 0x3F800000) = true
    ∧ isFinite (Fmt.f32.decode 0x40000000) = true
    ∧ valueOf (Fmt.f32.decode 0x3F800000) + valueOf (Fmt.f32.decode 0x40000000) ≠ 0
    ∧ valueOf (Fmt.f32.decode 0x3F800000) * valueOf (Fmt.f32.decode 0x40000000) ≠ 0
    ∧ valueOf (Fmt.f32.decode 0x3F800000) * valueOf (Fmt.f32.decode 0x40000000) + valueOf (Fmt.f32.decode 0x40000000) ≠ 0
    ∧ valueOf (Fmt.f32.decode 0x3F800000) ≠ 0 ∧ valueOf (Fmt.f32.decode 0x40000000) ≠ 0 := by
  rw [decode_one, decode_two]
  refine ⟨by decide, by decide, rfl, rfl, ?_⟩
  norm_num [valueOf]

theorem witness_FloatSpecialCases : (Fmt.f32.decode 0x7F800001).isNan = true ∧ (Fmt.f32.decode 0x7FC00000).isNan = true
    ∧ (Fmt.f32.decode 0).isNan = false ∧ Fmt.f32.decode 0x7F800000 = .inf false ∧ Fmt.f32.decode 0xFF800000 = .inf true
    ∧ isFinite (Fmt.f32.decode 0) = true ∧ valueOf (Fmt.f32.decode 0) = 0
    ∧ isFinite (Fmt.f32.decode 0x3F800000) = true ∧ isFinite (Fmt.f32.decode 0xBF800000) = true
    ∧ valueOf (Fmt.f32.decode 0x3F800000) ≠ 0
    ∧ valueOf (Fmt.f32.decode 0x3F800000) + valueOf (Fmt.f32.decode 0xBF800000) = 0
    ∧ valueOf (Fmt.f32.decode 0x3F800000) < valueOf (Fmt.f32.decode 0x40000000) := by
  rw [decode_one, decode_two, decode_minus_one, decode_zero]
  refine ⟨by decide, by decide, rfl, by decide, by decide, rfl, ?_⟩
  norm_num [valueOf, isFinite]

theorem witness_CompareAndPredicates : Issues (.vicmp ⟨g0, .le, .n64, 23, 0, 62, 0⟩) (at0 group) 0 0 group
    ∧ wellFormed (.vicmp ⟨g0, .le, .n64, 23, 0, 62, 0⟩) = true ∧ group.kind ≠ .range
    ∧ Issues (.vfcmp ⟨g0, .un, .f16, 5, 5, 6, 7⟩) (at0 group) 0 0 group
    ∧ wellFormed (.vfcmp ⟨g0, .un, .f16, 5, 5, 6, 7⟩) = true
    ∧ Issues (.vpand ⟨g0, 0, 1, 2⟩) (at0 diverged) 0 0 diverged ∧ Issues (.vpnot ⟨g0, 5, 1, 0⟩) (at0 diverged) 0 0 diverged
    ∧ Issues (.vsetp ⟨g0, 23, 63, 0⟩) (at0 diverged) 0 0 diverged := by and_intros <;> decide

theorem witness_VectorMoves : Issues (.vmov (v3g .b64 62 0 0)) (at0 diverged) 0 0 diverged ∧ wellFormed (.vmov (v3g .b64 62 0 0)) = true
    ∧ LaneRun diverged ⟨false, 1⟩ (.vmov (v3g .b64 62 0 0))
    ∧ Issues (.vsel (v3g .b32 63 0 1 23)) (at0 diverged) 0 0 diverged ∧ wellFormed (.vsel (v3g .b32 63 0 1 23)) = true
    ∧ Issues (.vbcast (v3g .b64 62 58 0)) (at0 diverged) 0 0 diverged ∧ wellFormed (.vbcast (v3g .b64 62 58 0)) = true :=
  ⟨by decide, by decide, laneRun_guarded _ _, by and_intros <;> decide⟩

theorem witness_Vidx (k : Nat) (e : k < 3) : Issues (.vidx (v3g .b64 62 k 0)) (inGrid diverged) 0 0 diverged
    ∧ wellFormed (.vidx (v3g .b64 62 k 0)) = true ∧ diverged.kind ≠ .range ∧ diverged.team < 2 ^ 48
    ∧ (∀ L < 96, diverged.live.getLsbD L = true → diverged.item L < (inGrid diverged).tsize diverged)
    ∧ diverged.mask &&& diverged.live = diverged.mask := by
  have : k = 0 ∨ k = 1 ∨ k = 2 := by omega
  rcases this with rfl | rfl | rfl <;>
    exact ⟨by decide, by decide, by decide, by decide, by decide +kernel, by decide⟩

/-- Conversion operands under the guard. -/
def cvt (d s : Ty) (b : Nat := 0) : CvtOp := ⟨⟨false, 1⟩, 62, 0, b, d, s, false, false, .rn⟩

theorem witness_VectorConversions :
    (Issues (.vcvt (cvt .i64 .n8)) (at0 diverged) 0 0 diverged ∧ wellFormed (.vcvt (cvt .i64 .n8)) = true
      ∧ intTy .n8 = some (8, false) ∧ intTy .i64 = some (64, true))
    ∧ (Issues (.vcvt (cvt .e4m3 .i64)) (at0 diverged) 0 0 diverged ∧ wellFormed (.vcvt (cvt .e4m3 .i64)) = true
      ∧ intTy .i64 = some (64, true) ∧ intTy .e4m3 = none)
    ∧ (Issues (.vcvt (cvt .n32 .f64)) (at0 diverged) 0 0 diverged ∧ wellFormed (.vcvt (cvt .n32 .f64)) = true
      ∧ intTy .f64 = none ∧ intTy .n32 = some (32, false))
    ∧ (Issues (.vpack (cvt .i16x2 .i32)) (at0 diverged) 0 0 diverged ∧ wellFormed (.vpack (cvt .i16x2 .i32)) = true)
    ∧ (Issues (.vpack (cvt .i8x4 .i16x2)) (at0 diverged) 0 0 diverged ∧ wellFormed (.vpack (cvt .i8x4 .i16x2)) = true)
    ∧ (Issues (.vpack (cvt .bf16x2 .f32)) (at0 diverged) 0 0 diverged ∧ wellFormed (.vpack (cvt .bf16x2 .f32)) = true)
    ∧ (Issues (.vunpack (cvt .i32 .i8x4)) (at0 diverged) 0 0 diverged ∧ wellFormed (.vunpack (cvt .i32 .i8x4)) = true)
    ∧ (Issues (.vunpack (cvt .f32 .f16x2)) (at0 diverged) 0 0 diverged ∧ wellFormed (.vunpack (cvt .f32 .f16x2)) = true)
    ∧ (∀ i, LaneRun diverged (cvt .i32 .i8x4).g i) :=
  ⟨by decide, by decide, by decide, by decide, by decide, by decide, by decide, by decide, laneRun_guarded _⟩

/-- Blocks of the whole group, and of 4 lanes. -/
theorem witness_CrossLane : (∀ n, AMap.getD group.gcodes n 0 < 4)
    ∧ (∀ n, AMap.getD ({ group with gcodes := [(1, 1), (7, 3)] } : Holder).gcodes n 0 < 4)
    ∧ Issues (.vshfl ⟨g0, 62, 0, 1, .b64, false, 7⟩) (at0 group) 0 0 group ∧ wellFormed (.vshfl ⟨g0, 62, 0, 1, .b64, false, 7⟩) = true
    ∧ Issues (.vmatch ⟨g0, 63, 0, 0, .b64, false, 0⟩) (at0 group) 0 0 group ∧ wellFormed (.vmatch ⟨g0, 63, 0, 0, .b64, false, 0⟩) = true
    ∧ Issues (.vred ⟨g0, .min, 62, 0, .i64, 1, .rn⟩) (at0 group) 0 0 group ∧ wellFormed (.vred ⟨g0, .min, 62, 0, .i64, 1, .rn⟩) = true :=
  ⟨fun _ => (by decide : 0 < 4), fun n => by
    simp only [AMap.getD, AMap.find?]
    repeat' split
    all_goals decide, by decide⟩

theorem witness_Votes : group.kind ≠ .range ∧ Issues (.vbal ⟨g0, 57, 23, 0, .b32, false, 0⟩) (at0 group) 0 0 group
    ∧ Issues (.vcnt ⟨g0, 60, 1, 0, .b32, false, 0⟩) (at0 group) 0 0 group
    ∧ Issues (.vany ⟨g0, 23, 1, 0, .b32, false, 7⟩) (at0 group) 0 0 group
    ∧ Issues (.vall ⟨g0, 0, 1, 0, .b32, false, 0⟩) (at0 group) 0 0 group := by and_intros <;> decide

/-- An affine and a uniform register. -/
def affReg : VReg := .aff 7#32 192#32 4#32
theorem witness_LinearFormRows : (formAdd affReg affReg).isSome = true ∧ (formSub affReg (.uni 5#32)).isSome = true
    ∧ (formNeg affReg).isSome = true ∧ (formMul affReg (.uni 3#32)).isSome = true ∧ (formShl affReg (.uni 31#32)).isSome = true
    ∧ (formRot affReg (.uni 32#32)).isSome = true ∧ (formAnd (.aff 0#32 4#32 4#32) (.uni 0xFFFFFFFC#32)).isSome = true
    ∧ (formAndn (.aff 0#32 4#32 4#32) (.uni 3#32)).isSome = true ∧ (formOrXor (· ||| ·) (.aff 0#32 4#32 4#32) (.uni 3#32)).isSome = true
    ∧ (formOrXor (· ^^^ ·) (.aff 0#32 4#32 4#32) (.uni 3#32)).isSome = true := by decide

theorem witness_LinearFormRows_range : Issues (.vadd (v3 .i32 63 0 1)) (at0 range) 0 0 range ∧ range.kind = .range
    ∧ (v3 .i32 63 0 1).g = ⟨false, 0⟩ ∧ (v3 .i32 63 0 1).ty = .i32 ∧ (v3 .i32 63 0 1).bk = false
    ∧ (range.readV 0).coef ≠ none ∧ (range.readV 1).coef ≠ none := by decide

/-- Members 0 to 191 of teams of 96, the first and the last of them; 7 + 4 i is below 1000 at each of them. -/
theorem witness_CornerFormRows : (0 : Nat) < 96 ∧ (0 : Nat) ≤ 0 ∧ (0 : Nat) < 192 ∧ (0 : Nat) ≤ 191 ∧ (191 : Nat) < 192
    ∧ (formShr false (cornersOf 96 0 192) (.aff 0#32 384#32 4#32) (.uni 2#32)).isSome = true
    ∧ (formMinMax false true (cornersOf 96 0 192) (.aff 7#32 384#32 4#32) (.uni 1000#32)).isSome = true
    ∧ (formMinMax true false (cornersOf 96 0 192) (.aff 7#32 384#32 4#32) (.uni 1000#32)).isSome = true
    ∧ (formAbs (cornersOf 96 0 192) (.aff 7#32 384#32 4#32)).isSome = true
    ∧ (formAbsd true (cornersOf 96 0 192) (.aff 7#32 384#32 4#32) (.uni 1000#32)).isSome = true
    ∧ (formSat false true (cornersOf 96 0 192) (.aff 7#32 384#32 4#32) (.uni 1000#32)).isSome = true
    ∧ (formSat true true (cornersOf 96 0 192) (.aff 7#32 384#32 4#32) (.uni 1000#32)).isSome = true := by decide +kernel

/-- The true sets of R186: all, none, the members below a cut, the members from it. -/
theorem witness_CompareTrueSet : formCmp .lt true (cornersOf 96 0 192) (.aff 7#32 384#32 4#32) (.uni 1000#32) = some .all
    ∧ formCmp .gt true (cornersOf 96 0 192) (.aff 7#32 384#32 4#32) (.uni 1000#32) = some TruthSet.none
    ∧ formCmp .lt true (cornersOf 96 0 192) (.aff 0#32 384#32 4#32) (.uni 400#32) = some (.upTo 100)
    ∧ formCmp .ge true (cornersOf 96 0 192) (.aff 0#32 384#32 4#32) (.uni 400#32) = some (.fromOn 100)
    ∧ (192 : Nat) < 2 ^ 60 := by decide +kernel

/-! ### Memory instructions -/

/-- A core with a page mapped at 0x10000 and 4096 bytes of scratchpad for team 0. -/
def labCore (h : Holder) : Core :=
  { l1Banks := 32, spmBanks := 5, slots := [(0, h)], active := [0], tbase := 0x4000
    allocs := [{ grid := 0, team := 0, off := 0x100, size := 0x1000, block := 0 }]
    tlb := [{ asid := 0, va := 0x10000, size := 0x10000, pa := 0x10000, attr := 0xC7D }] }
/-- The holder in slot 0 of that core. -/
def lab (h : Holder) : State :=
  { cores := [(0, labCore h)], cur := some (0, 0), dies := [(0, { online := true, powered := true })]
    grids := [(0, { teams with record := teams.record + 16 * 2 ^ 876 })] }

/-- s2 holds 0x10000, s4 holds 0x40; lanes 0 and 1 are active, with offsets 0 and 4 in v1. -/
def mem2 : Holder :=
  { group with
    sregs := [(2, 0x10000#32), (4, 0x40#32), (6, 0x42#32)], mask := 3#96
    vregs := [(1, .dense ((List.range 96).map (fun L => 4#32 * BitVec.ofNat 32 L)))] }
/-- Lane 0 alone. -/
def mem1 : Holder := { mem2 with mask := 1#96 }
/-- No lane. -/
def mem0 : Holder := { mem2 with mask := 0#96 }

/-- M operands: D 8, base s[a], offset register 1 or none. -/
def mop (e : Elem) (sp : Space) (a : Nat) (k : OffKind) (od : Order := .rlx) (x : Nat := 0) (la : Nat := 0) (d : Nat := 8) : MOp :=
  ⟨g0, la, 0, x, d, a, if k = .vec then 1 else 0, e, sp, .dev, od, k⟩

/-- `MemGoes` from its parts. -/
theorem memGoes_of {s : State} {g q : Nat} {h : Holder} {i : Instr} {o : MOp} {vec writes : Bool}
    (e : decide (Issues i s g q h ∧ wellFormed i = true ∧ h.kind ≠ .range ∧ h.replaying = none
      ∧ memWait s g q h (!vec && o.space == .glob) writes = none ∧ s.farRead g q h i = none
      ∧ (o.space = .reg → h.vecPending = false) ∧ (teamSpace o.space = true → s.needTeam g q h = none)
      ∧ bitN (s.core g).dbg.dbgctl 0 = false ∧ (s.core g).delays q = false) = true) : MemGoes s g q h i o vec writes :=
  by unfold MemGoes; exact of_decide_eq_true e

/-- Lanes 0 and 1 through their window, no lane, a counter, and space 3 inside the frame. -/
theorem witness_LoadsIssue : MemGoes (lab mem2) 0 0 mem2 (.vld (mop .b32 .glob 2 .vec)) (mop .b32 .glob 2 .vec) true false
    ∧ mem2.counterFull 0 0 = false ∧ mem2.activeLanes g0 ≠ 0#96
    ∧ MemGoes (lab mem0) 0 0 mem0 (.vld (mop .b32 .glob 2 .vec)) (mop .b32 .glob 2 .vec) true false ∧ mem0.activeLanes g0 = 0#96
    ∧ MemGoes (lab mem2) 0 0 mem2 (.sld (mop .b64 .glob 2 .non .acq 0 15)) (mop .b64 .glob 2 .non .acq 0 15) false false
    ∧ mem2.counterFull 15 0 = false
    ∧ MemGoes (lab mem2) 0 0 mem2 (.vld (mop .b32 .reg 4 .vec)) (mop .b32 .reg 4 .vec) true false
    ∧ ∀ y ∈ accessesOf mem2 (.vld (mop .b32 .reg 4 .vec)) (mop .b32 .reg 4 .vec) true, mem2.apOk y.2 4 = true :=
  ⟨memGoes_of (by decide +kernel), by decide, by decide, memGoes_of (by decide +kernel), by decide,
    memGoes_of (by decide +kernel), by decide, memGoes_of (by decide +kernel), by decide +kernel⟩

/-- An address in space 3 outside the frame: the trap. -/
theorem witness_LoadsIssue_trap : MemGoes (lab mem2) 0 0 mem2 (.vld (mop .b32 .reg 2 .vec)) (mop .b32 .reg 2 .vec) true false
    ∧ MayTrap (lab mem2) 0 0 mem2
    ∧ ∃ y ∈ accessesOf mem2 (.vld (mop .b32 .reg 2 .vec)) (mop .b32 .reg 2 .vec) true, mem2.apOk y.2 4 = false :=
  ⟨memGoes_of (by decide +kernel), ⟨by decide, by decide, by decide +kernel, by decide⟩, (0, 0x10000), by decide +kernel, by decide +kernel⟩

/-- A resolution to scratchpad bytes that leaves the state as it is. -/
def spmAt (r : Resolve) (s : State) (k o n : Nat) : Bool :=
  match r with
  | .ok (.spm a b c) t => decide (a = k ∧ b = o ∧ c = n ∧ t = s)
  | _ => false
theorem spm_of {r : Resolve} {s : State} {k o n : Nat} (e : spmAt r s k o n = true) : r = .ok (.spm k o n) s := by
  unfold spmAt at e
  split at e
  · have := of_decide_eq_true e
    obtain ⟨rfl, rfl, rfl, rfl⟩ := this
    rfl
  · cases e

/-- A load outstanding at the addresses of its lanes. -/
def loading (h : Holder) (i : Instr) (ls : List LaneAcc) : Holder :=
  { h with ll := [{ idx := 5, instr := i, pc := 0xFFF8, active := h.mask, lanes := ls, window := some 3 }] }

/-- `vld` of two lanes from the scratchpad; the last bytes of the team's 4096. -/
theorem witness_LoadsComplete_spm : ∃ h l place, h = loading mem2 (.vld (mop .b32 .team 4 .vec)) [⟨0, 0, 0, 0⟩, ⟨1, 0xFFC, 0, 0⟩]
    ∧ (lab h).holder? 0 0 = some h ∧ h.long? 5 = some l ∧ l.idx = 5 ∧ loadOf l.instr = some (mop .b32 .team 4 .vec, true)
    ∧ h.kind ≠ .range ∧ l.due ≤ (lab h).clock ∧ l.bad = none ∧ l.vals = [] ∧ l.lanes ≠ [] ∧ h.asking 5 = false ∧ h.readsBefore 5 = false ∧ l.uni = false
    ∧ WordsApart h 8 4 ∧ InScratchpad (lab h) 0 h true .team 4 .load true place (l.lanes.map (·.ea))
    ∧ (l.lanes.map (·.lane)).Nodup ∧ ∀ y ∈ l.lanes, y.lane < 96 := by
  refine ⟨_, _, fun a => (0, 0x100 + a), rfl, rfl, rfl, by decide, by decide, by decide, by decide, by decide, by decide,
    by decide, by decide, by decide, by decide, fun a b x y => by omega, ?_, by decide, by decide⟩
  intro x m
  have : x = 0 ∨ x = 0xFFC := by simpa [loading] using m
  rcases this with rfl | rfl <;> exact spm_of (by decide +kernel)

/-- A resolution to one piece of device memory that leaves the state as it is. -/
def physAt (r : Resolve) (s : State) (p : Seg → Bool) : Bool :=
  match r with
  | .ok (.phys [z]) t => decide (t = s) && p z
  | _ => false
theorem phys_of {r : Resolve} {s : State} {p : Seg → Bool} (e : physAt r s p = true) : ∃ z, r = .ok (.phys [z]) s ∧ p z = true := by
  unfold physAt at e
  split at e
  · rename_i z t
    simp only [Bool.and_eq_true, decide_eq_true_eq] at e
    exact ⟨z, by rw [e.1], e.2⟩
  · cases e

/-- An answer of the homes, and a read, that go through. -/
def cohOk : Coh → Bool
  | .ok _ => true
  | _ => false
theorem coh_of {x : Coh} (e : cohOk x = true) : ∃ s, x = .ok s := by
  cases x <;> simp_all [cohOk]
def readOk (n : Nat) : Perf → Bool
  | .ok bs _ _ _ => decide (bs.length = n)
  | _ => false
theorem read_of {n : Nat} {x : Perf} (e : readOk n x = true) : ∃ bs lo hi s, x = .ok bs lo hi s ∧ bs.length = n := by
  cases x <;> simp_all [readOk]

/-- A single `sld` from device memory, at an address of the mapped page. -/
theorem witness_LoadsComplete_single : ∃ h l y t0 s1, h = loading mem2 (.sld (mop .b64 .glob 2 .non)) [⟨127, 0x10008, 0, 0⟩]
    ∧ (lab h).holder? 0 0 = some h ∧ h.long? 5 = some l ∧ l.instr = .sld (mop .b64 .glob 2 .non) ∧ l.lanes = [y]
    ∧ h.asking 5 = false ∧ h.readsBefore 5 = false ∧ isConstRead (lab h) h ⟨l.instr, mop .b64 .glob 2 .non, false, false, false, false⟩ y.ea = false
    ∧ (lab h).resolve (holderCtx (lab h) 0 h false) .glob y.ea 8 .load true = .ok t0 s1 ∧ t0.isReg s1 = false
    ∧ ∃ bs lo hi s2, s1.readTarget (holderCtx (lab h) 0 h false) t0 = .ok bs lo hi s2 ∧ bs.length = 8 := by
  obtain ⟨z, e, p⟩ := phys_of (r := (lab (loading mem2 (.sld (mop .b64 .glob 2 .non)) [⟨127, 0x10008, 0, 0⟩])).resolve
      (holderCtx (lab (loading mem2 (.sld (mop .b64 .glob 2 .non)) [⟨127, 0x10008, 0, 0⟩])) 0
        (loading mem2 (.sld (mop .b64 .glob 2 .non)) [⟨127, 0x10008, 0, 0⟩]) false) .glob 0x10008 8 .load true)
    (s := lab (loading mem2 (.sld (mop .b64 .glob 2 .non)) [⟨127, 0x10008, 0, 0⟩]))
    (p := fun z => !(Target.phys [z]).isReg (lab (loading mem2 (.sld (mop .b64 .glob 2 .non)) [⟨127, 0x10008, 0, 0⟩]))
      && readOk 8 ((lab (loading mem2 (.sld (mop .b64 .glob 2 .non)) [⟨127, 0x10008, 0, 0⟩])).readTarget
        (holderCtx (lab (loading mem2 (.sld (mop .b64 .glob 2 .non)) [⟨127, 0x10008, 0, 0⟩])) 0
          (loading mem2 (.sld (mop .b64 .glob 2 .non)) [⟨127, 0x10008, 0, 0⟩]) false) (.phys [z]))) (by decide +kernel)
  simp only [Bool.and_eq_true, Bool.not_eq_true'] at p
  exact ⟨_, _, _, _, _, rfl, by decide +kernel, rfl, rfl, rfl, by decide, by decide, by decide +kernel, e, p.1, read_of p.2⟩

/-- A miss-tolerant gather whose pages nothing maps. -/
theorem witness_LoadsComplete_missing : ∃ h l, h = loading mem2 (.vgathMt ⟨g0, 3, 0, 7, 8, 2, 2, .b32, .glob, .dev, .rlx, .vec⟩)
      [⟨0, 0x40000, 0, 0⟩, ⟨1, 0x3FFFE, 0, 0⟩]
    ∧ (lab h).holder? 0 0 = some h ∧ h.long? 5 = some l ∧ loadOf l.instr = some (⟨g0, 3, 0, 7, 8, 2, 2, .b32, .glob, .dev, .rlx, .vec⟩, true)
    ∧ l.uni = false ∧ h.readsBefore 5 = false ∧ WordsApart h 8 4 ∧ l.lanes ≠ []
    ∧ ∀ y ∈ l.lanes, ∀ p ∈ pagesOf y.ea 4, (lab h).tlbLookup (.core 0) h.asid p.1 = none :=
  ⟨_, _, rfl, by decide +kernel, rfl, rfl, rfl, by decide, fun a b x y => by omega, by decide, by decide +kernel⟩

/-- Stores to the scratchpad by two lanes, the last bytes of the partition of the team among them, and by none. -/
theorem witness_StoresPerform_spm : MemGoes (lab mem2) 0 0 mem2 (.vst (mop .b32 .team 4 .vec)) (mop .b32 .team 4 .vec) true true
    ∧ accessesOf mem2 (.vst (mop .b32 .team 4 .vec)) (mop .b32 .team 4 .vec) true = [(0, 0x40), (1, 0x44)]
    ∧ orderRel (mop .b32 .team 4 .vec).order = false ∧ (∀ k, Memory.wf ((lab mem2).core k).spm = true)
    ∧ InScratchpad (lab mem2) 0 mem2 true .team 4 .store true (fun a => (0, 0x100 + a)) [0x40, 0x44]
    ∧ MemGoes (lab mem0) 0 0 mem0 (.vst (mop .b32 .team 4 .vec)) (mop .b32 .team 4 .vec) true true
    ∧ accessesOf mem0 (.vst (mop .b32 .team 4 .vec)) (mop .b32 .team 4 .vec) true = [] := by
  refine ⟨memGoes_of (by decide +kernel), by decide +kernel, rfl, fun k => ?_, ?_, memGoes_of (by decide +kernel), by decide +kernel⟩
  · cases k <;> rfl
  · intro x m
    have : x = 0x40 ∨ x = 0x44 := by simpa using m
    rcases this with rfl | rfl <;> exact spm_of (by decide +kernel)

/-- One lane, to device memory. -/
theorem witness_StoresPerform_memory : MemGoes (lab mem1) 0 0 mem1 (.vst (mop .b32 .glob 2 .vec)) (mop .b32 .glob 2 .vec) true true
    ∧ accessesOf mem1 (.vst (mop .b32 .glob 2 .vec)) (mop .b32 .glob 2 .vec) true = [(0, 0x10000)] ∧ Memory.wf (lab mem1).mem = true
    ∧ ∃ z, (lab mem1).resolve (holderCtx (lab mem1) 0 mem1 true) .glob 0x10000 4 .store true = .ok (.phys [z]) (lab mem1)
      ∧ (decide (z.len = 4) && decide (regionOf (lab mem1) z.pa = .hbm) && decide (pteType z.e.attr = 0)
        && (linesOf z.pa 4).all (fun ln => !(lab mem1).busyLine ln)
        && match ownLines (holderCtx (lab mem1) 0 mem1 true) (linesOf z.pa 4) (lab mem1) with
          | .ok s1 => match ownLines (holderCtx (lab mem1) 0 mem1 true) (linesOf z.pa 4) s1 with
            | .ok s2 => decide (s2 = s1)
            | _ => false
          | _ => false) = true :=
  ⟨memGoes_of (by decide +kernel), by decide +kernel, by decide, phys_of (by decide +kernel)⟩

/-- Space 3, and a release store. -/
theorem witness_StoresPerform_others : MemGoes (lab mem1) 0 0 mem1 (.vst (mop .b32 .reg 4 .vec)) (mop .b32 .reg 4 .vec) true true
    ∧ accessesOf mem1 (.vst (mop .b32 .reg 4 .vec)) (mop .b32 .reg 4 .vec) true = [(0, 0x40)] ∧ mem1.apOk 0x40 4 = true
    ∧ MemGoes (lab mem2) 0 0 mem2 (.vst (mop .b32 .team 4 .vec .rel)) (mop .b32 .team 4 .vec .rel) true true
    ∧ orderRel (mop .b32 .team 4 .vec .rel).order = true ∧ ((lab mem2).core 0).releases.length < 16 :=
  ⟨memGoes_of (by decide +kernel), by decide +kernel, by decide +kernel, memGoes_of (by decide +kernel), rfl, by decide⟩

/-- A misaligned atomic; atomics without a result by no lane and by one; with a result. -/
theorem witness_AtomicsPerform_issue : MemGoes (lab mem2) 0 0 mem2 (.satomAdd (mop .i32 .team 6 .non)) (mop .i32 .team 6 .non) false true
    ∧ mem2.counterFull 0 0 = false ∧ MayTrap (lab mem2) 0 0 mem2
    ∧ accessesOf mem2 (.satomAdd (mop .i32 .team 6 .non)) (mop .i32 .team 6 .non) false = [(127, 0x42)] ∧ 0x42 % 4 ≠ 0
    ∧ MemGoes (lab mem0) 0 0 mem0 (.vatomAdd (mop .i32 .team 4 .vec .rlx 1)) (mop .i32 .team 4 .vec .rlx 1) true true
    ∧ accessesOf mem0 (.vatomAdd (mop .i32 .team 4 .vec .rlx 1)) (mop .i32 .team 4 .vec .rlx 1) true = []
    ∧ MemGoes (lab mem1) 0 0 mem1 (.vatomCas (mop .b64 .team 4 .vec .rlx 1)) (mop .b64 .team 4 .vec .rlx 1) true true
    ∧ accessesOf mem1 (.vatomCas (mop .b64 .team 4 .vec .rlx 1)) (mop .b64 .team 4 .vec .rlx 1) true = [(0, 0x40)] ∧ 0x40 % 8 = 0
    ∧ (∀ k, Memory.wf ((lab mem1).core k).spm = true)
    ∧ InScratchpad (lab mem1) 0 mem1 true .team 8 .atomic (hostAtomicOk .cas .b64) (fun a => (0, 0x100 + a)) [0x40]
    ∧ MemGoes (lab mem2) 0 0 mem2 (.vatomMax (mop .f32 .glob 2 .vec)) (mop .f32 .glob 2 .vec) true true
    ∧ accessesOf mem2 (.vatomMax (mop .f32 .glob 2 .vec)) (mop .f32 .glob 2 .vec) true = [(0, 0x10000), (1, 0x10004)] := by
  refine ⟨memGoes_of (by decide +kernel), by decide, ⟨by decide, by decide, by decide +kernel, by decide⟩, by decide +kernel,
    by decide, memGoes_of (by decide +kernel), by decide +kernel, memGoes_of (by decide +kernel), by decide +kernel, by decide,
    fun k => ?_, ?_, memGoes_of (by decide +kernel), by decide +kernel⟩
  · cases k <;> rfl
  · intro x m
    obtain rfl : x = 0x40 := by simpa using m
    exact spm_of (by decide +kernel)

/-- A compare-and-swap in the scratchpad, outstanding with one lane. -/
theorem witness_AtomicsPerform_complete : ∃ h l y, h = loading mem1 (.vatomCas (mop .b64 .team 4 .vec)) [⟨0, 0x40, 5, 6⟩]
    ∧ (lab h).holder? 0 0 = some h ∧ h.long? 5 = some l ∧ l.instr = .vatomCas (mop .b64 .team 4 .vec) ∧ l.lanes = [y]
    ∧ h.kind ≠ .range ∧ l.due ≤ (lab h).clock ∧ l.bad = none ∧ l.vals = [] ∧ h.asking 5 = false ∧ h.readsBefore 5 = false ∧ atomHeld (lab h) 0 0 l = false
    ∧ y.lane < 96 ∧ WordsApart h 8 8 ∧ y.x < 2 ^ 64 ∧ y.new < 2 ^ 64 ∧ (∀ k, Memory.wf ((lab h).core k).spm = true)
    ∧ InScratchpad (lab h) 0 h true .team 8 .atomic (hostAtomicOk .cas .b64) (fun a => (0, 0x100 + a)) [y.ea]
    -- the place holds 0: a comparand of 5 fails, one of 0 succeeds
    ∧ atomGives .cas .b64 (Memory.readLE ((lab h).core 0).spm 0x140 8) 5 6 = none
    ∧ atomGives .cas .b64 (Memory.readLE ((lab h).core 0).spm 0x140 8) 0 6 = some 6 := by
  refine ⟨_, _, _, rfl, by decide +kernel, rfl, rfl, rfl, by decide, by decide, by decide, by decide, by decide, by decide, by decide, by decide,
    fun a b x y => ?_, by decide, by decide, fun k => ?_, ?_, by decide +kernel, by decide +kernel⟩
  · obtain rfl : b = 1 := by omega
    obtain rfl : a = 0 := by omega
    decide
  · cases k <;> rfl
  · intro x m
    obtain rfl : x = 0x40 := by simpa [loading] using m
    exact spm_of (by decide +kernel)

/-- Line operands. -/
def lop (d : Nat := 0) : LineOp := ⟨g0, d, 2, 0, .non⟩

theorem witness_CacheOperations_pref : Issues (.pref (lop 1)) (lab mem1) 0 0 mem1 ∧ wellFormed (.pref (lop 1)) = true
    ∧ bitN ((lab mem1).core 0).dbg.dbgctl 0 = false ∧ Issues (.pref lop) (lab mem1) 0 0 mem1
    ∧ laneList (mem1.activeLanes lop.g) = [0]
    ∧ ∃ z, (lab mem1).resolve { holderCtx (lab mem1) 0 mem1 true with vector := true } .glob
        (eaOf mem1 (.pref lop) lop.a lop.b lop.kind 0) 1 .load true = .ok (.phys [z]) (lab mem1)
      ∧ (decide (pteType z.e.attr = 0) && decide (regionOf (lab mem1) z.pa ≠ .peer) && !(lab mem1).busyLine (z.pa / 128)
        && decide ((lab mem1).homePoison (z.pa / 128) = none) && !((lab mem1).cluster (cluOf 0)).fused
        && decide (AMap.find? ((lab mem1).core 0).l1 (z.pa / 128) = none)
        && match (lab mem1).transact .rds (.core 0) (z.pa / 128) with
          | .ok s2 => (AMap.find? (s2.core 0).l1 (z.pa / 128)).isSome
          | _ => false) = true :=
  ⟨by decide +kernel, by decide, by decide, by decide +kernel, by decide +kernel, phys_of (by decide +kernel)⟩

/-- A state in which core 0 holds the line in M. -/
def heldLine (h : Holder) : State :=
  match (lab h).transact .rdx (.core 0) (0x10000 / 128) with
  | .ok s => s
  | _ => lab h

theorem witness_CacheOperations_lines : Issues (.cflush lop) (heldLine mem1) 0 0 mem1 ∧ wellFormed (.cinv lop) = true
    ∧ laneList (mem1.activeLanes lop.g) = [0]
    ∧ trapReady (heldLine mem1) 0 0 { mem1 with ext := mem1.ext.filter (fun e => e.size != 0) } = true
    ∧ AMap.sorted ((heldLine mem1).core 0).l1 = true ∧ AMap.sorted (heldLine mem1).backing = true
    ∧ (∃ z, translatePages { holderCtx (heldLine mem1) 0 mem1 true with vector := true } .load
        [(eaOf mem1 (.cflush lop) lop.a lop.b lop.kind 0, 1)] [] (heldLine mem1) = .ok (.phys [z]) (heldLine mem1)
      ∧ (decide (segCheck (heldLine mem1) { holderCtx (heldLine mem1) 0 mem1 true with vector := true } .load true z = none)
        && decide (pteType z.e.attr ≠ 2) && decide ((heldLine mem1).homePoison (z.pa / 128) = none)
        && !(heldLine mem1).busyLine (z.pa / 128) && !isHostLine (heldLine mem1) (z.pa / 128)
        && decide (regionOf (heldLine mem1) z.pa = .hbm) && decide (((heldLine mem1).dirOf (z.pa / 128)).st ≠ .n)
        && decide (((heldLine mem1).dirOf (z.pa / 128)).st ≠ .i)
        && ((heldLine mem1).dirOf (z.pa / 128)).holders.contains (.core 0)) = true)
    ∧ Issues (.cclean lop) (lab mem0) 0 0 mem0 ∧ mem0.activeLanes lop.g = 0#96 :=
  ⟨by decide +kernel, by decide, by decide +kernel, by decide +kernel, by decide +kernel, by decide +kernel,
    phys_of (by decide +kernel), by decide +kernel, by decide⟩

theorem witness_FencesEnterTheOrder : Issues (.fence .acq .dev) (at0 group) 0 0 group ∧ wellFormed (.fence .acq .dev) = true
    ∧ group.replaying = none ∧ ((at0 group).core 0).taster.length < 1024 ∧ ((at0 group).core 0).releases.length < 16
    ∧ (∀ e ∈ group.ext, e.size ≠ 0) ∧ orderRel .acq = false ∧ (orderAcq .acq = true → group.ll = [] ∧ group.ext = [])
    ∧ Issues (.fence .ar .pod) (at0 group) 0 0 group ∧ orderRel .ar = true ∧ Issues .fencex (at0 range) 0 0 range
    ∧ wellFormed .fencex = true := by decide

/-- The team's barrier 15 at expected 4 with 3 arrivals, in phase 2^32 − 1; barrier 0 is off. -/
def barred (h : Holder) : State :=
  (lab h).updCore 0 (fun c => { c with barriers := [(15, { e := 4, arrived := 3, p := 2 ^ 32 - 1 })] })

theorem witness_BarriersCountArrivals : group.replaying = none ∧ (barred group).needTeam 0 0 group = none
    ∧ (barred group).barrierOf 0 group 15 = (0, 15) ∧ Issues (.bari 4 15) (barred group) 0 0 group
    ∧ Issues (.bara 5 15) (barred group) 0 0 group ∧ Issues (.barx 60 15) (barred group) 0 0 group
    ∧ ((barred group).core 0).releases.length < 16 ∧ ((barred group).core 0).taster.length < 1024 := by decide +kernel

/-- A phase that has passed, one that has not, and an object that is off. -/
theorem witness_BarriersCountArrivals_barw : ∃ h, Issues (.barw 4 15) (barred h) 0 0 h
    ∧ (1 ≤ (2 ^ 32 - 1 + 2 ^ 32 - (h.readS 4).toNat) % 2 ^ 32 ∧ (2 ^ 32 - 1 + 2 ^ 32 - (h.readS 4).toNat) % 2 ^ 32 < 2 ^ 31)
    ∧ Issues (.barw 5 15) (barred h) 0 0 h ∧ (h.readS 5).toNat = 2 ^ 32 - 1
    ∧ Issues (.barw 4 0) (barred h) 0 0 h ∧ (AMap.getD ((barred h).core 0).barriers 0 {}).e = 0 :=
  ⟨{ group with sregs := [(4, 0xFFFFFFFE#32), (5, 0xFFFFFFFF#32)] }, by decide +kernel⟩

/-- The arrival that completes the phase, one that does not, and one at an object that is off. -/
theorem witness_BarriersCountArrivals_count : ∃ s a rest h0, ((s : State).core 0).arrivals = a :: rest ∧ s.holder? 0 a.slot = some h0
    ∧ a.dest < 61 ∧ (AMap.getD (s.core a.home).barriers a.obj {}).e ≠ 0
    ∧ (AMap.getD (s.core a.home).barriers a.obj {}).arrived + a.n = (AMap.getD (s.core a.home).barriers a.obj {}).e
    ∧ ∃ s2 b, ((s2 : State).core 0).arrivals = b :: rest ∧ s2.holder? 0 b.slot = some h0
      ∧ (AMap.getD (s2.core b.home).barriers b.obj {}).arrived + b.n < (AMap.getD (s2.core b.home).barriers b.obj {}).e
      ∧ ∃ s3 x, ((s3 : State).core 0).arrivals = x :: rest ∧ s3.holder? 0 x.slot = some h0
        ∧ (AMap.getD (s3.core x.home).barriers x.obj {}).e = 0 :=
  ⟨(barred group).updCore 0 (fun c => { c with arrivals := [⟨0, 0, 15, 1, 0, 60, 0⟩] }), _, [], _, rfl, rfl, by decide,
    by decide, by decide, (barred group).updCore 0 (fun c => { c with
      arrivals := [⟨0, 0, 14, 1, 0, 60, 0⟩], barriers := [(14, { e := 4 })] }), _, rfl, rfl, by decide,
    (barred group).updCore 0 (fun c => { c with arrivals := [⟨0, 0, 14, 1, 0, 60, 0⟩] }), _, rfl, rfl, by decide⟩

/-- A holder with one closed batch whose command lives. -/
def batched : Holder := { group with batchCount := 1, batches := [(1, [7])], sregs := [(4, 1#32)] }
/-- The command of that batch. -/
def batchState : State := { at0 batched with commands := [(7, { body := .cpyl 0 0 .glob .glob 1 })] }

theorem witness_QueuesAndEventWaits_batches : Issues (.bclose 60) (at0 group) 0 0 group ∧ ((at0 group).openBatches group).length < 256
    ∧ Issues (.bwait 0) (at0 group) 0 0 group ∧ (at0 group).batchPast group (group.readS 0).toNat = true
    ∧ Issues (.bwait 4) batchState 0 0 batched ∧ batchState.batchPast batched (batched.readS 4).toNat = false := by decide

/-- Tables at 0x100000 that map the first 2 MiB of address space 0 onto themselves: the context entry, three tables, a
2 MiB leaf (R45 to R47). -/
def pages : Memory :=
  [(0x100000, 0x101001), (0x101000, 0x102001), (0x102000, 0x103001), (0x103000, 0x104001), (0x104000, 0xC7A)].foldl
    (fun m (p : Nat × Nat) => Memory.writeLE m p.1 8 p.2) []
/-- Queue 3 is on for address space 0; queue 5 is off. -/
def queued (h : Holder) : State :=
  { lab h with
    mem := pages
    ctl := { atbase := 0x100000, wqs := [(3, { base := 0x10000, size := 1, enable := true })] } }
/-- Names queue 3 in s5 and address 0x40 in s4. -/
def pusher : Holder := { group with sregs := [(4, 0x40#32), (5, 3#32)] }

theorem witness_QueuesAndEventWaits_send : Issues (.wqpush ⟨6, 4, 0, 5, .team, .non⟩) (queued pusher) 0 0 pusher
    ∧ wellFormed (.wqpush ⟨6, 4, 0, 5, .team, .non⟩) = true ∧ Issues (.wqpop ⟨6, 4, 0, 5, .team, .non⟩) (queued pusher) 0 0 pusher
    ∧ ((queued pusher).core 0).taster = [] ∧ (queued pusher).needTeam 0 0 pusher = none ∧ trapReady (queued pusher) 0 0 pusher = true
    ∧ (((queued pusher).core 0).floor 0).contain = 0 ∧ (((queued pusher).core 0).floor 0).covered = []
    ∧ (∀ d < 9, AMap.find? ((queued pusher).die d).quarantined 0 = none)
    ∧ (((queued pusher).die (dieOf 0)).checker 1 (0 % 32)).peers = [] ∧ bitN ((queued pusher).core 0).dbg.dbgctl 0 = false
    ∧ (pusher.readS 5).toNat % 256 = 3 ∧ ((queued pusher).wq 3).enable = true ∧ ((queued pusher).wq 3).asid = pusher.asid
    ∧ (queued pusher).teamAlloc 0 pusher.grid (pusher.teamOf ((queued pusher).tsize pusher))
      = some (0, { grid := 0, team := 0, off := 0x100, size := 0x1000, block := 0 })
    ∧ 0x40 + 16 ≤ 0x1000 := by decide +kernel

/-- A request at the unit. -/
def request (pop : Bool) (w : Nat) : WqArrival := ⟨0, 0, pop, w, leBytes 16 7, 0x40, .team, 6⟩
/-- The unit with that request, and its queue with `n` records. -/
def unit (pop : Bool) (w n : Nat) : State :=
  (queued pusher).updCtl (fun c => { c with
    wqArrivals := [request pop w], wqs := [(3, { base := 0x10000, size := 1, enable := true, tail := n })] })
/-- An answer of the control die that goes through. -/
def ctlOk (p : State → Bool) : CtlAcc → Bool
  | .ok s _ => p s
  | _ => false
theorem ctl_of {p : State → Bool} {x : CtlAcc} (e : ctlOk p x = true) : ∃ s bs, x = .ok s bs ∧ p s = true := by
  cases x <;> simp_all [ctlOk]

/-- A queue that is off; a full one; a push that fits; an empty one. -/
theorem witness_QueuesAndEventWaits_unit : (unit false 5 0).ctl.wqArrivals = [request false 5]
    ∧ (unit false 5 0).holder? 0 0 = some pusher ∧ pusher.replaying = none ∧ ((unit false 5 0).wq 5).enable = false
    ∧ ((unit false 3 2).wq 3).count = ((unit false 3 2).wq 3).cap ∧ ((unit false 3 2).wq 3).enable = true
    ∧ ((unit false 3 1).wq 3).count ≠ ((unit false 3 1).wq 3).cap ∧ ((unit false 3 1).wq 3).sleepers = []
    ∧ (∃ s1 bs, ((unit false 3 1).updCtl (fun c => { c with wqArrivals := [] })).ctlWrite 0 (0x10000 + 1 % 2 ^ 1 * (16 * 2 ^ 0))
        (leBytes 16 7) = .ok s1 bs ∧ (decide (s1.wq 3 = (unit false 3 1).wq 3) && decide (s1.holder? 0 0 = some pusher)) = true)
    ∧ ((unit true 3 0).wq 3).count = 0 ∧ (request true 3).pop = true :=
  ⟨by decide +kernel, by decide +kernel, by decide, by decide +kernel, by decide +kernel, by decide +kernel, by decide +kernel,
    by decide +kernel, ctl_of (by decide +kernel), by decide +kernel, by decide⟩

/-- `evwait` on a word that differs from D, and on one that does not. -/
theorem witness_QueuesAndEventWaits_event : ∃ o1 o2, Issues (.evwait o1) (lab pusher) 0 0 pusher ∧ wellFormed (.evwait o1) = true
    ∧ o1.space = .team ∧ o1.d = 5 ∧ memWait (lab pusher) 0 0 pusher false false = none
    ∧ (lab pusher).farRead 0 0 pusher (.evwait o1) = none ∧ pusher.readsBefore pusher.nextIdx = false ∧ (lab pusher).needTeam 0 0 pusher = none
    ∧ pusher.ext = [] ∧ bitN ((lab pusher).core 0).dbg.dbgctl 0 = false
    ∧ Memory.readLE ((lab pusher).core 0).spm 0x140 4 ≠ pusher.readW false o1.d
    ∧ Issues (.evwait o2) (lab pusher) 0 0 pusher ∧ wellFormed (.evwait o2) = true
    ∧ Memory.readLE ((lab pusher).core 0).spm 0x140 8 = pusher.readW true o2.d ∧ o2.d + 2 ≤ 61 :=
  ⟨⟨5, 4, 0, 0, .b32, .team, .dev, .acq, .non⟩, ⟨58, 4, 0, 4, .b64, .team, .dev, .rlx, .non⟩, by decide +kernel⟩

/-! ### Accumulators, shapes, commands -/

/-- A tile of 16 columns. -/
def tile16 : Tile := { core := 0, slot := 0, name := 3, cols := 16, elems := [(0, 5)] }
/-- a3 in a state on tile 0; s10 and s12 are 0, s14 holds 0x10000, v2 and v3 give 0x10000. -/
def accHolder (st : Nat) : Holder :=
  { group with accs := [(3, ⟨st, 0⟩)], sregs := [(14, 0x10000#32)], vregs := [(2, .uni 0x10000#32)], mask := 1#96 }
/-- The cluster with the tile, its passes and its units. -/
def accLab (st passes : Nat) (units : AMap Nat := []) : State :=
  { lab (accHolder st) with clusters := [(0, { powered := true, tiles := [(0, { tile16 with passes := passes })], nextTile := 1, units := units })] }

theorem witness_Accumulator_traps : Issues (.mrel g0 7) (accLab 1 0) 0 0 (accHolder 1) ∧ wellFormed (.mrel g0 7) = true
    ∧ (accHolder 1).activeLanes g0 ≠ 0#96 ∧ MayTrap (accLab 1 0) 0 0 (accHolder 1) ∧ ((accHolder 1).acc 7).state ≠ 1 :=
  ⟨by decide +kernel, by decide, by decide, ⟨by decide, by decide +kernel, by decide +kernel, by decide⟩, by decide⟩

/-- Unbound with the units there, and without; with the engine, with and without a pass. -/
theorem witness_Accumulator_macq : AccGoes (accLab 1 0) 0 0 (accHolder 1) (.macq g0 7 7) g0 ∧ ((accHolder 1).acc 7).state = 0
    ∧ 8 ≤ ((accLab 1 0).cluster (cluOf 0)).freeUnits
    ∧ ((accLab 1 0 ((List.range 675).map fun u => (u, 0))).cluster (cluOf 0)).freeUnits < 8
    ∧ AccGoes (accLab 2 0) 0 0 (accHolder 2) (.macq g0 3 0) g0 ∧ ((accHolder 2).acc 3).state = 2
    ∧ (accLab 2 0).tile? (cluOf 0) 0 = some tile16 ∧ tile16.poison = 0 ∧ tile16.payload = 0 ∧ tile16.passes = 0
    ∧ (accLab 2 1).tile? (cluOf 0) 0 = some { tile16 with passes := 1 } :=
  ⟨⟨by decide +kernel, by decide, by decide, by decide, by decide⟩, by decide, by decide +kernel, by decide +kernel,
    ⟨by decide +kernel, by decide, by decide, by decide, by decide⟩, by decide +kernel⟩

theorem witness_Accumulator_bound : AccGoes (accLab 1 0) 0 0 (accHolder 1) (.mrel g0 3) g0
    ∧ AccGoes (accLab 1 0) 0 0 (accHolder 1) (.mrelF g0 3) g0 ∧ bitN ((accLab 1 0).cluster (cluOf 0)).eng.ectl 1 = false
    ∧ AMap.sorted ((accLab 1 0).cluster (cluOf 0)).tiles = true ∧ AMap.sorted (accHolder 1).accs = true
    ∧ AccGoes (accLab 1 0) 0 0 (accHolder 1) (.mzero g0 3) g0 ∧ AMap.sorted tile16.elems = true
    ∧ AccGoes (accLab 1 0) 0 0 (accHolder 1) (.mwr g0 3 8 12 3) g0 ∧ ((accHolder 1).readS 12).toNat % 128 + 2 ^ 3 ≤ tile16.cols
    ∧ AccGoes (accLab 1 0) 0 0 (accHolder 1) (.mrd g0 15 5 8 3 12 3) g0 ∧ (accHolder 1).counterFull 15 5 = false :=
  ⟨⟨by decide +kernel, by decide, by decide, by decide, by decide⟩, ⟨by decide +kernel, by decide, by decide, by decide, by decide⟩,
    by decide +kernel, by decide +kernel, by decide, ⟨by decide +kernel, by decide, by decide, by decide, by decide⟩, by decide,
    ⟨by decide +kernel, by decide, by decide, by decide, by decide⟩, by decide,
    ⟨by decide +kernel, by decide, by decide, by decide, by decide⟩, by decide⟩

theorem witness_Accumulator_elems (m n : Nat) : tileElem tile16 m n < 2 ^ 32 := by
  simp only [tileElem, tile16, AMap.getD, AMap.find?]
  repeat' split
  all_goals decide

theorem witness_Accumulator_complete : ∃ h l, (at0 h).holder? 0 0 = some h ∧ h.long? 5 = some l ∧ l.idx = 5
    ∧ l.instr = .mrd g0 0 0 8 3 12 1 ∧ l.due ≤ (at0 h).clock ∧ l.bad = none ∧ l.vals ≠ [] ∧ (l.vals.map (·.1)).Nodup
    ∧ ∀ j k, j < k → k < 2 ^ 1 → h.vkey (8 + j) ≠ h.vkey (8 + k) :=
  ⟨{ group with ll := [{ idx := 5, instr := .mrd g0 0 0 8 3 12 1, pc := 0, active := 1#96, vals := [(0, 2 ^ 32 + 5)] }] }, _, by decide,
    rfl, rfl, rfl, by decide, by decide, by decide, by decide, fun j k a b => by
      obtain rfl : k = 1 := by omega
      obtain rfl : j = 0 := by omega
      decide⟩

/-- Checks of `mmul` that go through. -/
def mmulOk {α : Type} (p : State → α → Bool) : MmulCheck α → Bool
  | .ok s x => p s x
  | _ => false
theorem mmul_of {α : Type} {p : State → α → Bool} {x : MmulCheck α} (e : mmulOk p x = true) : ∃ s y, x = .ok s y ∧ p s y = true := by
  cases x <;> simp_all [mmulOk]

theorem witness_Mmul : AccGoes (accLab 2 0) 0 0 (accHolder 2) (.mmul g0 3 10 12 2 4 0 false) g0 ∧ ((accHolder 2).acc 3).state = 2
    ∧ (accLab 2 0).fencexPending 0 0 = false ∧ ((accHolder 2).readS 10).toNat < 2 ^ 20 ∧ ((accHolder 2).readS 10).toNat % 16 = 0
    ∧ ((accHolder 2).readS 12).toNat % 2 ^ 12 % 16 = 0 ∧ ((accHolder 2).readS 12).toNat / 2 ^ 12 % 2 ^ 16 % 16 = 0 ∧ fbOk (AMap.getD (accHolder 2).shapes 0 0) = true
    ∧ (accLab 2 0).needTeam 0 0 (accHolder 2) = none ∧ ((accLab 2 0).core 0).taster.length < 1024
    ∧ ∃ s1 os, checkOctets 0 (accHolder 2) ((accHolder 2).activeLanes g0) (AMap.getD (accHolder 2).shapes 0 0) 2 4
        (octets ((accHolder 2).activeLanes g0)) [] (accLab 2 0) = .ok s1 os
      ∧ (decide ((s1.cluster (cluOf 0)).table.length + (octetKeys os).length ≤ 64)
        && mmulOk (fun _ _ => true) (readRows 0 (accHolder 2) (AMap.getD (accHolder 2).shapes 0 0) ((accHolder 2).readS 10).toNat
          ((accHolder 2).readS 12).toNat (laneList ((accHolder 2).activeLanes g0)) { s := s1 })) = true :=
  ⟨⟨by decide +kernel, by decide, by decide, by decide, by decide⟩, by decide, by decide +kernel, by decide, by decide, by decide,
    by decide, by decide +kernel, by decide +kernel, by decide, mmul_of (by decide +kernel)⟩

/-- An entry of the reservation table; 64 of them fill it. -/
def fullTable : State :=
  (accLab 2 0).updCluster 0 (fun c => { c with table := List.replicate 64 {
      id := 0, core := 0, slot := 1, grid := 0, team := 0, tile := 1, asid := 0, b := 0, i := 0, fb := 0, prio := 0
      born := 0, rows := 1#96, bsegs := [], ssegs := [], zero := false } })

theorem witness_Mmul_others : Issues (.mmul ⟨true, 0⟩ 3 10 12 2 4 0 false) (accLab 2 0) 0 0 (accHolder 2)
    ∧ (accHolder 2).activeLanes ⟨true, 0⟩ = 0#96 ∧ ((accHolder 2).acc 3).state = 2
    ∧ Issues (.mmul ⟨true, 0⟩ 3 10 12 2 4 0 false) (accLab 1 0) 0 0 (accHolder 1) ∧ ((accHolder 1).acc 3).state ≠ 2
    ∧ ∃ s1 os, checkOctets 0 (accHolder 2) ((accHolder 2).activeLanes g0) (AMap.getD (accHolder 2).shapes 0 0) 2 4
        (octets ((accHolder 2).activeLanes g0)) [] fullTable = .ok s1 os
      ∧ decide (64 < (s1.cluster (cluOf 0)).table.length + (octetKeys os).length) = true :=
  ⟨by decide +kernel, by decide, by decide, by decide +kernel, by decide, mmul_of (by decide +kernel)⟩

/-- Rows of a tile: s6 holds the pitch, s4 the base of the scratchpad rows. -/
def rowHolder : Holder := { accHolder 1 with mask := 3#96, sregs := [(4, 0x40#32), (6, 64#32), (14, 0x10000#32)] }
/-- The cluster with the tile. -/
def rowLab : State := { lab rowHolder with clusters := [(0, { powered := true, tiles := [(0, tile16)], nextTile := 1 })] }

theorem witness_MldMst : AccGoes rowLab 0 0 rowHolder (.mld g0 14 0 3 14 6 .glob .dev) g0 ∧ (rowHolder.acc 3).state = 1
    ∧ memWait rowLab 0 0 rowHolder false false = none ∧ rowLab.farRead 0 0 rowHolder (.mld g0 14 0 3 14 6 .glob .dev) = none
    ∧ rowHolder.counterFull 14 0 = false
    ∧ AccGoes rowLab 0 0 rowHolder (.mst g0 3 4 6 .team .dev) g0 ∧ rowLab.tile? (cluOf 0) (rowHolder.acc 3).tile = some tile16
    ∧ memWait rowLab 0 0 rowHolder false true = none ∧ rowLab.needTeam 0 0 rowHolder = none
    ∧ (∀ k, Memory.wf (rowLab.core k).spm = true)
    ∧ (laneList (rowHolder.activeLanes g0)).map (fun L => rowAddress rowHolder 4 6 L) = [0x40, 0x80]
    ∧ InScratchpad rowLab 0 rowHolder true .team (4 * tile16.cols) .store true (fun a => (0, 0x100 + a)) [0x40, 0x80]
    ∧ ∀ k a, ¬(covers (0, 0x140) (4 * tile16.cols) k a ∧ covers (0, 0x180) (4 * tile16.cols) k a) := by
  refine ⟨⟨by decide +kernel, by decide, by decide, by decide, by decide⟩, by decide, by decide +kernel, by decide +kernel, by decide,
    ⟨by decide +kernel, by decide, by decide, by decide, by decide⟩, by decide +kernel, by decide +kernel, by decide +kernel,
    fun k => ?_, by decide +kernel, ?_, ?_⟩
  · cases k <;> rfl
  · intro x m
    have : x = 0x40 ∨ x = 0x80 := by simpa using m
    rcases this with rfl | rfl <;> exact spm_of (by decide +kernel)
  · simp only [covers, tile16]
    omega

/-- A shape record with its highest word set; the 64 bytes at the end of the scratchpad of the team. -/
def shaped : Holder := { mem1 with shapes := [(15, 7 * 2 ^ 448)], sregs := [(2, 0x10000#32), (4, 0xFC0#32)] }

theorem witness_Shapes : Issues (.hset 15 4 7) (lab shaped) 0 0 shaped ∧ shaped.replaying = none ∧ AMap.getD shaped.shapes 15 0 < 2 ^ 512
    ∧ Issues (.hget 58 15 7) (lab shaped) 0 0 shaped ∧ Issues (.hst 15 4 .team) (lab shaped) 0 0 shaped
    ∧ memWait (lab shaped) 0 0 shaped false true = none ∧ (lab shaped).needTeam 0 0 shaped = none ∧ shaped.kind ≠ .range
    ∧ ((lab shaped).core 0).delays 0 = false ∧ pairOf shaped 4 = 0xFC0
    ∧ InScratchpad (lab shaped) 0 shaped true .team 64 .store true (fun a => (0, 0x100 + a)) [0xFC0]
    ∧ Issues (.hld 15 5 0 2 .glob) (lab shaped) 0 0 shaped ∧ memWait (lab shaped) 0 0 shaped false false = none
    ∧ (lab shaped).farRead 0 0 shaped (.hld 15 5 0 2 .glob) = none
    ∧ shaped.counterFull 15 5 = false ∧ (∀ k, Memory.wf ((lab shaped).core k).spm = true) := by
  refine ⟨by decide +kernel, by decide, by decide +kernel, by decide +kernel, by decide +kernel, by decide +kernel, by decide +kernel,
    by decide, by decide, by decide, ?_, by decide +kernel, by decide +kernel, by decide +kernel, by decide, fun k => ?_⟩
  · intro x m
    obtain rfl : x = 0xFC0 := by simpa using m
    exact spm_of (by decide +kernel)
  · cases k <;> rfl

theorem witness_Shapes_complete : ∃ h l, h = loading mem1 (.hld 3 0 0 4 .team) [⟨127, 0xFC0, 0, 0⟩] ∧ (lab h).holder? 0 0 = some h
    ∧ h.long? 5 = some l ∧ l.instr = .hld 3 0 0 4 .team ∧ l.due ≤ (lab h).clock ∧ l.bad = none ∧ l.vals = []
    ∧ l.lanes = [⟨127, 0xFC0, 0, 0⟩] ∧ h.asking 5 = false ∧ h.readsBefore 5 = false
    ∧ InScratchpad (lab h) 0 h true .team 64 .load true (fun a => (0, 0x100 + a)) [0xFC0] := by
  refine ⟨_, _, rfl, by decide +kernel, rfl, rfl, by decide, by decide, by decide, rfl, by decide, by decide, ?_⟩
  intro x m
  obtain rfl : x = 0xFC0 := by simpa using m
  exact spm_of (by decide +kernel)

/-! ### Commands and futures -/

/-- Source 0x10000, destination 0x10100, 0x40 bytes, in s2, s4 and s6; a counter at 0x10200 in s8; 2^40 bytes in s10. -/
def copier : Holder :=
  { group with sregs := [(2, 0x10000#32), (4, 0x10100#32), (6, 0x40#32), (8, 0x10200#32), (11, 0x100#32)] }
/-- `cpyl`. -/
def cpylOp (len : Nat) (cnt : Option Nat) (gd : Guard := g0) : CmdOp := ⟨gd, 12, 2, 4, len, 15, cnt⟩
/-- Sixty-four tagged registers but s12. -/
def tagged64 : Holder := { copier with tags := (List.range 64).map fun n => (n + 100, n) }
/-- n live commands in queue 15 of the team. -/
def live (n : Nat) (h : Holder) : State :=
  { lab h with
    commands := (List.range n).map fun k => (k, { body := .cpyl 0 0 .glob .glob 1, queue := 15, engine := 256 })
    grids := [(0, { teams with record := teams.record + 16 * 2 ^ 876, queueLog := [(queueKey 0 15, List.range n)] })]
    nextCommand := n }
/-- Whether 64 registers are tagged and d is not. -/
theorem tagsFull_iff (h : Holder) (d : Nat) : TagsFull h d ↔ (decide (64 ≤ h.tags.length) && !AMap.has h.tags d) = true := by
  simp [TagsFull]

theorem witness_Commands : (commandOf copier 0 (.cpyl (cpylOp 6 none) .glob .glob)).isSome = true
    ∧ Issues (.cpyl (cpylOp 6 none ⟨true, 0⟩) .glob .glob) (live 0 copier) 0 0 copier ∧ copier.activeLanes ⟨true, 0⟩ = 0#96
    ∧ GroupGoes (live 0 copier) 0 0 copier (.cpyl (cpylOp 10 none) .glob .glob) g0
    ∧ (commandOf copier 0 (.cpyl (cpylOp 10 none) .glob .glob)).map (·.2.1) = some none ∧ MayTrap (live 0 copier) 0 0 copier
    ∧ GroupGoes (live 0 tagged64) 0 0 tagged64 (.cpyl (cpylOp 6 none) .glob .glob) g0 ∧ (live 0 tagged64).needTeam 0 0 tagged64 = none
    ∧ TagsFull tagged64 12 ∧ ((commandOf tagged64 0 (.cpyl (cpylOp 6 none) .glob .glob)).bind (·.2.1)).isSome = true
    ∧ GroupGoes (live 64 copier) 0 0 copier (.cpyl (cpylOp 6 none) .glob .glob) g0 ∧ (live 64 copier).needTeam 0 0 copier = none
    ∧ ¬TagsFull copier 12 ∧ 64 ≤ ((live 64 copier).queueLive 0 0 15).length := by
  refine ⟨by decide, by decide +kernel, by decide, ⟨by decide +kernel, by decide, by decide, by decide, by decide⟩, by decide +kernel,
    ⟨by decide, by decide +kernel, by decide +kernel, by decide⟩, ⟨by decide +kernel, by decide, by decide, by decide, by decide⟩,
    by decide +kernel, (tagsFull_iff _ _).2 (by decide), by decide +kernel, ⟨by decide +kernel, by decide, by decide, by decide, by decide⟩,
    by decide +kernel, fun e => absurd ((tagsFull_iff _ _).1 e) (by decide), by decide +kernel⟩

/-- An address of a counter. -/
def counterOk : Counter → Bool
  | .at_ _ _ _ => true
  | _ => false
theorem counter_of {x : Counter} (e : counterOk x = true) : ∃ s pa attr, x = .at_ s pa attr := by
  cases x <;> simp_all [counterOk]

/-- 63 live commands in the queue; without and with a counter. -/
theorem witness_Commands_enter : GroupGoes (live 63 copier) 0 0 copier (.cpyl (cpylOp 6 (some 8)) .glob .glob) g0
    ∧ ((commandOf copier 0 (.cpyl (cpylOp 6 (some 8)) .glob .glob)).bind (·.2.1)).isSome = true
    ∧ (live 63 copier).needTeam 0 0 copier = none ∧ ¬TagsFull copier 12 ∧ ((live 63 copier).queueLive 0 0 15).length = 63
    ∧ ((live 63 copier).commands.filter (fun p => p.2.engine == 256 + cluOf 0)).length < 16128
    ∧ ∃ s1 pa attr, counterAt (live 63 copier) 0 copier (some 8) = .at_ s1 pa attr :=
  ⟨⟨by decide +kernel, by decide, by decide, by decide, by decide⟩, by decide +kernel, by decide +kernel,
    fun e => absurd ((tagsFull_iff _ _).1 e) (by decide), by decide +kernel,
    by decide +kernel, counter_of (by decide +kernel)⟩

theorem witness_Qfence : Issues (.qfence 3 0x8000) (lab group) 0 0 group ∧ (lab group).needTeam 0 0 group = none
    ∧ (AMap.find? (lab group).grids group.grid).isSome = true := by decide +kernel

/-- A command of queue 0 in cluster 0, and the package with it alone. -/
def cmd (b : CmdBody) (st : CmdState) : Command := { body := b, st := st, engine := 256, fut := some 9, reported := true }
def withCmd (c : Command) : State := { lab mem1 with commands := [(7, c)] }

theorem witness_EngineCommandsRun_start : ∃ c : Command, AMap.find? (withCmd c).commands 7 = some c ∧ AMap.sorted (withCmd c).commands = true
    ∧ c.st = .queued ∧ c.mayStart (withCmd c) = true ∧ ((withCmd c).engineOf c).stopped = false ∧ c.saved = false
    ∧ (withCmd c).dieHalted c.engineDie = false ∧ (withCmd c).stopsAt c false = false ∧ ∀ o b k n m, c.body ≠ .coll o b k n m :=
  ⟨cmd (.cpyl 0 0 .glob .glob 1) .queued, by decide, by decide, by decide, by decide +kernel, by decide +kernel, by decide, by decide,
    by decide +kernel, fun _ _ _ _ _ => by simp [cmd]⟩

/-- One that waits for itself, one that has moved everything, one that is cancelled, one suspended in its holder's hands. -/
theorem witness_EngineCommandsRun_others :
    (∃ c : Command, c.st = .queued ∧ c.mayStart (withCmd c) = false)
    ∧ (∃ c : Command, c.body = .cpyl 0 0 .glob .glob 4 ∧ c.st = .running ∧ c.cancel = false ∧ c.asked = false ∧ c.saved = false ∧ 4 ≤ c.pos
      ∧ c.cnt = none ∧ c.fut = some 9 ∧ c.packet = none ∧ bitN ((withCmd c).engineOf c).ectl 0 = false
      ∧ (withCmd c).dieHalted c.engineDie = false)
    ∧ (∃ c : Command, c.st = .running ∧ c.cancel = true ∧ c.asked = false ∧ c.cnt = none ∧ c.fut = some 9 ∧ c.packet = none
      ∧ bitN ((withCmd c).engineOf c).ectl 0 = false)
    ∧ ∃ (s : State) (c : Command), AMap.find? s.commands 7 = some c ∧ c.st = .suspended ∧ s.cmdOwned 7 = true :=
  ⟨⟨{ cmd (.cpyl 0 0 .glob .glob 1) .queued with deps := [7] }, by decide, by decide +kernel⟩,
    ⟨{ cmd (.cpyl 0 0 .glob .glob 4) .running with pos := 4 }, by decide +kernel⟩,
    ⟨{ cmd (.cpyl 0 0 .glob .glob 4) .running with cancel := true }, by decide +kernel⟩,
    { lab { mem1 with cmds := [7] } with commands := [(7, cmd (.cpyl 0 0 .glob .glob 4) .suspended)] }, _, rfl, rfl, by decide +kernel⟩

/-- Within the scratchpad of the team: 64 bytes from 0x40 to 0xF80. -/
theorem witness_EngineCommandsRun_move : ∃ c : Command, c = cmd (.cpyl 0x40 0xF80 .team .team 64) .running ∧ c.pos < 64 ∧ c.got = none
    ∧ c.reported = true ∧ c.old = [] ∧ Memory.wf ((withCmd c).core 0).spm = true ∧ (withCmd c).dieHalted c.engineDie = false
    ∧ min (64 - c.pos) (min (128 - (0x40 + c.pos) % 2 ^ 64 % 128) (128 - (0xF80 + c.pos) % 2 ^ 64 % 128)) = 64
    ∧ (withCmd c).resolve c.ctx .team 0x40 64 .load true = .ok (.spm 0 0x140 64) (withCmd c)
    ∧ (withCmd c).resolve c.ctx .team 0xF80 64 .store true = .ok (.spm 0 0x1080 64) (withCmd c) :=
  ⟨_, rfl, by decide, by decide, by decide, by decide, by decide, by decide, by decide, spm_of (by decide +kernel), spm_of (by decide +kernel)⟩

/-- s6 is tagged with future 9, of a grid, of a command; a status has landed in s8. -/
def tagger : Holder := { copier with tags := [(6, 9)], landed := [8] }
def futures (op : FutOp) : State :=
  { lab tagger with futures := [(9, ⟨op, none, 0⟩)], commands := [(7, cmd (.cpyl 0 0 .glob .glob 4) .running)] }

theorem witness_Futures : Issues (.fwait 12) (futures (.grid 1)) 0 0 tagger ∧ AMap.has tagger.tags 12 = false
    ∧ Issues (.fwait 6) (futures (.grid 1)) 0 0 tagger ∧ AMap.has tagger.tags 6 = true
    ∧ Issues (.gwait g0 6) (futures (.grid 1)) 0 0 tagger ∧ (futures (.grid 1)).needTeam 0 0 tagger = none ∧ tagger.actsOnce g0 = true
    ∧ Issues (.ftest 12 6) (futures (.grid 1)) 0 0 tagger ∧ AMap.sorted tagger.tags = true
    ∧ Issues (.ftest 12 8) (futures (.grid 1)) 0 0 tagger ∧ AMap.has tagger.tags 8 = false ∧ 8 ∈ tagger.landed
    ∧ Issues (.fcancel 12) (futures (.grid 1)) 0 0 tagger ∧ AMap.find? tagger.tags 12 = none
    ∧ Issues (.fcancel 6) (futures (.grid 1)) 0 0 tagger ∧ AMap.find? tagger.tags 6 = some 9
    ∧ AMap.find? (futures (.grid 1)).futures 9 = some ⟨.grid 1, none, 0⟩
    ∧ AMap.find? (futures (.command 7)).futures 9 = some ⟨.command 7, none, 0⟩
    ∧ AMap.find? (futures (.command 7)).commands 7 = some (cmd (.cpyl 0 0 .glob .glob 4) .running)
    ∧ OnceGoes (futures (.grid 1)) 0 0 tagger (.gcancel g0 6) g0
    ∧ AMap.sorted (futures (.grid 1)).futures = true ∧ List.find? (fun y => y.2 == 9) tagger.tags = some (6, 9) := by
  refine ⟨by decide +kernel, by decide, by decide +kernel, by decide, by decide +kernel, by decide +kernel, by decide, by decide +kernel,
    by decide, by decide +kernel, by decide, by decide, by decide +kernel, by decide, by decide +kernel, by decide, by decide, by decide,
    by decide, ⟨by decide +kernel, by decide, by decide +kernel, by decide⟩, by decide, by decide⟩

/-- A team with a child grid that runs, and one without. -/
theorem witness_GwaitAll : ∃ s, OnceGoes s 0 0 group (.gwaitAll g0) g0 ∧ s.childRuns 0 0 = true
    ∧ OnceGoes (lab group) 0 0 group (.gwaitAll g0) g0 ∧ (lab group).childRuns group.grid (group.teamOf ((lab group).tsize group)) = false :=
  ⟨{ lab group with grids := (lab group).grids ++ [(1, { record := 0, number := 1, parent := some (0, 0) })] },
    ⟨by decide +kernel, by decide, by decide +kernel, by decide⟩, by decide, ⟨by decide +kernel, by decide, by decide +kernel, by decide⟩,
    by decide +kernel⟩

/-- At depth 10 and above it; a record at 0x10000, and one at 0x10040 that is not aligned. -/
def launcher (d a : Nat) : Holder := { mem1 with depth := d, sregs := [(2, BitVec.ofNat 32 a)] }

/-- A state in which core 0 holds the record's line, and every epoch is closed. -/
def heldRecord : State :=
  match (lab (launcher 9 0x10000)).transact .rds (.core 0) (0x10000 / 128) with
  | .ok s => { s with dies := s.dies.map fun p => (p.1, { p.2 with checkers := [] }) }
  | _ => lab (launcher 9 0x10000)

theorem witness_Glaunch : Issues (.glaunch ⟨true, 0⟩ 6 2) (lab (launcher 1 0)) 0 0 (launcher 1 0)
    ∧ (launcher 1 0).activeLanes ⟨true, 0⟩ = 0#96
    ∧ GroupGoes (lab (launcher 10 0)) 0 0 (launcher 10 0) (.glaunch g0 6 2) g0 ∧ (lab (launcher 10 0)).needTeam 0 0 (launcher 10 0) = none
    ∧ MayTrap (lab (launcher 10 0)) 0 0 (launcher 10 0) ∧ 10 ≤ (launcher 10 0).depth
    ∧ GroupGoes (lab (launcher 9 0x10040)) 0 0 (launcher 9 0x10040) (.glaunch g0 6 2) g0 ∧ (launcher 9 0x10040).depth < 10
    ∧ (lab (launcher 9 0x10040)).needTeam 0 0 (launcher 9 0x10040) = none ∧ ¬TagsFull (launcher 9 0x10040) 6
    ∧ pairOf (launcher 9 0x10040) 2 % 128 ≠ 0
    ∧ GroupGoes heldRecord 0 0 (launcher 9 0x10000) (.glaunch g0 6 2) g0
    ∧ ∃ z, heldRecord.resolve (holderCtx heldRecord 0 (launcher 9 0x10000) true) .glob 0x10000 128 .load true
        = .ok (.phys [z]) heldRecord
      ∧ (match heldRecord.readTarget (holderCtx heldRecord 0 (launcher 9 0x10000) true) (.phys [z]) with
        | .ok _ _ _ s2 => trapReady s2 0 0 (launcher 9 0x10000) && decide ((s2.core 0).taster = [])
          && decide (((s2.core 0).floor 0).contain = 0) && decide (((s2.core 0).floor 0).covered = [])
          && (List.range 9).all (fun d => decide (AMap.find? (s2.die d).quarantined 0 = none))
          && decide (((s2.die (dieOf 0)).checker 1 (0 % 32)).peers = [])
        | _ => false) = true := by
  refine ⟨by decide +kernel, by decide, ⟨by decide +kernel, by decide, by decide, by decide, by decide⟩, by decide +kernel,
    ⟨by decide, by decide, by decide +kernel, by decide⟩, by decide, ⟨by decide +kernel, by decide, by decide, by decide, by decide⟩, by decide,
    by decide +kernel, fun e => absurd ((tagsFull_iff _ _).1 e) (by decide), by decide,
    ⟨by decide +kernel, by decide, by decide, by decide, by decide⟩, phys_of (by decide +kernel)⟩

/-- In a handler, with a saved pc. -/
def inHandler : Holder := { group with mode := true, tpc := 0x20000 }

theorem witness_SystemInstructions : Issues (.trap 63) (at0 group handled) 0 0 group ∧ MayTrap (at0 group handled) 0 0 group
    ∧ Issues .tret (at0 inHandler) 0 0 inHandler ∧ trapReady (at0 inHandler) 0 0 inHandler = true ∧ inHandler.replay = []
    ∧ inHandler.frameDone = 0#96 ∧ inHandler.maskWrites = [] ∧ bitN inHandler.tcause 16 = false
    ∧ Issues .tesc (at0 inHandler) 0 0 inHandler ∧ Issues .halt (at0 inHandler) 0 0 inHandler
    ∧ Issues (.sget 4 0x00) (at0 group) 0 0 group ∧ group.multiTeam ((at0 group).tsize group) = false
    ∧ Issues (.sget 4 0x12) (at0 group) 0 0 group ∧ (at0 group).flagsOpen 0 0 group = false
    ∧ Issues (.sget 4 0x26) (at0 inHandler) 0 0 inHandler ∧ Issues (.sset 4 0x12) (at0 group) 0 0 group
    ∧ Issues (.sset 4 0x20) (at0 inHandler) 0 0 inHandler ∧ Issues (.sset 4 0x26) (at0 inHandler) 0 0 inHandler :=
  ⟨by decide, ⟨by decide, by decide, by decide, by decide⟩, by and_intros <;> decide +kernel⟩

/-- A float atomic that has not completed holds `%fflags` back. -/
theorem witness_SystemInstructions_flags : ∃ h, Issues (.sget 4 0x12) (at0 h) 0 0 h ∧ (at0 h).flagsOpen 0 0 h = true :=
  ⟨{ group with ll := [{ idx := 5, instr := .vatomAdd (mop .f32 .glob 2 .vec .rlx 0 3), pc := 0, active := 1#96, window := some 3 }] },
    by decide +kernel⟩

/-! ### Translation, invalidations, flips -/

/-- In supervisor mode; base 0x10000 in s2, length 0x1000 in s4, 0 in s6 and s8. -/
def sweeper : Holder := { group with mode := true, sregs := [(2, 0x10000#32), (4, 0x1000#32)] }
/-- n invalidations and n flips of the page in flight. -/
def sweeping (n : Nat) (h : Holder := sweeper) : State :=
  { lab h with
    mem := pages
    nextOp := 100
    ctl := {
      atbase := 0x100000
      invals := (List.range n).map fun k => (k, { asid := 0, all := false, base := 0x10000, len := 0x1000 })
      flips := (List.range n).map fun k => (k, { asid := 0, base := 0x10000, len := 0x1000, host := true, waiting := true }) } }
/-- No register is tagged. -/
theorem not_full {h : Holder} (d : Nat) (e : h.tags = []) : ¬TagsFull h d := by
  simp [TagsFull, e]

theorem witness_Invalidations : Issues (.tlbinv 12 2 4 6) (sweeping 63) 0 0 sweeper ∧ ¬TagsFull sweeper 12
    ∧ Issues (.own 12 2 4 6) (sweeping 15) 0 0 sweeper ∧ Issues (.own 12 2 4 6) (sweeping 0) 0 0 sweeper
    ∧ Issues (.tlbinv 12 2 6 6) (sweeping 0) 0 0 sweeper ∧ (widen (pairOf sweeper 2) (pairOf sweeper 6)).2 = 0
    ∧ widen (pairOf sweeper 2) (pairOf sweeper 4) = (0x10000, 0x1000)
    ∧ 64 ≤ (sweeping 64).ctl.invals.length ∧ 16 ≤ (sweeping 16).ctl.flips.length ∧ (sweeping 63).ctl.invals.length < 64
    ∧ (sweeping 15).ctl.flips.length < 16 ∧ (sweeping 15).ctl.flips ≠ []
    ∧ ∀ p ∈ (sweeping 15).ctl.flips, p.1 < (sweeping 15).nextOp ∧ p.2.asid = (sweeper.readS 6).toNat % 2 ^ 16
        ∧ meets 0x10000 0x1000 p.2.base p.2.len = true :=
  ⟨by decide +kernel, not_full _ rfl, by and_intros <;> decide +kernel⟩

/-- An invalidation that an outstanding access of its range holds back, and one that nothing holds. -/
theorem witness_Invalidations_complete : ∃ s1 s2 : State, ∃ x : Inval, AMap.find? s1.ctl.invals 7 = some x ∧ AMap.find? s2.ctl.invals 7 = some x
    ∧ x.fut = some 9 ∧ x.packet = none ∧ AMap.sorted s1.ctl.invals = true ∧ s1.rangeBusy x.all x.asid x.base x.len x.blocks = true
    ∧ s2.rangeBusy x.all x.asid x.base x.len x.blocks = false :=
  let c : Control := { invals := [(7, { asid := 0, all := false, base := 0x10000, len := 0x1000, fut := some 9 })] }
  ⟨{ lab { sweeper with ext := [{ idx := none, pa := 0, size := 4, data := none, lane := 127, ea := 0x10FFF, tag := 0, pc := 0 }] } with ctl := c },
    { lab sweeper with ctl := c }, _, rfl, rfl, rfl, rfl, by decide, by decide, by decide⟩

/-- A walk that reached a leaf whose entry satisfies a condition, and one that faults. -/
def leafOk (p : TlbEntry → Nat → State → Bool) : Walked → Bool
  | .leaf e ea s => p e ea s
  | _ => false
theorem leaf_of {p : TlbEntry → Nat → State → Bool} {x : Walked} (h : leafOk p x = true) : ∃ e ea s, x = .leaf e ea s ∧ p e ea s = true := by
  cases x <;> simp_all [leafOk]
def faultsWalk : Walked → Bool
  | .fault _ _ _ => true
  | _ => false
theorem fault_of {x : Walked} (h : faultsWalk x = true) : ∃ c k s, x = .fault c k s := by
  cases x <;> simp_all [faultsWalk]
/-- An entry that its home updates. -/
def updates (s : State) (ea : Nat) (f : Nat → Nat) : Bool :=
  match s.update64 ea f with
  | .ok _ _ => true
  | _ => false

/-- The tables of `pages`, with the leaf's A and D clear, an empty TLB, and 31 walks of the core in progress. -/
def walking (attr : Nat) (tlb : List TlbEntry := []) : State :=
  { mem := Memory.writeLE pages 0x104000 8 attr, ctl := { atbase := 0x100000 }, dies := [(0, { online := true, powered := true })]
    cores := [(0, { tlb := tlb, misses := (List.range 31).map fun k => (0, 1000 + k) })] }

/-- A leaf with A set and one without; an address of 0 at the last level and one that nothing maps. -/
theorem witness_Walk : (walking 0xC7A).missFull (.core 0) 0 0x1FFFFF = false ∧ (walking 0xC7A).flipHolds 0 0x1FFFFF = false
    ∧ (walking 0xC7A).ctl.walkFree (dieOf 0) = true
    ∧ (∃ e ea s1, (walking 0xC7A).walk 0 0x1FFFFF = .leaf e ea s1 ∧ bitN e.attr 10 = true)
    ∧ (∃ e ea s1, (walking 0x07A).walk 0 0x1FFFFF = .leaf e ea s1
      ∧ (!bitN e.attr 10 && Memory.wf s1.mem && updates s1 ea (fun v => v ||| 2 ^ 10) && bitN e.attr 4
        && updates s1 ea (fun v => v ||| (2 ^ 10 + 2 ^ 11))) = true)
    ∧ (∃ c k s1, (walking 0xC7A).walk 0 0x200000 = .fault c k s1)
    ∧ (sweeping 0).ctl.flips = [] :=
  ⟨by decide, by decide, by decide, leaf_of (by decide +kernel), leaf_of (by decide +kernel), fault_of (by decide +kernel), rfl⟩

/-- A core whose entry has D clear; a leaf that permits a store, and one that does not. -/
theorem witness_DirtyBitWalk : ∃ y, (walking 0x47A [⟨0, 0, 0x200000, 0, 0x47A, 0, false⟩]).tlbLookup (.core 0) 0 0x1FFFFF = some y
    ∧ bitN y.attr 11 = false
    ∧ (∃ e ea s1, (walking 0x47A [⟨0, 0, 0x200000, 0, 0x47A, 0, false⟩]).walk 0 0x1FFFFF = .leaf e ea s1 ∧ bitN e.attr 4 = true)
    ∧ ∃ e ea s1, (walking 0x46A [⟨0, 0, 0x200000, 0, 0x47A, 0, false⟩]).walk 0 0x1FFFFF = .leaf e ea s1 ∧ (!bitN e.attr 4) = true :=
  ⟨⟨0, 0, 0x200000, 0, 0x47A, 0, false⟩, by decide +kernel, by decide, leaf_of (by decide +kernel), leaf_of (by decide +kernel)⟩

/-- A walk that a flip holds, with room for its context. -/
theorem witness_Walk_held : ∃ s : State, s.missFull (.core 0) 0 0x10FFF = false ∧ s.flipHolds 0 0x10FFF = true ∧ s.ctl.walkFree 0 = true :=
  ⟨{ ctl := { flips := [(0, { asid := 0, base := 0x10000, len := 0x1000, host := true })]
              walks := (List.range 511).map fun k => { core := 0, asid := 0, page := k } } }, by decide +kernel⟩

/-- A flip that waits for an older one; one whose range an access holds; one whose frames nothing knows, to the device and,
its snoops answered, and to the host. -/
def flipping (x : Flip) (h : Holder := sweeper) : State :=
  { sweeping 0 h with ctl := { atbase := 0x100000, flips := [(7, x)] } }
/-- The page at 0x10000 and the place of its entry. -/
def pageFlip : Flip :=
  { asid := 0, base := 0x10000, len := 0x1000, host := false, fut := some 9
    leaves := [(⟨0, 0x10000, 0x1000, 0x10000, 0xC7A, 0, false⟩, 0x104080)] }

theorem witness_Flips : (∃ s : State, ∃ x : Flip, AMap.find? s.ctl.flips 7 = some x ∧ x.waiting = true ∧ s.flipOverlaps 7 x = true)
    ∧ AMap.find? (flipping pageFlip).ctl.flips 7 = some pageFlip ∧ AMap.sorted (flipping pageFlip).ctl.flips = true
    ∧ pageFlip.fut = some 9 ∧ pageFlip.packet = none ∧ pageFlip.waiting = false ∧ pageFlip.snoops = none
    ∧ (flipping pageFlip).rangeBusy false 0 0x10000 0x1000 pageFlip.blocks = false
    ∧ (∃ h, (flipping pageFlip h).rangeBusy false 0 0x10000 0x1000 pageFlip.blocks = true)
    ∧ (∀ p ∈ frameLines pageFlip.leaves, (flipping pageFlip).knownLines p.1 p.2 = [])
    ∧ (flipping { pageFlip with snoops := some [] }).ctl.heldHost = []
    ∧ (rewriteO false ((pageFlip.leaves.flatMap (fun p => entryCopies p.1 p.2)).eraseDups) (flipping { pageFlip with snoops := some [] })).isSome = true
    ∧ (rewriteO true ((pageFlip.leaves.flatMap (fun p => entryCopies p.1 p.2)).eraseDups) (flipping { pageFlip with host := true })).isSome = true
    ∧ Memory.wf (flipping pageFlip).mem = true
    ∧ updates (flipping pageFlip) 0x104080 (fun v => setField v 9 1 1) = true :=
  ⟨⟨flipping { pageFlip with waiting := true } |>.updCtl fun c => { c with flips := (3, pageFlip) :: c.flips }, _, rfl, rfl, by decide⟩,
    by decide, by decide, by decide, by decide, by decide, by decide, by decide +kernel,
    ⟨{ sweeper with ext := [{ idx := none, pa := 0, size := 4, data := none, lane := 127, ea := 0x10000, tag := 0, pc := 0 }] }, by decide +kernel⟩,
    by decide +kernel, by decide, by decide +kernel, by decide +kernel, by decide +kernel, by decide +kernel⟩
/-! ### The core's slots, traps at boundaries -/

/-- Two holders of core 0, the first active, with the tables of `pages`; a second core. -/
def slots (a b : Holder) (bins : AMap Bin := []) (pieces : List Piece := []) : State :=
  { lab a with
    mem := pages
    ctl := { atbase := 0x100000 }
    cores := [(0, { labCore a with slots := [(0, a), (1, b)], bins := bins, pieces := pieces }), (1, {})] }
/-- A holder that waits for the future of s6. -/
def sleeper : Holder := { group with status := .blocked (.future 6), tags := [(6, 9)] }
/-- A way to place something that succeeds. -/
def placedOk (p : State → Bool) : Place → Bool
  | .ok s => p s
  | _ => false
theorem placed_of {p : State → Bool} {x : Place} (e : placedOk p x = true) : ∃ s, x = .ok s ∧ p s = true := by
  cases x <;> simp_all [placedOk]

theorem witness_Cores_cycle : AMap.sorted ((slots group group).core 0).slots = true ∧ AMap.has (slots group group).cores 0 = true
    ∧ DebugOff (slots group group) 0 ∧ List.find? (fun (x : Nat) => decide (0 < x)) ((slots group group).cores.map (·.1)) = some 1
    ∧ AMap.has (slots group group).cores 1 = true ∧ DebugOff (slots group group) 1
    ∧ List.find? (fun (x : Nat) => decide (1 < x)) ((slots group group).cores.map (·.1)) = none
    ∧ (slots group group).ctl.streams = [] ∧ (slots group group).ctl.heldHost = [] ∧ (slots group group).ctl.heldPeer = []
    ∧ (slots group group).ctl.engineAsks = [] :=
  ⟨by decide, by decide, ⟨by decide, by decide⟩, by decide, by decide, ⟨by decide, by decide⟩, by decide, rfl, rfl, rfl, rfl⟩

theorem witness_Cores_swap : (slots sleeper group).holder? 0 0 = some sleeper ∧ (slots sleeper group).pendingSlot 0 = some 1
    ∧ (slots sleeper group).coreRuns 0 = true ∧ 0 ∈ ((slots sleeper group).core 0).active
    ∧ (slots sleeper group).readyNow 0 0 sleeper = false ∧ (slots sleeper group).swappable sleeper = true := by
  and_intros <;> decide +kernel

/-- A piece of team 1 at the start of the ring, with no registers, so that its record is the shortest; a holder of that team
that waits at its barrier. -/
def piece : Piece := ⟨{ group with team := 1, w := 0 }, 0, 4096, none⟩
def waiter : Holder := { group with team := 1, w := 0, status := .blocked (.barrier 3 0) }
/-- The barrier's phase has not passed. -/
def waiting : State := (slots waiter group [] [piece]).updCore 0 fun c => { c with
  pieceHead := 4096, barriers := [(3, { e := 2 })], allocs := [{ grid := 0, team := 1, off := 0x100, size := 0x1000, block := 0 }] }

theorem witness_Cores_piece : (((slots group group [] [piece]).core 0).pieces = [piece] ∧ (slots group group [] [piece]).coreRuns 0 = true
      ∧ ∃ k q win, (slots group group [] [piece]).findSlot 0 piece.holder.w = some (k, q, win)
        ∧ ∃ s1, pieceIn 0 k q piece (slots group group [] [piece]) = .ok s1 ∧ (fun _ => true) s1 = true)
    ∧ waiting.holder? 0 0 = some waiter ∧ waiting.readyNow 0 0 waiter = false ∧ trapReady waiting 0 0 waiter = true ∧ waiter.pend = []
    ∧ (waiting.core 0).pieces.find? (fun y => y.ofTeam waiter (waiting.tsize waiter)) = some piece
    ∧ ∃ s1, waiting.placePiece 0 (spillBaseOf waiting 0 0 waiter) { waiter with status := .ready } = .ok s1
        ∧ placedOk (fun _ => true) (pieceIn 0 0 0 piece s1) = true :=
  ⟨⟨rfl, by decide +kernel, 0, 2, 0, by decide +kernel, placed_of (by decide +kernel)⟩, by decide +kernel, by decide +kernel,
    by decide +kernel, rfl, by decide +kernel, placed_of (by decide +kernel)⟩

/-- Two contexts held at a `fold` at 0x10000 that carries v0 and p0, of members 0 to 959 and 960 to 1919. -/
def folded (lo hi : Nat) : Holder := { range with lo := lo, hi := hi, status := .blocked .fold, deadline := 5, vregs := [(0, .uni 7#32)] }
def folding : State :=
  let s := slots (folded 0 960) (folded 960 1920)
  { s with mem := (encode (.fold 0 1 64 1)).foldl (fun (m : Memory × Nat) w => (Memory.writeLE m.1 m.2 8 w, m.2 + 8)) (s.mem, 0x10000) |>.1 }

theorem witness_Cores_fold : folding.holder? 0 0 = some (folded 0 960) ∧ folding.holder? 0 1 = some (folded 960 1920)
    ∧ (folded 0 960).status = .blocked .fold ∧ folding.coreRuns 0 = true ∧ (folded 0 960).replaying = none
    ∧ folding.clock < (folded 0 960).deadline ∧ (folded 0 960).deadline ≤ ({ folding with clock := 5 } : State).clock
    ∧ (∃ d n ps m, folding.foldOf (folded 0 960) = some (d, n, ps)
        ∧ joinFold (folding.tsize (folded 0 960)) d n ps (folded 0 960) (folded 960 1920) = some m)
    ∧ (folded 960 1920).accs = [] := by
  refine ⟨by decide +kernel, by decide +kernel, rfl, by decide +kernel, rfl, by decide, by decide, ⟨0, 1, 1, ?_⟩, rfl⟩
  have e : folding.foldOf (folded 0 960) = some (0, 1, 1)
      ∧ (joinFold (folding.tsize (folded 0 960)) 0 1 1 (folded 0 960) (folded 960 1920)).isSome = true := by decide +kernel
  exact (Option.isSome_iff_exists.1 e.2).imp fun _ j => ⟨e.1, j⟩

/-- A bin of two items, and a time at which its timer has passed and one at which it has not. -/
def bin : Bin := ⟨0x20000, 0, 0, 0, [(3, []), (7, [])], 64, 0, 0⟩
theorem witness_Cores_bin : AMap.find? ((slots group group [(15, bin)]).core 0).bins 15 = some bin
    ∧ AMap.sorted ((slots group group [(15, bin)]).core 0).bins = true ∧ ((slots group group [(15, bin)]).core 0).frozenBins = false
    ∧ recBinTimer ((slots group group).grid bin.grid).record ≤ ({ slots group group with clock := 2048 } : State).clock - bin.started
    ∧ ((slots group group).findSlot 0 bin.w).isSome = true
    ∧ ({ slots group group with clock := 2047 } : State).clock - bin.started < recBinTimer ((slots group group).grid bin.grid).record := by
  and_intros <;> decide +kernel

/-- An `evwait` with a deadline at 5, whose word lies in the team's scratchpad. -/
def waitEv : Holder := { group with
  status := .blocked .event
  ev := some ⟨0, 3, some 5, 0x40, ⟨5, 4, 0, 0, .b32, .team, .dev, .rlx, .non⟩⟩ }
theorem witness_Cores_evwait : ∃ e : EvState, (slots waitEv group).holder? 0 0 = some waitEv ∧ waitEv.ev = some e ∧ e.deadline = some 5
    ∧ waitEv.ext = [] ∧ waitEv.replaying = none ∧ e.op.d < 61 ∧ e.op.elem = .b32 ∧ (slots waitEv group).clock < 5
    ∧ ((slots waitEv group).core 0).taster.length < 1024
    ∧ (slots waitEv group).resolve { holderCtx (slots waitEv group) 0 waitEv false with vector := true } e.op.space e.ea 4 .load true
        = .ok (.spm 0 0x140 4) (slots waitEv group)
    ∧ readOk 4 ((slots waitEv group).readTarget { holderCtx (slots waitEv group) 0 waitEv false with vector := true } (.spm 0 0x140 4)) = true :=
  ⟨_, by decide +kernel, rfl, rfl, rfl, rfl, by decide, rfl, by decide, by decide, spm_of (by decide +kernel), by decide +kernel⟩

/-- A held operation of no lane whose delay has ended, and none. -/
theorem witness_Cores_delay : ∃ (s : State) (d : DelayedOp), (s.core 0).delayed.find? (fun d => decide (d.due ≤ s.clock)) = some d ∧ d.lanes = []
    ∧ (({} : State).core 0).delayed.find? (fun d => decide (d.due ≤ 0)) = none :=
  ⟨{ cores := [(0, { delayed := [⟨0, .nop, 0, [], 0, 0, 0⟩] })] }, _, rfl, rfl, rfl⟩

/-- One or two pending traps: of an instruction, of an engine, of the watchdog, of single step. -/
def trapping (ps : List PendTrap) : Holder := { group with pend := ps }
def bounded (ps : List PendTrap) : State := { lab (trapping ps) with ctl := { atbase := 0x100000 } }
theorem witness_TrapsAtBoundaries_entry (p : PendTrap) (e : p ∈ [{ cause := 6, tpc := 8 }, { cause := 11, queued := true }, { cause := 8, engine := true },
    { cause := 9 }, { cause := 13 }]) : AtBoundary (bounded [p]) 0 0 (trapping [p]) ∧ (trapping [p]).kind ≠ .range ∧ (trapping [p]).pend = [p]
    ∧ AMap.sorted ((bounded [p]).core 0).slots = true := by
  simp only [List.mem_cons, List.mem_nil_iff, or_false] at e
  rcases e with rfl | rfl | rfl | rfl | rfl <;>
    exact ⟨⟨by decide, by decide, ⟨by decide, by decide, by decide, by decide⟩, by decide, by decide, by decide, by decide⟩, by decide, rfl, by decide⟩
theorem witness_TrapsAtBoundaries_order : trapBefore { cause := 6 } { cause := 8, engine := true } = true
    ∧ trapBefore { cause := 8, engine := true } { cause := 9 } = true ∧ trapBefore { cause := 9 } { cause := 13 } = true
    ∧ AtBoundary (bounded [{ cause := 9 }, { cause := 6 }]) 0 0 (trapping [{ cause := 9 }, { cause := 6 }]) :=
  ⟨by decide, by decide, by decide, ⟨by decide, by decide, ⟨by decide, by decide, by decide, by decide⟩, by decide, by decide, by decide, by decide⟩⟩

/-- The watchdog at its period and below, single step on and off, a breakpoint. -/
theorem witness_TrapsAtBoundaries_others : (∃ h, (lab h).holder? 0 0 = some h ∧ (∀ p ∈ h.pend, p.cause ≠ 9) ∧ recWatchdog ((lab h).recOf h) ≤ h.watchdog)
    ∧ group.watchdog < recWatchdog ((lab group).recOf group) ∧ (∃ h, (lab h).holder? 0 0 = some h ∧ h.stepping = true) ∧ group.stepping = false
    ∧ ∃ c : Core, MayTrap (at0 group c) 0 0 group ∧ ((at0 group c).core 0).breakpoint group = some 3 :=
  ⟨⟨{ group with watchdog := 2 ^ 24 }, by decide, by decide, by decide +kernel⟩, by decide +kernel, ⟨{ group with stepping := true }, by decide, rfl⟩, rfl,
    { handled with dbg := { bpaddr := [(3, 0x10001)] } }, ⟨by decide, by decide, by decide, by decide⟩, by decide⟩

/-- A holder that waits for its disposition, one that is halted, one that is neither; an engine that stopped. -/
theorem witness_TrapsAtBoundaries_dispositions : ∃ h, h.status = .awaiting ∧ (lab h).holder? 0 0 = some h ∧ h.replay = [] ∧ h.frameDone = 0#96
    ∧ h.maskWrites = [] ∧ bitN h.tcause 16 = false ∧ needsRecord (lab h) 0 h (laneCount h.live) = false ∧ TraceOff (lab h) 0 ∧ h.accs = []
    ∧ (∃ h, h.status = .halted ∧ (lab h).holder? 0 0 = some h ∧ needsRecord (lab h) 0 h (laneCount h.live) = false ∧ TraceOff (lab h) 0 ∧ h.accs = [])
    ∧ group.status ≠ .awaiting ∧ group.status ≠ .halted
    ∧ ∃ s : State, (s.engineAt 71).stopped = true :=
  ⟨{ inHandler with status := .awaiting }, rfl, by decide, rfl, rfl, rfl, by decide, by decide +kernel, by decide, rfl,
    ⟨{ group with status := .halted }, rfl, by decide, by decide +kernel, by decide, rfl⟩, by decide, by decide,
    { dies := [(7, { eng := { stopped := true } })] }, by decide⟩
/-! ### Grids -/

/-- A launch record that every check passes: version 1, teams of 96, 5 banks; `x` is added. -/
def goodRec (x : Nat) : Nat := 1 * 2 ^ 1008 + 95 * 2 ^ 901 + 5 * 2 ^ 889 + x
/-- The package with one grid, and one die; the core's split fits the record. -/
def gridded (gr : Grid) (c : Core := {}) : State :=
  { mem := pages, ctl := { atbase := 0x100000 }, grids := [(4, gr)], dies := [(0, { online := true, powered := true })]
    clusters := [(0, { powered := true })], cores := [(0, { c with l1Banks := 32, spmBanks := 5 })] }

/-- Refused by its version; accepted. -/
theorem witness_Grids_check : ∃ a b : Grid, AMap.find? (gridded a).grids 4 = some a ∧ AMap.sorted (gridded a).grids = true ∧ a.accepted = false
    ∧ a.packet = none ∧ a.fut = some 9 ∧ checkStatus (gridded a) a = 0x100 ∧ field a.record 584 56 = 0
    ∧ b.accepted = false ∧ b.packet = none ∧ b.fut = some 9 ∧ checkStatus (gridded b) b = 0 ∧ field b.record 584 56 = 0 ∧ field b.record 990 2 = 0
    ∧ b.cancel = false ∧ b.undealt = [] :=
  ⟨{ record := 0, number := 0, fut := some 9 }, { record := goodRec 0, number := 0, fut := some 9 }, by and_intros <;> decide +kernel⟩

/-- A core with a holder and capacity, below a dispatcher with teams. -/
theorem witness_Grids_capacity : ∃ (gr : Grid) (s : State), AMap.find? s.grids 4 = some gr ∧ gr.undealtAt (.clu (cluOf 0)) ≠ 0
    ∧ s.dieHalted (dieOf 0) = false ∧ bitN gr.record 979 = false ∧ bitN gr.record 978 = false ∧ (s.core 0).empty = false
    ∧ (s.die (dieOf 0)).online = true ∧ (s.die (dieOf 0)).resetting = false ∧ (s.cluster (cluOf 0)).powered = true
    ∧ field gr.record 982 8 = 0 ∧ dieOf 0 < 8 ∧ s.splitOk 0 gr.record = true :=
  ⟨{ record := goodRec 0, number := 0, undealt := [(.clu 0, 0, 7)] }, gridded { record := goodRec 0, number := 0, undealt := [(.clu 0, 0, 7)] }
      { slots := [(0, group)] }, by and_intros <;> decide +kernel⟩

/-- A dispatcher of a cluster with ten teams and capacities 1, 0, 2, 0, and none. -/
theorem witness_Grids_deal : ∃ gr : Grid, gr.undealt = [(.clu 63, 5, 15)] ∧ bitN gr.record 979 = false ∧ gr.cancel = false
    ∧ (gridded gr).dieHalted (63 / 8) = false
    ∧ sumTo (fun j => ((gr.caps.find? (fun c => c.1 == .core (4 * 63 + j))).map (·.2)).getD 0) 4 = 3
    ∧ ∃ g2 : Grid, g2.undealt = [(.clu 63, 5, 15)] ∧ sumTo (fun j => ((g2.caps.find? (fun c => c.1 == .core (4 * 63 + j))).map (·.2)).getD 0) 4 = 0 :=
  ⟨{ record := goodRec (3 * 2 ^ 851), number := 0, undealt := [(.clu 63, 5, 15)], caps := [(.core 252, 1), (.core 254, 2)] }, rfl, by decide +kernel,
    rfl, by decide +kernel, by decide +kernel, { record := goodRec 0, number := 0, undealt := [(.clu 63, 5, 15)] }, rfl, by decide +kernel⟩

/-- Teams 5 to 7 received by an empty core. -/
theorem witness_Grids_receive : ∃ gr : Grid, gr.cancel = false ∧ (gridded gr).splitOk 0 gr.record = true
    ∧ ((((gridded gr).updGrid 4 (fun x => { x with
        dispatched := x.dispatched + (8 - 5), ran := if x.ran.contains 0 then x.ran else x.ran ++ [0] })).prepare 0 gr.record).findSlot 0
          (8 * (field gr.record 896 5 + 1))).isSome = true :=
  ⟨{ record := goodRec (7 * 2 ^ 896), number := 0 }, rfl, by decide +kernel, by decide +kernel⟩

/-- A team whose items have all ended, with a child grid that runs and without; one with an item left. -/
theorem witness_Grids_retire : ∃ gr : Grid, AMap.getD gr.teams 3 0 = field gr.record 901 11 + 1 ∧ (gridded gr).childRuns 4 3 = false
    ∧ gr.reports = [] ∧ AMap.sorted gr.teams = true
    ∧ ∃ s : State, AMap.find? s.grids 4 = some gr ∧ s.childRuns 4 3 = true :=
  ⟨{ record := goodRec 0, number := 0, teams := [(3, 96)] }, by decide +kernel, by decide +kernel, rfl, by decide +kernel,
    { gridded { record := goodRec 0, number := 0, teams := [(3, 96)] } with
      grids := [(4, { record := goodRec 0, number := 0, teams := [(3, 96)] }), (5, { record := 0, number := 0, parent := some (4, 3) })] },
    by decide +kernel, by decide +kernel⟩

/-- Reports of a core and of the package's dispatcher. -/
theorem witness_Grids_reports : ∃ a b : Grid, a.reports = [(.core 5, 2, 1)] ∧ b.reports = [(.pkg Config.pkgId, 3, 0)] ∧ field b.record 990 2 = 0
    ∧ (7 : Nat) ≠ Config.pkgId :=
  ⟨{ record := 0, number := 0, reports := [(.core 5, 2, 1)] }, { record := 0, number := 0, reports := [(.pkg Config.pkgId, 3, 0)] }, rfl, rfl,
    by decide +kernel, by decide +kernel⟩

/-- A grid of 1 team that is not complete; one that is, with no completion record and with one at 0x20000. -/
def finished (x : Nat) : Grid := { record := goodRec x, number := 6, accepted := true, fut := some 9, completed := 1, dispatched := 1 }
theorem witness_Grids_complete : (∃ gr : Grid, gr.accepted = true ∧ gr.done = none ∧ gr.pods = []
      ∧ gr.completed + gr.cancelled + gr.dropped < field gr.record 912 48 + 1)
    ∧ (∀ c ∈ (gridded (finished 0)).commands, c.2.grid ≠ 4)
    ∧ field (finished 0).record 912 48 + 1 ≤ (finished 0).completed + (finished 0).cancelled + (finished 0).dropped
    ∧ field (finished 0).record 648 56 = 0 ∧ field (finished 0).record 584 56 = 0
    ∧ (finished (0x20000 * 2 ^ 584)).done = none ∧ (finished (0x20000 * 2 ^ 584)).packet = none ∧ field (finished (0x20000 * 2 ^ 584)).record 584 56 = 0x20000
    ∧ ∃ s1 b1, (gridded (finished (0x20000 * 2 ^ 584))).ctlWrite 0 0x20000 (leBytes 60 (completionHead (finished (0x20000 * 2 ^ 584)) 1 1 0 0)) = .ok s1 b1
      ∧ ctlOk (fun s2 => decide (AMap.find? s2.grids 4 = some (finished (0x20000 * 2 ^ 584)))) (s1.ctlWrite 0 (0x20000 + 60) (leBytes 4 0)) = true :=
  ⟨⟨{ finished 0 with completed := 0 }, by decide +kernel, by decide +kernel, by decide +kernel, by decide +kernel⟩, by decide +kernel, by decide +kernel, by decide +kernel,
    by decide +kernel, by decide +kernel, by decide +kernel, by decide +kernel, ctl_of (by decide +kernel)⟩

/-- Done; not yet accepted; accepted, with a child grid. -/
theorem witness_Grids_cancel : ∃ a b c : Grid, a.done.isSome = true ∧ b.done = none ∧ b.cancel = false ∧ b.accepted = false ∧ c.done = none
    ∧ c.cancel = false ∧ c.accepted = true ∧ AMap.find? (gridded c).grids 4 = some c :=
  ⟨{ finished 0 with done := some 0 }, { finished 0 with accepted := false }, finished 0, by and_intros <;> decide +kernel⟩

/-- Packages 3 and 5 take part, 9 stands by for 5; a pod grid that may be restarted and one that may not. -/
def podded (gr : Grid) : State :=
  { gridded gr with ctl := { podMap := [(3, ⟨3, 1, 3⟩), (5, ⟨5, 1, 5⟩), (9, ⟨9, 1, 5⟩)] } }
theorem witness_Grids_pod : ∃ a b : Grid, a.accepted = true ∧ 5 ∈ (podded a).participants ∧ 5 ∉ a.acked ∧ a.done = none
    ∧ field a.record 990 2 = 1 ∧ bitN a.record 977 = false
    ∧ b.accepted = true ∧ b.done = none ∧ field b.record 990 2 = 1 ∧ bitN b.record 977 = true ∧ 5 ∈ b.acked
    ∧ (podded b).spareFor 5 = some 9 ∧ (9 : Nat) ≠ Config.pkgId ∧ b.sent = [(5, 8, 16)] :=
  ⟨{ finished (2 ^ 990) with sent := [(5, 8, 16)] }, { finished (2 ^ 990 + 2 ^ 977) with sent := [(5, 8, 16)], acked := [5] },
    by decide +kernel, by
      rw [State.participants, List.mem_mergeSort]; decide +kernel, by decide +kernel, by decide +kernel, by decide +kernel, by decide +kernel, by decide +kernel, by decide +kernel,
    by decide +kernel, by decide +kernel, by decide +kernel, by decide +kernel, by decide +kernel, rfl⟩

/-- The root's package is lost: this package is the first of those left, and another is. -/
theorem witness_Grids_failover : ∃ gr : Grid, gr.root = 5 ∧ gr.done = none ∧ (5 : Nat) ≠ Config.pkgId
    ∧ ((podded gr).participants.filter (· != 5)).head? = some Config.pkgId
    ∧ (({} : State).participants.filter (· != Config.pkgId)).head? ≠ some Config.pkgId := by
  refine ⟨{ finished (2 ^ 990) with root := 5 }, rfl, rfl, by decide +kernel, ?_, ?_⟩
  · have (gr : Grid) : (podded gr).participants = ({ ctl := { podMap := [(3, ⟨3, 1, 3⟩), (5, ⟨5, 1, 5⟩), (9, ⟨9, 1, 5⟩)] } } : State).participants := rfl
    rw [this]
    simp [State.participants, Config.pkgId, List.mergeSort, List.MergeSort.Internal.splitInTwo]
  · simp [State.participants, Config.pkgId]
/-! ### Coherence -/

/-- Eight cores of two clusters with 32 banks of L1, and line 512 at die 0, its copy present. -/
def homes : State :=
  { cores := (List.range 8).map fun g => (g, { l1Banks := 32 }), dies := [(0, { online := true, powered := true, msc := [(512, false)] })] }
/-- Requests for line 512 that have been served. -/
def traffic (ops : List (Req × Nat)) (s : State := homes) : State :=
  ops.foldl (fun s o => match s.transact o.1 (.core o.2) 512 with
    | .ok t => t
    | _ => s) s
/-- A request that its home has taken and whose messages are out. -/
def sent (s : State) (r : Req) (g : Nat) : State :=
  match s.homeTake r (.core g) 512 with
  | .ok t => t
  | _ => s
/-- The state after a message has arrived. -/
def arrived (o : Out) : State :=
  match o with
  | .next t => t
  | _ => {}

/-- A line at an idle home. -/
def lineReady (s : State) : Bool :=
  decide (homeDie s (512 * 128) = some (homeOf s 512)) && decide (AMap.find? (s.die (homeOf s 512)).busy 512 = none)
    && decide (s.homePoison 512 = none) && decide (s.wakeHome 512 = s) && !isHostLine s 512 && decide (s.dirRoom 512 = some s)
    && AMap.has (s.die (homeOf s 512)).msc 512
theorem lineReady_of {s : State} (e : lineReady s = true) : LineReady s 512 := by
  simpa [lineReady, LineReady, and_assoc] using e

/-- Core 3 has no copy, and the line is in I, S, X and O in turn. -/
theorem witness_Coherence_requests (ops : List (Req × Nat))
    (e : ops ∈ [[], [(.rds, 0), (.rds, 1)], [(.rds, 0)], [(.rdx, 0), (.rds, 1)]]) :
    LineReady (traffic ops) 512 ∧ (traffic ops).l1Exists (.core 3) = true ∧ (traffic ops).l1Line (.core 3) 512 = none
    ∧ .core 3 ∉ ((traffic ops).dirOf 512).holders := by
  simp only [List.mem_cons, List.mem_nil_iff, or_false] at e
  rcases e with rfl | rfl | rfl | rfl <;> exact ⟨lineReady_of (by decide +kernel), by decide +kernel, by decide +kernel, by decide +kernel⟩
theorem witness_Coherence_states : ((traffic []).dirOf 512).st = .i ∧ ((traffic []).dirOf 512).holders = []
    ∧ ((traffic [(.rds, 0), (.rds, 1)]).dirOf 512).st = .s ∧ ((traffic [(.rds, 0), (.rds, 1)]).dirOf 512).sharers = [.core 0, .core 1]
    ∧ ((traffic [(.rds, 0), (.rds, 1)]).dirOf 512).owner = none
    ∧ ((traffic [(.rds, 0)]).dirOf 512).st = .x ∧ ((traffic [(.rds, 0)]).dirOf 512).owner = some (.core 0) ∧ ((traffic [(.rds, 0)]).dirOf 512).sharers = []
    ∧ ((traffic [(.rdx, 0), (.rds, 1)]).dirOf 512).st = .o ∧ ((traffic [(.rdx, 0), (.rds, 1)]).dirOf 512).owner = some (.core 0) := by
  and_intros <;> decide +kernel

/-- A busy line; an `upg` of core 1, which shares the line. -/
theorem witness_Coherence_busy : (∃ b, AMap.find? ((sent homes .rds 0).die (homeOf (sent homes .rds 0) 512)).busy 512 = some b)
    ∧ (sent homes .rds 0).l1Exists (.core 3) = true ∧ (sent homes .rds 0).l1Line (.core 3) 512 = none
    ∧ ∃ l, (traffic [(.rds, 0), (.rds, 1)]).l1Line (.core 1) 512 = some l ∧ decide (l.st = .s) = true
      ∧ .core 1 ∈ ((traffic [(.rds, 0), (.rds, 1)]).dirOf 512).holders := by
  have e : (AMap.find? ((sent homes .rds 0).die (homeOf (sent homes .rds 0) 512)).busy 512).isSome = true
      ∧ ((traffic [(.rds, 0), (.rds, 1)]).l1Line (.core 1) 512).map (fun l => decide (l.st = .s)) = some true := by decide +kernel
  obtain ⟨l, i, j⟩ := Option.map_eq_some_iff.1 e.2
  exact ⟨Option.isSome_iff_exists.1 e.1, by decide +kernel, by decide +kernel, l, i, j, by decide +kernel⟩

/-- No injector is armed on the dies listed, and a die that is not listed has none. -/
theorem noInjector_of {s : State} (e : s.dies.all (fun p => !bitN p.2.eictl 31) = true) : NoInjector s := by
  intro d
  have f (l : AMap Die) (h : l.all (fun p => !bitN p.2.eictl 31) = true) : bitN (AMap.getD l d {}).eictl 31 = false := by
    induction l with
    | nil => show bitN 0 31 = false; decide
    | cons x xs ih =>
      simp only [List.all_cons, Bool.and_eq_true, Bool.not_eq_true'] at h
      have := ih h.2
      simp only [AMap.getD, AMap.find?] at this ⊢
      split
      · exact h.1
      · split
        · show bitN 0 31 = false; decide
        · exact this
  exact f _ e

/-- A busy line's messages and what the home keeps beside them. -/
def busyIs (s : State) (p : Busy → Bool) : Bool := ((s.busyOf 512).map p).getD false

/-- A grant whose acknowledgements are in, and one that waits for a forward. -/
theorem witness_Coherence_grant : NoInjector (sent homes .rds 0)
    ∧ AMap.find? ((sent homes .rds 0).die (homeOf (sent homes .rds 0) 512)).busy 512
        = some { msgs := [.grant (.core 0) .e true], queue := [], stamps := [(.core 0, ((sent homes .rds 0).clockOf (homeUnit (sent homes .rds 0) 512)))], report := none }
    ∧ AMap.sorted ((sent homes .rds 0).die 0).busy = true
    ∧ (sent homes .rds 0).homeCheck 512 6 (.core 0) ((sent homes .rds 0).intervalOf 512) ((sent homes .rds 0).digestOf 512) = none
    ∧ ((((sent homes .rds 0).core 0).l1.map (·.1)).filter (fun x => x != 512 && sameSet false x 512)).length < ((sent homes .rds 0).core 0).l1Banks / 2
    ∧ busyIs (sent (traffic [(.rds, 0)]) .rds 1) (fun b => b.msgs.contains (.fwdS (.core 0))) = true :=
  ⟨noInjector_of (by decide +kernel), by decide +kernel, by decide +kernel, by decide +kernel, by decide +kernel, by decide +kernel⟩

/-- Core 0, clean and dirty, is asked by core 1 to share, and to give way; core 1 is told of core 2's write. -/
theorem witness_Coherence_forward (k : Req) (e : k = .rds ∨ k = .rdx) (r : Req) (f : r = .rds ∨ r = .rdx) :
    NoInjector (sent (traffic [(k, 0)]) r 1) ∧ isHostLine (sent (traffic [(k, 0)]) r 1) 512 = false
    ∧ AMap.sorted ((sent (traffic [(k, 0)]) r 1).core 0).l1 = true ∧ AMap.find? ((sent (traffic [(k, 0)]) r 1).core 0).wbuf 512 = none
    ∧ ((sent (traffic [(k, 0)]) r 1).dirOf 512).st = .x
    ∧ busyIs (sent (traffic [(k, 0)]) r 1) (fun b => decide (b.msgs
        = (if r = .rds then [.fwdS (.core 0), .grant (.core 1) .s false] else [.fwdX (.core 0), .grant (.core 1) .m false]))
      && b.stamps.all (fun p => p.1 != .core 1) && b.report.isNone) = true
    ∧ (∀ x ∈ ((sent (traffic [(k, 0)]) r 1).dirOf 512).holders, x = .core 0 ∨ x = .core 1)
    ∧ ((AMap.find? ((sent (traffic [(k, 0)]) r 1).core 0).l1 512).map (fun l =>
        (sent (traffic [(k, 0)]) r 1).homeCheck 512 4 (.core 0) l.interval ((sent (traffic [(k, 0)]) r 1).digestOf 512))) = some none := by
  rcases e with rfl | rfl <;> rcases f with rfl | rfl <;> refine ⟨noInjector_of (by decide +kernel), ?_⟩ <;> and_intros <;> decide +kernel
theorem witness_Coherence_inv : busyIs (sent (traffic [(.rds, 0), (.rds, 1)]) .upg 1) (fun b => decide (b.msgs = [.inv (.core 0), .grant (.core 1) .m false])
      && b.stamps.all (fun p => p.1 != .core 1) && b.report.isNone) = true
    ∧ (∀ x ∈ ((sent (traffic [(.rds, 0), (.rds, 1)]) .upg 1).dirOf 512).holders, x = .core 0 ∨ x = .core 1)
    ∧ ((AMap.find? ((sent (traffic [(.rds, 0), (.rds, 1)]) .upg 1).core 0).l1 512).map (fun l =>
        (sent (traffic [(.rds, 0), (.rds, 1)]) .upg 1).homeCheck 512 6 (.core 0) l.interval
          ((sent (traffic [(.rds, 0), (.rds, 1)]) .upg 1).digestOf 512))) = some none := by
  decide +kernel

/-- A dirty eviction from X and from O, a clean one from X and from S, and a recall. -/
theorem witness_Coherence_evict (ops : List (Req × Nat)) (e : ops ∈ [[(.rdx, 0)], [(.rdx, 0), (.rds, 1)], [(.rds, 0)], [(.rds, 0), (.rds, 1)]]) :
    NoInjector (traffic ops) ∧ LineReady (traffic ops) 512 ∧ AMap.sorted ((traffic ops).core 0).l1 = true
    ∧ AMap.find? ((traffic ops).core 0).wbuf 512 = none ∧ (((traffic ops).recallOut 512).dirOf 512).st ≠ .n
    ∧ ((AMap.find? ((traffic ops).core 0).l1 512).map (fun l => decide ((traffic ops).homeCheck 512 7 (.core 0) l.interval ((traffic ops).digestOf 512) = none)
        && decide ((traffic ops).homeCheck 512 8 (.core 0) l.interval ((traffic ops).digestOf 512) = none))) = some true := by
  simp only [List.mem_cons, List.mem_nil_iff, or_false] at e
  rcases e with rfl | rfl | rfl | rfl <;>
    exact ⟨noInjector_of (by decide +kernel), lineReady_of (by decide +kernel), by decide +kernel, by decide +kernel, by decide +kernel, by decide +kernel⟩

/-- A host line of the filter in I; a line of the home whose entry is not dirty. -/
def hostLine (f : FilterEntry) : State := { homes with ctl := { bias := [16], filter := [(512, f)], decoders := [⟨0x400000000000, 2 ^ 30, 0, true⟩] } }
theorem witness_Coherence_others : isHostLine (hostLine { host := some .m }) 512 = true ∧ (hostLine { host := some .m }).homeFree 512 = true
    ∧ AMap.find? (hostLine { host := some .m }).ctl.filter 512 = some { host := some .m } ∧ homes.homeFree 512 = true
    ∧ deviceMem homes (512 * 128) = true ∧ isHostLine homes 512 = false ∧ AMap.sorted homes.backing = true ∧ NoInjector homes :=
  ⟨by decide +kernel, by decide +kernel, by decide +kernel, by decide +kernel, by decide +kernel, by decide +kernel, by decide, noInjector_of (by decide)⟩
/-! ### The host, storage ports -/

/-- Coherence that goes on from a state, for the reads and writes of a home. -/
def goesOn (x : Coh) : Bool := cohOk x

/-- A line of the filter that the host granted, dirty and clean, with the copies of the package out of the way. -/
theorem witness_Hosts_snoop (f : FilterEntry) (e : f = { host := some .m } ∨ f = { host := some .s }) :
    AMap.find? ((hostLine f).die (homeOf (hostLine f) 512)).busy 512 = none ∧ isHostLine (hostLine f) 512 = true
    ∧ AMap.find? (hostLine f).ctl.filter 512 = some f ∧ f.host ≠ none ∧ f.asked = none ∧ f.dir.st ≠ .n
    ∧ AMap.sorted (hostLine f).ctl.filter = true ∧ (((hostLine f).recallOut 512).dirOf 512).st ≠ .n
    ∧ (((hostLine f).shareLine 512).dirOf 512).st ≠ .n ∧ AMap.find? homes.ctl.filter 512 = none := by
  rcases e with rfl | rfl <;> and_intros <;> decide +kernel

/-- An access of a host port to 128 bytes across the start of line 513: idle, busy, held by a flip of its page. -/
def access (pa : Nat) (v : Option Nat) : PhysReq := ⟨.host 3, pa, 128, v⟩
def flipPage : Flip := { asid := 0, base := 0x10000, len := 0x1000, host := false, leaves := [(⟨0, 0x10000, 0x1000, 0x10000, 0xC7A, 0, false⟩, 0x104080)] }
theorem witness_Hosts_access : regionOf homes 0x10010 = .hbm ∧ regionOf homes (0x10010 + 128 - 1) = .hbm
    ∧ homes.flipHoldsPa 0x10010 = false ∧ homes.flipHoldsPa (0x10010 + 127) = false
    ∧ (∀ l ∈ linesOf 0x10010 128, homes.homePoison l = none ∧ isHostLine homes l = false)
    ∧ goesOn (homeReadLines (.host 3) ((linesOf 0x10010 128).filter (fun l => !isHostLine homes l)) homes) = true
    ∧ goesOn (homeTakeWrites (.host 3) 10 0x10010 (leBytes 128 (2 ^ 1024 - 1)) ((linesOf 0x10010 128).filter (fun l => !isHostLine homes l)) homes) = true
    ∧ ({ homes with ctl := { flips := [(0, flipPage)] } } : State).flipHoldsPa 0x10FFF = true
    ∧ linesOf 0x10000 128 = [512] ∧ (sent homes .rds 0).busyLine 512 = true ∧ (sent homes .rds 0).homePoison 512 = none
    ∧ isHostLine (sent homes .rds 0) 512 = false ∧ Memory.wf homes.mem = true := by
  and_intros <;> decide +kernel

/-- The regions at their first and last bytes. -/
theorem witness_Hosts_regions : regionOf homes windowBase = .window ∧ regionOf homes (windowBase + 0x1FFF) = .window
    ∧ regionOf homes 0x100001000000 = .stream ∧ regionOf homes 0x100010FFFFFF = .stream ∧ regionOf homes (windowBase + 0x2000) = .reserved
    ∧ regionOf homes 0x080800000000 = .storage ∧ regionOf homes 0x080FFFFFFFFF = .storage ∧ regionOf homes 0x8000000000000 = .host ∧ regionOf homes 0xFFFFFFFFFFFFF = .peer
    ∧ (access windowBase none).agent ≠ .storage 0 := by and_intros <;> decide

/-- Uncached accesses and atomics at a home. -/
theorem witness_Hosts_uncached : (∀ l ∈ linesOf 0x10010 128, deviceMem homes (l * 128) = true) ∧ (access 0x10010 none).size ≠ 0
    ∧ goesOn (uncachedLines (linesOf 0x10010 128) homes) = true ∧ AMap.sorted homes.backing = true
    ∧ goesOn (homeTakeWrites (.host 3) (writeType (.host 3)) 0x10010 (leBytes 128 5) (linesOf 0x10010 128) homes) = true
    ∧ (∃ l ∈ linesOf 0x3FFFFFFFF80 256, regionOf homes (l * 128) = .reserved)
    ∧ deviceMem homes 0x10004 = true ∧ 0x10004 % Elem.i64.bytes ≠ 0 ∧ goesOn (homes.acquireAtomic (.host 3) 0x10078 .i64) = true
    ∧ 0x10078 % Elem.i64.bytes = 0 := by
  refine ⟨by decide, by decide, by decide +kernel, rfl, by decide +kernel, ⟨0x7FFFFFFFF, by decide, by decide⟩, by decide, by decide, by decide +kernel, by decide⟩

/-- A storage port with a span of 4 KiB at 0x10000, and accesses before, in and past it. -/
theorem witness_Hosts_storage : ∃ (s : State) (p : Storage), AMap.find? s.ctl.storage 1 = some p ∧ 0x1FFF < p.ibbase ∧ p.ibbase + p.ibsize < 0x2FC1 + 64
    ∧ p.spanIn s = true ∧ p.ibbase ≤ 0x2FC0 ∧ 0x2FC0 + 64 ≤ p.ibbase + p.ibsize
    ∧ regionOf s (p.ibtgt + (0x2FC0 - p.ibbase)) ≠ .reserved ∧ regionOf s (p.ibtgt + (0x2FC0 - p.ibbase) + 64 - 1) ≠ .reserved :=
  ⟨{ homes with ctl := { storage := [(1, { ibbase := 0x2000, ibsize := 0x1000, ibtgt := 0x10000 })] } }, _, rfl, by decide, by decide, by decide,
    by decide, by decide, by decide, by decide⟩

/-- A line asked for, and one being returned; a store to a register and to a storage port under way. -/
theorem witness_Hosts_answers : (∃ (s : State) (f : FilterEntry), AMap.find? s.ctl.filter 512 = some f ∧ AMap.sorted s.ctl.filter = true
      ∧ isHostLine s 512 = true ∧ f.evicting = false ∧ f.asked ≠ none)
    ∧ (∃ (s : State) (f : FilterEntry), AMap.find? s.ctl.filter 512 = some f ∧ f.evicting = true)
    ∧ ∃ h x, (lab h).holder? 0 0 = some h ∧ h.ext = [x] ∧ x.idx = none ∧ x.wq = none ∧ x.data = some 7 ∧ x.failed = none ∧ x.atom = none
      ∧ x.whole = false ∧ regionOf (lab h) x.pa = .reg
      ∧ ((lab h).regWrite false (x.pa - regBase) x.size 7).holder? 0 0 = some h
      ∧ regionOf ((lab h).regWrite false (x.pa - regBase) x.size 7) x.pa = .reg
      ∧ ∃ h x, (lab h).holder? 0 0 = some h ∧ h.ext = [x] ∧ x.idx = none ∧ x.wq = none ∧ x.data = some 7 ∧ x.failed = none ∧ x.atom = none
        ∧ x.whole = false ∧ regionOf (lab h) x.pa = .storage :=
  ⟨⟨hostLine { asked := some true }, { asked := some true }, by decide, rfl, by decide, rfl, by decide⟩, ⟨hostLine { evicting := true }, { evicting := true }, by decide, rfl⟩,
    { group with ext := [{ idx := none, pa := regBase + 0x2100_0010, size := 4, data := some 7, lane := 127, ea := 0, tag := 0, pc := 0 }] }, _,
    by decide, rfl, rfl, rfl, rfl, rfl, rfl, rfl, by decide, by decide +kernel, by decide +kernel,
    { group with ext := [{ idx := none, pa := 0x080800000000, size := 4, data := some 7, lane := 127, ea := 0, tag := 0, pc := 0 }] }, _,
    by decide, rfl, rfl, rfl, rfl, rfl, rfl, rfl, by decide⟩

/-! ### Checking and repair -/

/-- A core whose newest release is the only one, of each kind. -/
def releasing (k : RelKind) (f : Floors := {}) (t : List TasterEntry := []) : State :=
  at0 group { releases := [{ slot := 0, scope := .dev, kind := k, pc := 0x10000, seq := 7 }], floors := [(0, f)], taster := t }
/-- An entry of slot 0. -/
def entry (k n : Nat) : TasterEntry := { max := n, min := n, sig := 0, slot := 0, kind := k, order := 0, scope := 4, seq := 7 }
theorem witness_Checking_release (k : RelKind) (f : Floors) (e : f = {} ∨ f = { contain := 5 }) :
    ReleaseGoes (releasing k f [entry 3 0]) 0 { slot := 0, scope := .dev, kind := k, pc := 0x10000, seq := 7 } group := by
  rcases e with rfl | rfl <;>
    exact ⟨rfl, rfl, rfl, rfl, rfl, fun x m => by
        obtain rfl : x = entry 3 0 := List.mem_singleton.1 m
        exact ⟨Or.inr (Nat.le_refl 7), fun _ => Or.inl rfl⟩, rfl, fun _ _ => rfl, rfl⟩
theorem witness_Checking_earlier : ∃ r e, ((releasing .fencex {} [{ entry 0 0 with seq := 6 }]).core 0).releases = [r]
    ∧ e ∈ ((releasing .fencex {} [{ entry 0 0 with seq := 6 }]).core 0).taster ∧ e.slot = r.slot ∧ e.seq < r.seq :=
  ⟨_, { entry 0 0 with seq := 6 }, rfl, List.mem_singleton.2 rfl, rfl, by decide⟩

/-- A read of slot 0, which started at 5, with a stamp of n: above the floor at 6, not at 5. -/
def reader (n : Nat) : Core := { taster := [entry 0 n], lclock := 9, floors := [(0, { start := 5 })] }
theorem witness_Checking_read (n : Nat) : (reader n).taster = [entry 0 n] ∧ (entry 0 n).stamped = true ∧ (entry 0 n).kind = 0
    ∧ (entry 0 n).order = 0 ∧ (entry 0 n).dep = 0 ∧ (entry 0 n).fencex = false ∧ ((reader n).floor 0).parts = []
    ∧ readFloor ((reader n).floor 0) = 5 ∧ (reader n).lclock = 9 ∧ ¬after48 ((9 + 2 ^ 48 - 2 ^ 40) % 2 ^ 48) 5 ∧ ((reader n).floor 0).contain = 0
    ∧ after48 6 5 ∧ ¬after48 5 5 :=
  ⟨rfl, rfl, rfl, rfl, rfl, rfl, rfl, rfl, rfl, by unfold after48; decide, rfl, by unfold after48; decide, by unfold after48; decide⟩

/-- The moment at which core 1's epoch closes, with one home, and another moment. -/
theorem witness_Checking_close : ∃ s : State, s.clock % 65536 = 256 * 1 % 65536 ∧ ((s.die (dieOf 1)).checker 1 (1 % 32)).peers = [2 * 2 ^ 12 + 2 * 2 ^ 9]
    ∧ (2 * 2 ^ 12 + 2 * 2 ^ 9) / 2 ^ 12 < 9 ∧ (0 : Nat) % 65536 ≠ 256 * 1 % 65536 :=
  ⟨{ clock := 65536 + 256, dies := [(0, { checkers := [(2 ^ 9 + 1, { sentCnt := [(2 * 2 ^ 12 + 2 * 2 ^ 9, 5)] })] })] }, by decide, by decide, by decide, by decide⟩

/-- Sums that agree, sums that do not, and counts that do not, in time and late. -/
def closing (a b c d : Nat) (at_ : Nat := 0) : EpochClose := ⟨1, 2 * 2 ^ 12 + 2 * 2 ^ 9, (a, c), (b, d), (0, 0), (0, 0), 3, at_, []⟩
theorem witness_Checking_compare : (closing 5 5 1 1).core = 1 ∧ (closing 5 5 1 1).home / 2 ^ 12 = 2 ∧ (closing 5 5 1 1).sent = (closing 5 5 1 1).got
    ∧ (closing 5 6 1 1).sent.1 ≠ (closing 5 6 1 1).got.1 ∧ (closing 5 6 1 1).sent.2 = (closing 5 6 1 1).got.2
    ∧ (closing 5 6 2 1).sent.2 ≠ (closing 5 6 2 1).got.2 ∧ (closing 5 6 2 1).at_ + 8192 ≤ 8192 ∧ 8191 < (closing 5 6 2 1).at_ + 8192
    ∧ (({ dies := [(2, { closes := [closing 5 5 1 1] })] } : State).die 2).closes = [closing 5 5 1 1] := by
  and_intros <;> decide

/-- SCRADDR names core 33's Cupper and a checker of another type; a line in N and one that is not. -/
def scrub (a : Nat) (d : Die) : State := { homes with ctl := { scraddr := a }, dies := [(0, { d with online := true, powered := true })] }
theorem witness_Checking_repair : (field (scrub 0x1201 {}).ctl.scraddr 0 16 / 2 ^ 9 % 8 = 1)
    ∧ (scrub 0x1201 { quarantined := [(33, 5)] }).dies.any (fun p => AMap.has p.2.quarantined (32 * (0x1201 / 2 ^ 12) + 0x1201 % 2 ^ 9)) = true
    ∧ (∀ p ∈ (scrub 0x1201 { quarantined := [(33, 5)] }).dies, AMap.sorted p.2.quarantined = true)
    ∧ field (scrub 0x1401 {}).ctl.scraddr 0 16 / 2 ^ 9 % 8 ≠ 1
    ∧ ((scrub 512 { dir := [(512, { st := .n })] }).dirOf (field (scrub 512 {}).ctl.scraddr 0 45)).st = .n
    ∧ (scrub 512 { dir := [(512, { st := .n })] }).ctl.scrBusy = false ∧ deviceMem (scrub 512 {}) (512 * 128) = true
    ∧ ((scrub 512 {}).dirOf 512).st ≠ .n ∧ (scrub 512 { dir := [(512, { st := .n })] }).busyLine 512 = false := by
  and_intros <;> decide +kernel

/-- A grant of ownership under way to core 32 over the link between dies 0 and 1; a peer's access held at its port. -/
def far : State := { homes with
  cores := [(0, { l1Banks := 32 }), (32, { l1Banks := 32 })]
  dies := [(0, { online := true, powered := true, msc := [(512, false)], links := [1, 8] }), (1, { online := true, powered := true, links := [0, 8] })] }
theorem witness_Checking_flit : (sent far .rds 32).linkLines 1 0 = [512] ∧ (sent far .rds 32).ownershipMoves 512 = true
    ∧ (sent far .rds 32).ownedDirty 512 = true ∧ ((sent far .rds 32).dirOf 512).st ≠ .n ∧ (homeDie (sent far .rds 32) (512 * 128)).isSome = true
    ∧ far.ownershipMoves 512 = false ∧ far.ownedDirty 512 = false ∧ (far.dirOf 512).st ≠ .n ∧ 512 ∉ (far.die (far.lineDie 512)).reread
    ∧ 512 ∈ ((scrub 0 { reread := [512] }).die 0).reread ∧ far.peerAsks = [] := by
  and_intros <;> decide +kernel
/-! ### The fabric, peers, the pod -/

/-- A port that expects flit 4095 and keeps flits 7 and 8, replayed n times. -/
def ported (n : Nat) : State := { ctl := { links := [(5, { rxExpect := 4095, unacked := [7, 8], replays := n, kept := [] })] } }
theorem witness_Fabric_flits : (⟨4095, 8, 1, 0, true⟩ : Flit).crcOk = true ∧ (⟨4095, 8, 1, 0, true⟩ : Flit).seq = ((ported 0).link 5).rxExpect
    ∧ (∀ x ∈ ((ported 15).link 5).unacked, 256 < (7 + 4096 - x % 4096) % 4096 ∨ (7 + 4096 - x % 4096) % 4096 = 0)
    ∧ ((ported 15).link 5).unacked ≠ [] ∧ ((ported 15).link 5).replays < 16 ∧ ((ported 16).link 5).replays = 16
    ∧ (∀ x ∈ ((ported 16).link 5).kept, ∀ r o, x.2 ≠ .peer r o)
    ∧ far.linkUp 0 1 = true ∧ far.linkFlits 0 1 = [] ∧ far.linkUp 0 2 = false :=
  ⟨rfl, rfl, by decide, by decide, by decide, by decide, fun x m => absurd m List.not_mem_nil, by decide +kernel, by decide +kernel, by decide⟩

/-- A handle of package 9's export 1, generation 3, of 4 KiB, to be read; the bits above its check. -/
def handleBits : Nat := 9 * 2 ^ 37 + 1 * 2 ^ 21 + 3 * 2 ^ 13 + 12 * 2 ^ 7 + 1 * 2 ^ 4
def handle (bits : Nat) : Nat := bits * 2 ^ 16 + handleCheck bits
theorem handle_fields (bits : Nat) (o n : Nat) (e : 16 ≤ o) : field (handle bits) o n = field bits (o - 16) n := by
  have c : handleCheck bits < 2 ^ 16 := Nat.mod_lt _ (by decide)
  obtain ⟨k, rfl⟩ := Nat.exists_eq_add_of_le e
  simp only [field, handle, Nat.add_sub_cancel_left]
  rw [Nat.pow_add, ← Nat.div_div_eq_div_mul, Nat.mul_comm bits, Nat.mul_add_div (by decide), Nat.div_eq_of_lt c, Nat.add_zero]
theorem handle_check (bits : Nat) (e : bits < 2 ^ 48) : field (handle bits) 0 16 = handleCheck (field (handle bits) 16 48) := by
  have c : handleCheck bits < 2 ^ 16 := Nat.mod_lt _ (by decide)
  rw [handle_fields _ _ _ (Nat.le_refl 16)]
  have : field bits (16 - 16) 48 = bits := by
    show bits / 2 ^ 0 % 2 ^ 48 = bits
    rw [Nat.pow_zero, Nat.div_one, Nat.mod_eq_of_lt e]
  rw [this]
  simp only [field, handle, Nat.pow_zero, Nat.div_one]
  omega

theorem handle_bit (bits i : Nat) (e : 16 ≤ i) : bitN (handle bits) i = bitN bits (i - 16) := by
  have h := handle_fields bits i 1 e
  simp only [field, Nat.pow_one] at h
  simp only [bitN, h]

/-- A slot in a state, and what the pod map says of package 9. -/
def slotted (p : PeerSlot) (st : Nat) : State := { homes with ctl := { peers := [(4095, p)], podMap := [(9, ⟨9, st, 9⟩)] } }
theorem witness_Fabric_handles : handleGood (handle handleBits) ∧ ¬handleGood 0 ∧ field (handle handleBits) 53 11 = 9
    ∧ podState (slotted {} 1) 9 ≠ some 3 ∧ podState (slotted {} 3) 9 = some 3 ∧ ((slotted {} 1).peer 4095).st = .empty
    ∧ ((slotted { st := .installing } 1).peer 4095).st = .installing ∧ ((slotted { st := .active } 1).peer 4095).st = .active
    ∧ ((slotted { st := .draining } 1).peer 4095).st = .draining ∧ ((slotted { st := .draining, inflight := 1 } 1).peer 4095).inflight ≠ 0 := by
  refine ⟨?_, ?_, ?_, ?_, ?_, ?_, ?_, ?_, ?_, ?_⟩
  · simp only [handleGood, handle_bit _ _ (show 16 ≤ 20 by decide), handle_fields _ _ _ (show 16 ≤ 53 by decide), handle_fields _ _ _ (show 16 ≤ 23 by decide),
      handle_fields _ _ _ (Nat.le_refl 16)]
    decide
  · simp only [handleGood]; decide
  · rw [handle_fields _ _ _ (by decide)]; decide
  all_goals decide

/-- The owner: export 1 of 4 KiB at 0x10000 with every right, of generation 3. -/
def exported : Nat := 31 * 2 ^ 57 + 3 * 2 ^ 62 + 12 * 2 ^ 70 + 0x10000 * 2 ^ 76
def exporter : State := { homes with mem := Memory.writeLE [] 0x20010 16 exported, ctl := { expbase := 0x20000 } }
/-- A peer's request at the end of the export. -/
def asked (op : PeerOp) : PeerReq := ⟨9, 1, 3, 0xFF8, op, 77⟩
theorem witness_Fabric_owner : exporter.exportEntry 1 = some exported ∧ exportGood exporter exported ∧ field exported 62 8 = 3
    ∧ 0xFF8 + 8 ≤ 2 ^ field exported 70 6 ∧ field exported 76 52 + 0xFF8 = 0x10FF8 ∧ exporter.exportEntry 65536 = none
    ∧ exporter.flipHoldsPa 0x10FF8 = false ∧ exporter.flipHoldsPa (0x10FF8 + 8 - 1) = false ∧ Memory.wf exporter.mem = true
    ∧ (∃ s1, (if Config.exportUncached 1 then uncachedLines (linesOf 0x10FF8 8) exporter
        else readLines { ctlCtx 0 with agent := .peer 9 } (linesOf 0x10FF8 8) exporter) = .ok s1)
    ∧ (∃ s1, homeTakeWrites (.peer 9) 14 0x10FF8 (leBytes 8 5) (linesOf 0x10FF8 8) exporter = .ok s1)
    ∧ (∃ s1, exporter.acquireAtomic (.peer 9) 0x10FF8 .i64 = .ok s1)
    ∧ field (handle handleBits) 0 16 = handleCheck (field (handle handleBits) 16 48) ∧ field (handle handleBits) 37 16 = 1 := by
  refine ⟨by decide +kernel, ?_, by decide, by decide, by decide, by decide +kernel, by decide +kernel, by decide +kernel, by decide +kernel, ?_,
    coh_of (by decide +kernel), coh_of (by decide +kernel), handle_check _ (by decide), by rw [handle_fields _ _ _ (by decide)]; decide⟩
  · unfold exportGood; decide +kernel
  · cases Config.exportUncached 1
    · exact coh_of (x := readLines _ _ _) (by decide +kernel)
    · exact coh_of (x := uncachedLines _ _) (by decide +kernel)

/-- A store to a peer under way. -/
def storing : Holder := { group with
  ext := [{ idx := none, pa := 0xFFFC000000000, size := 4, data := some 7, lane := 5, ea := 0x4000, tag := 0, pc := 0xFFF8 }] }
theorem witness_Fabric_reply : (lab storing).orphanReply 0 0 = none ∧ (lab storing).holder? 0 0 = some storing
    ∧ (∃ x, storing.ext = [x] ∧ x.idx = none ∧ x.wq = none ∧ x.data = some 7 ∧ x.failed = none ∧ x.atom = none ∧ x.whole = false
      ∧ regionOf (lab storing) x.pa = .peer) :=
  ⟨by decide, by decide, _, rfl, rfl, rfl, rfl, rfl, rfl, rfl, by decide⟩

/-- Package 9 takes part, 12 stands by, with three heartbeats missed. -/
def heart (n : Nat) : State := { ctl := { podMap := [(9, ⟨9, 1, 9⟩), (12, ⟨12, 2, 12⟩)], heartbeats := [(9, n)], podEpoch := 6 } }
theorem witness_Fabric_pod : (7 : Nat) > (heart 3).ctl.podEpoch ∧ (6 : Nat) ≤ (heart 3).ctl.podEpoch ∧ (9 : Nat) ≠ Config.pkgId
    ∧ AMap.find? (heart 3).ctl.podMap 9 = some ⟨9, 1, 9⟩ ∧ (heart 3).slotsOf 9 = []
    ∧ List.find? (fun (y : Nat × PodEntry) => y.2.state == 2 && y.1 != 9) (heart 3).ctl.podMap = some (12, ⟨12, 2, 12⟩)
    ∧ AMap.sorted (heart 3).ctl.routing = true ∧ AMap.getD (heart 3).ctl.heartbeats 9 0 = 3 ∧ AMap.getD (heart 2).ctl.heartbeats 9 0 < 3 := by
  and_intros <;> decide

/-! ### The matrix engine -/

/-- Entry n of the table: tile t of slot 0, 8 rows of an octet, born at clock b; its B tile of 64 bytes at 0x10000. -/
def rowsEntry (n t : Nat) (st : Bool) (b : Nat := 0) (prio : Nat := 0) : MatEntry :=
  { id := n, core := 0, slot := 0, grid := 0, team := 0, tile := t, asid := 0, b := 0x10000, i := 0, fb := 6 * 2 ^ 140 + 7 * 2 ^ 136, prio := prio
    born := b, rows := 0xFF#96, bsegs := [(0x10000, 64, 0)], ssegs := [], zero := false, staged := st }
/-- A cluster with these entries, and passes in the fetch stage and the array. -/
def engine (es : List MatEntry) (f a : Option Pass := none) (clock : Nat := 0) : State :=
  { homes with
    clock := clock
    clusters := [(0, { powered := true, table := es, fetch := f, array := a, tiles := [(0, tile16), (1, tile16)] })] }

/-- Rows in; a scale that a peer holds; a name that no entry has. -/
theorem witness_Matrix_staging : (∃ e : MatEntry, e.staged = false ∧ e.todo = [] ∧ e.id ≠ 9)
    ∧ ∃ (e : MatEntry) (m pa : Nat), e.staged = false ∧ e.todo = [(m, pa)] ∧ AMap.find? e.aScales (1000 + m) = none
      ∧ regionOf (engine [e]) pa = .peer :=
  ⟨⟨rowsEntry 3 0 false, rfl, rfl, by decide⟩, { rowsEntry 3 0 false with todo := [(5, 0xC000000000000)] }, 5, 0xC000000000000, rfl, rfl, rfl, by decide⟩

/-- One entry that may start; two of one tile, the older not staged; two of one key, in both orders of age and priority. -/
theorem witness_Matrix_formation : ((engine [rowsEntry 3 0 true]).cluster 0).fetch = none ∧ (engine [rowsEntry 3 0 true]).dieHalted (0 / 8) = false
    ∧ EntryFree (engine [rowsEntry 3 0 true]) ((engine [rowsEntry 3 0 true]).cluster 0) (rowsEntry 3 0 true)
    ∧ (rowsEntry 3 0 false).tile = (rowsEntry 4 0 true).tile ∧ (rowsEntry 3 0 false).staged = false
    ∧ (rowsEntry 3 0 false).id ∉ inPasses ((engine [rowsEntry 3 0 false, rowsEntry 4 0 true]).cluster 0)
    ∧ EntryFree (engine [rowsEntry 3 0 true, rowsEntry 4 1 true]) ((engine [rowsEntry 3 0 true, rowsEntry 4 1 true]).cluster 0) (rowsEntry 3 0 true)
    ∧ EntryFree (engine [rowsEntry 3 0 true, rowsEntry 4 1 true]) ((engine [rowsEntry 3 0 true, rowsEntry 4 1 true]).cluster 0) (rowsEntry 4 1 true)
    ∧ sameKey (rowsEntry 3 0 true) (rowsEntry 4 1 true) = true ∧ rowsOf (rowsEntry 3 0 true) + rowsOf (rowsEntry 4 1 true) ≤ 96
    ∧ 4096 ≤ 4096 - (rowsEntry 3 0 true).born ∧ 4095 - (rowsEntry 3 0 true).born < 4096 ∧ (rowsEntry 3 0 true).prio < (rowsEntry 4 1 true 0 1).prio := by
  have free (n t : Nat) (l : List MatEntry) : EntryFree (engine l) ((engine l).cluster 0) (rowsEntry n t true) :=
    ⟨rfl, by simp [inPasses, engine, State.cluster, AMap.getD, AMap.find?], fun h e => absurd ((show (engine l).holder? 0 0 = none by rfl).symm.trans e) (by simp)⟩
  refine ⟨rfl, by decide, free _ _ _, rfl, rfl, by decide, free _ _ _, free _ _ _, by decide, by decide, by decide, by decide, by decide⟩

/-- A pass whose B tile is in, with the array free and not; one that has a piece to read. -/
def pass : Pass := { entries := [3], got := leBytes 2048 0 }
theorem witness_Matrix_fetch : ((engine [rowsEntry 3 0 true] (some pass)).cluster 0).fetch = some pass ∧ pass.todo = []
    ∧ ((engine [rowsEntry 3 0 true] (some pass)).cluster 0).array = none ∧ ((engine [rowsEntry 3 0 true] (some pass) (some pass)).cluster 0).array ≠ none
    ∧ (∀ e ∈ ((engine [rowsEntry 3 0 true] (some pass)).cluster 0).table, e.sspm = none)
    ∧ ∃ p, ((engine [rowsEntry 3 0 true] (some p)).cluster 0).fetch = some p ∧ p.todo = [(0x10000, 64, 0)] ∧ p.asked = false
      ∧ regionOf (engine [rowsEntry 3 0 true] (some p)) 0x10000 = .hbm ∧ pteType 0 ≠ 1 ∧ NoInjector (engine [rowsEntry 3 0 true] (some p))
      ∧ linesOf 0x10000 64 = [512] ∧ LineReady (engine [rowsEntry 3 0 true] (some p)) 512
      ∧ ((engine [rowsEntry 3 0 true] (some p)).dirOf 512).st = .i :=
  ⟨rfl, rfl, rfl, by decide, by decide, { entries := [3], todo := [(0x10000, 64, 0)] }, rfl, rfl, rfl, by decide, by decide, noInjector_of (by decide), by decide,
    lineReady_of (by decide +kernel), by decide +kernel⟩

/-- A pass of one entry in the array, clean and poisoned. -/
theorem witness_Matrix_leaves : ((engine [rowsEntry 3 0 true] none (some pass)).cluster 0).array = some pass ∧ pass.entries = [(rowsEntry 3 0 true).id]
    ∧ AMap.find? ((engine [rowsEntry 3 0 true] none (some pass)).cluster 0).tiles (rowsEntry 3 0 true).tile = some tile16
    ∧ AMap.sorted tile16.elems = true ∧ (∀ y ∈ ((engine [rowsEntry 3 0 true] none (some pass)).cluster 0).tiles, y.2.orphan = false) ∧ tile16.cols ≤ 128
    ∧ pass.poison = 0 ∧ pass.payload = 0 ∧ field (rowsEntry 3 0 true).fb 140 4 = 6 ∧ field (rowsEntry 3 0 true).fb 136 4 = 7
    ∧ ∃ p, ((engine [rowsEntry 3 0 true] none (some p)).cluster 0).array = some p ∧ p.entries = [3] ∧ p.poison ≠ 0 :=
  ⟨rfl, rfl, rfl, rfl, by decide, by decide, rfl, rfl, by decide, by decide, { pass with poison := 5 }, rfl, rfl, by decide⟩

/-! ### Pre-emption and resets -/

/-- Core 0 of a package whose dies are asked to stop, with a holder that waits for a future; then halted, to be saved. -/
def stopping (c : Core := {}) (ds : List Nat := []) : State :=
  { at0 sleeper c with ctl := { haltDies := 0x81, saveBase := some 0x40000000, haltedCores := ds } }
theorem witness_Preemption_halt : (0x3FFFFFFF : Nat) % 2 ^ 30 ≠ 0 ∧ (0x40000000 : Nat) % 2 ^ 30 = 0 ∧ regionOf homes 0x40000000 = .hbm
    ∧ (stopping).dieHalted (dieOf 0) = true ∧ 0 ∉ (stopping).ctl.haltedCores ∧ ((stopping).core 0).releases = []
    ∧ ((stopping).core 0).delayed = [] ∧ ((stopping).core 0).arrivals = [] ∧ (stopping).ctl.wqArrivals = []
    ∧ AMap.sorted ((stopping).core 0).slots = true ∧ (∀ p ∈ ((stopping).core 0).slots, p.2.ll = [] ∧ p.2.ext = [] ∧ p.2.writers = [])
    ∧ (stopping).dieHalted (dieOf 32) = false ∧ (stopping {} [0]).ctl.saveBase = some 0x40000000 ∧ 0 ∈ (stopping {} [0]).ctl.haltedCores
    ∧ ((stopping {} [0]).cluster (cluOf 0)).table = [] ∧ (homes).ctl.saveBase = none := by
  and_intros <;> decide

/-- The save area of core 0 at 1 GiB, its record of slot 5 of a version: 1 is right. -/
def saveMem (version : Nat) : Memory :=
  [(0x404A0000, version), (0x404A0007, 1), (0x40800000, 32), (0x40800001, 5)].foldl (fun m (p : Nat × Nat) => Memory.writeLE m p.1 1 p.2) []
/-- Core 0's context away, with its holder or none; core 1 idle, core 2 halted and not saved. -/
def saved (l : List (Nat × Nat × Holder)) (version : Nat := 1) : State :=
  { mem := saveMem version
    cores := [(0, {}), (1, { l1Banks := 32, spmBanks := 5 }), (2, { slots := [(0, sleeper)] })]
    ctl := { saveBase := some 0x40000000, saved := l, savedCores := [(0, { tbase := 0x4000 })], haltedCores := [0, 1, 2], haltDies := 1 } }
theorem witness_Preemption_restore : (∀ p ∈ (saved []).cores, dieOf p.1 = dieOf 1 → p.1 ∈ (saved []).ctl.haltedCores)
    ∧ ((saved []).core 1).slots = [] ∧ AMap.find? (saved []).ctl.savedCores 2 = none ∧ (2 : Nat) ≠ 1
    ∧ AMap.find? (saved []).ctl.savedCores 0 = some { tbase := 0x4000 } ∧ AMap.getD (saved []).ctl.savedTiles 0 {} = {}
    ∧ AMap.sorted (saved []).ctl.savedCores = true ∧ (saved [(0, 5, sleeper)]).ctl.saved = [(0, 5, sleeper)]
    ∧ sleeper.accs = [] ∧ sleeper.outParts = [] ∧ sleeper.replay = []
    ∧ recordRefusal (saved [(0, 5, sleeper)]) 0x40000000 0 1 5 sleeper = 0
    ∧ recordRefusal (saved [(0, 5, sleeper)] 2) 0x40000000 0 1 5 sleeper = 1
    ∧ 2 ∈ (saved []).ctl.haltedCores ∧ (∀ p ∈ ((saved []).core 2).slots, p.2.replay = []) := by
  and_intros <;> decide +kernel

/-- A die in its reset, with the cores halted and with one that runs; a DDR tier with a byte of each; a journal. -/
def dying (l : List Nat) : State :=
  { homes with mem := Memory.writeLE [] 0x10000 1 5, ctl := { resetDie := some (0, 4, [9]), haltedCores := l } }
theorem witness_Resets : (homes.die 7).resetting = false ∧ homes.ctl.resetDie = none ∧ (homes.die 0).resetting = false
    ∧ (dying []).ctl.resetDie = some (0, 4, [9]) ∧ (∃ p ∈ (dying []).cores, p.1 ∉ (dying []).ctl.haltedCores)
    ∧ (∀ p ∈ (dying (List.range 8)).cores, p.1 ∈ (dying (List.range 8)).ctl.haltedCores) ∧ Memory.wf (dying []).mem = true
    ∧ (∀ p ∈ (dying (List.range 8)).cores, dieOf p.1 = 0 → p.2.wbuf = [] ∧ ∀ l ∈ p.2.l1, l.2.st ≠ .m ∧ l.2.st ≠ .o)
    ∧ ((dying []).die 0).resetting = false ∧ ((scrub 0 { resetting := true }).die 0).resetting = true
    ∧ (dying []).backing = [] ∧ lasts { homes with ctl := { ddrGiB := 1024 } } 0x040000000000 = true ∧ lasts homes 0x000FFC000000 = true
    ∧ lasts homes 0x000FFBFFFFFF = false ∧ inStacks homes 0 0x000FFBFFFFFF = true ∧ inStacks homes 0 0x000FFC000000 = false
    ∧ inStacks homes 1 0x002000000000 = true := by
  and_intros <;> decide +kernel

/-! ### Bring-up and power -/

/-- A package at a step of bring-up, its die 0 online and die 1 at a step. -/
def booted (k : Nat) (d : Die := {}) : State := { homes with dies := [(0, { online := true, powered := true }), (1, d)], ctl := { bootStep := k } }
theorem witness_BringUp : (booted 0).ctl.bootFailed = false ∧ 1 = (booted 0).ctl.bootStep + 1 ∧ 2 = (booted 1).ctl.bootStep + 1 ∧ 3 = (booted 2).ctl.bootStep + 1
    ∧ 3 ≠ (booted 0).ctl.bootStep + 1
    ∧ (1 < 8 ∧ 3 ≤ (booted 3).ctl.bootStep ∧ ((booted 3).die 1).online = false ∧ ((booted 3).die 1).failed = false
      ∧ ∀ k < 1, ((booted 3).die k).online = true)
    ∧ 1 = ((booted 3).die 1).step_ + 1 ∧ 11 = ((booted 3 { step_ := 10 }).die 1).step_ + 1 ∧ 4 = ((booted 3 { step_ := 3 }).die 1).step_ + 1
    ∧ linkExists 1 0 = true ∧ ¬(3 ≤ (booted 2).ctl.bootStep) ∧ ¬(12 : Nat) ≤ 11 := by
  and_intros <;> decide
theorem witness_DieTurn : DieTurn (booted 3) 1 ∧ DieTurn (booted 3 { step_ := 10 }) 1 ∧ ¬DieTurn (booted 2) 1 := by
  unfold DieTurn; and_intros <;> decide

/-- A cluster that may be gated, one that may not, one that is gated; a die behind its clusters, and a line held in it. -/
def power (up : Bool) (c : Core := {}) (d : Die := {}) : State :=
  { cores := [(4, c)], clusters := [(1, { powered := up })], dies := [(0, { d with online := true, powered := true })] }
theorem witness_Power : ((power true).cluster 1).powered = true ∧ CanGate (power true) 1 ∧ ¬CanGate (power true { slots := [(31, group)] }) 1
    ∧ ((power false).cluster 1).powered = false ∧ ((power false).die (1 / 8)).powered = true ∧ ((power false).die 0).online = true
    ∧ (∀ k < 8, ((power false).cluster (8 * 0 + k)).powered = false) ∧ (∀ e ∈ ((power false).die 0).dir, e.2.holders = []) ∧ (∀ f ∈ (power false).ctl.filter, homeDie (power false) (128 * f.1) = some 0 → f.2.dir.holders = [])
    ∧ ((power false).die 0).busy = []
    ∧ (∃ e ∈ ((power false {} { dir := [(512, { st := .x, owner := some (.core 32) })] }).die 0).dir, e.2.holders ≠ []) ∧ ((power false).die 5).online = false := by
  refine ⟨by decide, ?_, ?_, by decide, by decide, by decide, by decide, by decide, by decide, by decide, by decide, by decide⟩
  · unfold CanGate; decide
  · intro h
    exact absurd (h.1 0 (by decide)).1 (by decide)

/-! ### The front end -/

/-- The package with its firmware running, these tables of the control die, and the first 2 MiB mapped. -/
def front (c : Control) : State := { homes with mem := pages, ctl := { c with firmwareUp := true, atbase := 0x100000 } }
theorem witness_FrontEnd_window : 8192 < 128 * 63 + 1 + 128 ∧ (63 : Nat) < 64 ∧ Memory.wf homes.ctl.window = true
    ∧ goesOn (homeTakeWrites (.host 0) 10 (windowBase + 128 * 63) (leBytes 128 (2 ^ 1016)) (linesOf (windowBase + 128 * 63) 128) homes) = true
    ∧ (AMap.getD homes.ctl.lw 63 {}).pending = false ∧ (AMap.getD homes.ctl.lw 63 {}).expected = 1
    ∧ (AMap.getD (front { lw := [(63, { pending := true, captured := 5 })] }).ctl.lw 63 {}).pending = true
    ∧ (front { lw := [(63, { pending := true, captured := 5 })] }).ctl.firmwareUp = true
    ∧ (front { lw := [(63, { pending := true, captured := 5 })] }).ctl.jnext < 2 ^ 20
    ∧ (front { lw := [(63, { pending := true, captured := 5 })] }).ctl.journal = [] := by
  and_intros <;> decide +kernel

/-- A port whose FIFO holds `n` doorbells of queue 127 with Tail 16, and a queue of 16 packets that is on. -/
def bell (n v : Nat) (q : CmdQueue := { size := 4, enable := true }) : State :=
  front { ports := [(3, { fifo := List.replicate n (7, v) })], queues := [(127, q)], sems := [(9, 4)] }
theorem witness_FrontEnd_doorbell : ((bell 255 0).port 3).fifo.length < 256 ∧ 256 ≤ ((bell 256 0).port 3).fifo.length
    ∧ ((bell 1 (127 + 16 * 2 ^ 8)).port 3).fifo = (7, 127 + 16 * 2 ^ 8) :: [] ∧ (127 + 16 * 2 ^ 8) / 2 ^ 32 % 2 ^ 32 = 0
    ∧ (127 + 16 * 2 ^ 8) / 2 ^ 7 % 2 = 0 ∧ ((bell 1 0).queue 127).enable = true ∧ (127 + 16 * 2 ^ 8) % 2 ^ 7 = 127
    ∧ ((127 + 16 * 2 ^ 8) / 2 ^ 8 % 2 ^ 24 + 2 ^ 24 - ((bell 1 0).queue 127).head) % 2 ^ 24 ≤ 2 ^ ((bell 1 0).queue 127).size
    ∧ ¬((127 + 17 * 2 ^ 8) / 2 ^ 8 % 2 ^ 24 + 2 ^ 24 - ((bell 1 0).queue 127).head) % 2 ^ 24 ≤ 2 ^ ((bell 1 0).queue 127).size
    ∧ ((bell 0 0).port 3).fifo = [] ∧ AMap.getD (bell 0 0).ctl.sems 9 0 = 3 + 1 ∧ AMap.getD (bell 0 0).ctl.sems 8 0 = 0
    ∧ AMap.getD (bell 0 0).ctl.sems 9 0 ≠ 4 + 1 ∧ (bell 0 0).ctl.jnext < 2 ^ 20 := by
  and_intros <;> decide +kernel

/-- HomeServes as a Bool, for a state written out. -/
theorem served_of {s : State} {j : Nat} (e : (decide (s.homePoison (entryAt s j / 128) = none) && !s.busyLine (entryAt s j / 128)
    && decide ((s.dirOf (entryAt s j / 128)).st = .i) && !isHostLine s (entryAt s j / 128) && s.dies.all (fun p => !bitN p.2.eictl 31)) = true) :
    JournalServed s j := by
  simp only [Bool.and_eq_true, decide_eq_true_eq, Bool.not_eq_true'] at e
  exact ⟨⟨e.1.1.1.1, e.1.1.1.2, e.1.1.2, e.1.2⟩, noInjector_of e.2⟩

/-- A journal of one entry; a refused one, a doorbell, a captured record. -/
def logged (e : JEntry) : State := front { journal := [(5, e)], queues := [(3, { size := 4, enable := true })] }
theorem witness_FrontEnd_journal (e : JEntry) (x : e = { state := 4 } ∨ e = { type := 17, queue := 3, result := 2 } ∨ e = { type := 16, body := 5 }) :
    AMap.find? (logged e).ctl.journal 5 = some e ∧ e.accepted = false ∧ (∀ p ∈ (logged e).ctl.journal, p.1 < 5 → p.2.accepted = true)
    ∧ JournalServed (logged e) 5 ∧ Memory.wf (logged e).mem = true ∧ e.state < 256 ∧ AMap.has (logged e).ctl.taken 5 = false := by
  rcases x with rfl | rfl | rfl <;>
    exact ⟨rfl, rfl, by decide, served_of (by decide +kernel), by decide +kernel, by decide, by decide⟩
theorem witness_FrontEnd_waits : (∃ p ∈ (front { journal := [(4, {}), (5, {})] }).ctl.journal, p.1 < 5 ∧ p.2.accepted = false)
    ∧ AMap.find? (front { journal := [(4, {}), (5, {})] }).ctl.journal 5 = some {} ∧ ({} : JEntry).accepted = false
    ∧ ({ homes with dies := [], ctl := { journal := [(0, {})] } } : State).jready 0 = false := by
  and_intros <;> decide +kernel

/-- An invalidation that has ended, with and without a completion word. -/
def ending (c : Option Nat) (a : Bool) : JEntry := { type := 3, state := 2, ended := true, status := 5, completion := c, accepted := a }
theorem witness_FrontEnd_ends : AMap.find? (logged (ending none true)).ctl.journal 5 = some (ending none true)
    ∧ JournalServed (logged (ending none true)) 5 ∧ Memory.wf (logged (ending none true)).mem = true
    ∧ ∃ s1 bs, (logged (ending (some 0x10008) false)).ctlWrite 0 0x10008 (leBytes 4 5 ++ leBytes 4 5) = .ok s1 bs
      ∧ decide (AMap.find? s1.ctl.journal 5 = some (ending (some 0x10008) false)) = true :=
  ⟨rfl, served_of (by decide +kernel), by decide +kernel, ctl_of (by decide +kernel)⟩

/-- Descriptors of a queue that is off: good at either end of the sizes, and bad. -/
theorem witness_FrontEnd_descriptors : ((bell 1 0).queue 127).enable = true ∧ ((bell 1 0).queue 126).enable = false ∧ (bell 1 0).ctl.jnext < 2 ^ 20
    ∧ ((4 * 2 ^ 179 + 64 * 2 ^ 200 + 1) / 2 ^ 200 % 2 ^ 56 % 64 = 0 ∧ 4 ≤ (4 * 2 ^ 179 + 64 * 2 ^ 200 + 1) / 2 ^ 179 % 2 ^ 5)
    ∧ (20 * 2 ^ 179 + 1) / 2 ^ 179 % 2 ^ 5 ≤ 20 ∧ bitN (20 * 2 ^ 179 + 1) 0 = true ∧ ¬(21 * 2 ^ 179 + 1) / 2 ^ 179 % 2 ^ 5 ≤ 20
    ∧ ((queued pusher).wq 3).enable = true ∧ ((queued pusher).wq 3).sleepers = [] ∧ ((queued pusher).wq 4).enable = false
    ∧ (20 * 2 ^ 179 + 4 * 2 ^ 176 + 1) / 2 ^ 176 % 2 ^ 3 ≤ 4 ∧ ¬(20 * 2 ^ 179 + 5 * 2 ^ 176 + 1) / 2 ^ 176 % 2 ^ 3 ≤ 4 := by
  and_intros <;> decide +kernel

/-! ### Packets -/

/-- Queue 3 with packet `b` at its head, in the ring at 0x10000; work queue 3 is on. -/
def ringed (b : Nat) (q : CmdQueue := {}) (c : Control := {}) : State :=
  { front { c with queues := [(3, { q with base := 0x10000, size := 4, tail := 3, enable := true })], wqs := [(3, { base := 0x20000, size := 1, enable := true })] } with
    mem := Memory.writeLE pages 0x10000 64 b }
theorem witness_Packets_serves (b : Nat) (c : Control) (e : c.journal = [] ∧ c.jnext = 0) : Serves (ringed b {} c) 3 :=
  ⟨rfl, rfl, by show (0 : Nat) ≠ 3; decide, by simp [ringed, front, e.1], by simp [ringed, front, e.2]⟩

/-- The packet read at the head, and what is so of it. -/
def packetRead (s : State) (p : State → Nat → Bool) : Bool :=
  match s.ctlRead 0 (headAddress s 3) 64 with
  | .ok s1 bs => bs.length == 64 && p s1 (leValue bs)
  | _ => false
theorem packet_of {s : State} {p : State → Nat → Bool} (h : (s.queue 3).asid = 0) (e : packetRead s p = true) :
    ∃ s1 bs, s.ctlRead (s.queue 3).asid (headAddress s 3) 64 = .ok s1 bs ∧ bs.length = 64 ∧ p s1 (leValue bs) = true := by
  rw [h]
  unfold packetRead at e
  split at e
  · rename_i s1 bs d
    simp only [Bool.and_eq_true, beq_iff_eq] at e
    exact ⟨s1, bs, d, e.1, e.2⟩
  · cases e

theorem zerosHold_of {b : Nat} (e : (decide (pkt b 1 1 < 2) && decide (pkt b 2 6 = 0) && decide (pkt b 1 1 = 0 → pkt b 8 8 = 0)
    && decide (pkt b 0 1 = 3 → pkt b 34 1 < 2)
    && (List.range 64).all (fun k => decide (16 ≤ k → (∀ f ∈ bodyOf (pkt b 0 1), k < f.1 ∨ f.1 + f.2 ≤ k) → pkt b k 1 = 0))) = true) : zerosHold b := by
  simp only [Bool.and_eq_true, decide_eq_true_eq] at e
  exact ⟨e.1.1.1.1, e.1.1.1.2, e.1.1.2, e.1.2, fun k m n => of_decide_eq_true (List.all_eq_true.1 e.2 k (List.mem_range.2 n)) m⟩
theorem rangesHold_of {s : State} {b : Nat} (e : (decide (pkt b 1 1 % 2 = 1 → pkt b 8 8 % 8 = 0) && decide (pkt b 0 1 = 2 → pkt b 34 1 ≤ 1)
    && decide (pkt b 0 1 = 4 ∨ pkt b 0 1 = 5 → pkt b 16 2 < 4096) && decide (pkt b 0 1 = 7 → pkt b 32 8 < 2 ^ 40 ∧ pkt b 42 1 < 8)
    && decide (pkt b 0 1 = 8 → 1 ≤ pkt b 24 4 ∧ pkt b 24 4 ≤ 65536 ∧ (s.wq (pkt b 28 1)).enable = true)
    && decide (pkt b 0 1 = 9 → pkt b 16 8 % 128 = 0 ∧ pkt b 26 1 ≤ 1 ∧ pkt b 32 2 < 4096)
    && decide (pkt b 0 1 = 10 → pkt b 16 8 % 8 = 0 ∧ pkt b 26 1 ≤ 5)) = true) : rangesHold s b := by
  simp only [Bool.and_eq_true, decide_eq_true_eq] at e
  exact ⟨e.1.1.1.1.1.1, e.1.1.1.1.1.2, e.1.1.1.1.2, e.1.1.1.2, e.1.1.2, e.1.2, e.2⟩

/-- A packet of each type that every check passes; the INVAL carries a completion word. -/
def packets : List Nat :=
  [1 + 5 * 2 ^ 128, 2 + 0x10000 * 2 ^ 128 + 0x1000 * 2 ^ 192 + 1 * 2 ^ 272, 3 + 2 ^ 8 + 0x10008 * 2 ^ 64 + 0x10000 * 2 ^ 128 + 0x1000 * 2 ^ 192 + 1 * 2 ^ 272,
    4 + 4095 * 2 ^ 128 + 9 * 2 ^ 192, 5 + 4095 * 2 ^ 128, 6, 7 + 0x10000 * 2 ^ 128 + 0x20000 * 2 ^ 192 + 64 * 2 ^ 256,
    8 + 0x10100 * 2 ^ 128 + 1 * 2 ^ 192 + 3 * 2 ^ 224, 9 + 0x10080 * 2 ^ 128 + 2 ^ 208 + 4095 * 2 ^ 256 + 7 * 2 ^ 320,
    10 + 0x10100 * 2 ^ 128 + 5 * 2 ^ 208 + 2 ^ 216 + 2 ^ 224 + 0xFF * 2 ^ 256]
/-- A COPY to a die that is off, a FEED and a LAUNCH that name nothing mapped. -/
def badPackets : List Nat :=
  [7 + 0x10000 * 2 ^ 128 + 0x20000 * 2 ^ 192 + 64 * 2 ^ 256 + 7 * 2 ^ 336, 8 + 0x10000000 * 2 ^ 128 + 1 * 2 ^ 192 + 3 * 2 ^ 224, 9 + 0x10000000 * 2 ^ 128]
/-- One with a byte that is no operand's, one with an event out of range, a PRED whose arms pass the tail. -/
def oddPackets : List Nat := [6 + 2 ^ 255, 4 + 4096 * 2 ^ 128, 10 + 0x10100 * 2 ^ 128 + 2 ^ 216 + 2 * 2 ^ 224]

/-- Each is read at the head as it is written; the checks that it passes; the COPY's die. -/
theorem witness_Packets_head (b : Nat) (m : b ∈ packets ++ badPackets ++ oddPackets) :
    ∃ s1 bs, (ringed b).ctlRead ((ringed b).queue 3).asid (headAddress (ringed b) 3) 64 = .ok s1 bs ∧ bs.length = 64
      ∧ (decide (leValue bs = b) && decide (s1.wq 3 = (ringed b).wq 3) && (s1.die 0).online && !(s1.die 7).online) = true := by
  refine packet_of (p := fun s1 v => decide (v = b) && decide (s1.wq 3 = (ringed b).wq 3) && (s1.die 0).online && !(s1.die 7).online) rfl ?_
  simp only [packets, badPackets, oddPackets, List.cons_append, List.nil_append, List.mem_cons, List.mem_nil_iff, or_false] at m
  rcases m with rfl | rfl | rfl | rfl | rfl | rfl | rfl | rfl | rfl | rfl | rfl | rfl | rfl | rfl | rfl | rfl <;> decide +kernel
theorem witness_Packets_checks (b : Nat) (m : b ∈ packets ++ badPackets) (s1 : State) (e : s1.wq 3 = (ringed b).wq 3) :
    zerosHold b ∧ rangesHold s1 b := by
  have f : (s1.wq 3).enable = true := by rw [e]; rfl
  simp only [packets, badPackets, List.cons_append, List.nil_append, List.mem_cons, List.mem_nil_iff, or_false] at m
  rcases m with rfl | rfl | rfl | rfl | rfl | rfl | rfl | rfl | rfl | rfl | rfl | rfl | rfl <;>
    refine ⟨zerosHold_of (by decide +kernel), ?_⟩ <;> unfold rangesHold <;> and_intros <;> first
      | decide +kernel
      | exact fun h => absurd h (by decide)
      | exact fun _ => ⟨by decide, by decide, f⟩
theorem witness_Packets_odd : ¬zerosHold (6 + 2 ^ 255) ∧ zerosHold (4 + 4096 * 2 ^ 128) ∧ ¬rangesHold homes (4 + 4096 * 2 ^ 128)
    ∧ zerosHold (10 + 0x10100 * 2 ^ 128 + 2 ^ 216 + 2 * 2 ^ 224)
    ∧ ((ringed 10).queue 3).tail + 2 ^ 24 - ((ringed 10).queue 3).head = 3 + 2 ^ 24
    ∧ (3 : Nat) < 1 + pkt (10 + 0x10100 * 2 ^ 128 + 2 ^ 216 + 2 * 2 ^ 224) 27 1 + pkt (10 + 0x10100 * 2 ^ 128 + 2 ^ 216 + 2 * 2 ^ 224) 28 1 :=
  ⟨fun h => absurd (h.2.2.2.2 31 (by decide) (by decide) (by decide +kernel)) (by decide +kernel), zerosHold_of (by decide +kernel),
    fun h => absurd (h.2.2.1 (Or.inl (by decide))) (by decide), zerosHold_of (by decide +kernel), by decide, by decide⟩

/-- What FEED and LAUNCH copy is read, is not mapped, or is held by a flip; the ring is not mapped, or held. -/
theorem witness_Packets_reads : (∃ s2 xs, (ringed 8).ctlRead 0 0x10100 (1 * (16 * 2 ^ ((ringed 8).wq 3).record)) = .ok s2 xs ∧ true = true)
    ∧ (∃ s2 xs, (ringed 9).ctlRead 0 0x10080 128 = .ok s2 xs ∧ true = true)
    ∧ (∃ s2 c y z, (ringed 8).ctlRead 0 0x10000000 16 = .fault s2 c y z) ∧ (∃ s2, (ringed 8 {} { flips := [(7, flipPage)] }).ctlRead 0 0x10100 16 = .wait s2)
    ∧ (∃ s1 c y z, (ringed 8 { asid := 9 }).ctlRead 9 0x10000 64 = .fault s1 c y z ∧ s1.ctl = (ringed 8 { asid := 9 }).ctl)
    ∧ ((ringed 6 { skipTo := [(0, 1)] }).queue 3).skipTo = [(0, 1)]
    ∧ (((ringed 6 { skipTo := [(0, 1)] }).queue 3).head + 2 ^ 24 - (0, 1).1) % 2 ^ 24 < (0, 1).2 := by
  have fault (s : State) (a ea n : Nat) (h : (match s.ctlRead a ea n with | .fault s1 _ _ _ => decide (s1.ctl = s.ctl) | _ => false) = true) :
      ∃ s1 c y z, s.ctlRead a ea n = .fault s1 c y z ∧ s1.ctl = s.ctl := by
    split at h
    · exact ⟨_, _, _, _, by assumption, of_decide_eq_true h⟩
    · cases h
  have fault' (s : State) (a ea n : Nat) (h : (match s.ctlRead a ea n with | .fault _ _ _ _ => true | _ => false) = true) :
      ∃ s1 c y z, s.ctlRead a ea n = .fault s1 c y z := by
    split at h
    · exact ⟨_, _, _, _, by assumption⟩
    · cases h
  have wait (s : State) (a ea n : Nat) (h : (match s.ctlRead a ea n with | .wait _ => true | _ => false) = true) : ∃ s1, s.ctlRead a ea n = .wait s1 := by
    split at h
    · exact ⟨_, by assumption⟩
    · cases h
  exact ⟨ctl_of (p := fun _ => true) (by decide +kernel), ctl_of (p := fun _ => true) (by decide +kernel), fault' _ _ _ _ (by decide +kernel),
    wait _ _ _ _ (by decide +kernel), fault _ _ _ _ (by decide +kernel), by decide, by decide⟩

/-- The walk cache of the tables of `pages`. -/
def warm : List ((Nat × Nat × Nat) × Nat) := [((0, 2, 0), 0x104001), ((0, 3, 0), 0x103001), ((0, 4, 0), 0x102001), ((0, 5, 0), 0x101001)]
/-- The entry of a packet that memory has accepted, behind a SIGNAL in state `st`, and an event at 7. -/
def acting (b : Nat) (st : Nat := 3) (c : Control := {}) (x : List Byte := []) : State :=
  ringed 0 {} { c with walkCache := warm, journal := [(4, { type := 5, queue := 3, state := st }), (5, { type := pkt b 0 1, queue := 3, body := b, accepted := true, extra := x })],
                       events := [(4095, 7)] }
theorem witness_Packets_act (b : Nat) (m : b ∈ packets) : ∃ e, AMap.find? (acting b).ctl.journal 5 = some e ∧ e.accepted = true ∧ e.state = 1 ∧ e.owed = false
    ∧ AMap.has (acting b).ctl.taken 5 = false ∧ Memory.wf (acting b).mem = true ∧ JournalServed (acting b) 5 ∧ (acting b).ctl.flips = []
    ∧ (∀ p ∈ (acting b).ctl.journal, p.2.queue = e.queue → p.2.type < 16 → p.1 < 5 → 3 ≤ p.2.state)
    ∧ ¬(∀ p ∈ (acting b 1).ctl.journal, p.2.queue = e.queue → p.2.type < 16 → p.1 < 5 → 3 ≤ p.2.state) := by
  refine ⟨{ type := pkt b 0 1, queue := 3, body := b, accepted := true }, rfl, rfl, rfl, rfl, rfl, ?_, served_of ?_, rfl, ?_, ?_⟩
  · show Memory.wf (Memory.writeLE pages 0x10000 64 0) = true
    decide +kernel
  · simp only [packets, List.mem_cons, List.mem_nil_iff, or_false] at m
    rcases m with rfl | rfl | rfl | rfl | rfl | rfl | rfl | rfl | rfl | rfl <;> decide +kernel
  · intro p i _ _ k
    simp only [acting, ringed, front, List.mem_cons, List.mem_nil_iff, or_false] at i
    rcases i with rfl | rfl
    · exact Nat.le_refl 3
    · exact absurd k (Nat.lt_irrefl 5)
  · intro h
    exact absurd (h (4, { type := 5, queue := 3, state := 1 }) (List.mem_cons_self ..) rfl (by decide) (by decide)) (by decide)

/-- A CANCEL of a LAUNCH whose grid exists and of one not started; an OWN held by sixteen flips; an event not reached; a
FEED that fits, one that does not; a PRED whose word is read. -/
theorem witness_Packets_arms : (∃ x y, AMap.find? ({ acting (packets.getD 0 0) with grids := [(6, { record := 0, number := 0, packet := some 5 })] } : State).ctl.journal 5 = some x
      ∧ ({ acting (packets.getD 0 0) with grids := [(6, { record := 0, number := 0, packet := some 5 })] } : State).grids = [(6, y)] ∧ y.packet = some (pkt (packets.getD 0 0) 16 8))
    ∧ (∃ s : State, ∃ x, AMap.find? s.ctl.journal (pkt (packets.getD 0 0) 16 8) = some x ∧ x.type = 9 ∧ x.state = 1 ∧ s.grids = [])
    ∧ pkt 2 24 8 = 0 ∧ pkt 3 24 8 = 0 ∧ pkt (packets.getD 1 0) 24 8 ≠ 0 ∧ pkt (packets.getD 1 0) 16 8 + pkt (packets.getD 1 0) 24 8 ≤ 2 ^ 56 - 4096
    ∧ 16 ≤ (acting (packets.getD 1 0) 3 { flips := (List.range 16).map fun k => (k, flipPage) }).ctl.flips.length
    ∧ (acting (packets.getD 2 0)).ctl.invals.length < 64 ∧ AMap.getD (acting (packets.getD 3 0)).ctl.events 4095 0 < pkt (packets.getD 3 0) 24 8
    ∧ pkt (4 + 4095 * 2 ^ 128 + 7 * 2 ^ 192) 24 8 ≤ AMap.getD (acting (packets.getD 3 0)).ctl.events 4095 0
    ∧ (∃ s1 bs, (acting (packets.getD 7 0)).ctlWrite 0 (0x20000 + 0 % 2 ^ 1 * (16 * 2 ^ 0)) ((leBytes 16 7).take (16 * 2 ^ 0)) = .ok s1 bs
      ∧ decide (s1.ctl = (acting (packets.getD 7 0)).ctl) = true)
    ∧ ((acting (packets.getD 7 0)).wq 3).sleepers = [] ∧ pkt (packets.getD 7 0) 24 4 = 1 ∧ 2 ^ ((acting 0).wq 3).size < 3
    ∧ pkt (packets.getD 8 0) 40 8 ≤ 7 ∧ pkt (packets.getD 8 0) 26 1 = 1
    ∧ (∃ s1 bs, (acting (packets.getD 9 0)).ctlRead (pkt (packets.getD 9 0) 24 2) (pkt (packets.getD 9 0) 16 8) 8 = .ok s1 bs
      ∧ decide (s1.ctl = (acting (packets.getD 9 0)).ctl) = true)
    ∧ ((acting (packets.getD 9 0)).queue 3).skipTo = [] ∧ pkt (packets.getD 9 0) 27 1 ≠ 0 ∧ pkt (packets.getD 9 0) 28 1 ≠ 0 ∧ pkt (packets.getD 9 0) 26 1 ≤ 5 :=
  ⟨⟨_, _, rfl, rfl, by decide⟩, ⟨{ ctl := { journal := [(5, { type := 9 })] } }, { type := 9 }, by decide, rfl, rfl, rfl⟩, by decide, by decide, by decide, by decide, by decide,
    by decide, by decide, by decide, ctl_of (by decide +kernel), by decide, by decide, by decide, by decide, by decide, ctl_of (by decide +kernel),
    by decide, by decide, by decide, by decide⟩

/-! ### Streams, registers, debug -/

/-- A word of `n` 8-byte units for offset `o`, of number `q`. -/
def streamWord (q n o : Nat) : Nat := q + n * 2 ^ 32 + o / 8 * 2 ^ 35 + 0xABCD * 2 ^ 64
/-- Stream 5, which expects 0xFFFFFFFF, with a target at 0x10000 and a gap of 64. -/
def streaming (on : Bool) (h : AMap (Nat × Nat) := []) (g : Option Nat := none) (clock : Nat := 0) : State :=
  { homes with clock := clock, ctl := { streams := [(5, { target := 0x10000, expected := 0xFFFFFFFF, enable := on, held := h, gap := 64, gapSince := g })] } }
/-- A word past the span, one of no unit, one repeated; one ahead by 1, by 63, by 64, behind by 1; the one expected. -/
theorem witness_Streams_write : ¬StreamTakes ((streaming true).stream 5) true (streamWord 0 7 0xFFFC8 + 8 * 2 ^ 32) ∧ ¬StreamTakes ((streaming true).stream 5) true (streamWord 0 0 0)
    ∧ ¬StreamTakes ((streaming true).stream 5) true (streamWord 0 7 0xFFFD0) ∧ StreamTakes ((streaming true).stream 5) true (streamWord 0 7 0xFFFC8)
    ∧ ¬StreamTakes ((streaming false).stream 5) true (streamWord 0 7 0) ∧ AMap.has ((streaming true [(1, 0, 9)]).stream 5).held (streamAhead ((streaming true).stream 5) (streamWord 0 7 0)) = true
    ∧ streamAhead ((streaming true).stream 5) (streamWord 0 7 0) = 1 ∧ streamAhead ((streaming true).stream 5) (streamWord 62 7 0) = 63
    ∧ streamAhead ((streaming true).stream 5) (streamWord 63 7 0) = 64 ∧ 2 ^ 31 ≤ streamAhead ((streaming true).stream 5) (streamWord 0xFFFFFFFE 7 0)
    ∧ streamAhead ((streaming true).stream 5) (streamWord 0x7FFFFFFE 7 0) < 2 ^ 31 := by
  unfold StreamTakes; and_intros <;> decide +kernel
theorem homeServes_of {s : State} {l : Nat} (e : (decide (s.homePoison l = none) && !s.busyLine l && decide ((s.dirOf l).st = .i) && !isHostLine s l) = true) :
    HomeServes s l := by
  simp only [Bool.and_eq_true, decide_eq_true_eq, Bool.not_eq_true'] at e
  exact ⟨e.1.1.1, e.1.1.2, e.1.2, e.2⟩
theorem witness_Streams_perform : StreamTakes ((streaming true).stream 5) true (streamWord 0xFFFFFFFF 2 0x40)
    ∧ streamAhead ((streaming true).stream 5) (streamWord 0xFFFFFFFF 2 0x40) = 0 ∧ ((streaming true).stream 5).held = []
    ∧ ((streaming true).stream 5).target + offsetOf (streamWord 0xFFFFFFFF 2 0x40) = 0x10040 ∧ 8 * countOf (streamWord 0xFFFFFFFF 2 0x40) = 16
    ∧ (streaming true).ctl.flips = [] ∧ (streaming true).ctl.bias = [] ∧ NoInjector (streaming true) ∧ Memory.wf (streaming true).mem = true
    ∧ (∀ l ∈ linesOf 0x10040 16, HomeServes (streaming true) l) := by
  refine ⟨by unfold StreamTakes; decide +kernel, by decide +kernel, by decide, by decide +kernel, by decide +kernel, by decide, by decide, noInjector_of (by decide),
    by decide, fun l m => ?_⟩
  rw [show linesOf 0x10040 16 = [512] by decide, List.mem_singleton] at m
  exact m ▸ homeServes_of (by decide +kernel)
theorem witness_Streams_gap : ((streaming false).stream 5).enable = false ∧ ((streaming true).stream 5).gapSince = none
    ∧ ((streaming true [] (some 3) 66).stream 5).gapSince = some 3 ∧ (streaming true [] (some 3) 66).clock < 3 + 64 ∧ 3 + 64 ≤ (streaming true [] (some 3) 67).clock := by
  and_intros <;> decide

/-- A core with this debug unit and one holder, beside idle homes. -/
def traced (d : Debug) : State := { at0 group { dbg := d, active := [0] } with dies := [(0, { online := true, powered := true })] }
/-- Offsets at the ends of the register space; a core's registers. -/
theorem witness_Registers : (9 * 2 ^ 30 ≤ 9 * 2 ^ 30 ∧ 9 * 2 ^ 30 < 2 ^ 35) ∧ 2 ^ 36 ≤ 2 ^ 36 ∧ 9 * 2 ^ 30 - 1 < 9 * 2 ^ 30 ∧ (9 * 2 ^ 30 - 1) % 4 ≠ 0
    ∧ (8 : Nat) ≤ 8 ∧ (7 : Nat) < 8 ∧ (31 : Nat) < 32 ∧ (homes.core (32 * 7 + 31)).dbg.psper < 2 ^ 32 ∧ (4095 : Nat) < 4096
    ∧ AMap.sorted ((traced {}).core 0).dbg.pf = true := by
  and_intros <;> decide

/-- A core with ring 2 of 4 KiB, 16 bytes before its end, its sampler on with a period of 64, and one holder, ready to issue. -/
def sampled (on clock : Nat) : State :=
  { traced { dbgctl := on, psper := 64, rings := [(2, { base := 0x20000, size := 4096, head := 8176 })] } with clock := clock }
theorem ringRoom_of {s : State} {r : Ring} {n l : Nat} (e : linesOf (r.base + r.head % r.size) n = [l])
    (f : (r.ok s && decide (r.head % r.size + n ≤ r.size) && s.dies.all (fun p => !bitN p.2.eictl 31)
      && decide (s.homePoison l = none) && !s.busyLine l && decide ((s.dirOf l).st = .i) && !isHostLine s l) = true) : RingRoom s r n := by
  simp only [Bool.and_eq_true, decide_eq_true_eq, Bool.not_eq_true'] at f
  refine ⟨f.1.1.1.1.1.1, f.1.1.1.1.1.2, noInjector_of f.1.1.1.1.2, fun x m => ?_⟩
  rw [e, List.mem_singleton] at m
  exact m ▸ ⟨f.1.1.1.2, f.1.1.2, f.1.2, f.2⟩
theorem witness_Debug_sample : bitN ((sampled 4 64).core 0).dbg.dbgctl 2 = true ∧ (sampled 4 64).clock % 64 = 0 ∧ (sampled 4 65).clock % 64 ≠ 0
    ∧ bitN ((sampled 0 64).core 0).dbg.dbgctl 2 = false ∧ ((sampled 4 64).core 0).slots = [(0, group)] ∧ ((sampled 4 64).core 0).dbg.exited = []
    ∧ group.status = .ready ∧ group.fetching = false ∧ 0 ∈ ((sampled 4 64).core 0).active ∧ (0, 0) ∉ (sampled 4 64).issue ∧ Memory.wf (sampled 4 64).mem = true
    ∧ RingRoom (sampled 4 64) (AMap.getD ((sampled 4 64).core 0).dbg.rings 2 {}) 16 := by
  refine ⟨by decide, by decide, by decide, by decide, by decide, by decide, by decide, by decide, by decide, by decide, by decide,
    ringRoom_of (l := (0x20000 + 4080) / 128) (by decide) (by decide +kernel)⟩

/-- Trace packets dropped, with the FIFO at the limits of LOSS and of LOSS with a SYNC. -/
theorem witness_Debug_loss : 1020 < ((traced { dropped := 3, fifo := List.replicate 1021 0 }).core 0).dbg.fifo.length ∧ ((traced {}).core 0).dbg.dropped = 0
    ∧ (∃ s : State, (s.core 0).slots = [] ∧ (s.core 0).dbg.fifo.length ≤ 1020 ∧ (s.core 0).dbg.dropped ≠ 0 ∧ (s.core 0).dbg.dropped < 65536)
    ∧ ((traced { dropped := 65535, dbgctl := 2 ^ 32, fifo := List.replicate 992 0 }).core 0).dbg.fifo.length ≤ 992
    ∧ bitN ((traced { dropped := 65535, dbgctl := 2 ^ 32 }).core 0).dbg.dbgctl (32 + 0) = true ∧ group.kind ≠ .range := by
  refine ⟨?_, by decide, ⟨{ cores := [(0, { dbg := { dropped := 1 } })] }, by decide, by decide, by decide, by decide⟩,
    ?_, by decide, by decide⟩
  · show 1020 < (List.replicate 1021 (0#8)).length
    rw [List.length_replicate]; decide
  · show (List.replicate 992 (0#8)).length ≤ 992
    rw [List.length_replicate]

/-- A holder at a barrier that has not issued since the last scan, and the scan's ring. -/
def deadlocked (clock : Nat) (ps : List Piece := []) : State :=
  { homes with clock := clock, cores := [(255, { slots := [(31, { group with status := .blocked (.barrier 3 0) })], pieces := ps })]
               ctl := { dl := { base := 0x20000, size := 4096, head := 4064 }, dlSeen := [(32 * 255 + 31, 0)] } }
theorem witness_Debug_deadlock : (deadlocked 1).clock % 2 ^ 24 ≠ 0 ∧ (deadlocked (2 ^ 24)).clock % 2 ^ 24 = 0
    ∧ AMap.find? (deadlocked 0).ctl.dlSeen (32 * 255 + 31) = some ((deadlocked 0).issueCount 255 31) ∧ Memory.wf (deadlocked 0).mem = true
    ∧ (∃ c q h o p, (deadlocked 0).cores = [(255, c)] ∧ c.slots = [(q, h)] ∧ h.status = .blocked (.barrier o p) ∧ c.pieces = [])
    ∧ (∃ c q h o p x, (deadlocked 0 [⟨group, 0, 16384, none⟩]).cores = [(255, c)] ∧ c.slots = [(q, h)] ∧ h.status = .blocked (.barrier o p) ∧ x ∈ c.pieces
      ∧ x.holder.status = .ready ∧ x.holder.grid = h.grid ∧ x.holder.teamOf ((deadlocked 0).tsize h) = h.teamOf ((deadlocked 0).tsize h)) ∧ RingRoom (deadlocked 0) (deadlocked 0).ctl.dl 32
    ∧ ({} : State).cores = [] :=
  ⟨by decide, by decide, by decide, by decide, ⟨_, _, _, _, _, rfl, rfl, rfl, rfl⟩,
    ⟨_, _, _, _, _, _, rfl, rfl, rfl, List.mem_singleton.2 rfl, rfl, rfl, by decide +kernel⟩, ringRoom_of (l := (0x20000 + 4064) / 128) (by decide) (by decide +kernel), rfl⟩

/-! ### Lines at their home -/

/-- The line of address 0x10000 + 64 with no owner: a prefetch to the home, and a line instruction that meets no copy. -/
theorem witness_CacheOperations_home : laneList (mem1.activeLanes (lop 1).g) = [0]
    ∧ trapReady (lab mem1) 0 0 { mem1 with ext := mem1.ext.filter (fun e => e.size != 0) } = true ∧ AMap.sorted ((lab mem1).core 0).l1 = true
    ∧ AMap.sorted (lab mem1).backing = true ∧ NoInjector (lab mem1) ∧ NoInjector (heldLine mem1) ∧ Issues (.cclean lop) (lab mem1) 0 0 mem1
    ∧ (((heldLine mem1).recallOut 512).dirOf 512).st ≠ .n
    ∧ (∃ z, (lab mem1).resolve { holderCtx (lab mem1) 0 mem1 true with vector := true } .glob
        (eaOf mem1 (.pref (lop 1)) (lop 1).a (lop 1).b (lop 1).kind 0) 1 .load true = .ok (.phys [z]) (lab mem1)
      ∧ (decide (pteType z.e.attr = 0) && decide (regionOf (lab mem1) z.pa = .hbm) && !isHostLine (lab mem1) (z.pa / 128)
        && decide (homeDie (lab mem1) (z.pa / 128 * 128) = some 0) && decide (homeDie (lab mem1) z.pa = some 0) && !(lab mem1).busyLine (z.pa / 128)
        && decide ((lab mem1).homePoison (z.pa / 128) = none)) = true)
    ∧ ∃ z, translatePages { holderCtx (lab mem1) 0 mem1 true with vector := true } .load
        [(eaOf mem1 (.cclean lop) lop.a lop.b lop.kind 0, 1)] [] (lab mem1) = .ok (.phys [z]) (lab mem1)
      ∧ (decide (segCheck (lab mem1) { holderCtx (lab mem1) 0 mem1 true with vector := true } .load true z = none)
        && decide (pteType z.e.attr ≠ 2) && decide ((lab mem1).homePoison (z.pa / 128) = none) && !(lab mem1).busyLine (z.pa / 128)
        && !isHostLine (lab mem1) (z.pa / 128) && decide (regionOf (lab mem1) z.pa = .hbm)
        && decide (((lab mem1).dirOf (z.pa / 128)).owner = none)) = true :=
  ⟨by decide +kernel, by decide +kernel, by decide, by decide, noInjector_of (by decide +kernel), noInjector_of (by decide +kernel), by decide +kernel,
    by decide +kernel, phys_of (by decide +kernel), phys_of (by decide +kernel)⟩
end Sys2Proof.Tests
end

-- ==== Sys2Proof/Proofs/MemoryReadsBack.lean ====

section
set_option Elab.async false
namespace Sys2Proof.Machine

/-! ## Reading a byte memory after a write (R5) -/

/-- Nothing is listed at or below an address that every cell lies above. -/
theorem Memory.read_of_above {k x : Nat} {m : Memory} (h : Memory.above k m = true) (l : x ≤ k) :
    Memory.read m x = Memory.blank := by
  cases m with
  | nil => rfl
  | cons c rest =>
    obtain ⟨j, v⟩ := c
    have lt : k < j := by simpa [Memory.above] using h
    rw [Memory.read, if_neg (by omega), if_pos (by omega)]

theorem Memory.read_write_self {m : Memory} (a : Nat) (b : Byte) (h : Memory.wf m = true) :
    Memory.read (Memory.write m a b) a = b := by
  induction m with
  | nil => simp only [Memory.write]; split <;> simp_all [Memory.read]
  | cons c rest ih =>
    obtain ⟨k, v⟩ := c
    obtain ⟨_, above, wf⟩ := Memory.wf_cons.1 h
    simp only [Memory.write]
    split
    next e =>
      split
      next eb => rw [eb]; exact Memory.read_of_above above (Nat.le_of_eq e.symm)
      next => simp [Memory.read]
    next ne =>
      split
      next lt =>
        split
        next eb => rw [eb]; simp [Memory.read, ne, lt]
        next => simp [Memory.read]
      next ge => simpa [Memory.read, ne, ge] using ih wf

theorem Memory.read_write_ne {m : Memory} {a x : Nat} (b : Byte) (h : Memory.wf m = true) (n : x ≠ a) :
    Memory.read (Memory.write m a b) x = Memory.read m x := by
  induction m with
  | nil => simp only [Memory.write]; split <;> simp [Memory.read, n.symm]
  | cons c rest ih =>
    obtain ⟨k, v⟩ := c
    obtain ⟨_, above, wf⟩ := Memory.wf_cons.1 h
    simp only [Memory.write]
    split
    next e =>
      subst e
      have gone : x < k → Memory.read rest x = Memory.blank := fun l => Memory.read_of_above above (Nat.le_of_lt l)
      split
      · simpa [Memory.read, n.symm] using gone
      · simp [Memory.read, n.symm]
    next ne =>
      split
      next lt =>
        split
        next => rfl
        next =>
          have first : x < a → Memory.read ((k, v) :: rest) x = Memory.blank := fun l =>
            Memory.read_of_above (k := a) (by simpa [Memory.above] using lt) (Nat.le_of_lt l)
          rw [Memory.read, if_neg n.symm]
          split
          next l => exact (first l).symm
          next => rfl
      next => simp only [Memory.read, ih wf]

/-- Bytes stored upward from `a` leave every address below `a` and from their end on. -/
theorem Memory.read_writeBytes_outside {m : Memory} {a x : Nat} {bs : List Byte} (h : Memory.wf m = true)
    (o : x < a ∨ a + bs.length ≤ x) : Memory.read (Memory.writeBytes m a bs) x = Memory.read m x := by
  induction bs generalizing m a with
  | nil => rfl
  | cons b bs ih =>
    rw [List.length_cons] at o
    rw [Memory.writeBytes, ih (Memory.wf_write a b h) (by omega), Memory.read_write_ne b h (by omega)]

theorem Memory.readBytes_writeBytes {m : Memory} (a : Nat) (bs : List Byte) (h : Memory.wf m = true) :
    Memory.readBytes (Memory.writeBytes m a bs) a bs.length = bs := by
  induction bs generalizing m a with
  | nil => rfl
  | cons b bs ih =>
    have w := Memory.wf_write a b h
    rw [List.length_cons, Memory.readBytes, Memory.writeBytes, ih (a + 1) w,
      Memory.read_writeBytes_outside w (.inl (Nat.lt_succ_self a)), Memory.read_write_self a b h]

/-- The low `n` bytes of a value read back after a little-endian store (R5). -/
theorem Memory.readLE_writeLE {m : Memory} (a n v : Nat) (h : Memory.wf m = true) :
    Memory.readLE (Memory.writeLE m a n v) a n = v % 2 ^ (8 * n) := by
  have bytes := Memory.readBytes_writeBytes a (leBytes n v) h
  rw [Sys2Proof.leBytes_length] at bytes
  rw [Memory.readLE, Memory.writeLE, bytes, Sys2Proof.leValue_leBytes, Nat.pow_mul]

theorem Memory.read_writeLE_outside {m : Memory} {a n x : Nat} (v : Nat) (h : Memory.wf m = true) (o : x < a ∨ a + n ≤ x) :
    Memory.read (Memory.writeLE m a n v) x = Memory.read m x :=
  Memory.read_writeBytes_outside h (by rwa [Sys2Proof.leBytes_length])

/-- Settles O8: a byte, and from it a little-endian value, by induction on the cells and on the bytes stored. -/
theorem memoryReadsBackWrites : Obligations.MemoryReadsBackWrites := by
  unfold Obligations.MemoryReadsBackWrites
  exact ⟨fun m a b h => ⟨Memory.wf_write a b h, Memory.read_write_self a b h, fun x n => Memory.read_write_ne b h n⟩,
    fun m a n v h => ⟨Memory.readLE_writeLE a n v h, fun x o => Memory.read_writeLE_outside v h o⟩⟩

end Sys2Proof.Machine
end

-- ==== Sys2Proof/Proofs/Keeps.lean ====

section
set_option Elab.async false
namespace Sys2Proof.Machine

/-! ## What carries a state

Each answer of the model that carries a state: its state is in canonical form. -/

def Out.memOk : Out → Prop
  | .next s => s.memOk
  | .fault _ | .refused _ => True

def Coh.memOk : Coh → Prop
  | .ok s | .busy s | .poison _ s | .contain _ s => s.memOk

def TableRead.memOk : TableRead → Prop
  | .ok _ s | .poison _ s | .wait s => s.memOk

def Walked.memOk : Walked → Prop
  | .leaf _ _ s | .fault _ _ s | .wait s => s.memOk

def Trans.memOk : Trans → Prop
  | .ok _ s | .fault _ _ s | .parked s => s.memOk

def Resolve.memOk : Resolve → Prop
  | .ok _ s | .fault _ _ _ s | .parked s => s.memOk

def Perf.memOk : Perf → Prop
  | .ok _ _ _ s | .poison _ s | .contain _ s | .busy s | .ext _ _ _ _ s => s.memOk

def Reach.memOk : Reach → Prop
  | .ok _ s | .fault _ _ _ s | .wait s => s.memOk

def Drip.memOk : Drip → Prop
  | .ok s _ | .fault s _ _ _ _ | .parked s => s.memOk

def Place.memOk : Place → Prop
  | .ok s | .parked s => s.memOk
  | .fault _ _ _ _ | .wait _ => True

def Fetched.memOk : Fetched → Prop
  | .run _ s | .stop s => s.memOk

def Lanes96.memOk : Lanes96 → Prop
  | .ok s _ _ | .parked s => s.memOk

def Run.memOk (r : Run) : Prop := r.s.memOk

def Wrote.memOk : Wrote → Prop
  | .wait s _ => s.memOk
  | .ran r _ => r.memOk

def Named.memOk : Named → Prop
  | .ok s _ _ | .parked s => s.memOk

def CtlAcc.memOk : CtlAcc → Prop
  | .ok s _ | .fault s _ _ _ | .wait s => s.memOk

def MmulCheck.memOk {α : Type} : MmulCheck α → Prop
  | .ok s _ | .fault _ _ _ _ s | .parked s => s.memOk
  | .bad | .busy => True

def Rows.memOk (r : Rows) : Prop := r.s.memOk

def Piece4.memOk : Piece4 → Prop
  | .ok s _ _ | .fault _ _ _ s | .parked s => s.memOk

def Fetch3.memOk : Fetch3 → Prop
  | .ok s _ | .wait s _ => s.memOk

def CmdAcc.memOk : CmdAcc → Prop
  | .ok s _ _ | .fault s _ _ _ _ | .wait s | .ask s _ => s.memOk

def Counter.memOk : Counter → Prop
  | .none s | .at_ s _ _ | .fault s _ _ _ | .parked s => s.memOk
  | .bad => True

def StreamDone.memOk : StreamDone → Prop
  | .done s | .discarded s | .wait s => s.memOk

def PkOperands.memOk : PkOperands → Prop
  | .ok s _ | .bad s _ | .wait s => s.memOk

/-- What a step that may have to wait leaves, on both of its sides. -/
def Except.memOk : Except State State → Prop
  | .error s | .ok s => s.memOk

/-! ## Taking an answer apart

One lemma per function of the model that hands a state on: `T.memOk.f` says that `f` keeps the canonical form, so that
`ok.f.g` follows the composition `g ∘ f`. What a match or a pair binds is reached by `of_eq`, `of_fst` and `of_snd`. -/

theorem State.memOk.ite {s t : State} {c : Prop} [Decidable c] (ok : s.memOk) (ok2 : t.memOk) : (if c then s else t).memOk := by
  split <;> assumption

theorem Coh.memOk.ite {x y : Coh} {c : Prop} [Decidable c] (ok : x.memOk) (ok2 : y.memOk) : (if c then x else y).memOk := by
  split <;> assumption

theorem Except.memOk.of_eq {x y : Except State State} (ok : Except.memOk x) (e : x = y) : Except.memOk y := e ▸ ok

theorem Except.memOk.map {x : Except State State} {f : State → State} (ok : Except.memOk x) (okf : ∀ s, s.memOk → (f s).memOk) :
    Except.memOk (x.map f) := by
  cases x with
  | error s => exact ok
  | ok s => exact okf s ok

theorem Drip.memOk.ite {x y : Drip} {c : Prop} [Decidable c] (ok : x.memOk) (ok2 : y.memOk) : (if c then x else y).memOk := by
  split <;> assumption

theorem Out.memOk.ite {x y : Out} {c : Prop} [Decidable c] (ok : Out.memOk x) (ok2 : Out.memOk y) :
    Out.memOk (if c then x else y) := by
  split <;> assumption

theorem State.memOk.fst_ite {α : Type} {p q : State × α} {c : Prop} [Decidable c] (ok : p.1.memOk) (ok2 : q.1.memOk) :
    (if c then p else q).1.memOk := by
  split <;> assumption

theorem State.memOk.of_fst {α : Type} {p : State × α} {s : State} {x : α} (ok : p.1.memOk) (e : p = (s, x)) : s.memOk := by
  subst e; exact ok

theorem State.memOk.of_snd {α : Type} {p : α × State} {s : State} {x : α} (ok : p.2.memOk) (e : p = (x, s)) : s.memOk := by
  subst e; exact ok

theorem Perf.memOk.of_fst {α : Type} {p : Perf × α} {s : Perf} {x : α} (ok : p.1.memOk) (e : p = (s, x)) : s.memOk := by
  subst e; exact ok

theorem Out.memOk.of_eq {x y : Out} (ok : Out.memOk x) (e : x = y) : Out.memOk y := e ▸ ok
theorem Coh.memOk.of_eq {x y : Coh} (ok : x.memOk) (e : x = y) : y.memOk := e ▸ ok
theorem TableRead.memOk.of_eq {x y : TableRead} (ok : x.memOk) (e : x = y) : y.memOk := e ▸ ok
theorem Walked.memOk.of_eq {x y : Walked} (ok : x.memOk) (e : x = y) : y.memOk := e ▸ ok
theorem Trans.memOk.of_eq {x y : Trans} (ok : x.memOk) (e : x = y) : y.memOk := e ▸ ok
theorem Resolve.memOk.of_eq {x y : Resolve} (ok : x.memOk) (e : x = y) : y.memOk := e ▸ ok
theorem Perf.memOk.of_eq {x y : Perf} (ok : x.memOk) (e : x = y) : y.memOk := e ▸ ok
theorem Reach.memOk.of_eq {x y : Reach} (ok : x.memOk) (e : x = y) : y.memOk := e ▸ ok
theorem Drip.memOk.of_eq {x y : Drip} (ok : x.memOk) (e : x = y) : y.memOk := e ▸ ok
theorem Place.memOk.of_eq {x y : Place} (ok : x.memOk) (e : x = y) : y.memOk := e ▸ ok
theorem Fetched.memOk.of_eq {x y : Fetched} (ok : x.memOk) (e : x = y) : y.memOk := e ▸ ok
theorem Lanes96.memOk.of_eq {x y : Lanes96} (ok : x.memOk) (e : x = y) : y.memOk := e ▸ ok
theorem Wrote.memOk.of_eq {x y : Wrote} (ok : x.memOk) (e : x = y) : y.memOk := e ▸ ok
theorem Named.memOk.of_eq {x y : Named} (ok : x.memOk) (e : x = y) : y.memOk := e ▸ ok
theorem CtlAcc.memOk.of_eq {x y : CtlAcc} (ok : x.memOk) (e : x = y) : y.memOk := e ▸ ok
theorem MmulCheck.memOk.of_eq {α : Type} {x y : MmulCheck α} (ok : x.memOk) (e : x = y) : y.memOk := e ▸ ok
theorem Piece4.memOk.of_eq {x y : Piece4} (ok : x.memOk) (e : x = y) : y.memOk := e ▸ ok
theorem Fetch3.memOk.of_eq {x y : Fetch3} (ok : x.memOk) (e : x = y) : y.memOk := e ▸ ok
theorem CmdAcc.memOk.of_eq {x y : CmdAcc} (ok : x.memOk) (e : x = y) : y.memOk := e ▸ ok
theorem Counter.memOk.of_eq {x y : Counter} (ok : x.memOk) (e : x = y) : y.memOk := e ▸ ok
theorem StreamDone.memOk.of_eq {x y : StreamDone} (ok : x.memOk) (e : x = y) : y.memOk := e ▸ ok
theorem PkOperands.memOk.of_eq {x y : PkOperands} (ok : x.memOk) (e : x = y) : y.memOk := e ▸ ok

/-! ## Lists of changes -/

theorem State.memOk.foldl {α : Type} {f : State → α → State} {xs : List α} {s : State} (ok : s.memOk)
    (okf : ∀ s x, s.memOk → (f s x).memOk) : (xs.foldl f s).memOk := by
  induction xs generalizing s with
  | nil => exact ok
  | cons x xs ih => exact ih (okf s x ok)

theorem State.memOk.fst_foldl {α β : Type} {f : State × β → α → State × β} {xs : List α} {p : State × β} (ok : p.1.memOk)
    (okf : ∀ p x, p.1.memOk → (f p x).1.memOk) : (xs.foldl f p).1.memOk := by
  induction xs generalizing p with
  | nil => exact ok
  | cons x xs ih => exact ih (okf p x ok)

theorem State.memOk.of_foldl {α β : Type} {f : State × β → α → State × β} {xs : List α} {s t : State} {x y : β} (ok : s.memOk)
    (e : xs.foldl f (s, x) = (t, y)) (okf : ∀ p x, p.1.memOk → (f p x).1.memOk) : t.memOk :=
  (State.memOk.fst_foldl (p := (s, x)) ok okf).of_fst e

theorem State.memOk.mapCores {s : State} (ok : s.memOk) {f : Core → Core} (keeps : ∀ c, (f c).spm = c.spm) :
    ({ s with cores := s.cores.map (fun p => (p.1, f p.2)) } : State).memOk := by
  refine ⟨ok.1, ok.2.1, fun p hp => ?_⟩
  obtain ⟨q, hq, rfl⟩ := List.mem_map.1 hp
  rw [keeps]
  exact ok.2.2 q hq

theorem State.memOk.writeBytes {s : State} (ok : s.memOk) {a : Nat} {bs : List Byte} :
    ({ s with mem := Memory.writeBytes s.mem a bs } : State).memOk :=
  ok.withMem (Memory.wf_writeBytes a bs ok.1)

theorem State.memOk.writeLE {s : State} (ok : s.memOk) {a n v : Nat} :
    ({ s with mem := Memory.writeLE s.mem a n v } : State).memOk :=
  ok.withMem (Memory.wf_writeLE a n v ok.1)

end Sys2Proof.Machine
end

-- ==== Sys2Proof/Proofs/KeepState.lean ====

section
set_option Elab.async false
namespace Sys2Proof.Machine

/-! ## The memories stay canonical: the answers that carry a state, and the operations of the state -/

theorem State.memOk.updGrid {s : State} {n f} (ok : s.memOk) : (s.updGrid n f).memOk := by
  unfold State.updGrid
  split
  · exact ok
  · exact ok.of_eq rfl rfl rfl

theorem State.memOk.push {s : State} {is} (ok : s.memOk) : (s.push is).memOk := ok.of_eq rfl rfl rfl

theorem State.memOk.withHolder {s : State} {k : Nat → Nat → Holder → Out} (okk : ∀ g q h, Out.memOk (k g q h)) :
    Out.memOk (withHolder s k) := by
  unfold Machine.withHolder
  split
  · exact trivial
  · split
    · exact trivial
    · exact okk _ _ _

theorem State.memOk.countIssue {s : State} {g q} (ok : s.memOk) : (s.countIssue g q).memOk := ok.updCore _ id

theorem State.memOk.issued {s : State} {g q h} (ok : s.memOk) : (s.issued g q h).memOk := (ok.putHolder _ _ _).countIssue

theorem State.memOk.block {s : State} {g q h w} (ok : s.memOk) : (s.block g q h w).memOk := ok.putHolder _ _ _

theorem State.memOk.countFault {s : State} {grid cause idx core frame} (ok : s.memOk) :
    (s.countFault grid cause idx core frame).memOk :=
  ok.updGrid

theorem State.memOk.escalate {s : State} {g q h frame} (ok : s.memOk) : (s.escalate g q h frame).memOk :=
  (ok.putHolder _ _ _).countFault.updCtl rfl

theorem State.memOk.unsync {s : State} {g q} (ok : s.memOk) : (s.unsync g q).memOk := ok.updCore _ id

theorem State.memOk.enterTrap {s : State} {g q h t} (ok : s.memOk) : (s.enterTrap g q h t).memOk :=
  ok.escalate.ite ((ok.updCore _ id).escalate.ite ((ok.updCore _ id).unsync.putHolder _ _ _))

theorem State.memOk.installBelow {s : State} {c x e va} (ok : s.memOk) : (s.installBelow c x e va).memOk := by
  unfold State.installBelow
  extract_lets f s2 s3
  have oks2 : s2.memOk := by
    dsimp only [s2]
    split
    · exact ok
    · exact ok.updCluster _ _
  have oks3 : s3.memOk := by
    dsimp only [s3]
    split
    · exact oks2
    · exact oks2.updCore _ id
  exact oks3.of_eq rfl rfl rfl

theorem State.memOk.installTlb {s : State} {r e va} (ok : s.memOk) : (s.installTlb r e va).memOk := by
  unfold State.installTlb
  split
  extract_lets s1
  have oks1 : s1.memOk := by
    dsimp only [s1]
    split
    · exact ok
    · exact ok.useFresh.updDie _ _
  exact oks1.installBelow

theorem State.memOk.tlbHit {s t : State} {r asid va e} (ok : s.memOk) (hit : s.tlbHit r asid va = some (e, t)) : t.memOk := by
  simp only [State.tlbHit] at hit
  split at hit
  · simp only [Option.some.injEq, Prod.mk.injEq] at hit
    exact hit.2 ▸ ok
  · split at hit
    · simp only [Option.some.injEq, Prod.mk.injEq] at hit
      exact hit.2 ▸ ok.installBelow
    · obtain ⟨_, _, same⟩ := Option.map_eq_some_iff.1 hit
      cases same
      exact ok.installBelow

theorem State.memOk.sweep {s : State} {all asid base len} (ok : s.memOk) : (s.sweep all asid base len).memOk :=
  (ok.mapCores (f := fun c => { c with tlb := dropTlb all asid base len c.tlb, icache := [], ccache := [] }) fun _ => rfl).of_eq
    rfl rfl rfl

theorem State.memOk.updChecker {s : State} {die type index f} (ok : s.memOk) : (s.updChecker die type index f).memOk :=
  ok.updDie _ _

theorem State.memOk.setClock {s : State} {u t} (ok : s.memOk) : (s.setClock u t).memOk := by
  unfold State.setClock
  split
  · exact ok.updCore _ id
  · exact ok.updChecker
  · exact ok.updCtl rfl
  · exact ok.updCtl rfl

theorem State.memOk.tick {s : State} {u} (ok : s.memOk) : (s.tick u).memOk := ok.setClock

theorem State.memOk.hears {s : State} {u t} (ok : s.memOk) : (s.hears u t).memOk := ok.setClock

theorem State.memOk.carry {s : State} {a b} (ok : s.memOk) : (s.carry a b).memOk := ok.ite ok.tick.hears

theorem State.memOk.perform {s : State} {u n} (ok : s.memOk) : (s.perform u n).1.memOk := ok.setClock

theorem State.memOk.homeStamp {s : State} {line u n} (ok : s.memOk) : (s.homeStamp line u n).1.memOk := by
  unfold State.homeStamp
  extract_lets h s1
  have oks1 : s1.memOk := by
    dsimp only [s1]
    split
    · exact ok.carry
    · exact ok
  split
  next e =>
    split
    · exact (oks1.perform.of_fst e).carry
    · exact oks1.perform.of_fst e

theorem State.memOk.coreStamp {s : State} {g n} (ok : s.memOk) : (s.coreStamp g n).1.memOk := ok.perform

theorem State.memOk.bankStamp {s : State} {u k n} (ok : s.memOk) : (s.bankStamp u k n).1.memOk := by
  unfold State.bankStamp
  extract_lets s0
  have oks0 : s0.memOk := by
    dsimp only [s0]
    split
    · exact ok.carry
    · exact ok
  split
  next e =>
    split
    · exact (oks0.perform.of_fst e).carry
    · exact oks0.perform.of_fst e

end Sys2Proof.Machine
end

-- ==== Sys2Proof/Proofs/KeepCoherence.lean ====

section
set_option Elab.async false
namespace Sys2Proof.Machine

/-! ## The memories stay canonical: clocks, checkers, directories and caches -/

theorem State.memOk.setDir {s : State} {line e} (ok : s.memOk) : (s.setDir line e).memOk := (ok.updCtl rfl).ite (ok.updDie _ _)

theorem State.memOk.setInterval {s : State} {line n} (ok : s.memOk) : (s.setInterval line n).memOk :=
  (ok.updCtl rfl).ite (ok.of_eq rfl rfl rfl)

theorem State.memOk.closeRecord {s : State} {line kind} (ok : s.memOk) : (s.closeRecord line kind).memOk := by
  unfold State.closeRecord
  extract_lets e
  split
  · exact ok
  · split
    exact ok.updChecker.setDir

theorem State.memOk.openRecord {s : State} {line kind holder seen} (ok : s.memOk) :
    (s.openRecord line kind holder seen).memOk :=
  ok.setDir

theorem State.memOk.advance {s : State} {line kind holder seen} (ok : s.memOk) : (s.advance line kind holder seen).memOk :=
  ok.closeRecord.setInterval.openRecord

theorem State.memOk.closeL1 {s : State} {g line l a} (ok : s.memOk) : (s.closeL1 g line l a).memOk := ok.ite ok.updChecker

theorem State.memOk.dropL1 {s : State} {a line} (ok : s.memOk) : (s.dropL1 a line).memOk := by
  unfold State.dropL1
  split
  · exact ok
  · split
    · exact ok
    · exact ok.closeL1.updCore _ id

theorem State.memOk.homeSends {s : State} {g line type digest} (ok : s.memOk) : (s.homeSends g line type digest).memOk := by
  unfold State.homeSends
  split
  exact ok.tick.updChecker

theorem State.memOk.l1Hears {s : State} {g line type digest stamp} (ok : s.memOk) :
    (s.l1Hears g line type digest stamp).memOk := by
  unfold State.l1Hears
  split
  exact (ok.hears.updDie _ _).ite ok.hears.updChecker

theorem State.memOk.l1Sends {s : State} {g line type interval digest} (ok : s.memOk) :
    (s.l1Sends g line type interval digest).memOk :=
  ok.tick.updChecker

theorem State.memOk.homeHears {s : State} {g line type interval digest} (ok : s.memOk) :
    (s.homeHears g line type interval digest).memOk := by
  unfold State.homeHears
  split
  exact ok.hears.updChecker

theorem State.memOk.storePayload {s : State} {die type index p} (ok : s.memOk) : (s.storePayload die type index p).memOk :=
  ok.updChecker.updCtl rfl

theorem State.memOk.enterN {s : State} {line payload poisoned} (ok : s.memOk) : (s.enterN line payload poisoned).memOk :=
  ((ok.foldl (fun _ _ ok1 => ok1.dropL1)).closeRecord.setInterval.ite
    (ok.foldl (fun _ _ ok1 => ok1.dropL1)).closeRecord).setDir.of_eq rfl rfl rfl

theorem State.memOk.violate {s : State} {ck line p} (ok : s.memOk) : (s.violate ck line p).memOk :=
  ok.storePayload.enterN.ite ok.storePayload

theorem State.memOk.fireInjector {s : State} {die} (ok : s.memOk) : (s.fireInjector die).memOk := ok.updDie _ _

theorem State.memOk.passMessage {s : State} {die line type} (ok : s.memOk) : (s.passMessage die line type).memOk :=
  ok.fireInjector.ite ok

theorem State.memOk.receiveAt {s : State} {ck die line type sender receiver good} (ok : s.memOk) :
    (s.receiveAt ck die line type sender receiver good).1.memOk := by
  unfold State.receiveAt
  split
  · exact (ok.updDie _ _).ite ok
  · exact ok.fireInjector.fst_ite ok.fireInjector.violate

theorem State.memOk.receive {s : State} {die line type sender receiver good} (ok : s.memOk) :
    (s.receive die line type sender receiver good).1.memOk :=
  ok.receiveAt

theorem State.memOk.tellHome {s : State} {a g line type interval digest} (ok : s.memOk) :
    (s.tellHome a g line type interval digest).1.memOk := by
  unfold State.tellHome
  extract_lets s1
  have oks1 : s1.memOk := ok.l1Sends.passMessage
  split
  · exact oks1.violate
  · exact oks1.homeHears

theorem Coh.memOk.andThen {x : Coh} {f : State → Coh} (ok : x.memOk) (okf : ∀ s, s.memOk → (f s).memOk) :
    (x.andThen f).memOk := by
  unfold Coh.andThen
  split
  · exact okf _ ok
  · exact ok

theorem State.memOk.cohOf {x : State × Option Nat} (ok : x.1.memOk) : (cohOf x).memOk := by
  unfold Machine.cohOf
  split <;> exact ok

theorem State.memOk.setBusy {s : State} {line b} (ok : s.memOk) : (s.setBusy line b).memOk := ok.updDie _ _

theorem State.memOk.endBusy {s : State} {line} (ok : s.memOk) : (s.endBusy line).memOk := by
  unfold State.endBusy
  split
  · exact ok
  · exact ok.of_eq rfl rfl rfl

theorem State.memOk.queueBehind {s : State} {line e} (ok : s.memOk) : (s.queueBehind line e).memOk := ok.setBusy

theorem State.memOk.stale {s : State} {line} (ok : s.memOk) : (s.stale line).memOk := ok.ite (ok.of_eq rfl rfl rfl)

theorem State.memOk.memAccept {s : State} {line} (ok : s.memOk) : (s.memAccept line).memOk :=
  (ok.carry.receiveAt.perform.carry.ite ok).of_eq rfl rfl rfl

theorem State.memOk.mscRoom {s : State} {d line} (ok : s.memOk) : (s.mscRoom d line).memOk :=
  ok.ite ((ok.useFresh.ite ok.useFresh.memAccept).updDie _ _)

theorem State.memOk.fillMsc {s : State} {line} (ok : s.memOk) : (s.fillMsc line).memOk := by
  unfold State.fillMsc
  split
  · exact ok
  · exact ok.ite (ok.mscRoom.updDie _ _)

theorem State.memOk.dropMsc {s : State} {line} (ok : s.memOk) : (s.dropMsc line).memOk := by
  unfold State.dropMsc
  split
  · exact ok
  · exact ok.updDie _ _

theorem State.memOk.memFetch {s : State} {line} (ok : s.memOk) : (s.memFetch line).memOk := by
  unfold State.memFetch
  split
  · exact ok
  · split
    · exact ok
    · extract_lets s1
      have oks1 : s1.memOk := ok.carry.perform.carry
      split
      · exact oks1.violate
      · exact oks1.receive.cohOf.andThen (fun _ ok1 => ok1.fillMsc)

theorem State.memOk.evictToHost {s : State} {line} (ok : s.memOk) : (s.evictToHost line).memOk := by
  unfold State.evictToHost
  split
  · exact ok
  · exact ok.ite ((ok.memAccept.updCtl rfl).send _)

theorem State.memOk.hostLeft {s : State} {line} (ok : s.memOk) : (s.hostLeft line).memOk := ok.evictToHost.ite ok

theorem State.memOk.unhold {s : State} {a line} (ok : s.memOk) : (s.unhold a line).memOk := ok.setDir

theorem State.memOk.giveUp {s0 : State} {h line stamp data} (ok : s0.memOk) : (s0.giveUp h line stamp data).memOk := by
  unfold State.giveUp
  split
  · exact ok.unhold
  · extract_lets s dg
    have oks : s.memOk := ok.passMessage.l1Hears
    split
    · exact oks.unhold
    · extract_lets dirty
      refine Coh.memOk.andThen (State.memOk.cohOf (oks.receive.fst_ite oks)) (fun _ ok1 => ?_)
      split
      next e => exact ok1.dropL1.tellHome.of_fst e
      next e => exact (ok1.dropL1.tellHome.of_fst e).unhold

theorem State.memOk.recallOne {s : State} {h line} (ok : s.memOk) : (s.recallOne h line).memOk := by
  unfold State.recallOne
  split
  · exact ok.unhold
  · extract_lets s1
    have oks1 : s1.memOk := ok.homeSends
    split
    next e => exact oks1.giveUp.of_eq e
    next e => exact oks1.giveUp.of_eq e
    next e => exact oks1.giveUp.of_eq e
    next e => exact oks1.giveUp.of_eq e

theorem State.memOk.reported {s : State} {h line keeps wasM} (ok : s.memOk) : (s.reported h line keeps wasM).memOk :=
  ok.unhold.ite (ok.advance.setDir.ite ok)

theorem State.memOk.forwarded {s0 : State} {h line stamp keeps req} (ok : s0.memOk) :
    (s0.forwarded h line stamp keeps req).memOk := by
  unfold State.forwarded
  split
  · exact ok.unhold
  · extract_lets s l wasM dg s1
    have oks : s.memOk := ok.passMessage.l1Hears
    clear_value s
    have oks1 : s1.memOk := (oks.closeL1.updCore _ id).ite oks.dropL1
    split
    next e => exact oks1.tellHome.of_fst e
    next e =>
      extract_lets s3 s4 s5
      have oks3 : s3.memOk := (oks1.tellHome.of_fst e).reported
      clear_value s3
      have oks4 : s4.memOk := oks3.updCore _ fun w => by split <;> exact w
      have oks5 : s5.memOk := by
        dsimp only [s5]
        split
        · exact oks4.setBusy
        · exact oks4
      split <;> exact oks5.receive.cohOf.andThen (fun _ ok1 => ok1.carry)

theorem State.memOk.recallLine {s : State} {line} (ok : s.memOk) : (s.recallLine line).memOk :=
  ok.ite ((ok.foldl (fun _ _ ok1 => ok1.ite ok1.recallOne)).ite (ok.foldl (fun _ _ ok1 => ok1.ite ok1.recallOne)).fillMsc.setDir)

theorem State.memOk.recallOut {s : State} {line} (ok : s.memOk) : (s.recallOut line).memOk :=
  ok.recallLine.advance.ite ok.recallLine

theorem State.memOk.homeWriteInterval {s : State} {a line sectors} (ok : s.memOk) :
    (s.homeWriteInterval a line sectors).memOk :=
  ok.recallLine.ite ok.recallLine.advance.setDir

theorem State.memOk.unlessN {s : State} {line} (ok : s.memOk) : (s.unlessN line).memOk := by
  unfold State.unlessN
  split <;> exact ok

theorem State.memOk.dirRoom {s t : State} {line} (ok : s.memOk) (e : s.dirRoom line = some t) : t.memOk := by
  simp only [State.dirRoom] at e
  split at e
  · exact Option.some.inj e ▸ ok
  · split at e
    · exact Option.some.inj e ▸ ok
    · split at e
      · cases e
      · exact Option.some.inj e ▸ ok.useFresh.recallOut

theorem State.memOk.askHost {s : State} {line own} (ok : s.memOk) : (s.askHost line own).memOk := by
  unfold State.askHost
  extract_lets f mates free
  split
  · exact ok
  · split
    · exact (ok.updCtl rfl).send _
    · split
      · exact ok
      · split
        · exact ok
        · exact ok.useFresh.recallOut.evictToHost

theorem State.memOk.sendMsg {s : State} {line m} (ok : s.memOk) : (s.sendMsg line m).memOk := by
  unfold State.sendMsg
  split
  · extract_lets s1
    have oks1 : s1.memOk := by
      dsimp only [s1]
      split <;> exact ok.homeSends
    exact oks1.setBusy
  · exact ok

theorem State.memOk.openGrant {s : State} {line a st} (ok : s.memOk) : (s.openGrant line a st).memOk := by
  unfold State.openGrant
  split
  · exact (ok.ite ok.openRecord).setDir
  · exact ok.advance.setDir

theorem State.memOk.sendGrant {s : State} {line} (ok : s.memOk) : (s.sendGrant line).memOk := by
  unfold State.sendGrant
  split
  · split
    · split
      · exact ok
      · split
        · exact ok.violate.endBusy
        · exact ok.openGrant.sendMsg
    · exact ok
  · exact ok

theorem State.memOk.wakeHome {s : State} {line} (ok : s.memOk) : (s.wakeHome line).memOk := by
  unfold State.wakeHome
  split
  · exact ok
  · exact ok
  · exact (ok.updDie _ _).ite ok

theorem State.memOk.homeTake {s : State} {req a line} (ok : s.memOk) : (s.homeTake req a line).memOk := by
  unfold State.homeTake
  split
  · exact ok
  · split
    · exact ok
    · extract_lets s1 e req1 own reads
      have ok1 : s1.memOk := ok.wakeHome
      split
      · exact ok1.askHost
      · split
        · exact ok1
        next s2 room =>
          have ok2 : s2.memOk := by
            split at room
            · exact Option.some.inj room ▸ ok1
            · exact ok1.dirRoom room
          refine Coh.memOk.andThen (.ite ok2.memFetch ok2) fun s3 ok3 => ?_
          extract_lets msgs s4 s5
          have ok4 : s4.memOk := by
            dsimp only [s4]
            split
            · exact ok3.carry
            · exact ok3
          exact .ite ok4 (ok4.setBusy.foldl fun _ _ ok => ok.sendMsg).sendGrant.unlessN

theorem State.memOk.hostTakes {s : State} {line} (ok : s.memOk) : (s.hostTakes line).memOk :=
  ((ok.memAccept.updCtl rfl).send _).ite ok

theorem State.memOk.homeWbD {s : State} {a line} (ok : s.memOk) : (s.homeWbD a line).memOk := by
  unfold State.homeWbD
  extract_lets e s1 s2 x x_1 s2_1
  have oks1 : s1.memOk := ok.fillMsc
  have oks2 : s2.memOk := oks1.advance
  have oks2_1 : s2_1.memOk := oks1.setDir
  split
  · exact oks2.setDir.hostLeft
  · exact oks2_1.hostLeft.ite oks2_1.hostTakes
  · exact oks1

theorem State.memOk.homeEvC {s : State} {a line} (ok : s.memOk) : (s.homeEvC a line).memOk := by
  unfold State.homeEvC
  extract_lets e s2 x sh
  have oks2 : s2.memOk := ok.advance
  split
  · exact oks2.setDir.hostLeft
  · exact ok.setDir.hostLeft
  · exact ok.setDir
  · exact ok

theorem State.memOk.takeNotice {s : State} {a g line l} (ok : s.memOk) : (s.takeNotice a g line l).memOk := by
  unfold State.takeNotice
  extract_lets s1 dg ack s2
  have oks1 : s1.memOk := ok.closeL1.updCore _ id
  have oks2 : s2.memOk := oks1.l1Sends
  split
  · exact oks1
  · split
    next e => exact oks2.receive.of_fst e
    next e =>
      split
      · exact (oks2.receive.of_fst e).violate
      · exact (oks2.receive.of_fst e).homeHears.homeWbD.carry
  · split
    next e => exact oks2.receive.of_fst e
    next e =>
      split
      · exact (oks2.receive.of_fst e).violate
      · exact (oks2.receive.of_fst e).homeHears.homeWbD.carry
  · split
    next e => exact oks1.tellHome.of_fst e
    next e => exact (oks1.tellHome.of_fst e).homeEvC.carry
  · split
    next e => exact oks1.tellHome.of_fst e
    next e => exact (oks1.tellHome.of_fst e).homeEvC.carry

theorem State.memOk.evictL1 {s : State} {a line} (ok : s.memOk) : (s.evictL1 a line).memOk := by
  unfold State.evictL1
  split
  · exact ok
  · split
    · exact ok
    · exact (ok.updCore _ id).ite (((ok.updCore _ id).updCore _ id).queueBehind.ite (ok.updCore _ id).takeNotice)

theorem State.memOk.installL1 {s : State} {a line l} (ok : s.memOk) : (s.installL1 a line l).memOk := by
  unfold State.installL1
  split
  · exact ok
  · exact (ok.ite ok.evictL1.useFresh).updCore _ id

theorem State.memOk.granted {s : State} {a st data line b} (ok : s.memOk) : (s.granted a st data line b).memOk := by
  unfold State.granted
  split
  · exact ok
  · extract_lets dg full
    refine Coh.memOk.andThen (State.memOk.cohOf (ok.receive.fst_ite ok.passMessage)) (fun _ ok1 => ?_)
    extract_lets s2 old s3 s4
    have oks2 : s2.memOk := ok1.l1Hears
    have oks3 : s3.memOk := by
      dsimp only [s3]
      dsimp only [old]
      split
      · exact oks2.closeL1
      · exact oks2
    have oks4 : s4.memOk := oks3.installL1
    split
    next e => exact oks4.tellHome.of_fst e
    next e =>
      split
      · exact Coh.memOk.ite (oks4.tellHome.of_fst e) (oks4.tellHome.of_fst e).violate
      · exact oks4.tellHome.of_fst e

theorem State.memOk.deliver {s : State} {line m b} (ok : s.memOk) : (s.deliver line m b).memOk := by
  unfold State.deliver
  split
  · exact ok.forwarded
  · exact ok.forwarded
  · exact ok.giveUp
  · exact ok.granted

theorem State.memOk.takeMsg {s : State} {line m} (ok : s.memOk) : (s.takeMsg line m).memOk := by
  unfold State.takeMsg
  split
  · exact ok
  · split
    next e =>
      exact ((ok.setBusy.deliver.of_eq e).endBusy.ite (ok.setBusy.deliver.of_eq e).sendGrant).unlessN
    next e => exact ((ok.setBusy.deliver.of_eq e).endBusy :)
    next e => exact ((ok.setBusy.deliver.of_eq e).endBusy :)
    next e => exact ((ok.setBusy.deliver.of_eq e).endBusy :)

theorem State.memOk.takeMsgs {line xs} {s : State} (ok : s.memOk) : (takeMsgs line xs s).memOk := by
  induction xs generalizing s with
  | nil => exact ok
  | cons x xs ih =>
    unfold Machine.takeMsgs
    exact ok.takeMsg.andThen (fun _ ok1 => ih ok1)

theorem State.memOk.transact {s : State} {req a line} (ok : s.memOk) : (s.transact req a line).memOk := by
  unfold State.transact
  refine ok.homeTake.andThen (fun _ ok1 => ?_)
  split
  · exact ok1
  · exact ok1.takeMsgs

theorem State.memOk.l1Read {s : State} {a line} (ok : s.memOk) : (s.l1Read a line).memOk := by
  unfold State.l1Read
  split
  · split <;> exact ok
  · exact ok.transact

theorem State.memOk.l1Own {s : State} {a line whole} (ok : s.memOk) : (s.l1Own a line whole).memOk := by
  unfold State.l1Own
  split
  · split
    · exact ok
    · split
      · exact ok
      · exact ok
      · exact ok.transact
  · exact ok.transact

theorem State.memOk.l1Mark {s : State} {a line sectors} (ok : s.memOk) : (s.l1Mark a line sectors).memOk := by
  unfold State.l1Mark
  split
  · exact ok
  · exact (ok.stale.updCore _ id).setDir

theorem State.memOk.homeOpen {s : State} {line own} (ok : s.memOk) : (s.homeOpen line own).memOk := by
  unfold State.homeOpen
  split
  · exact ok
  · split
    · exact ok
    · exact Coh.memOk.ite ok.wakeHome ok.wakeHome.askHost

theorem State.memOk.homeTakeWrite {s : State} {a type pa bs line} (ok : s.memOk) : (s.homeTakeWrite a type pa bs line).memOk :=
  ok.homeOpen.andThen (fun _ ok1 => ok1.receive.cohOf.andThen (fun _ ok2 => ok2.recallLine.unlessN.andThen
    (fun _ ok3 => Coh.memOk.andThen (Coh.memOk.ite ok3 ok3.memFetch) (fun _ ok4 => ok4.homeWriteInterval.fillMsc.stale))))

theorem State.memOk.homeTakeWrites {a type pa bs xs} {s : State} (ok : s.memOk) : (homeTakeWrites a type pa bs xs s).memOk := by
  induction xs generalizing s with
  | nil => exact ok
  | cons x xs ih =>
    unfold Machine.homeTakeWrites
    exact ok.homeTakeWrite.andThen (fun _ ok1 => ih ok1)

theorem State.memOk.homeSettle {s : State} {uncached line} (ok : s.memOk) : (s.homeSettle uncached line).memOk :=
  (ok.memAccept.dropMsc.ite ok).hostLeft

theorem State.memOk.homePut {s : State} {uncached pa bs} (ok : s.memOk) : (s.homePut uncached pa bs).memOk :=
  ok.writeBytes.foldl (fun _ _ ok1 => ok1.homeSettle)

theorem State.memOk.homeWrite {s : State} {a type uncached pa bs} (ok : s.memOk) : (s.homeWrite a type uncached pa bs).memOk :=
  ok.homeTakeWrites.andThen (fun _ ok1 => ok1.homePut)

theorem State.memOk.settleLine {s : State} {line} (ok : s.memOk) : (s.settleLine line).memOk := by
  unfold State.settleLine
  split
  · exact ok
  · split
    next e => exact ok.takeMsgs.of_eq e
    next e => exact ok.takeMsgs.of_eq e
    next e => exact ok.takeMsgs.of_eq e
    next e => exact ok.takeMsgs.of_eq e

theorem State.memOk.unitWrite {s : State} {a uncached pa bs} (ok : s.memOk) : (s.unitWrite a uncached pa bs).memOk := by
  unfold State.unitWrite
  split
  next e => exact (ok.foldl (fun _ _ ok1 => ok1.settleLine)).homeWrite.of_eq e
  next e => exact (ok.foldl (fun _ _ ok1 => ok1.settleLine)).homeWrite.of_eq e
  next e => exact (ok.foldl (fun _ _ ok1 => ok1.settleLine)).homeWrite.of_eq e
  next e => exact (ok.foldl (fun _ _ ok1 => ok1.settleLine)).homeWrite.of_eq e

theorem State.memOk.unitPut {s : State} {a uncached pa bs} (ok : s.memOk) : (s.unitPut a uncached pa bs).memOk :=
  ok.foldl (fun _ _ ok1 => ok1.unitWrite)

theorem State.memOk.uncachedLine {s : State} {line} (ok : s.memOk) : (uncachedLine s line).memOk :=
  ok.homeOpen.andThen (fun _ ok1 => ok1.recallOut.unlessN.andThen
    (fun _ ok2 => (ok2.memAccept.dropMsc.unlessN.andThen (fun _ ok3 => ok3.memFetch)).andThen
    (fun _ ok3 => ok3.dropMsc.hostLeft)))

theorem State.memOk.uncachedLines {xs} {s : State} (ok : s.memOk) : (uncachedLines xs s).memOk := by
  induction xs generalizing s with
  | nil => exact ok
  | cons x xs ih =>
    unfold Machine.uncachedLines
    exact ok.uncachedLine.andThen (fun _ ok1 => ih ok1)

end Sys2Proof.Machine
end

-- ==== Sys2Proof/Proofs/KeepAccess.lean ====

section
set_option Elab.async false
namespace Sys2Proof.Machine

/-! ## The memories stay canonical: the walk, an access and what it reaches -/

theorem State.memOk.read64 {s : State} {pa} (ok : s.memOk) : (s.read64 pa).memOk := by
  unfold State.read64
  split
  next e => exact ((ok.transact.of_eq e).hostLeft :)
  next e => exact (ok.transact.of_eq e :)
  next e => exact (ok.transact.of_eq e :)
  next e => exact (ok.transact.of_eq e :)

theorem State.memOk.update64 {s : State} {pa f} (ok : s.memOk) : (s.update64 pa f).memOk := by
  unfold State.update64
  extract_lets line
  split
  next e =>
    exact (((ok.homeOpen.andThen (fun _ ok1 => ok1.recallLine.unlessN.andThen (fun _ ok2 => ok2.memFetch))).of_eq
      e).homeWriteInterval.fillMsc.stale.writeLE.homeSettle :)
  next e =>
    exact ((ok.homeOpen.andThen (fun _ ok1 => ok1.recallLine.unlessN.andThen (fun _ ok2 => ok2.memFetch))).of_eq e :)
  next e =>
    exact ((ok.homeOpen.andThen (fun _ ok1 => ok1.recallLine.unlessN.andThen (fun _ ok2 => ok2.memFetch))).of_eq e :)
  next e =>
    exact ((ok.homeOpen.andThen (fun _ ok1 => ok1.recallLine.unlessN.andThen (fun _ ok2 => ok2.memFetch))).of_eq e :)

theorem State.memOk.cacheWalk {s : State} {asid lvl ix v} (ok : s.memOk) : (s.cacheWalk asid lvl ix v).memOk :=
  ok.useFresh.updCtl rfl

theorem State.memOk.walkRead {s : State} {asid lvl ix pa} (ok : s.memOk) : (s.walkRead asid lvl ix pa).memOk := by
  unfold State.walkRead
  split
  · exact ok
  · exact ok.read64

theorem TableRead.memOk.walk {x : TableRead} {f : Nat → State → Walked}
    (ok : x.memOk) (okf : ∀ n s, s.memOk → (f n s).memOk) :
    (x.walk f).memOk := by
  unfold TableRead.walk
  split
  · exact okf _ _ ok
  · exact ok
  · exact ok

theorem State.memOk.walkDown {asid va n n1} {s : State} (ok : s.memOk) : (walkDown asid va n n1 s).memOk := by
  induction n generalizing n1 s with
  | zero => exact ok
  | succ n ih =>
    unfold Machine.walkDown
    extract_lets lvl ix tag
    refine ok.walkRead.walk (fun _ _ ok1 => ?_)
    split
    · exact ok1
    · split
      · split <;> exact ok1
      · split
        · exact ok1
        · split
          · exact ok1
          · extract_lets t'
            split
            · exact ih ok1.cacheWalk
            · exact ok1

theorem State.memOk.walk {s : State} {asid va} (ok : s.memOk) : (s.walk asid va).memOk := by
  unfold State.walk
  split
  · exact ok
  · refine ok.walkRead.walk (fun _ _ ok1 => ?_)
    split
    · exact ok1
    · split
      · exact ok1
      · extract_lets t
        split
        · exact ok1.cacheWalk.walkDown
        · exact ok1

theorem State.memOk.park {s : State} {r asid va} (ok : s.memOk) : (s.park r asid va).memOk := by
  unfold State.park
  extract_lets w same s1
  have oks1 : s1.memOk := by
    dsimp only [s1]
    refine ok.updCtl ?_
    (repeat' split) <;> rfl
  split
  · exact oks1
  · exact oks1.updCore _ id

@[simp] theorem Control.walksNext_window (c : Control) (ws : List WalkCtx) : (c.walksNext ws).window = c.window := by
  induction ws generalizing c with
  | nil => rfl
  | cons w ws ih => rw [Control.walksNext]; split <;> simp [ih]

theorem State.memOk.endWalks {s : State} {gone} (ok : s.memOk) : (s.endWalks gone).memOk := ok.updCtl (by simp)

theorem State.memOk.withWalk {s : State} {r asid va} {f : TlbEntry → Nat → State → Trans}
    (ok : s.memOk) (okf : ∀ x n s, s.memOk → (f x n s).memOk) :
    (s.withWalk r asid va f).memOk := by
  unfold State.withWalk
  split
  · exact ok
  · split
    · exact ok.park
    · split
      next e => exact okf _ _ _ (ok.walk.of_eq e)
      next e => exact (ok.walk.of_eq e :)
      next e => exact (ok.walk.of_eq e :)

theorem TableRead.memOk.trans {x : TableRead} {f : State → Trans} (ok : x.memOk) (okf : ∀ s, s.memOk → (f s).memOk) :
    (x.trans f).memOk := by
  unfold TableRead.trans
  split
  · exact okf _ ok
  · exact ok
  · exact ok

theorem State.memOk.walkInstall {s : State} {r asid va} (ok : s.memOk) : (s.walkInstall r asid va).memOk := by
  unfold State.walkInstall
  refine ok.withWalk (fun _ _ _ ok1 => ?_)
  split
  · exact ok1.installTlb
  · exact ok1.update64.trans (fun _ ok2 => ok2.installTlb)

theorem State.memOk.dirtyWalk {s : State} {r asid sup a va} (ok : s.memOk) : (s.dirtyWalk r asid sup a va).memOk := by
  unfold State.dirtyWalk
  refine ok.withWalk (fun _ _ _ ok1 => ?_)
  split
  · exact ok1
  · exact ok1.update64.trans (fun _ ok2 => ok2.installTlb)

theorem Trans.memOk.permit {x : Trans} {sup a} {f : TlbEntry → State → Trans}
    (ok : x.memOk) (okf : ∀ x s, s.memOk → (f x s).memOk) :
    (x.permit sup a f).memOk := by
  unfold Trans.permit
  split
  · split
    · exact ok
    · exact okf _ _ ok
  · exact ok

theorem State.memOk.translate {s : State} {r asid sup a va} (ok : s.memOk) : (s.translate r asid sup a va).memOk := by
  unfold State.translate
  split
  · exact ok
  · extract_lets found
    have okfound : found.memOk := by
      dsimp only [found]
      split
      next e => exact ok.tlbHit e
      · exact ok.walkInstall
    refine okfound.permit (fun _ _ ok1 => ?_)
    split
    · exact ok1.dirtyWalk.permit (fun _ _ ok2 => ok2)
    · exact ok1

theorem State.memOk.translatePages {c a xs xs1} {s : State} (ok : s.memOk) : (translatePages c a xs xs1 s).memOk := by
  induction xs generalizing xs1 s with
  | nil => exact ok
  | cons x xs ih =>
    unfold Machine.translatePages
    split
    next e => exact ih (ok.translate.of_eq e)
    next e => exact (ok.translate.of_eq e :)
    next e => exact (ok.translate.of_eq e :)

theorem State.memOk.hostCheck {s : State} {a segs} (ok : s.memOk) : (s.hostCheck a segs).memOk := by
  unfold State.hostCheck
  extract_lets need
  split
  · exact ok
  · exact ok.foldl (fun _ _ ok1 => ok1.askHost)

theorem State.memOk.resolve {s : State} {c sp ea n a hostOk} (ok : s.memOk) : (s.resolve c sp ea n a hostOk).memOk := by
  unfold State.resolve
  split
  · split
    next e =>
      split
      · exact (ok.translatePages.of_eq e :)
      · exact (ok.translatePages.of_eq e).hostCheck
    · exact ok.translatePages
  · split
    · split <;> exact ok
    · exact ok
  · extract_lets k o
    split
    · exact ok
    · split <;> exact ok
  · exact ok

theorem Coh.memOk.perf {x : Coh} {f : State → Perf} (ok : x.memOk) (okf : ∀ s, s.memOk → (f s).memOk) :
    (x.perf f).memOk := by
  unfold Coh.perf
  split
  · exact okf _ ok
  · exact ok
  · exact ok
  · exact ok

theorem State.memOk.usePrefetch {s : State} {g line} (ok : s.memOk) : (s.usePrefetch g line).memOk := by
  unfold State.usePrefetch
  split
  · exact (ok.updCore _ id).ite ok
  · exact ok

theorem State.memOk.engineLine {c} {s : State} {l} (ok : s.memOk) : (engineLine c s l).memOk := by
  unfold Machine.engineLine
  refine ok.transact.andThen (fun _ ok1 => ?_)
  split
  · exact ok1.receive.cohOf
  · exact ok1.receive.cohOf
  · exact ok1.receive.cohOf
  · exact ok1

theorem State.memOk.readLines {c xs} {s : State} (ok : s.memOk) : (readLines c xs s).memOk := by
  induction xs generalizing s with
  | nil => exact ok
  | cons x xs ih =>
    unfold Machine.readLines
    refine (ok.engineLine.ite ok.l1Read).andThen (fun _ ok1 => ?_)
    split
    · exact ih ok1.usePrefetch
    · exact ih ok1

theorem State.memOk.ownLines {c xs} {s : State} (ok : s.memOk) : (Machine.ownLines c xs s).memOk := by
  induction xs generalizing s with
  | nil => exact ok
  | cons x xs ih =>
    unfold Machine.ownLines
    exact ok.l1Own.andThen (fun _ ok1 => ih ok1)

theorem State.memOk.stampFor {s : State} {c g} (ok : s.memOk) : (s.stampFor c g).1.memOk := ok.homeStamp.fst_ite ok.coreStamp

theorem State.memOk.acquireRead {s : State} {c g} (ok : s.memOk) : (s.acquireRead c g).memOk :=
  Coh.memOk.ite (Coh.memOk.ite ok ok) (Coh.memOk.ite ok (ok.uncachedLines.ite ok.readLines))

theorem State.memOk.acquireWrite {s : State} {c g bs} (ok : s.memOk) : (s.acquireWrite c g bs).memOk :=
  Coh.memOk.ite (Coh.memOk.ite ok ok) (ok.homeTakeWrites.ite ok.ownLines)

theorem State.memOk.acquireReads {c xs} {s : State} (ok : s.memOk) : (acquireReads c xs s).memOk := by
  induction xs generalizing s with
  | nil => exact ok
  | cons x xs ih =>
    unfold Machine.acquireReads
    exact ok.acquireRead.andThen (fun _ ok1 => ih ok1)

theorem State.memOk.acquireWrites {c xs xs1} {s : State} (ok : s.memOk) : (acquireWrites c xs xs1 s).memOk := by
  induction xs generalizing xs1 s with
  | nil => exact ok
  | cons x xs ih =>
    unfold Machine.acquireWrites
    exact ok.acquireWrite.andThen (fun _ ok1 => ih ok1)

theorem State.memOk.readSegs {c first xs xs1 n n1} {s : State} (ok : s.memOk) : (readSegs c first xs xs1 n n1 s).memOk := by
  induction xs generalizing first xs1 n n1 s with
  | nil => exact ok
  | cons x xs ih =>
    unfold Machine.readSegs
    split
    · exact ih ok
    · split
      next e =>
        extract_lets s2
        have oks2 : s2.memOk := ((ok.stampFor.of_fst e).foldl (fun _ _ ok1 => ok1.hostLeft)).ite (ok.stampFor.of_fst e)
        split
        exact ih oks2

theorem State.memOk.writeSegs {c first xs xs1 n n1} {s : State} (ok : s.memOk) : (writeSegs c first xs xs1 n n1 s).memOk := by
  induction xs generalizing first xs1 n n1 s with
  | nil => exact ok
  | cons x xs ih =>
    unfold Machine.writeSegs
    split
    · exact ih ok
    · refine Coh.memOk.perf (Coh.memOk.ite ok ok.ownLines) (fun _ ok1 => ?_)
      split
      next e =>
        extract_lets now s0 s2
        have oks0 : s0.memOk := (ok1.stampFor.of_fst e).foldl (fun _ _ ok2 => ok2.l1Mark)
        have oks2 : s2.memOk := (ok1.stampFor.of_fst e).homePut.ite oks0.writeBytes
        split
        exact ih oks2

theorem Perf.memOk.leaving {x : Perf} {parts} (ok : x.memOk) : (x.leaving parts).memOk := by
  unfold Perf.leaving
  split
  · split <;> exact ok
  · exact ok

theorem State.memOk.acquireReadT {s : State} {c t} (ok : s.memOk) : (s.acquireReadT c t).memOk := by
  unfold State.acquireReadT
  split
  · exact ok.acquireReads
  · exact ok

theorem State.memOk.acquireWriteT {s : State} {c t bs} (ok : s.memOk) : (s.acquireWriteT c t bs).memOk := by
  unfold State.acquireWriteT
  split
  · exact ok.acquireWrites
  · exact ok

theorem State.memOk.readHeld {s : State} {c t} (ok : s.memOk) : (s.readHeld c t).memOk := by
  unfold State.readHeld
  split
  · exact ok.readSegs.leaving
  · split
    next e => exact ok.bankStamp.of_fst e

theorem State.memOk.writeHeld {s : State} {c t bs} (ok : s.memOk) : (s.writeHeld c t bs).memOk := by
  unfold State.writeHeld
  split
  · exact ok.writeSegs.leaving
  · split
    next e => exact (ok.bankStamp.of_fst e).updCore _ (Memory.wf_writeBytes _ _)

theorem State.memOk.readTarget {s : State} {c t} (ok : s.memOk) : (s.readTarget c t).memOk :=
  ok.acquireReadT.perf (fun _ ok1 => ok1.readHeld)

theorem State.memOk.writeTarget {s : State} {c t bs} (ok : s.memOk) : (s.writeTarget c t bs).memOk :=
  ok.acquireWriteT.perf (fun _ ok1 => ok1.writeHeld)

theorem State.memOk.acquireAtomic {s : State} {a pa el} (ok : s.memOk) : (s.acquireAtomic a pa el).memOk := by
  unfold State.acquireAtomic
  extract_lets line
  refine ok.homeOpen.andThen (fun _ ok1 => ?_)
  refine ok1.recallLine.unlessN.andThen (fun _ ok2 => ?_)
  refine ok2.memFetch.andThen (fun _ ok3 => ?_)
  split
  · exact ok3
  · exact ok3.receive.cohOf

theorem State.memOk.atomicHeld {s : State} {a u pa uncached op el x new} (ok : s.memOk) :
    (s.atomicHeld a u pa uncached op el x new).1.memOk := by
  unfold State.atomicHeld
  extract_lets line n o r s1 s2 s3
  have oks1 : s1.memOk := ok.homeWriteInterval
  have oks2 : s2.memOk := oks1.fillMsc.stale
  have oks3 : s3.memOk := by
    dsimp only [s3]
    split
    · exact oks2.writeLE
    · exact oks2
  split
  next e => exact (oks3.homeStamp.of_fst e).homeSettle

theorem State.memOk.homeAtomicAt {s : State} {a u pa uncached op el x new} (ok : s.memOk) :
    (s.homeAtomicAt a u pa uncached op el x new).1.memOk := by
  unfold State.homeAtomicAt
  split
  next e => exact (ok.acquireAtomic.of_eq e).atomicHeld
  next e => exact (ok.acquireAtomic.of_eq e :)
  next e => exact (ok.acquireAtomic.of_eq e :)
  next e => exact (ok.acquireAtomic.of_eq e :)

theorem State.memOk.acquireAtomicT {s : State} {c t el} (ok : s.memOk) : (s.acquireAtomicT c t el).memOk := by
  unfold State.acquireAtomicT
  split
  · exact ok
  · exact ok
  · split
    · exact ok.acquireAtomic
    · exact ok.acquireAtomic
    · split
      · exact ok
      · split <;> exact ok
    · exact ok

theorem State.memOk.atomicPerform {s : State} {c t op el x new} (ok : s.memOk) : (s.atomicPerform c t op el x new).1.memOk := by
  unfold State.atomicPerform
  split
  · extract_lets o r
    split
    next e =>
      extract_lets s2
      have oks2 : s2.memOk := by
        dsimp only [s2]
        split
        · exact (ok.bankStamp.of_fst e).updCore _ (Memory.wf_writeLE _ _ _)
        · exact ok.bankStamp.of_fst e
      exact oks2
  · split
    · split
      · exact ok.atomicHeld
      · exact ok.atomicHeld
      · exact ok.recallOut.evictToHost
      · exact ok
    · exact ok

theorem State.memOk.atomicTarget {s : State} {c t op el x new} (ok : s.memOk) : (s.atomicTarget c t op el x new).1.memOk := by
  unfold State.atomicTarget
  split
  next e => exact (ok.acquireAtomicT.of_eq e).atomicPerform
  next e => exact (ok.acquireAtomicT.of_eq e :)
  next e => exact (ok.acquireAtomicT.of_eq e :)
  next e => exact (ok.acquireAtomicT.of_eq e :)

theorem State.memOk.sendFabric {s : State} {pkg line m} (ok : s.memOk) : (s.sendFabric pkg line m).memOk := by
  unfold State.sendFabric
  split
  · exact ok.send _
  · exact (ok.updCtl rfl).send _

theorem State.memOk.sendPeer {s : State} {pa op tag} (ok : s.memOk) : (s.sendPeer pa op tag).memOk := (ok.updCtl rfl).sendFabric

theorem State.memOk.sendHost {s : State} {pa size data} (ok : s.memOk) : (s.sendHost pa size data).memOk := by
  unfold State.sendHost
  split
  · exact ok.send _
  · exact ok

theorem State.memOk.engineAsk {s : State} {a unit slot pa op} (ok : s.memOk) : (engineAsk s a unit slot pa op).memOk := by
  unfold Machine.engineAsk
  extract_lets kept
  split
  · exact ok.sendPeer.updCtl rfl
  · split
    · exact ok.sendHost.updCtl rfl
    · exact ok.sendHost.updCtl rfl
    · exact ok.send _

theorem Perf.memOk.reach {x : Perf} (ok : x.memOk) : x.reach.memOk := by
  unfold Perf.reach
  split <;> exact ok

theorem State.memOk.askAway {s : State} {a unit x data} (ok : s.memOk) : (s.askAway a unit x data).memOk := by
  unfold State.askAway
  split
  · exact ok
  · extract_lets tag op
    refine State.memOk.updCtl ?_ rfl
    exact State.memOk.engineAsk (ok.of_eq rfl rfl rfl)

theorem State.memOk.reach {s : State} {c unit parts data} {f : State → Reach}
    (ok : s.memOk) (okf : ∀ s, s.memOk → (f s).memOk) :
    (s.reach c unit parts data f).memOk := by
  unfold State.reach
  extract_lets s1
  have oks1 : s1.memOk := ok.foldl (fun _ _ ok1 => ok1.askAway)
  split
  · exact oks1
  · split
    · exact okf _ oks1
    · exact oks1

theorem State.memOk.reachRead {s : State} {c unit t} (ok : s.memOk) : (s.reachRead c unit t).memOk := by
  unfold State.reachRead
  split
  · exact ok.readTarget.reach
  · extract_lets parts
    refine ok.reach (fun _ ok1 => ?_)
    split
    next e => exact (ok1.readTarget.reach.of_eq e :)
    · exact ok1.readTarget.reach

theorem State.memOk.reachWrite {s : State} {c unit t bs} (ok : s.memOk) : (s.reachWrite c unit t bs).memOk := by
  unfold State.reachWrite
  split
  · exact ok.writeTarget.reach
  · exact ok.reach (fun _ ok1 => ok1.writeTarget.reach)

theorem State.memOk.endAway {s : State} {unit} (ok : s.memOk) : (s.endAway unit).memOk := (ok.updCtl rfl).ite ok

theorem State.memOk.awayReply {s : State} {tag r} (ok : s.memOk) : (s.awayReply tag r).memOk := by
  unfold State.awayReply
  split
  · exact ok
  · split
    next e =>
      refine State.memOk.updCtl ?_ rfl
      refine State.memOk.of_fst ?_ e
      split
      · exact ok.receive.fst_ite ok
      · exact ok

end Sys2Proof.Machine
end

-- ==== Sys2Proof/Proofs/KeepHolders.lean ====

section
set_option Elab.async false
namespace Sys2Proof.Machine

/-! ## The memories stay canonical: spills, frames, splits and holders -/

theorem Drip.memOk.bind {x : Drip} {f : State → Holder → Drip}
    (ok : x.memOk) (okf : ∀ s h, s.memOk → (f s h).memOk) :
    (x.bind f).memOk := by
  unfold Drip.bind
  split
  · exact okf _ _ ok
  · exact ok

theorem Reach.memOk.drip {x : Reach} {ea} {f : State → List Byte → Drip}
    (ok : x.memOk) (okf : ∀ s x, s.memOk → (f s x).memOk) :
    (x.drip ea f).memOk := by
  unfold Reach.drip
  split
  · exact okf _ _ ok
  · exact ok
  · exact ok

theorem State.memOk.dripWrite {s : State} {g h ea bs} (ok : s.memOk) : (s.dripWrite g h ea bs).memOk := by
  unfold State.dripWrite
  extract_lets c
  split
  next e => exact (ok.resolve.of_eq e).reachWrite.drip (fun _ _ ok1 => ok1)
  next e => exact (ok.resolve.of_eq e :)
  next e => exact (ok.resolve.of_eq e :)

theorem State.memOk.dripRead {s : State} {g h ea n} {f : State → List Byte → Drip}
    (ok : s.memOk) (okf : ∀ s x, s.memOk → (f s x).memOk) :
    (s.dripRead g h ea n f).memOk := by
  unfold State.dripRead
  extract_lets c
  split
  next e => exact (ok.resolve.of_eq e).reachRead.drip okf
  next e => exact (ok.resolve.of_eq e :)
  next e => exact (ok.resolve.of_eq e :)

theorem State.memOk.spillWrite {s : State} {g q h off bs} (ok : s.memOk) : (s.spillWrite g q h off bs).memOk :=
  Drip.memOk.ite ok ok.dripWrite

theorem State.memOk.spillGran {s : State} {g q h o} (ok : s.memOk) : (s.spillGran g q h o).memOk :=
  ok.spillWrite.bind (fun _ _ ok1 => ok1)

theorem State.memOk.makeResident {g q xs} {s : State} {h} (ok : s.memOk) : (makeResident g q xs s h).memOk := by
  induction xs generalizing s h with
  | nil => exact ok
  | cons x xs ih =>
    unfold Machine.makeResident
    exact Drip.memOk.bind (Drip.memOk.ite ok ok.spillGran) (fun _ _ ok1 => (ok1.dripRead (fun _ _ ok2 => ih ok2)).ite (ih ok1))

theorem State.memOk.trimFrames {g q n} {s : State} {h} (ok : s.memOk) : (trimFrames g q n s h).memOk := by
  induction n generalizing s h with
  | zero => exact ok
  | succ n ih =>
    unfold Machine.trimFrames
    split
    · exact ok
    · split
      · exact ok
      · exact ok.spillWrite.bind (fun _ _ ok1 => ih ok1)

theorem State.memOk.loadFrame {s : State} {g q h f} (ok : s.memOk) : (s.loadFrame g q h f).memOk :=
  Drip.memOk.ite (ok.dripRead (fun _ _ ok1 => ok1)) ok

theorem State.memOk.enterFrame {s : State} {g q h f} (ok : s.memOk) : (s.enterFrame g q h f).memOk :=
  ok.loadFrame.bind (fun _ _ ok1 => ok1.makeResident.bind (fun _ _ ok2 => ok2.trimFrames))

theorem State.memOk.takeFrame {s : State} {g q h f} (ok : s.memOk) : (s.takeFrame g q h f).memOk := ok.enterFrame

theorem State.memOk.pushSplit {s : State} {g q h e} (ok : s.memOk) : (s.pushSplit g q h e).memOk := by
  unfold State.pushSplit
  split
  · exact ok
  · split
    · exact ok
    · exact Drip.memOk.ite ok (ok.spillWrite.bind (fun _ _ ok1 => ok1))

theorem State.memOk.refillSplit {s : State} {g q h} (ok : s.memOk) : (s.refillSplit g q h).memOk :=
  Drip.memOk.ite (ok.dripRead (fun _ _ ok1 => ok1)) ok

theorem State.memOk.dropDead {g q n} {s : State} {h} (ok : s.memOk) : (dropDead g q n s h).memOk := by
  induction n generalizing s h with
  | zero => exact ok
  | succ n ih =>
    unfold Machine.dropDead
    split
    · exact ok
    · exact (ok.refillSplit.bind (fun _ _ ok1 => ih ok1)).ite ok

theorem State.memOk.resumeEntry {s : State} {g q h e} (ok : s.memOk) : (s.resumeEntry g q h e).memOk := ok.takeFrame

theorem State.memOk.resumeTop {s : State} {g q h} {d : Drip} (ok : s.memOk) (e : s.resumeTop g q h = some d) : d.memOk := by
  unfold State.resumeTop at e
  split at e
  next e1 =>
    split at e
    · cases e
    · exact Option.some.inj e ▸ (ok.dropDead.of_eq e1).refillSplit.bind fun _ _ ok2 => ok2.resumeEntry
  · exact Option.some.inj e ▸ ok.dropDead

theorem State.memOk.ringPut {s : State} {r bs} (ok : s.memOk) : (s.ringPut r bs).1.memOk :=
  (ok.unitPut.ite ok.unitPut.unitPut).fst_ite ok

theorem State.memOk.fifoPut {s : State} {g bs} (ok : s.memOk) : (s.fifoPut g bs).memOk := by
  unfold State.fifoPut
  refine ok.updCore _ ?_
  exact fun w => by split <;> exact w

theorem State.memOk.traceSync {s : State} {g q h} (ok : s.memOk) : (s.traceSync g q h).memOk := ok.fifoPut.updCore _ id

theorem State.memOk.trace {s : State} {g q h kind rest} (ok : s.memOk) : (s.trace g q h kind rest).memOk :=
  (ok.traceSync.ite ok.fifoPut).ite ok

theorem State.memOk.evictLines {s : State} {a ls} (ok : s.memOk) : (s.evictLines a ls).memOk :=
  ok.foldl (fun _ _ ok1 => ok1.evictL1)

theorem State.memOk.takeSplit {s : State} {g l1 spm} (ok : s.memOk) : (s.takeSplit g l1 spm).memOk :=
  (ok.evictLines.ite ok).updCore _ id

theorem State.memOk.putNew {s : State} {k q win h} (ok : s.memOk) : (s.putNew k q win h).memOk :=
  (ok.putHolder _ _ _).updCore _ id

theorem State.memOk.seat {s : State} {g k q win h} (ok : s.memOk) : (s.seat g k q win h).memOk := (ok.takeSplit.ite ok).putNew

theorem Place.memOk.bind {x : Place} {f : State → Place} (ok : x.memOk) (okf : ∀ s, s.memOk → (f s).memOk) :
    (x.bind f).memOk := by
  unfold Place.bind
  split
  · exact okf _ ok
  · exact ok

theorem Drip.memOk.place {x : Drip} {f : State → Holder → Place}
    (ok : x.memOk) (okf : ∀ s h, s.memOk → (f s h).memOk) :
    (x.place f).memOk := by
  unfold Drip.place
  split
  · exact okf _ _ ok
  · exact trivial
  · exact ok

theorem State.memOk.copyParts {g src dst xs} {s : State} {h} (ok : s.memOk) : (copyParts g src dst xs s h).memOk := by
  induction xs generalizing s h with
  | nil => exact ok
  | cons x xs ih =>
    unfold Machine.copyParts
    exact ok.dripRead (fun _ _ ok1 => ok1.dripWrite.bind (fun _ _ ok2 => ih ok2))

theorem State.memOk.putImage {img n xs} {s : State} (ok : s.memOk) : (putImage img n xs s).memOk := by
  induction xs generalizing n s with
  | nil => exact ok
  | cons x xs ih =>
    refine ih (State.memOk.foldl (ok.withMem ?_) fun _ _ ok1 => ok1.homeSettle)
    exact Memory.wf_foldl_write _ (fun c : Host.Cell => x.pa + (c.1 - n)) _ (Memory.wf_clear _ _ ok.1)

theorem State.memOk.writeRecord {s : State} {g h ea size img} (ok : s.memOk) : (s.writeRecord g h ea size img).memOk := by
  unfold State.writeRecord
  extract_lets c bs
  split
  next e =>
    split
    · split
      next e1 => exact (((ok.resolve.of_eq e).acquireWrites.of_eq e1).putImage :)
      next e1 => exact ((ok.resolve.of_eq e).acquireWrites.of_eq e1 :)
      next e1 => exact ((ok.resolve.of_eq e).acquireWrites.of_eq e1 :)
      next e1 => exact ((ok.resolve.of_eq e).acquireWrites.of_eq e1 :)
    · exact (ok.resolve.of_eq e).reachWrite.drip (fun _ _ ok1 => ok1)
  next e => exact (ok.resolve.of_eq e :)
  next e => exact (ok.resolve.of_eq e :)
  next e => exact (ok.resolve.of_eq e :)

theorem State.memOk.placePiece {s : State} {g src h} (ok : s.memOk) : (s.placePiece g src h).memOk := by
  unfold State.placePiece
  extract_lets c n
  split
  · exact trivial
  · exact ok.writeRecord.place (fun _ _ ok1 => ok1.copyParts.place (fun _ _ ok2 => (ok2.updCore _ id).push))

theorem State.memOk.place {s : State} {g src part} (ok : s.memOk) : (s.place g src part).memOk := by
  unfold State.place
  extract_lets h
  split
  · exact ok.copyParts.place (fun _ _ ok1 => ok1.seat)
  · exact ok.placePiece

theorem State.memOk.cutWith {s : State} {g q h c low high} (ok : s.memOk) : (s.cutWith g q h c low high).memOk :=
  ok.place.bind (fun _ ok1 => ok1.putHolder _ _ _)

theorem State.memOk.placeGroups {g src t h xs} {s : State} (ok : s.memOk) : (placeGroups g src t h xs s).memOk := by
  induction xs generalizing s with
  | nil => exact ok
  | cons x xs ih =>
    unfold Machine.placeGroups
    split
    · exact ok.place.bind (fun _ ok1 => ih ok1)
    · exact ok.placePiece

theorem State.memOk.unfold {s : State} {g q h} (ok : s.memOk) : (s.unfold g q h).memOk := by
  unfold State.unfold
  extract_lets t
  split
  · exact ok
  · exact ok.placeGroups.bind (fun _ ok1 => ok1.putHolder _ _ _)

theorem State.memOk.allocTeam {s t : State} {g h team} (ok : s.memOk) (e : s.allocTeam g h team = some t) : t.memOk := by
  unfold State.allocTeam at e
  split at e
  · exact Option.some.inj e ▸ ok
  · dsimp only at e
    split at e
    · exact Option.some.inj e ▸ ok.updCore _ id
    · cases e

theorem State.memOk.placeTeams {g src h xs} {s : State} (ok : s.memOk) : (placeTeams g src h xs s).memOk := by
  induction xs generalizing s with
  | nil => exact ok
  | cons x xs ih =>
    unfold Machine.placeTeams
    split
    next e =>
      exact (ok.allocTeam (Option.ite_none_right_eq_some.1 e).2).place.bind (fun _ ok1 => ih ok1)
    · exact ok.placePiece

theorem State.memOk.teamCut {s : State} {g q h} (ok : s.memOk) : (s.teamCut g q h).memOk := by
  unfold State.teamCut
  extract_lets t
  split
  · split
    · exact ok
    · split
      · exact trivial
      next e => exact (ok.allocTeam e).placeTeams.bind (fun _ ok1 => ok1.putHolder _ _ _)
  · split
    · exact trivial
    next e => exact ok.allocTeam e

theorem State.memOk.endItems {s : State} {g grid team n stopped} (ok : s.memOk) : (s.endItems g grid team n stopped).memOk :=
  ok.updGrid.push.ite ok.updGrid

theorem State.memOk.freeTile {s : State} {x t} (ok : s.memOk) : (s.freeTile x t).memOk := by
  unfold State.freeTile
  extract_lets c s1
  have oks1 : s1.memOk := ok.updCluster _ _
  split
  · exact ok
  · split
    · split
      next e => exact (oks1.ringPut.of_fst e).updCluster _ _
    · exact oks1

theorem State.memOk.dropTile {s : State} {x t} (ok : s.memOk) : (s.dropTile x t).memOk := by
  unfold State.dropTile
  split
  · exact ok
  · exact (ok.updCluster _ _).freeTile.ite (ok.updCluster _ _)

theorem State.memOk.removeHolder {s : State} {g q h} (ok : s.memOk) : (s.removeHolder g q h).memOk :=
  (((ok.foldl (fun _ _ ok1 => ok1.ite ok1.dropTile)).updCore _ id).updCtl rfl).push

theorem State.memOk.endMembers {s : State} {g h stopped} (ok : s.memOk) : (s.endMembers g h stopped).memOk := by
  unfold State.endMembers
  extract_lets t
  split
  · exact ok.foldl (fun _ _ ok1 => ok1.endItems)
  · exact ok.endItems

theorem State.memOk.endHolder {s : State} {g q h stopped} (ok : s.memOk) : (s.endHolder g q h stopped).memOk :=
  ok.endMembers.trace.removeHolder

theorem State.memOk.stopHolder {s : State} {g q} (ok : s.memOk) : (s.stopHolder g q).memOk := by
  unfold State.stopHolder
  split
  · exact ok
  · exact ok.endHolder

theorem State.memOk.markStopped {s : State} {p} (ok : s.memOk) : (s.markStopped p).memOk := ok.ite (ok.updChecker.updCtl rfl)

theorem State.memOk.raise {s0 : State} {g q h t} (ok : s0.memOk) : (s0.raise g q h t).memOk := by
  unfold State.raise
  extract_lets s
  have oks : s.memOk := ok.markStopped
  split
  · exact ok.endHolder
  · split
    · split
      · split
        next e => exact (oks.place.of_eq e).enterTrap
        · exact oks.enterTrap
        next e => exact (oks.place.of_eq e).putHolder _ _ _
        · exact oks.putHolder _ _ _
      · exact oks.enterTrap
    · exact oks.enterTrap

theorem State.memOk.binLaunch {s : State} {g i} (ok : s.memOk) : (s.binLaunch g i).memOk := by
  unfold State.binLaunch
  split
  · exact ok
  · exact (ok.updCore _ id).place

theorem State.memOk.binStart {s : State} {g i b item} (ok : s.memOk) : (s.binStart g i b item).memOk := by
  unfold State.binStart
  refine State.memOk.updCore ?_ _ id
  exact ok.of_eq rfl rfl rfl

theorem State.memOk.binAdd {s : State} {g b0 item} (ok : s.memOk) : (s.binAdd g b0 item).memOk := by
  unfold State.binAdd
  extract_lets c i
  split
  · extract_lets s1
    have oks1 : s1.memOk := ok.updCore _ id
    split
    · exact oks1.binLaunch
    · exact oks1
  · split
    · exact ok.binStart
    · exact ok.binLaunch.bind (fun _ ok1 => ok1.binStart)

theorem State.memOk.binAddAll {g xs} {s : State} (ok : s.memOk) : (binAddAll g xs s).memOk := by
  induction xs generalizing s with
  | nil => exact ok
  | cons x xs ih =>
    unfold Machine.binAddAll
    exact ok.binAdd.bind (fun _ ok1 => ih ok1)

theorem State.memOk.sendStorage {s : State} {off size data} (ok : s.memOk) : (s.sendStorage off size data).memOk := ok.send _

theorem State.memOk.sendOut {s : State} {g q pa size data at_ tag} (ok : s.memOk) :
    (s.sendOut g q pa size data at_ tag).memOk := by
  unfold State.sendOut
  split
  · exact ok.push
  · exact ok.sendStorage
  · exact ok.sendPeer
  · split
    · exact ok.send _
    · exact ok.sendHost
  · exact ok

theorem State.memOk.askExt {s : State} {g q h x at_} (ok : s.memOk) : (s.askExt g q h x at_).1.memOk :=
  State.memOk.sendOut (ok.of_eq rfl rfl rfl)

theorem State.memOk.flow {s : State} {g q h i own} (ok : s.memOk) : (s.flow g q h i own).memOk := ok.updCore _ id

theorem State.memOk.retire {s : State} {g q i h} (ok : s.memOk) : (s.retire g q i h).memOk := ok.issued.flow

theorem State.memOk.takeTrap {s : State} {g q h t} (ok : s.memOk) : (s.takeTrap g q h t).memOk :=
  ok.raise.ite ((ok.raise.ite (ok.putHolder _ _ _).push).ite ok.block)

theorem State.memOk.trapHere {s : State} {g q h cause kind tval} (ok : s.memOk) : (s.trapHere g q h cause kind tval).memOk :=
  ok.takeTrap

theorem State.memOk.afterPlace {s : State} {g q h} {p : Place} {f : State → State}
    (ok : s.memOk) (ok_1 : p.memOk) (okf : ∀ s, s.memOk → (f s).memOk) :
    (s.afterPlace g q h p f).memOk := by
  unfold State.afterPlace
  split
  · exact okf _ ok_1.endAway
  · exact ok.takeTrap
  · exact ok_1.block
  · exact ok.block

theorem Drip.memOk.afterDrip {s : State} {g q h} {d : Drip} {f : State → Holder → State} (ok : d.memOk)
    (okf : ∀ s h, s.memOk → (f s h).memOk) : (s.afterDrip g q h d f).memOk := by
  unfold State.afterDrip
  split
  · exact okf _ _ ok.endAway
  · exact ok.takeTrap
  · exact ok.block

theorem State.memOk.unfoldHere {s : State} {g q h} (ok : s.memOk) : (s.unfoldHere g q h).memOk :=
  (ok.afterPlace ok.unfold (fun _ ok1 => ok1)).ite ok.block

theorem State.memOk.issue {i} {s : State} {f : Nat → Nat → Holder → Out}
    (ok : s.memOk) (okf : ∀ g q h, (f g q h).memOk) :
    (Machine.issue i s f).memOk := by
  unfold Machine.issue
  refine State.memOk.withHolder (fun _ _ _ => ?_)
  split
  · exact ok.trapHere
  · exact ok.block
  · exact Out.memOk.ite ok.unfoldHere (okf _ _ _)

theorem State.memOk.coreRing {s : State} {g r bs} (ok : s.memOk) : (s.coreRing g r bs).memOk := by
  unfold State.coreRing
  split
  next e => exact (ok.ringPut.of_fst e).updCore _ id

theorem State.memOk.tracePath {s : State} {g q h} (ok : s.memOk) : (s.tracePath g q h).memOk := ok.traceSync.ite ok.trace

theorem State.memOk.traceMaskOf {s : State} {g q old new} (ok : s.memOk) : (s.traceMaskOf g q old new).memOk :=
  ok.ite ok.tracePath

theorem State.memOk.traceIssue {s : State} {g q h} (ok : s.memOk) : (s.traceIssue g q h).memOk := ok.traceSync.ite ok

theorem State.memOk.traceMem {s : State} {g q h i elem scalar eas} (ok : s.memOk) :
    (s.traceMem g q h i elem scalar eas).memOk :=
  ok.coreRing.ite ok

theorem State.memOk.codeLine {s : State} {g asid line} (ok : s.memOk) : (s.codeLine g asid line).memOk := ok.ite (ok.updCore _ id)

theorem State.memOk.codeBytes {s : State} {c h segs} (ok : s.memOk) : (s.codeBytes c h segs).memOk := by
  unfold State.codeBytes
  split
  · exact ok
  · exact ok.reachRead

theorem State.memOk.fetchBytes {s : State} {g q h va} {k : State → List Byte → Fetched}
    (ok : s.memOk) (okk : ∀ s x, s.memOk → (k s x).memOk) :
    (s.fetchBytes g q h va k).memOk := by
  unfold State.fetchBytes
  extract_lets c
  split
  next e =>
    split
    · exact (ok.resolve.of_eq e :)
    · split
      · split
        next e1 => exact ((ok.resolve.of_eq e).askExt.of_fst e1).block
      · split
        next e1 => exact okk _ _ ((ok.resolve.of_eq e).codeBytes.of_eq e1).endAway.codeLine
        next e1 => exact (((ok.resolve.of_eq e).codeBytes.of_eq e1).takeTrap :)
        next e1 => exact (((ok.resolve.of_eq e).codeBytes.of_eq e1).block :)
  next e => exact (ok.resolve.of_eq e :)
  next e => exact ((ok.resolve.of_eq e).trapHere :)
  next e => exact ((ok.resolve.of_eq e).block :)

theorem State.memOk.fetchDecode {s : State} {g q h} (ok : s.memOk) : (s.fetchDecode g q h).memOk := by
  unfold State.fetchDecode
  refine ok.fetchBytes (fun _ _ ok1 => ?_)
  extract_lets w bad
  split
  · refine ok1.fetchBytes (fun _ _ ok2 => ?_)
    split
    · exact ok2
    · exact ok2.trapHere
  · split
    · exact ok1
    · exact ok1.trapHere

theorem State.memOk.turnOf {s : State} {g q} (ok : s.memOk) : (s.turnOf g q).memOk := by
  unfold State.turnOf
  split
  · exact ok
  · split
    · exact ok
    · exact ok
    · exact ok
    · split
      · exact ok.push
      · split
        · exact ok.push
        · split
          · exact ok.push
          · exact ok.traceIssue.fetchDecode

theorem State.memOk.vacate {s : State} {g q} (ok : s.memOk) : (s.vacate g q).memOk := by
  unfold State.vacate
  split
  · exact ok
  · exact ok.updCore _ id

theorem State.memOk.tasterPush {s : State} {g e} (ok : s.memOk) : (s.tasterPush g e).1.memOk := (ok.updCore _ id).push

theorem State.memOk.tasterStamp {s : State} {g n st} (ok : s.memOk) : (s.tasterStamp g n st).memOk :=
  ok.ite (ok.updCore _ id).push

theorem State.memOk.tasterCut {s : State} {g n pc} (ok : s.memOk) : (s.tasterCut g n pc).memOk := ok.updCore _ id

theorem State.memOk.execTasterCheck {g} {s : State} (ok : s.memOk) : (execTasterCheck g s).memOk := by
  unfold Machine.execTasterCheck
  split
  · exact ok
  · exact ((ok.updChecker.storePayload.ite ok.updChecker).updCore _ id).push

theorem State.memOk.observe {s : State} {g q stamp} (ok : s.memOk) : (s.observe g q stamp).memOk := ok.ite ok.tasterPush

theorem State.memOk.cover {s : State} {g q seq lines} (ok : s.memOk) : (s.cover g q seq lines).memOk := ok.updCore _ id

end Sys2Proof.Machine
end

-- ==== Sys2Proof/Proofs/KeepLanes.lean ====

section
set_option Elab.async false
namespace Sys2Proof.Machine

/-! ## The memories stay canonical: the operations that run lane by lane -/

theorem State.memOk.faultNow {s : State} {g q h t} (ok : s.memOk) : (s.faultNow g q h t).memOk :=
  ok.raise.ite (ok.putHolder _ _ _).push

theorem State.memOk.longFault {s : State} {g q h l cause kind lane tval payload member} (ok : s.memOk) :
    (s.longFault g q h l cause kind lane tval payload member).memOk :=
  ok.tasterStamp.tasterCut.raise.ite (ok.tasterStamp.tasterCut.putHolder _ _ _).push

theorem State.memOk.longDone {s : State} {g q h l} (ok : s.memOk) : (s.longDone g q h l).memOk := ok.tasterStamp.putHolder _ _ _

theorem State.memOk.resolveLanes {c sp n a hostOk first xs xs1} {s : State} (ok : s.memOk) :
    (resolveLanes c sp n a hostOk first xs xs1 s).memOk := by
  induction xs generalizing xs1 s with
  | nil => exact ok
  | cons x xs ih =>
    unfold Machine.resolveLanes
    split
    next e => exact ih (ok.resolve.of_eq e)
    next e => exact (ok.resolve.of_eq e :)
    next e =>
      extract_lets reg
      split <;> exact (ok.resolve.of_eq e :)

theorem State.memOk.acquireLanes {acq : State → LaneAcc → Target → Coh} {ts got} {s : State} (ok : s.memOk)
    (okacq : ∀ s x t, s.memOk → (acq s x t).memOk) : (acquireLanes acq ts got s).2.2.memOk := by
  induction ts generalizing got s with
  | nil => exact ok
  | cons y ts ih =>
    unfold Machine.acquireLanes
    split
    next e => exact ih ((okacq _ _ _ ok).of_eq e)
    next e => exact (okacq _ _ _ ok).of_eq e
    next e => exact (okacq _ _ _ ok).of_eq e
    next e => exact (okacq _ _ _ ok).of_eq e

theorem Run.memOk.performLanes {f : State → LaneAcc → Target → Perf × Nat}
    {out : State → Holder → LaneAcc → OutPart → State × Holder} {ts} {r : Run} (okf : ∀ s x t, s.memOk → (f s x t).1.memOk)
    (okout : ∀ s h x p, s.memOk → (out s h x p).1.memOk) (ok : r.memOk) : (performLanes f out ts r).memOk := by
  induction ts generalizing r with
  | nil => exact ok
  | cons y ts ih =>
    unfold Machine.performLanes
    split
    next e => exact ih ((okf _ _ _ ok).of_fst e :)
    next e => exact ((okf _ _ _ ok).of_fst e :)
    next e => exact ((okf _ _ _ ok).of_fst e :)
    next e => exact ((okf _ _ _ ok).of_fst e :)
    next e =>
      split
      next e1 => exact ih (((okf _ _ _ ok).of_fst e :).of_foldl e1 fun _ _ ok1 => okout _ _ _ _ ok1)

theorem Run.memOk.runLanes {acq : State → LaneAcc → Target → Coh} {f : State → LaneAcc → Target → Perf × Nat}
    {out : State → Holder → LaneAcc → OutPart → State × Holder} {ts} {r : Run} (okacq : ∀ s x t, s.memOk → (acq s x t).memOk)
    (okf : ∀ s x t, s.memOk → (f s x t).1.memOk) (okout : ∀ s h x p, s.memOk → (out s h x p).1.memOk) (ok : r.memOk) :
    (runLanes acq f out ts r).memOk := by
  have got : (acquireLanes acq ts [] r.s).2.2.memOk := ok.acquireLanes okacq
  unfold Machine.runLanes
  split
  next e =>
    rw [e] at got
    exact Run.memOk.performLanes okf okout got
  next e =>
    rw [e] at got
    dsimp only
    split <;> exact Run.memOk.performLanes okf okout got
  next e =>
    rw [e] at got
    exact got

theorem State.memOk.startLong {s : State} {g q h l la ctr} (ok : s.memOk) : (s.startLong g q h l la ctr).memOk :=
  ok.issued.flow.push

theorem State.memOk.needTeam {s t : State} {g q h} (ok : s.memOk) (e : s.needTeam g q h = some t) : t.memOk := by
  unfold State.needTeam at e
  dsimp only at e
  split at e
  · split at e
    · exact Option.some.inj e ▸ ok.block
    · exact Option.some.inj e ▸ ok.afterPlace ok.teamCut fun _ ok1 => ok1.ite (ok1.putHolder _ _ _)
  · cases e

theorem State.memOk.execBra {off} {s : State} (ok : s.memOk) : (execBra off s).memOk := ok.issue (fun _ _ _ => ok.issued)

theorem State.memOk.branchIf {s : State} {g q h take target} (ok : s.memOk) : (branchIf s g q h take target).memOk :=
  ok.issued.trace

theorem State.memOk.execBz {d off} {s : State} (ok : s.memOk) : (execBz d off s).memOk := ok.issue (fun _ _ _ => ok.branchIf)
theorem State.memOk.execBnz {d off} {s : State} (ok : s.memOk) : (execBnz d off s).memOk := ok.issue (fun _ _ _ => ok.branchIf)

theorem State.memOk.jumpReg {s : State} {g q h i target} (ok : s.memOk) : (jumpReg s g q h i target).memOk :=
  ok.trapHere.ite ok.issued.unsync

theorem State.memOk.execBrx {a} {s : State} (ok : s.memOk) : (execBrx a s).memOk := ok.issue (fun _ _ _ => ok.jumpReg)

theorem State.memOk.callTo {s : State} {g q h target k} (ok : s.memOk) : (callTo s g q h target k).memOk := by
  unfold Machine.callTo
  split
  · exact ok.trapHere
  · split
    · exact ok.trapHere
    · exact ok.enterFrame.afterDrip (fun _ _ ok1 => ok1.issued)

theorem State.memOk.execCall {off k} {s : State} (ok : s.memOk) : (execCall off k s).memOk := ok.issue (fun _ _ _ => ok.callTo)

theorem State.memOk.execCallx {a k} {s : State} (ok : s.memOk) : (execCallx a k s).memOk :=
  ok.issue (fun _ _ _ => ok.trapHere.ite ok.callTo.unsync)

theorem State.memOk.leaveItems {s s1 last : State} {g q h h1} (ok : s1.memOk) (ok_1 : last.memOk) :
    (leaveItems s g q h s1 h1 last).memOk := by
  unfold Machine.leaveItems
  split
  · exact ok.issued.traceMaskOf
  · split
    · exact ok_1
    next e => exact (ok.resumeTop e).afterDrip fun _ _ ok1 => ok1.issued.tracePath

theorem State.memOk.vbrGroup {s : State} {g q h neg p target} (ok : s.memOk) : (vbrGroup s g q h neg p target).memOk :=
  ok.branchIf.ite (ok.branchIf.ite (ok.pushSplit.afterDrip (fun _ _ ok1 => ok1.issued.trace)))

theorem State.memOk.vbrRange {s : State} {g q h neg p target} (ok : s.memOk) : (vbrRange s g q h neg p target).memOk := by
  unfold Machine.vbrRange
  extract_lets taken not_ split
  split
  · exact ok.branchIf
  · exact ok.branchIf
  · exact (ok.afterPlace ok.cutWith (fun _ ok1 => ok1.countIssue)).ite ok.block
  · exact (ok.afterPlace ok.cutWith (fun _ ok1 => ok1.countIssue)).ite ok.block

theorem State.memOk.execVbr {neg p off} {s : State} (ok : s.memOk) : (execVbr neg p off s).memOk := by
  unfold Machine.execVbr
  refine ok.issue (fun _ _ _ => ?_)
  extract_lets target
  split
  · exact ok.vbrRange
  · exact ok.vbrGroup

theorem State.memOk.vjoinGroup {s : State} {g q h} (ok : s.memOk) : (vjoinGroup s g q h).memOk := by
  unfold Machine.vjoinGroup
  refine ok.dropDead.afterDrip (fun _ _ ok1 => ?_)
  split
  · exact ok1.issued
  · exact State.memOk.ite (ok1.refillSplit.afterDrip (fun _ _ ok2 => ok2.issued.tracePath))
      (Drip.memOk.afterDrip (Drip.memOk.bind (ok1.refillSplit.bind (fun _ _ ok2 => ok2.pushSplit.ite ok2)) (fun _ _ ok2 =>
      ok2.resumeEntry)) (fun _ _ ok2 => ok2.issued.tracePath))

theorem State.memOk.execVjoin {s : State} (ok : s.memOk) : (execVjoin s).memOk := by
  unfold Machine.execVjoin
  refine ok.issue (fun _ _ _ => ?_)
  split
  · exact ok.retire
  · exact ok.vjoinGroup

theorem State.memOk.execYield {s : State} (ok : s.memOk) : (execYield s).memOk :=
  ok.issue (fun _ _ _ => Out.memOk.ite (Out.memOk.ite ok.countIssue.endHolder ok.block) ok.retire.vacate)

theorem State.memOk.execDwait {k} {s : State} (ok : s.memOk) : (execDwait k s).memOk :=
  ok.issue (fun _ _ _ => Out.memOk.ite ok.retire ok.block)

theorem State.memOk.range {v : VecSpec} {i} {s : State} {g q h} (ok : s.memOk) : (v.range i s g q h).memOk := by
  unfold VecSpec.range
  extract_lets gs o t
  split
  · exact ok.retire
  · split
    · exact ok.unfoldHere
    · exact ok.retire.ite ok.unfoldHere

theorem State.memOk.vec {i} {s : State} {mk} (ok : s.memOk) : (vec i s mk).memOk := by
  unfold Machine.vec
  refine ok.issue (fun _ _ _ => ?_)
  split
  · exact ok.range
  · exact ok.retire

theorem State.memOk.predRange {i} {s : State} {g q h gd ds0 fl} (ok : s.memOk) : (predRange i s g q h gd ds0 fl).memOk := by
  unfold Machine.predRange
  extract_lets gs o
  split
  · exact ok.retire
  · split
    · exact ok.unfoldHere
    · extract_lets ds part
      split
      · split
        · exact ok.retire
        · exact (ok.afterPlace ok.cutWith (fun _ ok1 => ok1.countIssue)).ite ok.block
      · exact ok.unfoldHere

theorem State.memOk.constLine {s : State} {g grid line} (ok : s.memOk) : (s.constLine g grid line).memOk := ok.updCore _ id

theorem State.memOk.loadGo {x} {s : State} {g q h act uni lanes} (ok : s.memOk) : (loadGo x s g q h act uni lanes).memOk := by
  unfold Machine.loadGo
  extract_lets n t s1 const
  have oks1 : s1.memOk := ok.traceMem
  split
  · split
    · exact ok.trapHere
    · exact oks1.startLong
  · split
    next e => exact ((oks1.fst_ite oks1.tasterPush).of_fst e).startLong

theorem State.memOk.loadRange {x} {s : State} {g q h} (ok : s.memOk) : (loadRange x s g q h).memOk :=
  ok.retire.ite (ok.unfoldHere.ite ok.loadGo)

theorem State.memOk.loadGroup {x} {s : State} {g q h} (ok : s.memOk) : (loadGroup x s g q h).memOk := by
  unfold Machine.loadGroup
  split
  · exact ok.loadGo
  · extract_lets act
    split
    · exact ok.retire
    · exact ok.loadGo.ite ok.loadGo

theorem State.memOk.load {x} {s : State} (ok : s.memOk) : (load x s).memOk := by
  unfold Machine.load
  refine ok.issue (fun _ _ _ => ?_)
  split
  · exact ok.block
  · split
    · exact ok.block
    · split
      · exact ok.block
      · split
        next e => exact ok.needTeam (Option.ite_none_right_eq_some.1 e).2
        · split
          · exact ok.loadRange
          · exact ok.loadGroup

theorem State.memOk.execVld {o} {s : State} (ok : s.memOk) : (execVld o s).memOk := ok.load
theorem State.memOk.execVldu {o} {s : State} (ok : s.memOk) : (execVldu o s).memOk := ok.load
theorem State.memOk.execVgath {o} {s : State} (ok : s.memOk) : (execVgath o s).memOk := ok.load
theorem State.memOk.execVgathMt {o} {s : State} (ok : s.memOk) : (execVgathMt o s).memOk := ok.load
theorem State.memOk.execSld {o} {s : State} (ok : s.memOk) : (execSld o s).memOk := ok.load

theorem State.memOk.tasterReg {s : State} {g n kind} (ok : s.memOk) : (s.tasterReg g n kind).memOk := ok.updCore _ id

theorem State.memOk.loadOut {g q l} {s : State} {h y p} (ok : s.memOk) : (loadOut g q l s h y p).1.memOk := ok.askExt

theorem State.memOk.missSplit {s : State} {c n lanes} (ok : s.memOk) : (missSplit s c n lanes).2.memOk := by
  unfold Machine.missSplit
  refine ok.foldl fun _ _ ok1 => ?_
  split
  next e => exact ok1.walkInstall.of_eq e
  next e => exact ok1.walkInstall.of_eq e
  next e => exact ok1.walkInstall.of_eq e

theorem State.memOk.missWait {s t : State} {c n lanes} (ok : s.memOk) (e : missWait s c n lanes = some t) : t.memOk := by
  obtain ⟨_, _, _, _, found, _⟩ := List.findSome?_eq_some_iff.1 e
  split at found
  · split at found
    next e1 => exact Option.some.inj found ▸ (ok.resolve.of_eq e1 :)
    · cases found
  · cases found

theorem Run.memOk.missRun {acq : State → LaneAcc → Target → Coh} {f : State → LaneAcc → Target → Perf × Nat}
    {out : State → Holder → LaneAcc → OutPart → State × Holder} {xs} {r : Run}
    (okacq : ∀ s x x1, s.memOk → (acq s x x1).memOk) (okf : ∀ s x x1, s.memOk → (f s x x1).1.memOk) (okout : ∀ s h x x1, s.memOk →
      (out s h x x1).1.memOk) (ok : r.memOk) :
    (missRun acq f out xs r).memOk := by
  induction xs generalizing r with
  | nil => exact ok
  | cons x xs ih =>
    unfold Machine.missRun
    extract_lets r1
    have okr1 : r1.memOk := Run.memOk.runLanes okacq okf okout ok
    split
    · exact ih okr1
    · exact ih okr1
    · exact okr1

theorem State.memOk.loadFinish {x} {s : State} {g q h l} (ok : s.memOk) : (loadFinish x s g q h l).memOk :=
  (ok.putHolder _ _ _).ite ok.longDone

theorem State.memOk.loadFault {x} {s : State} {g q h l y cause kind addr payload} (ok : s.memOk) :
    (loadFault x s g q h l y cause kind addr payload).memOk := by
  unfold Machine.loadFault
  split
  · exact ok.putHolder _ _ _
  · extract_lets got h1 dn
    split
    exact ok.longFault

theorem State.memOk.constBytes {c grid t} {s : State} (ok : s.memOk) : (constBytes c grid t s).memOk := by
  unfold Machine.constBytes
  split
  · extract_lets lines
    split
    · exact ok
    · split
      next e => exact (ok.reachRead.of_eq e).foldl (fun _ _ ok1 => ok1.constLine)
      · exact ok.reachRead
  · exact ok

theorem State.memOk.loadStep {x} {s : State} {g q h l} (ok : s.memOk) : (loadStep x s g q h l).memOk := by
  unfold Machine.loadStep
  extract_lets n c acq read run0 after
  have okacq (s : State) (y : LaneAcc) (t : Target) (ok : s.memOk) : (acq s y t).memOk := ok.acquireReadT
  have okread (s : State) (y : LaneAcc) (t : Target) (ok : s.memOk) : (read s y t).1.memOk := ok.readHeld
  split
  · exact ok.loadFinish
  · split
    · exact ok
    · split
      · split
        next e => exact ok.missWait e
        · split
          next e =>
            extract_lets r x1 l1
            have okr : r.memOk := Run.memOk.missRun okacq okread (fun _ _ _ _ ok1 => ok1.loadOut) (ok.missSplit.of_snd e)
            split
            · exact okr.putHolder _ _ _
            · exact okr.loadFault
            · exact okr.loadFinish
      · split
        · split
          next e =>
            split
            next e1 => exact ((ok.resolve.of_eq e).constBytes.of_eq e1).endAway.loadFinish
            next e1 => exact ((ok.resolve.of_eq e).constBytes.of_eq e1).loadFault
            next e1 => exact (ok.resolve.of_eq e).constBytes.of_eq e1
          next e => exact ok.resolve.of_eq e
          next e => exact (ok.resolve.of_eq e).loadFault
        · split
          next e => exact ok.resolveLanes.of_eq e
          next e =>
            split
            · exact ok.resolveLanes.of_eq e
            · extract_lets s2 r
              have oks2 : s2.memOk := (ok.resolveLanes.of_eq e).tasterReg.ite (ok.resolveLanes.of_eq e)
              have okr : r.memOk := Run.memOk.runLanes okacq okread (fun _ _ _ _ ok1 => ok1.loadOut) oks2
              dsimp only [after]
              split
              · exact okr.cover.putHolder _ _ _
              · exact okr.cover.loadFault
              · split
                · exact okr.cover.loadFault
                · exact okr.cover.loadFinish

theorem State.memOk.prefCount {s : State} {g k} (ok : s.memOk) : (s.prefCount g k).memOk := ok.updCore _ id

theorem State.memOk.prefLine {c level ea} {s : State} (ok : s.memOk) : (prefLine c level ea s).memOk := by
  unfold Machine.prefLine
  split
  next e =>
    extract_lets line
    split
    · exact (ok.resolve.of_eq e).prefCount
    · split
      · exact (ok.resolve.of_eq e).prefCount.ite (ok.resolve.of_eq e).fillMsc.prefCount
      · split
        · exact (ok.resolve.of_eq e).prefCount
        · split
          next e1 =>
            split
            · exact (ok.resolve.of_eq e).transact.of_eq e1
            · exact (((ok.resolve.of_eq e).transact.of_eq e1).updCore _ id).prefCount
          next e1 => exact (ok.resolve.of_eq e).transact.of_eq e1
          · exact (ok.resolve.of_eq e).prefCount
  next e => exact (ok.resolve.of_eq e).prefCount
  next e => exact (ok.resolve.of_eq e).prefCount
  next e => exact (ok.resolve.of_eq e).prefCount

theorem State.memOk.execPref {o} {s : State} (ok : s.memOk) : (execPref o s).memOk :=
  ok.issue (fun _ _ _ => (ok.foldl (fun _ _ ok1 => ok1.prefLine)).retire)

theorem State.memOk.acquireLane {x c} {s : State} {y t} (ok : s.memOk) : (acquireLane x c s y t).memOk := by
  unfold Machine.acquireLane
  split
  · exact ok.acquireWriteT
  · exact ok.acquireAtomicT

theorem State.memOk.writeLane {x c} {s : State} {y t} (ok : s.memOk) : (writeLane x c s y t).1.memOk := by
  unfold Machine.writeLane
  split
  · exact ok.writeHeld
  · exact ok.atomicPerform

theorem State.memOk.writeOut {x c g q idx pc all} {s : State} {h y p} (ok : s.memOk) :
    (writeOut x c g q idx pc all s h y p).1.memOk :=
  ok.sendOut.fst_ite ok.askExt

theorem State.memOk.writeRun {x} {s : State} {g q h pc idx seq lanes} (ok : s.memOk) :
    (writeRun x s g q h pc idx seq lanes).memOk := by
  unfold Machine.writeRun
  extract_lets c
  split
  · exact ok
  · split
    next e => exact (ok.resolveLanes.of_eq e :)
    next e =>
      extract_lets c1 r s2
      have okr : r.memOk := Run.memOk.runLanes (fun _ _ _ ok1 => ok1.acquireLane) (fun _ _ _ ok1 => ok1.writeLane)
        (fun _ _ _ _ ok1 => ok1.writeOut) (ok.resolveLanes.of_eq e :)
      have oks2 : s2.memOk := okr.cover
      split
      · exact okr
      · exact oks2

theorem State.memOk.tasterHold {s : State} {g q h i kind o} (ok : s.memOk) : (s.tasterHold g q h i kind o).1.memOk :=
  ok.tasterPush

theorem Run.memOk.tasterRun {x g q} {r : Run} {cut} (ok : r.memOk) : (tasterRun x g q r cut).memOk := ok.ite ok.tasterPush

theorem State.memOk.writeNow {x} {tr : State → State} {s : State} {g q h lanes}
    (oktr : ∀ s, s.memOk → (tr s).memOk) (ok : s.memOk) :
    (writeNow x tr s g q h lanes).memOk := by
  unfold Machine.writeNow
  split
  next e => exact (ok.writeRun.of_eq e).block
  next e =>
    extract_lets s1
    have oks1 : s1.memOk := oktr _ (ok.writeRun.of_eq e).tasterRun
    split
    · exact oks1.retire
    · split
      exact oks1.faultNow

theorem State.memOk.writeCheck {x} {s : State} {g h lanes} {k : State → List LaneAcc → Option (LaneAcc × Nat × Nat × Nat) → State}
    {wait : State → State}
    (ok : s.memOk) (okk : ∀ s x x1, s.memOk → (k s x x1).memOk) (okwait : ∀ s, s.memOk → (wait s).memOk) :
    (writeCheck x s g h lanes k wait).memOk := by
  unfold Machine.writeCheck
  split
  · exact okk _ _ _ ok
  · split
    next e => exact okwait _ (ok.resolveLanes.of_eq e)
    next e => exact okk _ _ _ (ok.resolveLanes.of_eq e)

theorem State.memOk.waitFault {s : State} {g q h y cause kind tval done} (ok : s.memOk) :
    (waitFault s g q h y cause kind tval done).memOk := by
  unfold Machine.waitFault
  split
  exact ok.faultNow

theorem State.memOk.writeRelease {x} {tr : State → State} {s : State} {g q h lanes}
    (oktr : ∀ s, s.memOk → (tr s).memOk) (ok : s.memOk) :
    (writeRelease x tr s g q h lanes).memOk := by
  unfold Machine.writeRelease
  split
  · exact ok.block
  · refine ok.writeCheck (fun _ _ _ ok1 => ?_) (fun _ ok1 => ok1.block)
    extract_lets kind s2
    have oks2 : s2.memOk := by
      dsimp only [s2]
      exact (oktr _ ok1).ite (((oktr _ ok1).tasterHold.tasterCut.ite (oktr _ ok1).tasterHold).updCore _ id).push
    split
    · exact oks2.retire
    · exact oks2.waitFault

theorem State.memOk.writeDelay {x} {tr : State → State} {s : State} {g q h lanes}
    (oktr : ∀ s, s.memOk → (tr s).memOk) (ok : s.memOk) :
    (writeDelay x tr s g q h lanes).memOk := by
  unfold Machine.writeDelay
  refine ok.writeCheck (fun _ _ _ ok1 => ?_) (fun _ ok1 => ok1.block)
  extract_lets s2
  have oks2 : s2.memOk := by
    dsimp only [s2]
    exact (oktr _ ok1).ite (((oktr _ ok1).tasterHold.tasterCut.ite (oktr _ ok1).tasterHold).updCore _ id)
  split
  · exact oks2.retire
  · exact oks2.waitFault

theorem State.memOk.apertureStore {x} {tr : State → State} {s : State} {g q h lanes}
    (oktr : ∀ s, s.memOk → (tr s).memOk) (ok : s.memOk) :
    (apertureStore x tr s g q h lanes).memOk := by
  unfold Machine.apertureStore
  extract_lets n
  split
  · exact ok.unfoldHere
  · split
    · exact ok.trapHere
    · exact (oktr _ ok).retire

theorem State.memOk.writeReady {x} {s : State} {k : Nat → Nat → Holder → State}
    (ok : s.memOk) (okk : ∀ g q h, (k g q h).memOk) :
    (writeReady x s k).memOk := by
  unfold Machine.writeReady
  refine ok.issue (fun _ _ _ => ?_)
  split
  · exact ok.block
  · split
    next e => exact ok.needTeam (Option.ite_none_right_eq_some.1 e).2
    · exact okk _ _ _

theorem State.memOk.store {x} {s : State} (ok : s.memOk) : (store x s).memOk :=
  ok.writeReady (fun _ _ _ => ok.retire.ite ((State.memOk.apertureStore (fun _ ok1 => ok1.traceMem) ok).ite
    ((State.memOk.writeRelease (fun _ ok1 => ok1.traceMem) ok).ite ((State.memOk.writeDelay (fun _ ok1 => ok1.traceMem) ok).ite
    (State.memOk.writeNow (fun _ ok1 => ok1.traceMem) ok)))))

theorem State.memOk.execVst {o} {s : State} (ok : s.memOk) : (execVst o s).memOk := ok.store
theorem State.memOk.execVscat {o} {s : State} (ok : s.memOk) : (execVscat o s).memOk := ok.store
theorem State.memOk.execSst {o} {s : State} (ok : s.memOk) : (execSst o s).memOk := ok.store

theorem State.memOk.atomLong {x} {s : State} {g q h lanes} (ok : s.memOk) : (atomLong x s g q h lanes).memOk := by
  unfold Machine.atomLong
  split
  · exact ok.block
  · extract_lets s1
    have oks1 : s1.memOk := ok.traceMem
    split
    next e =>
      exact ((oks1.tasterHold.of_fst e).startLong.updCore _ id).push.ite (((oks1.tasterHold.of_fst e).startLong.updCore _ id).ite
        (oks1.tasterHold.of_fst e).startLong)

theorem State.memOk.atomic {x} {s : State} (ok : s.memOk) : (atomic x s).memOk := by
  unfold Machine.atomic
  refine ok.writeReady (fun _ _ _ => ?_)
  split
  · exact ok.block
  · split
    · exact ok.unfoldHere
    · extract_lets lanes tr
      split
      · exact ok.retire
      · split
        · exact ok.trapHere
        · exact ok.atomLong.ite ((State.memOk.writeRelease (fun _ ok2 => ok2.traceMem) ok).ite
            ((State.memOk.writeDelay (fun _ ok2 => ok2.traceMem) ok).ite (State.memOk.writeNow (fun _ ok2 => ok2.traceMem) ok)))

theorem State.memOk.execVatomAdd {o} {s : State} (ok : s.memOk) : (execVatomAdd o s).memOk := ok.atomic
theorem State.memOk.execVatomMin {o} {s : State} (ok : s.memOk) : (execVatomMin o s).memOk := ok.atomic
theorem State.memOk.execVatomMax {o} {s : State} (ok : s.memOk) : (execVatomMax o s).memOk := ok.atomic
theorem State.memOk.execVatomAnd {o} {s : State} (ok : s.memOk) : (execVatomAnd o s).memOk := ok.atomic
theorem State.memOk.execVatomOr {o} {s : State} (ok : s.memOk) : (execVatomOr o s).memOk := ok.atomic
theorem State.memOk.execVatomXor {o} {s : State} (ok : s.memOk) : (execVatomXor o s).memOk := ok.atomic
theorem State.memOk.execVatomExch {o} {s : State} (ok : s.memOk) : (execVatomExch o s).memOk := ok.atomic
theorem State.memOk.execVatomCas {o} {s : State} (ok : s.memOk) : (execVatomCas o s).memOk := ok.atomic
theorem State.memOk.execSatomAdd {o} {s : State} (ok : s.memOk) : (execSatomAdd o s).memOk := ok.atomic
theorem State.memOk.execSatomMin {o} {s : State} (ok : s.memOk) : (execSatomMin o s).memOk := ok.atomic
theorem State.memOk.execSatomMax {o} {s : State} (ok : s.memOk) : (execSatomMax o s).memOk := ok.atomic
theorem State.memOk.execSatomAnd {o} {s : State} (ok : s.memOk) : (execSatomAnd o s).memOk := ok.atomic
theorem State.memOk.execSatomOr {o} {s : State} (ok : s.memOk) : (execSatomOr o s).memOk := ok.atomic
theorem State.memOk.execSatomXor {o} {s : State} (ok : s.memOk) : (execSatomXor o s).memOk := ok.atomic
theorem State.memOk.execSatomExch {o} {s : State} (ok : s.memOk) : (execSatomExch o s).memOk := ok.atomic
theorem State.memOk.execSatomCas {o} {s : State} (ok : s.memOk) : (execSatomCas o s).memOk := ok.atomic

theorem State.memOk.atomFault {x} {s : State} {g q h l y cause kind tval payload} (ok : s.memOk) :
    (atomFault x s g q h l y cause kind tval payload).memOk := by
  unfold Machine.atomFault
  split
  · exact ok.putHolder _ _ _
  · extract_lets dn
    split
    exact ok.longFault

theorem State.memOk.atomStep {x} {s : State} {g q h l} (ok : s.memOk) : (atomStep x s g q h l).memOk := by
  unfold Machine.atomStep
  split
  · exact ok
  · split
    · exact ok.ite ok.longDone
    · extract_lets c
      split
      next e => exact ok.resolveLanes.of_eq e
      next e =>
        extract_lets r x1 l1 s2
        have okr : r.memOk := Run.memOk.runLanes (fun _ _ _ ok1 => ok1.acquireLane) (fun _ _ _ ok1 => ok1.writeLane)
          (fun _ _ _ _ ok1 => ok1.writeOut) (ok.resolveLanes.of_eq e :)
        have oks2 : s2.memOk := okr.cover
        split
        · exact oks2.putHolder _ _ _
        · exact oks2.atomFault
        · split
          · exact oks2.atomFault
          · exact (oks2.putHolder _ _ _).ite oks2.longDone

end Sys2Proof.Machine
end

-- ==== Sys2Proof/Proofs/KeepReleases.lean ====

section
set_option Elab.async false
namespace Sys2Proof.Machine

/-! ## The memories stay canonical: releases, cache operations and queues -/

theorem State.memOk.lateTrap {s : State} {g q pc count t} (ok : s.memOk) : (s.lateTrap g q pc count t).memOk := by
  unfold State.lateTrap
  split
  · exact ok
  · exact (ok.putHolder _ _ _).push

theorem State.memOk.quarantine {s : State} {g id p} (ok : s.memOk) : (s.quarantine g id p).memOk := by
  unfold State.quarantine
  extract_lets a own
  split
  exact (ok.foldl (fun _ _ ok1 => ok1.enterN)).updDie _ _

theorem State.memOk.nextEpoch {s : State} {g id} (ok : s.memOk) : (s.nextEpoch g id).memOk := by
  unfold State.nextEpoch
  extract_lets me clr
  split
  exact ok.updChecker.updChecker

theorem State.memOk.hashMismatch {s : State} {e ck peer x o sc rc timeout} (ok : s.memOk) :
    (s.hashMismatch e ck peer x o sc rc timeout).1.memOk := by
  unfold State.hashMismatch
  split
  exact ok.storePayload.quarantine

theorem State.memOk.earlyClose {g ids} {s t : State} {p} (ok : s.memOk) (e : earlyClose g ids s = some (t, p)) : t.memOk := by
  induction ids generalizing s with
  | nil => exact (Prod.mk.inj (Option.some.inj e)).1 ▸ ok
  | cons i ids ih =>
    unfold Machine.earlyClose at e
    split at e
    · cases e
    · exact ih ok.nextEpoch e
    · exact (Prod.mk.inj (Option.some.inj e)).1 ▸ ok.hashMismatch.nextEpoch

theorem State.memOk.dropRelease {s : State} {g r} (ok : s.memOk) : (s.dropRelease g r).memOk := ok.updCore _ id

theorem State.memOk.endRelease {s : State} {g r} (ok : s.memOk) : (s.endRelease g r).memOk := ok.updCore _ id

theorem State.memOk.trap {s : State} {g} {r : Release} {p} (ok : s.memOk) : (Release.trap s g r p).memOk := by
  unfold Release.trap
  extract_lets s1 t s2
  have oks1 : s1.memOk := ok.dropRelease
  have oks2 : s2.memOk := oks1.tasterStamp
  split
  · split
    · exact oks2.longFault
    · exact oks2
  · split
    · extract_lets s3
      have oks3 : s3.memOk := by
        dsimp only [s3]
        split
        · exact oks2.putHolder _ _ _
        · exact oks2
      exact oks3.lateTrap
    · exact oks2.lateTrap

theorem State.memOk.latePerform {i pc count seq lanes} {s : State} {g q} {out : State → State}
    (ok : s.memOk) (okout : ∀ s, s.memOk → (out s).memOk) :
    (latePerform i pc count seq lanes s g q out).memOk := by
  unfold Machine.latePerform
  split
  · split
    next e => exact ok.writeRun.of_eq e
    next e =>
      extract_lets s1 s2
      have oks1 : s1.memOk := okout _ ((ok.writeRun.of_eq e).putHolder _ _ _)
      have oks2 : s2.memOk := oks1.tasterStamp
      split
      · exact oks2
      · split
        exact oks2.tasterCut.lateTrap
  · exact okout _ ok

theorem State.memOk.releasePerform {s : State} {g} {r : Release} (ok : s.memOk) : (Release.perform s g r).memOk := by
  unfold Release.perform
  split
  · exact ok.endRelease
  · exact ok.endRelease
  · exact ok.latePerform (fun _ ok1 => ok1.endRelease)
  · split
    · exact ok.endRelease.push
    · exact ok.latePerform (fun _ ok1 => ok1.endRelease)
  · exact (ok.endRelease.updCore _ id).push

theorem State.memOk.attempt {s : State} {g} {r : Release} (ok : s.memOk) : (Release.attempt s g r).memOk := by
  unfold Release.attempt
  split
  · exact ok.trap
  · split
    · exact ok.storePayload.trap
    · split
      · split
        · exact ok
        next e => exact (ok.earlyClose e).releasePerform
        next e => exact (ok.earlyClose e).trap
      · exact ok.releasePerform

theorem State.memOk.tryReleases {g xs xs1} {s : State} (ok : s.memOk) : (tryReleases g xs xs1 s).memOk := by
  induction xs1 generalizing xs s with
  | nil => exact ok
  | cons x xs ih =>
    unfold Machine.tryReleases
    exact (ih ok).ite (((ih ok.attempt).ite ok.attempt).ite (ih ok))

theorem State.memOk.execReleaseComplete {g} {s : State} (ok : s.memOk) : (execReleaseComplete g s).memOk := ok.tryReleases

theorem State.memOk.execInjectedDelayExpiry {g} {s : State} (ok : s.memOk) : (execInjectedDelayExpiry g s).memOk := by
  unfold Machine.execInjectedDelayExpiry
  split
  · exact ok
  · extract_lets out idx
    split
    · exact (ok.updCore _ id).push
    · exact ok.latePerform (fun _ ok1 => ok1.updCore _ id)

theorem State.memOk.holdFence {s : State} {g q h scope kind order x} (ok : s.memOk) :
    (holdFence s g q h scope kind order x).memOk := by
  unfold Machine.holdFence
  split
  next e => exact ((ok.tasterPush.of_fst e).updCore _ id).push

theorem State.memOk.execFence {order scope} {s : State} (ok : s.memOk) : (execFence order scope s).memOk := by
  unfold Machine.execFence
  refine ok.issue (fun _ _ _ => ?_)
  split
  · exact ok.block
  · split
    · exact ok.block
    · split
      · exact ok.block
      · split
        · exact Out.memOk.ite ok.block ok.holdFence.retire
        · split
          next e => exact (ok.tasterPush.of_fst e).retire

theorem State.memOk.execFencex {s : State} (ok : s.memOk) : (execFencex s).memOk :=
  ok.issue (fun _ _ _ => Out.memOk.ite ok.block (Out.memOk.ite ok.block (Out.memOk.ite ok.block ok.holdFence.retire)))

theorem State.memOk.barrierOp {i} {s : State} {f : Nat → Nat → Holder → State}
    (ok : s.memOk) (okf : ∀ g q h, (f g q h).memOk) :
    (barrierOp i s f).memOk := by
  unfold Machine.barrierOp
  refine ok.issue (fun _ _ _ => ?_)
  split
  next e => exact ok.needTeam e
  · exact okf _ _ _

theorem State.memOk.execBari {a b} {s : State} (ok : s.memOk) : (execBari a b s).memOk := by
  unfold Machine.execBari
  refine ok.barrierOp (fun _ _ _ => ?_)
  split
  exact (ok.updCore _ id).retire

theorem State.memOk.arriveAt {i d b drops} {s : State} (ok : s.memOk) : (arriveAt i d b drops s).memOk := by
  unfold Machine.arriveAt
  refine ok.barrierOp (fun _ _ _ => ?_)
  split
  · exact ok.block
  · split
    · exact ok.block
    · split
      extract_lets n st
      split
      next e => exact ((ok.tasterPush.of_fst e).updCore _ id).push.retire

theorem State.memOk.execBara {d b} {s : State} (ok : s.memOk) : (execBara d b s).memOk := ok.arriveAt
theorem State.memOk.execBarx {d b} {s : State} (ok : s.memOk) : (execBarx d b s).memOk := ok.arriveAt

theorem State.memOk.execBarrierArrivalCount {g} {s : State} (ok : s.memOk) : (execBarrierArrivalCount g s).memOk := by
  unfold Machine.execBarrierArrivalCount
  split
  · exact ok
  · extract_lets b s1 s2
    have oks1 : s1.memOk := ok.updCore _ id
    have oks2 : s2.memOk := oks1.updCore _ id
    split
    · exact oks2
    · exact oks2.putHolder _ _ _

theorem State.memOk.execBarw {a b} {s : State} (ok : s.memOk) : (execBarw a b s).memOk := by
  unfold Machine.execBarw
  refine ok.barrierOp (fun _ _ _ => ?_)
  split
  exact (ok.observe.ite ok).retire.ite ok.block.push

theorem State.memOk.returnHost {s : State} {line} (ok : s.memOk) : (s.returnHost line).memOk := ok.recallOut.evictToHost

theorem State.memOk.cleanLine {s : State} {line} (ok : s.memOk) : (s.cleanLine line).memOk := by
  unfold State.cleanLine
  split
  · exact ok
  · split
    · exact ok
    · exact (ok.recallOne.ite ok.recallOne.homeWbD).ite ok

theorem State.memOk.cacheLine {s : State} {op a line} (ok : s.memOk) : (s.cacheLine op a line).1.memOk := by
  unfold State.cacheLine
  split
  · exact ok.evictL1
  · exact State.memOk.fst_ite (ok.returnHost.fst_ite ok) ok.cleanLine.memAccept
  · exact State.memOk.fst_ite (ok.returnHost.fst_ite ok) (ok.recallOut.fst_ite ok.recallOut.memAccept.dropMsc)

theorem State.memOk.nameLines {c xs xs1} {s : State} (ok : s.memOk) : (nameLines c xs xs1 s).memOk := by
  induction xs generalizing xs1 s with
  | nil => exact ok
  | cons x xs ih =>
    unfold Machine.nameLines
    split
    next e =>
      split
      · exact ih (ok.translatePages.of_eq e)
      · split
        · exact (ok.translatePages.of_eq e :)
        · split
          · exact (ok.translatePages.of_eq e :)
          · exact ih (ok.translatePages.of_eq e)
    next e => exact ih (ok.translatePages.of_eq e)
    next e => exact (ok.translatePages.of_eq e :)
    next e => exact (ok.translatePages.of_eq e :)

theorem State.memOk.cacheLines {op g h segs} {s : State} (ok : s.memOk) : (cacheLines op g h segs s).1.memOk := by
  unfold Machine.cacheLines
  refine ok.fst_foldl (fun _ _ ok1 => ?_)
  extract_lets a x
  split
  · exact ok1.evictL1
  · split
    next e => exact (ok1.cacheLine.of_fst e).fst_ite (ok1.cacheLine.of_fst e)

theorem State.memOk.cacheOp {op i o} {s : State} (ok : s.memOk) : Out.memOk (cacheOp op i o s) := by
  unfold Machine.cacheOp
  refine ok.issue fun g q h => ?_
  extract_lets t x go
  have okgo {lanes} : (go lanes).memOk := by
    dsimp only [go]
    split
    · exact ok.retire
    · split
      · exact ok.block
      · split
        next e => exact (ok.nameLines.of_eq e).block
        next e =>
          split
          · exact (ok.nameLines.of_eq e).block
          · split
            · exact (ok.nameLines.of_eq e).traceMem.cacheLines.retire
            · exact (ok.nameLines.of_eq e).traceMem.cacheLines.faultNow
  split
  · split
    · exact ok.retire
    · split
      · split
        · exact ok.unfoldHere
        · exact okgo
      · split
        · exact ok.unfoldHere
        · exact okgo
  · exact okgo

theorem State.memOk.execCflush {o} {s : State} (ok : s.memOk) : (execCflush o s).memOk := ok.cacheOp
theorem State.memOk.execCinv {o} {s : State} (ok : s.memOk) : (execCinv o s).memOk := ok.cacheOp
theorem State.memOk.execCclean {o} {s : State} (ok : s.memOk) : (execCclean o s).memOk := ok.cacheOp

theorem State.memOk.groupOp {i} {s : State} {f : Nat → Nat → Holder → State}
    (ok : s.memOk) (okf : ∀ g q h, (f g q h).memOk) :
    (groupOp i s f).memOk := by
  unfold Machine.groupOp
  refine ok.issue (fun _ _ _ => ?_)
  split
  · exact ok.unfoldHere
  · exact okf _ _ _

theorem State.memOk.execBclose {d} {s : State} (ok : s.memOk) : (execBclose d s).memOk :=
  ok.groupOp (fun _ _ _ => ok.block.ite ok.retire)

theorem State.memOk.execBwait {a} {s : State} (ok : s.memOk) : (execBwait a s).memOk :=
  ok.groupOp (fun _ _ _ => ok.observe.retire.ite ok.block)

theorem State.memOk.updWq {s : State} {w f} (ok : s.memOk) : (s.updWq w f).memOk := ok.updCtl rfl

theorem Reach.memOk.ctl {x : Reach} {ea} (ok : x.memOk) : (x.ctl ea).memOk := by
  unfold Reach.ctl
  split
  · exact ok.endAway
  · exact ok.endAway
  · exact ok

theorem State.memOk.ctlRead {s : State} {asid ea n} (ok : s.memOk) : (s.ctlRead asid ea n).memOk := by
  unfold State.ctlRead
  split
  next e => exact (ok.resolve.of_eq e).reachRead.ctl
  next e => exact (ok.resolve.of_eq e :)
  next e => exact (ok.resolve.of_eq e :)

theorem State.memOk.ctlWrite {s : State} {asid ea bs} (ok : s.memOk) : (s.ctlWrite asid ea bs).memOk := by
  unfold State.ctlWrite
  split
  next e => exact (ok.resolve.of_eq e).reachWrite.ctl
  next e => exact (ok.resolve.of_eq e :)
  next e => exact (ok.resolve.of_eq e :)

theorem State.memOk.wake {s : State} {g q i h} (ok : s.memOk) : (s.wake g q i h).memOk := ok.retire

theorem State.memOk.wakeTrap {s : State} {g q h cause kind tval payload} (ok : s.memOk) :
    (s.wakeTrap g q h cause kind tval payload).memOk :=
  ok.faultNow

theorem State.memOk.wqReply {s : State} {a status} (ok : s.memOk) : (wqReply s a status).memOk := by
  unfold Machine.wqReply
  split
  · exact ok
  · exact ok.wake

theorem State.memOk.wqTake {s : State} {a} (ok : s.memOk) : Except.memOk (wqTake s a) := by
  unfold Machine.wqTake
  split
  · exact ok
  · dsimp only
    split
    next e => exact ok.ctlRead.of_eq e
    next e => exact (ok.ctlRead.of_eq e :).wakeTrap
    next e =>
      have ok1 : State.memOk _ := ok.ctlRead.of_eq e
      split
      next e1 => exact ok1.resolve.of_eq e1
      next e1 => exact (ok1.resolve.of_eq e1 :).wakeTrap
      next e1 =>
        have ok2 : State.memOk _ := ok1.resolve.of_eq e1
        split
        next e2 => exact (ok2.writeTarget.of_eq e2 :).tasterPush.cover.updWq.wqReply
        next e2 => exact (ok2.writeTarget.of_eq e2 :).wakeTrap
        next e2 => exact (ok2.writeTarget.of_eq e2 :).wakeTrap
        next e2 => exact ok2.writeTarget.of_eq e2
        next e2 =>
          have ok3 : State.memOk _ := ok2.writeTarget.of_eq e2
          refine State.memOk.wqReply (State.memOk.updWq (State.memOk.cover ?_))
          split
          · refine State.memOk.tasterPush (State.memOk.putHolder ?_ _ _ _)
            exact State.memOk.fst_foldl ok3 fun _ _ ok4 => ok4.askExt
          · refine State.memOk.putHolder ?_ _ _ _
            exact State.memOk.fst_foldl ok3 fun _ _ ok4 => ok4.askExt

theorem State.memOk.wqWakeAll {s : State} {w} (ok : s.memOk) : (wqWakeAll s w).memOk :=
  ok.updWq.foldl (fun _ _ ok1 => ok1.wqReply)

theorem State.memOk.wqWakeOldest {s : State} {w} (ok : s.memOk) : (wqWakeOldest s w).memOk := by
  unfold Machine.wqWakeOldest
  split
  · exact ok
  · split
    next e => exact ok.wqTake.of_eq e
    next e => exact (ok.wqTake.of_eq e).updWq

theorem State.memOk.wqAppend {s : State} {w rec} (ok : s.memOk) : (wqAppend s w rec).memOk := by
  unfold Machine.wqAppend
  extract_lets x
  split
  next e => exact ((ok.ctlWrite.of_eq e).updWq.wqWakeOldest :)
  · exact ok.ctlWrite

theorem State.memOk.execWorkQueueUnitArrival {s : State} (ok : s.memOk) : (execWorkQueueUnitArrival s).memOk := by
  unfold Machine.execWorkQueueUnitArrival
  split
  · split
    · exact ok.wqWakeOldest
    · exact ok
  · extract_lets s0 keep w
    have oks0 : s0.memOk := ok.updCtl rfl
    split
    · exact oks0
    · split
      · exact oks0.wqReply
      · split
        · split
          · exact oks0.updWq
          · split
            next e => exact (oks0.wqTake.of_eq e).updCtl rfl
            next e => exact (oks0.wqTake.of_eq e :)
        · split
          · exact oks0.updWq.wqReply
          · split
            next e => exact (oks0.wqAppend.of_eq e).updCtl rfl
            next e => exact ((oks0.wqAppend.of_eq e).wakeTrap :)
            next e => exact ((oks0.wqAppend.of_eq e).wqReply :)

theorem State.memOk.releasePoint {s : State} {g q h scope} {k : State → State} (ok : s.memOk) (okk : ∀ s, s.memOk → (k s).memOk) :
    (releasePoint s g q h scope k).memOk := by
  have closed {t p} (e : (if 3 ≤ scope.code then Machine.earlyClose g ((s.die (dieOf g)).checker 1 (g % 32)).peers s else
    some (s, 0))
      = some (t, p)) : t.memOk := by
    split at e
    · exact ok.earlyClose e
    · exact (Prod.mk.inj (Option.some.inj e)).1 ▸ ok
  unfold Machine.releasePoint
  dsimp only
  split
  · exact ok.block
  · split
    · exact ok.takeTrap
    · split
      · exact ok.block
      next e => exact okk _ (closed e).endRelease
      next e => exact (closed e).takeTrap

theorem State.memOk.wqSend {s : State} {g q h a} (ok : s.memOk) : (wqSend s g q h a).memOk := (ok.block.updCtl rfl).push

theorem State.memOk.wqOp {i o} {s : State} {f : Nat → Nat → Holder → Nat → WorkQueue → Nat → State}
    (ok : s.memOk) (okf : ∀ g q h w x n, (f g q h w x n).memOk) :
    (wqOp i o s f).memOk := by
  unfold Machine.wqOp
  refine ok.issue (fun _ _ _ => ?_)
  split
  · exact ok.block
  · split
    next e => exact ok.needTeam (Option.ite_none_right_eq_some.1 e).2
    · exact okf _ _ _ _ _ _

theorem State.memOk.execWqpush {o} {s : State} (ok : s.memOk) : (execWqpush o s).memOk := by
  unfold Machine.execWqpush
  refine ok.wqOp (fun _ _ _ _ _ _ => ?_)
  refine ok.releasePoint (fun _ ok2 => ?_)
  extract_lets send x c
  split
  · exact ok2.wqSend
  · split
    next e => exact (ok2.resolve.of_eq e).block
    next e => exact (ok2.resolve.of_eq e).trapHere
    next e =>
      split
      next e1 => exact ((ok2.resolve.of_eq e).readTarget.of_eq e1).tasterPush.cover.traceMem.wqSend
      next e1 => exact ((ok2.resolve.of_eq e).readTarget.of_eq e1).trapHere
      next e1 => exact ((ok2.resolve.of_eq e).readTarget.of_eq e1).takeTrap
      next e1 => exact ((ok2.resolve.of_eq e).readTarget.of_eq e1).block
      next e1 =>
        split
        next e2 =>
          exact (((ok2.resolve.of_eq e).readTarget.of_eq e1).of_foldl e2 (fun _ _ ok3 => ok3.askExt)).block

theorem State.memOk.execWqpop {o} {s : State} (ok : s.memOk) : (execWqpop o s).memOk := by
  unfold Machine.execWqpop
  refine ok.wqOp (fun _ _ _ _ _ _ => ?_)
  split
  · exact ok.block
  · extract_lets send x
    split
    · exact ok.traceMem.wqSend
    · split
      next e => exact (ok.resolve.of_eq e).block
      next e => exact (ok.resolve.of_eq e).trapHere
      next e => exact (ok.resolve.of_eq e).traceMem.wqSend

theorem State.memOk.evSeen {s : State} {g q h e v} (ok : s.memOk) : (evSeen s g q h e v).memOk := ok.wake.ite (ok.putHolder _ _ _)

theorem State.memOk.reads {s : State} {g q h d n} (ok : s.memOk) : (s.reads g q h d n).memOk := ok.updCore _ id

theorem State.memOk.evRead {s : State} {g q h e} (ok : s.memOk) : (evRead s g q h e).memOk := by
  unfold Machine.evRead
  extract_lets n x c h1
  split
  · exact ok.putHolder _ _ _
  · split
    next e1 => exact (ok.resolve.of_eq e1).putHolder _ _ _
    next e1 => exact (ok.resolve.of_eq e1).wakeTrap
    next e1 =>
      split
      next e2 =>
        split
        next e3 =>
          exact (((ok.resolve.of_eq e1).readTarget.of_eq e2).tasterPush.of_fst e3).reads.cover.evSeen
      next e2 => exact ((ok.resolve.of_eq e1).readTarget.of_eq e2).wakeTrap
      next e2 => exact ((ok.resolve.of_eq e1).readTarget.of_eq e2).wakeTrap
      next e2 => exact ((ok.resolve.of_eq e1).readTarget.of_eq e2).putHolder _ _ _
      next e2 =>
        split
        next e3 =>
          exact (((ok.resolve.of_eq e1).readTarget.of_eq e2).of_foldl e3 (fun _ _ ok1 => ok1.askExt)).putHolder _ _ _

theorem State.memOk.execEvwait {o} {s : State} (ok : s.memOk) : (execEvwait o s).memOk := by
  unfold Machine.execEvwait
  refine ok.issue (fun _ _ _ => ?_)
  split
  · exact ok.block
  · split
    next e => exact ok.needTeam (Option.ite_none_right_eq_some.1 e).2
    · exact ok.traceMem.evRead

theorem State.memOk.execEvwaitReread {core slot} {s : State} (ok : s.memOk) : (execEvwaitReread core slot s).memOk := by
  unfold Machine.execEvwaitReread
  split
  · exact ok
  · split
    · exact Out.memOk.ite ok ok.evRead
    · exact ok

theorem State.memOk.dropAsks {s : State} {g q xs} (ok : s.memOk) : (s.dropAsks g q xs).memOk := ok.updCtl rfl

theorem State.memOk.execEvwaitTimeout {core slot} {s : State} (ok : s.memOk) : (execEvwaitTimeout core slot s).memOk := by
  unfold Machine.execEvwaitTimeout
  split
  · exact ok
  · split
    · exact Out.memOk.ite ok.dropAsks.wake ok
    · exact ok

end Sys2Proof.Machine
end

-- ==== Sys2Proof/Proofs/KeepMatrix.lean ====

section
set_option Elab.async false
namespace Sys2Proof.Machine

/-! ## The memories stay canonical: the matrix engine and commands -/

theorem State.memOk.updTile {s : State} {x t f} (ok : s.memOk) : (s.updTile x t f).memOk := by
  unfold State.updTile
  split
  · exact ok
  · exact ok.updCluster _ _

theorem State.memOk.accOp {i gd a want} {s : State} {f : Nat → Nat → Holder → Lanes → State}
    (ok : s.memOk) (okf : ∀ g q h x, (f g q h x).memOk) :
    (accOp i gd a want s f).memOk :=
  ok.groupOp (fun _ _ _ => ok.trapHere.ite (ok.retire.ite (okf _ _ _ _)))

theorem State.memOk.execMacq {gd a cols} {s : State} (ok : s.memOk) : (execMacq gd a cols s).memOk := by
  unfold Machine.execMacq
  refine ok.accOp (fun _ _ _ _ => ?_)
  extract_lets i x c t s1 t_1 s1_1
  have oks1 : s1.memOk := ok.updCluster _ _
  have oks1_1 : s1_1.memOk := ok.updTile
  split
  · exact ok.block.ite oks1.retire
  · split
    · exact ok.retire
    · exact ok.block.ite (oks1_1.retire.ite (oks1_1.putHolder _ _ _).countIssue.push)

theorem State.memOk.execMrel {gd a} {s : State} (ok : s.memOk) : (execMrel gd a s).memOk :=
  ok.accOp (fun _ _ _ _ => ok.retire.push)

theorem State.memOk.execMrelF {gd a} {s : State} (ok : s.memOk) : (execMrelF gd a s).memOk :=
  ok.accOp (fun _ _ _ _ => ok.freeTile.retire)

theorem State.memOk.execMzero {gd a} {s : State} (ok : s.memOk) : (execMzero gd a s).memOk :=
  ok.accOp (fun _ _ _ _ => ok.updTile.retire)

theorem State.memOk.execMrd {gd la ctr d a b logn} {s : State} (ok : s.memOk) : (execMrd gd la ctr d a b logn s).memOk := by
  unfold Machine.execMrd
  refine ok.accOp (fun _ _ _ _ => ?_)
  extract_lets i
  split
  · exact ok.block
  · split
    · exact ok.trapHere
    · exact ok.updTile.startLong

theorem State.memOk.execMwr {gd a v b logn} {s : State} (ok : s.memOk) : (execMwr gd a v b logn s).memOk := by
  unfold Machine.execMwr
  refine ok.accOp (fun _ _ _ _ => ?_)
  extract_lets i
  split
  · exact ok.trapHere
  · exact ok.updTile.retire

theorem State.memOk.operandAt {s : State} {g h sp ea n} (ok : s.memOk) : (operandAt s g h sp ea n).memOk := by
  unfold Machine.operandAt
  extract_lets x c
  split
  next e => exact (ok.resolve.of_eq e :)
  next e => exact (ok.resolve.of_eq e :)
  next e => exact (ok.resolve.of_eq e :)
  next e => exact (ok.resolve.of_eq e :)

theorem State.memOk.checkOctets {g h act fb c e xs xs1} {s : State} (ok : s.memOk) :
    (checkOctets g h act fb c e xs xs1 s).memOk := by
  induction xs generalizing xs1 s with
  | nil => exact ok
  | cons x xs ih =>
    unfold Machine.checkOctets
    extract_lets b i ln
    split
    · exact ok
    · split
      · exact trivial
      · split
        next e1 => exact (ok.operandAt.of_eq e1 :)
        next e1 => exact (ok.operandAt.of_eq e1 :)
        next e1 =>
          split
          · split
            next e2 => exact ((ok.operandAt.of_eq e1).operandAt.of_eq e2 :)
            next e2 => exact ((ok.operandAt.of_eq e1).operandAt.of_eq e2 :)
            next e2 => exact ih ((ok.operandAt.of_eq e1).operandAt.of_eq e2)
          · exact ih (ok.operandAt.of_eq e1)

theorem Rows.memOk.readRows {g h fb off lay xs} {r : Rows} (ok : r.memOk) : (readRows g h fb off lay xs r).memOk := by
  induction xs generalizing r with
  | nil => exact ok
  | cons x xs ih =>
    unfold Machine.readRows
    extract_lets n ea x1 c sa
    split
    next e => exact (ok.resolve.of_eq e :)
    next e => exact (ok.resolve.of_eq e :)
    next e =>
      split
      next e1 =>
        extract_lets row r1
        have okr1 : r1.memOk := ((ok.resolve.of_eq e).readTarget.of_eq e1 :)
        split
        · split
          next e2 => exact (((ok.resolve.of_eq e).readTarget.of_eq e1).resolve.of_eq e2 :)
          next e2 => exact (((ok.resolve.of_eq e).readTarget.of_eq e1).resolve.of_eq e2 :)
          next e2 =>
            split
            next e3 =>
              exact ih ((((ok.resolve.of_eq e).readTarget.of_eq e1).resolve.of_eq e2).readTarget.of_eq e3 :)
            next e3 =>
              exact ((((ok.resolve.of_eq e).readTarget.of_eq e1).resolve.of_eq e2).readTarget.of_eq e3 :)
            next e3 =>
              exact ((((ok.resolve.of_eq e).readTarget.of_eq e1).resolve.of_eq e2).readTarget.of_eq e3 :)
            next e3 =>
              exact ((((ok.resolve.of_eq e).readTarget.of_eq e1).resolve.of_eq e2).readTarget.of_eq e3 :)
            next e3 =>
              exact ih ((((ok.resolve.of_eq e).readTarget.of_eq e1).resolve.of_eq e2).readTarget.of_eq e3 :)
        · exact ih okr1
      · exact trivial

theorem State.memOk.enterEntries {s : State} {g q h act t fb z os r} (ok : s.memOk) : (enterEntries s g q h act t fb z os
    r).memOk :=
  ok.foldl fun _ _ ok1 => (ok1.updCluster _ _).push

theorem State.memOk.execMmul {gd a sa sb c e f z} {s : State} (ok : s.memOk) : Out.memOk (execMmul gd a sa sb c e f z s) := by
  unfold Machine.execMmul
  refine ok.groupOp fun g q h => ?_
  extract_lets act off lay fb illegal trap
  split
  · exact ok.trapHere
  · split
    · exact ok.trapHere
    · split
      · exact ok.retire
      · split
        next e1 => exact ok.needTeam e1
        · split
          · exact ok.block
          · split
            · exact ok.block
            · split
              · exact ok.trapHere
              next e1 => exact (ok.checkOctets.of_eq e1 :).takeTrap
              next e1 => exact (ok.checkOctets.of_eq e1 :).block
              · exact ok.block
              next s1 _ e1 =>
                have ok1 : s1.memOk := ok.checkOctets.of_eq e1
                have okr : (readRows g h fb off lay (laneList act) { s := s1 }).memOk := Rows.memOk.readRows ok1
                extract_lets n
                split
                · exact ok1.block
                · split
                  · exact ok.trapHere
                  next e2 => exact (okr.of_eq e2 :).takeTrap
                  next e2 => exact (okr.of_eq e2 :).takeTrap
                  next e2 => exact (okr.of_eq e2 :).block
                  · exact ok1.block
                  next e2 => exact (okr.of_eq e2 :).tasterPush.enterEntries.retire

theorem State.memOk.execAStagingComplete {clu entry} {s : State} (ok : s.memOk) : (execAStagingComplete clu entry s).memOk := by
  unfold Machine.execAStagingComplete
  split
  · exact ok
  · split
    · exact ok
    · extract_lets put
      split
      · exact (ok.updCluster _ _).push
      · exact Out.memOk.ite ok (ok.updCluster _ _).engineAsk

theorem State.memOk.execPassFormation {clu} {s : State} (ok : s.memOk) : (execPassFormation clu s).memOk := by
  unfold Machine.execPassFormation
  extract_lets c
  split
  · exact ok
  · split
    · exact ok
    · exact (ok.updCluster _ _).push

theorem State.memOk.startEntries {s : State} {es lo hi} (ok : s.memOk) : (startEntries s es lo hi).memOk :=
  ok.foldl (fun _ _ ok1 => ok1.tasterPush)

theorem State.memOk.fetchPieces {clu es xs x} {s : State} (ok : s.memOk) : (fetchPieces clu es xs x s).memOk := by
  induction xs generalizing x s with
  | nil => exact ok
  | cons x xs ih =>
    unfold Machine.fetchPieces
    split
    · exact ok
    · extract_lets c z
      split
      next e => exact ih ((ok.readTarget.of_eq e).ite (ok.readTarget.of_eq e).startEntries)
      next e => exact ih (ok.readTarget.of_eq e)
      next e => exact ih (ok.readTarget.of_eq e)
      next e => exact (ok.readTarget.of_eq e :)
      next e => exact ((ok.readTarget.of_eq e).engineAsk :)

theorem State.memOk.execBFetchComplete {clu} {s : State} (ok : s.memOk) : (execBFetchComplete clu s).memOk := by
  unfold Machine.execBFetchComplete
  extract_lets c
  split
  · exact ok
  · extract_lets es
    split
    next e => exact (ok.fetchPieces.of_eq e).updCluster _ _
    next e =>
      exact Out.memOk.ite ((ok.fetchPieces.of_eq e).updCluster _ _) ((ok.fetchPieces.of_eq e).updCluster _ _).push

theorem State.memOk.execPassLeavesArray {clu} {s : State} (ok : s.memOk) : (execPassLeavesArray clu s).memOk := by
  unfold Machine.execPassLeavesArray
  extract_lets c
  split
  · exact ok
  · exact (((ok.foldl (fun _ _ ok1 => ok1.updTile)).updCluster _ _).foldl (fun _ _ ok1 => ok1.freeTile)).push

theorem State.memOk.blockLoad {i space scope la ctr} {s : State} {g q h act lanes} (ok : s.memOk) :
    (blockLoad i space scope la ctr s g q h act lanes).memOk := by
  unfold Machine.blockLoad
  split
  · exact ok.block
  · split
    · exact ok.block
    · split
      next e => exact ok.needTeam (Option.ite_none_right_eq_some.1 e).2
      · split
        next e => exact (ok.tasterHold.of_fst e).startLong

theorem State.memOk.execMld {gd la ctr a b p space scope} {s : State} (ok : s.memOk) :
    (execMld gd la ctr a b p space scope s).memOk :=
  ok.accOp (fun _ _ _ _ => ok.blockLoad)

theorem State.memOk.execHld {la ctr d a space} {s : State} (ok : s.memOk) : (execHld la ctr d a space s).memOk :=
  ok.issue (fun _ _ _ => ok.blockLoad)

theorem State.memOk.blockWrite {s : State} {g h l} (ok : s.memOk) : (blockWrite s g h l).1.memOk := by
  unfold Machine.blockWrite
  split
  · exact ok.foldl (fun _ _ ok1 => ok1.updTile)
  · split <;> exact ok
  · exact ok

theorem State.memOk.blockFault {s : State} {g q h l y cause kind addr payload sc} (ok : s.memOk) :
    (blockFault s g q h l y cause kind addr payload sc).memOk := by
  unfold Machine.blockFault
  split
  · exact ok.putHolder _ _ _
  · extract_lets got dn
    split
    next e => exact ((ok.blockWrite.fst_ite ok).of_fst e).longFault

theorem State.memOk.blockStep {s : State} {g q h l} (ok : s.memOk) : (blockStep s g q h l).memOk := by
  unfold Machine.blockStep
  split
  extract_lets finish x c
  have okfinish {s h l} (ok : s.memOk) : (finish s h l).memOk := (ok.putHolder _ _ _).ite ok.blockWrite.longDone
  split
  · exact okfinish ok
  · split
    · exact ok
    · split
      next e => exact ok.resolveLanes.of_eq e
      next e =>
        extract_lets r s2 x1 l1
        have okr : r.memOk := Run.memOk.runLanes (fun _ _ _ ok1 => ok1.acquireReadT) (fun _ _ _ ok1 => ok1.readHeld)
          (fun _ _ _ _ ok1 => ok1.loadOut) (ok.resolveLanes.of_eq e :)
        have oks2 : s2.memOk := okr.cover
        split
        · exact oks2.putHolder _ _ _
        · exact oks2.blockFault
        · split
          · exact oks2.blockFault
          · exact okfinish oks2

theorem State.memOk.blockStore {i space scope n} {s : State} {g q h lanes} (ok : s.memOk) :
    (blockStore i space scope n s g q h lanes).memOk := by
  unfold Machine.blockStore
  split
  · exact ok.block
  · split
    next e => exact ok.needTeam (Option.ite_none_right_eq_some.1 e).2
    · exact State.memOk.writeNow (fun _ ok1 => ok1) ok

theorem State.memOk.execMst {gd a b p space scope} {s : State} (ok : s.memOk) : (execMst gd a b p space scope s).memOk := by
  unfold Machine.execMst
  refine ok.accOp (fun _ _ _ _ => ?_)
  split
  · exact ok.retire
  · exact ok.updTile.blockStore

theorem State.memOk.execHst {d a space} {s : State} (ok : s.memOk) : (execHst d a space s).memOk :=
  ok.issue (fun _ _ _ => ok.blockStore)

theorem State.memOk.execHset {d a k} {s : State} (ok : s.memOk) : (execHset d a k s).memOk := ok.issue (fun _ _ _ => ok.retire)
theorem State.memOk.execHget {d a k} {s : State} (ok : s.memOk) : (execHget d a k s).memOk := ok.issue (fun _ _ _ => ok.retire)

theorem Perf.memOk.cmd {p : Perf} {ea} (ok : p.memOk) : (p.cmd ea).memOk := by
  unfold Perf.cmd
  split <;> exact ok

theorem Reach.memOk.cmd {x : Reach} {unit ea} (ok : x.memOk) : (x.cmd unit ea).memOk := by
  unfold Reach.cmd
  split
  · exact ok.endAway
  · exact ok.endAway
  · exact ok

theorem State.memOk.read {c : Command} {s : State} {sp ea n} (ok : s.memOk) : (c.read s sp ea n).memOk := by
  unfold Command.read
  split
  next e =>
    split
    · exact (ok.resolve.of_eq e).readTarget.cmd
    · exact (ok.resolve.of_eq e).reachRead.cmd
  next e => exact (ok.resolve.of_eq e).readTarget.cmd
  next e => exact (ok.resolve.of_eq e :)
  next e => exact (ok.resolve.of_eq e :)

theorem State.memOk.write {c : Command} {s : State} {sp ea bs} (ok : s.memOk) : (c.write s sp ea bs).memOk := by
  unfold Command.write
  split
  next e =>
    split
    · exact (ok.resolve.of_eq e).writeTarget.cmd
    · exact (ok.resolve.of_eq e).reachWrite.cmd
  next e => exact (ok.resolve.of_eq e).writeTarget.cmd
  next e => exact (ok.resolve.of_eq e :)
  next e => exact (ok.resolve.of_eq e :)

theorem State.memOk.newFuture {s : State} {op} (ok : s.memOk) : (s.newFuture op).1.memOk := ok.of_eq rfl rfl rfl

theorem State.memOk.mapHolders {s : State} {f} (ok : s.memOk) : (s.mapHolders f).memOk :=
  (ok.mapCores (f := fun c => { c with
    slots := c.slots.map (fun x => (x.1, f x.2)), pieces := c.pieces.map (fun x => { x with holder := f x.holder }) })
    fun _ => rfl).of_eq rfl rfl rfl

theorem State.memOk.execFutureComplete {fut status} {s : State} (ok : s.memOk) : (execFutureComplete fut status s).memOk := by
  unfold Machine.execFutureComplete
  split
  · exact ok
  · extract_lets s1
    have oks1 : s1.memOk := by
      dsimp only [s1]
      split
      · exact ok.observe
      · exact ok
    exact State.memOk.mapHolders (oks1.of_eq rfl rfl rfl)

theorem State.memOk.fwaitOn {i a} {s : State} {g q h} (ok : s.memOk) : (fwaitOn i a s g q h).memOk :=
  ok.block.ite ok.observe.retire

theorem State.memOk.execFwait {a} {s : State} (ok : s.memOk) : (execFwait a s).memOk := ok.issue (fun _ _ _ => ok.fwaitOn)

theorem State.memOk.execFtest {d a} {s : State} (ok : s.memOk) : (execFtest d a s).memOk :=
  ok.issue (fun _ _ _ => Out.memOk.ite ok.retire (Out.memOk.ite ok.observe.retire ok.retire))

theorem State.memOk.setCmd {s : State} {id c} (ok : s.memOk) : (s.setCmd id c).memOk := ok.of_eq rfl rfl rfl

theorem State.memOk.countUp {s : State} {c} (ok : s.memOk) : Except.memOk (countUp s c) := by
  unfold Machine.countUp
  split
  · exact ok
  · dsimp only
    split
    next e => exact ok.atomicTarget.of_fst e
    next e => exact ok.atomicTarget.of_fst e
    next e => exact ok.atomicTarget.of_fst e
    next e => exact ok.atomicTarget.of_fst e
    next e => exact (ok.atomicTarget.of_fst e :).foldl fun _ _ ok1 => ok1.engineAsk

theorem State.memOk.packetDone {s : State} {p status} (ok : s.memOk) : (s.packetDone p status).memOk := (ok.updCtl rfl).push

theorem State.memOk.updEngine {s : State} {c f} (ok : s.memOk) : (s.updEngine c f).memOk :=
  (ok.updCluster _ _).ite (ok.updDie _ _)

theorem State.memOk.engineDone {s : State} {c status} (ok : s.memOk) : (s.engineDone c status).memOk := by
  unfold State.engineDone
  extract_lets e s1
  have oks1 : s1.memOk := by
    dsimp only [s1]
    exact ok.ringPut.updEngine.ite ok
  exact oks1.updEngine.ite oks1

theorem State.memOk.finishCmd {s : State} {id c status} (ok : s.memOk) : (s.finishCmd id c status).memOk := by
  have done : Except.memOk ((Machine.countUp s c).map fun s => s.engineDone c status) := ok.countUp.map fun _ ok1 =>
    ok1.engineDone
  unfold State.finishCmd
  split
  next e => exact done.of_eq e
  next e =>
    have ok1 : State.memOk _ := done.of_eq e
    extract_lets waiting later s0 s2 us tell told s3
    have oktell {t v} (ok : t.memOk) : (tell t v).memOk := by
      dsimp only [tell, us]
      split
      · exact ok.carry
      · exact ok
    have oks0 : s0.memOk := ok1.of_eq rfl rfl rfl
    have oks2 : s2.memOk := oks0.mapHolders
    have oks3 : s3.memOk := (oktell (oks2.foldl fun _ _ ok1 => oktell ok1)).push
    split
    · exact oks3
    · exact oks3.packetDone

theorem State.memOk.suspendCmd {s : State} {id c cause kind tval payload} (ok : s.memOk) :
    (suspendCmd s id c cause kind tval payload).memOk := by
  unfold Machine.suspendCmd
  extract_lets t s1
  have oks1 : s1.memOk := ok.setCmd.mapHolders
  split
  · exact (ok.updCtl rfl).finishCmd
  · split
    · exact ok.countFault.finishCmd
    · split
      · exact oks1.push
      · exact oks1

theorem State.memOk.engineTaster {s : State} {c lo} (ok : s.memOk) : (s.engineTaster c lo).memOk := by
  unfold State.engineTaster
  split
  exact ok.updChecker.ite (ok.updChecker.storePayload.updCore _ id)

theorem State.memOk.reportStart {s : State} {id c st} (ok : s.memOk) : (reportStart s id c st).memOk := by
  unfold Machine.reportStart
  extract_lets s1
  have oks1 : s1.memOk := ok.engineTaster
  split
  · exact oks1.tasterPush
  · exact oks1

theorem State.memOk.overlapBytes {c locs bs} {s : State} (ok : s.memOk) : (overlapBytes c locs bs s).2.memOk := by
  induction locs generalizing bs s with
  | nil => exact ok
  | cons l locs ih =>
    cases bs with
    | nil => exact ok
    | cons b bs =>
      refine ih ?_
      split
      · exact ok
      · exact ok.useFresh

theorem State.memOk.cmdFetch {s : State} {id c sp ea n} {k : State → Command → List Byte → State} (ok : s.memOk)
    (okk : ∀ s c bs, s.memOk → (k s c bs).memOk) : (cmdFetch s id c sp ea n k).memOk := by
  unfold Machine.cmdFetch
  split
  next e =>
    extract_lets s2 r
    have oks2 : s2.memOk := (ok.read.of_eq e).ite (ok.read.of_eq e).reportStart
    refine okk _ _ _ ?_
    dsimp only [r]
    split
    · exact oks2
    · exact oks2.overlapBytes
  next e => exact (ok.read.of_eq e).suspendCmd
  next e => exact (ok.read.of_eq e).setCmd
  next e => exact (ok.read.of_eq e).engineAsk.setCmd

theorem State.memOk.cmdStore {s : State} {id c m bs} (ok : s.memOk) : (cmdStore s id c m bs).memOk := by
  unfold Machine.cmdStore
  split
  · exact ok.setCmd.push
  · split
    next e => exact ((ok.write.of_eq e).ite (ok.write.of_eq e).reportStart).setCmd.push
    next e => exact (ok.write.of_eq e).suspendCmd
    next e => exact (ok.write.of_eq e).setCmd
    next e => exact (ok.write.of_eq e).engineAsk.setCmd

theorem State.memOk.copyStep {s : State} {id c} (ok : s.memOk) : (copyStep s id c).memOk := by
  unfold Machine.copyStep
  split
  · exact ok.cmdFetch (fun _ _ _ ok1 => ok1.setCmd.push)
  · extract_lets m
    split
    · exact ok.cmdStore
    · exact ok.setCmd.push
    · exact ok.cmdStore
    · exact ok.cmdFetch (fun _ _ _ ok1 => ok1.cmdStore)

theorem State.memOk.collMeet {s : State} {c} (ok : s.memOk) : (collMeet s c).memOk := by
  unfold Machine.collMeet
  split
  · exact ok.ite (ok.foldl (fun _ _ ok1 => ok1.setCmd)).push
  · exact ok

theorem State.memOk.collStep {s : State} {id c} (ok : s.memOk) : (collStep s id c).memOk := by
  unfold Machine.collStep
  extract_lets m c1
  split
  · split
    · split
      · exact ok.cmdFetch (fun _ _ _ ok1 => ok1.setCmd.collMeet)
      · exact ok
    · exact ok.setCmd.collMeet
  · exact ok.collMeet.ite ok.cmdStore

theorem State.memOk.collStart {s : State} {id c} (ok : s.memOk) : (collStart s id c).memOk := by
  unfold Machine.collStart
  split
  · exact ok.finishCmd.ite (ok.setCmd.ite ((ok.setCmd.foldl (fun _ _ ok1 => ok1.finishCmd)).ite
      (ok.setCmd.foldl (fun _ _ ok1 => ok1.setCmd)).push))
  · exact ok

theorem State.memOk.execCommandStart {cmd} {s : State} (ok : s.memOk) : (execCommandStart cmd s).memOk := by
  unfold Machine.execCommandStart
  split
  · exact ok
  · split
    · exact ok
    · split
      · exact ok.updEngine
      · extract_lets s1 c1
        have oks1 : s1.memOk := ok.updEngine.ite ok
        split
        · exact oks1.collStart
        · exact oks1.setCmd.push

theorem State.memOk.execCommandComplete {cmd} {s : State} (ok : s.memOk) : (execCommandComplete cmd s).memOk := by
  unfold Machine.execCommandComplete
  split
  · exact ok
  · split
    · exact ok
    · split
      · exact ok
      · extract_lets s1
        have oks1 : s1.memOk := by
          dsimp only [s1]
          split
          · exact ok.ite ok.countFault
          · exact ok
        exact oks1.finishCmd
    · split
      · exact ok.finishCmd
      · split
        · exact ok
        · split
          · exact ok.finishCmd
          · split
            · exact Out.memOk.ite ok.collStep ok
            · exact ok.copyStep

theorem State.memOk.engineData {s : State} {unit pa n v} (ok : s.memOk) : (engineData s unit pa n v).1.memOk :=
  ok.receive.fst_ite ok

theorem State.memOk.cmdReply {s : State} {id c pa r} (ok : s.memOk) : (cmdReply s id c pa r).memOk := by
  unfold Machine.cmdReply
  extract_lets c1 m at_ index
  split
  · exact ok.suspendCmd
  · exact ok.suspendCmd
  · split
    · exact ok.setCmd.push
    · split
      next e => exact (ok.engineData.of_fst e).suspendCmd
      next e => exact (ok.engineData.of_fst e).setCmd.push

theorem State.memOk.cancelCmd {s : State} {id} (ok : s.memOk) : (s.cancelCmd id).memOk := by
  unfold State.cancelCmd
  split
  · exact ok
  · split
    · exact ok.ite (ok.foldl (fun _ _ ok1 => ok1.finishCmd))
    · split
      · exact ok.setCmd.push
      · exact ok.finishCmd

theorem State.memOk.resumeCmd {s : State} {id} (ok : s.memOk) : (s.resumeCmd id).memOk := by
  unfold State.resumeCmd
  split
  · exact ok.setCmd.push.ite ok
  · exact ok

theorem State.memOk.counterAt {s : State} {g h cnt} (ok : s.memOk) : (counterAt s g h cnt).memOk := by
  unfold Machine.counterAt
  split
  · exact ok
  · extract_lets a x
    split
    · exact trivial
    · split
      next e => exact (ok.resolve.of_eq e :)
      next e => exact (ok.resolve.of_eq e :)
      next e => exact (ok.resolve.of_eq e :)
      next e => exact (ok.resolve.of_eq e :)

theorem State.memOk.enterCommand {s : State} {g q i o h act body cnt} (ok : s.memOk) :
    (enterCommand s g q i o h act body cnt).memOk := by
  unfold Machine.enterCommand
  extract_lets id key coll
  split
  next e =>
    exact State.memOk.push (State.memOk.retire (State.memOk.updGrid ((ok.newFuture.of_fst e).of_eq rfl rfl rfl)))

theorem State.memOk.command {i o body} {s : State} (ok : s.memOk) : (command i o body s).memOk := by
  unfold Machine.command
  refine ok.issue (fun _ _ _ => ?_)
  split
  next e => exact ok.needTeam (Option.ite_none_right_eq_some.1 e).2
  · split
    · exact ok.unfoldHere
    · extract_lets act
      split
      · exact ok.retire
      · split
        · exact ok.trapHere
        · split
          next e => exact ok.needTeam e
          · extract_lets eng
            split
            · exact ok.block
            · split
              · exact ok.block
              · split
                next e => exact ((ok.counterAt.of_eq e).enterCommand :)
                next e => exact ((ok.counterAt.of_eq e).enterCommand :)
                · exact ok.trapHere
                next e => exact ((ok.counterAt.of_eq e).trapHere :)
                next e => exact ((ok.counterAt.of_eq e).block :)

theorem State.memOk.execCpyt {o} {s : State} (ok : s.memOk) : (execCpyt o s).memOk := ok.command
theorem State.memOk.execCpyl {o src dst} {s : State} (ok : s.memOk) : (execCpyl o src dst s).memOk := ok.command
theorem State.memOk.execGath {o} {s : State} (ok : s.memOk) : (execGath o s).memOk := ok.command
theorem State.memOk.execColl {o} {s : State} (ok : s.memOk) : (execColl o s).memOk := ok.command

theorem State.memOk.execQfence {queue mask} {s : State} (ok : s.memOk) : (execQfence queue mask s).memOk := by
  unfold Machine.execQfence
  refine ok.issue (fun _ _ _ => ?_)
  split
  next e => exact ok.needTeam e
  · exact ok.updGrid.retire

end Sys2Proof.Machine
end

-- ==== Sys2Proof/Proofs/KeepGrids.lean ====

section
set_option Elab.async false
namespace Sys2Proof.Machine

/-! ## The memories stay canonical: grids, the intake and the front end -/

theorem State.memOk.reachNode {s : State} {grid n lo hi} (ok : s.memOk) : (s.reachNode grid n lo hi).memOk := ok.updGrid.push

theorem State.memOk.execCapacityReport {child grid n} {s : State} (ok : s.memOk) : (execCapacityReport child grid n s).memOk := by
  unfold Machine.execCapacityReport
  split
  · exact ok
  · exact Out.memOk.ite ok ok.updGrid.push

theorem State.memOk.mirror {s : State} {grid} (ok : s.memOk) : (s.mirror grid).memOk := by
  unfold State.mirror
  split
  · exact ok.sendFabric
  · exact ok

theorem State.memOk.sendRange {s : State} {grid c lo hi} (ok : s.memOk) : (s.sendRange grid c lo hi).memOk := by
  unfold State.sendRange
  split
  · exact ok.push
  · exact ok.reachNode.ite ok.updGrid.sendFabric
  · exact ok.reachNode

theorem State.memOk.execDealRound {node grid} {s : State} (ok : s.memOk) : (execDealRound node grid s).memOk := by
  unfold Machine.execDealRound
  split
  · exact ok
  · split
    · exact ok
    · exact Out.memOk.ite ok ((ok.updGrid.foldl (fun _ _ ok1 => ok1.sendRange)).mirror.ite
        (ok.updGrid.foldl (fun _ _ ok1 => ok1.sendRange)))

theorem State.memOk.takeFusion {s : State} {x f} (ok : s.memOk) : (s.takeFusion x f).memOk :=
  ok.ite ((ok.foldl (fun _ _ ok1 => ok1.evictLines)).updCluster _ _)

theorem State.memOk.prepare {s : State} {g r} (ok : s.memOk) : (s.prepare g r).memOk :=
  (ok.takeFusion.ite ok).foldl (fun _ _ ok1 => ok1.takeSplit.ite ok1)

theorem State.memOk.takeRange {s : State} {g grid lo hi} (ok : s.memOk) : (s.takeRange g grid lo hi).memOk := by
  unfold State.takeRange
  split
  · exact ok
  · extract_lets later
    have oklater : later.memOk := ok.updCore _ id
    split
    · exact oklater
    · split
      next e => exact ok.prepare.place.of_eq e
      · exact oklater

theorem State.memOk.stopTeams {s : State} {g grid lo hi} (ok : s.memOk) : (s.stopTeams g grid lo hi).memOk :=
  ok.foldl (fun _ _ ok1 => ok1.endItems)

theorem State.memOk.execRangeReceipt {core grid lo hi} {s : State} (ok : s.memOk) :
    (execRangeReceipt core grid lo hi s).memOk := by
  unfold Machine.execRangeReceipt
  split
  · exact ok
  · exact Out.memOk.ite ok.updGrid.stopTeams ok.updGrid.takeRange

theorem State.memOk.ctlWrites {asid stop ws} {s : State} (ok : s.memOk) : Except.memOk (ctlWrites asid stop ws s) := by
  induction ws generalizing s with
  | nil => exact ok
  | cons w ws ih =>
    unfold Machine.ctlWrites
    split
    next e => exact ih (ok.ctlWrite.of_eq e)
    next e => exact ok.ctlWrite.of_eq e
    next e =>
      extract_lets s2
      have oks2 : s2.memOk := (ok.ctlWrite.of_eq e :).updCtl rfl
      split
      · exact oks2
      · exact ih oks2

theorem State.memOk.gridStatus {s : State} {gr status} (ok : s.memOk) : (s.gridStatus gr status).memOk := by
  unfold State.gridStatus
  extract_lets s1
  have oks1 : s1.memOk := ok.push
  split
  · exact oks1
  · exact oks1.packetDone

theorem State.memOk.numbered {s : State} {gr n} (ok : s.memOk) : (s.numbered gr n).memOk := by
  unfold State.numbered
  split
  · exact ok
  · refine ok.updCtl ?_
    split <;> rfl

theorem State.memOk.newGrid {s : State} {gr} (ok : s.memOk) : (s.newGrid gr).memOk := State.memOk.push (ok.of_eq rfl rfl rfl)

theorem State.memOk.execLaunchRecordCheck {idx} {s : State} (ok : s.memOk) : (execLaunchRecordCheck idx s).memOk := by
  unfold Machine.execLaunchRecordCheck
  split
  · exact ok
  · split
    · exact ok
    · extract_lets r cr
      split
      · split
        next e => exact (ok.ctlWrites.of_eq e :)
        next e =>
          exact Out.memOk.ite ((ok.ctlWrites.of_eq e).updCtl rfl).updGrid.numbered.updGrid.push
            (Out.memOk.ite ((ok.ctlWrites.of_eq e).updCtl rfl).updGrid.numbered.reachNode
            (((ok.ctlWrites.of_eq e).updCtl rfl).updGrid.numbered.foldl (fun _ _ ok1 => ok1.sendFabric)).reachNode.mirror)
      · extract_lets parts
        split
        next e => exact (ok.ctlWrites.of_eq e :)
        next e =>
          exact State.memOk.gridStatus (State.memOk.numbered (State.memOk.of_eq (ok.ctlWrites.of_eq e) rfl rfl rfl))

theorem State.memOk.execPodLaunchAck {pkg grid} {s : State} (ok : s.memOk) : (execPodLaunchAck pkg grid s).memOk := ok.updGrid

theorem State.memOk.freeTeam {s : State} {g grid team} (ok : s.memOk) : (s.freeTeam g grid team).memOk := by
  unfold State.freeTeam
  split
  · exact ok
  · exact ok.updCore _ id

theorem State.memOk.execTeamRetire {core grid team} {s : State} (ok : s.memOk) : (execTeamRetire core grid team s).memOk := by
  unfold Machine.execTeamRetire
  split
  · exact ok
  · exact Out.memOk.ite ok (Out.memOk.ite (ok.freeTeam.updDie _ _) (ok.freeTeam.updDie _ _).updGrid.push)

theorem State.memOk.execCompletionReport {node grid dispatched completed rest} {s : State} (ok : s.memOk) :
    (execCompletionReport node grid dispatched completed rest s).memOk := by
  unfold Machine.execCompletionReport
  split
  · exact ok
  · extract_lets foreign v s1 s2
    have oks1 : s1.memOk := ok.updGrid
    have oks2 : s2.memOk := by
      dsimp only [s2]
      split
      · exact oks1.updCtl rfl
      · exact oks1
    dsimp only [foreign]
    split
    · exact (ok.updGrid.updCtl rfl).push
    · split <;> exact oks2.updGrid.push

theorem State.memOk.gridToken {s : State} {gr} (ok : s.memOk) : (s.gridToken gr).memOk := by
  unfold State.gridToken
  split
  · exact ok
  · exact State.memOk.foldl (State.memOk.mapHolders (ok.of_eq rfl rfl rfl)) (fun _ _ ok1 => ok1.hears)

theorem State.memOk.execGridComplete {grid} {s : State} (ok : s.memOk) : (execGridComplete grid s).memOk := by
  unfold Machine.execGridComplete
  split
  · exact ok
  · extract_lets t r all st
    split
    · exact ok
    · split
      next e => exact (ok.ctlWrites.of_eq e :)
      next e =>
        split
        next e1 => exact ((ok.ctlWrites.of_eq e).ctlWrites.of_eq e1 :)
        next e1 => exact (((ok.ctlWrites.of_eq e).ctlWrites.of_eq e1).updGrid.gridToken.gridStatus.push :)

theorem State.memOk.cancelAt {s : State} {grid g} (ok : s.memOk) : (s.cancelAt grid g).memOk :=
  ((((ok.foldl (fun _ _ ok1 => (ok1.foldl (fun _ _ ok2 => ok2.ite ok2.dropTile)).endMembers.push)).foldl (fun _ _ ok1 =>
    ok1.endItems)).updCore _ id).foldl (fun _ _ ok1 => ok1.stopTeams)).foldl (fun _ _ ok1 => ok1.stopHolder)

theorem State.memOk.execGridCancel {grid} {s : State} (ok : s.memOk) : (execGridCancel grid s).memOk := by
  unfold Machine.execGridCancel
  split
  · exact ok
  · exact Out.memOk.ite ok (Out.memOk.ite (ok.foldl (fun _ _ ok1 => ok1.cancelAt))
      (Out.memOk.ite ok.updGrid (((ok.updGrid.foldl (fun _ _ ok1 => ok1.sendFabric)).foldl (fun _ _ ok1 => ok1.cancelAt)).foldl
      (fun _ _ ok1 => ok1.cancelCmd)).push))

theorem State.memOk.execReDeal {grid pkg} {s : State} (ok : s.memOk) : (execReDeal grid pkg s).memOk := by
  unfold Machine.execReDeal
  split
  · exact ok
  · split
    · exact ok
    · extract_lets lost away n v
      split
      · exact (ok.updGrid.foldl (fun _ _ ok1 => ok1.sendRange)).mirror
      · exact Out.memOk.ite ok.updGrid ok.updGrid.push

theorem State.memOk.execPodAckTimeout {pkg grid} {s : State} (ok : s.memOk) : (execPodAckTimeout pkg grid s).memOk := by
  unfold Machine.execPodAckTimeout
  split
  · exact ok
  · exact Out.memOk.ite ok.push ok

theorem State.memOk.execRootFailover {pkg} {s : State} (ok : s.memOk) : (execRootFailover pkg s).memOk :=
  Out.memOk.ite (ok.foldl (fun _ _ ok1 => ok1.updGrid)).push ok

theorem State.memOk.launchFrom {s : State} {g q i d h v} (ok : s.memOk) : (launchFrom s g q i d h v).memOk := by
  unfold Machine.launchFrom
  extract_lets r
  split
  next e => exact (ok.newFuture.of_fst e).newGrid.retire

theorem State.memOk.execGlaunch {gd d a} {s : State} (ok : s.memOk) : (execGlaunch gd d a s).memOk := by
  unfold Machine.execGlaunch
  extract_lets i
  refine ok.issue (fun _ _ _ => ?_)
  split
  next e => exact ok.needTeam (Option.ite_none_right_eq_some.1 e).2
  · split
    · exact ok.unfoldHere
    · extract_lets act addr ln c fault
      split
      · exact ok.retire
      · split
        next e => exact ok.needTeam e
        · split
          · exact ok.trapHere
          · split
            · exact ok.block
            · split
              · split
                next e => exact (ok.newFuture.of_fst e).retire.push
              · split
                · exact ok.block
                · split
                  next e => exact ((ok.resolve.of_eq e).takeTrap :)
                  next e => exact ((ok.resolve.of_eq e).block :)
                  next e =>
                    split
                    · exact ((ok.resolve.of_eq e).takeTrap :)
                    · exact ((ok.resolve.of_eq e).takeTrap :)
                    next e1 => exact (((ok.resolve.of_eq e).readTarget.of_eq e1).block :)
                    next e1 =>
                      split
                      split
                      next e2 => exact (((ok.resolve.of_eq e).readTarget.of_eq e1).askExt.of_fst e2).block
                    next e1 =>
                      exact ((ok.resolve.of_eq e).readTarget.of_eq e1).releasePoint (fun _ ok2 => ok2.tasterPush.launchFrom)

theorem State.memOk.execGcancel {gd a} {s : State} (ok : s.memOk) : (execGcancel gd a s).memOk := by
  unfold Machine.execGcancel
  refine ok.issue (fun _ _ _ => ?_)
  split
  next e => exact ok.needTeam e
  · exact Out.memOk.ite ok.retire.push ok.retire

theorem State.memOk.execGwait {gd a} {s : State} (ok : s.memOk) : (execGwait gd a s).memOk := by
  unfold Machine.execGwait
  refine ok.issue (fun _ _ _ => ?_)
  split
  next e => exact ok.needTeam e
  · exact Out.memOk.ite ok.fwaitOn ok.retire

theorem State.memOk.execGwaitAll {gd} {s : State} (ok : s.memOk) : (execGwaitAll gd s).memOk := by
  unfold Machine.execGwaitAll
  refine ok.issue (fun _ _ _ => ?_)
  split
  next e => exact ok.needTeam e
  · exact Out.memOk.ite ok.block (ok.observe.ite ok).retire

theorem State.memOk.execFcancel {a} {s : State} (ok : s.memOk) : (execFcancel a s).memOk := by
  unfold Machine.execFcancel
  refine ok.issue (fun _ _ _ => ?_)
  extract_lets s1
  have oks1 : s1.memOk := ok.retire
  split
  · exact oks1.cancelCmd
  · exact oks1.push
  · exact oks1

theorem State.memOk.markTold {s : State} {h t} (ok : s.memOk) : (s.markTold h t).memOk :=
  State.memOk.ite (ok.of_eq rfl rfl rfl) ok

theorem State.memOk.leaveBlock {s : State} {g q} (ok : s.memOk) : (s.leaveBlock g q).memOk := ok.updCtl rfl

theorem State.memOk.takePending {s : State} {g q} (ok : s.memOk) : (takePending s g q).memOk := by
  unfold Machine.takePending
  split
  · exact ok
  · split
    · exact ok
    · split
      · exact ok
      · exact ok.leaveBlock.markTold.raise

theorem State.memOk.execTrapEntry {core slot} {s : State} (ok : s.memOk) : (execTrapEntry core slot s).memOk := ok.takePending

theorem State.memOk.execDeferredTrap {core slot} {s : State} (ok : s.memOk) : (execDeferredTrap core slot s).memOk := by
  unfold Machine.execDeferredTrap
  split
  · exact Out.memOk.ite ok.takePending ok
  · exact ok

theorem State.memOk.execEngineFaultDelivery {core slot} {s : State} (ok : s.memOk) :
    (execEngineFaultDelivery core slot s).memOk := by
  unfold Machine.execEngineFaultDelivery
  split
  · exact Out.memOk.ite ok.takePending ok
  · exact ok

theorem State.memOk.execWatchdogExpiry {core slot} {s : State} (ok : s.memOk) : (execWatchdogExpiry core slot s).memOk := by
  unfold Machine.execWatchdogExpiry
  split
  · exact ok
  · exact Out.memOk.ite (ok.putHolder _ _ _).push ok

theorem State.memOk.execSingleStep {core slot} {s : State} (ok : s.memOk) : (execSingleStep core slot s).memOk := by
  unfold Machine.execSingleStep
  split
  · exact ok
  · exact Out.memOk.ite (ok.putHolder _ _ _).push ok

theorem State.memOk.execBreakpointHit {core slot bp} {s : State} (ok : s.memOk) : (execBreakpointHit core slot bp s).memOk := by
  unfold Machine.execBreakpointHit
  split
  · exact ok
  · exact Out.memOk.ite ok.takeTrap ok

theorem State.memOk.execTrap {n} {s : State} (ok : s.memOk) : (execTrap n s).memOk := ok.issue (fun _ _ _ => ok.takeTrap)

theorem State.memOk.resumeHolder {s : State} {g q h} (ok : s.memOk) : (resumeHolder s g q h).memOk := by
  unfold Machine.resumeHolder
  extract_lets s1
  have oks1 : s1.memOk := (ok.putHolder _ _ _).unsync
  split
  · split
    · exact oks1.resumeCmd
    · exact oks1
  · exact oks1

theorem State.memOk.execTret {s : State} (ok : s.memOk) : (execTret s).memOk :=
  ok.issue (fun _ _ _ => Out.memOk.ite ok.resumeHolder.countIssue ok.block)

theorem State.memOk.execTesc {s : State} (ok : s.memOk) : (execTesc s).memOk := ok.issue (fun _ _ _ => ok.escalate.countIssue)

theorem State.memOk.deactivate {s : State} {g q} (ok : s.memOk) : (s.deactivate g q).memOk := by
  unfold State.deactivate
  split
  · exact ok.vacate
  · exact ok.updCore _ id

theorem State.memOk.execHalt {s : State} (ok : s.memOk) : (execHalt s).memOk := ok.issue (fun _ _ _ => ok.issued.deactivate)

theorem State.memOk.withAwaiting {core slot} {s : State} {f : Holder → State} (ok : s.memOk) (okf : ∀ h, (f h).memOk) :
    (withAwaiting core slot s f).memOk := by
  unfold Machine.withAwaiting
  split
  · exact Out.memOk.ite (okf _) ok
  · exact ok

theorem State.memOk.execDispositionResume {core slot} {s : State} (ok : s.memOk) : (execDispositionResume core slot s).memOk :=
  ok.withAwaiting (fun _ => ok.resumeHolder)

theorem State.memOk.execDispositionEnd {core slot} {s : State} (ok : s.memOk) : (execDispositionEnd core slot s).memOk :=
  ok.withAwaiting (fun _ => ok.ite ok.endHolder)

theorem State.memOk.execDispositionCancel {core slot} {s : State} (ok : s.memOk) : (execDispositionCancel core slot s).memOk :=
  ok.withAwaiting (fun _ => ok.push.endHolder)

theorem State.memOk.execHaltResume {core slot} {s : State} (ok : s.memOk) : (execHaltResume core slot s).memOk := by
  unfold Machine.execHaltResume
  split
  · exact Out.memOk.ite ((ok.putHolder _ _ _).updCore _ id) ok
  · exact ok

theorem State.memOk.execHaltEnd {core slot} {s : State} (ok : s.memOk) : (execHaltEnd core slot s).memOk := by
  unfold Machine.execHaltEnd
  split
  · exact Out.memOk.ite ok.endHolder ok
  · exact ok

theorem State.memOk.execSget {d num} {s : State} (ok : s.memOk) : (execSget d num s).memOk :=
  ok.issue (fun _ _ _ => Out.memOk.ite ok.block (Out.memOk.ite (Out.memOk.ite (ok.afterPlace ok.teamCut (fun _ ok1 => ok1))
    ok.block) ok.retire))

theorem State.memOk.execSset {a num} {s : State} (ok : s.memOk) : (execSset a num s).memOk :=
  ok.issue (fun _ _ _ => Out.memOk.ite (Out.memOk.ite ok.block ok.retire) (Out.memOk.ite (ok.updCore _ id).retire ok.retire))

theorem State.memOk.startInval {s : State} {x} (ok : s.memOk) : (s.startInval x).memOk := by
  unfold State.startInval
  extract_lets id y
  refine State.memOk.push ?_
  refine State.memOk.updCtl ?_ rfl
  exact State.memOk.sweep (ok.of_eq rfl rfl rfl)

theorem State.memOk.opDone {s : State} {fut packet status} (ok : s.memOk) : (s.opDone fut packet status).memOk := by
  unfold State.opDone
  extract_lets s1
  have oks1 : s1.memOk := ok.push
  split
  · exact oks1
  · exact oks1.packetDone

theorem State.memOk.execInvalWalkRestart {id} {s : State} (ok : s.memOk) : (execInvalWalkRestart id s).memOk := by
  unfold Machine.execInvalWalkRestart
  split
  · exact ok
  · exact ok.endWalks

theorem State.memOk.execInvalidationComplete {id} {s : State} (ok : s.memOk) : (execInvalidationComplete id s).memOk := by
  unfold Machine.execInvalidationComplete
  split
  · exact ok
  · exact Out.memOk.ite ok (ok.updCtl rfl).opDone

theorem State.memOk.doneAtOnce {s : State} {g q i h d status} (ok : s.memOk) : (doneAtOnce s g q i h d status).memOk := by
  unfold Machine.doneAtOnce
  split
  next e => exact (ok.newFuture.of_fst e).retire.push

theorem State.memOk.execTlbinv {d a b c} {s : State} (ok : s.memOk) : (execTlbinv d a b c s).memOk := by
  unfold Machine.execTlbinv
  refine ok.issue (fun _ _ _ => ?_)
  extract_lets i v r
  split
  · exact ok.block
  · split
    · exact ok.doneAtOnce
    · split
      · exact ok.block
      · split
        next e => exact (ok.newFuture.of_fst e).startInval.retire

theorem State.memOk.beginFlip {s : State} {id x} (ok : s.memOk) : (s.beginFlip id x).memOk := by
  unfold State.beginFlip
  split
  · exact (ok.updCtl rfl).opDone
  · exact (ok.sweep.updCtl rfl).push

theorem State.memOk.startFlip {s : State} {x} (ok : s.memOk) : (s.startFlip x).memOk := by
  unfold State.startFlip
  extract_lets id s1
  have oks1 : s1.memOk := by
    dsimp only [s1]
    refine State.memOk.updCtl ?_ rfl
    exact ok.of_eq rfl rfl rfl
  exact oks1.ite oks1.beginFlip

theorem State.memOk.freeFilter {s : State} {line} (ok : s.memOk) : (s.freeFilter line).memOk := ok.closeRecord.updCtl rfl

theorem State.memOk.writeBackLine {s : State} {line} (ok : s.memOk) : (s.writeBackLine line).memOk :=
  ok.recallOut.ite (ok.recallOut.memAccept.dropMsc.freeFilter.ite ok.recallOut.memAccept.dropMsc)

theorem State.memOk.rewriteO {host eas} {s t : State} (ok : s.memOk) (e : rewriteO host eas s = some t) : t.memOk := by
  induction eas generalizing s with
  | nil => exact Option.some.inj e ▸ ok
  | cons a eas ih =>
    unfold Machine.rewriteO at e
    split at e
    next e1 => exact ih (ok.update64.of_eq e1) e
    next e1 => exact ih (ok.update64.of_eq e1) e
    · cases e

theorem State.memOk.switchBias {s : State} {host frames} (ok : s.memOk) : (s.switchBias host frames).memOk :=
  (ok.updCtl rfl).foldl (fun _ _ ok1 => (ok1.updDie _ _).setDir.setInterval)

theorem State.memOk.switchOwner {s : State} {id x} (ok : s.memOk) : (s.switchOwner id x).memOk := by
  unfold State.switchOwner
  extract_lets frames entries mine
  split
  · exact ok.foldl fun _ _ ok1 => ok1.ite ok1.askHost
  next e =>
    extract_lets s2 s3
    have oks2 : s2.memOk := ((ok.rewriteO e).switchBias.updCtl rfl).endWalks
    have oks3 : s3.memOk :=
      oks2.mapCores (f := fun c => { c with misses := c.misses.filter (fun m => !mine m.1 m.2) }) fun _ => rfl
    exact oks3.opDone

theorem State.memOk.execOwn {d a b c} {s : State} (ok : s.memOk) : (execOwn d a b c s).memOk := by
  unfold Machine.execOwn
  refine ok.issue (fun _ _ _ => ?_)
  extract_lets i v r
  split
  · exact ok.block
  · split
    · exact ok.doneAtOnce
    · split
      · exact ok.block
      · split
        next e => exact (ok.newFuture.of_fst e).startFlip.retire

theorem State.memOk.monitor {s : State} {slot} (ok : s.memOk) : (s.monitor slot).memOk := ok.ite (ok.updCtl rfl).push

theorem State.memOk.windowStore {s : State} {off bs} (ok : s.memOk) : (s.windowStore off bs).memOk := by
  obtain ⟨mem, window, cores⟩ := ok
  have ok1 : (s.updCtl (fun c => { c with window := Memory.writeBytes c.window off bs })).memOk :=
    ⟨mem, Memory.wf_writeBytes off bs window, cores⟩
  unfold State.windowStore
  dsimp only
  split
  · exact ok1
  · exact ok1.foldl fun _ _ ok2 => ok2.monitor

theorem State.memOk.holdHost {s : State} {r} (ok : s.memOk) : (s.holdHost r).memOk := ok.updCtl rfl

theorem State.memOk.windowWrite {s : State} {a off bs} (ok : s.memOk) : (s.windowWrite a off bs).memOk := by
  unfold State.windowWrite
  extract_lets pa
  split
  next e => exact (ok.homeTakeWrites.of_eq e).homeStamp.windowStore
  next e => exact (ok.homeTakeWrites.of_eq e).holdHost
  next e => exact ok.homeTakeWrites.of_eq e
  next e => exact ok.homeTakeWrites.of_eq e

theorem State.memOk.execLaunchWindowSeal {slot off bytes} {s : State} (ok : s.memOk) :
    (execLaunchWindowSeal slot off bytes s).memOk :=
  Out.memOk.ite ok.windowWrite trivial

theorem State.memOk.updStream {s : State} {k f} (ok : s.memOk) : (s.updStream k f).memOk := ok.updCtl rfl

theorem State.memOk.streamPerform {s : State} {k port w} (ok : s.memOk) : (s.streamPerform k port w).memOk := by
  unfold State.streamPerform
  extract_lets pa n bs a
  split
  · exact ok
  · split
    · exact ok
    · split
      next e => exact ((ok.homeWrite.of_eq e).homeStamp :)
      next e => exact (ok.homeWrite.of_eq e :)
      next e => exact (ok.homeWrite.of_eq e :)
      next e => exact (ok.homeWrite.of_eq e :)

theorem State.memOk.streamDrain {k n} {s : State} (ok : s.memOk) : (streamDrain k n s).memOk := by
  induction n generalizing s with
  | zero => exact ok
  | succ n ih =>
    unfold Machine.streamDrain
    extract_lets x shift
    split
    · exact ok
    · split
      next e => exact ok.streamPerform.of_eq e
      next e => exact ih (ok.streamPerform.of_eq e).updStream
      next e => exact ih (ok.streamPerform.of_eq e).updStream

theorem State.memOk.streamServe {k} {s : State} (ok : s.memOk) : (streamServe k s).memOk := ok.streamDrain.updStream

theorem State.memOk.streamTake {k port whole data} {s : State} (ok : s.memOk) : (streamTake k port whole data s).memOk :=
  ok.updStream.ite (ok.updStream.ite (ok.updStream.ite ok.updStream.streamServe))

theorem State.memOk.execStreamWrite {k whole data} {s : State} (ok : s.memOk) : (execStreamWrite k whole data s).memOk :=
  ok.streamTake

theorem State.memOk.execStreamResync {k value} {s : State} (ok : s.memOk) : (execStreamResync k value s).memOk :=
  Out.memOk.ite ok.updStream ok.updStream.streamServe

theorem State.memOk.execStreamGapTimeout {k} {s : State} (ok : s.memOk) : (execStreamGapTimeout k s).memOk := by
  unfold Machine.execStreamGapTimeout
  extract_lets x
  split
  · exact Out.memOk.ite ok.updStream ok
  · exact ok

theorem State.memOk.waitHome {s : State} {line own ev} (ok : s.memOk) : (s.waitHome line own ev).memOk := by
  unfold State.waitHome
  split
  · exact ok.queueBehind
  · exact ok

theorem State.memOk.announce {s : State} {line} (ok : s.memOk) : (s.announce line).memOk := by
  unfold State.announce
  split
  · exact ok
  · exact ok.push

theorem State.memOk.homeRequest {req a line ev} {s : State} (ok : s.memOk) : (homeRequest req a line ev s).memOk := by
  unfold Machine.homeRequest
  split
  next e => exact (ok.homeTake.of_eq e).announce
  next e => exact (ok.homeTake.of_eq e).waitHome
  next e => exact ok.homeTake.of_eq e
  next e => exact ok.homeTake.of_eq e

theorem State.memOk.execRds {a line} {s : State} (ok : s.memOk) : (execRds a line s).memOk := Out.memOk.ite ok.homeRequest ok
theorem State.memOk.execRdx {a line} {s : State} (ok : s.memOk) : (execRdx a line s).memOk := Out.memOk.ite ok.homeRequest ok
theorem State.memOk.execUpg {a line} {s : State} (ok : s.memOk) : (execUpg a line s).memOk := Out.memOk.ite ok.homeRequest ok

theorem State.memOk.execEngineRead {a line} {s : State} (ok : s.memOk) : (execEngineRead a line s).memOk := by
  unfold Machine.execEngineRead
  split
  · exact ok.homeRequest
  · exact ok.homeRequest
  · exact ok.homeRequest
  · exact ok

theorem State.memOk.evictionNotice {dirty a line} {s : State} (ok : s.memOk) : (evictionNotice dirty a line s).memOk := by
  unfold Machine.evictionNotice
  split
  · exact ok
  · extract_lets fits
    split
    · exact ok.queueBehind.ite ((ok.updCore _ id).ite ok.takeNotice)
    · exact ok.evictL1.ite ok
    · exact ok

theorem State.memOk.execWbd {a line} {s : State} (ok : s.memOk) : (execWbd a line s).memOk := ok.evictionNotice
theorem State.memOk.execEvc {a line} {s : State} (ok : s.memOk) : (execEvc a line s).memOk := ok.evictionNotice

theorem State.memOk.receiveMsg {line m} {s : State} (ok : s.memOk) : (receiveMsg line m s).memOk := by
  unfold Machine.receiveMsg
  split
  next e => exact (ok.takeMsg.of_eq e).announce.ite (ok.takeMsg.of_eq e)
  next e => exact ok.takeMsg.of_eq e
  next e => exact ok.takeMsg.of_eq e
  next e => exact ok.takeMsg.of_eq e

theorem State.memOk.execForwardReceipt {a line} {s : State} (ok : s.memOk) : (execForwardReceipt a line s).memOk := by
  unfold Machine.execForwardReceipt
  split
  · exact ok
  · exact ok.receiveMsg

theorem State.memOk.execGrantReceipt {a line} {s : State} (ok : s.memOk) : (execGrantReceipt a line s).memOk := by
  unfold Machine.execGrantReceipt
  split
  · exact ok
  · split
    · exact Out.memOk.ite ok.receiveMsg ok
    · exact ok

theorem State.memOk.homeWork {s : State} {line ev} {f : State → State}
    (ok : s.memOk) (okf : ∀ s, s.memOk → (f s).memOk) :
    (s.homeWork line ev f).memOk :=
  Out.memOk.ite ok.queueBehind (Out.memOk.ite ok (okf _ ok))

theorem State.memOk.execRecall {line} {s : State} (ok : s.memOk) : (execRecall line s).memOk :=
  ok.homeWork (fun _ ok1 => ok1.recallOut.hostLeft)

theorem State.memOk.execDirectoryEviction {line} {s : State} (ok : s.memOk) : (execDirectoryEviction line s).memOk :=
  Out.memOk.ite ok (ok.homeWork (fun _ ok1 => ok1.recallOut))

theorem State.memOk.execFilterEviction {line} {s : State} (ok : s.memOk) : (execFilterEviction line s).memOk :=
  (ok.homeWork (fun _ ok1 => ok1.returnHost)).ite ok

theorem State.memOk.execHomeAtomic {r} {s : State} (ok : s.memOk) : (execHomeAtomic r s).memOk := by
  unfold Machine.execHomeAtomic
  extract_lets line
  split
  · exact trivial
  · split
    · exact ok
    · split
      · split
        next e => exact ((ok.homeAtomicAt.of_eq e).waitHome :)
        next e => exact (ok.homeAtomicAt.of_eq e :)
        next e => exact (ok.homeAtomicAt.of_eq e :)
        next e => exact (ok.homeAtomicAt.of_eq e :)
        next e => exact (ok.homeAtomicAt.of_eq e :)
      · split
        next e => exact ((ok.homeAtomicAt.of_eq e).waitHome :)
        next e => exact (ok.homeAtomicAt.of_eq e :)
        next e => exact (ok.homeAtomicAt.of_eq e :)
        next e => exact (ok.homeAtomicAt.of_eq e :)
        next e => exact (ok.homeAtomicAt.of_eq e :)
      · exact ok.homeWork (fun _ ok1 => ok1.recallOut.evictToHost.send _)
      · exact ok

theorem State.memOk.waitFirst {s : State} {pa n own ev} (ok : s.memOk) : (s.waitFirst pa n own ev).memOk := by
  unfold State.waitFirst
  split
  · exact ok.waitHome
  · exact ok

theorem State.memOk.execUncachedAccess {r} {s : State} (ok : s.memOk) : (execUncachedAccess r s).memOk := by
  unfold Machine.execUncachedAccess
  split
  · exact trivial
  · split
    · exact ok.sendHost
    · split
      · exact ok
      · extract_lets c
        have okc : c.memOk := by
          dsimp only [c]
          split
          · exact ok.uncachedLines
          · exact ok.homeWrite
        dsimp only [c]
        split
        next e => exact ((okc.of_eq e).homeStamp :)
        next e => exact ((okc.of_eq e).waitFirst :)
        next e => exact (okc.of_eq e :)
        next e => exact (okc.of_eq e :)

theorem State.memOk.execMemoryControllerAcceptance {line write} {s : State} (ok : s.memOk) :
    (execMemoryControllerAcceptance line write s).memOk := by
  unfold Machine.execMemoryControllerAcceptance
  split
  · exact ok
  · split
    · exact Out.memOk.ite ok ok.memAccept
    · split
      next e => exact (ok.memFetch.of_eq e :)
      next e => exact (ok.memFetch.of_eq e :)
      next e => exact (ok.memFetch.of_eq e :)
      next e => exact (ok.memFetch.of_eq e :)

theorem State.memOk.execWalk {core asid va} {s : State} (ok : s.memOk) : (execWalk core asid va s).memOk := by
  unfold Machine.execWalk
  split
  · exact ok
  · split
    next e => exact (ok.walkInstall.of_eq e :)
    next e => exact (ok.walkInstall.of_eq e :)
    next e => exact (ok.walkInstall.of_eq e :)

theorem State.memOk.execDirtyBitWalk {core asid va} {s : State} (ok : s.memOk) : (execDirtyBitWalk core asid va s).memOk := by
  unfold Machine.execDirtyBitWalk
  split
  · exact ok
  · split
    · exact ok
    · split
      next e => exact (ok.dirtyWalk.of_eq e :)
      next e => exact (ok.dirtyWalk.of_eq e :)
      next e => exact (ok.dirtyWalk.of_eq e :)

/-- What a line's owner keeps of it when the home shares it out. -/
theorem State.memOk.shared {s : State} {g line e} {k : L1Line → L1Line} (ok : s.memOk) :
    ((s.updCore g fun c => match c.held line with
      | some x => c.putHeld line (k x)
      | none => c).setDir line e).memOk :=
  (ok.updCore _ fun w => by split <;> exact w).setDir

theorem State.memOk.shareLine {s : State} {line} (ok : s.memOk) : (s.shareLine line).memOk := by
  unfold State.shareLine
  extract_lets e
  split
  · exact ok
  · extract_lets s1
    have oks1 : s1.memOk := (ok.foldl (fun _ _ ok1 => ok1.recallOne)).homeSends
    split
    next e1 => exact State.memOk.ite (oks1.forwarded.of_eq e1) (State.memOk.shared (oks1.forwarded.of_eq e1))
    next e1 => exact State.memOk.ite (oks1.forwarded.of_eq e1) (State.memOk.shared (oks1.forwarded.of_eq e1))
    next e1 => exact State.memOk.ite (oks1.forwarded.of_eq e1) (State.memOk.shared (oks1.forwarded.of_eq e1))
    next e1 => exact State.memOk.ite (oks1.forwarded.of_eq e1) (State.memOk.shared (oks1.forwarded.of_eq e1))

theorem State.memOk.answerSnoop {kind line} {s : State} (ok : s.memOk) : (answerSnoop kind line s).memOk := by
  unfold Machine.answerSnoop
  extract_lets none_ s1 s1_1
  have oks1 : s1.memOk := ok.recallOut
  have oks1_1 : s1_1.memOk := ok.shareLine
  split
  · exact ok.send _
  · split
    · exact ok.send _
    · extract_lets m data
      split
      · exact (oks1.send _).ite (oks1.memAccept.freeFilter.send _)
      · exact (oks1_1.send _).ite ((oks1_1.memAccept.updCtl rfl).send _)
      · exact ok.send _

theorem State.memOk.execSnoop {kind line} {s : State} (ok : s.memOk) : (execSnoop kind line s).memOk :=
  Out.memOk.ite ok.queueBehind ok.answerSnoop

theorem State.memOk.execSnpInv {line} {s : State} (ok : s.memOk) : (execSnpInv line s).memOk := ok.execSnoop
theorem State.memOk.execSnpData {line} {s : State} (ok : s.memOk) : (execSnpData line s).memOk := ok.execSnoop
theorem State.memOk.execSnpCur {line} {s : State} (ok : s.memOk) : (execSnpCur line s).memOk := ok.execSnoop

theorem State.memOk.homeReadLine {a} {s : State} {line} (ok : s.memOk) : (homeReadLine a s line).memOk := by
  unfold Machine.homeReadLine
  split
  · exact ok.transact
  · exact ok.homeOpen.andThen (fun _ ok1 => ok1.recallOut.unlessN.andThen (fun _ ok2 => ok2.memFetch))

theorem State.memOk.homeReadLines {a xs} {s : State} (ok : s.memOk) : (homeReadLines a xs s).memOk := by
  induction xs generalizing s with
  | nil => exact ok
  | cons x xs ih =>
    unfold Machine.homeReadLines
    exact ok.homeReadLine.andThen (fun _ ok1 => ih ok1)

theorem State.memOk.hostPerform {r} {s : State} (ok : s.memOk) : (hostPerform r s).memOk := by
  unfold Machine.hostPerform
  extract_lets lines stamp
  split
  · exact ok.send _
  · split
    · split
      next e => exact ((ok.homeReadLines.of_eq e).homeStamp.foldl (fun _ _ ok1 => ok1.hostLeft)).send _
      next e => exact (ok.homeReadLines.of_eq e).holdHost
      next e => exact (ok.homeReadLines.of_eq e).send _
      next e => exact (ok.homeReadLines.of_eq e).send _
    · split
      next e => exact (ok.homeTakeWrites.of_eq e).homeStamp.homePut
      next e => exact (ok.homeTakeWrites.of_eq e).holdHost
      next e => exact ok.homeTakeWrites.of_eq e
      next e => exact ok.homeTakeWrites.of_eq e

theorem State.memOk.hostServe {r} {s : State} (ok : s.memOk) : (hostServe r s).memOk := by
  unfold Machine.hostServe
  extract_lets last port
  split
  · exact ok.holdHost.ite ok.hostPerform
  · exact ok.holdHost.ite ok.hostPerform
  · split
    · exact ok.send _
    · exact ok.windowWrite
  · split
    · exact ok.send _
    · exact ok.streamTake
  · exact ok

theorem State.memOk.serveHeld {s : State} (ok : s.memOk) : (serveHeld s).memOk :=
  (ok.updCtl rfl).foldl (fun _ _ ok1 => ok1.hostServe)

theorem State.memOk.hostSettled {s : State} {line} (ok : s.memOk) : (s.hostSettled line).memOk := by
  unfold State.hostSettled
  split
  · exact ok.endBusy.ite ok
  · exact ok

theorem State.memOk.hostGrant {line st bytes} {s : State} (ok : s.memOk) : (hostGrant line st bytes s).memOk := by
  unfold Machine.hostGrant
  split
  · exact ok
  · exact ok.ite (ok.writeBytes.memAccept.updCtl rfl).hostSettled

theorem State.memOk.snoopDone {line} {s : State} (ok : s.memOk) : (snoopDone line s).memOk := ok.updCtl rfl

theorem State.memOk.evictDone {line} {s : State} (ok : s.memOk) : (evictDone line s).memOk := by
  unfold Machine.evictDone
  split
  · exact ok.freeFilter.hostSettled.ite ok
  · exact ok

theorem State.memOk.execHostDecoderChange {ds} {s : State} (ok : s.memOk) : (execHostDecoderChange ds s).memOk := ok.updCtl rfl

theorem State.memOk.execFlipComplete {id} {s : State} (ok : s.memOk) : (execFlipComplete id s).memOk := by
  unfold Machine.execFlipComplete
  split
  · exact ok
  · split
    · exact Out.memOk.ite ok ok.beginFlip
    · split
      · exact ok
      · extract_lets known s1 all s2 s2_1 s3
        have oks1 : s1.memOk := ok.foldl (fun _ _ ok1 => ok1.writeBackLine)
        have oks2 : s2.memOk := oks1.updCtl rfl
        have oks2_1 : s2_1.memOk := oks1.switchOwner
        have oks3 : s3.memOk := oks2_1.ite oks2_1.serveHeld
        split
        · exact ok
        · split
          · exact oks2.foldl (fun _ _ ok1 => ok1.send _)
          · exact oks1
          · exact oks3.push

theorem State.memOk.journal {s : State} {e} (ok : s.memOk) : (s.journal e).1.memOk := (ok.updCtl rfl).push

theorem State.memOk.jwrite {s : State} {pa bs} (ok : s.memOk) : (s.jwrite pa bs).memOk := ok.unitPut

theorem State.memOk.jstate {s : State} {j st f} (ok : s.memOk) : (s.jstate j st f).memOk := by
  unfold State.jstate
  split
  · exact ok
  · exact (ok.updCtl rfl).jwrite.ite (ok.updCtl rfl)

theorem State.memOk.jowed {s : State} {j e} (ok : s.memOk) : (s.jowed j e).memOk := (ok.updCtl rfl).jwrite.ite ok

theorem State.memOk.takeIndex {s : State} {j handle} (ok : s.memOk) : (s.takeIndex j handle).memOk := ok.updCtl rfl

theorem State.memOk.reportFault {s : State} {cause kind a} (ok : s.memOk) : (s.reportFault cause kind a).memOk := ok.updCtl rfl

theorem State.memOk.updPort {s : State} {p f} (ok : s.memOk) : (s.updPort p f).memOk := ok.updCtl rfl

theorem State.memOk.execSubmit {port value} {s : State} (ok : s.memOk) : (execSubmit port value s).memOk :=
  Out.memOk.ite ok.updPort.push ok.updPort

theorem State.memOk.execInstatClear {port} {s : State} (ok : s.memOk) : (execInstatClear port s).memOk := ok.updPort

theorem State.memOk.semTake {port k} {s : State} (ok : s.memOk) : (semTake port k s).2.memOk := by
  unfold Machine.semTake
  dsimp only
  split
  · exact ok.updCtl rfl
  · exact ok

theorem State.memOk.execSemRead {port k} {s : State} (ok : s.memOk) : (execSemRead port k s).memOk := ok.semTake.send _

theorem State.memOk.execSemWrite {port k value} {s : State} (ok : s.memOk) : (execSemWrite port k value s).memOk :=
  Out.memOk.ite (ok.updCtl rfl) ok

theorem State.memOk.updQueue {s : State} {q f} (ok : s.memOk) : (s.updQueue q f).memOk := ok.updCtl rfl

theorem State.memOk.execDoorbellAccept {port} {s : State} (ok : s.memOk) : (execDoorbellAccept port s).memOk := by
  unfold Machine.execDoorbellAccept
  extract_lets x
  split
  · exact ok
  · split
    · exact ok
    · extract_lets q n cq ok1
      split
      next e => exact (ok.updPort.journal.of_fst e).ite (ok.updPort.journal.of_fst e).push

theorem State.memOk.pkCheck {s : State} {asid b} (ok : s.memOk) : (pkCheck s asid b).memOk := by
  unfold Machine.pkCheck
  extract_lets t read
  have okread {a va n} : (read a va n).memOk := by
    dsimp only [read]
    split
    next e => exact (ok.ctlRead.of_eq e :)
    next e => exact (ok.ctlRead.of_eq e :)
    next e => exact (ok.ctlRead.of_eq e :)
  split
  · exact ok
  · split
    · exact ok
    · split
      · exact ok
      · split
        · exact okread
        · split
          · exact okread
          · split <;> exact ok

theorem State.memOk.acceptHead {s : State} {q b st f} (ok : s.memOk) : (s.acceptHead q b st f).1.memOk := by
  unfold State.acceptHead
  extract_lets cq head1
  split
  exact ok.updQueue.journal

theorem State.memOk.ringStops {s : State} {q cause kind va} (ok : s.memOk) : (s.ringStops q cause kind va).memOk :=
  ok.ite ok.updQueue.journal.reportFault

theorem State.memOk.execQueueRingFault {q va} {s : State} (ok : s.memOk) : (execQueueRingFault q va s).memOk := ok.ringStops

theorem State.memOk.preload {s : State} {tag r} (ok : s.memOk) : (s.preload tag r).memOk :=
  ok.foldl (fun _ _ ok1 => (ok1.foldl (fun _ _ ok2 => ok2.codeLine)).foldl (fun _ _ ok2 => ok2.constLine))

theorem State.memOk.lookPast {s : State} {q pos} (ok : s.memOk) : (s.lookPast q pos).memOk := by
  unfold State.lookPast
  extract_lets cq n
  split
  · exact ok
  · refine ok.foldl (fun _ _ ok1 => ?_)
    extract_lets at_
    split
    · exact ok1
    · split
      · split
        · exact ok1.preload
        · exact ok1
      · exact ok1

theorem State.memOk.ownLines_grid {s : State} {tag grid} (ok : s.memOk) : (s.ownLines tag grid).memOk := by
  unfold State.ownLines
  split
  · exact ok.mapCores (f := fun c => { c with ccache := c.ccache.map (fun l => if l.1 = tag then (grid, l.2) else l) })
      fun _ => rfl
  · exact ok

theorem State.memOk.execPacket {typ q} {s : State} (ok : s.memOk) : (execPacket typ q s).memOk := by
  unfold Machine.execPacket
  extract_lets cq va
  split
  · exact ok.lookPast.ite ok
  · split
    next e => exact (ok.ctlRead.of_eq e :)
    next e => exact ((ok.ctlRead.of_eq e).ringStops :)
    next e =>
      extract_lets b t s2
      have oks2 : s2.memOk := (ok.ctlRead.of_eq e).updQueue.ite (ok.ctlRead.of_eq e)
      split
      · exact ok
      · split
        · exact oks2.acceptHead.push
        · split
          · exact ok.lookPast
          · split
            next e1 => exact ((ok.ctlRead.of_eq e).pkCheck.of_eq e1 :)
            next e1 => exact (((ok.ctlRead.of_eq e).pkCheck.of_eq e1).acceptHead.push :)
            next e1 => exact (((ok.ctlRead.of_eq e).pkCheck.of_eq e1).acceptHead :)

theorem State.memOk.execCancelPacket {q} {s : State} (ok : s.memOk) : (execCancelPacket q s).memOk := ok.execPacket
theorem State.memOk.execOwnPacket {q} {s : State} (ok : s.memOk) : (execOwnPacket q s).memOk := ok.execPacket
theorem State.memOk.execInvalPacket {q} {s : State} (ok : s.memOk) : (execInvalPacket q s).memOk := ok.execPacket
theorem State.memOk.execWaitPacket {q} {s : State} (ok : s.memOk) : (execWaitPacket q s).memOk := ok.execPacket
theorem State.memOk.execSignalPacket {q} {s : State} (ok : s.memOk) : (execSignalPacket q s).memOk := ok.execPacket
theorem State.memOk.execFencePacket {q} {s : State} (ok : s.memOk) : (execFencePacket q s).memOk := ok.execPacket
theorem State.memOk.execCopyPacket {q} {s : State} (ok : s.memOk) : (execCopyPacket q s).memOk := ok.execPacket
theorem State.memOk.execFeedPacket {q} {s : State} (ok : s.memOk) : (execFeedPacket q s).memOk := ok.execPacket
theorem State.memOk.execLaunchPacket {q} {s : State} (ok : s.memOk) : (execLaunchPacket q s).memOk := ok.execPacket
theorem State.memOk.execPredPacket {q} {s : State} (ok : s.memOk) : (execPredPacket q s).memOk := ok.execPacket

theorem State.memOk.handOff {s : State} {j handle e} (ok : s.memOk) : (s.handOff j handle e).memOk := ok.takeIndex.jstate.push

theorem State.memOk.packetNow {s : State} {j status} (ok : s.memOk) : (s.packetNow j status).memOk :=
  ok.ite ok.takeIndex.packetDone

theorem State.memOk.setEvent {s : State} {e v} (ok : s.memOk) : (s.setEvent e v).memOk := (ok.updCtl rfl).push

theorem State.memOk.feedRecords {w n j k bs} {s t : State} {x} (ok : s.memOk) (e : feedRecords w n j k bs s = .ok (t, x)) :
    t.memOk := by
  induction k generalizing bs s with
  | zero => exact (Prod.mk.inj (Except.ok.inj e)).1 ▸ ok
  | succ k ih =>
    unfold Machine.feedRecords at e
    split at e
    · cases e
    next e1 => exact (Prod.mk.inj (Except.ok.inj e)).1 ▸ (ok.wqAppend.of_eq e1 :).reportFault
    next e1 => exact ih ((ok.wqAppend.of_eq e1 :).updCtl rfl) e

theorem State.memOk.feedRecords_error {w n j k bs} {s t : State} (ok : s.memOk) (e : Machine.feedRecords w n j k bs s =
    .error t) :
    t.memOk := by
  induction k generalizing bs s with
  | zero => cases e
  | succ k ih =>
    unfold Machine.feedRecords at e
    split at e
    next e1 => exact Except.error.inj e ▸ (ok.wqAppend.of_eq e1 :)
    · cases e
    next e1 => exact ih ((ok.wqAppend.of_eq e1 :).updCtl rfl) e

theorem State.memOk.startPacket {j e} {s : State} (ok : s.memOk) : (startPacket j e s).memOk := by
  unfold Machine.startPacket
  extract_lets b target s1 r id x w left g a first
  have oks1 : s1.memOk := by
    dsimp only [s1]
    split
    · split
      · exact ok
      · split
        · exact ok.push
        · exact (ok.updCtl rfl).ite ok
    · exact ok
  have okx : x.memOk := ok.handOff
  split
  · exact ok
  · split
    · exact oks1.packetNow
    · exact ok.packetNow.ite (ok.ite ok.handOff.startFlip)
    · exact ok.packetNow.ite (ok.ite ok.handOff.startInval)
    · exact ok.packetNow.ite ok.lookPast
    · exact ok.setEvent.packetNow.ite ok
    · exact ok.packetNow.ite ok
    · exact State.memOk.push (okx.of_eq rfl rfl rfl)
    · split
      · exact ok
      · split
        next e1 => exact ok.feedRecords_error e1
        next e1 => exact (ok.feedRecords e1).packetNow
        next e1 => exact (ok.feedRecords e1).packetNow
    · exact ok.lookPast.ite ok.handOff.ownLines_grid.newGrid
    · split
      · exact ok.lookPast
      · split
        next e1 => exact ok.ctlRead.of_eq e1
        next e1 => exact (ok.ctlRead.of_eq e1).reportFault.packetNow
        next e1 => exact (ok.ctlRead.of_eq e1).updQueue.packetNow
    · exact ok

theorem State.memOk.startEntry {j e} {s : State} (ok : s.memOk) : (startEntry j e s).memOk :=
  ok.ite (ok.updQueue.jstate.push.ite ((ok.ite ok.takeIndex.jstate.newGrid).ite ok.startPacket))

theorem State.memOk.execJournalAccept {idx} {s : State} (ok : s.memOk) : (execJournalAccept idx s).memOk := by
  unfold Machine.execJournalAccept
  split
  · exact ok
  · exact Out.memOk.ite ok.jowed.startEntry
      (Out.memOk.ite ok (Out.memOk.ite ok (Out.memOk.ite (ok.jwrite.updCtl rfl).push (ok.jwrite.updCtl rfl).startEntry)))

theorem State.memOk.execPacketComplete {idx} {s : State} (ok : s.memOk) : (execPacketComplete idx s).memOk := by
  unfold Machine.execPacketComplete
  split
  · exact ok
  · split
    · exact ok
    · extract_lets finish
      split
      · exact Out.memOk.ite ok ok.jstate.push.push
      · split
        next e => exact (ok.ctlWrite.of_eq e :)
        next e => exact ((ok.ctlWrite.of_eq e).reportFault.jstate.push.push :)
        next e => exact ((ok.ctlWrite.of_eq e).jstate.push.push :)

theorem State.memOk.execWindowRecordAccept {slot} {s : State} (ok : s.memOk) : (execWindowRecordAccept slot s).memOk :=
  Out.memOk.ite ok ok.journal

theorem State.memOk.execEventWrite {e value} {s : State} (ok : s.memOk) : (execEventWrite e value s).memOk := ok.setEvent

theorem State.memOk.execQueueDescriptorWrite {q off size value} {s : State} (ok : s.memOk) :
    (execQueueDescriptorWrite q off size value s).memOk :=
  Out.memOk.ite ok (Out.memOk.ite ok.updQueue (ok.updQueue.push.ite ok.updQueue))

theorem State.memOk.execWorkQueueDescriptorWrite {w off size value} {s : State} (ok : s.memOk) :
    (execWorkQueueDescriptorWrite w off size value s).memOk := by
  unfold Machine.execWorkQueueDescriptorWrite
  split
  · exact ok
  · extract_lets x v on s1 y
    have oks1 : s1.memOk := ok.updWq
    exact Out.memOk.ite (oks1.ite oks1.wqWakeAll) ok.updWq

theorem State.memOk.execFirmwareRestart {s : State} (ok : s.memOk) : (execFirmwareRestart s).memOk := by
  unfold Machine.execFirmwareRestart
  extract_lets s1 s2
  have oks1 : s1.memOk := by
    dsimp only [s1]
    refine ok.foldl (fun _ _ ok1 => ?_)
    split
    · exact ok1
    · exact ok1.updPort
  have oks2 : s2.memOk := oks1.foldl (fun _ _ ok1 => ok1.updQueue)
  exact (oks2.updCtl rfl).push

end Sys2Proof.Machine
end

-- ==== Sys2Proof/Proofs/KeepOutside.lean ====

section
set_option Elab.async false
namespace Sys2Proof.Machine

/-! ## The memories stay canonical: debug, the fabric, registers and answers -/

theorem State.memOk.updDebug {s : State} {g f} (ok : s.memOk) : (s.updDebug g f).memOk := ok.updCore _ id

theorem State.memOk.execTbaseWrite {core value} {s : State} (ok : s.memOk) : (execTbaseWrite core value s).memOk :=
  ok.updCore _ id

theorem State.memOk.updEngineAt {s : State} {e f} (ok : s.memOk) : (s.updEngineAt e f).memOk :=
  (ok.updCluster _ _).ite (ok.updDie _ _)

theorem State.memOk.execEstatResume {engine} {s : State} (ok : s.memOk) : (execEstatResume engine s).memOk :=
  Out.memOk.ite ok ok.updEngineAt.push

theorem State.memOk.execEictlWrite {die value} {s : State} (ok : s.memOk) : (execEictlWrite die value s).memOk := ok.updDie _ _

theorem State.memOk.execPrefetchCounterClear {core k} {s : State} (ok : s.memOk) : (execPrefetchCounterClear core k s).memOk :=
  ok.updDebug

theorem State.memOk.execCkstatClear {checker} {s : State} (ok : s.memOk) : (execCkstatClear checker s).memOk := by
  unfold Machine.execCkstatClear
  split
  exact ok.updChecker

theorem State.memOk.execUnclmClear {die} {s : State} (ok : s.memOk) : (execUnclmClear die s).memOk := ok.updDie _ _

theorem State.memOk.unclaimed {s : State} {die} (ok : s.memOk) : (s.unclaimed die).memOk := ok.updDie _ _

theorem State.memOk.execUnclaimedAccess {die x} {s : State} (ok : s.memOk) : (execUnclaimedAccess die x s).memOk := ok.unclaimed

theorem State.memOk.samplePc {s : State} {g} (ok : s.memOk) : (samplePc s g).memOk := by
  unfold Machine.samplePc
  extract_lets c qs
  split
  · exact ok
  · exact ok.coreRing.updDebug

theorem State.memOk.execPcSample {core} {s : State} (ok : s.memOk) : (execPcSample core s).memOk := Out.memOk.ite ok.samplePc ok

theorem State.memOk.execTraceLoss {core} {s : State} (ok : s.memOk) : (execTraceLoss core s).memOk :=
  Out.memOk.ite ok (ok.updDebug.foldl (fun _ _ ok1 => ok1.traceSync))

theorem State.memOk.putReport {s : State} {bs} (ok : s.memOk) : (s.putReport bs).memOk := by
  unfold State.putReport
  split
  next e => exact (ok.ringPut.of_fst e).updCtl rfl

theorem State.memOk.putCycles {xs} {s : State} (ok : s.memOk) : (putCycles xs s).memOk := by
  induction xs generalizing s with
  | nil => exact ok
  | cons x xs ih => exact ih ((ok.foldl (fun _ _ ok1 => ok1.putReport)).updCtl rfl)

theorem State.memOk.execDeadlockScan {s : State} (ok : s.memOk) : (execDeadlockScan s).memOk :=
  Out.memOk.ite ok ((ok.putCycles.foldl (fun _ _ ok1 => ok1.putReport.updCtl rfl)).updCtl rfl)

theorem State.memOk.scrubRefused {s : State} {b} (ok : s.memOk) : (s.scrubRefused b).memOk := ok.updCtl rfl

theorem State.memOk.execScrubStart {value} {s : State} (ok : s.memOk) : (execScrubStart value s).memOk :=
  Out.memOk.ite ok (Out.memOk.ite ok.scrubRefused (ok.scrubRefused.updCtl rfl).push)

theorem State.memOk.scrubLine {line data} {s : State} (ok : s.memOk) : (scrubLine line data s).memOk := by
  unfold Machine.scrubLine
  extract_lets s1 s2 s3 s4
  have oks1 : s1.memOk := ok.foldl fun _ _ ok1 => ok1.dropL1
  have oks2 : s2.memOk := oks1.closeRecord.setInterval
  have oks3 : s3.memOk := oks2.writeLE.of_eq rfl rfl rfl
  exact oks3.setDir.openRecord.homeStamp

theorem State.memOk.execScrubPerform {s : State} (ok : s.memOk) : (execScrubPerform s).memOk :=
  Out.memOk.ite ok (ok.scrubLine.updCtl rfl)

theorem State.memOk.execQuarantineClear {s : State} (ok : s.memOk) : (execQuarantineClear s).memOk := by
  unfold Machine.execQuarantineClear
  split
  exact Out.memOk.ite (ok.of_eq rfl rfl rfl) ok.scrubRefused

theorem State.memOk.closeEpoch {s : State} {g id} (ok : s.memOk) : (s.closeEpoch g id).memOk := ok.nextEpoch.updDie _ _

theorem State.memOk.execEpochClose {core} {s : State} (ok : s.memOk) : (execEpochClose core s).memOk :=
  Out.memOk.ite ok (ok.foldl (fun _ _ ok1 => ok1.closeEpoch)).push

theorem State.memOk.compareEpochs {core die late} {s : State} (ok : s.memOk) : (compareEpochs core die late s).memOk := by
  unfold Machine.compareEpochs
  split
  extract_lets me kept s1
  have oks1 : s1.memOk := ok.updDie _ _
  refine oks1.foldl (fun _ _ ok1 => ?_)
  split
  · exact ok1
  · exact ok1.ite ok1.hashMismatch
  · exact (ok1.hashMismatch.ite ok1.hashMismatch).ite ok1

theorem State.memOk.execEpochCompare {core die} {s : State} (ok : s.memOk) : (execEpochCompare core die s).memOk :=
  ok.compareEpochs

theorem State.memOk.execEpochTimeout {core die} {s : State} (ok : s.memOk) : (execEpochTimeout core die s).memOk :=
  ok.compareEpochs.compareEpochs

theorem State.memOk.updLink {s : State} {p f} (ok : s.memOk) : (s.updLink p f).memOk := ok.updCtl rfl

theorem State.memOk.updPeer {s : State} {i f} (ok : s.memOk) : (s.updPeer i f).memOk := ok.updCtl rfl

theorem State.memOk.execHandleInstall {slot handle} {s : State} (ok : s.memOk) : (execHandleInstall slot handle s).memOk := by
  unfold Machine.execHandleInstall
  split
  · exact ok
  · extract_lets bad
    split
    · exact ok.updPeer
    · split
      · exact ok.updPeer
      · split
        · exact ok.updPeer
        · exact ok.updPeer.sendFabric

theorem State.memOk.execInstallReply {slot status} {s : State} (ok : s.memOk) : (execInstallReply slot status s).memOk :=
  Out.memOk.ite ok (Out.memOk.ite ok.updPeer ok.updPeer)

theorem State.memOk.execHandleUninstall {slot} {s : State} (ok : s.memOk) : (execHandleUninstall slot s).memOk :=
  Out.memOk.ite ok ok.updPeer.push

theorem State.memOk.dropPeerLines {s : State} {slot} (ok : s.memOk) : (s.dropPeerLines slot).memOk :=
  ok.mapCores (f := fun c => { c with l1 := c.l1.filter (fun l => !(l.2.st == .sr && field (l.1 * 128) 38 12 == slot)) })
    fun _ => rfl

theorem State.memOk.execSlotDrained {slot} {s : State} (ok : s.memOk) : (execSlotDrained slot s).memOk :=
  Out.memOk.ite ok.updPeer.dropPeerLines ok

theorem State.memOk.execOwnerInstallCheck {src handle slot} {s : State} (ok : s.memOk) :
    (execOwnerInstallCheck src handle slot s).memOk :=
  ok.sendFabric

theorem State.memOk.regRead1 {s : State} {d o n x} (ok : s.memOk) (e : s.regRead1 d o n = some x) : x.2.memOk := by
  unfold State.regRead1 at e
  split at e
  · cases e
  · split at e
    · cases e
    · dsimp only at e
      split at e
      · exact Option.some.inj e ▸ ok.semTake.ite ok
      · exact Option.some.inj e ▸ ok

theorem State.memOk.regRead {s : State} {off n} (ok : s.memOk) : (s.regRead off n).2.memOk := by
  unfold State.regRead
  dsimp only
  split
  next e => exact ok.regRead1 e
  · split
    · split
      · exact ok
      · exact ok.unclaimed
      · exact ok.unclaimed
      · exact ok.unclaimed
    · exact ok.unclaimed

theorem Out.memOk.orElse {o : Out} {s : State} (ok : o.memOk) (ok_1 : s.memOk) : (o.orElse s).memOk := by
  unfold Out.orElse
  split
  · exact ok
  · exact ok_1

theorem State.memOk.streamPut {s : State} {i k n v} (ok : s.memOk) : (streamPut s i k n v).memOk :=
  ((ok.execStreamResync.orElse ok).ite ok).updStream.ite (ok.updStream.streamServe.ite ok.updStream)

theorem State.memOk.haltPut {s : State} {g v} (ok : s.memOk) : (haltPut s g v).memOk := by
  unfold Machine.haltPut
  split
  · exact ok.execHaltResume.orElse ok
  · exact ok.execHaltEnd.orElse ok
  · exact ok

theorem State.memOk.regPut {s : State} {r fw k n v} (ok : s.memOk) : (s.regPut r fw k n v).memOk := by
  unfold State.regPut
  extract_lets w run s1
  have oks1 : s1.memOk := (ok.execScrubStart.orElse ok).ite ok
  split
  · exact ok.execUnclmClear.orElse ok
  · exact ok.execCkstatClear.orElse ok
  · exact ok
  · exact ok
  · exact ok
  · exact ok
  · exact ok
  · exact ok
  · exact ok
  · exact ok
  · exact ok
  · exact ok.updDebug
  · exact ok.updDebug
  · exact ok.updDebug
  · exact ok.updDebug
  · exact ok.updDebug
  · exact ok.haltPut
  · exact ok.execPrefetchCounterClear.orElse ok
  · exact ok.updDebug
  · exact ok.execTbaseWrite.orElse ok
  · exact ok.updDie _ _
  · exact ok.updDie _ _
  · exact ok.execEictlWrite.orElse ok
  · exact ok.updEngineAt
  · exact (ok.execEstatResume.orElse ok).ite ok
  · exact ok.updEngineAt
  · exact ok.updEngineAt
  · exact ok.updEngineAt
  · exact ok.execWorkQueueDescriptorWrite.orElse ok
  · exact (ok.execSubmit.orElse ok).ite ok.unclaimed
  · exact ok.execInstatClear.orElse ok
  · exact ok.execSemWrite.orElse ok
  · exact ok.execQueueDescriptorWrite.orElse ok
  · exact ok.execEventWrite.orElse ok
  · exact ok.streamPut
  · exact ok.updCtl rfl
  · exact (ok.execHandleInstall.orElse ok).ite ok
  · exact (ok.execHandleUninstall.orElse ok).ite ok
  · exact (ok.updCtl rfl).ite ok
  · exact (ok.updCtl rfl).ite ok
  · exact ok.updCtl rfl
  · exact (ok.updCtl rfl).ite ok
  · exact ((oks1.execQuarantineClear.orElse oks1).ite oks1).ite ok
  · exact (ok.updCtl rfl).ite ok
  · exact (ok.updCtl rfl).ite ok

theorem State.memOk.regWrite1 {s t : State} {fw d o n v} (ok : s.memOk) (e : s.regWrite1 fw d o n v = some t) : t.memOk := by
  unfold State.regWrite1 at e
  split at e
  · cases e
  · split at e
    · cases e
    · exact Option.some.inj e ▸ ok.regPut

theorem State.memOk.regWrite {s : State} {fw off n v} (ok : s.memOk) : (s.regWrite fw off n v).memOk := by
  unfold State.regWrite
  extract_lets d o
  split
  next e => exact ok.regWrite1 e
  · split
    · split
      next e =>
        split
        next e1 => exact (ok.regWrite1 e).regWrite1 e1
        · exact (ok.regWrite1 e).unclaimed
      · split
        next e => exact (ok.regWrite1 e).unclaimed
        · exact ok.unclaimed
    · exact ok.unclaimed

theorem State.memOk.execRegisterWrite {off size value} {s : State} (ok : s.memOk) :
    (execRegisterWrite off size value s).memOk :=
  Out.memOk.ite trivial (Out.memOk.ite (Out.memOk.ite ok.sendStorage ok.regWrite) (ok.unclaimed.ite ok))

theorem State.memOk.leavePeer {s : State} {pa} (ok : s.memOk) : (s.leavePeer pa).memOk := ok.updPeer.push.ite ok

theorem State.memOk.extStamp {s : State} {g x} (ok : s.memOk) : (s.extStamp g x).1.memOk := by
  unfold State.extStamp
  dsimp only
  split
  · exact ok.carry.perform.carry
  · exact ok.carry.perform.carry
  · exact ok.coreStamp

theorem State.memOk.extEntry {s : State} {g q x t} (ok : s.memOk) : (s.extEntry g q x t).memOk := ok.tasterPush

theorem State.memOk.bringLine {s : State} {g x r} (ok : s.memOk) : (s.bringLine g x r).1.memOk := by
  unfold State.bringLine
  split
  · exact ok.installL1.writeLE.fst_ite ok
  · exact ok

theorem State.memOk.longReply {s : State} {g q h x idx r} (ok : s.memOk) : (longReply s g q h x idx r).memOk := by
  unfold Machine.longReply
  extract_lets n change first
  split
  next e =>
    refine State.memOk.push ?_
    refine State.memOk.putHolder ?_ _ _ _
    refine State.memOk.of_fst ?_ e
    split
    · split
      next e1 => exact ok.extStamp.of_fst e1
    · split
      next e1 =>
        refine State.memOk.of_fst ?_ e1
        split
        · split
          next e2 => exact ok.extStamp.of_fst e2
        · exact ok

theorem State.memOk.writeReply {s : State} {g q h x r} (ok : s.memOk) : (writeReply s g q h x r).memOk := by
  unfold Machine.writeReply
  extract_lets same
  split
  next e =>
    extract_lets mine low done
    split
    · refine State.memOk.putHolder ?_ _ _ _
      refine State.memOk.of_fst ?_ e
      split
      · extract_lets fl
        split
        next e1 => exact (ok.extStamp.of_fst e1).extEntry
      · exact ok
    · split
      split
      refine State.memOk.lateTrap ?_
      refine State.memOk.putHolder ?_ _ _ _
      refine State.memOk.of_fst ?_ e
      split
      · extract_lets fl
        split
        next e1 => exact (ok.extStamp.of_fst e1).extEntry
      · exact ok

theorem State.memOk.launchReply {s : State} {g q h x r} (ok : s.memOk) : (launchReply s g q h x r).memOk := by
  unfold Machine.launchReply
  split
  · exact ok.takeTrap
  · split
    · split
      next e => exact (ok.extStamp.of_fst e).releasePoint (fun _ ok1 => ok1.extEntry.launchFrom)
    · exact ok.putHolder _ _ _

theorem State.memOk.fetchReply {s : State} {g q h r} (ok : s.memOk) : (fetchReply s g q h r).memOk := by
  unfold Machine.fetchReply
  split
  · exact ok.takeTrap
  · exact ok.putHolder _ _ _

theorem State.memOk.partReply {s : State} {g q h x r} (ok : s.memOk) : (partReply s g q h x r).memOk := by
  unfold Machine.partReply
  extract_lets mate scope
  split
  · exact ok.dropAsks.wakeTrap
  · extract_lets m
    split
    next e =>
      extract_lets s1
      have oks1 : s1.memOk := (ok.extStamp.of_fst e).extEntry
      split
      · exact oks1.putHolder _ _ _
      · split
        · exact oks1.wqSend
        · exact oks1.evSeen
        · exact oks1.putHolder _ _ _

theorem State.memOk.answerExt {s0 : State} {g q x r0} (ok : s0.memOk) : (s0.answerExt g q x r0).memOk := by
  unfold State.answerExt
  extract_lets s1
  have oks1 : s1.memOk := ok.leavePeer
  split
  · exact oks1
  · split
    next e =>
      extract_lets h1
      split
      · exact (oks1.bringLine.of_fst e).longReply
      · exact (oks1.bringLine.of_fst e).writeReply
      · exact (oks1.bringLine.of_fst e).launchReply.ite (((oks1.bringLine.of_fst e).putHolder _ _ _).ite
          ((oks1.bringLine.of_fst e).partReply.ite (oks1.bringLine.of_fst e).fetchReply))

theorem State.memOk.execRegisterSpaceAnswer {core slot} {s : State} (ok : s.memOk) :
    (execRegisterSpaceAnswer core slot s).memOk := by
  unfold Machine.execRegisterSpaceAnswer
  split
  · exact ok
  · split
    · exact ok.regRead.answerExt
    · exact ok.regWrite.answerExt

theorem State.memOk.execStorageCompletion {core slot data} {s : State} (ok : s.memOk) :
    (execStorageCompletion core slot data s).memOk := by
  unfold Machine.execStorageCompletion
  split
  · exact ok
  · exact ok.answerExt

theorem State.memOk.execHostAccess {r} {s : State} (ok : s.memOk) : Out.memOk (execHostAccess r s) := by
  unfold Machine.execHostAccess
  dsimp only
  split
  · exact trivial
  · split
    · split
      · exact ok.regRead.send _
      · exact ok.regWrite
    · exact ok.hostServe

theorem State.memOk.execInboundRequest {port atomicOrPeer x size data} {s : State} (ok : s.memOk) :
    (execInboundRequest port atomicOrPeer x size data s).memOk :=
  Out.memOk.ite ((ok.updCtl rfl).send _) ok.hostServe

theorem State.memOk.answerPeer {s : State} {r v} (ok : s.memOk) : (s.answerPeer r v).memOk := ok.sendFabric

theorem State.memOk.peerPerform {r} {s : State} (ok : s.memOk) : (peerPerform r s).memOk := by
  unfold Machine.peerPerform
  extract_lets keep n a unc x
  have okkeep {t} (ok : t.memOk) : (keep t).memOk := ok.updCtl rfl
  split
  · exact ok.answerPeer
  · extract_lets pa done
    have okdone {c f} (ok : c.memOk) (okf : ∀ s, s.memOk → (f s).1.memOk) : (done c f).memOk := by
      dsimp only [done]
      split
      · exact (okf _ ok).homeStamp.answerPeer
      · exact okkeep ok
      · exact ok.answerPeer
      · exact ok.answerPeer
    clear_value done
    split
    · exact ok.answerPeer
    · split
      · exact okkeep ok
      · split
        · exact okdone (Coh.memOk.ite ok.uncachedLines ok.readLines) fun _ ok1 => State.memOk.foldl ok1 fun _ _ ok2 =>
            ok2.hostLeft
        · exact okdone ok.homeWrite fun _ ok1 => ok1
        · split
          next e => exact (ok.homeAtomicAt.of_eq e).answerPeer
          next e => exact (ok.homeAtomicAt.of_eq e).answerPeer
          next e => exact okkeep (ok.homeAtomicAt.of_eq e)
          next e => exact (ok.homeAtomicAt.of_eq e).answerPeer
          next e => exact (ok.homeAtomicAt.of_eq e).answerPeer

theorem State.memOk.execPeerAccess {r} {s : State} (ok : s.memOk) : (execPeerAccess r s).memOk := ok.peerPerform

theorem State.memOk.servePeers {s : State} (ok : s.memOk) : (servePeers s).memOk :=
  (ok.updCtl rfl).foldl (fun _ _ ok1 => ok1.peerPerform)

theorem State.memOk.peerExt {s : State} {g q x r} (ok : s.memOk) : (peerExt s g q x r).memOk := by
  unfold Machine.peerExt
  extract_lets back line
  split
  next e =>
    refine State.memOk.answerExt ?_
    refine State.memOk.of_fst ?_ e
    split
    · exact ok.receive.fst_ite ok
    · exact ok

theorem State.memOk.matrixReply {s0 : State} {clu slot r} (ok : s0.memOk) : (matrixReply s0 clu slot r).memOk := by
  unfold Machine.matrixReply
  extract_lets c take
  have oktake {pa n} : (take pa n).1.memOk := by
    dsimp only [take]
    split
    · exact ok.engineData
    · exact ok
  split
  · split
    · split
      · exact ((oktake.updCluster _ _).push).ite ok
      · exact ok
    · exact ok
  · split
    · split
      · exact ((oktake.updCluster _ _).push).ite ok
      · exact ok
    · exact ok

theorem State.memOk.unitReply {s : State} {ask r} (ok : s.memOk) : (unitReply s ask r).memOk := by
  unfold Machine.unitReply
  split
  extract_lets s1 at_ s2
  have oks1 : s1.memOk := (ok.updCtl rfl).leavePeer
  have oks2 : s2.memOk := oks1.awayReply
  split
  · exact oks2.ite oks2.push
  · split
    · exact oks1.matrixReply
    · split
      · exact oks1
      · split
        · exact oks1.cmdReply
        · exact oks1

theorem State.memOk.orphanReply {s t : State} {core slot} (ok : s.memOk) (e : s.orphanReply core slot = some t) : t.memOk := by
  obtain ⟨_, _, rfl⟩ := Option.map_eq_some_iff.1 e
  exact (ok.updCtl rfl).leavePeer

theorem State.memOk.execPeerReply {core slot r} {s : State} (ok : s.memOk) : (execPeerReply core slot r s).memOk := by
  unfold Machine.execPeerReply
  split
  next e => exact ok.orphanReply e
  · split
    · split
      · exact ok.unitReply
      · exact ok
    · split
      · exact ok
      · exact ok.peerExt

theorem State.memOk.endCacheOps {line} {s : State} (ok : s.memOk) : (endCacheOps line s).memOk :=
  ok.mapCores (f := fun c => { c with slots := c.slots.map (fun h =>
    (h.1, { h.2 with ext := h.2.ext.filter (fun x => !(x.size == 0 && x.pa / 128 == line)) })) }) fun _ => rfl

theorem State.memOk.execCxlHostResponse {line r} {s : State} (ok : s.memOk) : (execCxlHostResponse line r s).memOk := by
  unfold Machine.execCxlHostResponse
  extract_lets ours engine give shared
  split
  · exact ok.hostGrant
  · exact ok.hostGrant
  · exact ok.evictDone.endCacheOps
  · exact ok.snoopDone
  · show State.memOk _
    dsimp only [give]
    split
    · exact ok.answerExt
    · exact ok
  · show State.memOk _
    dsimp only [give]
    split
    · exact ok.answerExt
    · dsimp only [engine]
      split
      · exact ok.unitReply
      · exact ok

theorem State.memOk.loseOwner {pkg} {s : State} (ok : s.memOk) : (loseOwner pkg s).memOk :=
  ((((ok.foldl (fun _ _ ok1 => ok1.updPeer)).foldl (fun _ _ ok1 => ok1.peerExt)).foldl (fun _ _ ok1 => ok1.unitReply)).foldl
    (fun _ _ ok1 => (ok1.updCtl rfl).leavePeer)).push

theorem State.memOk.installMap {epoch entries} {s : State} (ok : s.memOk) : (installMap epoch entries s).memOk :=
  (ok.updCtl rfl).foldl (fun _ _ ok1 => ok1.loseOwner.push)

theorem State.memOk.execMapEpochInstall {epoch entries} {s : State} (ok : s.memOk) :
    (execMapEpochInstall epoch entries s).memOk :=
  Out.memOk.ite ok ok.installMap

theorem State.memOk.losePackage {pkg} {s : State} (ok : s.memOk) : (losePackage pkg s).memOk := by
  unfold Machine.losePackage
  split
  · exact ok
  · exact ok.ite (ok.updCtl rfl).installMap

theorem State.memOk.execPackageLoss {pkg} {s : State} (ok : s.memOk) : (execPackageLoss pkg s).memOk := ok.losePackage

theorem State.memOk.execHeartbeatMiss {pkg} {s : State} (ok : s.memOk) : (execHeartbeatMiss pkg s).memOk :=
  Out.memOk.ite (ok.updCtl rfl) (ok.updCtl rfl).losePackage

end Sys2Proof.Machine
end

-- ==== Sys2Proof/Proofs/KeepPackage.lean ====

section
set_option Elab.async false
namespace Sys2Proof.Machine

/-! ## The memories stay canonical: scheduling, preemption, resets, links and power -/

theorem State.memOk.longStep {s : State} {g q h l} (ok : s.memOk) : (longStep s g q h l).memOk := by
  unfold Machine.longStep
  split
  · exact ok.longDone
  · exact ok.blockStep
  · exact ok.blockStep
  · split
    · exact ok.loadStep
    · split
      · exact ok.atomStep
      · exact ok

theorem State.memOk.longBad {s : State} {g q h l lane cause kind addr} (ok : s.memOk) :
    (longBad s g q h l lane cause kind addr).memOk := by
  unfold Machine.longBad
  extract_lets p y
  split
  · exact ok.blockFault
  · exact ok.blockFault
  · split
    · exact ok.loadFault
    · split
      · exact ok.atomFault
      · exact ok

theorem State.memOk.execLongLatencyComplete {core slot idx} {s : State} (ok : s.memOk) :
    (execLongLatencyComplete core slot idx s).memOk := by
  unfold Machine.execLongLatencyComplete
  split
  · exact ok
  · split
    · exact ok
    · split
      · exact ok
      · split
        · exact Out.memOk.ite ok ok.longBad
        · exact ok.longStep

theorem State.memOk.pieceIn {g k q p} {s : State} (ok : s.memOk) : (pieceIn g k q p s).memOk :=
  Drip.memOk.place (ok.dripRead (fun _ _ ok1 => ok1)) (fun _ _ ok1 => ok1.copyParts.place (fun _ _ ok2 => ok2))

theorem State.memOk.execPiecePlace {core} {s : State} (ok : s.memOk) : (execPiecePlace core s).memOk := by
  unfold Machine.execPiecePlace
  extract_lets c
  split
  · exact ok
  · split
    · split
      · exact ok
      · split
        next e => exact ((ok.pieceIn.of_eq e).updCore _ id).seat.push
        next e => exact (ok.pieceIn.of_eq e :)
        · exact ok
    · split
      · exact ok
      · exact (ok.updCore _ id).takeRange

theorem State.memOk.execBarwPieceHandoff {core slot} {s : State} (ok : s.memOk) : (execBarwPieceHandoff core slot s).memOk := by
  unfold Machine.execBarwPieceHandoff
  split
  · exact ok
  · extract_lets t
    split
    · split
      · exact ok
      · split
        next e =>
          split
          next e1 => exact (((ok.placePiece.of_eq e).pieceIn.of_eq e1).updCore _ id).putNew
          next e1 => exact ((ok.placePiece.of_eq e).pieceIn.of_eq e1 :)
          · exact ok
        next e => exact (ok.placePiece.of_eq e :)
        · exact ok
    · exact ok

theorem State.memOk.execCompaction {core} {s : State} (ok : s.memOk) : (execCompaction core s).memOk := by
  unfold Machine.execCompaction
  extract_lets c movable
  split
  · exact ok
  · split
    · exact ok
    · split
      · exact ok
      · exact (ok.updCore _ id).push

theorem State.memOk.execSwap {core slot} {s : State} (ok : s.memOk) : (execSwap core slot s).memOk := by
  unfold Machine.execSwap
  split
  · exact Out.memOk.ite (ok.vacate.updCore _ id) ok
  · exact ok

theorem State.memOk.tickCore {s : State} {g} (ok : s.memOk) : (s.tickCore g).memOk :=
  (ok.updCore _ id).ite (ok.updCore _ id).coreRing

theorem State.memOk.fillActive {g n} {s : State} (ok : s.memOk) : (fillActive g n s).memOk := by
  induction n generalizing s with
  | zero => exact ok
  | succ n ih =>
    unfold Machine.fillActive
    split
    · exact ok
    · split
      · exact ok
      · exact ih (ok.updCore _ id)

theorem State.memOk.passCk {s : State} (ok : s.memOk) : s.passCk.memOk :=
  State.memOk.push (State.memOk.foldl (State.memOk.servePeers (State.memOk.serveHeld (ok.of_eq rfl rfl rfl))) (fun _ _ ok1 =>
    ok1.streamServe))

theorem State.memOk.passTurn {s : State} {g} (ok : s.memOk) : (s.passTurn g).memOk := by
  unfold State.passTurn
  extract_lets gs
  split
  · exact ok.of_eq rfl rfl rfl
  · exact State.memOk.passCk (ok.of_eq rfl rfl rfl)

theorem State.memOk.coreCycle {s : State} {g} (ok : s.memOk) : (coreCycle s g).memOk := by
  unfold Machine.coreCycle
  split
  · exact ok
  · extract_lets s1 s2 d
    have oks1 : s1.memOk := ok.tickCore.fillActive
    clear_value s1
    have oks2 : s2.memOk := by
      dsimp only [s2]
      split
      · exact (oks1.updCore g (f := fun c => { c with pipesBusy := c.pipesBusy ++ (s1.issueSlots g).2.map fun _ => 3 }) id).of_eq
          rfl rfl rfl
      · exact oks1
    exact (oks2.samplePc.ite oks2).push

theorem State.memOk.execIssueCycle {core} {s : State} (ok : s.memOk) : (execIssueCycle core s).memOk := ok.coreCycle.passTurn

theorem State.memOk.freezeBins {s : State} {g on} (ok : s.memOk) : (s.freezeBins g on).memOk := by
  unfold State.freezeBins
  refine ok.updCore _ ?_
  exact fun w => by split <;> exact w

theorem State.memOk.haltAll {s : State} {dies} (ok : s.memOk) : (s.haltAll dies).memOk :=
  (ok.updCtl rfl).foldl (fun _ _ ok1 => ok1.freezeBins.ite ok1)

theorem State.memOk.execPreemptionRequest {base dies} {s : State} (ok : s.memOk) : (execPreemptionRequest base dies s).memOk :=
  Out.memOk.ite (ok.updCtl rfl).haltAll ok

theorem State.memOk.abandonParked {s : State} {g} (ok : s.memOk) : (s.abandonParked g).memOk := by
  unfold State.abandonParked
  refine ok.foldl (fun _ _ ok1 => ?_)
  split
  exact ok1.ite (((ok1.putHolder _ _ _).foldl (fun _ _ ok2 => ok2.dropRelease)).foldl (fun _ _ ok2 => ok2.tasterStamp))

theorem State.memOk.execCoreHalted {core} {s : State} (ok : s.memOk) : (execCoreHalted core s).memOk :=
  Out.memOk.ite ok ((((ok.abandonParked.foldl (fun _ _ ok1 => ok1.leaveBlock.putHolder _ _ _)).updCore _ id).updCtl
    rfl).endWalks.send _)

theorem State.memOk.dripResidents {g q h xs} {s : State} (ok : s.memOk) : (dripResidents g q h xs s).memOk := by
  induction xs generalizing s with
  | nil => exact ok
  | cons x xs ih =>
    unfold Machine.dripResidents
    split
    next e => exact ih (ok.spillWrite.of_eq e)
    · exact ih ok

theorem State.memOk.saveRegion {s : State} {pa n img} (ok : s.memOk) : (s.saveRegion pa n img).memOk := by
  unfold State.saveRegion
  extract_lets s1
  have oks1 : s1.memOk := by
    dsimp only [s1]
    refine ok.foldl (fun _ _ ok1 => ?_)
    split
    next e => exact ok1.settleLine.homeTakeWrite.of_eq e
    next e => exact ok1.settleLine.homeTakeWrite.of_eq e
    next e => exact ok1.settleLine.homeTakeWrite.of_eq e
    next e => exact ok1.settleLine.homeTakeWrite.of_eq e
  exact oks1.putImage

theorem State.memOk.writeSave {s : State} {base g} (ok : s.memOk) : (s.writeSave base g).memOk :=
  ok.saveRegion.saveRegion.saveRegion.saveRegion.saveRegion.saveRegion.saveRegion

theorem State.memOk.takeSaved {s : State} {g} (ok : s.memOk) : (s.takeSaved g).memOk :=
  (((ok.updCtl rfl).updCore g (f := Core.emptied) fun _ => rfl).updCluster (cluOf g) fun y => y.part g false).of_eq rfl rfl rfl

theorem State.memOk.execContextSave {core} {s : State} (ok : s.memOk) : (execContextSave core s).memOk := by
  unfold Machine.execContextSave
  extract_lets c x passing s1
  have oks1 : s1.memOk := ok.foldl (fun _ _ ok1 => ok1.dripResidents)
  split
  · exact ok
  · exact Out.memOk.ite ok oks1.writeSave.takeSaved

theorem State.memOk.giveTiles {s : State} {src dst y} (ok : s.memOk) : (s.giveTiles src dst y).memOk := ok.updCluster _ _

theorem State.memOk.takeBack {s : State} {dst q h} (ok : s.memOk) : (s.takeBack dst q h).memOk :=
  (ok.putHolder _ _ _).updCore _ id

theorem State.memOk.restoreHolder {base src dst t0} {s : State} {x} (ok : s.memOk) :
    (restoreHolder base src dst t0 s x).memOk := by
  unfold Machine.restoreHolder
  extract_lets q x1 h st
  split
  · exact (ok.foldl (fun _ _ ok1 => ok1.ite ok1.dropTile)).endMembers.send _
  · split
    next e => exact (ok.copyParts.of_eq e).takeBack
    · exact ok.takeBack

theorem State.memOk.resumeCore {s0 : State} {g} (ok : s0.memOk) : (s0.resumeCore g).memOk :=
  ((ok.updCore _ id).updCtl rfl).freezeBins

theorem Memory.wf_shifted {m : Memory} {a n : Nat} (w : Memory.wf m = true) :
    Memory.wf ((m.filter (fun c => decide (a ≤ c.1) && decide (c.1 < a + n))).map (fun c => (c.1 - a, c.2))) = true :=
  Memory.wf_down a (Memory.wf_filter _ w) fun c hc => by
    have := (List.mem_filter.1 hc).2
    simp only [Bool.and_eq_true, decide_eq_true_eq] at this
    exact this.1

theorem State.memOk.execContextRestore {src dst} {s : State} (ok : s.memOk) : Out.memOk (execContextRestore src dst s) := by
  unfold Machine.execContextRestore
  extract_lets pending y hs t0 s1
  have oks1 : s1.memOk := (ok.updCtl rfl).giveTiles
  split
  · exact ok
  · split
    · split
      · exact ok
      · extract_lets a s2 s3
        have oks2 : s2.memOk := oks1.updCore _ fun _ => Memory.wf_shifted ok.1
        have oks3 : s3.memOk := oks2.of_eq rfl rfl rfl
        exact (oks3.foldl fun _ _ ok1 => ok1.restoreHolder).resumeCore
    · exact Out.memOk.ite ok.resumeCore ok

theorem State.memOk.execUnfold {s : State} (ok : s.memOk) : (execUnfold s).memOk := by
  unfold Machine.execUnfold
  refine ok.issue (fun _ _ _ => ?_)
  split
  · exact ok.unfoldHere
  · exact ok.retire

theorem State.memOk.execRinfo {d} {s : State} (ok : s.memOk) : (execRinfo d s).memOk := ok.issue (fun _ _ _ => ok.retire)
theorem State.memOk.execPart {n code} {s : State} (ok : s.memOk) : (execPart n code s).memOk := ok.issue (fun _ _ _ => ok.retire)

theorem State.memOk.spawnGroup {s : State} {g q h gd d n entry} (ok : s.memOk) : (spawnGroup s g q h gd d n entry).memOk :=
  ok.issued.ite (ok.afterPlace ok.binAddAll (fun _ ok1 => ok1.leaveItems ok1.countIssue.removeHolder))

theorem State.memOk.spawnRange {s : State} {g q h d n entry lo hi} (ok : s.memOk) :
    (spawnRange s g q h d n entry lo hi).memOk :=
  ok.afterPlace ok.binAddAll (fun _ ok1 => ok1.countIssue.removeHolder.ite ok1.issued)

theorem State.memOk.execSpawn {gd d a n} {s : State} (ok : s.memOk) : (execSpawn gd d a n s).memOk := by
  unfold Machine.execSpawn
  refine ok.issue (fun _ _ _ => ?_)
  extract_lets entry
  split
  · exact ok.trapHere
  · split
    · exact ok.block
    · split
      · split
        · exact ok.issued
        · exact ok.spawnRange
        · exact ok.spawnRange
        · exact ok.spawnRange
      · exact ok.spawnGroup

theorem State.memOk.execBinTimerExpiry {core bin} {s : State} (ok : s.memOk) : (execBinTimerExpiry core bin s).memOk := by
  unfold Machine.execBinTimerExpiry
  split
  · exact ok
  · split
    · split
      next e => exact (ok.binLaunch.of_eq e :)
      next e => exact (ok.binLaunch.of_eq e :)
      · exact ok
    · exact ok

theorem State.memOk.holdAtFold {s : State} {g q h d n hold ps} (ok : s.memOk) : (holdAtFold s g q h d n hold ps).memOk :=
  ok.issued.ite (ok.putHolder _ _ _).push.push

theorem State.memOk.execFold {d n hold ps} {s : State} (ok : s.memOk) : (execFold d n hold ps s).memOk := by
  unfold Machine.execFold
  refine ok.issue (fun _ _ _ => ?_)
  split
  · exact Out.memOk.ite ok.holdAtFold ok.block
  · split
    · exact ok.issued
    · exact Out.memOk.ite ok.holdAtFold ok.block

theorem State.memOk.execFoldMerge {core slot other} {s : State} (ok : s.memOk) : (execFoldMerge core slot other s).memOk := by
  unfold Machine.execFoldMerge
  split
  · split
    · split
      · exact ok
      · extract_lets t
        split
        · exact ok
        · exact (ok.removeHolder.putHolder _ _ _).push
    · exact ok
  · exact ok

theorem State.memOk.execFoldHoldExpiry {core slot} {s : State} (ok : s.memOk) : (execFoldHoldExpiry core slot s).memOk := by
  unfold Machine.execFoldHoldExpiry
  split
  · exact ok
  · exact Out.memOk.ite ok.issued ok

theorem State.memOk.reset : State.reset.memOk := ⟨rfl, rfl, fun _ hp => absurd hp List.not_mem_nil⟩

theorem State.memOk.execPackageColdReset {s : State} : Out.memOk (execPackageColdReset s) := State.memOk.reset.of_eq rfl rfl rfl

theorem State.inMemory_wf {s : State} (ok : s.memOk) : Memory.wf s.inMemory = true := by
  have step (ps : List (Nat × List Byte)) (m : Memory) (w : Memory.wf m = true) :
      Memory.wf (ps.foldl (fun m p => Memory.writeBytes m (p.1 * 128) p.2) m) = true := by
    induction ps generalizing m with
    | nil => exact w
    | cons p ps ih => exact ih _ (Memory.wf_writeBytes _ _ w)
  exact step _ _ ok.1

theorem State.memOk.execPackageWarmReset {s : State} (ok : s.memOk) : Out.memOk (execPackageWarmReset s) :=
  (State.memOk.reset.withMem (m := s.inMemory.filter fun x => s.survives x.1) (Memory.wf_filter _ (State.inMemory_wf ok))).of_eq
    rfl rfl rfl

theorem State.memOk.zeroDie {s : State} {d} (ok : s.memOk) : (s.zeroDie d).memOk :=
  ((ok.withMem (Memory.wf_filter (fun c => !s.zeroed d (c.1 / 128)) ok.1)).mapCores
    (f := fun c => { c with l1 := c.l1.filter fun p => !s.zeroed d p.1, wbuf := c.wbuf.filter fun p => !s.zeroed d p.1 })
    fun _ => rfl).of_eq rfl rfl rfl

theorem State.memOk.loseBytes {s : State} {line} (ok : s.memOk) : (s.loseBytes line).memOk :=
  ok.foldl fun _ _ ok1 => (ok1.withMem (Memory.wf_write _ _ ok1.1)).useFresh

theorem State.memOk.forgetDie {s : State} {d} (ok : s.memOk) : (s.forgetDie d).memOk :=
  (ok.foldl (fun _ _ ok1 => ok1.loseBytes)).of_eq rfl rfl rfl

theorem State.memOk.cutBusy {s : State} {d} (ok : s.memOk) : (s.cutBusy d).memOk :=
  ok.foldl (fun _ _ ok1 => ok1.foldl (fun _ _ ok2 => (ok2.updDie _ _).endBusy.ite (ok2.updDie _ _).sendGrant))

theorem State.memOk.orphanDie {s : State} {d} (ok : s.memOk) : (s.orphanDie d).memOk := ok.updCtl rfl

theorem State.memOk.returnTeams {s : State} {d} (ok : s.memOk) : (s.returnTeams d).memOk :=
  State.memOk.foldl (State.memOk.foldl (ok.of_eq rfl rfl rfl) (fun _ _ ok1 => ok1.updGrid)) (fun _ _ ok1 => ok1.updGrid)

theorem State.memOk.gridAfter {s : State} {grid ts} (ok : s.memOk) : (s.gridAfter grid ts).memOk := by
  unfold State.gridAfter
  split
  · exact ok
  · exact ok.ite
      ((ok.updGrid.updGrid.push.updGrid.ite (ok.updGrid.updGrid.push.foldl (fun _ _ ok1 =>
      ok1.foldl (fun _ _ ok2 => ok2.sendRange)))).ite ok.updGrid.updGrid.push)

theorem State.memOk.clearDie {s : State} {d} (ok : s.memOk) : (s.clearDie d).memOk := by
  obtain ⟨mem, window, cores⟩ := ok
  exact ⟨mem, window, fun p hp => cores p (List.mem_of_mem_filter hp)⟩

theorem State.memOk.endCommands {s : State} {d} (ok : s.memOk) : (s.endCommands d).memOk :=
  State.memOk.push (ok.of_eq rfl rfl rfl)

theorem State.memOk.resetDie {d oldDies oldCores} {s : State} (ok : s.memOk) : (resetDie d oldDies oldCores s).memOk := by
  unfold Machine.resetDie
  extract_lets work s1 s2 s3
  have oks1 : s1.memOk := ok.orphanDie.zeroDie.forgetDie.cutBusy.endCommands.returnTeams.clearDie
  clear_value s1
  have oks2 : s2.memOk := oks1.updCtl rfl
  have oks3 : s3.memOk := oks2.foldl fun _ _ ok1 => ok1.ite ok1.freezeBins
  exact oks3.foldl fun _ _ ok1 => ok1.gridAfter

theorem State.memOk.execComputeDieReset {die} {s : State} (ok : s.memOk) : (execComputeDieReset die s).memOk := by
  unfold Machine.execComputeDieReset
  split
  · exact ok
  · split
    · exact (ok.updCtl rfl).haltAll.push
    · split
      · exact ok
      · exact ok.resetDie

theorem State.memOk.runEvent {e} {s : State} (ok : s.memOk) : (runEvent e s).memOk := by
  unfold Machine.runEvent
  split
  · exact ok.execLongLatencyComplete
  · exact ok.execFutureComplete
  · exact ok.execSwap
  · exact ok.execWatchdogExpiry
  · exact ok.execPiecePlace
  · exact ok.execBarwPieceHandoff
  · exact ok.execFoldHoldExpiry
  · exact ok.execFoldMerge
  · exact ok.execBinTimerExpiry
  · exact ok.execCompaction
  · exact ok.execCapacityReport
  · exact ok.execDealRound
  · exact ok.execRangeReceipt
  · exact ok.execLaunchRecordCheck
  · exact ok.execTeamRetire
  · exact ok.execCompletionReport
  · exact ok.execGridComplete
  · exact ok.execGridCancel
  · exact ok.execReDeal
  · exact ok.execInvalidationComplete
  · exact ok.execInvalWalkRestart
  · exact ok.execFlipComplete
  · exact ok.execRds
  · exact ok.execRdx
  · exact ok.execUpg
  · exact ok.execWbd
  · exact ok.execEvc
  · exact ok.execSnoop
  · exact ok.execEngineRead
  · exact ok.execForwardReceipt
  · exact ok.execGrantReceipt
  · exact ok.execRegisterSpaceAnswer
  · exact ok.execReleaseComplete
  · exact ok.execTasterCheck
  · exact ok.execEpochClose
  · exact ok.execEpochCompare
  · exact ok.execEpochTimeout
  · exact ok.execBarrierArrivalCount
  · exact ok.execEvwaitTimeout
  · exact ok.execCommandStart
  · exact ok.execCommandComplete
  · exact ok.execEngineFaultDelivery
  · exact ok.execPassFormation
  · exact ok.execAStagingComplete
  · exact ok.execBFetchComplete
  · exact ok.execPassLeavesArray
  · exact ok.execTrapEntry
  · exact ok.execDeferredTrap
  · exact ok.execBreakpointHit
  · exact ok.execSingleStep
  · exact ok.execCoreHalted
  · exact ok.execWindowRecordAccept
  · exact ok.execDoorbellAccept
  · exact ok.execPacket
  · exact ok.execPacketComplete
  · exact ok.execQueueRingFault
  · exact ok.execJournalAccept
  · exact ok.execStreamGapTimeout
  · exact ok.execSlotDrained
  · exact ok.execTraceLoss
  · exact ok.execScrubPerform
  · exact ok.execRootFailover
  · exact ok.execEvwaitReread
  · exact ok.execWorkQueueUnitArrival
  · exact ok.execInjectedDelayExpiry
  · exact ok.execMemoryControllerAcceptance
  · exact ok.execDeadlockScan
  · exact ok.execComputeDieReset
  · exact ok.execHomeAtomic
  · exact ok.execUncachedAccess
  · exact ok.execRecall
  · exact ok.execDirectoryEviction
  · exact ok.execFilterEviction

theorem State.memOk.exitItems {s : State} {g q h} (ok : s.memOk) : (exitItems s g q h).memOk := by
  unfold Machine.exitItems
  split
  · exact ok.block
  · split
    · exact ok.block
    · split
      · exact ok.issued
      · refine ok.releasePoint (fun _ ok1 => ?_)
        split
        · exact ok1.countIssue.endHolder
        · exact ok1.endItems.leaveItems ok1.countIssue.endHolder

theorem State.memOk.execExit {s : State} (ok : s.memOk) : (execExit s).memOk := ok.issue (fun _ _ _ => ok.exitItems)

theorem State.memOk.execRet {s : State} (ok : s.memOk) : (execRet s).memOk :=
  ok.issue (fun _ _ _ => Out.memOk.ite ok.exitItems
    (Out.memOk.ite ok.trapHere (ok.takeFrame.afterDrip (fun _ _ ok1 => ok1.issued.unsync))))

theorem State.memOk.loseLine {fabric header own link typ line} {s : State} (ok : s.memOk) :
    (loseLine fabric header own link typ line s).memOk := by
  unfold Machine.loseLine
  extract_lets p waiting dirty
  split
  exact (ok.storePayload.enterN.updDie _ _).push

theorem State.memOk.loseHere {fabric own link typ line} {s : State} (ok : s.memOk) :
    (loseHere fabric own link typ line s).memOk :=
  ok.ite (ok.loseLine.ite ((ok.updDie _ _).push.ite ok))

theorem State.memOk.losePeer {x} {s : State} (ok : s.memOk) : (losePeer x s).memOk := by
  unfold Machine.losePeer
  split
  · exact ok.peerExt
  · exact ok.unitReply

theorem State.memOk.loseAnswer {typ x} {s : State} (ok : s.memOk) : (loseAnswer typ x s).memOk := by
  unfold Machine.loseAnswer
  extract_lets line die
  split
  · split
    · exact (ok.updDie _ _).sendFabric.ite (ok.updDie _ _).losePeer
    · exact ok.losePeer
  · exact ok.losePeer

theorem State.memOk.loseSent {m} {s : State} (ok : s.memOk) : (loseSent m s).memOk := by
  unfold Machine.loseSent
  split
  · split
    · exact ok.losePeer
    · exact ok
  · exact ok

theorem State.memOk.loseKept {port} {s : State} (ok : s.memOk) : (loseKept port s).memOk :=
  (ok.updLink.send _).foldl (fun _ _ ok1 => ok1.loseSent)

theorem State.memOk.execUncorrectableFlit {fabric link header ownership typ lines} {s : State} (ok : s.memOk) :
    (execUncorrectableFlit fabric link header ownership typ lines s).memOk :=
  Out.memOk.ite (State.memOk.foldl (ok.foldl (fun _ _ ok1 => ok1.losePeer.ite ok1.loseAnswer)) (fun _ _ ok1 =>
    ok1.ite ok1.loseLine)) (State.memOk.foldl (ok.foldl (fun _ _ ok1 => ok1.losePeer.ite ok1.loseAnswer)) (fun _ _ ok1 =>
    ok1.loseHere))

theorem State.memOk.execRetryRequest {port n} {s : State} (ok : s.memOk) : (execRetryRequest port n s).memOk :=
  Out.memOk.ite ok.updLink (Out.memOk.ite ok.updLink.loseKept (ok.updLink.send _))

theorem State.memOk.execFlitReceipt {port f} {s : State} (ok : s.memOk) : (execFlitReceipt port f s).memOk :=
  Out.memOk.ite (ok.send _) (ok.updLink.execRetryRequest.ite ok.updLink)

theorem State.memOk.execLinkDown {a b} {s : State} (ok : s.memOk) : (execLinkDown a b s).memOk :=
  Out.memOk.ite (((ok.updDie _ _).updDie _ _).foldl (fun _ _ ok1 => ok1.loseHere)) ok

theorem State.memOk.execBringup {step okay} {s : State} (ok : s.memOk) : (execBringup step okay s).memOk := by
  unfold Machine.execBringup
  extract_lets c
  split
  · exact ok
  · split
    · show State.memOk _
      refine ok.updCtl ?_
      split <;> rfl
    · show State.memOk _
      refine ok.updCtl ?_
      split <;> rfl
    · exact ok.updCtl rfl
    · exact ok

theorem State.memOk.execSignedImageUpload {okay} {s : State} (ok : s.memOk) : (execSignedImageUpload okay s).memOk :=
  Out.memOk.ite (ok.updCtl rfl) ok

theorem State.memOk.setRate {s : State} {mhz} (ok : s.memOk) : (s.setRate mhz).memOk := by
  unfold State.setRate
  refine ok.updCtl ?_
  split <;> rfl

theorem State.memOk.bootProgress {s : State} (ok : s.memOk) : s.bootProgress.memOk :=
  ok.ite ((ok.updCtl rfl).setRate.ite (ok.updCtl rfl))

theorem State.memOk.trainLinks {s : State} {d} (ok : s.memOk) : (s.trainLinks d).memOk :=
  (ok.foldl (fun _ _ ok1 => ok1.updDie _ _)).updDie _ _

theorem State.memOk.powerCluster {s : State} {x} (ok : s.memOk) : (s.powerCluster x).memOk :=
  (ok.updCluster _ _).foldl fun _ _ ok1 => ok1.updCore _ fun _ => rfl

theorem State.memOk.dieStep {s : State} {d step} (ok : s.memOk) : (s.dieStep d step).memOk :=
  ((ok.updDie _ _).updDie _ _).ite ((ok.updDie _ _).trainLinks.ite
    ((ok.updDie _ _).ite ((ok.updDie _ _).powerCluster.ite ((ok.updDie _ _).powerCluster.updDie _ _).bootProgress.push)))

theorem State.memOk.execDieBringup {die step okay} {s : State} (ok : s.memOk) : (execDieBringup die step okay s).memOk :=
  Out.memOk.ite ok (Out.memOk.ite ok.dieStep (ok.updDie _ _).bootProgress)

theorem State.memOk.execClockChange {mhz} {s : State} (ok : s.memOk) : (execClockChange mhz s).memOk :=
  Out.memOk.ite ok.setRate ok

theorem State.memOk.execThermalLimit {s : State} (ok : s.memOk) : (execThermalLimit s).memOk := Out.memOk.ite ok (ok.updCtl rfl)

theorem State.memOk.execThermalClearTimeout {s : State} (ok : s.memOk) : (execThermalClearTimeout s).memOk :=
  Out.memOk.ite (ok.updCtl rfl) ok

theorem State.memOk.execClusterGate {clu} {s : State} (ok : s.memOk) : Out.memOk (execClusterGate clu s) := by
  unfold Machine.execClusterGate
  split
  · exact ok
  · split
    · exact ok.send _
    · exact (ok.foldl fun _ _ ok1 => ok1.updCore _ fun _ => rfl).updCluster _ _

theorem State.memOk.execClusterWake {clu} {s : State} (ok : s.memOk) : (execClusterWake clu s).memOk :=
  Out.memOk.ite ok ok.powerCluster

theorem State.memOk.execDieGate {die} {s : State} (ok : s.memOk) : (execDieGate die s).memOk := Out.memOk.ite (ok.updDie _ _) ok
theorem State.memOk.execDieWake {die} {s : State} (ok : s.memOk) : (execDieWake die s).memOk := Out.memOk.ite (ok.updDie _ _) ok

theorem State.memOk.execStorageLinkChange {port up rate width} {s : State} (ok : s.memOk) :
    (execStorageLinkChange port up rate width s).memOk :=
  Out.memOk.ite ok (ok.updCtl rfl)

end Sys2Proof.Machine
end

-- ==== Sys2Proof/Proofs/KeepStep.lean ====

section
set_option Elab.async false
namespace Sys2Proof.Machine

/-! ## The memories stay canonical: the instructions, and a step -/

theorem State.memOk.scalar {i} {s : State} {f} (ok : s.memOk) : (scalar i s f).memOk :=
  ok.issue (fun _ _ _ => ok.retire.traceMaskOf)

theorem State.memOk.sBin {i o f} {s : State} (ok : s.memOk) : (sBin i o f s).memOk := ok.scalar

theorem State.memOk.sShift {i o f} {s : State} (ok : s.memOk) : (sShift i o f s).memOk := ok.scalar

theorem State.memOk.sUn {i o dw f} {s : State} (ok : s.memOk) : (sUn i o dw f s).memOk := ok.scalar

theorem State.memOk.execNop {s : State} (ok : s.memOk) : (execNop s).memOk := ok.scalar
theorem State.memOk.execSadd {o} {s : State} (ok : s.memOk) : (execSadd o s).memOk := ok.sBin
theorem State.memOk.execSsub {o} {s : State} (ok : s.memOk) : (execSsub o s).memOk := ok.sBin
theorem State.memOk.execSmul {o} {s : State} (ok : s.memOk) : (execSmul o s).memOk := ok.sBin
theorem State.memOk.execSmulh {o} {s : State} (ok : s.memOk) : (execSmulh o s).memOk := ok.sBin
theorem State.memOk.execSmin {o} {s : State} (ok : s.memOk) : (execSmin o s).memOk := ok.sBin
theorem State.memOk.execSmax {o} {s : State} (ok : s.memOk) : (execSmax o s).memOk := ok.sBin
theorem State.memOk.execSdiv {o} {s : State} (ok : s.memOk) : (execSdiv o s).memOk := ok.sBin
theorem State.memOk.execSrem {o} {s : State} (ok : s.memOk) : (execSrem o s).memOk := ok.sBin
theorem State.memOk.execSand {o} {s : State} (ok : s.memOk) : (execSand o s).memOk := ok.sBin
theorem State.memOk.execSor {o} {s : State} (ok : s.memOk) : (execSor o s).memOk := ok.sBin
theorem State.memOk.execSxor {o} {s : State} (ok : s.memOk) : (execSxor o s).memOk := ok.sBin
theorem State.memOk.execSshl {o} {s : State} (ok : s.memOk) : (execSshl o s).memOk := ok.sShift
theorem State.memOk.execSshr {o} {s : State} (ok : s.memOk) : (execSshr o s).memOk := ok.sShift
theorem State.memOk.execSsar {o} {s : State} (ok : s.memOk) : (execSsar o s).memOk := ok.sShift
theorem State.memOk.execSrot {o} {s : State} (ok : s.memOk) : (execSrot o s).memOk := ok.sShift
theorem State.memOk.execSclz {o} {s : State} (ok : s.memOk) : (execSclz o s).memOk := ok.sUn
theorem State.memOk.execSpop {o} {s : State} (ok : s.memOk) : (execSpop o s).memOk := ok.sUn
theorem State.memOk.execSbrev {o} {s : State} (ok : s.memOk) : (execSbrev o s).memOk := ok.sUn
theorem State.memOk.execSbfx {o} {s : State} (ok : s.memOk) : (execSbfx o s).memOk := ok.sShift
theorem State.memOk.execSbfi {o} {s : State} (ok : s.memOk) : (execSbfi o s).memOk := ok.scalar
theorem State.memOk.execSmov {o} {s : State} (ok : s.memOk) : (execSmov o s).memOk := ok.sUn
theorem State.memOk.execSsel {o} {s : State} (ok : s.memOk) : (execSsel o s).memOk := ok.scalar
theorem State.memOk.execScmp {c o} {s : State} (ok : s.memOk) : (execScmp c o s).memOk := ok.scalar

theorem State.memOk.sImm {i o f imm} {s : State} (ok : s.memOk) : (sImm i o f imm s).memOk := ok.scalar

theorem State.memOk.execSli {o} {s : State} (ok : s.memOk) : (execSli o s).memOk := ok.scalar
theorem State.memOk.execSlhi {o} {s : State} (ok : s.memOk) : (execSlhi o s).memOk := ok.scalar
theorem State.memOk.execSaddImm {o} {s : State} (ok : s.memOk) : (execSaddImm o s).memOk := ok.sImm
theorem State.memOk.execSmulImm {o} {s : State} (ok : s.memOk) : (execSmulImm o s).memOk := ok.sImm
theorem State.memOk.execSminI32Imm {o} {s : State} (ok : s.memOk) : (execSminI32Imm o s).memOk := ok.sImm
theorem State.memOk.execSmaxI32Imm {o} {s : State} (ok : s.memOk) : (execSmaxI32Imm o s).memOk := ok.sImm
theorem State.memOk.execSminN32Imm {o} {s : State} (ok : s.memOk) : (execSminN32Imm o s).memOk := ok.sImm
theorem State.memOk.execSmaxN32Imm {o} {s : State} (ok : s.memOk) : (execSmaxN32Imm o s).memOk := ok.sImm
theorem State.memOk.execSandImm {o} {s : State} (ok : s.memOk) : (execSandImm o s).memOk := ok.sImm
theorem State.memOk.execSorImm {o} {s : State} (ok : s.memOk) : (execSorImm o s).memOk := ok.sImm
theorem State.memOk.execSxorImm {o} {s : State} (ok : s.memOk) : (execSxorImm o s).memOk := ok.sImm
theorem State.memOk.execSshlImm {o} {s : State} (ok : s.memOk) : (execSshlImm o s).memOk := ok.sImm
theorem State.memOk.execSshrImm {o} {s : State} (ok : s.memOk) : (execSshrImm o s).memOk := ok.sImm
theorem State.memOk.execSsarImm {o} {s : State} (ok : s.memOk) : (execSsarImm o s).memOk := ok.sImm
theorem State.memOk.execSrotImm {o} {s : State} (ok : s.memOk) : (execSrotImm o s).memOk := ok.sImm
theorem State.memOk.execScmpImm {c uns o} {s : State} (ok : s.memOk) : (execScmpImm c uns o s).memOk := ok.sImm

theorem State.memOk.v3Bin {i o dw bw form f} {s : State} (ok : s.memOk) : (v3Bin i o dw bw form f s).memOk := ok.vec

theorem State.memOk.v3Un {i o dw form f} {s : State} (ok : s.memOk) : (v3Un i o dw form f s).memOk := ok.vec

theorem State.memOk.v3Tri {i o cw form f} {s : State} (ok : s.memOk) : (v3Tri i o cw form f s).memOk := ok.vec

theorem State.memOk.viBin {i o form f} {s : State} (ok : s.memOk) : (viBin i o form f s).memOk := ok.vec

theorem State.memOk.execVadd {o} {s : State} (ok : s.memOk) : (execVadd o s).memOk := ok.v3Bin
theorem State.memOk.execVsub {o} {s : State} (ok : s.memOk) : (execVsub o s).memOk := ok.v3Bin
theorem State.memOk.execVsadd {o} {s : State} (ok : s.memOk) : (execVsadd o s).memOk := ok.v3Bin
theorem State.memOk.execVssub {o} {s : State} (ok : s.memOk) : (execVssub o s).memOk := ok.v3Bin
theorem State.memOk.execVabsd {o} {s : State} (ok : s.memOk) : (execVabsd o s).memOk := ok.v3Bin
theorem State.memOk.execVmin {o} {s : State} (ok : s.memOk) : (execVmin o s).memOk := ok.v3Bin
theorem State.memOk.execVmax {o} {s : State} (ok : s.memOk) : (execVmax o s).memOk := ok.v3Bin
theorem State.memOk.execVabs {o} {s : State} (ok : s.memOk) : (execVabs o s).memOk := ok.v3Un
theorem State.memOk.execVneg {o} {s : State} (ok : s.memOk) : (execVneg o s).memOk := ok.v3Un
theorem State.memOk.execVmul {o} {s : State} (ok : s.memOk) : (execVmul o s).memOk := ok.v3Bin
theorem State.memOk.execVmulh {o} {s : State} (ok : s.memOk) : (execVmulh o s).memOk := ok.v3Bin
theorem State.memOk.execVmad {o} {s : State} (ok : s.memOk) : (execVmad o s).memOk := ok.v3Tri
theorem State.memOk.execVand {o} {s : State} (ok : s.memOk) : (execVand o s).memOk := ok.v3Bin
theorem State.memOk.execVor {o} {s : State} (ok : s.memOk) : (execVor o s).memOk := ok.v3Bin
theorem State.memOk.execVxor {o} {s : State} (ok : s.memOk) : (execVxor o s).memOk := ok.v3Bin
theorem State.memOk.execVandn {o} {s : State} (ok : s.memOk) : (execVandn o s).memOk := ok.v3Bin
theorem State.memOk.execVlop3 {o} {s : State} (ok : s.memOk) : (execVlop3 o s).memOk := ok.vec
theorem State.memOk.execVshl {o} {s : State} (ok : s.memOk) : (execVshl o s).memOk := ok.v3Bin
theorem State.memOk.execVshr {o} {s : State} (ok : s.memOk) : (execVshr o s).memOk := ok.v3Bin
theorem State.memOk.execVsar {o} {s : State} (ok : s.memOk) : (execVsar o s).memOk := ok.v3Bin
theorem State.memOk.execVrot {o} {s : State} (ok : s.memOk) : (execVrot o s).memOk := ok.v3Bin
theorem State.memOk.execVclz {o} {s : State} (ok : s.memOk) : (execVclz o s).memOk := ok.v3Un
theorem State.memOk.execVctz {o} {s : State} (ok : s.memOk) : (execVctz o s).memOk := ok.v3Un
theorem State.memOk.execVpop {o} {s : State} (ok : s.memOk) : (execVpop o s).memOk := ok.v3Un
theorem State.memOk.execVbrev {o} {s : State} (ok : s.memOk) : (execVbrev o s).memOk := ok.v3Un
theorem State.memOk.execVbfx {o} {s : State} (ok : s.memOk) : (execVbfx o s).memOk := ok.v3Bin
theorem State.memOk.execVbfi {o} {s : State} (ok : s.memOk) : (execVbfi o s).memOk := ok.v3Tri
theorem State.memOk.execVpdep {o} {s : State} (ok : s.memOk) : (execVpdep o s).memOk := ok.v3Bin
theorem State.memOk.execVpext {o} {s : State} (ok : s.memOk) : (execVpext o s).memOk := ok.v3Bin
theorem State.memOk.execVbperm {o} {s : State} (ok : s.memOk) : (execVbperm o s).memOk := ok.vec
theorem State.memOk.execVgfmat {o} {s : State} (ok : s.memOk) : (execVgfmat o s).memOk := ok.v3Bin
theorem State.memOk.execVaddImm {o} {s : State} (ok : s.memOk) : (execVaddImm o s).memOk := ok.viBin
theorem State.memOk.execVsubImm {o} {s : State} (ok : s.memOk) : (execVsubImm o s).memOk := ok.viBin
theorem State.memOk.execVsaddImm {o} {s : State} (ok : s.memOk) : (execVsaddImm o s).memOk := ok.viBin
theorem State.memOk.execVssubImm {o} {s : State} (ok : s.memOk) : (execVssubImm o s).memOk := ok.viBin
theorem State.memOk.execVabsdImm {o} {s : State} (ok : s.memOk) : (execVabsdImm o s).memOk := ok.viBin
theorem State.memOk.execVminImm {o} {s : State} (ok : s.memOk) : (execVminImm o s).memOk := ok.viBin
theorem State.memOk.execVmaxImm {o} {s : State} (ok : s.memOk) : (execVmaxImm o s).memOk := ok.viBin
theorem State.memOk.execVmulImm {o} {s : State} (ok : s.memOk) : (execVmulImm o s).memOk := ok.viBin
theorem State.memOk.execVandImm {o} {s : State} (ok : s.memOk) : (execVandImm o s).memOk := ok.viBin
theorem State.memOk.execVorImm {o} {s : State} (ok : s.memOk) : (execVorImm o s).memOk := ok.viBin
theorem State.memOk.execVxorImm {o} {s : State} (ok : s.memOk) : (execVxorImm o s).memOk := ok.viBin
theorem State.memOk.execVandnImm {o} {s : State} (ok : s.memOk) : (execVandnImm o s).memOk := ok.viBin
theorem State.memOk.execVshlImm {o} {s : State} (ok : s.memOk) : (execVshlImm o s).memOk := ok.viBin
theorem State.memOk.execVshrImm {o} {s : State} (ok : s.memOk) : (execVshrImm o s).memOk := ok.viBin
theorem State.memOk.execVsarImm {o} {s : State} (ok : s.memOk) : (execVsarImm o s).memOk := ok.viBin
theorem State.memOk.execVrotImm {o} {s : State} (ok : s.memOk) : (execVrotImm o s).memOk := ok.viBin

theorem State.memOk.vf2 {i o f} {s : State} (ok : s.memOk) : (vf2 i o f s).memOk := ok.v3Bin

theorem State.memOk.vf1 {i o f} {s : State} (ok : s.memOk) : (vf1 i o f s).memOk := ok.v3Un

theorem State.memOk.execVfadd {o} {s : State} (ok : s.memOk) : (execVfadd o s).memOk := ok.vf2
theorem State.memOk.execVfmul {o} {s : State} (ok : s.memOk) : (execVfmul o s).memOk := ok.vf2
theorem State.memOk.execVfma {o} {s : State} (ok : s.memOk) : (execVfma o s).memOk := ok.v3Tri
theorem State.memOk.execVfmin {o} {s : State} (ok : s.memOk) : (execVfmin o s).memOk := ok.vf2
theorem State.memOk.execVfmax {o} {s : State} (ok : s.memOk) : (execVfmax o s).memOk := ok.vf2
theorem State.memOk.execVfclass {o} {s : State} (ok : s.memOk) : (execVfclass o s).memOk := ok.v3Un
theorem State.memOk.execVfrnd {o} {s : State} (ok : s.memOk) : (execVfrnd o s).memOk := ok.vf1
theorem State.memOk.execVfscale {o} {s : State} (ok : s.memOk) : (execVfscale o s).memOk := ok.v3Bin
theorem State.memOk.execVfrcp {o} {s : State} (ok : s.memOk) : (execVfrcp o s).memOk := ok.vf1
theorem State.memOk.execVfrsq {o} {s : State} (ok : s.memOk) : (execVfrsq o s).memOk := ok.vf1
theorem State.memOk.execVfsqrt {o} {s : State} (ok : s.memOk) : (execVfsqrt o s).memOk := ok.vf1
theorem State.memOk.execVfdiv {o} {s : State} (ok : s.memOk) : (execVfdiv o s).memOk := ok.vf2
theorem State.memOk.execVfexp2 {o} {s : State} (ok : s.memOk) : (execVfexp2 o s).memOk := ok.vf1
theorem State.memOk.execVflog2 {o} {s : State} (ok : s.memOk) : (execVflog2 o s).memOk := ok.vf1
theorem State.memOk.execVfsinp {o} {s : State} (ok : s.memOk) : (execVfsinp o s).memOk := ok.vf1
theorem State.memOk.execVfcosp {o} {s : State} (ok : s.memOk) : (execVfcosp o s).memOk := ok.vf1
theorem State.memOk.execVfaddImm {o} {s : State} (ok : s.memOk) : (execVfaddImm o s).memOk := ok.viBin
theorem State.memOk.execVfmulImm {o} {s : State} (ok : s.memOk) : (execVfmulImm o s).memOk := ok.viBin
theorem State.memOk.execVfminImm {o} {s : State} (ok : s.memOk) : (execVfminImm o s).memOk := ok.viBin
theorem State.memOk.execVfmaxImm {o} {s : State} (ok : s.memOk) : (execVfmaxImm o s).memOk := ok.viBin

theorem State.memOk.vcmp {i o form f} {s : State} (ok : s.memOk) : (vcmp i o form f s).memOk := by
  unfold Machine.vcmp
  refine ok.issue (fun _ _ _ => ?_)
  extract_lets w at_ uni r
  split
  · exact ok.predRange
  · exact ok.retire

theorem State.memOk.execVicmp {o} {s : State} (ok : s.memOk) : (execVicmp o s).memOk := ok.vcmp
theorem State.memOk.execVfcmp {o} {s : State} (ok : s.memOk) : (execVfcmp o s).memOk := ok.vcmp

theorem State.memOk.vpred {i o form f} {s : State} (ok : s.memOk) : (vpred i o form f s).memOk := by
  unfold Machine.vpred
  refine ok.issue (fun _ _ _ => ?_)
  split
  · exact ok.predRange
  · exact ok.retire

theorem State.memOk.execVpand {o} {s : State} (ok : s.memOk) : (execVpand o s).memOk := ok.vpred
theorem State.memOk.execVpor {o} {s : State} (ok : s.memOk) : (execVpor o s).memOk := ok.vpred
theorem State.memOk.execVpxor {o} {s : State} (ok : s.memOk) : (execVpxor o s).memOk := ok.vpred
theorem State.memOk.execVpnot {o} {s : State} (ok : s.memOk) : (execVpnot o s).memOk := ok.vpred
theorem State.memOk.execVpmov {o} {s : State} (ok : s.memOk) : (execVpmov o s).memOk := ok.vpred
theorem State.memOk.execVsetp {o} {s : State} (ok : s.memOk) : (execVsetp o s).memOk := ok.vpred
theorem State.memOk.execVcvt {o} {s : State} (ok : s.memOk) : (execVcvt o s).memOk := ok.vec
theorem State.memOk.execVpack {o} {s : State} (ok : s.memOk) : (execVpack o s).memOk := ok.vec
theorem State.memOk.execVunpack {o} {s : State} (ok : s.memOk) : (execVunpack o s).memOk := ok.vec
theorem State.memOk.execVmov {o} {s : State} (ok : s.memOk) : (execVmov o s).memOk := ok.v3Un
theorem State.memOk.execVmovImm {o} {s : State} (ok : s.memOk) : (execVmovImm o s).memOk := ok.vec

theorem State.memOk.execVsel {o} {s : State} (ok : s.memOk) : (execVsel o s).memOk := by
  unfold Machine.execVsel
  refine ok.issue (fun _ _ _ => ?_)
  extract_lets w as bs pick v
  split
  · exact ok.range
  · exact ok.retire

theorem State.memOk.execVbcast {o} {s : State} (ok : s.memOk) : (execVbcast o s).memOk := ok.vec
theorem State.memOk.execVidx {o} {s : State} (ok : s.memOk) : (execVidx o s).memOk := ok.vec

theorem State.memOk.xlane {i gd always} {s : State} {f} (ok : s.memOk) : (xlane i gd always s f).memOk := by
  unfold Machine.xlane
  refine ok.issue (fun _ _ _ => ?_)
  split
  · exact ok.retire.ite ok.unfoldHere
  · exact ok.retire

theorem State.memOk.execVshfl {o} {s : State} (ok : s.memOk) : (execVshfl o s).memOk := ok.xlane
theorem State.memOk.execVbal {o} {s : State} (ok : s.memOk) : (execVbal o s).memOk := ok.xlane
theorem State.memOk.execVcnt {o} {s : State} (ok : s.memOk) : (execVcnt o s).memOk := ok.xlane

theorem State.memOk.voteAll {i o f} {s : State} (ok : s.memOk) : (voteAll i o f s).memOk := by
  unfold Machine.voteAll
  refine ok.issue (fun _ _ _ => ?_)
  split
  · exact ok.predRange
  · exact ok.retire

theorem State.memOk.execVany {o} {s : State} (ok : s.memOk) : (execVany o s).memOk := ok.voteAll
theorem State.memOk.execVall {o} {s : State} (ok : s.memOk) : (execVall o s).memOk := ok.voteAll
theorem State.memOk.execVmatch {o} {s : State} (ok : s.memOk) : (execVmatch o s).memOk := ok.xlane
theorem State.memOk.execVred {o} {s : State} (ok : s.memOk) : (execVred o s).memOk := ok.xlane

theorem State.memOk.exec {i} {s : State} (ok : s.memOk) : Out.memOk (exec i s) :=
  match i with
  | .nop => ok.execNop
  | .sadd _ => ok.execSadd
  | .ssub _ => ok.execSsub
  | .smul _ => ok.execSmul
  | .smulh _ => ok.execSmulh
  | .smin _ => ok.execSmin
  | .smax _ => ok.execSmax
  | .sdiv _ => ok.execSdiv
  | .srem _ => ok.execSrem
  | .sand _ => ok.execSand
  | .sor _ => ok.execSor
  | .sxor _ => ok.execSxor
  | .sshl _ => ok.execSshl
  | .sshr _ => ok.execSshr
  | .ssar _ => ok.execSsar
  | .srot _ => ok.execSrot
  | .sclz _ => ok.execSclz
  | .spop _ => ok.execSpop
  | .sbrev _ => ok.execSbrev
  | .sbfx _ => ok.execSbfx
  | .sbfi _ => ok.execSbfi
  | .smov _ => ok.execSmov
  | .ssel _ => ok.execSsel
  | .scmp _ _ => ok.execScmp
  | .sli _ => ok.execSli
  | .slhi _ => ok.execSlhi
  | .saddImm _ => ok.execSaddImm
  | .smulImm _ => ok.execSmulImm
  | .sminI32Imm _ => ok.execSminI32Imm
  | .smaxI32Imm _ => ok.execSmaxI32Imm
  | .sminN32Imm _ => ok.execSminN32Imm
  | .smaxN32Imm _ => ok.execSmaxN32Imm
  | .sandImm _ => ok.execSandImm
  | .sorImm _ => ok.execSorImm
  | .sxorImm _ => ok.execSxorImm
  | .sshlImm _ => ok.execSshlImm
  | .sshrImm _ => ok.execSshrImm
  | .ssarImm _ => ok.execSsarImm
  | .srotImm _ => ok.execSrotImm
  | .scmpImm _ _ _ => ok.execScmpImm
  | .bra _ => ok.execBra
  | .bz _ _ => ok.execBz
  | .bnz _ _ => ok.execBnz
  | .call _ _ => ok.execCall
  | .vbr _ _ _ => ok.execVbr
  | .brx _ => ok.execBrx
  | .callx _ _ => ok.execCallx
  | .ret => ok.execRet
  | .vjoin => ok.execVjoin
  | .exit => ok.execExit
  | .yield => ok.execYield
  | .dwait _ => ok.execDwait
  | .unfold => ok.execUnfold
  | .rinfo _ => ok.execRinfo
  | .part _ _ => ok.execPart
  | .spawn _ _ _ _ => ok.execSpawn
  | .fold _ _ _ _ => ok.execFold
  | .vadd _ => ok.execVadd
  | .vsub _ => ok.execVsub
  | .vsadd _ => ok.execVsadd
  | .vssub _ => ok.execVssub
  | .vabsd _ => ok.execVabsd
  | .vmin _ => ok.execVmin
  | .vmax _ => ok.execVmax
  | .vabs _ => ok.execVabs
  | .vneg _ => ok.execVneg
  | .vmul _ => ok.execVmul
  | .vmulh _ => ok.execVmulh
  | .vmad _ => ok.execVmad
  | .vand _ => ok.execVand
  | .vor _ => ok.execVor
  | .vxor _ => ok.execVxor
  | .vandn _ => ok.execVandn
  | .vlop3 _ => ok.execVlop3
  | .vshl _ => ok.execVshl
  | .vshr _ => ok.execVshr
  | .vsar _ => ok.execVsar
  | .vrot _ => ok.execVrot
  | .vclz _ => ok.execVclz
  | .vctz _ => ok.execVctz
  | .vpop _ => ok.execVpop
  | .vbrev _ => ok.execVbrev
  | .vbfx _ => ok.execVbfx
  | .vbfi _ => ok.execVbfi
  | .vpdep _ => ok.execVpdep
  | .vpext _ => ok.execVpext
  | .vbperm _ => ok.execVbperm
  | .vgfmat _ => ok.execVgfmat
  | .vaddImm _ => ok.execVaddImm
  | .vsubImm _ => ok.execVsubImm
  | .vsaddImm _ => ok.execVsaddImm
  | .vssubImm _ => ok.execVssubImm
  | .vabsdImm _ => ok.execVabsdImm
  | .vminImm _ => ok.execVminImm
  | .vmaxImm _ => ok.execVmaxImm
  | .vmulImm _ => ok.execVmulImm
  | .vandImm _ => ok.execVandImm
  | .vorImm _ => ok.execVorImm
  | .vxorImm _ => ok.execVxorImm
  | .vandnImm _ => ok.execVandnImm
  | .vshlImm _ => ok.execVshlImm
  | .vshrImm _ => ok.execVshrImm
  | .vsarImm _ => ok.execVsarImm
  | .vrotImm _ => ok.execVrotImm
  | .vfaddImm _ => ok.execVfaddImm
  | .vfmulImm _ => ok.execVfmulImm
  | .vfminImm _ => ok.execVfminImm
  | .vfmaxImm _ => ok.execVfmaxImm
  | .vmovImm _ => ok.execVmovImm
  | .vfadd _ => ok.execVfadd
  | .vfmul _ => ok.execVfmul
  | .vfma _ => ok.execVfma
  | .vfmin _ => ok.execVfmin
  | .vfmax _ => ok.execVfmax
  | .vfclass _ => ok.execVfclass
  | .vfrnd _ => ok.execVfrnd
  | .vfscale _ => ok.execVfscale
  | .vfrcp _ => ok.execVfrcp
  | .vfrsq _ => ok.execVfrsq
  | .vfsqrt _ => ok.execVfsqrt
  | .vfdiv _ => ok.execVfdiv
  | .vfexp2 _ => ok.execVfexp2
  | .vflog2 _ => ok.execVflog2
  | .vfsinp _ => ok.execVfsinp
  | .vfcosp _ => ok.execVfcosp
  | .vicmp _ => ok.execVicmp
  | .vfcmp _ => ok.execVfcmp
  | .vpand _ => ok.execVpand
  | .vpor _ => ok.execVpor
  | .vpxor _ => ok.execVpxor
  | .vpnot _ => ok.execVpnot
  | .vpmov _ => ok.execVpmov
  | .vsetp _ => ok.execVsetp
  | .vcvt _ => ok.execVcvt
  | .vpack _ => ok.execVpack
  | .vunpack _ => ok.execVunpack
  | .vmov _ => ok.execVmov
  | .vsel _ => ok.execVsel
  | .vbcast _ => ok.execVbcast
  | .vidx _ => ok.execVidx
  | .vshfl _ => ok.execVshfl
  | .vbal _ => ok.execVbal
  | .vany _ => ok.execVany
  | .vall _ => ok.execVall
  | .vcnt _ => ok.execVcnt
  | .vmatch _ => ok.execVmatch
  | .vred _ => ok.execVred
  | .vld _ => ok.execVld
  | .vldu _ => ok.execVldu
  | .vgath _ => ok.execVgath
  | .vgathMt _ => ok.execVgathMt
  | .vst _ => ok.execVst
  | .vscat _ => ok.execVscat
  | .sld _ => ok.execSld
  | .sst _ => ok.execSst
  | .pref _ => ok.execPref
  | .vatomAdd _ => ok.execVatomAdd
  | .vatomMin _ => ok.execVatomMin
  | .vatomMax _ => ok.execVatomMax
  | .vatomAnd _ => ok.execVatomAnd
  | .vatomOr _ => ok.execVatomOr
  | .vatomXor _ => ok.execVatomXor
  | .vatomExch _ => ok.execVatomExch
  | .vatomCas _ => ok.execVatomCas
  | .satomAdd _ => ok.execSatomAdd
  | .satomMin _ => ok.execSatomMin
  | .satomMax _ => ok.execSatomMax
  | .satomAnd _ => ok.execSatomAnd
  | .satomOr _ => ok.execSatomOr
  | .satomXor _ => ok.execSatomXor
  | .satomExch _ => ok.execSatomExch
  | .satomCas _ => ok.execSatomCas
  | .fence _ _ => ok.execFence
  | .fencex => ok.execFencex
  | .bari _ _ => ok.execBari
  | .bara _ _ => ok.execBara
  | .barw _ _ => ok.execBarw
  | .barx _ _ => ok.execBarx
  | .bclose _ => ok.execBclose
  | .bwait _ => ok.execBwait
  | .cflush _ => ok.execCflush
  | .cinv _ => ok.execCinv
  | .cclean _ => ok.execCclean
  | .wqpop _ => ok.execWqpop
  | .wqpush _ => ok.execWqpush
  | .evwait _ => ok.execEvwait
  | .macq _ _ _ => ok.execMacq
  | .mrel _ _ => ok.execMrel
  | .mrelF _ _ => ok.execMrelF
  | .mzero _ _ => ok.execMzero
  | .mmul _ _ _ _ _ _ _ _ => ok.execMmul
  | .mrd _ _ _ _ _ _ _ => ok.execMrd
  | .mwr _ _ _ _ _ => ok.execMwr
  | .mld _ _ _ _ _ _ _ _ => ok.execMld
  | .mst _ _ _ _ _ _ => ok.execMst
  | .hld _ _ _ _ _ => ok.execHld
  | .hst _ _ _ => ok.execHst
  | .hset _ _ _ => ok.execHset
  | .hget _ _ _ => ok.execHget
  | .cpyt _ => ok.execCpyt
  | .cpyl _ _ _ => ok.execCpyl
  | .gath _ => ok.execGath
  | .coll _ => ok.execColl
  | .qfence _ _ => ok.execQfence
  | .fwait _ => ok.execFwait
  | .ftest _ _ => ok.execFtest
  | .fcancel _ => ok.execFcancel
  | .glaunch _ _ _ => ok.execGlaunch
  | .gcancel _ _ => ok.execGcancel
  | .gwait _ _ => ok.execGwait
  | .gwaitAll _ => ok.execGwaitAll
  | .trap _ => ok.execTrap
  | .tret => ok.execTret
  | .tesc => ok.execTesc
  | .halt => ok.execHalt
  | .sget _ _ => ok.execSget
  | .sset _ _ => ok.execSset
  | .tlbinv _ _ _ _ => ok.execTlbinv
  | .own _ _ _ _ => ok.execOwn
  | .issueCycle _ => ok.execIssueCycle
  | .longLatencyComplete _ _ _ => ok.execLongLatencyComplete
  | .futureComplete _ _ => ok.execFutureComplete
  | .swap _ _ => ok.execSwap
  | .watchdogExpiry _ _ => ok.execWatchdogExpiry
  | .piecePlace _ => ok.execPiecePlace
  | .barwPieceHandoff _ _ => ok.execBarwPieceHandoff
  | .foldHoldExpiry _ _ => ok.execFoldHoldExpiry
  | .foldMerge _ _ _ => ok.execFoldMerge
  | .binTimerExpiry _ _ => ok.execBinTimerExpiry
  | .compaction _ => ok.execCompaction
  | .capacityReport _ _ _ => ok.execCapacityReport
  | .dealRound _ _ => ok.execDealRound
  | .rangeReceipt _ _ _ _ => ok.execRangeReceipt
  | .launchRecordCheck _ => ok.execLaunchRecordCheck
  | .podLaunchAck _ _ => ok.execPodLaunchAck
  | .podAckTimeout _ _ => ok.execPodAckTimeout
  | .teamRetire _ _ _ => ok.execTeamRetire
  | .completionReport _ _ _ _ _ => ok.execCompletionReport
  | .gridComplete _ => ok.execGridComplete
  | .gridCancel _ => ok.execGridCancel
  | .rootFailover _ => ok.execRootFailover
  | .reDeal _ _ => ok.execReDeal
  | .walk _ _ _ => ok.execWalk
  | .dirtyBitWalk _ _ _ => ok.execDirtyBitWalk
  | .invalidationComplete _ => ok.execInvalidationComplete
  | .invalWalkRestart _ => ok.execInvalWalkRestart
  | .flipComplete _ => ok.execFlipComplete
  | .rds _ _ => ok.execRds
  | .rdx _ _ => ok.execRdx
  | .upg _ _ => ok.execUpg
  | .wbd _ _ => ok.execWbd
  | .evc _ _ => ok.execEvc
  | .engineRead _ _ => ok.execEngineRead
  | .recall _ => ok.execRecall
  | .forwardReceipt _ _ => ok.execForwardReceipt
  | .grantReceipt _ _ => ok.execGrantReceipt
  | .homeAtomic _ => ok.execHomeAtomic
  | .uncachedAccess _ => ok.execUncachedAccess
  | .directoryEviction _ => ok.execDirectoryEviction
  | .filterEviction _ => ok.execFilterEviction
  | .snpInv _ => ok.execSnpInv
  | .snpData _ => ok.execSnpData
  | .snpCur _ => ok.execSnpCur
  | .hostAccess _ => ok.execHostAccess
  | .registerSpaceAnswer _ _ => ok.execRegisterSpaceAnswer
  | .storageCompletion _ _ _ => ok.execStorageCompletion
  | .inboundRequest _ _ _ _ _ => ok.execInboundRequest
  | .peerAccess _ => ok.execPeerAccess
  | .peerReply _ _ _ => ok.execPeerReply
  | .releaseComplete _ => ok.execReleaseComplete
  | .tasterCheck _ => ok.execTasterCheck
  | .epochClose _ => ok.execEpochClose
  | .epochCompare _ _ => ok.execEpochCompare
  | .epochTimeout _ _ => ok.execEpochTimeout
  | .flitReceipt _ _ => ok.execFlitReceipt
  | .retryRequest _ _ => ok.execRetryRequest
  | .uncorrectableFlit _ _ _ _ _ _ => ok.execUncorrectableFlit
  | .linkDown _ _ => ok.execLinkDown
  | .barrierArrivalCount _ => ok.execBarrierArrivalCount
  | .evwaitTimeout _ _ => ok.execEvwaitTimeout
  | .commandStart _ => ok.execCommandStart
  | .commandComplete _ => ok.execCommandComplete
  | .engineFaultDelivery _ _ => ok.execEngineFaultDelivery
  | .passFormation _ => ok.execPassFormation
  | .aStagingComplete _ _ => ok.execAStagingComplete
  | .bFetchComplete _ => ok.execBFetchComplete
  | .passLeavesArray _ => ok.execPassLeavesArray
  | .trapEntry _ _ => ok.execTrapEntry
  | .deferredTrap _ _ => ok.execDeferredTrap
  | .dispositionResume _ _ => ok.execDispositionResume
  | .dispositionEnd _ _ => ok.execDispositionEnd
  | .dispositionCancel _ _ => ok.execDispositionCancel
  | .breakpointHit _ _ _ => ok.execBreakpointHit
  | .singleStep _ _ => ok.execSingleStep
  | .preemptionRequest _ _ => ok.execPreemptionRequest
  | .coreHalted _ => ok.execCoreHalted
  | .contextSave _ => ok.execContextSave
  | .contextRestore _ _ => ok.execContextRestore
  | .scrubStart _ => ok.execScrubStart
  | .scrubPerform => ok.execScrubPerform
  | .quarantineClear => ok.execQuarantineClear
  | .packageColdReset => State.memOk.execPackageColdReset
  | .packageWarmReset => ok.execPackageWarmReset
  | .computeDieReset _ => ok.execComputeDieReset
  | .firmwareRestart => ok.execFirmwareRestart
  | .bringup _ _ => ok.execBringup
  | .dieBringup _ _ _ => ok.execDieBringup
  | .clockChange _ => ok.execClockChange
  | .thermalLimit => ok.execThermalLimit
  | .thermalClearTimeout => ok.execThermalClearTimeout
  | .clusterGate _ => ok.execClusterGate
  | .clusterWake _ => ok.execClusterWake
  | .dieGate _ => ok.execDieGate
  | .dieWake _ => ok.execDieWake
  | .launchWindowSeal _ _ _ => ok.execLaunchWindowSeal
  | .windowRecordAccept _ => ok.execWindowRecordAccept
  | .submit _ _ => ok.execSubmit
  | .instatClear _ => ok.execInstatClear
  | .doorbellAccept _ => ok.execDoorbellAccept
  | .semRead _ _ => ok.execSemRead
  | .semWrite _ _ _ => ok.execSemWrite
  | .cancelPacket _ => ok.execCancelPacket
  | .ownPacket _ => ok.execOwnPacket
  | .invalPacket _ => ok.execInvalPacket
  | .waitPacket _ => ok.execWaitPacket
  | .signalPacket _ => ok.execSignalPacket
  | .fencePacket _ => ok.execFencePacket
  | .copyPacket _ => ok.execCopyPacket
  | .feedPacket _ => ok.execFeedPacket
  | .launchPacket _ => ok.execLaunchPacket
  | .predPacket _ => ok.execPredPacket
  | .packetComplete _ => ok.execPacketComplete
  | .queueRingFault _ _ => ok.execQueueRingFault
  | .journalAccept _ => ok.execJournalAccept
  | .eventWrite _ _ => ok.execEventWrite
  | .queueDescriptorWrite _ _ _ _ => ok.execQueueDescriptorWrite
  | .workQueueDescriptorWrite _ _ _ _ => ok.execWorkQueueDescriptorWrite
  | .streamWrite _ _ _ => ok.execStreamWrite
  | .streamResync _ _ => ok.execStreamResync
  | .streamGapTimeout _ => ok.execStreamGapTimeout
  | .handleInstall _ _ => ok.execHandleInstall
  | .installReply _ _ => ok.execInstallReply
  | .handleUninstall _ => ok.execHandleUninstall
  | .slotDrained _ => ok.execSlotDrained
  | .packageLoss _ => ok.execPackageLoss
  | .heartbeatMiss _ => ok.execHeartbeatMiss
  | .mapEpochInstall _ _ => ok.execMapEpochInstall
  | .haltResume _ _ => ok.execHaltResume
  | .haltEnd _ _ => ok.execHaltEnd
  | .tbaseWrite _ _ => ok.execTbaseWrite
  | .estatResume _ => ok.execEstatResume
  | .eictlWrite _ _ => ok.execEictlWrite
  | .prefetchCounterClear _ _ => ok.execPrefetchCounterClear
  | .ckstatClear _ => ok.execCkstatClear
  | .unclmClear _ => ok.execUnclmClear
  | .unclaimedAccess _ w => ok.execUnclaimedAccess (x := w)
  | .registerWrite _ _ _ => ok.execRegisterWrite
  | .pcSample _ => ok.execPcSample
  | .traceLoss _ => ok.execTraceLoss
  | .deadlockScan => ok.execDeadlockScan
  | .cxlHostResponse _ _ => ok.execCxlHostResponse
  | .memoryControllerAcceptance _ _ => ok.execMemoryControllerAcceptance
  | .evwaitReread _ _ => ok.execEvwaitReread
  | .workQueueUnitArrival => ok.execWorkQueueUnitArrival
  | .injectedDelayExpiry _ => ok.execInjectedDelayExpiry
  | .ownerInstallCheck _ _ _ => ok.execOwnerInstallCheck
  | .hostDecoderChange _ => ok.execHostDecoderChange
  | .storageLinkChange _ _ _ _ => ok.execStorageLinkChange
  | .signedImageUpload _ => ok.execSignedImageUpload

theorem State.memOk.step {s : State} (ok : s.memOk) : Out.memOk (step s) := by
  unfold Machine.step
  split
  · split
    next e =>
      refine State.memOk.exec ?_
      refine Fetched.memOk.of_eq ?_ e
      exact State.memOk.turnOf (ok.of_eq rfl rfl rfl)
    next e =>
      show State.memOk _
      refine Fetched.memOk.of_eq ?_ e
      exact State.memOk.turnOf (ok.of_eq rfl rfl rfl)
  · split
    · exact State.memOk.runEvent (ok.of_eq rfl rfl rfl)
    · split <;> exact State.memOk.exec (ok.of_eq rfl rfl rfl)

/-- Settles O7: of everything a step may run, each part keeps the memories canonical. -/
theorem stepKeepsMemoryCanonical : Obligations.StepKeepsMemoryCanonical := by
  unfold Obligations.StepKeepsMemoryCanonical
  exact fun s t ok e => Out.memOk.of_eq ok.step e

end Sys2Proof.Machine
end

-- ==== Sys2Proof/Proofs/ResetMemory.lean ====

section
set_option Elab.async false
namespace Sys2Proof.Machine

/-- Settles O6: after reset no memory lists a byte, and no core is listed. -/
theorem resetMemoryCanonical : Obligations.ResetMemoryCanonical := by
  unfold Obligations.ResetMemoryCanonical
  exact ⟨rfl, rfl, fun _ listed => absurd listed List.not_mem_nil⟩

end Sys2Proof.Machine
end

-- ==== Sys2Proof/Proofs/BringUpAndPower.lean ====

section
set_option Elab.async false
namespace Sys2Proof.Machine

open Sys2Proof.Claims (DieTurn CanGate)

@[simp] theorem State.die_push (s : State) (is : List Event) (d : Nat) : (s.push is).die d = s.die d := rfl
@[simp] theorem State.core_push (s : State) (is : List Event) (g : Nat) : (s.push is).core g = s.core g := rfl
@[simp] theorem State.cluster_push (s : State) (is : List Event) (x : Nat) : (s.push is).cluster x = s.cluster x := rfl
@[simp] theorem State.core_updDie (s : State) (d : Nat) (f : Die → Die) (g : Nat) : (s.updDie d f).core g = s.core g := rfl
@[simp] theorem State.cluster_updDie (s : State) (d : Nat) (f : Die → Die) (x : Nat) : (s.updDie d f).cluster x = s.cluster x := rfl

/-! ## Changing several cores or dies alike -/

/-- One change made to several cores reaches those and no other. -/
theorem State.core_foldl_updCore (f : Core → Core) {gs : List Nat} (nd : gs.Nodup) (s : State) (k : Nat) :
    (gs.foldl (fun s g => s.updCore g f) s).core k = if k ∈ gs then f (s.core k) else s.core k := by
  induction gs generalizing s with
  | nil => rfl
  | cons g gs ih =>
    obtain ⟨out, nd⟩ := List.nodup_cons.1 nd
    rw [List.foldl_cons, ih nd]
    by_cases e : k = g
    · subst e; simp [out]
    · simp [e, State.updCore_core_ne s g k f e]

theorem State.foldl_updCore_eq (f : Core → Core) (gs : List Nat) (s : State) :
    ∃ cs, gs.foldl (fun s g => s.updCore g f) s = { s with cores := cs } := by
  induction gs generalizing s with
  | nil => exact ⟨s.cores, rfl⟩
  | cons g gs ih => exact ih (s.updCore g f)

/-- One change made to several dies reaches those and no other. -/
theorem State.die_foldl_updDie (f : Die → Die) {ds : List Nat} (nd : ds.Nodup) (s : State) (k : Nat) :
    (ds.foldl (fun s d => s.updDie d f) s).die k = if k ∈ ds then f (s.die k) else s.die k := by
  induction ds generalizing s with
  | nil => rfl
  | cons d ds ih =>
    obtain ⟨out, nd⟩ := List.nodup_cons.1 nd
    rw [List.foldl_cons, ih nd]
    by_cases e : k = d
    · subst e; simp [out]
    · simp [e, State.updDie_die_ne s d k f e]

theorem State.foldl_updDie_eq (f : Die → Die) (ds : List Nat) (s : State) :
    ∃ xs, ds.foldl (fun s d => s.updDie d f) s = { s with dies := xs } := by
  induction ds generalizing s with
  | nil => exact ⟨s.dies, rfl⟩
  | cons d ds ih => exact ih (s.updDie d f)

theorem nodup_cluCores (x : Nat) : (cluCores x).Nodup :=
  List.Nodup.map (fun _ _ e => by omega) List.nodup_range

theorem mem_cluCores {x g : Nat} : g ∈ cluCores x ↔ ∃ k < 4, 4 * x + k = g := by simp [cluCores]

/-! ## Bring-up of the package (R505, R12) -/

theorem ddrCapacity_replicate {m : Nat} (h : m ∈ [64, 128, 256]) : ddrCapacity (List.replicate 16 m) = 16 * m := by
  have allowed : m = 64 ∨ m = 128 ∨ m = 256 := by simpa using h
  rcases allowed with rfl | rfl | rfl <;> rfl

/-- Sixteen modules of one of the three sizes are the only population that gives a tier (R12). -/
theorem ddrCapacity_eq_zero {modules : List Nat} (h : ∀ m ∈ [64, 128, 256], modules ≠ List.replicate 16 m) :
    ddrCapacity modules = 0 := by
  cases modules with
  | nil => rfl
  | cons m rest =>
    refine if_neg fun ⟨sixteen, same, allowed⟩ => h m (by simpa using allowed) (List.eq_replicate_iff.2 ⟨sixteen, ?_⟩)
    simpa using same

theorem execBringup_skip {s : State} {k : Nat} (ok : Bool) (h : s.ctl.bootFailed = true ∨ k ≠ s.ctl.bootStep + 1) :
    execBringup k ok s = .next s := if_pos h

section
variable {s : State} {k : Nat} (up : s.ctl.bootFailed = false) (turn : k = s.ctl.bootStep + 1) (ok : Bool)
include up turn

theorem bringup_in_turn : ¬(s.ctl.bootFailed = true ∨ k ≠ s.ctl.bootStep + 1) :=
  fun h => h.elim (by simp [up]) (· turn)

theorem execBringup_rom (first : k = 1) : execBringup k ok s =
    .next (s.updCtl (fun c => if ok then { c with bootStep := 1 } else { c with bootFailed := true })) := by
  subst first; exact if_neg (bringup_in_turn up turn)

theorem execBringup_firmware (second : k = 2) : execBringup k ok s =
    .next (s.updCtl (fun c => if ok then { c with bootStep := 2, firmwareUp := true, ddrGiB := ddrCapacity Config.ddrModules }
      else { c with bootFailed := true })) := by
  subst second; exact if_neg (bringup_in_turn up turn)

theorem execBringup_cxl (third : k = 3) : execBringup k ok s =
    .next (s.updCtl (fun c => { c with cxl := c.cxl ++ [ok], bootStep := if 4 ≤ c.cxl.length + 1 then 3 else 2 })) := by
  subst third; exact if_neg (bringup_in_turn up turn)

end

/-! ## Bring-up of a die (R506 to R508) -/

theorem State.bootProgress_eq (s : State) : ∃ c, s.bootProgress = { s with ctl := c } := by
  unfold State.bootProgress State.setRate
  extract_lets ds on more st s1
  split
  · exact ⟨_, rfl⟩
  · split <;> exact ⟨_, rfl⟩

@[simp] theorem State.bootProgress_mem (s : State) : s.bootProgress.mem = s.mem := by
  obtain ⟨_, e⟩ := s.bootProgress_eq; rw [e]
@[simp] theorem State.bootProgress_cores (s : State) : s.bootProgress.cores = s.cores := by
  obtain ⟨_, e⟩ := s.bootProgress_eq; rw [e]
@[simp] theorem State.bootProgress_clusters (s : State) : s.bootProgress.clusters = s.clusters := by
  obtain ⟨_, e⟩ := s.bootProgress_eq; rw [e]
@[simp] theorem State.bootProgress_die (s : State) (k : Nat) : s.bootProgress.die k = s.die k := by
  obtain ⟨_, e⟩ := s.bootProgress_eq; rw [e]; rfl
@[simp] theorem State.bootProgress_core (s : State) (k : Nat) : s.bootProgress.core k = s.core k := by
  simp [State.core]
@[simp] theorem State.bootProgress_cluster (s : State) (k : Nat) : s.bootProgress.cluster k = s.cluster k := by
  simp [State.cluster]

/-- No die below is still to come up, or the die has been reset by itself (R505, R508). -/
def State.dieFree (s : State) (d : Nat) : Bool :=
  (s.die d).resetting || (List.range d).all (fun k => (s.die k).online || (s.die k).failed || (s.die k).resetting)

theorem dieTurn_iff {s : State} {d : Nat} : DieTurn s d ↔ d < 8 ∧ 3 ≤ s.ctl.bootStep ∧ (s.die d).online = false
    ∧ (s.die d).failed = false ∧ s.dieFree d = true := by
  simp [DieTurn, State.dieFree, or_assoc]

theorem dieBringup_waits_iff {s : State} {d k : Nat} :
    (8 ≤ d ∨ s.ctl.bootStep < 3 ∨ (s.die d).online = true ∨ (s.die d).failed = true ∨ (!s.dieFree d) = true
      ∨ k ≠ (s.die d).step_ + 1 ∨ 11 < k) ↔ (¬DieTurn s d ∨ k ≠ (s.die d).step_ + 1 ∨ 11 < k) := by
  simp only [dieTurn_iff, not_and_or, Nat.not_lt, Nat.not_le, Bool.not_eq_false, Bool.not_eq_true', Bool.not_eq_true, or_assoc]

theorem execDieBringup_skip {s : State} {d k : Nat} (ok : Bool) (h : ¬DieTurn s d ∨ k ≠ (s.die d).step_ + 1 ∨ 11 < k) :
    execDieBringup d k ok s = .next s := if_pos (dieBringup_waits_iff.2 h)

section
variable {s : State} {d k : Nat} (turn : DieTurn s d) (next : k = (s.die d).step_ + 1) (last : k ≤ 11)
include turn next last

theorem execDieBringup_turn (ok : Bool) : execDieBringup d k ok s =
      if ok then .next (s.dieStep d k) else .next (s.updDie d (fun x => { x with failed := true })).bootProgress :=
  if_neg fun h => (dieBringup_waits_iff.1 h).elim (· turn) (·.elim (· next) (Nat.not_lt.2 last))

end

/-- The dies to which a die trains a link (R506). -/
def State.linksOf (s : State) (d : Nat) : List Nat := 8 :: (List.range 8).filter (fun k => linkExists d k && (s.die k).online)

theorem linkExists_symm {a b : Nat} (h : linkExists a b = true) : linkExists b a = true := by
  unfold linkExists at h ⊢
  split at h
  next ctl =>
    rw [if_pos (Or.symm ctl)]
    simp only [Bool.and_eq_true, bne_iff_ne, decide_eq_true_eq] at h ⊢
    obtain ⟨⟨ne, ha⟩, hb⟩ := h
    exact ⟨⟨ne.symm, hb⟩, ha⟩
  next ring =>
    rw [if_neg (fun ctl => ring (Or.symm ctl))]
    simp only [Bool.and_eq_true, decide_eq_true_eq] at h ⊢
    obtain ⟨⟨ha, hb⟩, near⟩ := h
    refine ⟨⟨hb, ha⟩, ?_⟩
    have symm : ∀ a < 8, ∀ b < 8, [1, 4, 7].contains ((b + 8 - a) % 8) = true → [1, 4, 7].contains ((a + 8 - b) % 8) = true := by
      decide
    exact symm a ha b hb near

theorem not_linkExists_self (d : Nat) : linkExists d d = false := by
  unfold linkExists
  split
  · simp
  · simp

theorem State.mem_linksOf {s : State} {d k : Nat} : k ∈ s.linksOf d ↔ k = 8 ∨ k < 8 ∧ linkExists d k = true ∧ (s.die k).online = true := by
  simp [State.linksOf]

theorem State.nodup_linksOf (s : State) (d : Nat) : (s.linksOf d).Nodup :=
  List.nodup_cons.2 ⟨by simp, List.nodup_range.filter _⟩

theorem State.not_mem_linksOf_self {s : State} {d : Nat} (h : d < 8) : d ∉ s.linksOf d := by
  rw [State.mem_linksOf, not_linkExists_self]
  simp; omega

@[simp] theorem State.trainLinks_mem (s : State) (d : Nat) : (s.trainLinks d).mem = s.mem := by
  obtain ⟨xs, e⟩ := State.foldl_updDie_eq (fun x => { x with links := x.links.filter (· != d) ++ [d] }) (s.linksOf d) s
  exact (congrArg State.mem e :)

theorem State.die_trainLinks_self {s : State} {d : Nat} (h : d < 8) :
    (s.trainLinks d).die d = { s.die d with links := s.linksOf d } := by
  refine (State.updDie_die_self _ _ _).trans (congrArg (fun x : Die => { x with links := s.linksOf d }) ?_)
  exact (State.die_foldl_updDie _ (s.nodup_linksOf d) s d).trans (if_neg (State.not_mem_linksOf_self h))

theorem State.die_trainLinks_of_mem {s : State} {d k : Nat} (h : d < 8) (far : k ∈ s.linksOf d) :
    (s.trainLinks d).die k = { s.die k with links := (s.die k).links.filter (· != d) ++ [d] } := by
  have other : k ≠ d := fun e => State.not_mem_linksOf_self h (e ▸ far)
  exact (State.updDie_die_ne _ _ _ _ other).trans ((State.die_foldl_updDie _ (s.nodup_linksOf d) s k).trans (if_pos far))

/-- A die that trains has its links in both directions (R506). -/
theorem State.linkUp_trainLinks {s : State} {d k : Nat} (h : d < 8) (far : k ∈ s.linksOf d) (link : linkExists d k = true) :
    (s.trainLinks d).linkUp d k = true ∧ (s.trainLinks d).linkUp k d = true := by
  simp only [State.linkUp, State.die_trainLinks_self h, State.die_trainLinks_of_mem h far, link, linkExists_symm link]
  simp [far]

theorem State.powerCluster_eq (s : State) (x : Nat) : ∃ cs xs, s.powerCluster x = { s with cores := cs, clusters := xs } := by
  obtain ⟨cs, e⟩ := State.foldl_updCore_eq (fun c => { c with l1Banks := 0, spmBanks := 0, spm := [] }) (cluCores x)
    (s.updCluster x (fun c => { c with powered := true }))
  exact ⟨cs, _, e⟩

@[simp] theorem State.powerCluster_mem (s : State) (x : Nat) : (s.powerCluster x).mem = s.mem := by
  obtain ⟨_, _, e⟩ := s.powerCluster_eq x; rw [e]
@[simp] theorem State.powerCluster_die (s : State) (x k : Nat) : (s.powerCluster x).die k = s.die k := by
  obtain ⟨_, _, e⟩ := s.powerCluster_eq x; rw [e]; rfl

theorem State.core_powerCluster {s : State} {x k : Nat} (h : k < 4) : (s.powerCluster x).core (4 * x + k) =
    { s.core (4 * x + k) with l1Banks := 0, spmBanks := 0, spm := [] } :=
  (State.core_foldl_updCore _ (nodup_cluCores x) _ _).trans (if_pos (mem_cluCores.2 ⟨k, h, rfl⟩))

theorem State.cluster_powerCluster (s : State) (x : Nat) : (s.powerCluster x).cluster x = { s.cluster x with powered := true } := by
  obtain ⟨cs, e⟩ := State.foldl_updCore_eq (fun c => { c with l1Banks := 0, spmBanks := 0, spm := [] }) (cluCores x)
    (s.updCluster x (fun c => { c with powered := true }))
  exact (congrArg (State.cluster · x) e).trans (State.updCluster_cluster_self s x (fun c => { c with powered := true }))

/-- What a step of R506 comes to: its number is kept, then the rail, the links, nothing, a cluster, or the last cluster and the die. -/
theorem State.dieStep_rail (s : State) (d : Nat) :
    s.dieStep d 1 = (s.updDie d (fun x => { x with step_ := 1 })).updDie d (fun x => { x with powered := true }) := rfl

theorem State.dieStep_links (s : State) (d : Nat) : s.dieStep d 2 = (s.updDie d (fun x => { x with step_ := 2 })).trainLinks d := rfl

theorem State.dieStep_tier (s : State) (d : Nat) : s.dieStep d 3 = s.updDie d (fun x => { x with step_ := 3 }) := rfl

theorem State.dieStep_cluster {s : State} {d k : Nat} (h : 4 ≤ k) (l : k < 11) :
    s.dieStep d k = (s.updDie d (fun x => { x with step_ := k })).powerCluster (8 * d + (k - 4)) := by
  unfold State.dieStep
  extract_lets s1 s2
  rw [if_neg (by omega), if_neg (by omega), if_neg (by omega), if_pos l]

theorem State.dieStep_last (s : State) (d : Nat) : s.dieStep d 11 =
    ((((s.updDie d (fun x => { x with step_ := 11 })).powerCluster (8 * d + 7)).updDie d (fun x =>
      { x with online := true, resetting := false })).bootProgress).push ((List.range 8).map (fun x => Event.passFormation (8 * d + x))) := rfl

section
variable {s : State} {d k : Nat} (first : 1 ≤ k) (last : k ≤ 11)
include first last

theorem dieStep_rungs : k = 1 ∨ k = 2 ∨ k = 3 ∨ 4 ≤ k ∧ k < 11 ∨ k = 11 := by omega

/-- A step of R506 moves no byte, and the die keeps its number; only the last one puts the die online. -/
theorem State.die_dieStep (h : d < 8) (off : (s.die d).online = false) :
    (s.dieStep d k).mem = s.mem ∧ ((s.dieStep d k).die d).step_ = k ∧ ((s.dieStep d k).die d).online = decide (k = 11)
      ∧ (k = 11 → ((s.dieStep d k).die d).resetting = false) := by
  rcases dieStep_rungs first last with rfl | rfl | rfl | ⟨four, eleven⟩ | rfl
  · simp [State.dieStep_rail, off]
  · simp [State.dieStep_links, State.die_trainLinks_self h, off]
  · simp [State.dieStep_tier, off]
  · simp [State.dieStep_cluster four eleven, off]; omega
  · simp [State.dieStep_last]

/-- Steps 4 to 11 power a cluster on, its cores without a split (R102, R506). -/
theorem State.dieStep_powers (four : 4 ≤ k) :
    (s.dieStep d k).cluster (8 * d + (k - 4)) = { s.cluster (8 * d + (k - 4)) with powered := true }
    ∧ ∀ j < 4, (s.dieStep d k).core (4 * (8 * d + (k - 4)) + j) =
      { s.core (4 * (8 * d + (k - 4)) + j) with l1Banks := 0, spmBanks := 0, spm := [] } := by
  rcases Nat.lt_or_eq_of_le last with eleven | rfl
  · rw [State.dieStep_cluster four eleven]
    exact ⟨State.cluster_powerCluster _ _, fun j small => State.core_powerCluster small⟩
  · rw [State.dieStep_last]
    simp only [State.core_push, State.cluster_push, State.bootProgress_core, State.bootProgress_cluster, State.core_updDie,
      State.cluster_updDie]
    exact ⟨State.cluster_powerCluster _ _, fun j small => State.core_powerCluster small⟩

end

/-! ## The core clock (R508, R511) -/

theorem execThermalLimit_eq (s : State) : execThermalLimit s = .next { s with ctl := if s.ctl.thermal = true then s.ctl else
    { s.ctl with thermal := true, savedMHz := s.ctl.clockMHz, clockMHz := 1000 } } := by
  by_cases hot : s.ctl.thermal = true
  · simp only [execThermalLimit, hot, ↓reduceIte]
  · simp only [execThermalLimit, hot]; rfl

theorem execThermalClearTimeout_eq (s : State) : execThermalClearTimeout s = .next { s with ctl := if s.ctl.thermal = true then
    { s.ctl with thermal := false, clockMHz := s.ctl.savedMHz } else s.ctl } := by
  by_cases hot : s.ctl.thermal = true
  · simp only [execThermalClearTimeout, hot, ↓reduceIte]; rfl
  · simp only [execThermalClearTimeout, hot]; rfl

/-! ## Power gating (R101, R102, R510) -/

theorem State.quiescent_iff {s : State} {x : Nat} : s.quiescent x = true ↔ CanGate s x := by
  have apart : ∀ a : Agent, (!((cluCores x).any (fun g => a == .core g) || a == .fused x)) = true
      ↔ a ≠ .fused x ∧ ∀ k < 4, a ≠ .core (4 * x + k) := by
    intro a
    simp [cluCores, and_comm]
  simp only [State.quiescent, CanGate, Bool.and_eq_true, List.all_eq_true, apart]
  simp [mem_cluCores, and_assoc]

theorem execClusterGate_off {s : State} {x : Nat} (off : (s.cluster x).powered = false) : execClusterGate x s = .next s :=
  if_pos (by simp [off])

section
variable {s : State} {x : Nat} (on : (s.cluster x).powered = true)
include on

theorem execClusterGate_refused (held : ¬CanGate s x) :
    execClusterGate x s = .next { s with outbox := s.outbox ++ [.report 7 x 1] } := by
  rw [execClusterGate, if_neg (by simp [on]), if_pos (by simp [← Bool.not_eq_true, State.quiescent_iff, held])]
  rfl

/-- A gated cluster has no power, no pool and no translations; its cores' stores and TLBs are gone with it (R101). -/
theorem execClusterGate_gated (free : CanGate s x) : Reaches (execClusterGate x s) fun t => t.mem = s.mem ∧ t.outbox = s.outbox
    ∧ (t.cluster x).powered = false ∧ (t.cluster x).tiles = [] ∧ (t.cluster x).units = [] ∧ (t.cluster x).tlb = []
    ∧ ∀ k < 4, (t.core (4 * x + k)).spm = [] ∧ (t.core (4 * x + k)).tlb = [] := by
  rw [execClusterGate, if_neg (by simp [on]), if_neg (by simp [State.quiescent_iff, free])]
  obtain ⟨cs, e⟩ := State.foldl_updCore_eq (fun c => { c with
    l1Banks := 0, spmBanks := 0, spm := [], tlb := [], icache := [], ccache := [], misses := [] }) (cluCores x) s
  have cores := State.core_foldl_updCore (fun c => { c with
    l1Banks := 0, spmBanks := 0, spm := [], tlb := [], icache := [], ccache := [], misses := [] }) (nodup_cluCores x) s
  refine ⟨_, rfl, (congrArg State.mem e :), (congrArg State.outbox e :), ?_, ?_, ?_, ?_, fun k small => ?_⟩
  case refine_5 =>
    have mine := (cores (4 * x + k)).trans (if_pos (mem_cluCores.2 ⟨k, small, rfl⟩))
    exact ⟨congrArg Core.spm mine, congrArg Core.tlb mine⟩
  all_goals simp

end

theorem execClusterWake_skip {s : State} {x : Nat} (h : (s.cluster x).powered = true ∨ (s.die (x / 8)).powered = false) :
    execClusterWake x s = .next s := if_pos (h.imp_right (by simp [·]))

theorem execClusterWake_wakes {s : State} {x : Nat} (off : (s.cluster x).powered = false) (fed : (s.die (x / 8)).powered = true) :
    execClusterWake x s = .next (s.powerCluster x) := if_neg (by simp [off, fed])

/-- Nobody else needs a die: its clusters are gated, nobody holds a line that it homes, and no line of it is busy (R101). -/
def State.dieQuiet (s : State) (d : Nat) : Prop :=
  (∀ k < 8, (s.cluster (8 * d + k)).powered = false) ∧ (∀ e ∈ (s.die d).dir, e.2.holders = [])
    ∧ (∀ f ∈ s.ctl.filter, homeDie s (128 * f.1) = some d → f.2.dir.holders = []) ∧ (s.die d).busy = []

theorem dieGate_goes_iff {s : State} {d : Nat} : ((s.die d).online = true ∧ (s.die d).powered = true
      ∧ (List.range 8).all (fun k => !(s.cluster (8 * d + k)).powered) = true ∧ (s.die d).dir.all (fun e => e.2.holders.isEmpty) = true
      ∧ s.ctl.filter.all (fun f => homeDie s (128 * f.1) != some d || f.2.dir.holders.isEmpty) = true
      ∧ (s.die d).busy.isEmpty = true)
    ↔ (s.die d).online = true ∧ (s.die d).powered = true ∧ s.dieQuiet d := by
  simp [State.dieQuiet, ← imp_iff_not_or]

theorem execDieGate_gates {s : State} {d : Nat} (on : (s.die d).online = true) (fed : (s.die d).powered = true)
    (quiet : s.dieQuiet d) : execDieGate d s = .next (s.updDie d (fun x => { x with powered := false })) :=
  if_pos (dieGate_goes_iff.2 ⟨on, fed, quiet⟩)

theorem execDieGate_skip {s : State} {d : Nat} (h : (s.die d).online = false ∨ ¬s.dieQuiet d) : execDieGate d s = .next s := by
  refine if_neg fun goes => ?_
  obtain ⟨on, -, quiet⟩ := dieGate_goes_iff.1 goes
  exact h.elim (by simp [on]) (· quiet)

/-! ## The statement -/

/-- The step 2 of R505 starts the firmware, with the tier that the modules give (R12). -/
theorem execBringup_firmware_up {s : State} {k : Nat} (up : s.ctl.bootFailed = false) (turn : k = s.ctl.bootStep + 1) (second : k = 2) :
    Reaches (execBringup k true s) fun t => t.mem = s.mem ∧ t.cores = s.cores ∧ t.ctl.bootStep = 2 ∧ t.ctl.firmwareUp = true
      ∧ (∀ m, Config.ddrModules = List.replicate 16 m → m ∈ [64, 128, 256] → t.ctl.ddrGiB = 16 * m)
      ∧ ((∀ m ∈ [64, 128, 256], Config.ddrModules ≠ List.replicate 16 m) → t.ctl.ddrGiB = 0) :=
  ⟨_, execBringup_firmware up turn true second, rfl, rfl, rfl, rfl,
    fun _ same allowed => (congrArg ddrCapacity same).trans (ddrCapacity_replicate allowed), ddrCapacity_eq_zero⟩

section
variable {s : State} {d k : Nat} (turn : DieTurn s d) (next : k = (s.die d).step_ + 1) (last : k ≤ 11)
include turn next last

theorem execDieBringup_fails : Reaches (execDieBringup d k false s) fun t => t.mem = s.mem ∧ t.cores = s.cores
    ∧ t.clusters = s.clusters ∧ (t.die d).failed = true ∧ (t.die d).online = false :=
  ⟨_, execDieBringup_turn turn next last false, by simp [(dieTurn_iff.1 turn).2.2.1]⟩

theorem execDieBringup_succeeds : Reaches (execDieBringup d k true s) fun t => t.mem = s.mem ∧ (t.die d).step_ = k
    ∧ (k = 1 → (t.die d).powered = true) ∧ (k = 2 → t.linkUp d 8 = true ∧ t.linkUp 8 d = true
        ∧ ∀ j < 8, (s.die j).online = true → linkExists d j = true → t.linkUp d j = true ∧ t.linkUp j d = true)
    ∧ (4 ≤ k → (t.cluster (8 * d + (k - 4))).powered = true
        ∧ ∀ j < 4, (t.core (4 * (8 * d + (k - 4)) + j)).spm = [] ∧ (t.core (4 * (8 * d + (k - 4)) + j)).l1Banks = 0)
    ∧ (t.die d).online = decide (k = 11) ∧ (k = 11 → (t.die d).resetting = false) := by
  obtain ⟨real, -, off, -, -⟩ := dieTurn_iff.1 turn
  have first : 1 ≤ k := by omega
  obtain ⟨mem, step, online, reset⟩ := State.die_dieStep first last real off
  refine ⟨_, execDieBringup_turn turn next last true, mem, step, ?_, ?_, fun four => ?_, online, reset⟩
  · rintro rfl; simp [State.dieStep_rail]
  · rintro rfl
    have ctl : linkExists d 8 = true := by unfold linkExists; simp; omega
    have up := fun j far link => State.linkUp_trainLinks (s := s.updDie d (fun x => { x with step_ := 2 })) (k := j) real far link
    refine ⟨(up 8 (State.mem_linksOf.2 (.inl rfl)) ctl).1, (up 8 (State.mem_linksOf.2 (.inl rfl)) ctl).2, fun j small on link => ?_⟩
    have other : j ≠ d := fun e => by simp [e, off] at on
    exact up j (State.mem_linksOf.2 (.inr ⟨small, link, by rwa [State.updDie_die_ne _ _ _ _ other]⟩)) link
  · obtain ⟨clu, cores⟩ := State.dieStep_powers (s := s) (d := d) first last four
    exact ⟨congrArg Cluster.powered clu, fun j small =>
      ⟨congrArg Core.spm (cores j small), congrArg Core.l1Banks (cores j small)⟩⟩

end

theorem execClusterWake_woken {s : State} {x : Nat} (off : (s.cluster x).powered = false) (fed : (s.die (x / 8)).powered = true) :
    Reaches (execClusterWake x s) fun t => t.mem = s.mem ∧ (t.cluster x).powered = true
      ∧ ∀ k < 4, (t.core (4 * x + k)).spm = [] ∧ (t.core (4 * x + k)).l1Banks = 0 ∧ (t.core (4 * x + k)).spmBanks = 0 :=
  ⟨_, execClusterWake_wakes off fed, s.powerCluster_mem x, congrArg Cluster.powered (s.cluster_powerCluster x), fun _ small =>
    ⟨congrArg Core.spm (State.core_powerCluster small), congrArg Core.l1Banks (State.core_powerCluster small),
      congrArg Core.spmBanks (State.core_powerCluster small)⟩⟩

/-- Settles O57: each row of bring-up, the clock and power gating, by the lemmas above. -/
theorem bringUpAndPower : Obligations.BringUpAndPower := by
  unfold Obligations.BringUpAndPower
  intro s
  refine ⟨fun k ok => ⟨execBringup_skip ok, fun up turn => ⟨?_, ?_, ?_, ?_⟩⟩, ?_, fun d k => ⟨fun h ok => execDieBringup_skip ok h,
    fun turn next last => ⟨execDieBringup_fails turn next last, execDieBringup_succeeds turn next last⟩⟩, fun mhz => ⟨?_, ?_⟩,
    execThermalLimit_eq s, execThermalClearTimeout_eq s, fun x => ⟨execClusterGate_off, execClusterGate_refused,
      execClusterGate_gated, execClusterWake_skip, execClusterWake_woken⟩, fun d => ⟨fun on fed quiet => ?_, ?_, ?_, ?_⟩⟩
  · rintro (first | second) rfl
    · exact execBringup_rom up turn false first
    · exact execBringup_firmware up turn false second
  · rintro first rfl; exact execBringup_rom up turn true first
  · rintro second rfl; exact execBringup_firmware_up up turn second
  · intro third
    refine (execBringup_cxl up turn ok third).trans ?_
    simp only [Nat.succ_le_succ_iff]
    rfl
  · exact fun ok => (apply_ite Host.Outcome.next _ _ _).symm
  · intro slow fast; exact if_neg (by simp [slow, fast])
  · exact fun rate => if_pos rate
  · exact ⟨_, execDieGate_gates on fed quiet, rfl, State.updDie_die_self _ _ _⟩
  · exact fun busy => execDieGate_skip (.inr busy)
  · exact fun on => ⟨_, if_pos on, rfl, State.updDie_die_self _ _ _⟩
  · exact fun off => ⟨execDieGate_skip (.inl off), if_neg (by simp [off])⟩

end Sys2Proof.Machine
end

-- ==== Sys2Proof/Proofs/CoherenceFrame.lean ====

section
set_option Elab.async false
namespace Sys2Proof.Machine

/-! ## What coherence leaves alone (04 R79 to R99, 06 R151 to R172)

The caches, the homes and the checkers change the lines of the L1s, directory entries, records, clocks and reports. No byte of
memory, no holder, no scratchpad and no state of a link or of a die's bring-up is theirs (LOG 5). -/

/-- A core without its lines, its clock and its counters. -/
def Core.still (c : Core) : Core := { c with l1 := [], wbuf := [], lclock := 0, dbg := {} }

/-- A die without its homes, its checkers and its injector, and without the power that an access wakes (R510). -/
def Die.still (d : Die) : Die :=
  { d with powered := false, dir := [], msc := [], busy := [], checkers := [], closes := [], reread := [], eictl := 0 }

/-- The control die without the snoop filter, the reports and the clocks of the ports. -/
def Control.still (c : Control) : Control := { c with filter := [], reports := [], cxlClocks := [], links := [] }

/-- `t` differs from `s` in what coherence keeps, and in no byte. -/
structure CohFrame (s t : State) : Prop where
  mem : t.mem = s.mem
  ctl : t.ctl.still = s.ctl.still
  core : ∀ g, (t.core g).still = (s.core g).still
  die : ∀ d, (t.die d).still = (s.die d).still

/-- The state that an answer of a home carries. -/
def Coh.state : Coh → State
  | .ok s | .busy s | .poison _ s | .contain _ s => s

theorem CohFrame.refl (s : State) : CohFrame s s := ⟨rfl, rfl, fun _ => rfl, fun _ => rfl⟩

section
variable {s0 s t : State}

theorem CohFrame.slots (k : CohFrame s t) (g : Nat) : (t.core g).slots = (s.core g).slots := (congrArg Core.slots (k.core g) :)
theorem CohFrame.spm (k : CohFrame s t) (g : Nat) : (t.core g).spm = (s.core g).spm := (congrArg Core.spm (k.core g) :)
theorem CohFrame.window (k : CohFrame s t) : t.ctl.window = s.ctl.window := (congrArg Control.window k.ctl :)
theorem CohFrame.links (k : CohFrame s t) (d : Nat) : (t.die d).links = (s.die d).links := (congrArg Die.links (k.die d) :)

/-! ### Changes that stay inside the frame -/

/-- Whatever else of the state changes, the four parts of the frame are as they were. -/
theorem CohFrame.of_eq (k : CohFrame s0 s) (mem : t.mem = s.mem) (ctl : t.ctl = s.ctl) (cores : t.cores = s.cores)
    (dies : t.dies = s.dies) : CohFrame s0 t := by
  refine ⟨mem.trans k.mem, (congrArg Control.still ctl).trans k.ctl, fun g => ?_, fun d => ?_⟩
  · rw [State.core, cores]; exact k.core g
  · rw [State.die, dies]; exact k.die d

theorem CohFrame.updCore {g} {f : Core → Core} (k : CohFrame s0 s) (e : (f (s.core g)).still = (s.core g).still) :
    CohFrame s0 (s.updCore g f) := by
  refine ⟨k.mem, k.ctl, fun j => ?_, k.die⟩
  by_cases at_ : j = g
  · rw [at_, State.updCore_core_self, e, k.core]
  · rw [State.updCore_core_ne _ _ _ _ at_, k.core]

theorem CohFrame.updDie {d} {f : Die → Die} (k : CohFrame s0 s) (e : (f (s.die d)).still = (s.die d).still) :
    CohFrame s0 (s.updDie d f) := by
  refine ⟨k.mem, k.ctl, k.core, fun j => ?_⟩
  by_cases at_ : j = d
  · rw [at_, State.updDie_die_self, e, k.die]
  · rw [State.updDie_die_ne _ _ _ _ at_, k.die]

theorem CohFrame.updCtl {f : Control → Control} (k : CohFrame s0 s) (e : (f s.ctl).still = s.ctl.still) : CohFrame s0 (s.updCtl f) :=
  ⟨k.mem, e.trans k.ctl, k.core, k.die⟩

theorem CohFrame.push {is} (k : CohFrame s0 s) : CohFrame s0 (s.push is) := k.of_eq rfl rfl rfl rfl
theorem CohFrame.send {m} (k : CohFrame s0 s) : CohFrame s0 (s.send m) := k.of_eq rfl rfl rfl rfl
theorem CohFrame.useFresh (k : CohFrame s0 s) : CohFrame s0 s.useFresh := k.of_eq rfl rfl rfl rfl

/-! ### Taking an answer apart -/

theorem CohFrame.ite {c : Prop} [Decidable c] (k : CohFrame s0 s) (k' : CohFrame s0 t) : CohFrame s0 (if c then s else t) := by
  split <;> assumption

theorem CohFrame.of_fst {α : Type} {p : State × α} {x : α} (k : CohFrame s0 p.1) (e : p = (s, x)) : CohFrame s0 s := by
  subst e; exact k

theorem CohFrame.fst_ite {α : Type} {p q : State × α} {c : Prop} [Decidable c] (k : CohFrame s0 p.1) (k' : CohFrame s0 q.1) :
    CohFrame s0 (if c then p else q).1 := by
  split <;> assumption

theorem CohFrame.state_ite {x y : Coh} {c : Prop} [Decidable c] (k : CohFrame s0 x.state) (k' : CohFrame s0 y.state) :
    CohFrame s0 (if c then x else y).state := by
  split <;> assumption

theorem CohFrame.of_state {x y : Coh} (k : CohFrame s0 x.state) (e : x = y) : CohFrame s0 y.state := e ▸ k

theorem CohFrame.andThen {x : Coh} {f : State → Coh} (k : CohFrame s0 x.state) (kf : ∀ s, CohFrame s0 s → CohFrame s0 (f s).state) :
    CohFrame s0 (x.andThen f).state := by
  unfold Coh.andThen
  split
  · exact kf _ k
  · exact k

theorem CohFrame.cohOf {x : State × Option Nat} (k : CohFrame s0 x.1) : CohFrame s0 (cohOf x).state := by
  unfold Machine.cohOf
  split <;> exact k

theorem CohFrame.foldl {α : Type} {f : State → α → State} {xs : List α} (k : CohFrame s0 s)
    (kf : ∀ s x, CohFrame s0 s → CohFrame s0 (f s x)) : CohFrame s0 (xs.foldl f s) :=
  List.foldlRecOn xs f k fun s k x _ => kf s x k

/-! ### Clocks (R143 to R145) -/

theorem CohFrame.updChecker {die type index f} (k : CohFrame s0 s) : CohFrame s0 (s.updChecker die type index f) := k.updDie rfl

theorem CohFrame.setClock {u n} (k : CohFrame s0 s) : CohFrame s0 (s.setClock u n) := by
  cases u with
  | core g => exact CohFrame.updCore (f := fun c => { c with lclock := n }) k rfl
  | checker d type index => exact k.updChecker
  | cxl p => exact CohFrame.updCtl (f := fun c => { c with cxlClocks := AMap.set c.cxlClocks p n }) k rfl
  | fabric p => exact CohFrame.updCtl (f := fun c => { c with links := AMap.upd c.links p {} (fun l => { l with clock := n }) }) k rfl

theorem CohFrame.tick {u} (k : CohFrame s0 s) : CohFrame s0 (s.tick u) := k.setClock

theorem CohFrame.hears {u n} (k : CohFrame s0 s) : CohFrame s0 (s.hears u n) := k.setClock

theorem CohFrame.carry {a b} (k : CohFrame s0 s) : CohFrame s0 (s.carry a b) := k.ite k.tick.hears

theorem CohFrame.perform {u n} (k : CohFrame s0 s) : CohFrame s0 (s.perform u n).1 := k.setClock

theorem CohFrame.homeStamp {line u n} (k : CohFrame s0 s) : CohFrame s0 (s.homeStamp line u n).1 := by
  cases u with
  | none => exact k.perform
  | some u => exact k.carry.perform.carry

/-! ### Records, events and payloads (R152 to R172) -/

theorem CohFrame.setDir {line e} (k : CohFrame s0 s) : CohFrame s0 (s.setDir line e) := (k.updCtl rfl).ite (k.updDie rfl)

theorem CohFrame.setInterval {line n} (k : CohFrame s0 s) : CohFrame s0 (s.setInterval line n) :=
  (k.updCtl rfl).ite (k.of_eq rfl rfl rfl rfl)

theorem CohFrame.closeRecord {line kind} (k : CohFrame s0 s) : CohFrame s0 (s.closeRecord line kind) :=
  k.ite k.updChecker.setDir

theorem CohFrame.openRecord {line kind holder seen} (k : CohFrame s0 s) : CohFrame s0 (s.openRecord line kind holder seen) := k.setDir

theorem CohFrame.advance {line kind holder seen} (k : CohFrame s0 s) : CohFrame s0 (s.advance line kind holder seen) :=
  k.closeRecord.setInterval.openRecord

theorem CohFrame.closeL1 {g line l a} (k : CohFrame s0 s) : CohFrame s0 (s.closeL1 g line l a) := k.ite k.updChecker

theorem CohFrame.dropL1 {a line} (k : CohFrame s0 s) : CohFrame s0 (s.dropL1 a line) := by
  unfold State.dropL1
  split
  · exact k
  · split
    · exact k
    · exact k.closeL1.updCore rfl

theorem CohFrame.homeSends {g line type digest} (k : CohFrame s0 s) : CohFrame s0 (s.homeSends g line type digest) := k.tick.updChecker

theorem CohFrame.l1Hears {g line type digest stamp} (k : CohFrame s0 s) : CohFrame s0 (s.l1Hears g line type digest stamp) :=
  (k.hears.updDie rfl).ite k.hears.updChecker

theorem CohFrame.l1Sends {g line type interval digest} (k : CohFrame s0 s) : CohFrame s0 (s.l1Sends g line type interval digest) :=
  k.tick.updChecker

theorem CohFrame.homeHears {g line type interval digest} (k : CohFrame s0 s) : CohFrame s0 (s.homeHears g line type interval digest) :=
  k.hears.updChecker

theorem CohFrame.storePayload {die type index p} (k : CohFrame s0 s) : CohFrame s0 (s.storePayload die type index p) :=
  k.updChecker.updCtl rfl

theorem CohFrame.enterN {line payload poisoned} (k : CohFrame s0 s) : CohFrame s0 (s.enterN line payload poisoned) := by
  have dropped : CohFrame s0 ((s.dirOf line).holders.foldl (fun s a => s.dropL1 a line) s) := k.foldl fun _ _ => CohFrame.dropL1
  exact (CohFrame.ite dropped.closeRecord.setInterval dropped.closeRecord).setDir.of_eq rfl rfl rfl rfl

theorem CohFrame.violate {ck line p} (k : CohFrame s0 s) : CohFrame s0 (s.violate ck line p) := k.storePayload.enterN.ite k.storePayload

theorem CohFrame.fireInjector {die} (k : CohFrame s0 s) : CohFrame s0 (s.fireInjector die) := k.updDie rfl

theorem CohFrame.passMessage {die line type} (k : CohFrame s0 s) : CohFrame s0 (s.passMessage die line type) := k.fireInjector.ite k

theorem CohFrame.receiveAt {ck die line type sender receiver good} (k : CohFrame s0 s) :
    CohFrame s0 (s.receiveAt ck die line type sender receiver good).1 := by
  unfold State.receiveAt
  split
  · exact (k.updDie rfl).ite k
  · exact k.fireInjector.fst_ite k.fireInjector.violate

theorem CohFrame.receive {die line type sender receiver good} (k : CohFrame s0 s) :
    CohFrame s0 (s.receive die line type sender receiver good).1 := k.receiveAt

theorem CohFrame.tellHome {a g line type interval digest} (k : CohFrame s0 s) :
    CohFrame s0 (s.tellHome a g line type interval digest).1 := by
  unfold State.tellHome
  extract_lets s1
  have told : CohFrame s0 s1 := k.l1Sends.passMessage
  split
  · exact told.violate
  · exact told.homeHears

/-! ### Homes and the snoop filter (R86 to R99) -/

theorem CohFrame.setBusy {line b} (k : CohFrame s0 s) : CohFrame s0 (s.setBusy line b) := k.updDie rfl

theorem CohFrame.endBusy {line} (k : CohFrame s0 s) : CohFrame s0 (s.endBusy line) := by
  unfold State.endBusy
  split
  · exact k
  · extract_lets s1
    have freed : CohFrame s0 s1 := k.updDie rfl
    exact freed.of_eq rfl rfl rfl rfl

theorem CohFrame.queueBehind {line e} (k : CohFrame s0 s) : CohFrame s0 (s.queueBehind line e) := k.setBusy

theorem CohFrame.stale {line} (k : CohFrame s0 s) : CohFrame s0 (s.stale line) := k.ite (k.of_eq rfl rfl rfl rfl)

theorem CohFrame.memAccept {line} (k : CohFrame s0 s) : CohFrame s0 (s.memAccept line) :=
  (k.carry.receiveAt.perform.carry.ite k).of_eq rfl rfl rfl rfl

theorem CohFrame.mscRoom {d line} (k : CohFrame s0 s) : CohFrame s0 (s.mscRoom d line) :=
  k.ite ((k.useFresh.ite k.useFresh.memAccept).updDie rfl)

theorem CohFrame.fillMsc {line} (k : CohFrame s0 s) : CohFrame s0 (s.fillMsc line) := by
  unfold State.fillMsc
  split
  · exact k
  · exact k.ite (k.mscRoom.updDie rfl)

theorem CohFrame.dropMsc {line} (k : CohFrame s0 s) : CohFrame s0 (s.dropMsc line) := by
  unfold State.dropMsc
  split
  · exact k
  · exact k.updDie rfl

theorem CohFrame.memFetch {line} (k : CohFrame s0 s) : CohFrame s0 (s.memFetch line).state := by
  unfold State.memFetch
  split
  · exact k
  · refine CohFrame.state_ite k ?_
    extract_lets s1
    have read : CohFrame s0 s1 := k.carry.perform.carry
    split
    · exact read.violate
    · exact read.receive.cohOf.andThen fun _ => CohFrame.fillMsc

theorem CohFrame.evictToHost {line} (k : CohFrame s0 s) : CohFrame s0 (s.evictToHost line) := by
  unfold State.evictToHost
  split
  · exact k
  · exact k.ite (k.memAccept.updCtl rfl).send

theorem CohFrame.hostLeft {line} (k : CohFrame s0 s) : CohFrame s0 (s.hostLeft line) := k.evictToHost.ite k

theorem CohFrame.unhold {a line} (k : CohFrame s0 s) : CohFrame s0 (s.unhold a line) := k.setDir

theorem CohFrame.giveUp {h line stamp data} (k : CohFrame s0 s) : CohFrame s0 (s.giveUp h line stamp data).state := by
  unfold State.giveUp
  split
  · exact k.unhold
  · extract_lets s1 dg
    have heard : CohFrame s0 s1 := k.passMessage.l1Hears
    split
    · exact heard.unhold
    · refine (CohFrame.cohOf (heard.receive.fst_ite heard)).andThen fun _ back => ?_
      split
      next e => exact back.dropL1.tellHome.of_fst e
      next e => exact (back.dropL1.tellHome.of_fst e).unhold

theorem CohFrame.recallOne {h line} (k : CohFrame s0 s) : CohFrame s0 (s.recallOne h line) := by
  unfold State.recallOne
  split
  · exact k.unhold
  · extract_lets s1
    have answer : CohFrame s0 (s1.giveUp h line (s1.clockOf (homeUnit s1 line)) true).state := k.homeSends.giveUp
    split
    all_goals
      next e => exact answer.of_state e

theorem CohFrame.reported {h line keeps wasM} (k : CohFrame s0 s) : CohFrame s0 (s.reported h line keeps wasM) :=
  k.unhold.ite (k.advance.setDir.ite k)

theorem CohFrame.forwarded {h line stamp keeps req} (k : CohFrame s0 s) : CohFrame s0 (s.forwarded h line stamp keeps req).state := by
  unfold State.forwarded
  split
  · exact k.unhold
  · extract_lets s1 l wasM dg s2
    have heard : CohFrame s0 s1 := k.passMessage.l1Hears
    clear_value s1
    have left : CohFrame s0 s2 := (heard.closeL1.updCore rfl).ite heard.dropL1
    split
    next e => exact left.tellHome.of_fst e
    next e =>
      extract_lets s3 s4 s5
      have told : CohFrame s0 s3 := (left.tellHome.of_fst e).reported
      clear_value s3
      have numbered : CohFrame s0 s4 := told.updCore (by split <;> rfl)
      have noted : CohFrame s0 s5 := by
        dsimp only [s5]
        split
        · exact numbered.setBusy
        · exact numbered
      split <;> exact noted.receive.cohOf.andThen fun _ k => k.carry

theorem CohFrame.recallLine {line} (k : CohFrame s0 s) : CohFrame s0 (s.recallLine line) := by
  have called : CohFrame s0 ((s.dirOf line).holders.foldl (fun s a => if (s.dirOf line).st = .n then s else s.recallOne a line) s) :=
    k.foldl fun _ _ k => k.ite k.recallOne
  exact k.ite (called.ite called.fillMsc.setDir)

theorem CohFrame.recallOut {line} (k : CohFrame s0 s) : CohFrame s0 (s.recallOut line) := k.recallLine.advance.ite k.recallLine

theorem CohFrame.homeWriteInterval {a line sectors} (k : CohFrame s0 s) : CohFrame s0 (s.homeWriteInterval a line sectors) :=
  k.recallLine.ite k.recallLine.advance.setDir

theorem CohFrame.unlessN {line} (k : CohFrame s0 s) : CohFrame s0 (s.unlessN line).state := by
  unfold State.unlessN
  split <;> exact k

theorem CohFrame.dirRoom {line} (k : CohFrame s0 s) (e : s.dirRoom line = some t) : CohFrame s0 t := by
  simp only [State.dirRoom] at e
  split at e
  · exact Option.some.inj e ▸ k
  · split at e
    · exact Option.some.inj e ▸ k
    · split at e
      · cases e
      · exact Option.some.inj e ▸ k.useFresh.recallOut

theorem CohFrame.askHost {line own} (k : CohFrame s0 s) : CohFrame s0 (s.askHost line own) := by
  unfold State.askHost
  extract_lets f mates free
  refine k.ite (CohFrame.ite (CohFrame.send (k.updCtl rfl)) (k.ite ?_))
  split
  · exact k
  · exact k.useFresh.recallOut.evictToHost

theorem CohFrame.sendMsg {line m} (k : CohFrame s0 s) : CohFrame s0 (s.sendMsg line m) := by
  unfold State.sendMsg
  split
  · extract_lets s1
    have sent : CohFrame s0 s1 := by
      dsimp only [s1]
      split <;> exact k.homeSends
    exact sent.setBusy
  · exact k

theorem CohFrame.openGrant {line a st} (k : CohFrame s0 s) : CohFrame s0 (s.openGrant line a st) := by
  unfold State.openGrant
  split
  · exact (k.ite k.openRecord).setDir
  · exact k.advance.setDir

theorem CohFrame.sendGrant {line} (k : CohFrame s0 s) : CohFrame s0 (s.sendGrant line) := by
  unfold State.sendGrant
  split
  · split
    · refine k.ite ?_
      split
      · exact k.violate.endBusy
      · exact k.openGrant.sendMsg
    · exact k
  · exact k

theorem CohFrame.wakeHome {line} (k : CohFrame s0 s) : CohFrame s0 (s.wakeHome line) := by
  unfold State.wakeHome
  split
  · exact k
  · exact k
  · exact (k.updDie rfl).ite k

theorem CohFrame.homeTake {req a line} (k : CohFrame s0 s) : CohFrame s0 (s.homeTake req a line).state := by
  unfold State.homeTake
  refine CohFrame.state_ite k ?_
  split
  · exact k
  · extract_lets s1 e req1 own reads
    have awake : CohFrame s0 s1 := k.wakeHome
    refine CohFrame.state_ite awake.askHost ?_
    split
    · exact awake
    next s2 room =>
      have placed : CohFrame s0 s2 := by
        split at room
        · exact Option.some.inj room ▸ awake
        · exact awake.dirRoom room
      refine (CohFrame.state_ite (y := .ok s2) placed.memFetch placed).andThen fun s3 here => ?_
      extract_lets msgs s4 s5
      have asked : CohFrame s0 s4 := by
        dsimp only [s4]
        split
        · exact here.carry
        · exact here
      exact CohFrame.state_ite asked (CohFrame.foldl asked.setBusy fun _ _ k => k.sendMsg).sendGrant.unlessN

/-! ### Evictions, grants and whole transactions (R88 to R93) -/

theorem CohFrame.hostTakes {line} (k : CohFrame s0 s) : CohFrame s0 (s.hostTakes line) := (k.memAccept.updCtl rfl).send.ite k

theorem CohFrame.homeWbD {a line} (k : CohFrame s0 s) : CohFrame s0 (s.homeWbD a line) := by
  unfold State.homeWbD
  extract_lets e s1 s2 s3
  have filled : CohFrame s0 s1 := k.fillMsc
  split
  · exact filled.advance.setDir.hostLeft
  · exact filled.setDir.hostLeft.ite filled.setDir.hostTakes
  · exact filled

theorem CohFrame.homeEvC {a line} (k : CohFrame s0 s) : CohFrame s0 (s.homeEvC a line) := by
  unfold State.homeEvC
  extract_lets e
  split
  · exact k.advance.setDir.hostLeft
  · exact k.setDir.hostLeft
  · exact k.setDir
  · exact k

theorem CohFrame.takeNotice {a g line l} (k : CohFrame s0 s) : CohFrame s0 (s.takeNotice a g line l) := by
  unfold State.takeNotice
  extract_lets s1 dg ack s2
  have closed : CohFrame s0 s1 := k.closeL1.updCore rfl
  have sent : CohFrame s0 s2 := closed.l1Sends
  have writeBack : CohFrame s0 (match s2.receive (s2.lineDie line) line 7 (agentId a) noHolderId dg with
      | (s3, some _) => s3
      | (s3, none) =>
        match s3.homeCheck line 7 a l.interval dg with
        | some p => s3.violate (homeChecker s3 line) line p
        | none => ack ((s3.homeHears g line 7 l.interval dg).homeWbD a line)) := by
    split
    next e => exact sent.receive.of_fst e
    next e =>
      split
      · exact (sent.receive.of_fst e).violate
      · exact (sent.receive.of_fst e).homeHears.homeWbD.carry
  have clean : CohFrame s0 (match s1.tellHome a g line 8 l.interval dg with
      | (s2, some _) => s2
      | (s2, none) => ack (s2.homeEvC a line)) := by
    split
    next e => exact closed.tellHome.of_fst e
    next e => exact (closed.tellHome.of_fst e).homeEvC.carry
  split
  · exact closed
  · exact writeBack
  · exact writeBack
  · exact clean
  · exact clean

theorem CohFrame.evictL1 {a line} (k : CohFrame s0 s) : CohFrame s0 (s.evictL1 a line) := by
  unfold State.evictL1
  split
  · exact k
  next g _ =>
    split
    · exact k
    · extract_lets s1
      have gone : CohFrame s0 s1 := k.updCore rfl
      exact gone.ite ((gone.updCore rfl).queueBehind.ite gone.takeNotice)

theorem CohFrame.installL1 {a line l} (k : CohFrame s0 s) : CohFrame s0 (s.installL1 a line l) := by
  unfold State.installL1
  split
  · exact k
  · exact (k.ite k.evictL1.useFresh).updCore rfl

theorem CohFrame.granted {a st data line b} (k : CohFrame s0 s) : CohFrame s0 (s.granted a st data line b).state := by
  unfold State.granted
  split
  · exact k
  · extract_lets dg full
    refine (CohFrame.cohOf (k.receive.fst_ite k.passMessage)).andThen fun _ had => ?_
    extract_lets s2 old s3 s4
    have closed : CohFrame s0 s3 := by
      dsimp only [s3, old]
      split
      · exact had.l1Hears.closeL1
      · exact had.l1Hears
    have put : CohFrame s0 s4 := closed.installL1
    split
    next e => exact put.tellHome.of_fst e
    next e =>
      have told := put.tellHome.of_fst e
      split
      · exact CohFrame.state_ite told told.violate
      · exact told

theorem CohFrame.deliver {line m b} (k : CohFrame s0 s) : CohFrame s0 (s.deliver line m b).state := by
  cases m with
  | fwdS h => exact k.forwarded
  | fwdX h => exact k.forwarded
  | inv h => exact k.giveUp
  | grant a st data => exact k.granted

theorem CohFrame.takeMsg {line m} (k : CohFrame s0 s) : CohFrame s0 (s.takeMsg line m).state := by
  unfold State.takeMsg
  split
  · exact k
  next b _ =>
    have came : CohFrame s0 ((s.setBusy line { b with msgs := b.msgs.erase m }).deliver line m b).state := k.setBusy.deliver
    split
    next e =>
      have done := came.of_state e
      exact (done.endBusy.ite done.sendGrant).unlessN
    all_goals
      next e => exact (came.of_state e).endBusy

theorem CohFrame.takeMsgs {line ms} (k : CohFrame s0 s) : CohFrame s0 (takeMsgs line ms s).state := by
  induction ms generalizing s with
  | nil => exact k
  | cons m ms ih => exact k.takeMsg.andThen fun _ k => ih k

theorem CohFrame.transact {req a line} (k : CohFrame s0 s) : CohFrame s0 (s.transact req a line).state := by
  refine k.homeTake.andThen fun s1 taken => ?_
  split
  · exact taken
  · exact taken.takeMsgs

theorem CohFrame.l1Read {a line} (k : CohFrame s0 s) : CohFrame s0 (s.l1Read a line).state := by
  unfold State.l1Read
  split
  · split <;> exact k
  · exact k.transact

theorem CohFrame.l1Own {a line whole} (k : CohFrame s0 s) : CohFrame s0 (s.l1Own a line whole).state := by
  unfold State.l1Own
  split
  · split
    · exact k
    · split
      · exact k
      · exact k
      · exact k.transact
  · exact k.transact

theorem CohFrame.l1Mark {a line sectors} (k : CohFrame s0 s) : CohFrame s0 (s.l1Mark a line sectors) := by
  unfold State.l1Mark
  split
  · exact k
  · exact (k.stale.updCore rfl).setDir

theorem CohFrame.homeOpen {line own} (k : CohFrame s0 s) : CohFrame s0 (s.homeOpen line own).state := by
  refine CohFrame.state_ite k ?_
  split
  · exact k
  · exact CohFrame.state_ite k.wakeHome k.wakeHome.askHost

/-! ### Accesses of the homes themselves (R93, R95) -/

theorem CohFrame.homeTakeWrite {a type pa bs line} (k : CohFrame s0 s) : CohFrame s0 (s.homeTakeWrite a type pa bs line).state :=
  k.homeOpen.andThen fun _ k => k.receive.cohOf.andThen fun _ k => k.recallLine.unlessN.andThen fun _ k =>
    (CohFrame.state_ite k k.memFetch).andThen fun _ k => k.homeWriteInterval.fillMsc.stale

theorem CohFrame.homeTakeWrites {a type pa bs ls} (k : CohFrame s0 s) : CohFrame s0 (homeTakeWrites a type pa bs ls s).state := by
  induction ls generalizing s with
  | nil => exact k
  | cons l ls ih => exact k.homeTakeWrite.andThen fun _ k => ih k

theorem CohFrame.homeSettle {uncached line} (k : CohFrame s0 s) : CohFrame s0 (s.homeSettle uncached line) :=
  (k.memAccept.dropMsc.ite k).hostLeft

theorem CohFrame.settleLine {line} (k : CohFrame s0 s) : CohFrame s0 (s.settleLine line) := by
  unfold State.settleLine
  split
  · exact k
  next b _ =>
    have came : CohFrame s0 (Machine.takeMsgs line b.msgs s).state := k.takeMsgs
    split
    all_goals
      next e => exact came.of_state e

theorem CohFrame.uncachedLine {line} (k : CohFrame s0 s) : CohFrame s0 (uncachedLine s line).state :=
  k.homeOpen.andThen fun _ k => k.recallOut.unlessN.andThen fun _ k =>
    (k.memAccept.dropMsc.unlessN.andThen fun _ k => k.memFetch).andThen fun _ k => k.dropMsc.hostLeft

theorem CohFrame.uncachedLines {ls} (k : CohFrame s0 s) : CohFrame s0 (uncachedLines ls s).state := by
  induction ls generalizing s with
  | nil => exact k
  | cons l ls ih => exact k.uncachedLine.andThen fun _ k => ih k

theorem CohFrame.usePrefetch {g line} (k : CohFrame s0 s) : CohFrame s0 (s.usePrefetch g line) := by
  unfold State.usePrefetch
  split
  · exact (k.updCore rfl).ite k
  · exact k

theorem CohFrame.engineLine {c l} (k : CohFrame s0 s) : CohFrame s0 (engineLine c s l).state := by
  refine k.transact.andThen fun _ k => ?_
  split
  · exact k.receive.cohOf
  · exact k.receive.cohOf
  · exact k.receive.cohOf
  · exact k

theorem CohFrame.readLines {c ls} (k : CohFrame s0 s) : CohFrame s0 (readLines c ls s).state := by
  induction ls generalizing s with
  | nil => exact k
  | cons l ls ih =>
    refine (CohFrame.state_ite k.engineLine k.l1Read).andThen fun _ k => ih ?_
    split
    · exact k.usePrefetch
    · exact k

theorem CohFrame.ownLines {c ls} (k : CohFrame s0 s) : CohFrame s0 (ownLines c ls s).state := by
  induction ls generalizing s with
  | nil => exact k
  | cons l ls ih => exact k.l1Own.andThen fun _ k => ih k

theorem CohFrame.acquireAtomic {a pa el} (k : CohFrame s0 s) : CohFrame s0 (s.acquireAtomic a pa el).state := by
  refine k.homeOpen.andThen fun _ k => k.recallLine.unlessN.andThen fun _ k => k.memFetch.andThen fun _ k => ?_
  split
  · exact k
  · exact k.receive.cohOf

end
end Sys2Proof.Machine
end

-- ==== Sys2Proof/Proofs/HoldersKept.lean ====

section
set_option Elab.async false
namespace Sys2Proof.Machine

/-! ## What a unit of the package leaves alone: the holders of every core

A translation, an access of Drip (R208, R513) and a write of the save area (R436) may walk tables, ask outside and write bytes; no
holder leaves or changes. -/

/-- The holders of every core are as they were. -/
def SlotsKept (s t : State) : Prop := ∀ g, (t.core g).slots = (s.core g).slots

/-- The state that each answer of a walk, an access or a transfer carries. -/
def TableRead.state : TableRead → State
  | .ok _ s | .poison _ s | .wait s => s

def Walked.state : Walked → State
  | .leaf _ _ s | .fault _ _ s | .wait s => s

def Trans.state : Trans → State
  | .ok _ s | .fault _ _ s | .parked s => s

def Resolve.state : Resolve → State
  | .ok _ s | .fault _ _ _ s | .parked s => s

def Perf.state : Perf → State
  | .ok _ _ _ s | .poison _ s | .contain _ s | .busy s | .ext _ _ _ _ s => s

def Reach.state : Reach → State
  | .ok _ s | .fault _ _ _ s | .wait s => s

def Drip.state : Drip → State
  | .ok s _ | .fault s _ _ _ _ | .parked s => s

theorem SlotsKept.refl (s : State) : SlotsKept s s := fun _ => rfl

section
variable {s0 s t : State}

theorem SlotsKept.of_cores (k : SlotsKept s0 s) (e : t.cores = s.cores) : SlotsKept s0 t := fun g => by
  rw [State.core, e]; exact k g

theorem SlotsKept.coh (k : SlotsKept s0 s) (c : CohFrame s t) : SlotsKept s0 t := fun g => (c.slots g).trans (k g)

theorem SlotsKept.updCore {g} {f : Core → Core} (k : SlotsKept s0 s) (e : (f (s.core g)).slots = (s.core g).slots) :
    SlotsKept s0 (s.updCore g f) := fun j => by
  by_cases at_ : j = g
  · rw [at_, State.updCore_core_self, e, k]
  · rw [State.updCore_core_ne _ _ _ _ at_, k]

theorem SlotsKept.foldl {α : Type} {f : State → α → State} {xs : List α} (k : SlotsKept s0 s)
    (kf : ∀ s x, SlotsKept s0 s → SlotsKept s0 (f s x)) : SlotsKept s0 (xs.foldl f s) :=
  List.foldlRecOn xs f k fun s k x _ => kf s x k

theorem SlotsKept.ite {c : Prop} [Decidable c] (k : SlotsKept s0 s) (k' : SlotsKept s0 t) : SlotsKept s0 (if c then s else t) := by
  split <;> assumption

/-! ### Translation (R51 to R62) -/

theorem SlotsKept.read64 {pa} (k : SlotsKept s0 s) : SlotsKept s0 (s.read64 pa).state := by
  have asked : SlotsKept s0 (s.transact .engine .firmware (pa / 128)).state := k.coh (CohFrame.refl s).transact
  unfold State.read64
  split
  next e => rw [e] at asked; exact asked.coh (CohFrame.refl _).hostLeft
  all_goals
    next e => rw [e] at asked; exact asked

theorem SlotsKept.update64 {pa f} (k : SlotsKept s0 s) : SlotsKept s0 (s.update64 pa f).state := by
  unfold State.update64
  extract_lets line
  have taken : SlotsKept s0 ((s.homeOpen line true).andThen fun s1 =>
      ((s1.recallLine line).unlessN line).andThen fun s2 => s2.memFetch line).state :=
    k.coh ((CohFrame.refl s).homeOpen.andThen fun _ k => k.recallLine.unlessN.andThen fun _ k => k.memFetch)
  split
  next s1 e =>
    rw [e] at taken
    have run : SlotsKept s0 (((s1.homeWriteInterval .firmware line (sectorMask line pa 8)).fillMsc line).stale line) :=
      taken.coh (CohFrame.refl s1).homeWriteInterval.fillMsc.stale
    extract_lets v s2
    have written : SlotsKept s0 { s2 with mem := Memory.writeLE s2.mem pa 8 v } := run.of_cores rfl
    exact written.coh (CohFrame.refl _).homeSettle
  all_goals
    next e => rw [e] at taken; exact taken

theorem SlotsKept.walkRead {asid lvl ix pa} (k : SlotsKept s0 s) : SlotsKept s0 (s.walkRead asid lvl ix pa).state := by
  unfold State.walkRead
  split
  · exact k
  · exact k.read64

theorem SlotsKept.walk_of_read {x : TableRead} {f : Nat → State → Walked} (k : SlotsKept s0 x.state)
    (kf : ∀ v s, SlotsKept s0 s → SlotsKept s0 (f v s).state) : SlotsKept s0 (x.walk f).state := by
  cases x with
  | ok v s => exact kf v s k
  | poison => exact k
  | wait => exact k

theorem SlotsKept.walkDown {asid va n table} (k : SlotsKept s0 s) : SlotsKept s0 (walkDown asid va n table s).state := by
  induction n generalizing table s with
  | zero => exact k
  | succ n ih =>
    refine k.walkRead.walk_of_read fun v s1 k => ?_
    split
    · exact k
    · split
      · split <;> exact k
      · split
        · exact k
        · split
          · exact k
          · extract_lets below
            split
            · exact ih (k.of_cores rfl)
            · exact k

theorem SlotsKept.walk {asid va} (k : SlotsKept s0 s) : SlotsKept s0 (s.walk asid va).state := by
  unfold State.walk
  split
  · exact k
  · refine k.walkRead.walk_of_read fun v s1 k => ?_
    split
    · exact k
    · split
      · exact k
      · extract_lets below
        split
        · exact SlotsKept.walkDown (k.of_cores rfl)
        · exact k

theorem SlotsKept.park {r asid va} (k : SlotsKept s0 s) : SlotsKept s0 (s.park r asid va) := by
  unfold State.park
  extract_lets w same s1
  have queued : SlotsKept s0 s1 := k.of_cores rfl
  split
  · exact queued
  · exact queued.updCore rfl

theorem SlotsKept.withWalk {r asid va} {f : TlbEntry → Nat → State → Trans} (k : SlotsKept s0 s)
    (kf : ∀ e ea s, SlotsKept s0 s → SlotsKept s0 (f e ea s).state) : SlotsKept s0 (s.withWalk r asid va f).state := by
  have walked : SlotsKept s0 (s.walk asid va).state := k.walk
  unfold State.withWalk
  split
  · exact k
  · split
    · exact k.park
    · split
      next e => rw [e] at walked; exact kf _ _ _ walked
      all_goals
        next e => rw [e] at walked; exact walked

theorem SlotsKept.trans_of_read {x : TableRead} {f : State → Trans} (k : SlotsKept s0 x.state)
    (kf : ∀ s, SlotsKept s0 s → SlotsKept s0 (f s).state) : SlotsKept s0 (x.trans f).state := by
  cases x with
  | ok v s => exact kf s k
  | poison => exact k
  | wait => exact k

theorem SlotsKept.installBelow {c x e va} (k : SlotsKept s0 s) : SlotsKept s0 (s.installBelow c x e va) := by
  unfold State.installBelow
  extract_lets f s2 s3
  have cluster : SlotsKept s0 s2 := by
    dsimp only [s2]
    split <;> exact k.of_cores rfl
  have core : SlotsKept s0 s3 := by
    dsimp only [s3]
    split
    · exact cluster
    · exact cluster.updCore rfl
  exact core.of_cores rfl

theorem SlotsKept.installTlb {r e va} (k : SlotsKept s0 s) : SlotsKept s0 (s.installTlb r e va) := by
  unfold State.installTlb
  split
  extract_lets s1
  have die : SlotsKept s0 s1 := by
    dsimp only [s1]
    split <;> exact k.of_cores rfl
  exact die.installBelow

theorem SlotsKept.tlbHit {r asid va e} (k : SlotsKept s0 s) (hit : s.tlbHit r asid va = some (e, t)) : SlotsKept s0 t := by
  simp only [State.tlbHit] at hit
  split at hit
  · simp only [Option.some.injEq, Prod.mk.injEq] at hit
    exact hit.2 ▸ k
  · split at hit
    · simp only [Option.some.injEq, Prod.mk.injEq] at hit
      exact hit.2 ▸ k.installBelow
    · obtain ⟨_, _, same⟩ := Option.map_eq_some_iff.1 hit
      cases same
      exact k.installBelow

theorem SlotsKept.walkInstall {r asid va} (k : SlotsKept s0 s) : SlotsKept s0 (s.walkInstall r asid va).state := by
  refine k.withWalk fun e ea s1 k => ?_
  split
  · exact k.installTlb
  · exact k.update64.trans_of_read fun _ k => k.installTlb

theorem SlotsKept.dirtyWalk {r asid sup a va} (k : SlotsKept s0 s) : SlotsKept s0 (s.dirtyWalk r asid sup a va).state := by
  refine k.withWalk fun e ea s1 k => ?_
  split
  · exact k
  · exact k.update64.trans_of_read fun _ k => k.installTlb

theorem SlotsKept.permit {x : Trans} {sup a} {f : TlbEntry → State → Trans} (k : SlotsKept s0 x.state)
    (kf : ∀ e s, SlotsKept s0 s → SlotsKept s0 (f e s).state) : SlotsKept s0 (x.permit sup a f).state := by
  unfold Trans.permit
  split
  · split
    · exact k
    · exact kf _ _ k
  · exact k

theorem SlotsKept.translate {r asid sup a va} (k : SlotsKept s0 s) : SlotsKept s0 (s.translate r asid sup a va).state := by
  unfold State.translate
  split
  · exact k
  · extract_lets found
    have had : SlotsKept s0 found.state := by
      dsimp only [found]
      split
      next e => exact k.tlbHit e
      · exact k.walkInstall
    refine had.permit fun e s1 k => ?_
    split
    · exact k.dirtyWalk.permit fun _ _ k => k
    · exact k

theorem SlotsKept.translatePages {c a pages segs} (k : SlotsKept s0 s) : SlotsKept s0 (translatePages c a pages segs s).state := by
  induction pages generalizing segs s with
  | nil => exact k
  | cons p pages ih =>
    have one : SlotsKept s0 (s.translate c.req c.asid c.sup a p.1).state := k.translate
    unfold Machine.translatePages
    split
    next e => rw [e] at one; exact ih one
    all_goals
      next e => rw [e] at one; exact one

theorem SlotsKept.hostCheck {a segs} (k : SlotsKept s0 s) : SlotsKept s0 (s.hostCheck a segs).state := by
  unfold State.hostCheck
  extract_lets need
  split
  · exact k
  · exact SlotsKept.foldl k fun _ _ k => k.coh (CohFrame.refl _).askHost

theorem SlotsKept.resolve {c sp ea n a hostOk} (k : SlotsKept s0 s) : SlotsKept s0 (s.resolve c sp ea n a hostOk).state := by
  have pages : SlotsKept s0 (Machine.translatePages c a (pagesOf ea n) [] s).state := k.translatePages
  unfold State.resolve
  split
  · split
    next e =>
      rw [e] at pages
      split
      · exact pages
      · exact SlotsKept.hostCheck pages
    · exact pages
  · split
    · split <;> exact k
    · exact k
  · extract_lets bank off
    split
    · exact k
    · split <;> exact k
  · exact k

/-! ### Accesses (R104 to R111) -/

theorem SlotsKept.stampFor {c g} (k : SlotsKept s0 s) : SlotsKept s0 (s.stampFor c g).1 := by
  unfold State.stampFor
  extract_lets n
  split
  · exact k.coh (CohFrame.refl s).homeStamp
  · exact k.coh (CohFrame.refl s).perform

theorem CohFrame.bankStamp {u k' n} (k : CohFrame s0 s) : CohFrame s0 (s.bankStamp u k' n).1 := by
  cases u with
  | none => exact k.perform
  | some u => exact k.carry.perform.carry

theorem CohFrame.acquireWrite {c g bs} (k : CohFrame s0 s) : CohFrame s0 (s.acquireWrite c g bs).state :=
  CohFrame.state_ite (CohFrame.state_ite k k) (CohFrame.state_ite k.homeTakeWrites k.ownLines)

theorem CohFrame.acquireWrites {c segs bs} (k : CohFrame s0 s) : CohFrame s0 (acquireWrites c segs bs s).state := by
  induction segs generalizing bs s with
  | nil => exact k
  | cons g gs ih => exact k.acquireWrite.andThen fun _ k => ih k

theorem CohFrame.acquireWriteT {c t bs} (k : CohFrame s0 s) : CohFrame s0 (s.acquireWriteT c t bs).state := by
  cases t with
  | phys segs => exact k.acquireWrites
  | spm => exact k

theorem SlotsKept.perf {x : Coh} {f : State → Perf} (k : SlotsKept s0 x.state) (kf : ∀ s, SlotsKept s0 s → SlotsKept s0 (f s).state) :
    SlotsKept s0 (x.perf f).state := by
  cases x with
  | ok s => exact kf s k
  | busy => exact k
  | poison => exact k
  | contain => exact k

theorem SlotsKept.homePut {uncached pa bs} (k : SlotsKept s0 s) : SlotsKept s0 (s.homePut uncached pa bs) :=
  SlotsKept.foldl (k.of_cores rfl) fun _ _ k => k.coh (CohFrame.refl _).homeSettle

theorem SlotsKept.writeSegs {c first segs bs lo hi} (k : SlotsKept s0 s) :
    SlotsKept s0 (writeSegs c first segs bs lo hi s).state := by
  induction segs generalizing first bs lo hi s with
  | nil => exact k
  | cons g gs ih =>
    unfold Machine.writeSegs
    split
    · exact ih k
    · refine SlotsKept.perf (k.coh (CohFrame.state_ite (x := .ok s) (CohFrame.refl s) (CohFrame.refl s).ownLines)) fun s1 k => ?_
      have stamped := k.stampFor (c := c) (g := g)
      split
      next e =>
        rw [e] at stamped
        extract_lets now s2 s3
        have marked : SlotsKept s0 s2 := SlotsKept.foldl stamped fun _ _ k => k.coh (CohFrame.refl _).l1Mark
        split
        exact ih (stamped.homePut.ite (marked.of_cores rfl))

theorem SlotsKept.leaving {x : Perf} {parts} (k : SlotsKept s0 x.state) : SlotsKept s0 (x.leaving parts).state := by
  unfold Perf.leaving
  split
  · split <;> exact k
  · exact k

theorem SlotsKept.writeHeld {c t bs} (k : SlotsKept s0 s) : SlotsKept s0 (s.writeHeld c t bs).state := by
  unfold State.writeHeld
  split
  · exact k.writeSegs.leaving
  next g off n =>
    have stamped : SlotsKept s0 (s.bankStamp (c.unit 0) g (sectorCount off n)).1 := k.coh (CohFrame.refl s).bankStamp
    split
    next e =>
      rw [e] at stamped
      exact SlotsKept.updCore (f := fun x => { x with spm := Memory.writeBytes x.spm off bs }) stamped rfl

theorem SlotsKept.writeTarget {c t bs} (k : SlotsKept s0 s) : SlotsKept s0 (s.writeTarget c t bs).state :=
  SlotsKept.perf (k.coh (CohFrame.refl s).acquireWriteT) fun _ k => k.writeHeld

theorem SlotsKept.reach_of_perf {x : Perf} (k : SlotsKept s0 x.state) : SlotsKept s0 x.reach.state := by
  cases x <;> exact k

theorem State.sendFabric_cores (s : State) (pkg line : Nat) (m : OutMsg) : (s.sendFabric pkg line m).cores = s.cores := by
  unfold State.sendFabric
  split <;> rfl

theorem State.sendHost_cores (s : State) (pa size : Nat) (data : Option Nat) : (s.sendHost pa size data).cores = s.cores := by
  unfold State.sendHost
  split <;> rfl

theorem State.engineAsk_cores (s : State) (a : Agent) (unit slot pa : Nat) (op : PeerOp) :
    (engineAsk s a unit slot pa op).cores = s.cores := by
  unfold engineAsk
  split
  · exact State.sendFabric_cores _ _ _ _
  · cases op with
    | read => exact State.sendHost_cores _ _ _ _
    | write => exact State.sendHost_cores _ _ _ _
    | atomic => rfl

theorem SlotsKept.askAway {a unit x data} (k : SlotsKept s0 s) : SlotsKept s0 (s.askAway a unit x data) := by
  unfold State.askAway
  extract_lets tag op
  split
  · exact k
  · exact k.of_cores (State.engineAsk_cores _ _ _ _ _ _)

theorem SlotsKept.reach {c unit parts data} {f : State → Reach} (k : SlotsKept s0 s)
    (kf : ∀ s, SlotsKept s0 s → SlotsKept s0 (f s).state) : SlotsKept s0 (s.reach c unit parts data f).state := by
  unfold State.reach
  extract_lets s1
  have asked : SlotsKept s0 s1 := SlotsKept.foldl k fun _ _ k => k.askAway
  split
  · exact asked
  · split
    · exact kf _ asked
    · exact asked

theorem SlotsKept.reachWrite {c unit t bs} (k : SlotsKept s0 s) : SlotsKept s0 (s.reachWrite c unit t bs).state := by
  cases t with
  | phys segs => exact k.reach fun _ k => k.writeTarget.reach_of_perf
  | spm g off n =>
    have written : SlotsKept s0 (s.writeTarget c (.spm g off n) bs).state := k.writeTarget
    exact written.reach_of_perf

/-! ### Drip and the save area (R436, R513) -/

theorem SlotsKept.dripWrite {g h ea bs} (k : SlotsKept s0 s) : SlotsKept s0 (s.dripWrite g h ea bs).state := by
  have found : SlotsKept s0 (s.resolve (dripCtx s g h.asid) .glob ea bs.length .store true).state := k.resolve
  unfold State.dripWrite
  extract_lets c
  split
  next target s1 e =>
    rw [e] at found
    have written : SlotsKept s0 (s1.reachWrite c g target bs).state := SlotsKept.reachWrite found
    unfold Reach.drip
    split
    all_goals
      next e => rw [e] at written; exact written
  all_goals
    next e => rw [e] at found; exact found

theorem SlotsKept.spillWrite {g q h off bs} (k : SlotsKept s0 s) : SlotsKept s0 (s.spillWrite g q h off bs).state := by
  unfold State.spillWrite
  extract_lets base size
  split
  · exact k
  · exact k.dripWrite

theorem SlotsKept.dripResidents {g q h parts} (k : SlotsKept s0 s) : SlotsKept s0 (dripResidents g q h parts s) := by
  induction parts generalizing s with
  | nil => exact k
  | cons p parts ih =>
    have one : SlotsKept s0 (s.spillWrite g q h p.1 p.2).state := k.spillWrite
    unfold Machine.dripResidents
    split
    next e => rw [e] at one; exact ih one
    · exact ih k

theorem SlotsKept.putImage {img off segs} (k : SlotsKept s0 s) : SlotsKept s0 (putImage img off segs s) := by
  induction segs generalizing off s with
  | nil => exact k
  | cons g gs ih =>
    exact ih (SlotsKept.foldl (k.of_cores rfl) fun _ _ k => k.coh (CohFrame.refl _).homeSettle)

theorem SlotsKept.saveRegion {pa n img} (k : SlotsKept s0 s) : SlotsKept s0 (s.saveRegion pa n img) := by
  refine SlotsKept.putImage (SlotsKept.foldl k fun s l k => ?_)
  have taken : SlotsKept s0 ((s.settleLine l).homeTakeWrite .firmware 10 (l * 128) (zeroBytes 128) l).state :=
    k.coh (CohFrame.refl s).settleLine.homeTakeWrite
  split
  all_goals
    next e => rw [e] at taken; exact taken

theorem SlotsKept.writeSave {base g} (k : SlotsKept s0 s) : SlotsKept s0 (s.writeSave base g) :=
  k.saveRegion.saveRegion.saveRegion.saveRegion.saveRegion.saveRegion.saveRegion

end
end Sys2Proof.Machine
end

-- ==== Sys2Proof/Proofs/Preemption.lean ====

section
set_option Elab.async false
namespace Sys2Proof.Machine

open Sys2Proof.Claims

/-! ## Sparse tables in canonical form -/

section
variable {α : Type} {m : AMap α} {n k : Nat} {v : α}

/-- A key at or below the first of a sorted table is not in its rest. -/
theorem AMap.find?_tail_of_le (sorted : AMap.sorted ((k, v) :: m) = true) (le : n ≤ k) : AMap.find? m n = none := by
  cases m with
  | nil => rfl
  | cons p m =>
    obtain ⟨lt, -⟩ : k < p.1 ∧ _ := by simpa [AMap.sorted] using sorted
    rw [AMap.find?, if_neg (by omega), if_pos (by omega)]

theorem AMap.sorted_tail (sorted : AMap.sorted ((k, v) :: m) = true) : AMap.sorted m = true := by
  cases m with
  | nil => rfl
  | cons p m => exact (by simpa [AMap.sorted] using sorted : k < p.1 ∧ _).2

theorem AMap.find?_erase_self (sorted : AMap.sorted m = true) : AMap.find? (AMap.erase m n) n = none := by
  induction m with
  | nil => rfl
  | cons p m ih =>
    rw [AMap.erase]
    split
    next e => exact AMap.find?_tail_of_le sorted e.ge
    next ne =>
      split
      next lt => rw [AMap.find?, if_neg ne, if_pos lt]
      next ge => rw [AMap.find?, if_neg ne, if_neg ge]; exact ih (AMap.sorted_tail sorted)

/-- Looking up a key after every entry of a sorted table was set anew. -/
theorem AMap.find?_foldl_set {β : Type} {f : α → β} {m' : AMap β} (sorted : AMap.sorted m = true) (h : AMap.find? m n = some v) :
    AMap.find? (m.foldl (fun t p => AMap.set t p.1 (f p.2)) m') n = some (f v) := by
  have other : ∀ (m : AMap α) (t : AMap β), AMap.sorted m = true → AMap.find? m n = none →
      AMap.find? (m.foldl (fun t p => AMap.set t p.1 (f p.2)) t) n = AMap.find? t n := by
    intro m
    induction m with
    | nil => exact fun _ _ _ => rfl
    | cons p m ih =>
      intro t sorted out
      have ne : p.1 ≠ n := fun e => by simp [AMap.find?, e] at out
      refine (ih _ (AMap.sorted_tail sorted) ?_).trans (AMap.find?_set_ne _ _ _ _ ne.symm)
      by_cases lt : n < p.1
      · exact AMap.find?_tail_of_le sorted lt.le
      · rwa [AMap.find?, if_neg ne, if_neg lt] at out
  induction m generalizing m' with
  | nil => cases h
  | cons p m ih =>
    rw [AMap.find?] at h
    split at h
    next e =>
      cases h
      exact (other m _ (AMap.sorted_tail sorted) (AMap.find?_tail_of_le sorted e.ge)).trans (e ▸ AMap.find?_set_self ..)
    next ne =>
      split at h
      · cases h
      · exact ih (AMap.sorted_tail sorted) h

theorem AMap.find?_map {β : Type} (f : α → β) (m : AMap α) (n : Nat) :
    AMap.find? (m.map fun p => (p.1, f p.2)) n = (AMap.find? m n).map f := by
  induction m with
  | nil => rfl
  | cons p m ih =>
    simp only [List.map_cons, AMap.find?, ih]
    split
    · rfl
    · split <;> rfl

/-- A table that keeps an entry by its key. -/
theorem AMap.find?_filter_out {keep : Nat → Bool} (out : keep n = false) : AMap.find? (m.filter fun p => keep p.1) n = none := by
  induction m with
  | nil => rfl
  | cons p m ih =>
    rw [List.filter_cons]
    split
    next kept =>
      have ne : p.1 ≠ n := fun e => by simp [e, out] at kept
      rw [AMap.find?, if_neg ne]
      split
      · rfl
      · exact ih
    · exact ih

end

/-! ## Bin timers (R434) -/

/-- A core without its bins. -/
def Core.binless (c : Core) : Core := { c with bins := [], frozenBins := false }

/-- `t` differs from `s` in the bins of cores at most. -/
structure BinsOnly (s t : State) : Prop where
  rest : { t with cores := s.cores } = s
  core : ∀ g, (t.core g).binless = (s.core g).binless

section
variable {s0 s t : State}

theorem BinsOnly.refl (s : State) : BinsOnly s s := ⟨rfl, fun _ => rfl⟩
theorem BinsOnly.mem (k : BinsOnly s t) : t.mem = s.mem := (congrArg State.mem k.rest :)
theorem BinsOnly.ctl (k : BinsOnly s t) : t.ctl = s.ctl := (congrArg State.ctl k.rest :)
theorem BinsOnly.agenda (k : BinsOnly s t) : t.agenda = s.agenda := (congrArg State.agenda k.rest :)
theorem BinsOnly.outbox (k : BinsOnly s t) : t.outbox = s.outbox := (congrArg State.outbox k.rest :)
theorem BinsOnly.die (k : BinsOnly s t) (d : Nat) : t.die d = s.die d := (congrArg (fun u => State.die u d) k.rest :)
theorem BinsOnly.slots (k : BinsOnly s t) (g : Nat) : (t.core g).slots = (s.core g).slots := (congrArg Core.slots (k.core g) :)
theorem BinsOnly.spm (k : BinsOnly s t) (g : Nat) : (t.core g).spm = (s.core g).spm := (congrArg Core.spm (k.core g) :)
theorem BinsOnly.dataKept (k : BinsOnly s t) : DataKept s t := ⟨k.mem, by rw [k.ctl], k.spm⟩

theorem BinsOnly.updCore {g} {f : Core → Core} (k : BinsOnly s0 s) (e : (f (s.core g)).binless = (s.core g).binless) :
    BinsOnly s0 (s.updCore g f) := by
  refine ⟨k.rest, fun j => ?_⟩
  by_cases at_ : j = g
  · rw [at_, State.updCore_core_self, e, k.core]
  · rw [State.updCore_core_ne _ _ _ _ at_, k.core]

theorem BinsOnly.freezeBins {g on} (k : BinsOnly s0 s) : BinsOnly s0 (s.freezeBins g on) :=
  k.updCore (by split <;> rfl)

theorem BinsOnly.foldl {α : Type} {f : State → α → State} {xs : List α} (k : BinsOnly s0 s)
    (kf : ∀ s x, BinsOnly s0 s → BinsOnly s0 (f s x)) : BinsOnly s0 (xs.foldl f s) :=
  List.foldlRecOn xs f k fun s k x _ => kf s x k

end

/-- Dies stop by their bits in the mask, and the bins of their cores freeze. -/
theorem State.haltAll_binsOnly (s : State) (dies : Nat) :
    BinsOnly (s.updCtl (fun c => { c with haltDies := c.haltDies ||| dies % 256 })) (s.haltAll dies) :=
  (BinsOnly.refl _).foldl fun s g k => by
    split
    · exact k.freezeBins
    · exact k

/-! ## A pre-emption request (R434) -/

theorem saveBaseOk_iff {s : State} {base : Nat} :
    s.saveBaseOk base = true ↔ base % 2 ^ 30 = 0 ∧ (regionOf s base = .hbm ∨ regionOf s base = .ddr) := by
  simp [State.saveBaseOk]

theorem execPreemptionRequest_skip {s : State} {base dies : Nat}
    (bad : base % 2 ^ 30 ≠ 0 ∨ (regionOf s base ≠ .hbm ∧ regionOf s base ≠ .ddr)) :
    execPreemptionRequest base dies s = .next s :=
  if_neg fun ok => by
    obtain ⟨aligned, inside⟩ := saveBaseOk_iff.1 ok
    exact bad.elim (· aligned) fun out => inside.elim out.1 out.2

theorem execPreemptionRequest_stops {s : State} {base dies : Nat} (aligned : base % 2 ^ 30 = 0)
    (inside : regionOf s base = .hbm ∨ regionOf s base = .ddr) :
    Reaches (execPreemptionRequest base dies s) fun t => DataKept s t ∧ t.ctl.saveBase = some base
      ∧ t.ctl.haltDies = s.ctl.haltDies ||| dies % 256 ∧ ∀ g, (t.core g).slots = (s.core g).slots := by
  have k := (s.updCtl (fun c => { c with saveBase := some base })).haltAll_binsOnly dies
  exact ⟨_, if_pos (saveBaseOk_iff.2 ⟨aligned, inside⟩), k.dataKept, by rw [k.ctl]; rfl, by rw [k.ctl]; rfl, k.slots⟩

/-! ## A core that halts (R434, R435) -/

theorem Control.walksNext_eq (c : Control) (ws : List WalkCtx) : ∃ q, c.walksNext ws = { c with walkQueue := q } := by
  induction ws generalizing c with
  | nil => exact ⟨c.walkQueue, rfl⟩
  | cons w ws ih =>
    rw [Control.walksNext]
    split
    · exact ih _
    · exact ih c

/-- What ends in the walk unit is in its own two lists. -/
theorem State.endWalks_eq (s : State) (gone : WalkCtx → Bool) :
    ∃ w q, s.endWalks gone = { s with ctl := { s.ctl with walks := w, walkQueue := q } } := by
  obtain ⟨q, e⟩ := Control.walksNext_eq { s.ctl with
    walks := s.ctl.walks.filter (fun w => !gone w), walkQueue := s.ctl.walkQueue.filter (fun w => !gone w) }
    (s.ctl.walkQueue.filter (fun w => !gone w))
  exact ⟨_, q, congrArg (fun c => { s with ctl := c }) e⟩

section
variable {s : State} {g : Nat}

/-- A core whose holders wait for nothing gives up nothing. -/
theorem State.abandonParked_settled (none_ : (s.core g).releases = []) (settled : ∀ p ∈ (s.core g).slots, Settled p.2) :
    s.abandonParked g = s := by
  refine List.foldlRecOn (motive := fun t => t = s) _ _ rfl fun t same p mem => ?_
  subst same
  obtain ⟨ll, -, -⟩ := settled p mem
  simp [State.abandoned, none_, ll]

/-- One slot of a core that halts. -/
def State.restSlot (g : Nat) (s : State) (p : Nat × Holder) : State := (s.leaveBlock g p.1).putHolder g p.1 p.2.atRest

theorem State.restSlots_eq (ps : AMap Holder) (s : State) :
    ∃ cs w, ps.foldl (State.restSlot g) s = { s with cores := cs, ctl := { s.ctl with wqs := w } } := by
  induction ps generalizing s with
  | nil => exact ⟨s.cores, s.ctl.wqs, rfl⟩
  | cons p ps ih => exact ih (State.restSlot g s p)

theorem State.restSlots_slots (ps : AMap Holder) (s : State) :
    ((ps.foldl (State.restSlot g) s).core g).slots = ps.foldl (fun t p => AMap.set t p.1 p.2.atRest) (s.core g).slots := by
  induction ps generalizing s with
  | nil => rfl
  | cons p ps ih =>
    refine (ih (State.restSlot g s p)).trans ?_
    rw [List.foldl_cons, State.restSlot, State.putHolder, State.updCore_core_self]
    rfl

theorem State.core_of_updCore {α : Type} (p : Core → α) {f : Core → Core} (e : ∀ c, p (f c) = p c) (s : State) (g k : Nat) :
    p ((s.updCore g f).core k) = p (s.core k) := by
  by_cases at_ : k = g
  · rw [at_, State.updCore_core_self, e]
  · rw [State.updCore_core_ne _ _ _ _ at_]

theorem State.restSlots_spm (ps : AMap Holder) (s : State) (k : Nat) :
    ((ps.foldl (State.restSlot g) s).core k).spm = (s.core k).spm := by
  induction ps generalizing s with
  | nil => rfl
  | cons p ps ih =>
    exact (ih _).trans (State.core_of_updCore Core.spm (f := fun c => { c with slots := AMap.set c.slots p.1 p.2.atRest })
      (fun _ => rfl) (s.leaveBlock g p.1) g k)

theorem Holder.atRest_blocked {h : Holder} {w} (e : h.status = .blocked w) : h.atRest = { h with status := .ready, ev := none } := by
  rw [Holder.atRest, e]

theorem Holder.atRest_other {h : Holder} (e : ∀ w, h.status ≠ .blocked w) : h.atRest = h := by
  unfold Holder.atRest
  split
  next w same => exact absurd same (e w)
  · rfl

theorem Holder.atRest_registers (h : Holder) :
    h.atRest.pc = h.pc ∧ h.atRest.sregs = h.sregs ∧ h.atRest.vregs = h.vregs ∧ h.atRest.preds = h.preds := by
  unfold Holder.atRest
  split <;> exact ⟨rfl, rfl, rfl, rfl⟩

theorem execCoreHalted_skip (wait : s.dieHalted (dieOf g) = false ∨ g ∈ s.ctl.haltedCores) : execCoreHalted g s = .next s :=
  if_pos (by rcases wait with run | done <;> simp [*])

/-- The row of a core on which nothing is outstanding. -/
theorem execCoreHalted_settled (stop : s.dieHalted (dieOf g) = true) (first : g ∉ s.ctl.haltedCores) (none_ : (s.core g).releases = [])
    (delayed : (s.core g).delayed = []) (arrivals : (s.core g).arrivals = []) (wqs : ∀ a ∈ s.ctl.wqArrivals, a.core ≠ g)
    (settled : ∀ p ∈ (s.core g).slots, Settled p.2) :
    execCoreHalted g s = .next (((((((s.core g).slots.foldl (State.restSlot g) s).updCore g (fun c => { c with misses := [] })).updCtl
      (fun k => { k with haltedCores := k.haltedCores ++ [g] })).endWalks (fun w => w.core == g))).send (.report 5 g 0)) := by
  have idle : (s.core g).slots.all (fun p => s.haltable p.2) = true := List.all_eq_true.2 fun p mem => by
    obtain ⟨ll, ext, writers⟩ := settled p mem
    simp [State.haltable, ll, ext, writers]
  have silent : (s.core g).slots.filter (fun p => !p.2.ext.isEmpty) = [] := List.filter_eq_nil_iff.2 fun p mem => by
    obtain ⟨-, ext, -⟩ := settled p mem
    simp [ext]
  have free : s.ctl.wqArrivals.any (fun a => a.core == g) = false := List.any_eq_false.2 fun a mem => by simpa using wqs a mem
  unfold execCoreHalted
  rw [State.abandonParked_settled none_ settled]
  simp only [stop, none_, delayed, arrivals, free, idle, silent, List.contains_eq_mem, decide_eq_false first]
  rfl

theorem execCoreHalted_halts (stop : s.dieHalted (dieOf g) = true) (first : g ∉ s.ctl.haltedCores) (none_ : (s.core g).releases = [])
    (delayed : (s.core g).delayed = []) (arrivals : (s.core g).arrivals = []) (wqs : ∀ a ∈ s.ctl.wqArrivals, a.core ≠ g)
    (sorted : AMap.sorted (s.core g).slots = true) (settled : ∀ p ∈ (s.core g).slots, Settled p.2) :
    Reaches (execCoreHalted g s) fun t => DataKept s t ∧ t.ctl.haltedCores = s.ctl.haltedCores ++ [g]
      ∧ t.outbox = s.outbox ++ [.report 5 g 0]
      ∧ ∀ q h, s.holder? g q = some h → ∃ h', t.holder? g q = some h' ∧ h'.pc = h.pc ∧ h'.sregs = h.sregs
        ∧ h'.vregs = h.vregs ∧ h'.preds = h.preds ∧ (∀ w, h.status = .blocked w → h'.status = .ready)
        ∧ ((∀ w, h.status ≠ .blocked w) → h' = h) := by
  refine ⟨_, execCoreHalted_settled stop first none_ delayed arrivals wqs settled, ?_⟩
  obtain ⟨cs, w, e⟩ := State.restSlots_eq (g := g) (s.core g).slots s
  have spm := State.restSlots_spm (g := g) (s.core g).slots s
  have slots := State.restSlots_slots (g := g) (s.core g).slots s
  have mem := (congrArg State.mem e :)
  have outbox := (congrArg State.outbox e :)
  have window := congrArg (fun t => t.ctl.window) e
  have halted := congrArg (fun t => t.ctl.haltedCores) e
  generalize (s.core g).slots.foldl (State.restSlot g) s = s1 at *
  obtain ⟨ws, q, ended⟩ := ((s1.updCore g (fun c => { c with misses := [] })).updCtl
    (fun k => { k with haltedCores := k.haltedCores ++ [g] })).endWalks_eq (fun w => w.core == g)
  refine ⟨⟨mem, (congrArg (fun t => t.ctl.window) ended).trans window, fun k => ?_⟩,
    (congrArg (fun t => t.ctl.haltedCores) ended).trans (congrArg (· ++ [g]) halted), congrArg (fun out => out ++ [OutMsg.report 5 g 0]) outbox,
    fun q h found => ⟨h.atRest, ?_, ?_⟩⟩
  · exact (State.core_of_updCore Core.spm (f := fun c => { c with misses := [] }) (fun _ => rfl) s1 g k).trans (spm k)
  · exact (congrArg (AMap.find? · q)
      ((State.core_of_updCore Core.slots (f := fun c => { c with misses := [] }) (fun _ => rfl) s1 g g).trans slots)).trans
      (AMap.find?_foldl_set sorted found)
  · obtain ⟨pc, sregs, vregs, preds⟩ := h.atRest_registers
    exact ⟨pc, sregs, vregs, preds, fun w e => by rw [Holder.atRest_blocked e], Holder.atRest_other⟩

end

end Sys2Proof.Machine
end

-- ==== Sys2Proof/Proofs/ContextSaved.lean ====

section
set_option Elab.async false
namespace Sys2Proof.Machine

open Sys2Proof.Claims

/-! ## Saving a context (R436) -/

theorem Cluster.inPass_eq (c : Cluster) : c.inPass = inPasses c := by
  unfold Cluster.inPass inPasses
  cases c.fetch <;> cases c.array <;> rfl

section
variable {s : State} {g : Nat}

theorem execContextSave_skip (wait : s.ctl.saveBase = none ∨ g ∉ s.ctl.haltedCores) : execContextSave g s = .next s := by
  unfold execContextSave
  extract_lets c x passing
  split
  · rfl
  next base e =>
    have out : g ∉ s.ctl.haltedCores := wait.resolve_left (by simp [e])
    exact if_pos (by simp [out])

theorem execContextSave_settled {base : Nat} (area : s.ctl.saveBase = some base) (halted : g ∈ s.ctl.haltedCores)
    (settled : ∀ p ∈ (s.core g).slots, Settled p.2)
    (still : ∀ e ∈ (s.cluster (cluOf g)).table, e.core = g → e.id ∉ inPasses (s.cluster (cluOf g))) :
    execContextSave g s = .next ((((s.core g).slots.foldl (fun (s : State) p => dripResidents g p.1 p.2 p.2.residents s) s).writeSave
      base g).takeSaved g) := by
  have passing : (s.cluster (cluOf g)).table.any (fun e => e.core == g && (s.cluster (cluOf g)).inPass.contains e.id) = false :=
    List.any_eq_false.2 fun e mem => by simpa [Cluster.inPass_eq] using still e mem
  have idle : (s.core g).slots.any (fun p => !p.2.ext.isEmpty || !p.2.ll.isEmpty) = false := List.any_eq_false.2 fun p mem => by
    obtain ⟨ll, ext, -⟩ := settled p mem
    simp [ll, ext]
  have member : s.ctl.haltedCores.contains g = true := by simpa using halted
  simp only [execContextSave, area, passing, idle, member]
  rfl

/-- A core whose context is taken away is left without holders, allocations and barriers, and they wait for its restore (R436). -/
theorem State.takeSaved_empties (s : State) (g : Nat) :
    ((s.takeSaved g).core g).slots = [] ∧ ((s.takeSaved g).core g).allocs = [] ∧ ((s.takeSaved g).core g).barriers = []
      ∧ (AMap.find? (s.takeSaved g).ctl.savedCores g).isSome = true
      ∧ ∀ p ∈ (s.core g).slots, (g, p.1, p.2) ∈ (s.takeSaved g).ctl.saved := by
  have emptied : (s.takeSaved g).core g = (s.core g).emptied := State.updCore_core_self _ g Core.emptied
  refine ⟨by rw [emptied]; rfl, by rw [emptied]; rfl, by rw [emptied]; rfl, AMap.has_set_self s.ctl.savedCores g _, fun p mem => ?_⟩
  exact List.mem_append_right _ (List.mem_map.2 ⟨p, mem, rfl⟩)

theorem SlotsKept.dripHolders {s0 s : State} (ps : AMap Holder) (k : SlotsKept s0 s) :
    SlotsKept s0 (ps.foldl (fun (s : State) p => Machine.dripResidents g p.1 p.2 p.2.residents s) s) :=
  k.foldl fun _ _ k => k.dripResidents

theorem execContextSave_saves {base : Nat} (area : s.ctl.saveBase = some base) (halted : g ∈ s.ctl.haltedCores)
    (settled : ∀ p ∈ (s.core g).slots, Settled p.2)
    (still : ∀ e ∈ (s.cluster (cluOf g)).table, e.core = g → e.id ∉ inPasses (s.cluster (cluOf g))) :
    Reaches (execContextSave g s) fun t => (t.core g).slots = [] ∧ (t.core g).allocs = [] ∧ (t.core g).barriers = []
      ∧ (AMap.find? t.ctl.savedCores g).isSome = true ∧ ∀ p ∈ (s.core g).slots, (g, p.1, p.2) ∈ t.ctl.saved := by
  refine ⟨_, execContextSave_settled area halted settled still, ?_⟩
  have kept := ((SlotsKept.refl s).dripHolders (g := g) (s.core g).slots).writeSave (base := base) (g := g)
  obtain ⟨slots, allocs, barriers, core, saved⟩ := State.takeSaved_empties (State.writeSave _ base g) g
  exact ⟨slots, allocs, barriers, core, fun p mem => saved p ((kept g).symm ▸ mem)⟩

end

/-! ## Restoring a context (R438, R439) -/

theorem Holder.resumeReplay_empty {h : Holder} (e : h.replay = []) : h.resumeReplay = h := by simp [Holder.resumeReplay, e]

section
variable {s : State} {a b : Nat}

@[simp] theorem State.resumeCore_mem (s : State) (g : Nat) : (s.resumeCore g).mem = s.mem := rfl
@[simp] theorem State.resumeCore_outbox (s : State) (g : Nat) : (s.resumeCore g).outbox = s.outbox := rfl
@[simp] theorem State.resumeCore_saved (s : State) (g : Nat) : (s.resumeCore g).ctl.saved = s.ctl.saved := rfl
@[simp] theorem State.resumeCore_savedCores (s : State) (g : Nat) : (s.resumeCore g).ctl.savedCores = s.ctl.savedCores := rfl
@[simp] theorem State.resumeCore_haltedCores (s : State) (g : Nat) :
    (s.resumeCore g).ctl.haltedCores = s.ctl.haltedCores.filter (· != g) := rfl

/-- A core that goes on has its holders, the replay of each begun. -/
theorem State.core_resumeCore (s : State) (g : Nat) :
    BinsOnly (s.updCore g (fun c => { c with slots := c.slots.map (fun p => (p.1, p.2.resumeReplay)) }))
      { s.resumeCore g with ctl := s.ctl } := by
  refine ⟨rfl, fun k => ?_⟩
  refine State.core_of_updCore Core.binless (f := fun c => if c.frozenBins = false then c else { c with
    frozenBins := false, bins := c.bins.map (fun p => (p.1, { p.2 with started := s.clock - p.2.started })) }) (fun c => ?_) _ g k
  split <;> rfl

/-- The bit of a die that is cleared when a core of it goes on (R434). -/
theorem State.resumeCore_dieHalted (s : State) (g : Nat) : (s.resumeCore g).dieHalted (dieOf g) = false := by
  change ((if bitN s.ctl.haltDies (dieOf g) then s.ctl.haltDies - 2 ^ dieOf g else s.ctl.haltDies) / 2 ^ dieOf g % 2 == 1) = false
  unfold bitN
  have pos : 0 < 2 ^ dieOf g := Nat.two_pow_pos _
  split
  next set_ =>
    have odd : s.ctl.haltDies / 2 ^ dieOf g % 2 = 1 := by simpa using set_
    have less : (s.ctl.haltDies - 2 ^ dieOf g) / 2 ^ dieOf g = s.ctl.haltDies / 2 ^ dieOf g - 1 := by
      simpa using Nat.sub_mul_div s.ctl.haltDies (2 ^ dieOf g) 1
    simp [less]; omega
  next clear => simpa using clear

/-- Core `d` with what the saved core `c` gives it. -/
def Core.handed (d c : Core) (same : Prop) [Decidable same] (a : Nat) (spm : Memory) : Core :=
  { d with
    spm := spm
    allocs := c.allocs, barriers := c.barriers, bins := c.bins, frozenBins := c.frozenBins
    pieces := c.pieces.map (fun p => if same then p else { p with away := some (p.away.getD a) })
    pieceHead := if same then c.pieceHead else d.pieceHead
    ranges := c.ranges, tbase := c.tbase }

/-- What waits for the restore of core a waits no longer. -/
def State.forgetSaved (s : State) (a b : Nat) (y : Cluster) : State :=
  (s.updCtl (fun k => { k with
    saved := k.saved.filter (fun x => x.1 != a), savedCores := AMap.erase k.savedCores a,
    savedTiles := AMap.erase k.savedTiles a })).giveTiles a b y

/-- The state that a restore of core a's context gives core b, before its holders take their slots. -/
def State.handBack (s : State) (base a b : Nat) (c : Core) (y : Cluster) : State :=
  let area := coreArea base a
  let s2 := (s.forgetSaved a b y).updCore b (fun d => d.handed c (a = b) a
    ((s.mem.filter (fun m => decide (area ≤ m.1) && decide (m.1 < area + c.partition))).map (fun m => (m.1 - area, m.2))))
  { s2 with commands := s2.commands.map (fun (p : Nat × Command) => (p.1,
    if p.2.saved && p.2.core == a then
      { p.2 with saved := false, core := b, engine := if p.2.engine < 320 then 256 + cluOf b else 320 + dieOf b }
    else p.2)) }

theorem restore_waits_false {dst : Nat} (halted : ∀ p ∈ s.cores, dieOf p.1 = dieOf dst → p.1 ∈ s.ctl.haltedCores) :
    s.cores.any (fun p => dieOf p.1 == dieOf dst && s.dieHalted (dieOf dst) && !s.ctl.haltedCores.contains p.1) = false :=
  List.any_eq_false.2 fun p mem => by
    simp only [Bool.and_eq_true, beq_iff_eq, List.contains_eq_mem, Bool.not_eq_true', decide_eq_false_iff_not, not_and, not_not]
    exact fun ⟨e, _⟩ => halted p mem e

section
variable (halted : ∀ p ∈ s.cores, dieOf p.1 = dieOf b → p.1 ∈ s.ctl.haltedCores)
include halted

theorem execContextRestore_absent (absent : AMap.find? s.ctl.savedCores a = none) :
    execContextRestore a b s = if a = b ∧ s.ctl.haltedCores.contains b = true then .next (s.resumeCore b) else .next s := by
  simp only [execContextRestore, restore_waits_false halted, absent]
  cases s.ctl.saveBase <;> rfl

theorem execContextRestore_taken {base : Nat} {c : Core} (empty : (s.core b).slots = []) (area : s.ctl.saveBase = some base)
    (kept : AMap.find? s.ctl.savedCores a = some c) (tiles : AMap.getD s.ctl.savedTiles a {} = {}) :
    execContextRestore a b s = .next (((((s.ctl.saved.filter (fun x => x.1 == a)).map (fun x => (x.2.1, x.2.2))).foldl
      (restoreHolder base a b (s.cluster (cluOf b)).nextTile) (s.handBack base a b c {})).resumeCore b)) := by
  simp only [execContextRestore, restore_waits_false halted, area, kept, tiles, empty]
  exact if_neg (by simp)

end

section
variable (s a b) (base : Nat) (c : Core)

theorem State.core_handBack : ∃ spm, (s.handBack base a b c {}).core b = (s.core b).handed c (a = b) a spm :=
  ⟨_, State.updCore_core_self (s.forgetSaved a b {}) b (fun d => d.handed c (a = b) a _)⟩

theorem State.handBack_mem : (s.handBack base a b c {}).mem = s.mem := rfl

theorem State.handBack_saved : (s.handBack base a b c {}).ctl.saved = s.ctl.saved.filter (fun x => x.1 != a) := rfl

theorem State.handBack_savedCores : (s.handBack base a b c {}).ctl.savedCores = AMap.erase s.ctl.savedCores a := rfl

theorem State.fused_handBack : ((s.handBack base a b c {}).cluster (cluOf b)).fused = (s.cluster (cluOf b)).fused :=
  (congrArg Cluster.fused (AMap.getD_set_self s.clusters (cluOf b) _ {}) :)

/-- The checks of a record read nothing that the restore has changed before (R439). -/
theorem recordRefusal_handBack (q : Nat) (h : Holder) :
    recordRefusal (s.handBack base a b c {}) base a b q h = recordRefusal s base a b q h := by
  obtain ⟨spm, e⟩ := s.core_handBack a b base c
  unfold recordRefusal
  rw [State.fused_handBack, e]
  rfl

end

/-- A core that goes on keeps all but the replay of its holders (R434). -/
theorem State.resumeCore_core (s : State) (g : Nat) : ∃ d, (s.resumeCore g).core g = d
    ∧ d.slots = (s.core g).slots.map (fun p => (p.1, p.2.resumeReplay)) ∧ d.allocs = (s.core g).allocs
    ∧ d.barriers = (s.core g).barriers ∧ d.tbase = (s.core g).tbase := by
  have k := (s.core_resumeCore g).core g
  rw [State.updCore_core_self] at k
  exact ⟨_, rfl, (congrArg Core.slots k :), (congrArg Core.allocs k :), (congrArg Core.barriers k :), (congrArg Core.tbase k :)⟩

theorem not_mem_haltedCores_resumeCore (s : State) (g : Nat) : g ∉ (s.resumeCore g).ctl.haltedCores := by simp

theorem restoreHolder_accepted {s : State} {base a b t0 q : Nat} {h : Holder} (accs : h.accs = []) (parts : h.outParts = [])
    (good : recordRefusal s base a b q h = 0) : restoreHolder base a b t0 s (q, h) = s.takeBack b q h := by
  have same (f : Nat × AccName → Nat × AccName) : { h with accs := h.accs.map f } = h := by rw [accs, List.map_nil, ← accs]
  simp only [restoreHolder, same, good, parts, ite_self, copyParts]
  rfl

theorem restoreHolder_refused {s : State} {base a b t0 q : Nat} {h : Holder} (accs : h.accs = [])
    (bad : recordRefusal s base a b q h ≠ 0) : restoreHolder base a b t0 s (q, h) =
      (s.endMembers b h true).send (.report 6 (32 * a + q) (recordRefusal s base a b q h)) := by
  have same (f : Nat × AccName → Nat × AccName) : { h with accs := h.accs.map f } = h := by rw [accs, List.map_nil, ← accs]
  simp only [restoreHolder, same]
  rw [if_pos bad, accs]
  rfl

theorem State.mem_outbox_send (s : State) (m : OutMsg) : m ∈ (s.send m).outbox := List.mem_append_right _ (List.mem_singleton_self m)

theorem State.takeBack_mem (s : State) (g q : Nat) (h : Holder) : (s.takeBack g q h).mem = s.mem := rfl

theorem State.takeBack_ctl (s : State) (g q : Nat) (h : Holder) : (s.takeBack g q h).ctl = s.ctl := rfl

theorem State.takeBack_slots (s : State) (g q : Nat) (h : Holder) :
    ((s.takeBack g q h).core g).slots = AMap.set (s.core g).slots q h.resumeReplay := by
  refine (congrArg Core.slots (State.updCore_core_self (s.putHolder g q h.resumeReplay) g _) :).trans ?_
  exact congrArg Core.slots (State.updCore_core_self s g (fun c => { c with slots := AMap.set c.slots q h.resumeReplay }))

theorem State.endItems_eq (s : State) (g grid team n : Nat) (stopped : Bool) :
    ∃ gs is, s.endItems g grid team n stopped = { s with grids := gs, agenda := is } := by
  unfold State.endItems State.updGrid
  extract_lets gr m s1
  split <;> (dsimp only [s1]; split <;> exact ⟨_, _, rfl⟩)

/-- The end of a holder is counted in its grid (R183). -/
theorem State.endMembers_eq (s : State) (g : Nat) (h : Holder) (stopped : Bool) :
    ∃ gs is, s.endMembers g h stopped = { s with grids := gs, agenda := is } := by
  unfold State.endMembers
  extract_lets t
  split
  · refine List.foldlRecOn (motive := fun u => ∃ (gs : AMap Grid) (is : List Event), u = { s with grids := gs, agenda := is }) _ _
      ⟨s.grids, s.agenda, rfl⟩ fun u same x _ => ?_
    obtain ⟨gs, is, rfl⟩ := same
    obtain ⟨gs, is, e⟩ := State.endItems_eq { s with grids := gs, agenda := is } g h.grid x.1 (x.2.2 - x.2.1) stopped
    exact ⟨gs, is, e⟩
  · exact s.endItems_eq ..

theorem State.endMembers_ctl (s : State) (g : Nat) (h : Holder) (stopped : Bool) : (s.endMembers g h stopped).ctl = s.ctl := by
  obtain ⟨_, _, e⟩ := s.endMembers_eq g h stopped; rw [e]

theorem State.endMembers_slots (s : State) (g : Nat) (h : Holder) (stopped : Bool) (k : Nat) :
    ((s.endMembers g h stopped).core k).slots = (s.core k).slots := by
  obtain ⟨_, _, e⟩ := s.endMembers_eq g h stopped; rw [e]; rfl

section
variable {base : Nat} {c : Core} (halted : ∀ p ∈ s.cores, dieOf p.1 = dieOf b → p.1 ∈ s.ctl.haltedCores)
  (empty : (s.core b).slots = []) (area : s.ctl.saveBase = some base) (kept : AMap.find? s.ctl.savedCores a = some c)
  (tiles : AMap.getD s.ctl.savedTiles a {} = {})
include halted empty area kept tiles

theorem execContextRestore_gives (sorted : AMap.sorted s.ctl.savedCores = true) (none_ : s.ctl.saved = []) :
    Reaches (execContextRestore a b s) fun t => t.mem = s.mem ∧ (t.core b).allocs = c.allocs
      ∧ (t.core b).barriers = c.barriers ∧ (t.core b).tbase = c.tbase ∧ AMap.find? t.ctl.savedCores a = none
      ∧ b ∉ t.ctl.haltedCores ∧ t.dieHalted (dieOf b) = false := by
  refine ⟨_, execContextRestore_taken halted empty area kept tiles, ?_⟩
  rw [none_]
  obtain ⟨spm, handed⟩ := s.core_handBack a b base c
  obtain ⟨d, e, -, allocs, barriers, tbase⟩ := State.resumeCore_core (s.handBack base a b c {}) b
  rw [handed] at allocs barriers tbase
  rw [List.filter_nil, List.map_nil, List.foldl_nil, State.resumeCore_mem, State.resumeCore_savedCores, State.handBack_mem,
    State.handBack_savedCores, e]
  exact ⟨rfl, allocs, barriers, tbase, AMap.find?_erase_self sorted, not_mem_haltedCores_resumeCore _ b,
    State.resumeCore_dieHalted _ b⟩

theorem execContextRestore_one {q : Nat} {h : Holder} (one : s.ctl.saved = [(a, q, h)]) :
    execContextRestore a b s = .next ((restoreHolder base a b (s.cluster (cluOf b)).nextTile
      (s.handBack base a b c {}) (q, h)).resumeCore b) := by
  rw [execContextRestore_taken halted empty area kept tiles, one]
  simp

theorem execContextRestore_holder {q : Nat} {h : Holder} (one : s.ctl.saved = [(a, q, h)]) (accs : h.accs = [])
    (parts : h.outParts = []) (replay : h.replay = []) (good : recordRefusal s base a b q h = 0) :
    Reaches (execContextRestore a b s) fun t => t.holder? b q = some h ∧ t.mem = s.mem ∧ t.ctl.saved = [] := by
  refine ⟨_, execContextRestore_one halted empty area kept tiles one, ?_⟩
  rw [restoreHolder_accepted accs parts ((recordRefusal_handBack s a b base c q h).trans good)]
  beta_reduce
  rw [State.resumeCore_mem, State.resumeCore_saved, State.takeBack_mem, State.takeBack_ctl, State.handBack_mem, State.handBack_saved, one]
  obtain ⟨d, e, slots, -⟩ := State.resumeCore_core ((s.handBack base a b c {}).takeBack b q h) b
  obtain ⟨spm, handed⟩ := s.core_handBack a b base c
  rw [State.takeBack_slots, handed] at slots
  refine ⟨?_, rfl, by simp⟩
  rw [State.holder?, e, slots, AMap.find?_map, Holder.resumeReplay_empty replay, AMap.find?_set_self, Option.map_some,
    Holder.resumeReplay_empty replay]

theorem execContextRestore_refused {q : Nat} {h : Holder} (one : s.ctl.saved = [(a, q, h)]) (accs : h.accs = [])
    (bad : recordRefusal s base a b q h ≠ 0) :
    Reaches (execContextRestore a b s) fun t => t.holder? b q = none
      ∧ .report 6 (32 * a + q) (recordRefusal s base a b q h) ∈ t.outbox ∧ t.ctl.saved = [] := by
  refine ⟨_, execContextRestore_one halted empty area kept tiles one, ?_⟩
  have same := recordRefusal_handBack s a b base c q h
  obtain ⟨spm, handed⟩ := s.core_handBack a b base c
  rw [← same] at bad
  rw [restoreHolder_refused accs bad, same]
  have slots := State.endMembers_slots (s.handBack base a b c {}) b h true b
  have saved := State.endMembers_ctl (s.handBack base a b c {}) b h true
  rw [handed] at slots
  generalize (s.handBack base a b c {}).endMembers b h true = s1 at slots saved
  generalize OutMsg.report 6 (32 * a + q) (recordRefusal s base a b q h) = m
  obtain ⟨d, e, back, -⟩ := State.resumeCore_core (s1.send m) b
  beta_reduce
  rw [State.resumeCore_outbox, State.resumeCore_saved]
  refine ⟨?_, State.mem_outbox_send s1 m, ?_⟩
  · rw [State.holder?, e, back]
    change AMap.find? ((s1.core b).slots.map _) q = none
    rw [slots]
    change AMap.find? ((s.core b).slots.map _) q = none
    rw [empty]
    rfl
  · change s1.ctl.saved = []
    rw [saved, State.handBack_saved, one]
    simp

end

theorem execContextRestore_same {g : Nat} (halted : ∀ p ∈ s.cores, dieOf p.1 = dieOf g → p.1 ∈ s.ctl.haltedCores)
    (here : g ∈ s.ctl.haltedCores) (absent : AMap.find? s.ctl.savedCores g = none) :
    Reaches (execContextRestore g g s) fun t => t.mem = s.mem ∧ t.ctl.haltedCores = s.ctl.haltedCores.filter (· != g)
      ∧ t.dieHalted (dieOf g) = false ∧ ((∀ p ∈ (s.core g).slots, p.2.replay = []) → (t.core g).slots = (s.core g).slots) := by
  refine ⟨s.resumeCore g, (execContextRestore_absent halted absent).trans (if_pos ⟨rfl, by simpa using here⟩), rfl, rfl,
    s.resumeCore_dieHalted g, fun idle => ?_⟩
  obtain ⟨d, e, slots, -⟩ := s.resumeCore_core g
  rw [e, slots]
  exact (List.map_congr_left fun p mem => by rw [Holder.resumeReplay_empty (idle p mem)]; rfl).trans (List.map_id _)

end
end Sys2Proof.Machine
end

-- ==== Sys2Proof/Proofs/Resets.lean ====

section
set_option Elab.async false
namespace Sys2Proof.Machine

open Sys2Proof.Claims

/-! ## Resets (R17 to R20) -/

/-- Cells that go by their address leave zero, and the others what they held. -/
theorem Memory.read_filter {m : Memory} (keep : Nat → Bool) (h : Memory.wf m = true) (b : Nat) :
    Memory.read (m.filter (fun c => keep c.1)) b = if keep b then Memory.read m b else 0#8 := by
  induction m with
  | nil => exact (ite_self _).symm
  | cons c m ih =>
    obtain ⟨_, above, wf⟩ := Memory.wf_cons.1 h
    have first : b < c.1 → Memory.read (m.filter (fun c => keep c.1)) b = 0#8 := fun lt =>
      Memory.read_of_above (Memory.above_filter _ above wf) lt.le
    rw [List.filter_cons]
    by_cases at_ : c.1 = b
    · subst at_
      by_cases kept : keep c.1 = true
      · simp [kept, Memory.read]
      · rw [if_neg kept, if_neg kept]
        exact Memory.read_of_above (Memory.above_filter _ above wf) le_rfl
    · by_cases lt : b < c.1
      · have blank : Memory.read (c :: m) b = 0#8 := by rw [Memory.read, if_neg at_, if_pos lt]; rfl
        rw [blank, ite_self]
        split
        · rw [Memory.read, if_neg at_, if_pos lt]; rfl
        · exact first lt
      · have later : Memory.read (c :: m) b = Memory.read m b := by rw [Memory.read, if_neg at_, if_neg lt]
        rw [later, ← ih wf]
        split
        · rw [Memory.read, if_neg at_, if_neg lt]
        · rfl

theorem State.survives_eq_lasts (s : State) : s.survives = lasts s := by
  funext a
  rw [Bool.eq_iff_iff]
  unfold State.survives lasts State.jbase State.ddrBytes ddrBase
  split <;> simp only [Bool.or_eq_true, Bool.and_eq_true, decide_eq_true_eq] <;> omega

theorem execPackageWarmReset_keeps {s : State} (wf : Memory.wf s.mem = true) (own : s.backing = []) :
    Reaches (execPackageWarmReset s) fun t =>
      t.clock = s.clock ∧ t.cores = [] ∧ t.grids = [] ∧ t.dies = State.reset.dies ∧ t.issue = []
        ∧ ∀ b, Memory.read t.mem b = if lasts s b then Memory.read s.mem b else 0#8 := by
  refine ⟨_, rfl, rfl, rfl, rfl, rfl, rfl, fun b => ?_⟩
  change Memory.read (s.inMemory.filter (fun x => s.survives x.1)) b = _
  rw [State.inMemory, own, State.survives_eq_lasts]
  exact Memory.read_filter (lasts s) wf b

/-! ### A die's reset asks for the halt of the package (R18) -/

section
variable {s : State} {d : Nat}

theorem execComputeDieReset_skip (off : 8 ≤ d ∨ (s.die d).resetting = true) : execComputeDieReset d s = .next s := if_pos off

section
variable (real : d < 8) (up : (s.die d).resetting = false)
include real up

theorem computeDieReset_due : ¬(8 ≤ d ∨ (s.die d).resetting = true) := by simp [up]; exact real

theorem execComputeDieReset_halts (free : s.ctl.resetDie = none) : Reaches (execComputeDieReset d s) fun t => DataKept s t
    ∧ t.ctl.resetDie = some (d, s.ctl.haltDies, s.ctl.haltedCores) ∧ t.ctl.haltDies = s.ctl.haltDies ||| 255
    ∧ Event.computeDieReset d ∈ t.agenda ∧ ∀ g, (t.core g).slots = (s.core g).slots := by
  have k := (s.updCtl (fun c => { c with resetDie := some (d, c.haltDies, c.haltedCores) })).haltAll_binsOnly 255
  refine ⟨((s.updCtl (fun c => { c with resetDie := some (d, c.haltDies, c.haltedCores) })).haltAll 255).push [.computeDieReset d],
    ?_, k.dataKept, ?_, ?_, List.mem_append_right _ (List.mem_singleton_self _), k.slots⟩
  · unfold execComputeDieReset
    rw [if_neg (computeDieReset_due real up), free]
  · exact (congrArg Control.resetDie k.ctl :)
  · exact (congrArg Control.haltDies k.ctl :)

variable {dies : Nat} {cores : List Nat} (mine : s.ctl.resetDie = some (d, dies, cores))
include mine

theorem execComputeDieReset_waits (runs : ∃ p ∈ s.cores, p.1 ∉ s.ctl.haltedCores) : execComputeDieReset d s = .next s := by
  obtain ⟨p, mem, run⟩ := runs
  unfold execComputeDieReset
  rw [if_neg (computeDieReset_due real up), mine]
  exact if_pos (.inr (by simpa using ⟨p.1, ⟨p.2, mem⟩, run⟩))

theorem execComputeDieReset_due (halted : ∀ p ∈ s.cores, p.1 ∈ s.ctl.haltedCores) :
    execComputeDieReset d s = .next (resetDie d dies cores s) := by
  have all : s.cores.all (fun p => s.ctl.haltedCores.contains p.1) = true :=
    List.all_eq_true.2 fun p mem => by simpa using halted p mem
  unfold execComputeDieReset
  rw [if_neg (computeDieReset_due real up), mine]
  exact if_neg (by simp only [all]; simp)

end

/-! ### What the reset does to memory (R18) -/

theorem State.zeroed_eq_inStacks (s : State) (d b : Nat) : s.zeroed d (b / 128) = inStacks s d b := by
  rw [Bool.eq_iff_iff]
  by_cases none_ : s.ctl.ddrGiB = 0
  · simp only [State.zeroed, inStacks, State.jbase, none_, Bool.and_eq_true, Bool.not_eq_true', beq_iff_eq,
      field, decide_eq_true_eq, if_pos, Bool.and_eq_false_iff, decide_eq_false_iff_not, beq_eq_false_iff_ne]
    omega
  · simp only [State.zeroed, inStacks, Bool.and_eq_true, Bool.not_eq_true', beq_iff_eq, field,
      decide_eq_true_eq, Bool.and_eq_false_iff, decide_eq_false_iff_not, beq_eq_false_iff_ne]
    omega

theorem State.read_zeroDie (wf : Memory.wf s.mem = true) (b : Nat) :
    Memory.read (s.zeroDie d).mem b = if inStacks s d b then 0#8 else Memory.read s.mem b := by
  refine (Memory.read_filter (fun a => !s.zeroed d (a / 128)) wf b).trans ?_
  rw [State.zeroed_eq_inStacks]
  cases inStacks s d b <;> rfl

/-- No cache of die d holds the newest bytes of a line. -/
def State.cleanDie (s : State) (d : Nat) : Prop :=
  ∀ p ∈ s.cores, dieOf p.1 = d → p.2.wbuf = [] ∧ ∀ l ∈ p.2.l1, l.2.st ≠ .m ∧ l.2.st ≠ .o

theorem State.cleanDie_zeroDie (clean : s.cleanDie d) : (s.zeroDie d).cleanDie d := by
  intro p mem on
  obtain ⟨x, old, rfl⟩ := List.mem_map.1 mem
  obtain ⟨wbuf, l1⟩ := clean x old on
  exact ⟨by simp [wbuf], fun l mem => l1 l (List.mem_filter.1 mem).1⟩

theorem State.forgetDie_mem (clean : s.cleanDie d) : (s.forgetDie d).mem = s.mem := by
  have nothing : ∀ e : Nat × DirEntry, ((e.2.owner.any (fun a => agentOnDie d a)) && s.cores.any (fun c => dieOf c.1 == d
      && ((AMap.find? c.2.l1 e.1).any (fun l => l.st == .m || l.st == .o) || AMap.has c.2.wbuf e.1))) = false := by
    intro e
    rw [Bool.and_eq_false_iff]
    refine .inr (List.any_eq_false.2 fun c mem => ?_)
    by_cases on : dieOf c.1 = d
    · obtain ⟨wbuf, l1⟩ := clean c mem on
      cases found : AMap.find? c.2.l1 e.1 with
      | none => simp [wbuf, AMap.has, AMap.find?]
      | some l => simp [wbuf, AMap.has, AMap.find?, (l1 _ (AMap.mem_of_find? found)).1, (l1 _ (AMap.mem_of_find? found)).2]
    · simp [on]
  unfold State.forgetDie
  simp only [nothing, List.filter_false]
  rfl

theorem CohFrame.cutBusy {s0 : State} (k : CohFrame s0 s) : CohFrame s0 (s.cutBusy d) := by
  refine k.foldl fun s p k => k.foldl fun s x k => ?_
  have set_ : CohFrame s0 (s.updDie p.1 (fun y => { y with busy := AMap.set y.busy x.1 (x.2.without d) })) := k.updDie rfl
  exact set_.endBusy.ite set_.sendGrant

theorem CohFrame.updGrid {s0 : State} {n f} (k : CohFrame s0 s) : CohFrame s0 (s.updGrid n f) := by
  unfold State.updGrid
  split
  · exact k
  · exact k.of_eq rfl rfl rfl rfl

theorem CohFrame.returnTeams {s0 : State} (k : CohFrame s0 s) : CohFrame s0 (s.returnTeams d) :=
  CohFrame.foldl (CohFrame.foldl (k.of_eq rfl rfl rfl rfl) fun _ _ k => k.updGrid) fun _ _ k => k.updGrid

/-- Up to the loss of its own state, a reset changes memory only where it zeroes (R18). -/
theorem State.resetDie_mem (clean : s.cleanDie d) :
    ((((((s.orphanDie d).zeroDie d).forgetDie d).cutBusy d).endCommands d |>.returnTeams d).clearDie d).mem = (s.zeroDie d).mem := by
  have gone : (s.orphanDie d).cleanDie d := clean
  calc _ = (((((s.orphanDie d).zeroDie d).forgetDie d).cutBusy d).endCommands d |>.returnTeams d).mem := rfl
    _ = (((((s.orphanDie d).zeroDie d).forgetDie d).cutBusy d).endCommands d).mem := (CohFrame.refl _).returnTeams.mem
    _ = (((s.orphanDie d).zeroDie d).forgetDie d).mem := (CohFrame.refl (((s.orphanDie d).zeroDie d).forgetDie d)).cutBusy.mem
    _ = ((s.orphanDie d).zeroDie d).mem := State.forgetDie_mem (State.cleanDie_zeroDie gone)
    _ = _ := rfl

/-! ### What the reset does to the grids (R19) -/

theorem CohFrame.sendFabric {s0 : State} {p line m} (k : CohFrame s0 s) : CohFrame s0 (s.sendFabric p line m) := by
  unfold State.sendFabric
  split
  · exact k.send
  · exact (k.updCtl rfl).send

theorem CohFrame.reachNode {s0 : State} {grid n lo hi} (k : CohFrame s0 s) : CohFrame s0 (s.reachNode grid n lo hi) := k.updGrid.push

theorem CohFrame.sendRange {s0 : State} {grid c lo hi} (k : CohFrame s0 s) : CohFrame s0 (s.sendRange grid c lo hi) := by
  unfold State.sendRange
  split
  · exact k.push
  · exact k.reachNode.ite k.updGrid.sendFabric
  · exact k.reachNode

theorem CohFrame.gridAfter {s0 : State} {grid ts} (k : CohFrame s0 s) : CohFrame s0 (s.gridAfter grid ts) := by
  unfold State.gridAfter
  split
  · exact k
  · refine k.ite ?_
    extract_lets n s1 kids s2 caps total
    have undone : CohFrame s0 s1 := k.updGrid
    refine CohFrame.ite ?_ undone.updGrid.push
    exact CohFrame.ite (k := undone.updGrid.push.updGrid)
      (CohFrame.foldl undone.updGrid.push fun _ _ k => k.foldl fun _ _ k => k.sendRange)

/-- A die that has lost its state has no holder left, and memory is as it was (R18). -/
theorem State.core_clearDie (s : State) {g d : Nat} (on : dieOf g = d) : (s.clearDie d).core g = {} := by
  have out : AMap.find? (s.cores.filter (fun p => dieOf p.1 != d)) g = none :=
    AMap.find?_filter_out (keep := fun k => dieOf k != d) (by simp [on])
  rw [State.core, AMap.getD, State.clearDie, out]
  rfl

theorem resetDie_clears (clean : s.cleanDie d) (wf : Memory.wf s.mem = true) (dies : Nat) (cores : List Nat) :
    let t := resetDie d dies cores s
    (t.die d).resetting = true ∧ (t.die d).online = false ∧ t.ctl.resetDie = none ∧ t.ctl.haltDies = dies
      ∧ (∀ g, dieOf g = d → (t.core g).slots = [])
      ∧ ∀ b, Memory.read t.mem b = if inStacks s d b then 0#8 else Memory.read s.mem b := by
  unfold resetDie
  extract_lets work s1 s2 s3 t
  have bins : BinsOnly s2 s3 := (BinsOnly.refl s2).foldl fun s g k => by
    split
    · exact k
    · exact k.freezeBins
  have deal : CohFrame s3 t := (CohFrame.refl s3).foldl fun _ _ k => k.gridAfter
  have lost : s1.die d = { resetting := true } := AMap.getD_set_self ..
  have empty : ∀ g, dieOf g = d → s1.core g = {} := fun g on => State.core_clearDie _ on
  have mem : s1.mem = (s.zeroDie d).mem := State.resetDie_mem clean
  clear_value s1
  have die : s2.die d = s1.die d := rfl
  have cores : s2.cores = s1.cores := rfl
  have same : s2.mem = s1.mem := rfl
  have ended : s2.ctl.resetDie = none ∧ s2.ctl.haltDies = dies := ⟨rfl, rfl⟩
  clear_value s2 s3 t
  have still := deal.die d
  rw [bins.die, die, lost] at still
  have ctl := deal.ctl
  rw [bins.ctl] at ctl
  refine ⟨(congrArg Die.resetting still :), (congrArg Die.online still :), (congrArg Control.resetDie ctl :).trans ended.1,
    (congrArg Control.haltDies ctl :).trans ended.2, fun g on => ?_, fun b => ?_⟩
  · rw [deal.slots, bins.slots, State.core, cores]; exact congrArg Core.slots (empty g on)
  · rw [deal.mem, bins.mem, same, mem, State.read_zeroDie wf]

end

/-! ### The firmware's restart (R459) -/

/-- A step of the restart leaves all but the control die's ports and queues. -/
def QueuesOnly (s t : State) : Prop :=
  { t with ctl := s.ctl } = s ∧ t.ctl.window = s.ctl.window ∧ t.ctl.journal = s.ctl.journal

theorem QueuesOnly.updPort {s t : State} {p f} (k : QueuesOnly s t) : QueuesOnly s (t.updPort p f) := k

theorem QueuesOnly.updQueue {s t : State} {q f} (k : QueuesOnly s t) : QueuesOnly s (t.updQueue q f) := k

theorem execFirmwareRestart_restarts (s : State) : Reaches (execFirmwareRestart s) fun t => DataKept s t ∧ t.cores = s.cores
    ∧ t.grids = s.grids ∧ t.ctl.firmwareUp = true ∧ t.ctl.journal = s.ctl.journal
    ∧ ∀ p ∈ s.ctl.journal, p.2.state = 1 → Event.journalAccept p.1 ∈ t.agenda := by
  unfold execFirmwareRestart
  extract_lets s1 s2
  have ports : QueuesOnly s s1 := List.foldlRecOn _ _ ⟨rfl, rfl, rfl⟩ fun s k p _ => by
    split
    · exact k
    · exact k.updPort
  have queues : QueuesOnly s s2 := List.foldlRecOn _ _ ports fun s k q _ => k.updQueue
  clear_value s1 s2
  obtain ⟨rest, window, journal⟩ := queues
  have mem := (congrArg State.mem rest :)
  have cores := (congrArg State.cores rest :)
  have grids := (congrArg State.grids rest :)
  refine ⟨_, rfl, ⟨mem, window, fun k => (congrArg (fun u => (State.core u k).spm) rest :)⟩, cores, grids, rfl, journal,
    fun p mem st => ?_⟩
  refine List.mem_append_right _ (List.mem_append_left _ (List.mem_append_left _ (List.mem_append_left _ ?_)))
  exact List.mem_map.2 ⟨p, List.mem_filter.2 ⟨journal.symm ▸ mem, by simpa using st⟩, rfl⟩

/-- Settles O56: each row of pre-emption, of the save area and of the resets, by the lemmas above. -/
theorem preemptionAndResets : Obligations.PreemptionAndResets := by
  unfold Obligations.PreemptionAndResets
  intro s
  refine ⟨fun base dies => ⟨execPreemptionRequest_skip, execPreemptionRequest_stops⟩,
    fun g => ⟨execCoreHalted_skip, execCoreHalted_halts⟩,
    fun g => ⟨execContextSave_skip, fun base => execContextSave_saves⟩,
    fun a b halted empty => ⟨fun absent ne => ?_, fun base c area kept tiles sorted => ⟨?_, fun q h one accs parts replay => ⟨?_, ?_⟩⟩⟩,
    fun g => execContextRestore_same, rfl, execPackageWarmReset_keeps,
    fun d => ⟨execComputeDieReset_skip, fun real up => ⟨execComputeDieReset_halts real up, ?_, ?_⟩⟩,
    execFirmwareRestart_restarts s⟩
  · exact (execContextRestore_absent halted absent).trans (if_neg fun same => ne same.1)
  · exact execContextRestore_gives halted empty area kept tiles sorted
  · exact execContextRestore_holder halted empty area kept tiles one accs parts replay
  · exact execContextRestore_refused halted empty area kept tiles one accs
  · exact fun y mine => execComputeDieReset_waits real up mine
  · exact fun y mine halted wf clean => ⟨_, execComputeDieReset_due real up mine halted, resetDie_clears clean wf y.1 y.2⟩

end Sys2Proof.Machine
end

-- ==== Sys2Proof/Proofs/FabricLinks.lean ====

section
set_option Elab.async false
namespace Sys2Proof.Machine

open Sys2Proof.Claims

/-! ## Flits of a fabric port (R469, R470) -/

section
variable {s : State} {port n : Nat}

theorem State.link_updLink_self (s : State) (p : Nat) (f : Link → Link) : (s.updLink p f).link p = f (s.link p) :=
  AMap.getD_set_self s.ctl.links p (f (s.link p)) {}

theorem execFlitReceipt_asks {f : Flit} (bad : f.crcOk = false ∨ f.reserved ≠ 0 ∨ 3 < f.kind) :
    execFlitReceipt port f s = .next (s.send (.retry port (s.link port).rxExpect)) :=
  if_pos (by simpa using bad)

theorem execFlitReceipt_data {f : Flit} (crc : f.crcOk = true) (plain : f.reserved = 0) (data : f.kind = 1) :
    Reaches (execFlitReceipt port f s) fun t => t.mem = s.mem
      ∧ (t.link port).rxExpect = (if f.seq = (s.link port).rxExpect then ((s.link port).rxExpect + 1) % 4096 else (s.link port).rxExpect)
      ∧ (t.link port).unacked = (s.link port).unacked.filter (fun x => !(decide (1 ≤ (f.ack + 4096 - x % 4096) % 4096)
          && decide ((f.ack + 4096 - x % 4096) % 4096 ≤ 256))) := by
  have good : ¬((!f.crcOk) = true ∨ f.reserved ≠ 0 ∨ 3 < f.kind) := by simp [crc, plain, data]
  refine ⟨_, (if_neg good).trans (if_neg (by simp [data])), rfl, ?_, ?_⟩
  · rw [State.link_updLink_self]; simp [data]
  · rw [State.link_updLink_self]; rfl

theorem flitBefore_eq_false {x n : Nat} :
    flitBefore x n = false ↔ 256 < (n + 4096 - x % 4096) % 4096 ∨ (n + 4096 - x % 4096) % 4096 = 0 := by
  simp only [flitBefore, Bool.and_eq_false_iff, decide_eq_false_iff_not]
  omega

/-- The loss of what a port keeps ends no access of this package where no request is kept (R174). -/
theorem foldl_loseSent {msgs : List OutMsg} (own : ∀ m ∈ msgs, ∀ r o, m ≠ .peer r o) (s : State) :
    msgs.foldl (fun s m => loseSent m s) s = s := by
  refine List.foldlRecOn (motive := fun t => t = s) _ _ rfl fun t same m mem => ?_
  subst same
  unfold loseSent
  split
  next r o => exact absurd rfl (own _ mem r o)
  · rfl

/-- A port that replays what it keeps once more (R470). -/
def State.replayed (s : State) (port : Nat) : State :=
  s.updLink port (fun l => { l with unacked := l.unacked, replays := l.replays + 1 })

theorem State.link_replayed (s : State) (port : Nat) :
    (s.replayed port).link port = { s.link port with replays := (s.link port).replays + 1 } :=
  State.link_updLink_self s port _

theorem State.link_send (s : State) (m : OutMsg) (p : Nat) : (s.send m).link p = s.link p := rfl

section
variable (after : ∀ x ∈ (s.link port).unacked, 256 < (n + 4096 - x % 4096) % 4096 ∨ (n + 4096 - x % 4096) % 4096 = 0)
  (some_ : (s.link port).unacked ≠ [])
include after some_

/-- A retry request that acknowledges nothing counts one more replay of the oldest flit. -/
theorem execRetryRequest_counts : execRetryRequest port n s =
    if 16 < (s.link port).replays + 1 then
      .next (loseKept port (s.replayed port))
    else .next ((s.replayed port).send (.replay port n)) := by
  have kept : (s.link port).unacked.filter (fun x => !flitBefore x n) = (s.link port).unacked :=
    List.filter_eq_self.2 fun x mem => by rw [flitBefore_eq_false.2 (after x mem)]; rfl
  have full : (s.link port).unacked.isEmpty = false := by simpa using some_
  simp only [execRetryRequest, kept, full]
  rfl

theorem execRetryRequest_replays (few : (s.link port).replays < 16) : Reaches (execRetryRequest port n s) fun t => t.mem = s.mem
    ∧ (t.link port).replays = (s.link port).replays + 1 ∧ (t.link port).unacked = (s.link port).unacked
    ∧ OutMsg.replay port n ∈ t.outbox := by
  refine ⟨_, (execRetryRequest_counts after some_).trans (if_neg (by omega)), rfl, ?_, ?_, State.mem_outbox_send _ _⟩
  all_goals rw [State.link_send, State.link_replayed]

theorem execRetryRequest_loses (last : (s.link port).replays = 16) (own : ∀ x ∈ (s.link port).kept, ∀ r o, x.2 ≠ .peer r o) :
    Reaches (execRetryRequest port n s) fun t => t.mem = s.mem ∧ (t.link port).unacked = []
      ∧ OutMsg.report 4 port (s.link port).unacked.length ∈ t.outbox := by
  refine ⟨_, (execRetryRequest_counts after some_).trans (if_pos (by omega)), ?_⟩
  have link := s.link_replayed port
  have mem : (s.replayed port).mem = s.mem := rfl
  generalize s.replayed port = s1 at link mem
  have others : ∀ m ∈ (s1.link port).unacked.filterMap (fun n => AMap.find? (s1.link port).kept n), ∀ r o, m ≠ .peer r o := by
    intro m mem r o
    obtain ⟨k, -, found⟩ := List.mem_filterMap.1 mem
    rw [link] at found
    exact own _ (AMap.mem_of_find? found) r o
  rw [loseKept, foldl_loseSent others, link]
  refine ⟨mem, ?_, State.mem_outbox_send _ _⟩
  rw [State.link_send, State.link_updLink_self]

end
end

/-! ## A link between dies goes down (R14, R171) -/

section
variable {s0 s : State}

theorem CohFrame.loseLine {fabric header own link typ line} (k : CohFrame s0 s) :
    CohFrame s0 (loseLine fabric header own link typ line s) :=
  (k.storePayload.enterN.updDie rfl).push

theorem CohFrame.loseHere {fabric own link typ line} (k : CohFrame s0 s) : CohFrame s0 (loseHere fabric own link typ line s) :=
  k.ite (k.loseLine.ite ((k.updDie rfl).push.ite k))

theorem CohFrame.dataKept {s t : State} (k : CohFrame s t) : DataKept s t := ⟨k.mem, k.window, k.spm⟩

theorem dataKept_trans {r s t : State} (k' : DataKept r s) (k : DataKept s t) : DataKept r t := by
  obtain ⟨mem, window, spm⟩ := k
  obtain ⟨mem', window', spm'⟩ := k'
  exact ⟨mem.trans mem', window.trans window', fun g => (spm g).trans (spm' g)⟩

/-- One end of a link no longer trained. -/
def State.cutLink (s : State) (a b : Nat) : State := s.updDie a (fun d => { d with links := d.links.filter (· != b) })

theorem State.links_cutLink_self (s : State) (a b : Nat) : ((s.cutLink a b).die a).links = (s.die a).links.filter (· != b) :=
  congrArg Die.links (State.updDie_die_self s a _)

theorem State.links_cutLink_ne {s : State} {a b d : Nat} (ne : d ≠ a) : ((s.cutLink a b).die d).links = (s.die d).links :=
  congrArg Die.links (State.updDie_die_ne s a d _ ne)

theorem execLinkDown_up {s : State} {a b : Nat} (up : s.linkUp a b = true) : execLinkDown a b s =
    .next ((s.linkFlits a b).foldl (fun (s : State) f => loseHere false f.2.2 b f.2.1 f.1 s) ((s.cutLink a b).cutLink b a)) :=
  if_pos up

theorem execLinkDown_cuts {s : State} {a b : Nat} (up : s.linkUp a b = true) : Reaches (execLinkDown a b s) fun t => DataKept s t
    ∧ t.linkUp a b = false ∧ t.linkUp b a = false ∧ (s.linkFlits a b = [] → { t with dies := s.dies } = s) := by
  obtain ⟨link, -⟩ := (Bool.and_eq_true_iff.1 up : linkExists a b = true ∧ _)
  have ne : a ≠ b := by
    rintro rfl
    simp [linkExists] at link
  have lost : CohFrame ((s.cutLink a b).cutLink b a)
      ((s.linkFlits a b).foldl (fun (s : State) f => loseHere false f.2.2 b f.2.1 f.1 s) ((s.cutLink a b).cutLink b a)) :=
    (CohFrame.refl _).foldl fun _ _ k => k.loseHere
  have cut : DataKept s ((s.cutLink a b).cutLink b a) := ⟨rfl, rfl, fun _ => rfl⟩
  refine ⟨_, execLinkDown_up up, dataKept_trans cut lost.dataKept, ?_, ?_, fun none_ => by rw [none_]; rfl⟩
  · refine Bool.and_eq_false_iff.2 (.inr ?_)
    rw [lost.links, State.links_cutLink_ne ne, State.links_cutLink_self]
    simp
  · refine Bool.and_eq_false_iff.2 (.inr ?_)
    rw [lost.links, State.links_cutLink_self]
    simp

end

/-! ## Imported handles (R36, R37, R473) -/

section
variable {s : State} {i : Nat}

theorem State.peer_updPeer_self (s : State) (i : Nat) (f : PeerSlot → PeerSlot) : (s.updPeer i f).peer i = f (s.peer i) :=
  AMap.getD_set_self s.ctl.peers i (f (s.peer i)) {}

theorem CohFrame.peer {s t : State} (k : CohFrame s t) (i : Nat) : t.peer i = s.peer i :=
  (congrArg (fun c => AMap.getD (Control.peers c) i {}) k.ctl :)

/-- A message of a fabric port leaves, whether a route is known or not. -/
theorem State.mem_outbox_sendFabric (s : State) (p line : Nat) (m : OutMsg) : m ∈ (s.sendFabric p line m).outbox := by
  unfold State.sendFabric
  split
  · exact State.mem_outbox_send s m
  · exact State.mem_outbox_send _ m

theorem handleOk_iff {w : Nat} : handleOk w = true ↔ handleGood w := by simp [handleOk, handleGood, handleOwner, and_assoc]

theorem pkgLost_iff {p : Nat} : s.pkgLost p = true ↔ podState s p = some 3 := by simp [State.pkgLost, podState]

theorem execHandleInstall_refused {w n : Nat} (real : i < 4096)
    (why : ((s.peer i).st ≠ .empty ∧ n = 1) ∨ ((s.peer i).st = .empty ∧ ¬handleGood w ∧ n = 2)
      ∨ ((s.peer i).st = .empty ∧ handleGood w ∧ podState s (field w 53 11) = some 3 ∧ n = 4)) :
    Reaches (execHandleInstall i w s) fun t => t.mem = s.mem ∧ t.peer i = { s.peer i with status := n } := by
  refine ⟨s.updPeer i (fun p => { p with status := n }), (if_neg (by omega)).trans ?_, rfl, State.peer_updPeer_self _ _ _⟩
  rcases why with ⟨taken, rfl⟩ | ⟨free, bad, rfl⟩ | ⟨free, good, gone, rfl⟩
  · exact if_pos taken
  · exact (if_neg (not_not.2 free)).trans (if_pos (by simpa [← handleOk_iff] using bad))
  · exact (if_neg (not_not.2 free)).trans ((if_neg (by simpa using handleOk_iff.2 good)).trans (if_pos (pkgLost_iff.2 gone)))

theorem execHandleInstall_asks {w : Nat} (real : i < 4096) (free : (s.peer i).st = .empty) (good : handleGood w)
    (alive : podState s (field w 53 11) ≠ some 3) : Reaches (execHandleInstall i w s) fun t => t.mem = s.mem
      ∧ (t.peer i).st = .installing ∧ (t.peer i).handle = w % 2 ^ 64 ∧ OutMsg.installAsk (field w 53 11) w i ∈ t.outbox := by
  have asked := (CohFrame.refl (s.updPeer i (fun p => { p with st := .installing, handle := w % 2 ^ 64, inflight := 0 }))).sendFabric
    (p := handleOwner w) (line := 0) (m := .installAsk (handleOwner w) w i)
  have slot := (asked.peer i).trans (State.peer_updPeer_self s i _)
  refine ⟨_, (if_neg (by omega)).trans ((if_neg (not_not.2 free)).trans ((if_neg (by simpa using handleOk_iff.2 good)).trans
    (if_neg (mt pkgLost_iff.1 alive)))), asked.mem, congrArg PeerSlot.st slot, congrArg PeerSlot.handle slot,
    State.mem_outbox_sendFabric _ _ _ _⟩

theorem execInstallReply_skip {n : Nat} (idle : (s.peer i).st ≠ .installing) : execInstallReply i n s = .next s := if_pos idle

theorem execInstallReply_answers {n : Nat} (asked : (s.peer i).st = .installing) :
    Reaches (execInstallReply i n s) fun t => t.mem = s.mem
      ∧ (n = 0 → (t.peer i).st = .active ∧ (t.peer i).handle = (s.peer i).handle)
      ∧ (n ≠ 0 → (t.peer i).st = .empty ∧ (t.peer i).status = n % 256) := by
  by_cases yes : n = 0
  · refine ⟨_, (if_neg (not_not.2 asked)).trans (if_pos yes), rfl, fun _ => ?_, fun no => absurd yes no⟩
    rw [State.peer_updPeer_self]
    exact ⟨rfl, rfl⟩
  · refine ⟨_, (if_neg (not_not.2 asked)).trans (if_neg yes), rfl, fun no => absurd no yes, fun _ => ?_⟩
    rw [State.peer_updPeer_self]
    exact ⟨rfl, rfl⟩

theorem execHandleUninstall_skip (idle : (s.peer i).st ≠ .active) : execHandleUninstall i s = .next s := if_pos idle

theorem execHandleUninstall_drains (active : (s.peer i).st = .active) : Reaches (execHandleUninstall i s) fun t => t.mem = s.mem
    ∧ t.peer i = { s.peer i with st := .draining } ∧ Event.slotDrained i ∈ t.agenda :=
  ⟨(s.updPeer i (fun p => { p with st := .draining })).push [.slotDrained i], if_neg (not_not.2 active), rfl,
    State.peer_updPeer_self s i (fun p => { p with st := .draining }), List.mem_append_right _ (List.mem_singleton_self _)⟩

theorem execSlotDrained_skip (busy : (s.peer i).inflight ≠ 0) : execSlotDrained i s = .next s := if_neg fun h => busy h.2

/-- A core without the lines of peer slot i. -/
def Core.dropPeer (c : Core) (i : Nat) : Core := { c with l1 := c.l1.filter (fun l => !(l.2.st == .sr && field (l.1 * 128) 38 12 == i)) }

theorem State.dropPeerLines_cores (s : State) (i : Nat) : (s.dropPeerLines i).cores = s.cores.map (fun p => (p.1, p.2.dropPeer i)) := rfl

/-- No core holds a line of a drained slot (R37). -/
theorem State.l1_dropPeerLines (s : State) (i k : Nat) :
    ∀ l ∈ ((s.dropPeerLines i).core k).l1, l.2.st = .sr → field (l.1 * 128) 38 12 ≠ i := by
  intro l mem held
  rw [State.core, AMap.getD, State.dropPeerLines_cores, AMap.find?_map (Core.dropPeer · i)] at mem
  cases found : AMap.find? s.cores k with
  | none => rw [found] at mem; exact absurd mem List.not_mem_nil
  | some c =>
    rw [found] at mem
    simpa [held] using (List.mem_filter.1 mem).2

theorem execSlotDrained_empties (leaving : (s.peer i).st = .draining) (idle : (s.peer i).inflight = 0) :
    Reaches (execSlotDrained i s) fun t => t.mem = s.mem ∧ (t.peer i).st = .empty
      ∧ ∀ k, ∀ l ∈ (t.core k).l1, l.2.st = .sr → field (l.1 * 128) 38 12 ≠ i :=
  ⟨_, if_pos ⟨leaving, idle⟩, rfl, congrArg PeerSlot.st (State.peer_updPeer_self s i (fun p => { p with st := .empty, handle := 0 })),
    State.l1_dropPeerLines _ i⟩

/-! ### Exports (R36, R472, R473) -/

theorem exportValid_iff {e : Nat} : exportValid s e = true ↔ exportGood s e := by
  simp [exportValid, exportGood, and_assoc]

theorem execOwnerInstallCheck_answers (s : State) (src w i : Nat) :
    Reaches (execOwnerInstallCheck src w i s) fun t => t.mem = s.mem
      ∧ (s.exportEntry (field w 37 16) = none → OutMsg.installAnswer src i 3 ∈ t.outbox)
      ∧ ∀ e, s.exportEntry (field w 37 16) = some e →
          let ok := exportGood s e ∧ field w 0 16 = handleCheck (field w 16 48)
            ∧ field w 29 8 = field e 62 8 ∧ field w 20 3 &&& field e 58 3 = field w 20 3
            ∧ (bitN w 22 = true ∨ bitN w 21 = true ∨ bitN e 61 = true)
          (ok → OutMsg.installAnswer src i 0 ∈ t.outbox) ∧ (¬ok → OutMsg.installAnswer src i 3 ∈ t.outbox) := by
  refine ⟨_, rfl, (CohFrame.refl s).sendFabric.mem, fun none_ => ?_, fun e found => ?_⟩
  · rw [none_]
    exact State.mem_outbox_sendFabric _ _ _ _
  · rw [found]
    extract_lets ok
    have same : ((exportValid s e && field w 0 16 == handleCheck (field w 16 48) && field w 29 8 == field e 62 8
        && field w 20 3 &&& field e 58 3 == field w 20 3 && (bitN w 22 || bitN w 21 || bitN e 61)) = true) ↔ ok := by
      simp [ok, exportValid_iff, and_assoc, or_assoc]
    refine ⟨fun yes => ?_, fun no => ?_⟩
    · simp only [same.2 yes]; exact State.mem_outbox_sendFabric _ _ _ _
    · simp only [eq_false_of_ne_true (mt same.1 no)]; exact State.mem_outbox_sendFabric _ _ _ _

end

end Sys2Proof.Machine
end

-- ==== Sys2Proof/Proofs/PeerAccesses.lean ====

section
set_option Elab.async false
namespace Sys2Proof.Machine

open Sys2Proof.Claims

/-! ## Atomics: the two readings of their table (R374) -/

theorem sextI_eq_asInt {x w : Nat} (pos : 0 < w) (small : x < 2 ^ w) : sextI x w = asInt true w x := by
  simp [sextI, asInt, Nat.mod_eq_of_lt small, pos]

theorem elem_bits_pos (el : Elem) : 0 < 8 * el.bytes := by cases el <;> decide

theorem min_eq_asInt (w o x : Nat) : min o x = if asInt false w o ≤ asInt false w x then o else x := by
  simp [asInt, Nat.min_def]

theorem max_eq_asInt (w o x : Nat) : max o x = if asInt false w o ≥ asInt false w x then o else x := by
  simp only [asInt, Bool.false_eq_true, false_and, if_false, ge_iff_le, Int.ofNat_le]
  split <;> omega

/-- The upper half of a pattern of 32 bits needs no cut. -/
theorem halves_eq (f : Nat → Nat → Nat × Nat) {o x : Nat} (old : o < 2 ^ 32) (small : x < 2 ^ 32) :
    (f (o % 2 ^ 16) (x % 2 ^ 16)).1 + (f (o / 2 ^ 16 % 2 ^ 16) (x / 2 ^ 16 % 2 ^ 16)).1 * 2 ^ 16
      = (f (o % 2 ^ 16) (x % 2 ^ 16)).1 + (f (o / 2 ^ 16) (x / 2 ^ 16)).1 * 2 ^ 16 := by
  rw [Nat.mod_eq_of_lt (a := o / 2 ^ 16) (by omega), Nat.mod_eq_of_lt (a := x / 2 ^ 16) (by omega)]

/-- What an atomic stores is what the row of its operation gives, for operands of the element's width. -/
theorem atomValue_eq_atomGives (op : AtomOp) (el : Elem) {o x : Nat} (new : Nat) (old : o < 2 ^ (8 * el.bytes))
    (small : x < 2 ^ (8 * el.bytes)) : (atomValue op el o x new).1 = atomGives op el o x new := by
  have so := sextI_eq_asInt (elem_bits_pos el) old
  have sx := sextI_eq_asInt (elem_bits_pos el) small
  cases op with
  | and | or | xor | exch | cas => rfl
  | add =>
    cases el with
    | f16x2 => exact congrArg some (halves_eq (fpAdd .f16 .rn) old small)
    | bf16x2 => exact congrArg some (halves_eq (fpAdd .bf16 .rn) old small)
    | _ => rfl
  | min =>
    cases el with
    | f16x2 => exact congrArg some (halves_eq (fpMin .f16) old small)
    | bf16x2 => exact congrArg some (halves_eq (fpMin .bf16) old small)
    | f32 | f64 => rfl
    | i32 | i64 => simp only [atomValue, atomGives, so, sx]; rfl
    | _ => exact congrArg some (min_eq_asInt _ o x)
  | max =>
    cases el with
    | f16x2 => exact congrArg some (halves_eq (fpMax .f16) old small)
    | bf16x2 => exact congrArg some (halves_eq (fpMax .bf16) old small)
    | f32 | f64 => rfl
    | i32 | i64 => simp only [atomValue, atomGives, so, sx]; rfl
    | _ => exact congrArg some (max_eq_asInt _ o x)

/-! ## Bytes of a value -/

theorem leValue_lt (bs : List Byte) : leValue bs < 256 ^ bs.length := by
  induction bs with
  | nil => exact Nat.one_pos
  | cons b bs ih =>
    have small : b.toNat < 256 := b.isLt
    rw [leValue, List.length_cons, Nat.pow_succ]
    omega

theorem Memory.readLE_lt (m : Memory) (a n : Nat) : Memory.readLE m a n < 2 ^ (8 * n) := by
  have len : (Memory.readBytes m a n).length = n := by
    induction n generalizing a with
    | zero => rfl
    | succ n ih => exact congrArg (· + 1) (ih (a + 1))
  have lt := leValue_lt (Memory.readBytes m a n)
  rwa [len, show (256 : Nat) = 2 ^ 8 from rfl, ← Nat.pow_mul] at lt

/-- Byte b of a stored value. -/
theorem Memory.read_writeBytes_leBytes {m : Memory} {a n b : Nat} (v : Nat) (wf : Memory.wf m = true) (inside : b < n) :
    Memory.read (Memory.writeBytes m a (leBytes n v)) (a + b) = BitVec.ofNat 8 (v / 2 ^ (8 * b)) := by
  induction n generalizing m a b v with
  | zero => omega
  | succ n ih =>
    have wf1 := Memory.wf_write a (BitVec.ofNat 8 (v % 256)) wf
    rw [leBytes, Memory.writeBytes]
    cases b with
    | zero =>
      change Memory.read _ a = _
      rw [Memory.read_writeBytes_outside wf1 (.inl (Nat.lt_add_one a)), Memory.read_write_self a _ wf]
      apply BitVec.eq_of_toNat_eq
      simp
    | succ b =>
      rw [show a + (b + 1) = a + 1 + b by omega, ih (v / 256) wf1 (by omega), Nat.div_div_eq_div_mul,
        show 256 * 2 ^ (8 * b) = 2 ^ (8 * (b + 1)) by rw [show 8 * (b + 1) = 8 + 8 * b by omega, Nat.pow_add]]

/-! ## A peer's access at its owner (R38, R474) -/

section
variable {s0 s t : State}

theorem CohFrame.answerPeer {r v} (k : CohFrame s0 s) : CohFrame s0 (s.answerPeer r v) := k.sendFabric

theorem State.mem_outbox_answerPeer (s : State) (r : PeerReq) (v : PeerReply) :
    OutMsg.peerAnswer r.src r.tag v ∈ (s.answerPeer r v).outbox := State.mem_outbox_sendFabric s _ _ _

theorem CohFrame.regionOf (k : CohFrame s t) (pa : Nat) : regionOf t pa = regionOf s pa := by
  have gib : t.ctl.ddrGiB = s.ctl.ddrGiB := (congrArg Control.ddrGiB k.ctl :)
  unfold Machine.regionOf State.ddrBytes
  rw [gib]

theorem CohFrame.physBytes (k : CohFrame s t) (pa n : Nat) : t.physBytes pa n = s.physBytes pa n := by
  simp only [State.physBytes, k.regionOf, k.window, k.mem]

/-- The write is performed at its home: the bytes are in memory, and nothing else of it changes. -/
theorem State.homePut_mem (s : State) (uncached : Bool) (pa : Nat) (bs : List Byte) :
    (s.homePut uncached pa bs).mem = Memory.writeBytes s.mem pa bs :=
  ((CohFrame.refl { s with mem := Memory.writeBytes s.mem pa bs }).foldl fun _ _ k => k.homeSettle).mem

/-- An atomic at its home answers the old value and stores what its operation gives, if that stores (R374). -/
theorem State.atomicHeld_ok (s : State) (a : Agent) (u : Option Clocked) (pa : Nat) (uncached : Bool) (op : AtomOp) (el : Elem) (x new : Nat) :
    ∃ lo hi t fl, s.atomicHeld a u pa uncached op el x new = (.ok (leBytes el.bytes (Memory.readLE s.mem pa el.bytes)) lo hi t, fl)
      ∧ t.mem = (atomValue op el (Memory.readLE s.mem pa el.bytes) (x % 2 ^ (8 * el.bytes)) (new % 2 ^ (8 * el.bytes))).1.elim
          s.mem (Memory.writeLE s.mem pa el.bytes) := by
  unfold State.atomicHeld
  extract_lets line n o r s1 s2 s3
  have taken : CohFrame s s2 := (CohFrame.refl s).homeWriteInterval.fillMsc.stale
  have stored : s3.mem = r.1.elim s.mem (Memory.writeLE s.mem pa n) := by
    dsimp only [s3]
    cases r.1 with
    | none => exact taken.mem
    | some v => exact congrArg (Memory.writeLE · pa n v) taken.mem
  have settled := ((CohFrame.refl s3).homeStamp (line := line) (u := u) (n := 1)).homeSettle (uncached := uncached) (line := line)
  exact ⟨_, _, _, _, rfl, settled.mem.trans stored⟩

end

section
variable {s s1 : State} {r : PeerReq} {e : Nat}

theorem peerPerform_gone (none_ : s.exportEntry r.exportIdx = none) : peerPerform r s = s.answerPeer r .revoked := by
  simp only [peerPerform, none_]

theorem execPeerAccess_gone (none_ : s.exportEntry r.exportIdx = none) : Reaches (execPeerAccess r s) fun t => t.mem = s.mem
    ∧ OutMsg.peerAnswer r.src r.tag .revoked ∈ t.outbox :=
  ⟨_, congrArg Host.Outcome.next (peerPerform_gone none_), (CohFrame.refl s).answerPeer.mem, s.mem_outbox_answerPeer r _⟩

section
variable (entry : s.exportEntry r.exportIdx = some e)
include entry

theorem peerPerform_revoked (bad : ¬exportGood s e ∨ field e 62 8 ≠ r.gen ∨ 2 ^ field e 70 6 < r.off + peerOpSize r.op) :
    peerPerform r s = s.answerPeer r .revoked := by
  simp only [peerPerform, entry]
  refine if_pos ?_
  simpa [← exportValid_iff, or_assoc] using bad

theorem execPeerAccess_revoked (bad : ¬exportGood s e ∨ field e 62 8 ≠ r.gen ∨ 2 ^ field e 70 6 < r.off + peerOpSize r.op) :
    Reaches (execPeerAccess r s) fun t => t.mem = s.mem ∧ OutMsg.peerAnswer r.src r.tag .revoked ∈ t.outbox :=
  ⟨_, congrArg Host.Outcome.next (peerPerform_revoked entry bad), (CohFrame.refl s).answerPeer.mem, s.mem_outbox_answerPeer r _⟩

end

/-- The request names an entry of the table that stands, and stays inside what it gives (R38). -/
structure ExportAnswers (s : State) (r : PeerReq) (e : Nat) : Prop where
  entry : s.exportEntry r.exportIdx = some e
  good : exportGood s e
  gen : field e 62 8 = r.gen
  inside : r.off + peerOpSize r.op ≤ 2 ^ field e 70 6

/-- Where the access lies at its owner. -/
def exportAt (r : PeerReq) (e : Nat) : Nat := field e 76 52 + r.off

variable (live : ExportAnswers s r e)
include live

theorem ExportAnswers.answers :
    ¬((!exportValid s e || field e 62 8 != r.gen || decide (2 ^ field e 70 6 < r.off + peerOpSize r.op)) = true) := by
  simp [exportValid_iff.2 live.good, live.gen, live.inside]

theorem peerPerform_held (flip : s.flipHoldsPa (exportAt r e) = true ∨ s.flipHoldsPa (exportAt r e + peerOpSize r.op - 1) = true) :
    peerPerform r s = s.updCtl (fun c => { c with heldPeer := c.heldPeer ++ [r] }) := by
  simp only [peerPerform, live.entry]
  rw [if_neg live.answers]
  exact if_pos (by simpa [exportAt] using flip)

variable (free : ¬((s.flipHoldsPa (exportAt r e) || s.flipHoldsPa (exportAt r e + peerOpSize r.op - 1)) = true))
include free

theorem peerPerform_read {n : Nat} (op : r.op = .read n)
    (taken : (if Config.exportUncached r.exportIdx then uncachedLines (linesOf (exportAt r e) n) s
      else readLines { ctlCtx 0 with agent := .peer r.src } (linesOf (exportAt r e) n) s) = .ok s1) :
    peerPerform r s = ((((linesOf (exportAt r e) n).foldl (fun s l => s.hostLeft l) s1).homeStamp
      (exportAt r e / 128) none (sectorCount (exportAt r e) n)).1).answerPeer r (.data (leValue (s1.physBytes (exportAt r e) n))) := by
  unfold exportAt at *
  simp only [peerPerform, live.entry]
  rw [if_neg live.answers, if_neg free]
  simp only [op, peerOpSize, taken]

theorem peerPerform_write {n v : Nat} (op : r.op = .write n v)
    (taken : homeTakeWrites (.peer r.src) 14 (exportAt r e) (leBytes n v) (linesOf (exportAt r e) n) s = .ok s1) :
    peerPerform r s = (((s1.homePut (Config.exportUncached r.exportIdx) (exportAt r e) (leBytes n v)).homeStamp
      (exportAt r e / 128) none (sectorCount (exportAt r e) n)).1).answerPeer r (.data 0) := by
  unfold exportAt at *
  simp only [peerPerform, live.entry]
  rw [if_neg live.answers, if_neg free]
  simp only [op, peerOpSize, State.homeWrite, writeType, leBytes_length, taken, Coh.andThen]

theorem peerPerform_atomic {f : AtomOp} {el : Elem} {x new : Nat} (op : r.op = .atomic f el x new)
    (taken : s.acquireAtomic (.peer r.src) (exportAt r e) el = .ok s1) :
    ∃ t : State, peerPerform r s = t.answerPeer r (.data (leValue (leBytes el.bytes (Memory.readLE s1.mem (exportAt r e) el.bytes))))
      ∧ t.mem = (atomValue f el (Memory.readLE s1.mem (exportAt r e) el.bytes) (x % 2 ^ (8 * el.bytes)) (new % 2 ^ (8 * el.bytes))).1.elim
          s1.mem (Memory.writeLE s1.mem (exportAt r e) el.bytes) := by
  unfold exportAt at *
  obtain ⟨lo, hi, t, fl, held, mem⟩ := s1.atomicHeld_ok (.peer r.src) none (field e 76 52 + r.off)
    (Config.exportUncached r.exportIdx) f el x new
  refine ⟨t, ?_, mem⟩
  simp only [peerPerform, live.entry]
  rw [if_neg live.answers, if_neg free]
  simp only [op, State.homeAtomicAt, taken, held]

/-- A read changes no byte, and answers what memory holds. -/
theorem execPeerAccess_reads {n : Nat} (op : r.op = .read n)
    (taken : (if Config.exportUncached r.exportIdx then uncachedLines (linesOf (exportAt r e) n) s
      else readLines { ctlCtx 0 with agent := .peer r.src } (linesOf (exportAt r e) n) s) = .ok s1) :
    Reaches (execPeerAccess r s) fun t => t.mem = s.mem
      ∧ OutMsg.peerAnswer r.src r.tag (.data (leValue (s.physBytes (exportAt r e) n))) ∈ t.outbox := by
  have read : CohFrame s s1 :=
    CohFrame.of_state (CohFrame.state_ite (CohFrame.refl s).uncachedLines (CohFrame.refl s).readLines) taken
  have left : CohFrame s ((linesOf (exportAt r e) n).foldl (fun s l => s.hostLeft l) s1) := read.foldl fun _ _ k => k.hostLeft
  refine ⟨_, congrArg Host.Outcome.next (peerPerform_read live free op taken), left.homeStamp.answerPeer.mem, ?_⟩
  rw [read.physBytes]
  exact State.mem_outbox_answerPeer _ r _

theorem execPeerAccess_writes {n v : Nat} (op : r.op = .write n v) (wf : Memory.wf s.mem = true)
    (taken : homeTakeWrites (.peer r.src) 14 (exportAt r e) (leBytes n v) (linesOf (exportAt r e) n) s = .ok s1) :
    Reaches (execPeerAccess r s) fun t =>
      (∀ b < n, Memory.read t.mem (exportAt r e + b) = BitVec.ofNat 8 (v / 2 ^ (8 * b)))
        ∧ (∀ b, b < exportAt r e ∨ exportAt r e + n ≤ b → Memory.read t.mem b = Memory.read s.mem b)
        ∧ OutMsg.peerAnswer r.src r.tag (.data 0) ∈ t.outbox := by
  have read : CohFrame s s1 := CohFrame.of_state (CohFrame.refl s).homeTakeWrites taken
  refine ⟨_, congrArg Host.Outcome.next (peerPerform_write live free op taken), ?_⟩
  have mem := ((CohFrame.refl (s1.homePut (Config.exportUncached r.exportIdx) (exportAt r e) (leBytes n v))).homeStamp
    (line := exportAt r e / 128) (u := none) (n := sectorCount (exportAt r e) n)).answerPeer (r := r) (v := .data 0) |>.mem
  rw [State.homePut_mem, read.mem] at mem
  beta_reduce
  rw [mem]
  refine ⟨fun b inside => Memory.read_writeBytes_leBytes v wf inside, fun b out => ?_, State.mem_outbox_answerPeer _ r _⟩
  exact Memory.read_writeBytes_outside wf (by rwa [leBytes_length])

theorem execPeerAccess_atomic {f : AtomOp} {el : Elem} {x new : Nat} (op : r.op = .atomic f el x new) (wf : Memory.wf s.mem = true)
    (taken : s.acquireAtomic (.peer r.src) (exportAt r e) el = .ok s1) :
    Reaches (execPeerAccess r s) fun t =>
      let old := Memory.readLE s.mem (exportAt r e) el.bytes
      Memory.readLE t.mem (exportAt r e) el.bytes
          = (atomGives f el old (x % 2 ^ (8 * el.bytes)) (new % 2 ^ (8 * el.bytes))).getD old % 2 ^ (8 * el.bytes)
        ∧ (∀ b, b < exportAt r e ∨ exportAt r e + el.bytes ≤ b → Memory.read t.mem b = Memory.read s.mem b)
        ∧ OutMsg.peerAnswer r.src r.tag (.data old) ∈ t.outbox := by
  have read : CohFrame s s1 := CohFrame.of_state (CohFrame.refl s).acquireAtomic taken
  obtain ⟨t, done, mem⟩ := peerPerform_atomic live free op taken
  have small := Memory.readLE_lt s.mem (exportAt r e) el.bytes
  have value : leValue (leBytes el.bytes (Memory.readLE s.mem (exportAt r e) el.bytes)) = Memory.readLE s.mem (exportAt r e) el.bytes := by
    rw [leValue_leBytes, show (256 : Nat) = 2 ^ 8 from rfl, ← Nat.pow_mul, Nat.mod_eq_of_lt small]
  rw [read.mem, atomValue_eq_atomGives f el _ small (Nat.mod_lt _ (Nat.two_pow_pos _))] at mem
  rw [read.mem, value] at done
  have answered := ((CohFrame.refl t).answerPeer (r := r) (v := .data (Memory.readLE s.mem (exportAt r e) el.bytes))).mem.trans mem
  refine ⟨_, congrArg Host.Outcome.next done, ?_⟩
  extract_lets old
  beta_reduce
  rw [answered]
  refine ⟨?_, ?_, State.mem_outbox_answerPeer t r _⟩
  · cases atomGives f el old (x % 2 ^ (8 * el.bytes)) (new % 2 ^ (8 * el.bytes)) with
    | none => exact (Nat.mod_eq_of_lt small).symm
    | some v => exact Memory.readLE_writeLE _ _ v wf
  · cases atomGives f el old (x % 2 ^ (8 * el.bytes)) (new % 2 ^ (8 * el.bytes)) with
    | none => exact fun b out => rfl
    | some v => exact fun b out => Memory.read_writeLE_outside v wf out

end

/-! ## The answer to a holder's access (R38, R174) -/

section
variable {s0 s : State} {g q : Nat} {h : Holder} {x : ExtAccess}

theorem CohFrame.extStamp (k : CohFrame s0 s) : CohFrame s0 (s.extStamp g x).1 := by
  unfold State.extStamp
  extract_lets at_
  have held : ∀ u, CohFrame s0 (at_ u).1 := fun u => k.carry.perform.carry
  split
  · exact held _
  · exact held _
  · have stamped : CohFrame s0 (s.coreStamp g 1).1 := k.perform
    split
    next e => exact stamped.of_fst e

/-- An access of a holder to a peer that waits for its answer, which writes. -/
structure PeerWrite (s : State) (g q : Nat) (h : Holder) (x : ExtAccess) : Prop where
  holder : s.holder? g q = some h
  only : h.ext = [x]
  idx : x.idx = none
  data : x.data.isSome = true
  failed : x.failed = none
  atom : x.atom = none
  whole : x.whole = false
  peer : regionOf s x.pa = .peer

variable (w : PeerWrite s g q h x)
include w

theorem execPeerReply_holder (core : g < 256) (own : s.orphanReply g q = none) (r : PeerReply) :
    execPeerReply g q r s = .next (peerExt s g q x r) := by
  have asked : h.asked (fun x => regionOf s x.pa == .peer) = some x := by simp [Holder.asked, w.only, w.failed, w.peer]
  simp only [execPeerReply, own, w.holder, Option.bind_some, asked]
  exact if_neg (by omega)

theorem State.leavePeer_eq : s.leavePeer x.pa =
    (s.updPeer (field x.pa 38 12) (fun p => { p with inflight := p.inflight - 1 })).push [.slotDrained (field x.pa 38 12)] :=
  if_pos w.peer

theorem answerExt_write (r : ExtReply) : s.answerExt g q x r = writeReply (s.leavePeer x.pa) g q h x r := by
  have here : (s.leavePeer x.pa).holder? g q = some h := by rw [State.leavePeer_eq w]; exact w.holder
  obtain ⟨v, data⟩ := Option.isSome_iff_exists.1 w.data
  have line : (s.leavePeer x.pa).bringLine g x r = (s.leavePeer x.pa, r) := by cases r <;> simp [State.bringLine, w.whole]
  simp only [State.answerExt, here, line, w.idx, data]

theorem writeReply_val (s : State) (v : Nat) : ∃ h', writeReply s g q h x (.val v) =
      ((s.extStamp g x).1.extEntry g q x (s.extStamp g x).2).putHolder g q h'
    ∧ h'.ext = [] ∧ h'.pend = h.pend ∧ h'.sregs = h.sregs ∧ h'.vregs = h.vregs ∧ h'.pc = h.pc := by
  refine ⟨{ h with ext := [] }.raiseFlags 0, ?_, rfl, rfl, rfl, rfl, rfl⟩
  simp only [writeReply, w.atom, w.only]
  simp [Holder.raiseFlags]

theorem writeReply_bad (s : State) (cause kind : Nat) (v : Option Nat) : ∃ p : PendTrap,
    writeReply s g q h x (.bad cause kind v 0) = (s.putHolder g q { h with ext := [] }).lateTrap g q x.pc x.count p
      ∧ p.cause = cause ∧ p.kind = kind ∧ p.tval = faultVal cause x.ea 0 := by
  have data := Option.isSome_iff_ne_none.1 w.data
  simp only [writeReply, w.only, List.map_cons, List.map_nil, if_true]
  simp [w.idx, w.data]
  refine ⟨_, congrArg (fun left => (s.putHolder g q { h with ext := left }).lateTrap g q x.pc x.count _) ?_, rfl, rfl, rfl⟩
  simp [data]

omit w in
/-- The trap is taken later by the holder that the slot then has (R512). -/
theorem State.lateTrap_of_holder {s : State} (here : s.holder? g q = some h) (pc count : Nat) (p : PendTrap) : ∃ p' : PendTrap,
    s.lateTrap g q pc count p = (s.putHolder g q { h with pend := h.pend ++ [p'] }).push [.trapEntry g q]
      ∧ p'.cause = p.cause ∧ p'.kind = p.kind ∧ p'.tval = p.tval ∧ p'.pc = pc := by
  unfold State.lateTrap
  rw [here]
  exact ⟨_, rfl, rfl, rfl, rfl, rfl⟩

omit w in
theorem State.holder?_putHolder_self (s : State) (g q : Nat) (h : Holder) : (s.putHolder g q h).holder? g q = some h := by
  rw [State.holder?, State.putHolder, State.updCore_core_self]
  exact AMap.find?_set_self _ _ _

omit w in
theorem State.leavePeer_peer {s : State} {pa : Nat} (peer : regionOf s pa = .peer) :
    ((s.leavePeer pa).peer (field pa 38 12)).inflight = (s.peer (field pa 38 12)).inflight - 1 := by
  rw [State.leavePeer, if_pos peer]
  exact congrArg PeerSlot.inflight (State.peer_updPeer_self s _ (fun p => { p with inflight := p.inflight - 1 }))

omit w in
theorem State.leavePeer_mem (s : State) (pa : Nat) : (s.leavePeer pa).mem = s.mem := by
  unfold State.leavePeer
  split <;> rfl

/-- The answer of a write ends the access, and the holder goes on as it was (R37). -/
theorem execPeerReply_done (core : g < 256) (own : s.orphanReply g q = none) (v : Nat) :
    Reaches (execPeerReply g q (.data v) s) fun t => t.mem = s.mem
      ∧ (t.peer (field x.pa 38 12)).inflight = (s.peer (field x.pa 38 12)).inflight - 1
      ∧ ∃ h', t.holder? g q = some h' ∧ h'.ext = [] ∧ h'.pend = h.pend ∧ h'.sregs = h.sregs ∧ h'.vregs = h.vregs ∧ h'.pc = h.pc := by
  have plain : peerExt s g q x (.data v) = s.answerExt g q x (.val v) := by
    unfold peerExt
    extract_lets back
    have unread : back = false := by simp [back, w.data, w.atom]
    clear_value back
    subst unread
    rfl
  obtain ⟨h', e, ended⟩ := writeReply_val w (s.leavePeer x.pa) v
  have stamped := (CohFrame.refl (s.leavePeer x.pa)).extStamp (g := g) (x := x)
  refine ⟨_, (execPeerReply_holder w core own _).trans (congrArg Host.Outcome.next (plain.trans ((answerExt_write w _).trans e))),
    stamped.mem.trans (s.leavePeer_mem x.pa), ?_, h', State.holder?_putHolder_self _ g q h', ended⟩
  exact (congrArg PeerSlot.inflight (stamped.peer _)).trans (State.leavePeer_peer w.peer)

/-- An access that is refused as revoked, or lost, ends in a trap that its holder takes later (R174, R512). -/
theorem execPeerReply_fails {r : PeerReply} {cause kind : Nat} (core : g < 256) (own : s.orphanReply g q = none)
    (why : peerExt s g q x r = s.answerExt g q x (.bad cause kind none 0)) (other : cause ≠ 10) :
    Reaches (execPeerReply g q r s) fun t => t.mem = s.mem ∧ Event.trapEntry g q ∈ t.agenda
      ∧ ∃ h' p, t.holder? g q = some h' ∧ h'.ext = [] ∧ h'.pend = h.pend ++ [p]
        ∧ p.cause = cause ∧ p.kind = kind ∧ p.tval = x.ea ∧ p.pc = x.pc := by
  obtain ⟨p, e, c, k, val⟩ := writeReply_bad w (s.leavePeer x.pa) cause kind none
  obtain ⟨p', e', c', k', val', pc⟩ := State.lateTrap_of_holder
    (State.holder?_putHolder_self (s.leavePeer x.pa) g q { h with ext := [] }) x.pc x.count p
  refine ⟨_, (execPeerReply_holder w core own r).trans (congrArg Host.Outcome.next (why.trans ((answerExt_write w _).trans (e.trans e')))),
    s.leavePeer_mem x.pa, List.mem_append_right _ (List.mem_singleton_self _), _, p', State.holder?_putHolder_self _ g q _, rfl, rfl,
    c'.trans c, k'.trans k, val'.trans (val.trans (if_neg other)), pc⟩

theorem peerExt_lost : peerExt s g q x .lost = s.answerExt g q x (.bad 11 5 none 0) := by
  have writes : (x.data.isSome || x.atom.isSome) = true := by simp [w.data]
  exact congrArg (fun b : Bool => s.answerExt g q x (.bad 11 (if b then 5 else 1) none 0)) writes

omit w in
theorem peerExt_revoked : peerExt s g q x .revoked = s.answerExt g q x (.bad 5 0x18 none 0) := rfl

end

end Sys2Proof.Machine
end

-- ==== Sys2Proof/Proofs/PodMap.lean ====

section
set_option Elab.async false
namespace Sys2Proof.Machine

open Sys2Proof.Claims

/-! ## The pod map (R475, R476) -/

section
variable {s : State} {p : Nat}

theorem podState_of_find {s : State} {e : PodEntry} (found : AMap.find? s.ctl.podMap p = some e) : podState s p = some e.state := by
  rw [podState, found]; rfl

/-- The loss of a package that no slot names ends no access (R476). -/
theorem loseOwner_none (none_ : s.slotsOf p = []) : loseOwner p s = s.push [] := by
  have asked : s.askedThrough [] = [] := by simp [State.askedThrough]
  simp [loseOwner, none_, asked]

theorem execMapEpochInstall_old {n : Nat} {es : List PodEntry} (old : n ≤ s.ctl.podEpoch) : execMapEpochInstall n es s = .next s :=
  if_pos old

/-- A map whose entry marks no loss is taken as it is. -/
theorem installMap_alive {n : Nat} {e : PodEntry} (alive : e.state ≠ 3) : installMap n [e] s =
    s.updCtl (fun c => { c with
      podEpoch := n % 2 ^ 32
      podMap := AMap.set c.podMap e.pkg e
      heartbeats := if e.state = 1 then AMap.erase c.heartbeats e.pkg else c.heartbeats }) := by
  simp [installMap, alive]

theorem execMapEpochInstall_new {n : Nat} {e : PodEntry} (new : s.ctl.podEpoch < n) (alive : e.state ≠ 3) :
    Reaches (execMapEpochInstall n [e] s) fun t => DataKept s t ∧ t.ctl.podEpoch = n % 2 ^ 32
      ∧ AMap.find? t.ctl.podMap e.pkg = some e :=
  ⟨_, (if_neg (by omega)).trans (congrArg Host.Outcome.next (installMap_alive alive)), ⟨rfl, rfl, fun _ => rfl⟩, rfl,
    AMap.find?_set_self _ _ _⟩

/-! ### The loss of a package (R475) -/

/-- The map that marks one package lost and puts another in its place. -/
def State.lossMap (s : State) (n : Nat) (e x : PodEntry) : State :=
  s.updCtl (fun c => { c with
    podEpoch := n % 2 ^ 32
    podMap := AMap.set (AMap.set c.podMap e.pkg e) x.pkg x
    heartbeats := AMap.erase c.heartbeats x.pkg })

theorem installMap_loss {n : Nat} {e x : PodEntry} (lost : e.state = 3) (up : x.state = 1) (away : e.pkg ≠ Config.pkgId)
    (alive : s.pkgLost e.pkg = false) (none_ : s.slotsOf e.pkg = []) : installMap n [e, x] s = ((s.lossMap n e x).push []).push
      (.rootFailover e.pkg :: (s.grids.filter (fun y => y.2.done.isNone)).map (fun y => Event.reDeal y.1 e.pkg)) := by
  have gone : [e, x].filter (fun e => e.state == 3 && e.pkg != Config.pkgId && !s.pkgLost e.pkg) = [e] := by
    simp [lost, up, away, alive]
  have map : s.updCtl (fun c => { c with
      podEpoch := n % 2 ^ 32
      podMap := [e, x].foldl (fun m e => AMap.set m e.pkg e) c.podMap
      heartbeats := [e, x].foldl (fun m e => if e.state = 1 then AMap.erase m e.pkg else m) c.heartbeats }) = s.lossMap n e x := by
    simp [State.lossMap, lost, up]
  have quiet : (s.lossMap n e x).slotsOf e.pkg = [] := none_
  unfold installMap
  extract_lets all s1
  rw [show all = [e] from gone, show s1 = s.lossMap n e x from map, List.foldl_cons, List.foldl_nil, loseOwner_none quiet]
  rfl

variable {q : Nat} {e x : PodEntry} (away : p ≠ Config.pkgId) (entry : AMap.find? s.ctl.podMap p = some e) (up : e.state = 1)
  (spare : List.find? (fun (y : Nat × PodEntry) => y.2.state == 2 && y.1 != p) s.ctl.podMap = some (q, x))
include away entry up spare

theorem losePackage_spare : losePackage p s =
    installMap (s.ctl.podEpoch + 1) [{ e with state := 3 }, { x with state := 1, replaced := p }]
      (s.updCtl (fun c => { c with routing := AMap.erase c.routing p })) := by
  have due : ¬(p = Config.pkgId ∨ e.state = 0 ∨ e.state = 3) := by simp [away, up]
  simp only [losePackage, entry]
  rw [if_neg due, if_pos up, spare]
  rfl

theorem losePackage_marks (named : e.pkg = p) (none_ : s.slotsOf p = []) (id : x.pkg = q) (sorted : AMap.sorted s.ctl.routing = true) :
    let t := losePackage p s
    DataKept s t ∧ podState t p = some 3
      ∧ AMap.find? t.ctl.podMap q = some { x with state := 1, replaced := p } ∧ t.ctl.podEpoch = (s.ctl.podEpoch + 1) % 2 ^ 32
      ∧ AMap.find? t.ctl.routing p = none ∧ Event.rootFailover p ∈ t.agenda
      ∧ ∀ n gr, AMap.find? s.grids n = some gr → gr.done = none → Event.reDeal n p ∈ t.agenda := by
  have ne : q ≠ p := (by simpa using List.find?_some spare : _ ∧ q ≠ p).2
  have alive : s.pkgLost p = false := by simp [State.pkgLost, entry, up]
  subst id named
  have map := installMap_loss (s := s.updCtl (fun c => { c with routing := AMap.erase c.routing e.pkg })) (n := s.ctl.podEpoch + 1)
    (e := { e with state := 3 }) (x := { x with state := 1, replaced := e.pkg }) rfl rfl away alive none_
  rw [losePackage_spare away entry up spare, map]
  generalize taken : (s.updCtl (fun c => { c with routing := AMap.erase c.routing e.pkg })).lossMap (s.ctl.podEpoch + 1)
    { e with state := 3 } { x with state := 1, replaced := e.pkg } = u
  have kept : DataKept s u := by rw [← taken]; exact ⟨rfl, rfl, fun _ => rfl⟩
  have epoch : u.ctl.podEpoch = (s.ctl.podEpoch + 1) % 2 ^ 32 := by rw [← taken]; rfl
  have routes : AMap.find? u.ctl.routing e.pkg = none := by rw [← taken]; exact AMap.find?_erase_self sorted
  have podMap : u.ctl.podMap = AMap.set (AMap.set s.ctl.podMap e.pkg { e with state := 3 }) x.pkg
      { x with state := 1, replaced := e.pkg } := by rw [← taken]; rfl
  have gone : AMap.find? u.ctl.podMap e.pkg = some { e with state := 3 } := by
    rw [podMap, AMap.find?_set_ne _ _ _ _ ne.symm, AMap.find?_set_self]
  refine ⟨kept, podState_of_find gone, ?_, epoch, routes, List.mem_append_right _ (List.mem_cons_self ..), fun n gr found running => ?_⟩
  · exact podMap ▸ AMap.find?_set_self _ _ _
  · refine List.mem_append_right _ (List.mem_cons_of_mem _ (List.mem_map.2 ⟨(n, gr), ?_, rfl⟩))
    exact List.mem_filter.2 ⟨AMap.mem_of_find? found, by simp [running]⟩

end

theorem execHeartbeatMiss_counts {s : State} {p : Nat} (few : AMap.getD s.ctl.heartbeats p 0 < 3) :
    Reaches (execHeartbeatMiss p s) fun t => { t with ctl := { t.ctl with heartbeats := s.ctl.heartbeats } } = s
      ∧ AMap.find? t.ctl.heartbeats p = some (AMap.getD s.ctl.heartbeats p 0 + 1) :=
  ⟨_, if_pos (by omega), rfl, AMap.find?_set_self _ _ _⟩

/-- The fourth heartbeat that is missed declares the loss (R475). -/
theorem execHeartbeatMiss_fourth {s : State} {p q : Nat} {e x : PodEntry} (last : AMap.getD s.ctl.heartbeats p 0 = 3)
    (away : p ≠ Config.pkgId) (entry : AMap.find? s.ctl.podMap p = some e) (up : e.state = 1)
    (spare : List.find? (fun (y : Nat × PodEntry) => y.2.state == 2 && y.1 != p) s.ctl.podMap = some (q, x)) (named : e.pkg = p)
    (none_ : s.slotsOf p = []) (id : x.pkg = q) (sorted : AMap.sorted s.ctl.routing = true) :
    Reaches (execHeartbeatMiss p s) fun t => podState t p = some 3 := by
  obtain ⟨-, lost, -⟩ := losePackage_marks
    (s := s.updCtl (fun c => { c with heartbeats := AMap.set c.heartbeats p (AMap.getD s.ctl.heartbeats p 0 + 1) }))
    away entry up spare named none_ id sorted
  exact ⟨_, if_neg (by omega), lost⟩

/-- Settles O54: each row of the flits, links, handles, peer accesses and the pod map, by the lemmas above. -/
theorem fabricPeersAndPod : Obligations.FabricPeersAndPod := by
  unfold Obligations.FabricPeersAndPod
  intro s
  refine ⟨fun port f => ⟨execFlitReceipt_asks, execFlitReceipt_data⟩,
    fun port n after some_ => ⟨execRetryRequest_replays after some_, execRetryRequest_loses after some_⟩,
    fun a b => ⟨fun down => if_neg (by simp [down]), execLinkDown_cuts⟩,
    fun i w => ⟨fun far => if_pos far, fun real => ⟨fun n => execHandleInstall_refused real, execHandleInstall_asks real⟩,
      fun n => ⟨execInstallReply_skip, execInstallReply_answers⟩, execHandleUninstall_skip, execHandleUninstall_drains,
      fun _ => execSlotDrained_skip, execSlotDrained_empties⟩,
    fun r => ?_, fun g q h x v core own here only idx wq data failed atom whole peer => ?_,
    execOwnerInstallCheck_answers s, fun n es => execMapEpochInstall_old, fun n e => execMapEpochInstall_new,
    fun p e q x away entry named up none_ spare id sorted => ?_, fun p => execHeartbeatMiss_counts⟩
  · intro n
    have size : n = peerOpSize r.op := by
      dsimp only [n]
      cases r.op <;> rfl
    clear_value n
    refine ⟨execPeerAccess_gone, fun e entry => ⟨fun bad => execPeerAccess_revoked entry (size ▸ bad), fun good gen inside => ?_⟩⟩
    have live : ExportAnswers s r e := ⟨entry, good, gen, size ▸ inside⟩
    refine ⟨fun flip => congrArg Host.Outcome.next (peerPerform_held live (size ▸ flip)), fun flip flip' wf => ?_⟩
    have free : ¬((s.flipHoldsPa (exportAt r e) || s.flipHoldsPa (exportAt r e + peerOpSize r.op - 1)) = true) := by
      rw [← size, show s.flipHoldsPa (exportAt r e) = false from flip, show s.flipHoldsPa (exportAt r e + n - 1) = false from flip']
      simp
    refine ⟨fun s1 op taken => execPeerAccess_reads live free op taken, fun v s1 op taken => execPeerAccess_writes live free op wf taken,
      fun f el x new s1 op taken => ?_⟩
    obtain rfl : n = el.bytes := by rw [size, op]; rfl
    exact execPeerAccess_atomic live free op wf taken
  · have asked : PeerWrite s g q h x := ⟨here, only, idx, Option.isSome_iff_exists.2 ⟨v, data⟩, failed, atom, whole, peer⟩
    refine ⟨execPeerReply_done asked core own, fun w c k why => ?_⟩
    rcases why with ⟨rfl, rfl, rfl⟩ | ⟨rfl, rfl, rfl⟩
    · exact execPeerReply_fails asked core own (peerExt_lost asked) (by decide)
    · exact execPeerReply_fails asked core own peerExt_revoked (by decide)
  · exact ⟨⟨_, rfl, losePackage_marks away entry up spare named none_ id sorted⟩,
      fun last => execHeartbeatMiss_fourth last away entry up spare named none_ id sorted⟩

end Sys2Proof.Machine
end

-- ==== Sys2Proof/Proofs/FuturesAndSweeps.lean ====

section
set_option Elab.async false
namespace Sys2Proof.Machine

open Sys2Proof.Claims

/-! ## Registers tagged with a future (R242) -/

/-- s64[A] of R233 as a number. -/
theorem Holder.readS64_toNat (h : Holder) (a : Nat) : (h.readS64 a).toNat = pairOf h a := by
  rw [Holder.readS64, BitVec.toNat_append, ← Nat.shiftLeft_add_eq_or_of_lt (h.readS a).isLt, Nat.shiftLeft_eq, pairOf]
  omega

theorem Holder.advance_of_first (h : Holder) (n : Nat) (first : h.replaying = none) : h.advance n =
    { h with
      pc := (h.pc + n) % 2 ^ 64, status := .ready, ll := h.ll.map LongOp.tick
      bpSkip := if h.replayPC.isSome then h.bpSkip else none } := by
  simp [Holder.advance, first]

theorem State.holder?_retire (s : State) (g q : Nat) (i : Instr) (h : Holder) :
    ∃ b, (s.retire g q i h).holder? g q = some { h.advance i.size with stepping := b } :=
  ⟨_, by rw [State.holder?, State.retire, State.flow, State.updCore_core_self]; exact State.holder?_issued s g q (h.advance i.size)⟩

theorem Holder.tagWith_eq (h : Holder) {d : Nat} (f : Nat) (low : d < 61) : h.tagWith d f =
    { h with
      sregs := AMap.set h.sregs d (BitVec.ofNat 32 f)
      tags := AMap.set (AMap.erase h.tags d) d f
      landed := h.landed.filter (· != d) } := by
  simp [Holder.tagWith, Holder.writeS, low]

/-- A holder whose scalar registers, tags and mask are those of `h` with D tagged. -/
theorem taggedWith_of_eq {h' h : Holder} {d f : Nat} (low : d < 61) (tags : h'.tags = (h.tagWith d f).tags)
    (sregs : h'.sregs = (h.tagWith d f).sregs) (kind : h'.kind = h.kind) (mask : h'.mask = h.mask) (vregs : h'.vregs = h.vregs)
    (accs : h'.accs = h.accs) (shapes : h'.shapes = h.shapes) : TaggedWith h' h d f := by
  rw [Holder.tagWith_eq h f low] at tags sregs
  refine ⟨?_, ?_, fun n ne => ?_, vregs, accs, shapes⟩
  · rw [tags]; exact AMap.find?_set_self ..
  · simp [Holder.readS, low, sregs]
  · simp only [Holder.readS, sregs, kind, mask, AMap.getD_set_ne _ _ _ _ _ ne]

/-- An instruction that tags D with a future ends: D holds the handle, and the next instruction follows. -/
theorem State.retire_tagWith (s : State) (g q : Nat) (i : Instr) {h : Holder} {d : Nat} (f : Nat) (first : h.replaying = none)
    (low : d < 61) : ∃ h', (s.retire g q i (h.tagWith d f)).holder? g q = some h' ∧ TaggedWith h' h d f
      ∧ h'.pc = (h.pc + i.size) % 2 ^ 64 := by
  obtain ⟨b, found⟩ := s.holder?_retire g q i (h.tagWith d f)
  have same := Holder.tagWith_eq h f low
  rw [Holder.advance_of_first _ _ (by rw [same]; exact first)] at found
  exact ⟨_, found, taggedWith_of_eq low rfl rfl (by rw [same]) (by rw [same]) (by rw [same]) (by rw [same]) (by rw [same]),
    by rw [same]⟩

/-- An operation that is complete at once (R64): its future is tagged and completes. -/
theorem doneAtOnce_done (s : State) (g q : Nat) (i : Instr) {h : Holder} {d : Nat} (first : h.replaying = none) (low : d < 61) (n : Nat) :
    let t := doneAtOnce s g q i h d n
    t.mem = s.mem ∧ (∃ h', t.holder? g q = some h' ∧ TaggedWith h' h d s.nextFuture ∧ h'.pc = (h.pc + i.size) % 2 ^ 64)
      ∧ Event.futureComplete s.nextFuture n ∈ t.agenda :=
  ⟨rfl, State.retire_tagWith _ g q i s.nextFuture first low, List.mem_append_right _ (List.mem_singleton_self _)⟩

/-! ## Translations swept out of every TLB (R65) -/

/-- What the TLBs numbered k hold: those of core k, of cluster k and of die k. -/
def State.tlbsAt (s : State) (k : Nat) : List TlbEntry :=
  (s.core k).tlb ++ (s.cluster k).tlb ++ (s.die k).tlb ++ (s.die k).rangeTlb

theorem AMap.getD_map {α : Type} {f : α → α} {z : α} (keeps : f z = z) (m : AMap α) (n : Nat) :
    AMap.getD (m.map fun p => (p.1, f p.2)) n z = f (AMap.getD m n z) := by
  rw [AMap.getD, AMap.getD, AMap.find?_map]
  cases AMap.find? m n with
  | none => exact keeps.symm
  | some v => rfl

theorem State.tlbsAt_sweep (s : State) (all : Bool) (asid base len k : Nat) :
    (s.sweep all asid base len).tlbsAt k = dropTlb all asid base len (s.tlbsAt k) := by
  have core : ((s.sweep all asid base len).core k).tlb = dropTlb all asid base len (s.core k).tlb :=
    congrArg Core.tlb (AMap.getD_map (f := fun c : Core => { c with
      tlb := dropTlb all asid base len c.tlb, icache := [], ccache := [] }) rfl s.cores k)
  have cluster : ((s.sweep all asid base len).cluster k).tlb = dropTlb all asid base len (s.cluster k).tlb :=
    congrArg Cluster.tlb (AMap.getD_map (f := fun c : Cluster => { c with tlb := dropTlb all asid base len c.tlb }) rfl s.clusters k)
  have die : (s.sweep all asid base len).die k = { s.die k with
      tlb := dropTlb all asid base len (s.die k).tlb, rangeTlb := dropTlb all asid base len (s.die k).rangeTlb } :=
    AMap.getD_map (f := fun c : Die => { c with
      tlb := dropTlb all asid base len c.tlb, rangeTlb := dropTlb all asid base len c.rangeTlb }) rfl s.dies k
  simp only [State.tlbsAt, core, cluster, die, dropTlb, List.filter_append]

/-- After a sweep no TLB holds a translation of the range. -/
theorem State.swept (s : State) (all : Bool) (asid base len k : Nat) :
    ∀ e ∈ (s.sweep all asid base len).tlbsAt k, ¬((all = true ∨ e.asid = asid) ∧ base < e.va + e.size ∧ e.va < base + len) := by
  intro e mem hit
  rw [State.tlbsAt_sweep] at mem
  have gone : ((all || e.asid == asid) && meets base len e.va e.size) = true := by simpa [meets] using hit
  simpa [gone] using (List.mem_filter.1 mem).2

/-- The end of an instruction leaves every TLB as it is. -/
theorem State.tlbsAt_retire (s : State) (g q : Nat) (i : Instr) (h : Holder) (k : Nat) : (s.retire g q i h).tlbsAt k = s.tlbsAt k := by
  have core : ((s.retire g q i h).core k).tlb = (s.core k).tlb := by
    by_cases at_ : k = g
    · subst at_
      simp [State.retire, State.flow, State.issued, State.countIssue, State.putHolder]
    · simp [State.retire, State.flow, State.issued, State.countIssue, State.putHolder, State.updCore_core_ne _ _ _ _ at_]
  simp only [State.tlbsAt, core]
  rfl

end Sys2Proof.Machine
end

-- ==== Sys2Proof/Proofs/Invalidations.lean ====

section
set_option Elab.async false
namespace Sys2Proof.Machine

open Sys2Proof.Claims

/-! ## Invalidations (R64 to R67, R330) -/

/-- An invalidation that starts has its place, its end to come, and every TLB swept (R65). -/
theorem State.startInval_starts (s : State) (x : Inval) : (s.startInval x).mem = s.mem
    ∧ AMap.find? (s.startInval x).ctl.invals s.nextOp = some { x with blocks := s.sweptBlocks x.all x.asid x.base x.len }
    ∧ Event.invalidationComplete s.nextOp ∈ (s.startInval x).agenda
    ∧ ∀ k, (s.startInval x).tlbsAt k = (s.sweep x.all x.asid x.base x.len).tlbsAt k :=
  ⟨rfl, AMap.find?_set_self .., List.mem_append_right _ (List.mem_cons_of_mem _ (List.mem_singleton_self _)), fun _ => rfl⟩

section
variable {s : State} {g q d a b c : Nat} {h : Holder}

/-- `tlbinv` that finds room for its tag: complete at once, a wait for one of the 64 places, or an invalidation that starts. -/
theorem exec_tlbinv (go : Issues (.tlbinv d a b c) s g q h) (room : ¬TagsFull h d) :
    exec (.tlbinv d a b c) s =
      let i := Instr.tlbinv d a b c
      let v := (h.readS c).toNat
      let r := widen (pairOf h a) (pairOf h b)
      if r.2 = 0 then .next (doneAtOnce s g q i h d 0)
      else if 64 ≤ s.ctl.invals.length then .next (s.block g q h .invals)
      else .next (((s.newFuture (.inval s.nextOp)).1.startInval
        { asid := v % 2 ^ 16, all := bitN v 16, base := r.1, len := r.2, fut := some s.nextFuture }).retire g q i
          (h.tagWith d s.nextFuture)) := by
  change execTlbinv d a b c s = _
  unfold execTlbinv
  rw [issue_go go]
  dsimp only
  rw [if_neg (by simpa [TagsFull] using room), Holder.readS64_toNat, Holder.readS64_toNat]
  rfl

variable (go : Issues (.tlbinv d a b c) s g q h) (room : ¬TagsFull h d)
include go room

theorem exec_tlbinv_empty (first : h.replaying = none) (low : d < 61) (empty : (widen (pairOf h a) (pairOf h b)).2 = 0) :
    Reaches (exec (.tlbinv d a b c) s) fun t => t.mem = s.mem
      ∧ (∃ h', t.holder? g q = some h' ∧ TaggedWith h' h d s.nextFuture ∧ h'.pc = (h.pc + 8) % 2 ^ 64)
      ∧ Event.futureComplete s.nextFuture 0 ∈ t.agenda :=
  ⟨_, (exec_tlbinv go room).trans (if_pos empty), doneAtOnce_done s g q _ first low 0⟩

variable (some_ : (widen (pairOf h a) (pairOf h b)).2 ≠ 0)
include some_

theorem exec_tlbinv_waits (full : 64 ≤ s.ctl.invals.length) :
    exec (.tlbinv d a b c) s = .next (s.putHolder g q { h with status := .blocked .invals }) :=
  (exec_tlbinv go room).trans ((if_neg some_).trans (if_pos full))

theorem exec_tlbinv_starts (first : h.replaying = none) (low : d < 61) (few : s.ctl.invals.length < 64) :
    let v := (h.readS c).toNat
    let r := widen (pairOf h a) (pairOf h b)
    Reaches (exec (.tlbinv d a b c) s) fun t => t.mem = s.mem
      ∧ (∃ h', t.holder? g q = some h' ∧ TaggedWith h' h d s.nextFuture ∧ h'.pc = (h.pc + 8) % 2 ^ 64)
      ∧ AMap.find? t.futures s.nextFuture = some { op := .inval s.nextOp }
      ∧ AMap.find? t.ctl.invals s.nextOp
        = some { asid := v % 2 ^ 16, all := bitN v 16, base := r.1, len := r.2, fut := some s.nextFuture
                 blocks := s.sweptBlocks (bitN v 16) (v % 2 ^ 16) r.1 r.2 }
      ∧ Event.invalidationComplete s.nextOp ∈ t.agenda
      ∧ ∀ k, ∀ e ∈ t.tlbsAt k, ¬((bitN v 16 = true ∨ e.asid = v % 2 ^ 16) ∧ r.1 < e.va + e.size ∧ e.va < r.1 + r.2) := by
  intro v r
  have ends := (exec_tlbinv go room).trans ((if_neg some_).trans (if_neg few.not_ge))
  generalize named : ({ asid := v % 2 ^ 16, all := bitN v 16, base := r.1, len := r.2, fut := some s.nextFuture } : Inval) = x at ends
  obtain ⟨mem, place, due, swept⟩ := State.startInval_starts (s.newFuture (.inval s.nextOp)).1 x
  refine ⟨_, ends, mem, State.retire_tagWith _ g q _ s.nextFuture first low, AMap.find?_set_self s.futures .., ?_, due, ?_⟩
  · subst named; exact place
  · subst named
    intro k e mem
    rw [State.tlbsAt_retire, swept] at mem
    exact State.swept _ _ _ _ _ k e mem

end

section
variable {s : State} {id f : Nat} {x : Inval} (entry : AMap.find? s.ctl.invals id = some x)
include entry

theorem execInvalidationComplete_waits (busy : s.rangeBusy x.all x.asid x.base x.len x.blocks = true) :
    execInvalidationComplete id s = .next s := by
  rw [execInvalidationComplete, entry]
  exact if_pos busy

theorem execInvalidationComplete_ends (fut : x.fut = some f) (packet : x.packet = none) (sorted : AMap.sorted s.ctl.invals = true)
    (free : s.rangeBusy x.all x.asid x.base x.len x.blocks = false) : Reaches (execInvalidationComplete id s) fun t =>
      t.mem = s.mem ∧ AMap.find? t.ctl.invals id = none ∧ Event.futureComplete f 0 ∈ t.agenda := by
  refine ⟨(s.updCtl (fun c => { c with invals := AMap.erase c.invals id })).push [.futureComplete f 0], ?_, rfl,
    AMap.find?_erase_self sorted, List.mem_append_right _ (List.mem_singleton_self _)⟩
  rw [execInvalidationComplete, entry]
  dsimp only
  rw [if_neg (by simp [free]), fut, packet]
  rfl

end

/-- Walks that end leave the list of those that have a context (R61). -/
theorem State.walks_endWalks (s : State) (gone : WalkCtx → Bool) : (s.endWalks gone).ctl.walks = s.ctl.walks.filter (fun w => !gone w) :=
  (Control.walksNext_eq _ _).elim fun _ same => (congrArg Control.walks same :)

theorem execInvalWalkRestart_ends {s : State} {id : Nat} {x : Inval} (entry : AMap.find? s.ctl.invals id = some x) :
    Reaches (execInvalWalkRestart id s) fun t => t.mem = s.mem ∧ ∀ w ∈ t.ctl.walks, w ∈ s.ctl.walks
      ∧ (meets x.base x.len (w.page * 4096) 4096 = true → (x.all = true ∨ w.asid = x.asid) →
          s.flipHolds w.asid (w.page * 4096) = true) := by
  refine ⟨s.endWalks _, by rw [execInvalWalkRestart, entry], rfl, fun w mem => ?_⟩
  rw [State.walks_endWalks] at mem
  obtain ⟨was, kept⟩ := List.mem_filter.1 mem
  refine ⟨was, fun hit mine => ?_⟩
  have named : (x.all || w.asid == x.asid) = true := by simpa using mine
  simpa [named, hit] using kept

end Sys2Proof.Machine
end

-- ==== Sys2Proof/Proofs/Walks.lean ====

section
set_option Elab.async false
namespace Sys2Proof.Machine

open Sys2Proof.Claims

/-! ## The entry that a walk finds (R46, R49 to R51, R58) -/

/-- An entry maps the naturally aligned block that holds va; one of a range is at least 2 MiB (R50). -/
structure TlbEntry.IsBlock (e : TlbEntry) (asid va : Nat) : Prop where
  asid : e.asid = asid
  base : e.va = va - va % e.size
  pow : ∃ n, e.size = 2 ^ n ∧ (e.range = true → 21 ≤ n)

/-- A check that answers a fault has not failed where an entry is answered. -/
theorem Except.ok_of_ite_error {α : Type} {c : Prop} [Decidable c] {k : Nat} {x : Except Nat α} {a : α}
    (found : (if c then .error k else x) = .ok a) : x = .ok a := by
  split at found
  · cases found
  · exact found

theorem finishEntry_isBlock {s : State} {asid w lvl va : Nat} {e : TlbEntry} (found : finishEntry s asid w lvl va = .ok e) :
    e.IsBlock asid va := by
  unfold finishEntry at found
  extract_lets isRange sz bits size frame at found
  have large : isRange = true → 21 ≤ bits := fun range => by simp only [bits, sz, if_pos range]; omega
  have pow : size = 2 ^ bits := rfl
  clear_value isRange sz bits size frame
  iterate 10 replace found := Except.ok_of_ite_error found
  cases found
  exact ⟨rfl, rfl, bits, pow, large⟩

theorem TableRead.walk_leaf {x : TableRead} {f : Nat → State → Walked} {e : TlbEntry} {ea : Nat} {s1 : State}
    (found : x.walk f = .leaf e ea s1) : ∃ v s, f v s = .leaf e ea s1 := by
  cases x with
  | ok v s => exact ⟨v, s, found⟩
  | poison => cases found
  | wait => cases found

theorem walkDown_isBlock {asid va n table ea : Nat} {e : TlbEntry} {s s1 : State}
    (found : walkDown asid va n table s = .leaf e ea s1) : e.IsBlock asid va := by
  induction n generalizing table s with
  | zero => cases found
  | succ n ih =>
    obtain ⟨w, s2, found⟩ := TableRead.walk_leaf found
    dsimp only at found
    split at found
    · cases found
    · split at found
      · split at found
        next fin => cases found; exact finishEntry_isBlock fin
        next => cases found
      · split at found
        · cases found
        · split at found
          · cases found
          · split at found
            · exact ih found
            · cases found

theorem State.walk_isBlock {asid va ea : Nat} {e : TlbEntry} {s s1 : State} (found : s.walk asid va = .leaf e ea s1) :
    e.IsBlock asid va := by
  rw [State.walk] at found
  split at found
  · cases found
  · obtain ⟨w, s2, found⟩ := TableRead.walk_leaf found
    dsimp only at found
    split_ifs at found
    exact walkDown_isBlock found

/-- Of two naturally aligned blocks that hold an address, the larger begins no later. -/
theorem alignDown_le {va m n : Nat} (le : m ≤ n) : va - va % 2 ^ n ≤ va - va % 2 ^ m := by
  have dvd : va % 2 ^ n % 2 ^ m = va % 2 ^ m := Nat.mod_mod_of_dvd va (Nat.pow_dvd_pow 2 le)
  have small := Nat.mod_le (va % 2 ^ n) (2 ^ m)
  omega

section
variable {e : TlbEntry} {asid va : Nat} (block : e.IsBlock asid va)
include block

/-- What a core's TLB holds of an entry translates the address as the entry does (R58). -/
theorem TlbEntry.IsBlock.fragment : (e.fragment va).covers asid va = true ∧ (e.fragment va).phys va = e.phys va := by
  obtain ⟨named, base, n, size, large⟩ := block
  have piece : ∀ m ≤ n, e.va ≤ va - va % 2 ^ m ∧ va - va % 2 ^ m ≤ va ∧ va < va - va % 2 ^ m + 2 ^ m := fun m le => by
    have below := Nat.mod_lt va (Nat.two_pow_pos m)
    have within := Nat.mod_le va (2 ^ m)
    rw [base, size]
    exact ⟨alignDown_le le, Nat.sub_le _ _, by omega⟩
  have whole := piece n le_rfl
  rw [TlbEntry.fragment]
  split
  · simp only [TlbEntry.covers, named, beq_self_eq_true, Bool.true_and, Bool.and_eq_true, decide_eq_true_eq, and_true]
    rw [← size, ← base] at whole
    exact whole.2
  next ranged =>
    have two := piece 21 (large (by simpa using ranged))
    extract_lets g m
    split
    next gib =>
      have one := piece 30 ((Nat.pow_le_pow_iff_right (by decide)).1 (size ▸ gib.1))
      simp only [TlbEntry.covers, TlbEntry.phys, named, beq_self_eq_true, Bool.true_and, Bool.and_eq_true, decide_eq_true_eq, g]
      omega
    next =>
      simp only [TlbEntry.covers, TlbEntry.phys, named, beq_self_eq_true, Bool.true_and, Bool.and_eq_true, decide_eq_true_eq, m]
      omega

end

theorem TlbEntry.fragment_attr (e : TlbEntry) (va : Nat) : (e.fragment va).attr = e.attr := by
  rw [TlbEntry.fragment]
  split
  · rfl
  · extract_lets g m
    split <;> rfl

/-- An entry is installed in the core's TLB, and no byte changes (R57). -/
theorem State.installTlb_core (s : State) (k : Nat) (e : TlbEntry) (va : Nat) :
    (s.installTlb (.core k) e va).mem = s.mem ∧ e.fragment va ∈ ((s.installTlb (.core k) e va).core k).tlb := by
  refine ⟨rfl, ?_⟩
  have put : ∀ t : State, e.fragment va ∈ ((t.installBelow (some k) (some (cluOf k)) e va).core k).tlb := fun t => by
    have head : ((t.installBelow (some k) (some (cluOf k)) e va).core k).tlb
        = tlbInstall (t.core k).tlb 256 (t.fresh + 1) (e.fragment va) := congrArg Core.tlb (AMap.getD_set_self ..)
    rw [head]
    exact List.mem_cons_self ..
  exact put _

/-- A core's TLB translates va as an entry does, under attributes whose bit n is set. -/
abbrev State.Holds (t : State) (k asid va : Nat) (e : TlbEntry) (n : Nat) : Prop :=
  ∃ x ∈ (t.core k).tlb, x.covers asid va = true ∧ x.phys va = e.phys va ∧ bitN x.attr n = true

/-- So it does once the entry is installed with such attributes. -/
theorem State.installTlb_holds (s : State) {k asid va n attr : Nat} {e : TlbEntry} (block : e.IsBlock asid va) (bit : bitN attr n = true) :
    (s.installTlb (.core k) { e with attr := attr } va).Holds k asid va e n := by
  have same : ({ e with attr := attr } : TlbEntry).IsBlock asid va := ⟨block.asid, block.base, block.pow⟩
  exact ⟨_, (s.installTlb_core k _ va).2, same.fragment.1, same.fragment.2, by rw [TlbEntry.fragment_attr]; exact bit⟩

/-! ## An entry updated at its home (R52, R73) -/

/-- The home has the line of an entry, whatever it had to recall or fetch. -/
theorem CohFrame.entryLine {s0 s : State} {line : Nat} (k : CohFrame s0 s) : CohFrame s0 ((s.homeOpen line true).andThen fun s1 =>
    ((s1.recallLine line).unlessN line).andThen fun s2 => s2.memFetch line).state :=
  k.homeOpen.andThen fun _ k => k.recallLine.unlessN.andThen fun _ k => k.memFetch

theorem State.update64_ok {s s1 : State} {ea v : Nat} {f : Nat → Nat} (done : s.update64 ea f = .ok v s1) :
    v = f (Memory.readLE s.mem ea 8) ∧ s1.mem = Memory.writeLE s.mem ea 8 v ∧ s1.ctl.still = s.ctl.still := by
  unfold State.update64 at done
  extract_lets line at done
  have taken := (CohFrame.refl s).entryLine (line := line)
  split at done
  next s2 e =>
    rw [e] at taken
    extract_lets w s3 at done
    have run : CohFrame s s3 := taken.homeWriteInterval.fillMsc.stale
    have settled := CohFrame.homeSettle (uncached := false) (line := line) (CohFrame.refl { s3 with mem := Memory.writeLE s3.mem ea 8 w })
    have value : w = f (Memory.readLE s.mem ea 8) := congrArg (fun m => f (Memory.readLE m ea 8)) taken.mem
    clear_value w
    cases done
    exact ⟨value, settled.mem.trans (by rw [← run.mem]), settled.ctl.trans run.ctl⟩
  all_goals cases done

/-- An entry whose line is poisoned stays as it is. -/
theorem State.update64_poison {s s1 : State} {ea kind : Nat} {f : Nat → Nat} (done : s.update64 ea f = .poison kind s1) :
    s1.ctl.still = s.ctl.still := by
  unfold State.update64 at done
  extract_lets line at done
  have taken := (CohFrame.refl s).entryLine (line := line)
  split at done
  · cases done
  · cases done
  all_goals
    next e => cases done; rw [e] at taken; exact taken.ctl

/-- The entry holds its new value of 64 bits, and every other byte is as it was. -/
theorem State.update64_writes {s s1 : State} {ea v : Nat} {f : Nat → Nat} (wf : Memory.wf s.mem = true) (done : s.update64 ea f = .ok v s1)
    (small : f (Memory.readLE s.mem ea 8) < 2 ^ 64) : Memory.readLE s1.mem ea 8 = v
      ∧ ∀ a, a < ea ∨ ea + 8 ≤ a → Memory.read s1.mem a = Memory.read s.mem a := by
  obtain ⟨value, mem, -⟩ := State.update64_ok done
  rw [mem]
  refine ⟨?_, fun a out => Memory.read_writeLE_outside v wf out⟩
  rw [Memory.readLE_writeLE ea 8 v wf]
  exact Nat.mod_eq_of_lt (value ▸ small)

/-- Bits set in an entry leave it an entry of 64 bits. -/
theorem readLE_or_lt (m : Memory) (ea : Nat) {bits : Nat} (small : bits < 2 ^ 64) : Memory.readLE m ea 8 ||| bits < 2 ^ 64 :=
  Nat.or_lt_two_pow (Memory.readLE_lt m ea 8) small

theorem bitN_eq_testBit (x n : Nat) : bitN x n = x.testBit n := by
  rw [bitN, Nat.testBit_eq_decide_div_mod_eq]
  rfl

/-! ## Walks (R51, R52, R61, R73) -/

/-- A walk that cannot go on stands with the walks that have a context, or in the queue of its die, when a context is free (R61). -/
theorem State.park_core {s : State} {k asid va : Nat} (free : s.ctl.walkFree (dieOf k) = true) :
    (s.park (.core k) asid va).mem = s.mem ∧ ((s.park (.core k) asid va).core k).tlb = (s.core k).tlb
      ∧ ∃ w, (w ∈ (s.park (.core k) asid va).ctl.walks ∨ w ∈ (s.park (.core k) asid va).ctl.walkQueue)
        ∧ w.core = k ∧ w.asid = asid ∧ w.page = va / 4096 ∧ w.parked = true := by
  have tlb : ((s.park (.core k) asid va).core k).tlb = (s.core k).tlb := by
    change ((State.updCore _ k _).core k).tlb = _
    rw [State.updCore_core_self]
    rfl
  refine ⟨rfl, tlb, ?_⟩
  generalize named : (⟨k, asid, va / 4096, true, dieOf k, false⟩ : WalkCtx) = w
  have ctl : (s.park (.core k) asid va).ctl =
      if s.ctl.walks.contains w ∨ s.ctl.walkQueue.contains w then s.ctl
      else if s.ctl.walks.any (fun x => x.asid == asid && x.page == va / 4096) then
        { s.ctl with walks := s.ctl.walks ++ [{ w with joined := true }] }
      else { s.ctl with walks := s.ctl.walks ++ [w] } := by
    subst named
    change (if _ then _ else if _ then _ else if s.ctl.walkFree (dieOf k) then _ else _) = _
    rw [if_pos free]
    rfl
  rw [ctl]
  split
  next there =>
    refine ⟨w, ?_, by subst named; exact ⟨rfl, rfl, rfl, rfl⟩⟩
    simpa using there
  next =>
    split
    · exact ⟨_, .inl (List.mem_append_right _ (List.mem_singleton_self _)), by subst named; exact ⟨rfl, rfl, rfl, rfl⟩⟩
    · exact ⟨_, .inl (List.mem_append_right _ (List.mem_singleton_self _)), by subst named; exact ⟨rfl, rfl, rfl, rfl⟩⟩

section
variable {s : State} {k asid va : Nat} (room : s.missFull (.core k) asid va = false)
include room

theorem State.withWalk_held (held : s.flipHolds asid va = true) (f : TlbEntry → Nat → State → Trans) :
    s.withWalk (.core k) asid va f = .parked (s.park (.core k) asid va) := by
  rw [State.withWalk, room, held]
  rfl

theorem execWalk_held (low : va < 2 ^ 56) (held : s.flipHolds asid va = true) (free : s.ctl.walkFree (dieOf k) = true) :
    Reaches (execWalk k asid va s) fun t => t.mem = s.mem ∧ (t.core k).tlb = (s.core k).tlb
      ∧ ∃ w, (w ∈ t.ctl.walks ∨ w ∈ t.ctl.walkQueue) ∧ w.core = k ∧ w.asid = asid ∧ w.page = va / 4096 ∧ w.parked = true := by
  refine ⟨_, ?_, State.park_core free⟩
  rw [execWalk, if_neg low.not_ge, State.walkInstall, State.withWalk_held room held]

variable (open_ : s.flipHolds asid va = false) (free : s.ctl.walkFree (dieOf k) = true)
include open_ free

/-- A walk that nothing holds reads the tables. -/
theorem State.withWalk_goes (f : TlbEntry → Nat → State → Trans) : s.withWalk (.core k) asid va f =
    match s.walk asid va with
    | .leaf e ea s1 => f e ea s1
    | .fault cause k s1 => .fault cause k s1
    | .wait s1 => .parked s1 := by
  have ctx : s.ctl.walkFree (Requester.core k).homeDie = true := free
  rw [State.withWalk, room, open_, ctx]
  rfl

theorem execWalk_faults (low : va < 2 ^ 56) {cause kind : Nat} {s1 : State} (found : s.walk asid va = .fault cause kind s1) :
    execWalk k asid va s = .next s1 := by
  rw [execWalk, if_neg low.not_ge, State.walkInstall, State.withWalk_goes room open_ free, found]

variable {e : TlbEntry} {ea : Nat} {s1 : State} (found : s.walk asid va = .leaf e ea s1)
include found

/-- An entry with A set is installed as it is. -/
theorem execWalk_installs (low : va < 2 ^ 56) (accessed : bitN e.attr 10 = true) : Reaches (execWalk k asid va s) fun t =>
    t.mem = s1.mem ∧ t.Holds k asid va e 10 := by
  refine ⟨s1.installTlb (.core k) e va, ?_, rfl, State.installTlb_holds s1 (State.walk_isBlock found) accessed⟩
  rw [execWalk, if_neg low.not_ge, State.walkInstall, State.withWalk_goes room open_ free, found]
  simp only [accessed, if_true]

/-- What a walk leaves that has updated its entry: the new value at the entry's home, and the translation in the core's TLB. -/
abbrev WalkSets (s1 t : State) (k asid va : Nat) (e : TlbEntry) (ea v n : Nat) : Prop :=
  Memory.readLE t.mem ea 8 = v ∧ (∀ a, a < ea ∨ ea + 8 ≤ a → Memory.read t.mem a = Memory.read s1.mem a) ∧ t.Holds k asid va e n

/-- An entry without A gets it by an atomic OR at its home, and is installed with it (R52). -/
theorem execWalk_sets (low : va < 2 ^ 56) {v : Nat} {s2 : State} (fresh : bitN e.attr 10 = false) (wf : Memory.wf s1.mem = true)
    (done : s1.update64 ea (fun v => v ||| 2 ^ 10) = .ok v s2) : v = Memory.readLE s1.mem ea 8 ||| 2 ^ 10
      ∧ Reaches (execWalk k asid va s) fun t => WalkSets s1 t k asid va e ea v 10 := by
  obtain ⟨stored, kept⟩ := State.update64_writes wf done (readLE_or_lt _ _ (by decide))
  have bit : bitN (e.attr + 2 ^ 10) 10 = true := by
    rw [bitN_eq_testBit] at fresh ⊢
    rw [Nat.add_comm, Nat.testBit_two_pow_add_eq, fresh]
    rfl
  refine ⟨(State.update64_ok done).1, s2.installTlb (.core k) { e with attr := e.attr + 2 ^ 10 } va, ?_, stored, kept,
    State.installTlb_holds s2 (State.walk_isBlock found) bit⟩
  rw [execWalk, if_neg low.not_ge, State.walkInstall, State.withWalk_goes room open_ free, found]
  simp only [fresh, Bool.false_eq_true, if_false, done, TableRead.trans]

variable {y : TlbEntry} (held : s.tlbLookup (.core k) asid va = some y) (clean : bitN y.attr 11 = false)
include held clean

theorem execDirtyBitWalk_refused (fixed : bitN e.attr 4 = false) : execDirtyBitWalk k asid va s = .next s1 := by
  rw [execDirtyBitWalk, held]
  simp only [clean, Bool.false_eq_true, if_false, State.dirtyWalk, State.withWalk_goes room open_ free, found, fixed, Bool.not_false, if_true]

theorem execDirtyBitWalk_sets {v : Nat} {s2 : State} (granted : bitN e.attr 4 = true) (wf : Memory.wf s1.mem = true)
    (done : s1.update64 ea (fun v => v ||| (2 ^ 10 + 2 ^ 11)) = .ok v s2) : v = Memory.readLE s1.mem ea 8 ||| (2 ^ 10 + 2 ^ 11)
      ∧ Reaches (execDirtyBitWalk k asid va s) fun t => WalkSets s1 t k asid va e ea v 11 := by
  obtain ⟨stored, kept⟩ := State.update64_writes wf done (readLE_or_lt _ _ (by decide))
  have bit : bitN (e.attr ||| (2 ^ 10 + 2 ^ 11)) 11 = true := by
    rw [bitN_eq_testBit, Nat.testBit_or]
    simp only [show (2 ^ 10 + 2 ^ 11).testBit 11 = true by decide, Bool.or_true]
  refine ⟨(State.update64_ok done).1, s2.installTlb (.core k) { e with attr := e.attr ||| (2 ^ 10 + 2 ^ 11) } va, ?_, stored, kept,
    State.installTlb_holds s2 (State.walk_isBlock found) bit⟩
  rw [execDirtyBitWalk, held]
  simp only [clean, Bool.false_eq_true, if_false, State.dirtyWalk, State.withWalk_goes room open_ free, found, granted, Bool.not_true,
    done, TableRead.trans]

end

end Sys2Proof.Machine
end

-- ==== Sys2Proof/Proofs/FlipStarts.lean ====

section
set_option Elab.async false
namespace Sys2Proof.Machine

open Sys2Proof.Claims

/-! ## The tables that a flip reads (R51, R72) -/

/-- Two states in which every walk of the tables reads the same. -/
structure SameTables (s t : State) : Prop where
  mem : t.mem = s.mem
  atbase : t.ctl.atbase = s.ctl.atbase
  ddrGiB : t.ctl.ddrGiB = s.ctl.ddrGiB
  decoders : t.ctl.decoders = s.ctl.decoders

section
variable {s t : State} (k : SameTables s t)
include k

theorem SameTables.regionOf (pa : Nat) : regionOf t pa = regionOf s pa := by
  unfold Machine.regionOf State.ddrBytes
  rw [k.ddrGiB]

theorem SameTables.tableOk (pa : Nat) : tableOk t pa = tableOk s pa := by
  unfold Machine.tableOk
  rw [k.regionOf]

theorem SameTables.finishEntry (asid e lvl va : Nat) : finishEntry t asid e lvl va = finishEntry s asid e lvl va := by
  have span : ∀ pa size, spanOk t pa size = spanOk s pa size := fun pa size => by
    simp only [spanOk, k.regionOf, k.ddrGiB]
  have decoder : ∀ pa, decoderOk t pa = decoderOk s pa := fun pa => by simp only [decoderOk, k.decoders]
  simp only [Machine.finishEntry, span, decoder, k.regionOf]

theorem SameTables.walkFrom (asid va n table : Nat) : walkFrom t asid va n table = walkFrom s asid va n table := by
  induction n generalizing table with
  | zero => rfl
  | succ n ih => simp only [Machine.walkFrom, k.mem, k.finishEntry, k.tableOk, ih]

theorem SameTables.walkTables (asid va : Nat) : walkTables t asid va = walkTables s asid va := by
  simp only [Machine.walkTables, k.mem, k.atbase, k.tableOk, k.walkFrom]

theorem SameTables.leavesOf (asid base len : Nat) : t.leavesOf asid base len = s.leavesOf asid base len := by
  have leaves : ∀ n va acc, flipLeaves t asid base (base + len) n va acc = flipLeaves s asid base (base + len) n va acc := by
    intro n
    induction n with
    | zero => exact fun _ _ => rfl
    | succ n ih =>
      intro va acc
      simp only [flipLeaves, k.walkTables, k.regionOf, ih]
  exact leaves _ _ _

end

/-! ## Flips that start (R72 to R74, R331) -/

theorem AMap.mem_set_of_ne {α : Type} {m : AMap α} {n : Nat} {v : α} {p : Nat × α} (ne : p.1 ≠ n) (mem : p ∈ m) : p ∈ AMap.set m n v := by
  induction m with
  | nil => cases mem
  | cons c m ih =>
    rw [AMap.set]
    rcases List.mem_cons.1 mem with rfl | mem
    · rw [if_neg ne]
      split
      · exact List.mem_cons_of_mem _ (List.mem_cons_self ..)
      · exact List.mem_cons_self ..
    · split
      · exact List.mem_cons_of_mem _ mem
      · split
        · exact List.mem_cons_of_mem _ (List.mem_cons_of_mem _ mem)
        · exact List.mem_cons_of_mem _ (ih mem)

/-- The state in which a new flip has its place, and has not begun. -/
def State.acceptFlip (s : State) (x : Flip) : State :=
  { s with nextOp := s.nextOp + 1 }.updCtl (fun c => { c with flips := AMap.set c.flips s.nextOp { x with waiting := true } })

theorem State.acceptFlip_alone {s : State} {x : Flip} (alone : s.ctl.flips = []) :
    (s.acceptFlip x).ctl.flips = [(s.nextOp, { x with waiting := true })] := by
  change AMap.set s.ctl.flips s.nextOp _ = _
  rw [alone]
  rfl

/-- A flip that overlaps one in flight waits (R74). -/
theorem State.startFlip_waits {s : State} {x : Flip} {p : Nat × Flip} (mem : p ∈ s.ctl.flips) (older : p.1 < s.nextOp)
    (asid : p.2.asid = x.asid) (hit : meets x.base x.len p.2.base p.2.len = true) : s.startFlip x = s.acceptFlip x :=
  if_pos (List.any_eq_true.2 ⟨p, AMap.mem_set_of_ne older.ne mem, by simp [older, asid, hit]⟩)

/-- With no other flip in flight it begins. -/
theorem State.startFlip_begins {s : State} {x : Flip} (alone : s.ctl.flips = []) :
    s.startFlip x = (s.acceptFlip x).beginFlip s.nextOp x := by
  refine if_neg ?_
  change ¬((s.acceptFlip x).flipOverlaps s.nextOp x) = true
  simp [State.flipOverlaps, State.acceptFlip_alone alone]

/-- A flip ends at its check, changing nothing, or has its leaves and sweeps every TLB (R72, R73). -/
theorem State.beginFlip_cases (s : State) (id : Nat) (x : Flip) :
    (∃ st, s.beginFlip id x = (s.updCtl (fun c => { c with flips := AMap.erase c.flips id })).opDone x.fut x.packet st)
      ∨ ∃ ls, s.leavesOf x.asid x.base x.len = .ok ls ∧ s.beginFlip id x = ((s.sweep false x.asid x.base x.len).updCtl (fun c =>
        { c with flips := AMap.set c.flips id { x with
            waiting := false, leaves := ls, blocks := s.sweptBlocks false x.asid x.base x.len } })).push [.flipComplete id] := by
  unfold State.beginFlip State.flipCheck
  cases found : s.leavesOf x.asid x.base x.len with
  | error st => exact .inl ⟨st, rfl⟩
  | ok ls =>
    dsimp only
    by_cases done : ls.all (fun p => pteO p.1.attr == x.host) = true
    · exact .inl ⟨3, by rw [if_pos done]⟩
    · exact .inr ⟨ls, rfl, by rw [if_neg done]⟩

section
variable {s : State} {g q d a b c : Nat} {h : Holder}

/-- `own` that finds room for its tag: complete at once, a wait for one of the 16 places, or a flip that starts. -/
theorem exec_own (go : Issues (.own d a b c) s g q h) (room : ¬TagsFull h d) :
    exec (.own d a b c) s =
      let i := Instr.own d a b c
      let v := (h.readS c).toNat
      let r := widen (pairOf h a) (pairOf h b)
      if r.2 = 0 then .next (doneAtOnce s g q i h d 0)
      else if 16 ≤ s.ctl.flips.length then .next (s.block g q h .flips)
      else .next (((s.newFuture (.flip s.nextOp)).1.startFlip
        { asid := v % 2 ^ 16, base := r.1, len := r.2, host := bitN v 16, fut := some s.nextFuture }).retire g q i
          (h.tagWith d s.nextFuture)) := by
  change execOwn d a b c s = _
  unfold execOwn
  rw [issue_go go]
  dsimp only
  rw [if_neg (by simpa [TagsFull] using room), Holder.readS64_toNat, Holder.readS64_toNat]
  rfl

variable (go : Issues (.own d a b c) s g q h) (room : ¬TagsFull h d)
include go room

theorem exec_own_empty (first : h.replaying = none) (low : d < 61) (empty : (widen (pairOf h a) (pairOf h b)).2 = 0) :
    Reaches (exec (.own d a b c) s) fun t => t.mem = s.mem
      ∧ (∃ h', t.holder? g q = some h' ∧ TaggedWith h' h d s.nextFuture ∧ h'.pc = (h.pc + 8) % 2 ^ 64)
      ∧ Event.futureComplete s.nextFuture 0 ∈ t.agenda :=
  ⟨_, (exec_own go room).trans (if_pos empty), doneAtOnce_done s g q _ first low 0⟩

variable (some_ : (widen (pairOf h a) (pairOf h b)).2 ≠ 0)
include some_

theorem exec_own_blocks (full : 16 ≤ s.ctl.flips.length) :
    exec (.own d a b c) s = .next (s.putHolder g q { h with status := .blocked .flips }) :=
  (exec_own go room).trans ((if_neg some_).trans (if_pos full))

variable (first : h.replaying = none) (low : d < 61)
include first low

theorem exec_own_waits (few : s.ctl.flips.length < 16) (overlaps : ∀ p ∈ s.ctl.flips, p.1 < s.nextOp
      ∧ p.2.asid = (h.readS c).toNat % 2 ^ 16
      ∧ meets (widen (pairOf h a) (pairOf h b)).1 (widen (pairOf h a) (pairOf h b)).2 p.2.base p.2.len = true)
    (others : s.ctl.flips ≠ []) :
    let v := (h.readS c).toNat
    let r := widen (pairOf h a) (pairOf h b)
    Reaches (exec (.own d a b c) s) fun t => t.mem = s.mem
      ∧ (∃ h', t.holder? g q = some h' ∧ TaggedWith h' h d s.nextFuture ∧ h'.pc = (h.pc + 8) % 2 ^ 64)
      ∧ AMap.find? t.ctl.flips s.nextOp = some { asid := v % 2 ^ 16, base := r.1, len := r.2, host := bitN v 16
                                                 fut := some s.nextFuture, waiting := true } := by
  intro v r
  have ends := (exec_own go room).trans ((if_neg some_).trans (if_neg few.not_ge))
  obtain ⟨p, mem⟩ := List.exists_mem_of_ne_nil _ others
  obtain ⟨older, asid, hit⟩ := overlaps p mem
  rw [State.startFlip_waits (s := (s.newFuture (.flip s.nextOp)).1) mem older asid hit] at ends
  exact ⟨_, ends, rfl, State.retire_tagWith _ g q _ s.nextFuture first low, AMap.find?_set_self s.ctl.flips ..⟩

theorem exec_own_begins (alone : s.ctl.flips = []) :
    let v := (h.readS c).toNat
    let r := widen (pairOf h a) (pairOf h b)
    Reaches (exec (.own d a b c) s) fun t => t.mem = s.mem
      ∧ (∃ h', t.holder? g q = some h' ∧ TaggedWith h' h d s.nextFuture ∧ h'.pc = (h.pc + 8) % 2 ^ 64)
      ∧ ((∃ st, t.ctl.flips = [] ∧ Event.futureComplete s.nextFuture st ∈ t.agenda)
        ∨ ∃ ls, s.leavesOf (v % 2 ^ 16) r.1 r.2 = .ok ls
          ∧ t.ctl.flips = [(s.nextOp, { asid := v % 2 ^ 16, base := r.1, len := r.2, host := bitN v 16
                                        fut := some s.nextFuture, waiting := false, leaves := ls
                                        blocks := s.sweptBlocks false (v % 2 ^ 16) r.1 r.2 })]
          ∧ Event.flipComplete s.nextOp ∈ t.agenda
          ∧ ∀ k, ∀ e ∈ t.tlbsAt k, ¬(e.asid = v % 2 ^ 16 ∧ r.1 < e.va + e.size ∧ e.va < r.1 + r.2)) := by
  intro v r
  have ends := (exec_own go room).trans ((if_neg some_).trans (if_neg (by rw [alone]; decide)))
  generalize named : ({ asid := v % 2 ^ 16, base := r.1, len := r.2, host := bitN v 16, fut := some s.nextFuture } : Flip) = x at ends
  have fut : x.fut = some s.nextFuture := by subst named; rfl
  have packet : x.packet = none := by subst named; rfl
  rw [State.startFlip_begins (s := (s.newFuture (.flip s.nextOp)).1) alone] at ends
  generalize accepted : (s.newFuture (.flip s.nextOp)).1.acceptFlip x = s1 at ends
  have tables : SameTables s s1 := by subst accepted; exact ⟨rfl, rfl, rfl, rfl⟩
  have flips : s1.ctl.flips = [(s.nextOp, { x with waiting := true })] := by
    subst accepted
    exact State.acceptFlip_alone (s := (s.newFuture (.flip s.nextOp)).1) alone
  have blocks : ∀ all asid base len, s1.sweptBlocks all asid base len = s.sweptBlocks all asid base len := by
    subst accepted; exact fun _ _ _ _ => rfl
  have op : (s.newFuture (.flip s.nextOp)).1.nextOp = s.nextOp := rfl
  rw [op] at ends
  clear accepted op
  rcases s1.beginFlip_cases s.nextOp x with ⟨st, done⟩ | ⟨ls, leaves, begun⟩
  · rw [done, fut, packet] at ends
    refine ⟨_, ends, tables.mem, State.retire_tagWith _ g q _ s.nextFuture first low, .inl ⟨st, ?_,
      List.mem_append_right _ (List.mem_singleton_self _)⟩⟩
    change AMap.erase s1.ctl.flips s.nextOp = []
    rw [flips, AMap.erase, if_pos rfl]
  · rw [begun] at ends
    rw [tables.leavesOf] at leaves
    refine ⟨_, ends, tables.mem, State.retire_tagWith _ g q _ s.nextFuture first low, .inr ⟨ls, ?_, ?_,
      List.mem_append_right _ (List.mem_singleton_self _), fun k e mem hit => ?_⟩⟩
    · subst named; exact leaves
    · refine Eq.trans (b := AMap.set s1.ctl.flips s.nextOp _) rfl ?_
      rw [flips, AMap.set, if_pos rfl, blocks]
      subst named
      rfl
    · rw [State.tlbsAt_retire] at mem
      subst named
      exact s1.swept false (v % 2 ^ 16) r.1 r.2 k e mem ⟨.inr hit.1, hit.2⟩

end

end Sys2Proof.Machine
end

-- ==== Sys2Proof/Proofs/FlipEnds.lean ====

section
set_option Elab.async false
namespace Sys2Proof.Machine

open Sys2Proof.Claims

/-! ## The end of a flip (R73, R74) -/

/-- O bits rewritten at their homes leave the control die but its filter and reports. -/
theorem rewriteO_ctl {host : Bool} {eas : List Nat} {s s1 : State} (done : rewriteO host eas s = some s1) : s1.ctl.still = s.ctl.still := by
  induction eas generalizing s with
  | nil => cases done; rfl
  | cons ea eas ih =>
    rw [rewriteO] at done
    split at done
    next e => exact (ih done).trans (State.update64_ok e).2.2
    next e => exact (ih done).trans (State.update64_poison e)
    next => cases done

/-- One entry rewritten: its O bit, and nothing else of memory (R73 step 4). -/
theorem rewriteO_one {s s1 : State} {ea v : Nat} {host : Bool} (wf : Memory.wf s.mem = true)
    (done : s.update64 ea (fun v => setField v 9 1 (if host then 1 else 0)) = .ok v s1) :
    rewriteO host [ea] s = some s1 ∧ Memory.readLE s1.mem ea 8 = v
      ∧ v = setField (Memory.readLE s.mem ea 8) 9 1 (if host then 1 else 0)
      ∧ ∀ a, a < ea ∨ ea + 8 ≤ a → Memory.read s1.mem a = Memory.read s.mem a := by
  have small : setField (Memory.readLE s.mem ea 8) 9 1 (if host then 1 else 0) < 2 ^ 64 := by
    have old := Memory.readLE_lt s.mem ea 8
    unfold setField field
    omega
  obtain ⟨stored, kept⟩ := State.update64_writes wf done small
  exact ⟨by rw [rewriteO, done]; rfl, stored, (State.update64_ok done).1, kept⟩

/-- The bias table after frames have taken an owner. -/
def biasAfter (host : Bool) (frames bias : List Nat) : List Nat :=
  if host then bias ++ frames.filter (fun f => !bias.contains f) else bias.filter (fun f => !frames.contains f)

theorem mem_biasAfter {host : Bool} {frames bias : List Nat} {fr : Nat} (mem : fr ∈ frames) : fr ∈ biasAfter host frames bias ↔ host = true := by
  cases host with
  | false => simp [biasAfter, mem]
  | true => simpa [biasAfter, mem] using Classical.em _

/-- The switch of the bias bits is that of the bias table, and what the homes keep with lines in N (R94). -/
theorem State.switchBias_frame (s : State) (host : Bool) (frames : List Nat) :
    CohFrame (s.updCtl (fun c => { c with bias := biasAfter host frames c.bias })) (s.switchBias host frames) := by
  refine CohFrame.foldl ⟨rfl, rfl, fun _ => rfl, fun _ => rfl⟩ fun s l k => ?_
  have moved : CohFrame _ (s.updDie (s.lineDie l.1) (fun d => { d with dir := AMap.erase d.dir l.1 })) := k.updDie rfl
  exact moved.setDir.setInterval

/-- Frames of the entries of a flip. -/
def flipFrames (ls : List (TlbEntry × Nat)) : List Nat :=
  ls.flatMap (fun p => (List.range (p.1.size / 4096)).map (fun k => p.1.pa / 4096 + k))

theorem mem_flipFrames {ls : List (TlbEntry × Nat)} {p : TlbEntry × Nat} {fr : Nat} (mem : p ∈ ls) (lo : p.1.pa / 4096 ≤ fr)
    (hi : fr < p.1.pa / 4096 + p.1.size / 4096) : fr ∈ flipFrames ls :=
  List.mem_flatMap.2 ⟨p, mem, List.mem_map.2 ⟨fr - p.1.pa / 4096, List.mem_range.2 (by omega), by omega⟩⟩

theorem mem_linesOfLeaves {ls : List (TlbEntry × Nat)} {p : TlbEntry × Nat} {l : Nat} (mem : p ∈ ls) (lo : p.1.pa / 128 ≤ l)
    (hi : l < (p.1.pa + p.1.size) / 128) : l ∈ linesOfLeaves ls :=
  List.mem_flatMap.2 ⟨_, List.mem_map.2 ⟨p, mem, rfl⟩, List.mem_map.2 ⟨l - p.1.pa / 128, List.mem_range.2 (by omega), by omega⟩⟩

/-- Whether a page of an address space lies in a flip's range. -/
def Flip.names (x : Flip) (asid page : Nat) : Bool := asid == x.asid && meets x.base x.len (page * 4096) 4096

/-- The cores no longer count the misses that have ended. -/
def State.dropMisses (s : State) (gone : Nat → Nat → Bool) : State :=
  { s with cores := s.cores.map (fun c => (c.1, { c.2 with misses := c.2.misses.filter (fun m => !gone m.1 m.2) })) }

/-- Once the entries are rewritten, the owners are switched, the flip's place is free, and its walks go on. -/
theorem State.switchOwner_eq {s s1 : State} (id : Nat) {x : Flip}
    (done : rewriteO x.host ((x.leaves.flatMap (fun p => entryCopies p.1 p.2)).eraseDups) s = some s1) : s.switchOwner id x =
      ((((s1.switchBias x.host (flipFrames x.leaves)).updCtl (fun c => { c with flips := AMap.erase c.flips id })).endWalks
        (fun w => x.names w.asid w.page)).dropMisses x.names).opDone x.fut x.packet 0 := by
  rw [State.switchOwner]
  dsimp only
  rw [done]
  rfl

/-- What a flip has switched and released: owners, its own place, and its future (R73 steps 4 and 5). -/
theorem State.switchOwner_done {s s1 : State} {id f : Nat} {x : Flip} (fut : x.fut = some f) (packet : x.packet = none)
    (sorted : AMap.sorted s.ctl.flips = true)
    (done : rewriteO x.host ((x.leaves.flatMap (fun p => entryCopies p.1 p.2)).eraseDups) s = some s1) :
    let t := s.switchOwner id x
    t.mem = s1.mem ∧ AMap.find? t.ctl.flips id = none ∧ t.ctl.heldHost = s.ctl.heldHost
      ∧ t.ctl.bias = biasAfter x.host (flipFrames x.leaves) s1.ctl.bias ∧ Event.futureComplete f 0 ∈ t.agenda := by
  have same := State.switchOwner_eq id done
  rw [fut, packet] at same
  have switched := s1.switchBias_frame x.host (flipFrames x.leaves)
  have rest := rewriteO_ctl done
  generalize s1.switchBias x.host (flipFrames x.leaves) = s2 at same switched
  obtain ⟨w, q, ends⟩ := (s2.updCtl (fun c => { c with flips := AMap.erase c.flips id })).endWalks_eq (fun w => x.names w.asid w.page)
  have flips : s2.ctl.flips = s.ctl.flips := (congrArg Control.flips switched.ctl :).trans (congrArg Control.flips rest :)
  have held : s2.ctl.heldHost = s.ctl.heldHost := (congrArg Control.heldHost switched.ctl :).trans (congrArg Control.heldHost rest :)
  have gone : AMap.find? (AMap.erase s2.ctl.flips id) id = none := by rw [flips]; exact AMap.find?_erase_self sorted
  rw [same, ends]
  exact ⟨switched.mem, gone, held, (congrArg Control.bias switched.ctl :), List.mem_append_right _ (List.mem_singleton_self _)⟩

theorem State.outbox_foldl_send {α : Type} (m : α → OutMsg) (xs : List α) (s : State) :
    (xs.foldl (fun s x => s.send (m x)) s).outbox = s.outbox ++ xs.map m := by
  induction xs generalizing s with
  | nil => exact (List.append_nil _).symm
  | cons x xs ih => rw [List.foldl_cons, ih, State.send_outbox, List.append_assoc, List.map_cons, List.singleton_append]

section
variable {s : State} {id f : Nat} {x : Flip} (entry : AMap.find? s.ctl.flips id = some x)
include entry

theorem execFlipComplete_overlapped (waits : x.waiting = true) (over_ : s.flipOverlaps id x = true) : execFlipComplete id s = .next s := by
  rw [execFlipComplete, entry]
  dsimp only
  rw [if_pos waits, if_pos over_]

variable (begun : x.waiting = false)
include begun

theorem execFlipComplete_drains (busy : s.rangeBusy false x.asid x.base x.len x.blocks = true) : execFlipComplete id s = .next s := by
  rw [execFlipComplete, entry]
  dsimp only
  rw [if_neg (by simp [begun]), if_pos busy]

variable (free : s.rangeBusy false x.asid x.base x.len x.blocks = false) (unknown : ∀ p ∈ frameLines x.leaves, s.knownLines p.1 p.2 = [])
include free unknown

/-- A flip to the device asks the host for its copies, once nothing above memory knows the frames (R73 step 3). -/
theorem execFlipComplete_asks (device : x.host = false) (unasked : x.snoops = none) : Reaches (execFlipComplete id s) fun t =>
    t.mem = s.mem ∧ ∀ p ∈ x.leaves, ∀ l, p.1.pa / 128 ≤ l → l < (p.1.pa + p.1.size) / 128 → OutMsg.hostSnoop l ∈ t.outbox := by
  have known : (frameLines x.leaves).flatMap (fun r => s.knownLines r.1 r.2) = [] := List.flatMap_eq_nil_iff.2 unknown
  refine ⟨(linesOfLeaves x.leaves).foldl (fun s l => s.send (.hostSnoop l))
    (s.updCtl (fun c => { c with flips := AMap.set c.flips id { x with snoops := some (linesOfLeaves x.leaves) } })), ?_, ?_, ?_⟩
  · rw [execFlipComplete, entry]
    dsimp only
    rw [if_neg (by simp [begun]), if_neg (by simp [free]), known, device, unasked]
    rfl
  · exact (CohFrame.foldl (CohFrame.refl _) fun _ _ k => k.send).mem
  · intro p mem l lo hi
    rw [State.outbox_foldl_send]
    exact List.mem_append_right _ (List.mem_map.2 ⟨l, mem_linesOfLeaves mem lo hi, rfl⟩)

theorem execFlipComplete_switches {s1 : State} (fut : x.fut = some f) (packet : x.packet = none) (sorted : AMap.sorted s.ctl.flips = true)
    (ready : x.host = true ∨ x.snoops = some []) (idle : s.ctl.heldHost = [])
    (done : rewriteO x.host ((x.leaves.flatMap (fun p => entryCopies p.1 p.2)).eraseDups) s = some s1) :
    Reaches (execFlipComplete id s) fun t => AMap.find? t.ctl.flips id = none ∧ Event.futureComplete f 0 ∈ t.agenda ∧ t.mem = s1.mem
      ∧ ∀ p ∈ x.leaves, ∀ fr, p.1.pa / 4096 ≤ fr → fr < p.1.pa / 4096 + p.1.size / 4096 → (fr ∈ t.ctl.bias ↔ x.host = true) := by
  have known : (frameLines x.leaves).flatMap (fun r => s.knownLines r.1 r.2) = [] := List.flatMap_eq_nil_iff.2 unknown
  obtain ⟨mem, gone, held, bias, told⟩ := State.switchOwner_done (id := id) fut packet sorted done
  generalize switched : s.switchOwner id x = u at *
  have served : serveHeld u = u.updCtl (fun c => { c with heldHost := [] }) := by rw [serveHeld, held, idle]; rfl
  have left : AMap.has u.ctl.flips id = false := by rw [AMap.has, gone]; rfl
  refine ⟨(serveHeld u).push (((serveHeld u).ctl.flips.filter (fun p => p.2.waiting)).map (fun p => Event.flipComplete p.1)), ?_, ?_⟩
  · rw [execFlipComplete, entry]
    dsimp only
    rw [if_neg (by simp [begun]), if_neg (by simp [free]), known]
    refine (if_neg (by simp)).trans ?_
    dsimp only [List.foldl_nil]
    split
    next device unasked => simp [device, unasked] at ready
    next device asked => simp [device, asked] at ready
    next => simp only [switched, left, Bool.false_eq_true, if_false]
  · rw [served]
    refine ⟨gone, List.mem_append_left _ told, mem, fun p on fr lo hi => ?_⟩
    change fr ∈ u.ctl.bias ↔ _
    rw [bias]
    exact mem_biasAfter (mem_flipFrames on lo hi)

end

/-- Settles O47: each row of invalidations, walks and flips, by the lemmas above. -/
theorem invalidationsAndFlips : Obligations.InvalidationsAndFlips := by
  unfold Obligations.InvalidationsAndFlips
  intro s g q h d a b c first low v r
  refine ⟨fun i which go room empty => ?_, fun i which go room some_ => ?_,
    fun go room some_ few => exec_tlbinv_starts go room some_ first low few,
    fun go room some_ few overlaps others => exec_own_waits go room some_ first low few overlaps others,
    fun go room some_ alone => exec_own_begins go room some_ first low alone,
    fun id x f entry fut packet sorted => ⟨execInvalidationComplete_waits entry,
      execInvalidationComplete_ends entry fut packet sorted, execInvalWalkRestart_ends entry⟩,
    fun k asid va small room => ⟨execWalk_held room small,
      fun cause kind s1 open_ free found => execWalk_faults room open_ free small found,
      fun e ea s1 open_ free found => ⟨execWalk_installs room open_ free found small,
        fun v s2 => execWalk_sets room open_ free found small,
        fun y held clean => ⟨execDirtyBitWalk_refused room open_ free found held clean,
          fun v s2 => execDirtyBitWalk_sets room open_ free found held clean⟩⟩⟩,
    fun id x f entry fut packet sorted => ⟨execFlipComplete_overlapped entry, execFlipComplete_drains entry,
      fun begun free unknown => ⟨execFlipComplete_asks entry begun free unknown,
        fun s1 => execFlipComplete_switches entry begun free unknown fut packet sorted⟩⟩,
    fun ea host s1 v => rewriteO_one⟩
  · rcases which with rfl | rfl
    · exact exec_tlbinv_empty go room first low empty
    · exact exec_own_empty go room first low empty
  · rcases which with ⟨rfl, full⟩ | ⟨rfl, full⟩
    · exact (exec_tlbinv_waits go room some_ full).trans (by rw [if_pos rfl])
    · exact (exec_own_blocks go room some_ full).trans (by rw [if_neg (by simp)])

end Sys2Proof.Machine
end

-- ==== Sys2Proof/Proofs/CoherenceSteps.lean ====

section
set_option Elab.async false
namespace Sys2Proof.Machine

open Sys2Proof.Claims

/-! ## The steps of homes, L1s and the snoop filter move no data (04 R88 to R100, LOG 5) -/

section
variable {s0 s : State}

theorem CohFrame.waitHome {line own ev} (k : CohFrame s0 s) : CohFrame s0 (s.waitHome line own ev) := by
  unfold State.waitHome
  split
  · exact k.queueBehind
  · exact k

theorem CohFrame.announce {line} (k : CohFrame s0 s) : CohFrame s0 (s.announce line) := by
  unfold State.announce
  split
  · exact k
  · exact k.push

theorem CohFrame.homeRequest {req a line ev} (k : CohFrame s0 s) : CohFrame s0 (homeRequest req a line ev s) := by
  have taken : CohFrame s0 (s.homeTake req a line).state := k.homeTake
  unfold Machine.homeRequest
  split
  next e => exact (taken.of_state e).announce
  next e => exact (taken.of_state e).waitHome
  all_goals
    next e => exact taken.of_state e

theorem CohFrame.evictionNotice {dirty a line} (k : CohFrame s0 s) : CohFrame s0 (evictionNotice dirty a line s) := by
  unfold Machine.evictionNotice
  split
  · exact k
  · dsimp only
    split
    · exact k.queueBehind.ite ((k.updCore rfl).ite k.takeNotice)
    · exact k.evictL1.ite k
    · exact k

theorem CohFrame.receiveMsg {line m} (k : CohFrame s0 s) : CohFrame s0 (receiveMsg line m s) := by
  have came : CohFrame s0 (s.takeMsg line m).state := k.takeMsg
  unfold Machine.receiveMsg
  split
  next e => exact (came.of_state e).announce.ite (came.of_state e)
  all_goals
    next e => exact came.of_state e

theorem CohFrame.freeFilter {line} (k : CohFrame s0 s) : CohFrame s0 (s.freeFilter line) := k.closeRecord.updCtl rfl

theorem CohFrame.shareLine {line} (k : CohFrame s0 s) : CohFrame s0 (s.shareLine line) := by
  unfold State.shareLine
  extract_lets e
  split
  · exact k
  next a g _ =>
    extract_lets s1
    have asked : CohFrame s0 s1 := CohFrame.homeSends (k.foldl fun _ _ => CohFrame.recallOne)
    have came : CohFrame s0 (s1.forwarded a line (s1.clockOf (homeUnit s1 line)) true none).state := asked.forwarded
    split
    all_goals
      next e =>
        have told := came.of_state e
        exact told.ite (CohFrame.setDir (told.updCore (by split <;> rfl)))

theorem CohFrame.answerSnoop {kind line} (k : CohFrame s0 s) : CohFrame s0 (answerSnoop kind line s) := by
  unfold Machine.answerSnoop
  extract_lets none_
  split
  · exact k.send
  · refine k.send.ite ?_
    extract_lets m data
    split
    · exact k.recallOut.send.ite k.recallOut.memAccept.freeFilter.send
    · exact k.shareLine.send.ite (CohFrame.send (k.shareLine.memAccept.updCtl rfl))
    · exact k.send

/-! ### Each step, from the state it starts in -/

/-- A step that goes on, and stays inside the frame. -/
def StepInFrame (s : State) (o : Out) : Prop := Reaches o (CohFrame s)

theorem StepInFrame.next {t : State} (k : CohFrame s t) : StepInFrame s (.next t) := ⟨t, rfl, k⟩

theorem StepInFrame.skip : StepInFrame s (.next s) := .next (.refl s)

theorem StepInFrame.ite {c : Prop} [Decidable c] {o o' : Out} (k : StepInFrame s o) (k' : StepInFrame s o') :
    StepInFrame s (if c then o else o') := by
  split <;> assumption

theorem StepInFrame.dataKept {o : Out} (k : StepInFrame s o) : Reaches o (DataKept s) :=
  let ⟨t, e, kept⟩ := k
  ⟨t, e, kept.dataKept⟩

theorem execRds_inFrame (a : Agent) (line : Nat) (s : State) : StepInFrame s (execRds a line s) :=
  .ite (.next (CohFrame.refl s).homeRequest) .skip

theorem execRdx_inFrame (a : Agent) (line : Nat) (s : State) : StepInFrame s (execRdx a line s) :=
  .ite (.next (CohFrame.refl s).homeRequest) .skip

theorem execUpg_inFrame (a : Agent) (line : Nat) (s : State) : StepInFrame s (execUpg a line s) :=
  .ite (.next (CohFrame.refl s).homeRequest) .skip

theorem execEngineRead_inFrame (a : Agent) (line : Nat) (s : State) : StepInFrame s (execEngineRead a line s) := by
  unfold execEngineRead
  split
  · exact .next (CohFrame.refl s).homeRequest
  · exact .next (CohFrame.refl s).homeRequest
  · exact .next (CohFrame.refl s).homeRequest
  · exact .skip

theorem execForwardReceipt_inFrame (a : Agent) (line : Nat) (s : State) : StepInFrame s (execForwardReceipt a line s) := by
  unfold execForwardReceipt
  split
  · exact .skip
  · exact .next (CohFrame.refl s).receiveMsg

theorem execGrantReceipt_inFrame (a : Agent) (line : Nat) (s : State) : StepInFrame s (execGrantReceipt a line s) := by
  unfold execGrantReceipt
  split
  · exact .skip
  · split
    · exact .ite (.next (CohFrame.refl s).receiveMsg) .skip
    · exact .skip

theorem homeWork_inFrame {f : State → State} (kept : CohFrame s (f s)) (line : Nat) (ev : Event) :
    StepInFrame s (s.homeWork line ev f) :=
  .ite (.next (CohFrame.refl s).queueBehind) (.ite .skip (.next kept))

theorem execRecall_inFrame (line : Nat) (s : State) : StepInFrame s (execRecall line s) :=
  homeWork_inFrame (CohFrame.refl s).recallOut.hostLeft ..

theorem execDirectoryEviction_inFrame (line : Nat) (s : State) : StepInFrame s (execDirectoryEviction line s) :=
  .ite .skip (homeWork_inFrame (CohFrame.refl s).recallOut ..)

theorem execFilterEviction_inFrame (line : Nat) (s : State) : StepInFrame s (execFilterEviction line s) :=
  .ite (homeWork_inFrame (CohFrame.refl s).recallOut.evictToHost ..) .skip

theorem execMemoryControllerAcceptance_inFrame (line : Nat) (write : Bool) (s : State) :
    StepInFrame s (execMemoryControllerAcceptance line write s) := by
  have fetched : CohFrame s (s.memFetch line).state := (CohFrame.refl s).memFetch
  refine .ite .skip (.ite (.ite .skip (.next (CohFrame.refl s).memAccept)) ?_)
  split
  all_goals
    next e => exact .next (fetched.of_state e)

theorem execSnoop_inFrame (kind line : Nat) (s : State) : StepInFrame s (execSnoop kind line s) :=
  .ite (.next (CohFrame.refl s).queueBehind) (.next (CohFrame.refl s).answerSnoop)

/-- Every step of a home, an L1 or the filter for one line moves no data. -/
theorem exec_coherence_dataKept (s : State) (line : Nat) (a : Agent) (w : Bool) (kind : Nat) (e : Instr)
    (step : e ∈ [Instr.rds a line, .rdx a line, .upg a line, .wbd a line, .evc a line, .engineRead a line, .recall line,
        .forwardReceipt a line, .grantReceipt a line, .directoryEviction line, .filterEviction line,
        .memoryControllerAcceptance line w, if kind = 0 then .snpInv line else if kind = 1 then .snpData line else .snpCur line]) :
    Reaches (exec e s) (DataKept s) := by
  refine StepInFrame.dataKept ?_
  simp only [List.mem_cons, List.mem_nil_iff, or_false] at step
  rcases step with rfl | rfl | rfl | rfl | rfl | rfl | rfl | rfl | rfl | rfl | rfl | rfl | rfl
  · exact execRds_inFrame a line s
  · exact execRdx_inFrame a line s
  · exact execUpg_inFrame a line s
  · exact .next (CohFrame.refl s).evictionNotice
  · exact .next (CohFrame.refl s).evictionNotice
  · exact execEngineRead_inFrame a line s
  · exact execRecall_inFrame line s
  · exact execForwardReceipt_inFrame a line s
  · exact execGrantReceipt_inFrame a line s
  · exact execDirectoryEviction_inFrame line s
  · exact execFilterEviction_inFrame line s
  · exact execMemoryControllerAcceptance_inFrame line w s
  · split
    · exact execSnoop_inFrame 0 line s
    · split
      · exact execSnoop_inFrame 1 line s
      · exact execSnoop_inFrame 2 line s

end
end Sys2Proof.Machine
end

-- ==== Sys2Proof/Proofs/LineViews.lean ====

section
set_option Elab.async false
namespace Sys2Proof.Machine

open Sys2Proof.Claims

/-! ## Canonical form under a change of one key -/

section
variable {α : Type} {m : AMap α} {n k : Nat} {v : α}

theorem AMap.sorted_cons_iff : AMap.sorted ((k, v) :: m) = true ↔ (∀ p ∈ m.head?, k < p.1) ∧ AMap.sorted m = true := by
  cases m <;> simp [AMap.sorted]

theorem AMap.lt_head_set_iff (lt : k < n) : (∀ p ∈ (AMap.set m n v).head?, k < p.1) ↔ ∀ p ∈ m.head?, k < p.1 := by
  cases m with
  | nil => simpa [AMap.set] using lt
  | cons p m =>
    rw [AMap.set]
    split
    next e => simp [e]
    next =>
      split
      next before => simpa [lt] using lt.trans before
      next => simp

/-- A key set anew leaves a table as well or as badly sorted as it was. -/
theorem AMap.sorted_set (m : AMap α) (n : Nat) (v : α) : AMap.sorted (AMap.set m n v) = AMap.sorted m := by
  induction m with
  | nil => rfl
  | cons p m ih =>
    rw [AMap.set]
    split
    next e => rw [Bool.eq_iff_iff, AMap.sorted_cons_iff, AMap.sorted_cons_iff, e]
    next ne =>
      split
      next before => simp [AMap.sorted, before]
      next => rw [Bool.eq_iff_iff, AMap.sorted_cons_iff, AMap.sorted_cons_iff, AMap.lt_head_set_iff (by omega), ih]

theorem AMap.sorted_erase (sorted : AMap.sorted m = true) : AMap.sorted (AMap.erase m n) = true := by
  induction m with
  | nil => rfl
  | cons p m ih =>
    obtain ⟨lt, tail⟩ := AMap.sorted_cons_iff.1 sorted
    rw [AMap.erase]
    split
    · exact tail
    · split
      · exact sorted
      · refine AMap.sorted_cons_iff.2 ⟨fun q head => ?_, ih tail⟩
        cases m with
        | nil => cases head
        | cons r m =>
          have next : p.1 < r.1 := lt r rfl
          rw [AMap.erase] at head
          split at head
          next =>
            obtain ⟨after, -⟩ := AMap.sorted_cons_iff.1 tail
            exact next.trans (after q head)
          next => split at head <;> cases head <;> exact next

/-- A key that is not listed is not taken out. -/
theorem AMap.erase_of_find?_none (out : AMap.find? m n = none) : AMap.erase m n = m := by
  induction m with
  | nil => rfl
  | cons p m ih =>
    rw [AMap.find?] at out
    split at out
    next => cases out
    next ne =>
      rw [AMap.erase, if_neg ne]
      split at out
      next lt => rw [if_pos lt]
      next ge => rw [if_neg ge, ih out]

end

/-! ## What coherence reads of one line

A home decides from the line's directory entry, its interval number, its messages and its digest, an L1 from the entry of its own
tables. Everything below says of a step what it does to these. -/

/-- One line at its home, and in the L1 of one core. `tidy`: the home's list of busy lines is in canonical form; `armed`: dies
whose injector is armed (R488). -/
structure LineView where
  home : Option Nat
  host : Bool
  digest : Nat
  dir : DirEntry
  num : Nat
  busy : Option Busy
  tidy : Bool
  msc : Bool
  armed : Nat → Bool
  l1 : AMap L1Line
  wbuf : AMap L1Line
  banks : Nat

/-- The line, and core k's copy of it. -/
def State.view (s : State) (k line : Nat) : LineView where
  home := homeDie s (line * 128)
  host := isHostLine s line
  digest := s.digestOf line
  dir := s.dirOf line
  num := s.intervalOf line
  busy := s.busyOf line
  tidy := AMap.sorted (s.die (s.lineDie line)).busy
  msc := AMap.has (s.die (s.lineDie line)).msc line
  armed := fun d => bitN (s.die d).eictl 31
  l1 := (s.core k).l1
  wbuf := (s.core k).wbuf
  banks := (s.core k).l1Banks

/-- A die's share in the views of its lines. -/
def Die.lines (d : Die) : AMap DirEntry × AMap Busy × AMap Bool × Bool := (d.dir, d.busy, d.msc, bitN d.eictl 31)

/-- A core's share. -/
def Core.lines (c : Core) : AMap L1Line × AMap L1Line × Nat := (c.l1, c.wbuf, c.l1Banks)

section
variable {s t : State} {k line : Nat}

/-! ### A line stays where it is -/

theorem CohFrame.homeDie (f : CohFrame s t) (pa : Nat) : homeDie t pa = homeDie s pa := by
  unfold Machine.homeDie
  rw [f.regionOf]

theorem CohFrame.lineDie (f : CohFrame s t) (line : Nat) : t.lineDie line = s.lineDie line := by
  unfold State.lineDie
  rw [f.homeDie]

theorem CohFrame.isHostLine (f : CohFrame s t) (line : Nat) : isHostLine t line = isHostLine s line := by
  have bias : t.ctl.bias = s.ctl.bias := (congrArg Control.bias f.ctl :)
  unfold Machine.isHostLine
  rw [f.regionOf, bias]

theorem CohFrame.digestOf (f : CohFrame s t) (line : Nat) : t.digestOf line = s.digestOf line := by
  unfold State.digestOf
  rw [f.regionOf, f.window, f.mem]

/-! ### Equal views -/

theorem State.view_congr (f : CohFrame s t) (filter : t.ctl.filter = s.ctl.filter) (intervals : t.intervals = s.intervals)
    (die : ∀ d, (t.die d).lines = (s.die d).lines) (core : (t.core k).lines = (s.core k).lines) : t.view k line = s.view k line := by
  have dir d : (t.die d).dir = (s.die d).dir := congrArg Prod.fst (die d)
  have busy d : (t.die d).busy = (s.die d).busy := congrArg (·.2.1) (die d)
  have msc d : (t.die d).msc = (s.die d).msc := congrArg (·.2.2.1) (die d)
  have armed d : bitN (t.die d).eictl 31 = bitN (s.die d).eictl 31 := congrArg (·.2.2.2) (die d)
  have l1 : (t.core k).l1 = (s.core k).l1 := congrArg Prod.fst core
  have wbuf : (t.core k).wbuf = (s.core k).wbuf := congrArg (·.2.1) core
  have banks : (t.core k).l1Banks = (s.core k).l1Banks := congrArg (·.2.2) core
  simp only [State.view, State.dirOf, State.intervalOf, State.busyOf, f.homeDie, f.isHostLine, f.lineDie, f.digestOf, filter, intervals,
    dir, busy, msc, armed, l1, wbuf, banks]

theorem State.view_updDie {d : Nat} {f : Die → Die} (still : (f (s.die d)).still = (s.die d).still)
    (same : (f (s.die d)).lines = (s.die d).lines) : (s.updDie d f).view k line = s.view k line := by
  refine State.view_congr ((CohFrame.refl s).updDie still) rfl rfl (fun j => ?_) rfl
  by_cases e : j = d
  · rw [e, State.updDie_die_self, same]
  · rw [State.updDie_die_ne _ _ _ _ e]

theorem State.view_updCore {g : Nat} {f : Core → Core} (still : (f (s.core g)).still = (s.core g).still)
    (same : (f (s.core g)).lines = (s.core g).lines) : (s.updCore g f).view k line = s.view k line := by
  refine State.view_congr ((CohFrame.refl s).updCore still) rfl rfl (fun _ => rfl) ?_
  by_cases e : k = g
  · rw [e, State.updCore_core_self, same]
  · rw [State.updCore_core_ne _ _ _ _ e]

theorem State.view_updCtl {f : Control → Control} (still : (f s.ctl).still = s.ctl.still) (same : (f s.ctl).filter = s.ctl.filter) :
    (s.updCtl f).view k line = s.view k line :=
  State.view_congr ((CohFrame.refl s).updCtl still) same rfl (fun _ => rfl) rfl

theorem State.view_ite {c : Prop} [Decidable c] {v : LineView} (yes : s.view k line = v) (no : t.view k line = v) :
    (if c then s else t).view k line = v := by
  by_cases h : c
  · rw [if_pos h, yes]
  · rw [if_neg h, no]

/-! ### Clocks, records of L1s and running sums change no view (R143 to R156) -/

@[simp] theorem State.view_updChecker {die type index : Nat} {f : Checker → Checker} :
    (s.updChecker die type index f).view k line = s.view k line := State.view_updDie rfl rfl

@[simp] theorem State.view_setClock {u : Clocked} {n : Nat} : (s.setClock u n).view k line = s.view k line := by
  cases u with
  | core g => exact State.view_updCore rfl rfl
  | checker d type index => exact State.view_updChecker
  | cxl p => exact State.view_updCtl (f := fun c => { c with cxlClocks := AMap.set c.cxlClocks p n }) rfl rfl
  | fabric p => exact State.view_updCtl (f := fun c => { c with links := AMap.upd c.links p {} (fun l => { l with clock := n }) }) rfl rfl

@[simp] theorem State.view_tick {u : Clocked} : (s.tick u).view k line = s.view k line := State.view_setClock

@[simp] theorem State.view_hears {u : Clocked} {n : Nat} : (s.hears u n).view k line = s.view k line := State.view_setClock

@[simp] theorem State.view_perform {u : Clocked} {n : Nat} : (s.perform u n).1.view k line = s.view k line := State.view_setClock

@[simp] theorem State.view_carry {a b : Clocked} : (s.carry a b).view k line = s.view k line :=
  State.view_ite rfl (State.view_hears.trans State.view_tick)

@[simp] theorem State.view_closeL1 {g x : Nat} {l : L1Line} {a : Agent} : (s.closeL1 g x l a).view k line = s.view k line :=
  State.view_ite rfl State.view_updChecker

@[simp] theorem State.view_homeSends {g x type digest : Nat} : (s.homeSends g x type digest).view k line = s.view k line := by
  simp [State.homeSends]

@[simp] theorem State.view_l1Hears {g x type digest stamp : Nat} :
    (s.l1Hears g x type digest stamp).view k line = s.view k line :=
  State.view_ite ((State.view_updDie rfl rfl).trans State.view_hears) (State.view_updChecker.trans State.view_hears)

@[simp] theorem State.view_l1Sends {g x type interval digest : Nat} :
    (s.l1Sends g x type interval digest).view k line = s.view k line := by
  simp [State.l1Sends]

@[simp] theorem State.view_homeHears {g x type interval digest : Nat} :
    (s.homeHears g x type interval digest).view k line = s.view k line := by
  simp [State.homeHears]

/-! ### Changes at the home -/

@[simp] theorem State.setDir_core (s : State) (line k : Nat) (e : DirEntry) : (s.setDir line e).core k = s.core k := by
  unfold State.setDir
  split <;> rfl

theorem State.setDir_die (s : State) (line d : Nat) (e : DirEntry) : ∃ m, (s.setDir line e).die d = { s.die d with dir := m } := by
  unfold State.setDir
  split
  · exact ⟨_, rfl⟩
  · by_cases at_ : d = s.lineDie line
    · exact ⟨_, by rw [at_, State.updDie_die_self]⟩
    · exact ⟨_, by rw [State.updDie_die_ne _ _ _ _ at_]⟩

@[simp] theorem State.dirOf_setDir_self (s : State) (line : Nat) (e : DirEntry) : (s.setDir line e).dirOf line = e := by
  have f : CohFrame s (s.setDir line e) := (CohFrame.refl s).setDir
  unfold State.dirOf
  rw [f.isHostLine, f.lineDie]
  unfold State.setDir
  split
  next host => simp [AMap.upd]
  next device => simp

theorem State.intervalOf_setDir (s : State) (line : Nat) (e : DirEntry) : (s.setDir line e).intervalOf line = s.intervalOf line := by
  have f : CohFrame s (s.setDir line e) := (CohFrame.refl s).setDir
  unfold State.intervalOf
  rw [f.isHostLine]
  unfold State.setDir
  split
  next host =>
    simp only [State.updCtl_ctl, AMap.upd, AMap.find?_set_self, AMap.getD, Option.map_some, Option.getD_some]
    cases AMap.find? s.ctl.filter line <;> rfl
  next device => rfl

theorem State.view_setDir (s : State) (k line : Nat) (e : DirEntry) :
    (s.setDir line e).view k line = { s.view k line with dir := e } := by
  have f : CohFrame s (s.setDir line e) := (CohFrame.refl s).setDir
  have busy d : ((s.setDir line e).die d).busy = (s.die d).busy := by obtain ⟨m, at_⟩ := s.setDir_die line d e; rw [at_]
  have msc d : ((s.setDir line e).die d).msc = (s.die d).msc := by obtain ⟨m, at_⟩ := s.setDir_die line d e; rw [at_]
  have armed d : ((s.setDir line e).die d).eictl = (s.die d).eictl := by obtain ⟨m, at_⟩ := s.setDir_die line d e; rw [at_]
  simp only [State.view, f.homeDie, f.isHostLine, f.digestOf, State.dirOf_setDir_self, State.intervalOf_setDir, State.busyOf, f.lineDie,
    busy, msc, armed, State.setDir_core]

@[simp] theorem State.setInterval_core (s : State) (line n k : Nat) : (s.setInterval line n).core k = s.core k := by
  unfold State.setInterval
  split <;> rfl

@[simp] theorem State.setInterval_die (s : State) (line n d : Nat) : (s.setInterval line n).die d = s.die d := by
  unfold State.setInterval
  split <;> rfl

theorem State.dirOf_setInterval (s : State) (line n : Nat) : (s.setInterval line n).dirOf line = s.dirOf line := by
  have f : CohFrame s (s.setInterval line n) := (CohFrame.refl s).setInterval
  unfold State.dirOf
  rw [f.isHostLine, f.lineDie, State.setInterval_die]
  unfold State.setInterval
  split
  next host =>
    simp only [State.updCtl_ctl, AMap.upd, AMap.find?_set_self, AMap.getD, Option.map_some, Option.getD_some]
    cases AMap.find? s.ctl.filter line <;> rfl
  next device => rfl

theorem State.intervalOf_setInterval (s : State) (line n : Nat) : (s.setInterval line n).intervalOf line = n % 2 ^ 32 := by
  have f : CohFrame s (s.setInterval line n) := (CohFrame.refl s).setInterval
  unfold State.intervalOf
  rw [f.isHostLine]
  unfold State.setInterval
  split
  next host => simp [AMap.upd]
  next device => simp

theorem State.view_setInterval (s : State) (k line n : Nat) :
    (s.setInterval line n).view k line = { s.view k line with num := n % 2 ^ 32 } := by
  have f : CohFrame s (s.setInterval line n) := (CohFrame.refl s).setInterval
  simp only [State.view, f.homeDie, f.isHostLine, f.digestOf, State.dirOf_setInterval, State.intervalOf_setInterval, State.busyOf, f.lineDie,
    State.setInterval_die, State.setInterval_core]

/-- A change of the home's list of busy lines. -/
theorem State.view_updBusy (s : State) (k line : Nat) (f : AMap Busy → AMap Busy) :
    (s.updDie (s.lineDie line) fun d => { d with busy := f d.busy }).view k line
      = { s.view k line with
          busy := AMap.find? (f (s.die (s.lineDie line)).busy) line, tidy := AMap.sorted (f (s.die (s.lineDie line)).busy) } := by
  have c : CohFrame s (s.updDie (s.lineDie line) fun d => { d with busy := f d.busy }) := (CohFrame.refl s).updDie rfl
  generalize changed : (s.updDie (s.lineDie line) fun d => { d with busy := f d.busy }) = t at c
  have at_ d : ∃ m, t.die d = { s.die d with busy := m } := by
    rw [← changed]
    by_cases home : d = s.lineDie line
    · exact ⟨_, by rw [home, State.updDie_die_self]⟩
    · exact ⟨_, by rw [State.updDie_die_ne _ _ _ _ home]⟩
  have dir d : (t.die d).dir = (s.die d).dir := by obtain ⟨m, e⟩ := at_ d; rw [e]
  have msc d : (t.die d).msc = (s.die d).msc := by obtain ⟨m, e⟩ := at_ d; rw [e]
  have armed d : (t.die d).eictl = (s.die d).eictl := by obtain ⟨m, e⟩ := at_ d; rw [e]
  have busy : (t.die (s.lineDie line)).busy = f (s.die (s.lineDie line)).busy := by rw [← changed, State.updDie_die_self]
  have rest : t.ctl = s.ctl ∧ t.intervals = s.intervals ∧ t.core k = s.core k := by rw [← changed]; exact ⟨rfl, rfl, rfl⟩
  simp only [State.view, c.homeDie, c.isHostLine, c.digestOf, State.dirOf, State.intervalOf, State.busyOf, c.lineDie, busy, dir, msc,
    armed, rest]

theorem State.view_setBusy (s : State) (k line : Nat) (b : Busy) :
    (s.setBusy line b).view k line = { s.view k line with busy := some b } := by
  refine (State.view_updBusy s k line fun m => AMap.set m line b).trans ?_
  rw [AMap.find?_set_self, AMap.sorted_set]
  rfl

/-- The end of a busy period, where the list is in canonical form. -/
theorem State.view_endBusy {s : State} {line : Nat} {b : Busy} (busy : s.busyOf line = some b)
    (tidy : AMap.sorted (s.die (s.lineDie line)).busy = true) (k : Nat) :
    (s.endBusy line).view k line = { s.view k line with busy := none } ∧ (s.endBusy line).agenda = b.queue ++ s.agenda := by
  unfold State.endBusy
  rw [busy]
  refine ⟨(State.view_updBusy s k line fun m => AMap.erase m line).trans ?_, rfl⟩
  rw [AMap.find?_erase_self tidy, AMap.sorted_erase tidy, ← tidy]
  rfl

end
end Sys2Proof.Machine
end

-- ==== Sys2Proof/Proofs/HomeRequests.lean ====

section
set_option Elab.async false
namespace Sys2Proof.Machine

open Sys2Proof.Claims

section
variable {s t : State} {k line : Nat} {a : Agent} {b : Busy}

/-! ## Records and intervals (R93, R153) -/

/-- An entry that names the holders of another, in the same state: only the record may differ. -/
def DirEntry.SameHolders (e e' : DirEntry) : Prop := e'.st = e.st ∧ e'.owner = e.owner ∧ e'.sharers = e.sharers

theorem State.view_closeRecord (s : State) (k line kind : Nat) :
    (s.closeRecord line kind).view k line = { s.view k line with dir := { s.dirOf line with open_ := false } } := by
  unfold State.closeRecord
  extract_lets e
  cases h : e.open_
  · have same : { e with open_ := false } = e := by rw [← h]
    exact congrArg (fun d => { s.view k line with dir := d }) same.symm
  · exact (State.view_setDir ..).trans (by rw [State.view_updChecker])

theorem State.view_openRecord (s : State) (k line kind holder : Nat) (seen : List Agent) :
    ∃ e, (s.openRecord line kind holder seen).view k line = { s.view k line with dir := e } ∧ e.open_ = true
      ∧ (s.dirOf line).SameHolders e :=
  ⟨_, State.view_setDir .., rfl, rfl, rfl, rfl⟩

/-- An advance counts the number up and opens a record; the holders stay. -/
theorem State.view_advance (s : State) (k line kind holder : Nat) (seen : List Agent) :
    ∃ e, (s.advance line kind holder seen).view k line
        = { s.view k line with dir := e, num := (s.intervalOf line + 1) % 2 ^ 32 }
      ∧ e.open_ = true ∧ (s.dirOf line).SameHolders e := by
  unfold State.advance
  extract_lets s1
  have closed : s1.view k line = { s.view k line with dir := { s.dirOf line with open_ := false } } := State.view_closeRecord ..
  have number : s1.intervalOf line = s.intervalOf line := (congrArg LineView.num closed :)
  have entry : s1.dirOf line = { s.dirOf line with open_ := false } := (congrArg LineView.dir closed :)
  obtain ⟨e, opened, open_, same⟩ := State.view_openRecord (s1.setInterval line (s1.intervalOf line + 1)) k line kind holder seen
  refine ⟨e, ?_, open_, ?_⟩
  · rw [opened, State.view_setInterval, closed, number]
  · rw [State.dirOf_setInterval, entry] at same
    exact same

/-! ## Grants (R90, R93) -/

/-- A grant of E or M opens a writer interval, and the requester has the line to itself. -/
theorem State.view_openGrant_writes (s : State) (k line : Nat) (a : Agent) {st : L1State} (writes : st ≠ .s) :
    ∃ e, (s.openGrant line a st).view k line = { s.view k line with dir := e, num := (s.intervalOf line + 1) % 2 ^ 32 }
      ∧ e.st = .x ∧ e.owner = some a ∧ e.sharers = [] := by
  obtain ⟨e, advanced, -⟩ := State.view_advance s k line 0 (agentId a) []
  have granted : s.openGrant line a st = (s.advance line 0 (agentId a) []).setDir line
      { (s.advance line 0 (agentId a) []).dirOf line with st := .x, owner := some a, sharers := [] } := by
    cases st with
    | s => exact absurd rfl writes
    | _ => rfl
  refine ⟨{ (s.advance line 0 (agentId a) []).dirOf line with st := .x, owner := some a, sharers := [] }, ?_, rfl, rfl, rfl⟩
  rw [granted, State.view_setDir, advanced]

/-- A grant of S adds a sharer. -/
theorem State.view_openGrant_shares (s : State) (k line : Nat) (a : Agent) :
    ∃ e, (s.openGrant line a .s).view k line = { s.view k line with dir := e }
      ∧ e.st = (if (s.dirOf line).st = .i then .s else (s.dirOf line).st) ∧ e.owner = (s.dirOf line).owner
      ∧ a ∈ e.sharers ∧ ∀ x ∈ (s.dirOf line).sharers, x ∈ e.sharers := by
  unfold State.openGrant
  extract_lets s1 e add
  have recorded : ∃ d, s1.view k line = { s.view k line with dir := d } ∧ (s.dirOf line).SameHolders d := by
    by_cases open_ : (s.dirOf line).open_ = true
    · exact ⟨s.dirOf line, by rw [show s1 = s from if_pos open_]; rfl, rfl, rfl, rfl⟩
    · obtain ⟨d, opened, -, same⟩ := State.view_openRecord s k line 1 (agentId a) []
      exact ⟨d, by rw [show s1 = _ from if_neg open_, opened], same⟩
  obtain ⟨d, opened, st, owner, sharers⟩ := recorded
  have entry : e = d := (congrArg LineView.dir opened :)
  refine ⟨_, by rw [State.view_setDir, opened], by rw [entry, st], by rw [entry]; exact owner, ?_, fun x mem => ?_⟩
  · dsimp only [add]
    split
    · simp_all
    · simp
  · dsimp only [add]
    rw [entry, sharers]
    split
    · exact mem
    · exact List.mem_append_left _ mem

theorem State.grantCheck_shares (st : (s.dirOf line).st ≠ .x) : s.grantCheck line a .s = none := by
  simp [State.grantCheck, st]

theorem State.grantCheck_writes {st : L1State} (writes : st ≠ .s) (alone : ∀ x ∈ (s.dirOf line).holders, x = a) :
    s.grantCheck line a st = none := by
  have none_ : (s.dirOf line).holders.filter (· != a) = [] := by simpa using alone
  cases st with
  | s => exact absurd rfl writes
  | _ => simp [State.grantCheck, none_]

/-! ## Messages of a busy line (R88, R90) -/

/-- A message that the home sends notes its stamp, and nothing else that a view shows. -/
theorem State.view_sendMsg (busy : s.busyOf line = some b) (k : Nat) (m : Msg) :
    ∃ ss, (s.sendMsg line m).view k line = { s.view k line with busy := some { b with stamps := ss } } := by
  unfold State.sendMsg
  rw [busy]
  split
  next g b' at_ some_ =>
    cases some_
    extract_lets s1
    have sent : s1.view k line = s.view k line := by
      dsimp only [s1]
      split <;> exact State.view_homeSends
    exact ⟨_, by rw [State.view_setBusy, sent]⟩
  next => exact ⟨b.stamps, by rw [← busy]; rfl⟩

theorem State.view_sendMsgs (busy : s.busyOf line = some b) (k : Nat) (ms : List Msg) :
    ∃ ss, (ms.foldl (fun s m => s.sendMsg line m) s).view k line = { s.view k line with busy := some { b with stamps := ss } } := by
  induction ms generalizing s b with
  | nil => exact ⟨b.stamps, by rw [← busy]; rfl⟩
  | cons m ms ih =>
    obtain ⟨ss, sent⟩ := State.view_sendMsg busy k m
    obtain ⟨ss', rest⟩ := ih (congrArg LineView.busy sent :)
    exact ⟨ss', by rw [List.foldl_cons, rest, sent]⟩

/-- No grant goes out while an acknowledgement is missing. -/
theorem State.sendGrant_waits (busy : s.busyOf line = some b) (more : ∀ a st data, b.msgs ≠ [.grant a st data]) :
    s.sendGrant line = s := by
  unfold State.sendGrant
  rw [busy]
  dsimp only
  split
  next a st data only => exact absurd only (more a st data)
  next => rfl

section
variable {st : L1State} {data : Bool} (busy : s.busyOf line = some b) (last : b.msgs = [.grant a st data])
  (unsent : ∀ p ∈ b.stamps, p.1 ≠ a)
include busy last unsent

theorem State.sendGrant_goes (sound : s.grantCheck line a st = none) :
    s.sendGrant line = (s.openGrant line a st).sendMsg line (.grant a st data) := by
  have new : (b.stamps.any fun p => p.1 == a) = false := by simpa using unsent
  unfold State.sendGrant
  rw [busy]
  dsimp only
  rw [last]
  dsimp only
  rw [new, sound]
  rfl

/-- The last acknowledgement brings a grant of E or M. -/
theorem State.view_sendGrant_writes (k : Nat) (writes : st ≠ .s) (alone : ∀ x ∈ (s.dirOf line).holders, x = a) :
    ∃ e ss, (s.sendGrant line).view k line
        = { s.view k line with dir := e, num := (s.intervalOf line + 1) % 2 ^ 32, busy := some { b with stamps := ss } }
      ∧ e.st = .x ∧ e.owner = some a ∧ e.sharers = [] := by
  obtain ⟨e, opened, is⟩ := State.view_openGrant_writes s k line a writes
  have busy' : (s.openGrant line a st).busyOf line = some b := (congrArg LineView.busy opened : _).trans busy
  obtain ⟨ss, sent⟩ := State.view_sendMsg busy' k (.grant a st data)
  exact ⟨e, ss, by rw [State.sendGrant_goes busy last unsent (State.grantCheck_writes writes alone), sent, opened], is⟩

/-- The last acknowledgement brings a grant of S. -/
theorem State.view_sendGrant_shares (k : Nat) (shares : st = .s) (open_ : (s.dirOf line).st ≠ .x) :
    ∃ e ss, (s.sendGrant line).view k line = { s.view k line with dir := e, busy := some { b with stamps := ss } }
      ∧ e.st = (if (s.dirOf line).st = .i then .s else (s.dirOf line).st) ∧ e.owner = (s.dirOf line).owner
      ∧ a ∈ e.sharers ∧ ∀ x ∈ (s.dirOf line).sharers, x ∈ e.sharers := by
  subst shares
  obtain ⟨e, opened, is⟩ := State.view_openGrant_shares s k line a
  have busy' : (s.openGrant line a .s).busyOf line = some b := (congrArg LineView.busy opened : _).trans busy
  obtain ⟨ss, sent⟩ := State.view_sendMsg busy' k (.grant a .s data)
  exact ⟨e, ss, by rw [State.sendGrant_goes busy last unsent (State.grantCheck_shares open_), sent, opened], is⟩

end

/-! ## A home that is ready takes a request (R88, R90) -/

theorem State.unlessN_of_sound (sound : (s.dirOf line).st ≠ .n) : s.unlessN line = .ok s := by
  simp [State.unlessN, State.stuck, sound]

theorem State.sound_of_homePoison (clean : s.homePoison line = none) : (s.dirOf line).st ≠ .n := by
  intro stuck
  unfold State.homePoison at clean
  extract_lets online at clean
  split at clean
  · cases clean
  · rw [if_pos (.inl stuck)] at clean
    cases clean

theorem State.busyLine_eq_false (idle : s.busyOf line = none) : s.busyLine line = false := by
  unfold State.busyOf at idle
  simp [State.busyLine, AMap.has, idle]

theorem State.hostHas_of_device (device : isHostLine s line = false) (own : Bool) : s.hostHas line own = true := by
  simp [State.hostHas, device]

/-- A memory-side copy that is present is not read again. -/
theorem State.memFetch_of_copy {d : Nat} (home : homeDie s (line * 128) = some d) (copy : AMap.has (s.die d).msc line = true) :
    s.memFetch line = .ok s := by
  simp [State.memFetch, home, copy]

/-- The messages of a request go out, the grant at once where nothing is to be acknowledged. -/
def State.issueMsgs (s : State) (line : Nat) (ms : List Msg) : State :=
  ((ms.filter (fun m => !m.isGrant)).foldl (fun s m => s.sendMsg line m) (s.setBusy line { msgs := ms })).sendGrant line

/-- The request that a home serves: an Upg from an L1 that is not recorded is an RdX (R90). -/
def Req.served (req : Req) (e : DirEntry) (a : Agent) : Req := if req = .upg ∧ !(e.holders.contains a) then .rdx else req

section
variable (ready : LineReady s line) {req : Req} {ms : List Msg} (asks : homeMsgs (s.dirOf line) (req.served (s.dirOf line) a) a false = ms)
include ready asks

theorem State.homeTake_ready (some_ : ms ≠ []) :
    ∃ s3 : State, (∀ k, s3.view k line = s.view k line) ∧ s.homeTake req a line = (s3.issueMsgs line ms).unlessN line := by
  obtain ⟨home, idle, clean, awake, device, room, copy⟩ := ready
  have shared : s.hostShared line = false := by simp [State.hostShared, device]
  unfold State.homeTake
  rw [State.busyLine_eq_false idle, clean]
  dsimp only
  rw [awake, State.hostHas_of_device device, room, ite_self, if_neg Bool.false_ne_true, if_neg (by simp)]
  dsimp only
  rw [State.memFetch_of_copy home copy, ite_self]
  dsimp only [Coh.andThen]
  rw [Req.served] at asks
  rw [shared, asks, if_neg (by simpa using some_)]
  refine ⟨_, fun k => ?_, rfl⟩
  cases agentUnit a line with
  | none => rfl
  | some u => exact State.view_carry

end

/-- The event by which a message arrives. -/
def Msg.event (line : Nat) (m : Msg) : Event := if m.isGrant then .grantReceipt m.target line else .forwardReceipt m.target line

theorem msgEvents_eq_map (line : Nat) (ms : List Msg) : msgEvents line ms = ms.map (Msg.event line) := by
  refine List.map_congr_left fun m _ => ?_
  cases m <;> rfl

/-- What is on its way of a busy line's messages: the grant last. -/
theorem State.mem_agenda_announce (busy : s.busyOf line = some b) {m : Msg} (mem : m ∈ b.msgs)
    (turn : m.isGrant = false ∨ ∀ x ∈ b.msgs, x.isGrant = true) : m.event line ∈ (s.announce line).agenda := by
  unfold State.announce
  rw [busy]
  dsimp only
  rw [msgEvents_eq_map]
  refine List.mem_append_right _ (List.mem_map_of_mem (List.mem_filter.2 ⟨mem, ?_⟩))
  rcases turn with not_ | all
  · simp [not_]
  · simp [List.all_eq_true.2 all]

theorem State.view_announce (s : State) (k line : Nat) : (s.announce line).view k line = s.view k line := by
  unfold State.announce
  split <;> rfl

theorem homeRequest_of_taken {s1 : State} {req : Req} (ev : Event) (taken : s.homeTake req a line = s1.unlessN line)
    (sound : (s1.dirOf line).st ≠ .n) :
    homeRequest req a line ev s = s1.announce line := by
  rw [homeRequest, taken, State.unlessN_of_sound sound]

section
variable (ready : LineReady s line) {req : Req}
include ready

/-- A request that needs an acknowledgement leaves the entry as it is; its messages are on their way. -/
theorem homeRequest_asks {ms : List Msg} (asks : homeMsgs (s.dirOf line) (req.served (s.dirOf line) a) a false = ms) {m : Msg}
    (mem : m ∈ ms) (ack : m.isGrant = false) (ev : Event) (k : Nat) :
    ∃ ss, (homeRequest req a line ev s).view k line = { s.view k line with busy := some { msgs := ms, stamps := ss } }
      ∧ ∀ m ∈ ms, m.isGrant = false → m.event line ∈ (homeRequest req a line ev s).agenda := by
  obtain ⟨s3, same, taken⟩ := State.homeTake_ready ready asks (List.ne_nil_of_mem mem)
  have more : ∀ x st data, ms ≠ [.grant x st data] := by
    rintro x st data rfl
    cases List.mem_singleton.1 mem
    cases ack
  obtain ⟨ss, sent⟩ := State.view_sendMsgs (congrArg LineView.busy (State.view_setBusy s3 k line { msgs := ms }) :) k
    (ms.filter fun m => !m.isGrant)
  generalize out : (ms.filter fun m => !m.isGrant).foldl (fun s m => s.sendMsg line m) (s3.setBusy line { msgs := ms }) = s4 at sent
  rw [State.view_setBusy, same] at sent
  have busy : s4.busyOf line = some { msgs := ms, stamps := ss } := (congrArg LineView.busy sent :)
  have issued : s3.issueMsgs line ms = s4 := by rw [State.issueMsgs, out, State.sendGrant_waits busy more]
  have sound : (s4.dirOf line).st ≠ .n := by
    rw [show s4.dirOf line = s.dirOf line from (congrArg LineView.dir sent :)]
    exact State.sound_of_homePoison ready.2.2.1
  rw [homeRequest_of_taken ev (issued ▸ taken) sound]
  exact ⟨ss, (State.view_announce ..).trans sent, fun m mem ack => State.mem_agenda_announce busy mem (.inl ack)⟩

section
variable {st : L1State} {data : Bool} (asks : homeMsgs (s.dirOf line) (req.served (s.dirOf line) a) a false = [.grant a st data])
include asks

theorem homeRequest_grants (ev : Event) : ∃ s4 : State,
      (∀ k, s4.view k line = { s.view k line with busy := some { msgs := [.grant a st data] } })
      ∧ (((s4.sendGrant line).dirOf line).st ≠ .n → homeRequest req a line ev s = (s4.sendGrant line).announce line) := by
  obtain ⟨s3, same, taken⟩ := State.homeTake_ready ready asks (List.cons_ne_nil _ _)
  exact ⟨s3.setBusy line { msgs := [.grant a st data] }, fun k => by rw [State.view_setBusy, same],
    homeRequest_of_taken ev taken⟩

/-- A request that the home grants at once for writing, or as the only copy. -/
theorem homeRequest_writes (writes : st ≠ .s) (alone : ∀ x ∈ (s.dirOf line).holders, x = a) (ev : Event) (k : Nat) :
    ∃ e ss, (homeRequest req a line ev s).view k line = { s.view k line with
        dir := e, num := (s.intervalOf line + 1) % 2 ^ 32, busy := some { msgs := [.grant a st data], stamps := ss } }
      ∧ e.st = .x ∧ e.owner = some a ∧ e.sharers = [] ∧ Event.grantReceipt a line ∈ (homeRequest req a line ev s).agenda := by
  obtain ⟨s4, came, done⟩ := homeRequest_grants ready asks ev
  have entry : s4.dirOf line = s.dirOf line := (congrArg LineView.dir (came k) :)
  have number : s4.intervalOf line = s.intervalOf line := (congrArg LineView.num (came k) :)
  obtain ⟨e, ss, granted, x, owner, none_⟩ := State.view_sendGrant_writes (congrArg LineView.busy (came k) :) rfl (by simp) k writes
    (by rwa [entry])
  have sound : ((s4.sendGrant line).dirOf line).st ≠ .n := by
    rw [show (s4.sendGrant line).dirOf line = e from (congrArg LineView.dir granted :), x]
    decide
  rw [done sound]
  refine ⟨e, ss, ?_, x, owner, none_, ?_⟩
  · rw [State.view_announce, granted, came, number]
  · exact State.mem_agenda_announce (m := .grant a st data) (congrArg LineView.busy granted :) (List.mem_singleton.2 rfl)
      (.inr (by simp [Msg.isGrant]))

/-- A request that the home grants at once for reading. -/
theorem homeRequest_shares (shares : st = .s) (open_ : (s.dirOf line).st ≠ .x) (ev : Event) (k : Nat) :
    ∃ e ss, (homeRequest req a line ev s).view k line = { s.view k line with
        dir := e, busy := some { msgs := [.grant a st data], stamps := ss } }
      ∧ e.st = (if (s.dirOf line).st = .i then .s else (s.dirOf line).st) ∧ a ∈ e.sharers ∧ ∀ x ∈ (s.dirOf line).sharers, x ∈ e.sharers := by
  obtain ⟨s4, came, done⟩ := homeRequest_grants ready asks ev
  have entry : s4.dirOf line = s.dirOf line := (congrArg LineView.dir (came k) :)
  obtain ⟨e, ss, granted, is, -, added, kept⟩ := State.view_sendGrant_shares (congrArg LineView.busy (came k) :) rfl (by simp) k shares
    (by rwa [entry])
  rw [entry] at is kept
  have sound : ((s4.sendGrant line).dirOf line).st ≠ .n := by
    rw [show (s4.sendGrant line).dirOf line = e from (congrArg LineView.dir granted :), is]
    split
    · decide
    · exact State.sound_of_homePoison ready.2.2.1
  rw [done sound]
  exact ⟨e, ss, by rw [State.view_announce, granted, came], is, added, kept⟩

end
end

/-! ## The requests, as steps (R88, R90, R92) -/

theorem ownedBy_of {e : DirEntry} (dir : t.dirOf line = e) (num : t.intervalOf line = (s.intervalOf line + 1) % 2 ^ 32) (x : e.st = .x)
    (owner : e.owner = some a) : OwnedBy s t line a :=
  ⟨dir ▸ x, dir ▸ owner, num⟩

theorem msgsOf_of_busy (busy : t.busyOf line = some b) : msgsOf t line = some b.msgs := congrArg (Option.map fun b : Busy => b.msgs) busy

/-- A request to a busy line waits behind it. -/
theorem homeRequest_waits (busy : s.busyOf line = some b) (req : Req) (a : Agent) (ev : Event) :
    (homeRequest req a line ev s).busyOf line = some { b with queue := b.queue ++ [ev] } := by
  have busyLine : s.busyLine line = true := by
    unfold State.busyOf at busy
    simp [State.busyLine, AMap.has, busy]
  have waits : homeRequest req a line ev s = s.queueBehind line ev := by
    simp [homeRequest, State.homeTake, busyLine, State.waitHome, State.heldUpBy]
  rw [waits, State.queueBehind, busy]
  exact (congrArg LineView.busy (State.view_setBusy s 0 line { b with queue := b.queue ++ [ev] }) :)

/-- The messages of a line stay at the home that a step in the frame finds (R25). -/
theorem StepInFrame.busy_at_home {o : Out} {x : Option Busy} {p : State → Prop} (frame : StepInFrame s o)
    (reaches : Reaches o fun t => t.busyOf line = x ∧ p t) :
    Reaches o fun t => AMap.find? (t.die (homeOf s line)).busy line = x ∧ p t := by
  obtain ⟨t, step, busy, is⟩ := reaches
  obtain ⟨t', step', kept⟩ := frame
  cases step.symm.trans step'
  refine ⟨t, step, ?_, is⟩
  rw [State.busyOf, kept.lineDie] at busy
  exact busy

section
variable (exists_ : s.l1Exists a = true) (absent : s.l1Line a line = none)
include exists_ absent

theorem exec_rds : exec (.rds a line) s = .next (homeRequest .rds a line (.rds a line) s) := if_pos (by simp [exists_, absent])

theorem exec_rdx : exec (.rdx a line) s = .next (homeRequest .rdx a line (.rdx a line) s) := if_pos (by simp [exists_, absent])

theorem exec_upg_absent : exec (.upg a line) s = .next (homeRequest .upg a line (.upg a line) s) := if_pos (by simp [exists_, absent])

/-- RdX, and an Upg from an L1 that is not recorded, reach the home as an RdX (R90). -/
theorem exec_ownership {i : Instr} (asks : i = .rdx a line ∨ i = .upg a line ∧ a ∉ (s.dirOf line).holders) :
    ∃ req ev, exec i s = .next (homeRequest req a line ev s) ∧ req.served (s.dirOf line) a = .rdx := by
  rcases asks with rfl | ⟨rfl, unrecorded⟩
  · exact ⟨.rdx, _, exec_rdx exists_ absent, by simp [Req.served]⟩
  · exact ⟨.upg, _, exec_upg_absent exists_ absent, by simp [Req.served, unrecorded]⟩

theorem exec_rds_waits (busy : s.busyOf line = some b) : Reaches (exec (.rds a line) s) fun t =>
    AMap.find? (t.die (homeOf s line)).busy line = some { b with queue := b.queue ++ [.rds a line] } := by
  obtain ⟨t, step, waits, -⟩ := (execRds_inFrame a line s).busy_at_home (p := fun _ => True)
    ⟨_, exec_rds exists_ absent, homeRequest_waits busy .rds a (.rds a line), trivial⟩
  exact ⟨t, step, waits⟩

theorem exec_rdx_waits (busy : s.busyOf line = some b) : Reaches (exec (.rdx a line) s) fun t =>
    AMap.find? (t.die (homeOf s line)).busy line = some { b with queue := b.queue ++ [.rdx a line] } := by
  obtain ⟨t, step, waits, -⟩ := (execRdx_inFrame a line s).busy_at_home (p := fun _ => True)
    ⟨_, exec_rdx exists_ absent, homeRequest_waits busy .rdx a (.rdx a line), trivial⟩
  exact ⟨t, step, waits⟩

variable (ready : LineReady s line)
include ready

theorem exec_rds_idle (st : (s.dirOf line).st = .i) (none_ : (s.dirOf line).holders = []) :
    Reaches (exec (.rds a line) s) fun t => OwnedBy s t line a ∧ msgsOf t line = some [.grant a .e true]
      ∧ Event.grantReceipt a line ∈ t.agenda := by
  have asks : homeMsgs (s.dirOf line) (Req.rds.served (s.dirOf line) a) a false = [.grant a .e true] := by
    simp [Req.served, homeMsgs, st]
  obtain ⟨e, ss, view, x, owner, -, event⟩ := homeRequest_writes ready asks (by decide) (by simp [none_]) (.rds a line) 0
  exact ⟨_, exec_rds exists_ absent, ownedBy_of (congrArg LineView.dir view :) (congrArg LineView.num view :) x owner,
    msgsOf_of_busy (congrArg LineView.busy view :), event⟩

theorem exec_rds_shared (st : (s.dirOf line).st = .s) :
    Reaches (exec (.rds a line) s) fun t => (t.dirOf line).st = .s ∧ a ∈ (t.dirOf line).sharers
      ∧ (∀ x ∈ (s.dirOf line).sharers, x ∈ (t.dirOf line).sharers) ∧ msgsOf t line = some [.grant a .s true] := by
  have asks : homeMsgs (s.dirOf line) (Req.rds.served (s.dirOf line) a) a false = [.grant a .s true] := by
    simp [Req.served, homeMsgs, st]
  obtain ⟨e, ss, view, is, added, kept⟩ := homeRequest_shares ready asks rfl (by simp [st]) (.rds a line) 0
  have entry : (homeRequest .rds a line (.rds a line) s).dirOf line = e := (congrArg LineView.dir view :)
  refine ⟨_, exec_rds exists_ absent, ?_, ?_, ?_, msgsOf_of_busy (congrArg LineView.busy view :)⟩
  · rw [entry, is, st]; rfl
  · rwa [entry]
  · rwa [entry]

theorem exec_rds_owned {o : Agent} (st : (s.dirOf line).st = .x ∨ (s.dirOf line).st = .o) (owner : (s.dirOf line).owner = some o) :
    Reaches (exec (.rds a line) s) fun t => msgsOf t line = some [.fwdS o, .grant a .s false] ∧ t.dirOf line = s.dirOf line
      ∧ Event.forwardReceipt o line ∈ t.agenda := by
  have asks : homeMsgs (s.dirOf line) (Req.rds.served (s.dirOf line) a) a false = [.fwdS o, .grant a .s false] := by
    rcases st with st | st <;> simp [Req.served, homeMsgs, st, owner]
  have first : Msg.fwdS o ∈ [Msg.fwdS o, .grant a .s false] := List.mem_cons_self
  obtain ⟨ss, view, events⟩ := homeRequest_asks ready asks first rfl (.rds a line) 0
  exact ⟨_, exec_rds exists_ absent, msgsOf_of_busy (congrArg LineView.busy view :), (congrArg LineView.dir view :),
    events _ first rfl⟩

theorem exec_rdx_unowned {i : Instr} (which : i = .rdx a line ∨ i = .upg a line ∧ a ∉ (s.dirOf line).holders)
    (st : (s.dirOf line).st = .i ∨ (s.dirOf line).st = .s) (owner : (s.dirOf line).owner = none)
    (idle : (s.dirOf line).st = .i → (s.dirOf line).sharers = []) :
    Reaches (exec i s) fun t => msgsOf t line = some ((s.dirOf line).sharers.map Msg.inv ++ [.grant a .m true])
      ∧ ((s.dirOf line).sharers = [] → OwnedBy s t line a ∧ (t.dirOf line).sharers = [])
      ∧ ((s.dirOf line).sharers ≠ [] → t.dirOf line = s.dirOf line
        ∧ ∀ x ∈ (s.dirOf line).sharers, Event.forwardReceipt x line ∈ t.agenda) := by
  obtain ⟨req, ev, step, served⟩ := exec_ownership exists_ absent which
  have asks : homeMsgs (s.dirOf line) (req.served (s.dirOf line) a) a false
      = (s.dirOf line).sharers.map Msg.inv ++ [.grant a .m true] := by
    rw [served]
    rcases st with st | st
    · simp [homeMsgs, st, idle st]
    · simp [homeMsgs, st]
  by_cases none_ : (s.dirOf line).sharers = []
  · rw [none_] at asks ⊢
    obtain ⟨e, ss, view, x, own, alone, -⟩ := homeRequest_writes ready asks (by decide) (by simp [DirEntry.holders, owner, none_]) ev 0
    have entry : (homeRequest req a line ev s).dirOf line = e := (congrArg LineView.dir view :)
    exact ⟨_, step, msgsOf_of_busy (congrArg LineView.busy view :),
      fun _ => ⟨ownedBy_of entry (congrArg LineView.num view :) x own, by rw [entry, alone]⟩, fun some_ => absurd rfl some_⟩
  · obtain ⟨x, mem⟩ := List.exists_mem_of_ne_nil _ none_
    have told : ∀ x ∈ (s.dirOf line).sharers, Msg.inv x ∈ (s.dirOf line).sharers.map Msg.inv ++ [.grant a .m true] :=
      fun x mem => List.mem_append_left _ (List.mem_map_of_mem mem)
    obtain ⟨ss, view, events⟩ := homeRequest_asks ready asks (told x mem) rfl ev 0
    exact ⟨_, step, msgsOf_of_busy (congrArg LineView.busy view :), fun none' => absurd none' none_,
      fun _ => ⟨(congrArg LineView.dir view :), fun x mem => events _ (told x mem) rfl⟩⟩

theorem exec_rdx_owned {o : Agent} (st : (s.dirOf line).st = .x ∧ (s.dirOf line).sharers = [] ∨ (s.dirOf line).st = .o)
    (owner : (s.dirOf line).owner = some o) :
    Reaches (exec (.rdx a line) s) fun t => t.dirOf line = s.dirOf line
      ∧ msgsOf t line = some (.fwdX o :: ((s.dirOf line).sharers.map Msg.inv ++ [.grant a .m false]))
      ∧ ∀ x ∈ (s.dirOf line).holders, Event.forwardReceipt x line ∈ t.agenda := by
  have asks : homeMsgs (s.dirOf line) (Req.rdx.served (s.dirOf line) a) a false
      = .fwdX o :: ((s.dirOf line).sharers.map Msg.inv ++ [.grant a .m false]) := by
    rcases st with ⟨st, alone⟩ | st
    · simp [Req.served, homeMsgs, st, owner, alone]
    · simp [Req.served, homeMsgs, st, owner]
  obtain ⟨ss, view, events⟩ := homeRequest_asks ready asks List.mem_cons_self rfl (.rdx a line) 0
  refine ⟨_, exec_rdx exists_ absent, (congrArg LineView.dir view :), msgsOf_of_busy (congrArg LineView.busy view :), fun x mem => ?_⟩
  rcases (by simpa [DirEntry.holders, owner] using mem : x = o ∨ x ∈ (s.dirOf line).sharers) with rfl | sharer
  · exact events _ List.mem_cons_self rfl
  · exact events (.inv x) (List.mem_cons_of_mem _ (List.mem_append_left _ (List.mem_map_of_mem sharer))) rfl

end

theorem exec_upg_recorded {l : L1Line} (ready : LineReady s line) (exists_ : s.l1Exists a = true) (has : s.l1Line a line = some l)
    (reads : l.st = .s ∨ l.st = .o) (recorded : a ∈ (s.dirOf line).holders) :
    Reaches (exec (.upg a line) s) fun t =>
      msgsOf t line = some (((s.dirOf line).holders.filter (· != a)).map Msg.inv ++ [.grant a .m false])
      ∧ ((s.dirOf line).holders.filter (· != a) = [] → OwnedBy s t line a ∧ (t.dirOf line).sharers = [])
      ∧ ((s.dirOf line).holders.filter (· != a) ≠ [] → t.dirOf line = s.dirOf line) := by
  have step : exec (.upg a line) s = .next (homeRequest .upg a line (.upg a line) s) :=
    if_pos (by rcases reads with st | st <;> simp [exists_, has, st])
  have asks : homeMsgs (s.dirOf line) (Req.upg.served (s.dirOf line) a) a false
      = ((s.dirOf line).holders.filter (· != a)).map Msg.inv ++ [.grant a .m false] := by
    simp [Req.served, homeMsgs, recorded]
  by_cases none_ : (s.dirOf line).holders.filter (· != a) = []
  · rw [none_] at asks ⊢
    obtain ⟨e, ss, view, x, own, alone, -⟩ := homeRequest_writes ready asks (by decide) (by simpa using none_) (.upg a line) 0
    have entry : (homeRequest .upg a line (.upg a line) s).dirOf line = e := (congrArg LineView.dir view :)
    exact ⟨_, step, msgsOf_of_busy (congrArg LineView.busy view :),
      fun _ => ⟨ownedBy_of entry (congrArg LineView.num view :) x own, by rw [entry, alone]⟩, fun some_ => absurd rfl some_⟩
  · obtain ⟨x, mem⟩ := List.exists_mem_of_ne_nil _ none_
    obtain ⟨ss, view, -⟩ := homeRequest_asks ready asks (List.mem_append_left _ (List.mem_map_of_mem mem)) rfl (.upg a line) 0
    exact ⟨_, step, msgsOf_of_busy (congrArg LineView.busy view :), fun none' => absurd none' none_,
      fun _ => (congrArg LineView.dir view :)⟩

theorem exec_engineRead_owned {x : Nat} {o : Agent} (ready : LineReady s line)
    (engine : a = .copyEngine x ∨ a = .collEngine x ∨ a = .matrix x) (owner : (s.dirOf line).owner = some o)
    (st : (s.dirOf line).st = .x ∨ (s.dirOf line).st = .o) :
    Reaches (exec (.engineRead a line) s) fun t => msgsOf t line = some [.fwdS o] ∧ (t.dirOf line).st = (s.dirOf line).st
      ∧ Event.forwardReceipt o line ∈ t.agenda := by
  have step : exec (.engineRead a line) s = .next (homeRequest .engine a line (.engineRead a line) s) := by
    rcases engine with rfl | rfl | rfl <;> rfl
  have asks : homeMsgs (s.dirOf line) (Req.engine.served (s.dirOf line) a) a false = [.fwdS o] := by
    rcases st with st | st <;> simp [Req.served, homeMsgs, st, owner]
  obtain ⟨ss, view, events⟩ := homeRequest_asks ready asks (List.mem_singleton.2 rfl) rfl (.engineRead a line) 0
  have entry : (homeRequest .engine a line (.engineRead a line) s).dirOf line = s.dirOf line := (congrArg LineView.dir view :)
  exact ⟨_, step, msgsOf_of_busy (congrArg LineView.busy view :), by rw [entry], events _ (List.mem_singleton.2 rfl) rfl⟩

end
end Sys2Proof.Machine
end

-- ==== Sys2Proof/Proofs/HomeMessages.lean ====

section
set_option Elab.async false
namespace Sys2Proof.Machine

open Sys2Proof.Claims

section
variable {s t : State} {k g line : Nat} {a : Agent} {b : Busy}

/-! ## Transfers and checks that find nothing (R151, R154, R488) -/

theorem noInjector_of_view (quiet : NoInjector s) (same : (t.view k line).armed = (s.view k line).armed) : NoInjector t :=
  fun d => (congrFun same d).trans (quiet d)

theorem State.injected_eq_none (quiet : NoInjector s) (die x type : Nat) : s.injected die x type = none := by
  simp [State.injected, quiet die]

theorem State.passMessage_eq_self (quiet : NoInjector s) (die x type : Nat) : s.passMessage die x type = s := by
  simp [State.passMessage, State.injected_eq_none quiet]

theorem State.receive_arrives (quiet : NoInjector s) (die type sender receiver good : Nat) :
    ∃ t, s.receive die line type sender receiver good = (t, none) ∧ ∀ k, t.view k line = s.view k line := by
  unfold State.receive State.receiveAt
  rw [State.injected_eq_none quiet]
  exact ⟨_, rfl, fun k => State.view_ite (State.view_updDie rfl rfl) rfl⟩

theorem State.homeCheck_eq_none_iff {type interval digest : Nat} : s.homeCheck line type a interval digest = none ↔
    interval = s.intervalOf line
    ∧ ¬((s.dirOf line).open_ && (s.dirOf line).kind == 1 && (type == 6 || type == 8) && digest != (s.dirOf line).startDigest) = true
    ∧ ¬((type == 4 || type == 7) && digest != s.digestOf line) = true := by
  unfold State.homeCheck
  extract_lets e now parties
  split
  next ne => exact ⟨(nomatch ·), fun ⟨eq, _⟩ => absurd eq ne⟩
  next eq =>
    split
    next bad => exact ⟨(nomatch ·), fun ⟨_, ok, _⟩ => absurd bad ok⟩
    next ok =>
      split
      next bad => exact ⟨(nomatch ·), fun ⟨_, _, ok⟩ => absurd bad ok⟩
      next ok' => exact ⟨fun _ => ⟨not_not.1 eq, ok, ok'⟩, fun _ => rfl⟩

/-- What a check finds rests on the entry, the number and the digest of the line. -/
theorem State.homeCheck_congr {type interval digest : Nat} (check : s.homeCheck line type a interval digest = none)
    (dir : t.dirOf line = s.dirOf line) (num : t.intervalOf line = s.intervalOf line) (same : t.digestOf line = s.digestOf line) :
    t.homeCheck line type a interval digest = none := by
  rw [State.homeCheck_eq_none_iff] at check ⊢
  rwa [dir, num, same]

theorem State.homeCheck_of_view {type interval digest : Nat} (check : s.homeCheck line type a interval digest = none)
    (same : t.view k line = s.view k line) : t.homeCheck line type a interval digest = none :=
  State.homeCheck_congr check (congrArg LineView.dir same :) (congrArg LineView.num same :) (congrArg LineView.digest same :)

theorem State.tellHome_heard {type interval digest : Nat} (quiet : NoInjector s) (check : s.homeCheck line type a interval digest = none) :
    ∃ t, s.tellHome a g line type interval digest = (t, none) ∧ ∀ k, t.view k line = s.view k line := by
  have sent k : (s.l1Sends g line type interval digest).view k line = s.view k line := State.view_l1Sends
  have quiet' : NoInjector (s.l1Sends g line type interval digest) := noInjector_of_view quiet (congrArg LineView.armed (sent 0))
  unfold State.tellHome
  rw [State.passMessage_eq_self quiet']
  dsimp only
  rw [State.homeCheck_of_view check (sent 0)]
  exact ⟨_, rfl, fun k => State.view_homeHears.trans (sent k)⟩

/-! ## Lines of an L1 (R79, R83, R91) -/

theorem State.view_updCore_self {f : Core → Core} (still : (f (s.core g)).still = (s.core g).still) :
    (s.updCore g f).view g line = { s.view g line with l1 := (f (s.core g)).l1, wbuf := (f (s.core g)).wbuf } := by
  have c : CohFrame s (s.updCore g f) := (CohFrame.refl s).updCore still
  have banks : (f (s.core g)).l1Banks = (s.core g).l1Banks := (congrArg Core.l1Banks still :)
  have rest : (s.updCore g f).ctl = s.ctl ∧ (s.updCore g f).intervals = s.intervals ∧ (s.updCore g f).die = s.die := ⟨rfl, rfl, rfl⟩
  simp only [State.view, c.homeDie, c.isHostLine, c.digestOf, State.dirOf, State.intervalOf, State.busyOf, c.lineDie, rest,
    State.updCore_core_self, banks]

/-- The line is in no table of the core. -/
def LineView.drop (v : LineView) (line : Nat) : LineView := { v with l1 := AMap.erase v.l1 line, wbuf := AMap.erase v.wbuf line }

theorem LineView.drop_of_absent {v : LineView} (l1 : AMap.find? v.l1 line = none) (wbuf : AMap.find? v.wbuf line = none) :
    v.drop line = v := by
  rw [LineView.drop, AMap.erase_of_find?_none l1, AMap.erase_of_find?_none wbuf]

theorem Core.held_eq_none_iff {c : Core} : c.held line = none ↔ AMap.find? c.l1 line = none ∧ AMap.find? c.wbuf line = none := by
  unfold Core.held
  cases AMap.find? c.l1 line <;> simp

theorem Core.held_of_l1 {c : Core} {l : L1Line} (has : AMap.find? c.l1 line = some l) : c.held line = some l := by
  rw [Core.held, has]
  rfl

theorem State.view_dropL1 (s : State) (h : Agent) (line k : Nat) :
    (s.dropL1 h line).view k line = if l1Core h line = some k then (s.view k line).drop line else s.view k line := by
  unfold State.dropL1
  cases at_ : l1Core h line with
  | none => rw [if_neg (by simp)]
  | some j =>
    dsimp only
    by_cases here : j = k
    · subst here
      rw [if_pos rfl]
      cases held : (s.core j).held line with
      | none =>
        obtain ⟨l1, wbuf⟩ := Core.held_eq_none_iff.1 held
        exact (LineView.drop_of_absent l1 wbuf).symm
      | some l =>
        refine (State.view_updCore_self (by rfl)).trans ?_
        have closed : (s.closeL1 j line l h).view j line = s.view j line := State.view_closeL1
        have l1 : ((s.closeL1 j line l h).core j).l1 = (s.core j).l1 := (congrArg LineView.l1 closed :)
        have wbuf : ((s.closeL1 j line l h).core j).wbuf = (s.core j).wbuf := (congrArg LineView.wbuf closed :)
        rw [closed, l1, wbuf]
        rfl
    · rw [if_neg (by simpa using here)]
      split
      · rfl
      · refine (State.view_congr ((CohFrame.refl _).updCore (by rfl)) rfl rfl (fun _ => rfl) ?_).trans State.view_closeL1
        rw [State.updCore_core_ne _ _ _ _ (Ne.symm here)]

/-! ## A message arrives (R88) -/

section
variable (s line b)

@[simp] theorem State.dirOf_setBusy : (s.setBusy line b).dirOf line = s.dirOf line :=
  (congrArg LineView.dir (State.view_setBusy s 0 line b) :)

@[simp] theorem State.intervalOf_setBusy : (s.setBusy line b).intervalOf line = s.intervalOf line :=
  (congrArg LineView.num (State.view_setBusy s 0 line b) :)

@[simp] theorem State.digestOf_setBusy : (s.setBusy line b).digestOf line = s.digestOf line :=
  (congrArg LineView.digest (State.view_setBusy s 0 line b) :)

@[simp] theorem State.busyOf_setBusy : (s.setBusy line b).busyOf line = some b :=
  (congrArg LineView.busy (State.view_setBusy s 0 line b) :)

end

theorem noInjector_setBusy (quiet : NoInjector s) (line : Nat) (b : Busy) : NoInjector (s.setBusy line b) :=
  noInjector_of_view quiet (congrArg LineView.armed (State.view_setBusy s 0 line b) :)

theorem State.homeCheck_setBusy {type interval digest : Nat} (check : s.homeCheck line type a interval digest = none) (b : Busy) :
    (s.setBusy line b).homeCheck line type a interval digest = none :=
  State.homeCheck_congr check (State.dirOf_setBusy ..) (State.intervalOf_setBusy ..) (State.digestOf_setBusy ..)

theorem State.takeMsg_delivered {m : Msg} {s1 : State} (busy : s.busyOf line = some b)
    (done : (s.setBusy line { b with msgs := b.msgs.erase m }).deliver line m b = .ok s1) :
    s.takeMsg line m = (if (b.msgs.erase m).isEmpty then s1.endBusy line else s1.sendGrant line).unlessN line := by
  rw [State.takeMsg, busy]
  dsimp only
  rw [done]

/-- The last message ends the busy period. -/
theorem receiveMsg_last {m : Msg} {s1 : State} (busy : s.busyOf line = some b) (last : b.msgs.erase m = [])
    (done : (s.setBusy line { b with msgs := b.msgs.erase m }).deliver line m b = .ok s1) (ended : (s1.endBusy line).busyOf line = none) :
    receiveMsg line m s = s1.endBusy line := by
  rw [receiveMsg, State.takeMsg_delivered busy done, last]
  dsimp only [List.isEmpty]
  rw [if_pos rfl]
  unfold State.unlessN
  cases (s1.endBusy line).stuck line with
  | none => dsimp only; rw [ended]; rfl
  | some p => rfl

/-- The last acknowledgement brings the grant. -/
theorem receiveMsg_granted {m : Msg} {s1 : State} {b2 : Busy} (busy : s.busyOf line = some b) (more : b.msgs.erase m ≠ [])
    (done : (s.setBusy line { b with msgs := b.msgs.erase m }).deliver line m b = .ok s1)
    (sound : ((s1.sendGrant line).dirOf line).st ≠ .n) (left : (s1.sendGrant line).busyOf line = some b2)
    (grants : ∀ x ∈ b2.msgs, x.isGrant = true) : receiveMsg line m s = (s1.sendGrant line).announce line := by
  rw [receiveMsg, State.takeMsg_delivered busy done, if_neg (by simpa using more), State.unlessN_of_sound sound]
  dsimp only
  rw [left]
  exact if_pos (List.all_eq_true.2 grants)

theorem andThen_cohOf_none (s : State) (f : State → Coh) : (cohOf (s, none)).andThen f = f s := rfl

/-! ## The grant arrives (R88, R90, R151, R154) -/

/-- A set with a way free takes a line. -/
theorem State.installL1_room
    (room : (((s.core g).l1.map (·.1)).filter fun x => x != line && sameSet false x line).length < (s.core g).l1Banks / 2) (l : L1Line) : s.installL1 (.core g) line l = s.updCore g fun c => { c with l1 := AMap.set c.l1 line l } := by
  unfold State.installL1
  dsimp only [l1Core]
  rw [if_pos (.inl room)]

theorem State.granted_installs (quiet : NoInjector s) (check : s.homeCheck line 6 (.core g) (s.intervalOf line) (s.digestOf line) = none)
    (room : (((s.core g).l1.map (·.1)).filter fun x => x != line && sameSet false x line).length < (s.core g).l1Banks / 2)
    (report : ∀ r, b.report = some r → r = s.digestOf line) (st : L1State) (data : Bool) :
    ∃ t l, s.granted (.core g) st data line b = .ok t ∧ t.view g line = { s.view g line with l1 := AMap.set (s.core g).l1 line l }
      ∧ l.st = st ∧ ((s.core g).held line = none → l.dirty = 0) := by
  obtain ⟨s1, came, same⟩ : ∃ s1, (if data then s.receive (dieOf g) line 0 noHolderId (agentId (.core g)) (s.digestOf line)
      else (s.passMessage (dieOf g) line 1, none)) = (s1, none) ∧ ∀ k, s1.view k line = s.view k line := by
    cases data
    · exact ⟨s, by rw [State.passMessage_eq_self quiet]; rfl, fun _ => rfl⟩
    · exact State.receive_arrives quiet ..
  unfold State.granted
  dsimp -zeta only [l1Core]
  extract_lets dg full
  rw [came, andThen_cohOf_none]
  extract_lets s2 old s3 s4
  have heard : s2.view g line = s.view g line := State.view_l1Hears.trans (same g)
  have had : old = (s.core g).held line := by
    have l1 : (s2.core g).l1 = (s.core g).l1 := (congrArg LineView.l1 heard :)
    have wbuf : (s2.core g).wbuf = (s.core g).wbuf := (congrArg LineView.wbuf heard :)
    simp only [old, Core.held, l1, wbuf]
  have closed : s3.view g line = s.view g line := by
    dsimp only [s3, old]
    split
    · exact State.view_closeL1.trans heard
    · exact heard
  have l1 : (s3.core g).l1 = (s.core g).l1 := (congrArg LineView.l1 closed :)
  have banks : (s3.core g).l1Banks = (s.core g).l1Banks := (congrArg LineView.banks closed :)
  obtain ⟨l, put, is, clean⟩ : ∃ l, s4 = s3.updCore g (fun c => { c with l1 := AMap.set c.l1 line l }) ∧ l.st = st
      ∧ ((s.core g).held line = none → l.dirty = 0) :=
    ⟨_, State.installL1_room (by rwa [l1, banks]) _, rfl, fun none_ => by dsimp only; rw [had, none_]; rfl⟩
  have installed : s4.view g line = { s.view g line with l1 := AMap.set (s.core g).l1 line l } := by
    have wbuf : (s3.core g).wbuf = (s.core g).wbuf := (congrArg LineView.wbuf closed :)
    rw [put, State.view_updCore_self (by rfl), closed, l1, wbuf]
    rfl
  have number : s4.intervalOf line = s.intervalOf line := (congrArg LineView.num installed :)
  have check' : s4.homeCheck line 6 (.core g) (s4.intervalOf line) dg = none := by
    rw [number]
    exact State.homeCheck_congr check (congrArg LineView.dir installed :) number (congrArg LineView.digest installed :)
  obtain ⟨t, told, same'⟩ := State.tellHome_heard (g := g) (noInjector_of_view quiet (congrArg LineView.armed installed :)) check'
  rw [told]
  refine ⟨t, l, ?_, (same' g).trans installed, is, clean⟩
  dsimp only
  split
  next r has => exact if_pos (report r has)
  next => rfl

/-- The end of a transaction: the line is installed, and what waited behind it is served (R88). -/
theorem exec_grantReceipt_installs {st : L1State} {data : Bool} (quiet : NoInjector s) (report : ∀ r, b.report = some r → r = s.digestOf line)
    (busy : s.busyOf line = some b) (msgs : b.msgs = [.grant (.core g) st data])
    (tidy : AMap.sorted (s.die (s.lineDie line)).busy = true)
    (check : s.homeCheck line 6 (.core g) (s.intervalOf line) (s.digestOf line) = none)
    (room : (((s.core g).l1.map (·.1)).filter fun x => x != line && sameSet false x line).length < (s.core g).l1Banks / 2) :
    Reaches (exec (.grantReceipt (.core g) line) s) fun t => t.busyOf line = none ∧ (∀ ev ∈ b.queue, ev ∈ t.agenda)
      ∧ ∃ l, AMap.find? (t.core g).l1 line = some l ∧ l.st = st ∧ ((s.core g).held line = none → l.dirty = 0) := by
  have step : exec (.grantReceipt (.core g) line) s = .next (receiveMsg line (.grant (.core g) st data) s) := by
    change execGrantReceipt (.core g) line s = _
    rw [execGrantReceipt, busy]
    simp [msgs, Msg.isGrant, Msg.target]
  have last : b.msgs.erase (.grant (.core g) st data) = [] := by rw [msgs, List.erase_cons_head]
  have same := State.view_setBusy s g line { b with msgs := b.msgs.erase (.grant (.core g) st data) }
  obtain ⟨t, l, done, installed, is, clean⟩ := State.granted_installs (s := s.setBusy line _) (b := b)
    (noInjector_setBusy quiet line { b with msgs := b.msgs.erase (.grant (.core g) st data) })
    (by rw [State.intervalOf_setBusy, State.digestOf_setBusy]; exact State.homeCheck_setBusy check _) room
    (by rwa [State.digestOf_setBusy]) st data
  obtain ⟨ended, agenda⟩ := State.view_endBusy ((congrArg LineView.busy installed : _).trans (State.busyOf_setBusy ..))
    (((congrArg LineView.tidy installed :).trans (congrArg LineView.tidy same :)).trans tidy) g
  have free : (t.endBusy line).busyOf line = none := (congrArg LineView.busy ended :)
  have lines : ((t.endBusy line).core g).l1 = AMap.set (s.core g).l1 line l := (congrArg LineView.l1 (ended.trans (by rw [installed])) :)
  rw [receiveMsg_last busy last done free] at step
  exact ⟨_, step, free, fun ev mem => agenda ▸ List.mem_append_left _ mem, l, by rw [lines, AMap.find?_set_self], is, clean⟩

/-- A grant waits for the acknowledgements (R88). -/
theorem exec_grantReceipt_waits {m : Msg} (busy : s.busyOf line = some b) (mem : m ∈ b.msgs) (ack : m.isGrant = false) (a : Agent) :
    exec (.grantReceipt a line) s = .next s := by
  have missing : ¬b.msgs.all Msg.isGrant = true := fun all => by simp [List.all_eq_true.1 all m mem] at ack
  change execGrantReceipt a line s = _
  rw [execGrantReceipt, busy]
  dsimp only
  split
  · exact if_neg missing
  · rfl

/-! ## A forward arrives (R90 to R92) -/

/-- The entry once the home has the report of a forward to `h`: the dirty owner stays, a clean one becomes a sharer, and one that
gives the line up is removed. -/
def DirEntry.AfterForward (e e' : DirEntry) (h : Agent) (keeps wasM : Bool) : Prop :=
  if keeps then e'.st = (if wasM then .o else .s) ∧ e'.holders = [h] else e' = e.without h

theorem State.view_reported (h : Agent) (keeps wasM : Bool) (owned : keeps = true → (s.dirOf line).st = .x) (k : Nat) :
    ∃ e, (s.reported h line keeps wasM).view k line = { s.view k line with
        dir := e, num := if keeps then (s.intervalOf line + 1) % 2 ^ 32 else s.intervalOf line }
      ∧ (s.dirOf line).AfterForward e h keeps wasM := by
  unfold State.reported
  cases keeps with
  | false => exact ⟨(s.dirOf line).without h, State.view_setDir .., rfl⟩
  | true =>
    extract_lets e s1 s2
    rw [if_neg (by decide), if_pos (owned rfl)]
    obtain ⟨d, advanced, -⟩ := State.view_advance s k line 1 (agentId h) [h]
    refine ⟨_, (State.view_setDir ..).trans (by rw [advanced]; rfl), rfl, ?_⟩
    cases wasM <;> rfl

/-- A copy takes the number of the interval that its forward begins. -/
def Core.numbered (c : Core) (line n : Nat) : Core :=
  match c.held line with
  | some k => c.putHeld line { k with interval := n }
  | none => c

theorem Core.l1_putHeld {c : Core} {l k : L1Line} (has : AMap.find? c.l1 line = some l) :
    AMap.find? (c.putHeld line k).l1 line = some k := by
  have listed : AMap.has c.l1 line = true := by simp [AMap.has, has]
  simp [Core.putHeld, listed]

theorem Core.still_putHeld (c : Core) (line : Nat) (l : L1Line) : (c.putHeld line l).still = c.still := rfl

theorem Core.still_numbered (c : Core) (line n : Nat) : (c.numbered line n).still = c.still := by
  unfold Core.numbered
  split <;> rfl

theorem Core.st_numbered (c : Core) (line n : Nat) :
    (AMap.find? (c.numbered line n).l1 line).map (·.st) = (AMap.find? c.l1 line).map (·.st) := by
  unfold Core.numbered
  cases has : AMap.find? c.l1 line with
  | some l =>
    rw [Core.held_of_l1 has]
    dsimp only
    rw [Core.l1_putHeld has]
    rfl
  | none =>
    have unlisted : AMap.has c.l1 line = false := by simp [AMap.has, has]
    split
    · simp [Core.putHeld, unlisted, has]
    · rw [has]

/-- The holder's copy after a forward: changed to a read-only one, or gone. -/
theorem State.view_copyAfterForward {l : L1Line} (has : AMap.find? (s.core g).l1 line = some l) (sorted : AMap.sorted (s.core g).l1 = true)
    (keeps : Bool) (kept : L1Line) :
    ∃ m w, (if keeps then (s.closeL1 g line l (.core g)).updCore g (fun c => c.putHeld line kept) else s.dropL1 (.core g) line).view g line
        = { s.view g line with l1 := m, wbuf := w }
      ∧ (AMap.find? m line).map (·.st) = if keeps then some kept.st else none := by
  cases keeps with
  | false =>
    refine ⟨AMap.erase (s.core g).l1 line, AMap.erase (s.core g).wbuf line, ?_, by rw [AMap.find?_erase_self sorted]; rfl⟩
    rw [if_neg Bool.false_ne_true, State.view_dropL1, if_pos (by rfl)]
    rfl
  | true =>
    generalize shut : s.closeL1 g line l (.core g) = s1
    have closed : s1.view g line = s.view g line := shut ▸ State.view_closeL1
    have l1 : (s1.core g).l1 = (s.core g).l1 := (congrArg LineView.l1 closed :)
    refine ⟨((s1.core g).putHeld line kept).l1, ((s1.core g).putHeld line kept).wbuf, ?_, ?_⟩
    · exact (State.view_updCore_self (f := fun c => c.putHeld line kept) (Core.still_putHeld ..)).trans (by rw [closed])
    · rw [Core.l1_putHeld (l1 ▸ has)]
      rfl

/-- The holder's answer to a forward: its copy stays read-only or leaves, the home has the report, and the data is on its way. -/
theorem State.forwarded_answers {l : L1Line} (quiet : NoInjector s) (has : AMap.find? (s.core g).l1 line = some l)
    (sorted : AMap.sorted (s.core g).l1 = true) (check : s.homeCheck line 4 (.core g) l.interval (s.digestOf line) = none)
    (busy : s.busyOf line = some b) (keeps : Bool) (owned : keeps = true → (s.dirOf line).st = .x) (stamp r : Nat) :
    ∃ t e m w, s.forwarded (.core g) line stamp keeps (some (.core r)) = .ok t
      ∧ t.view g line = { s.view g line with
          dir := e, num := if keeps then (s.intervalOf line + 1) % 2 ^ 32 else s.intervalOf line
          busy := some { b with report := some (s.digestOf line) }, l1 := m, wbuf := w }
      ∧ (AMap.find? m line).map (·.st) = (if keeps then some (if l.st == .m || l.st == .o then .o else .s) else none)
      ∧ (s.dirOf line).AfterForward e (.core g) keeps (l.st == .m || l.st == .o) := by
  unfold State.forwarded
  dsimp -zeta only [l1Core]
  rw [State.passMessage_eq_self quiet]
  extract_lets s' l' wasM dg s1
  have heard : s'.view g line = s.view g line := State.view_l1Hears
  have had : AMap.find? (s'.core g).l1 line = some l := by
    rw [show (s'.core g).l1 = (s.core g).l1 from (congrArg LineView.l1 heard :)]
    exact has
  have copy : l' = l := by dsimp only [l']; rw [Core.held_of_l1 had]; rfl
  have digest : dg = s.digestOf line := (congrArg LineView.digest heard :)
  clear_value s' l'
  subst copy
  obtain ⟨m, w, left, after⟩ : ∃ m w, s1.view g line = { s.view g line with l1 := m, wbuf := w }
      ∧ (AMap.find? m line).map (·.st) = (if keeps then some (if wasM then .o else .s) else none) := by
    obtain ⟨m, w, left, after⟩ := State.view_copyAfterForward (had : AMap.find? (s'.core g).l1 line = some l')
      (by rwa [show (s'.core g).l1 = (s.core g).l1 from (congrArg LineView.l1 heard :)]) keeps
      { l' with st := if wasM then .o else .s, open_ := false }
    exact ⟨m, w, left.trans (by rw [heard]), after⟩
  have check' : s1.homeCheck line 4 (.core g) l'.interval dg = none := by
    rw [digest]
    exact State.homeCheck_congr check (congrArg LineView.dir left :) (congrArg LineView.num left :) (congrArg LineView.digest left :)
  have quiet1 : NoInjector s1 := noInjector_of_view quiet (congrArg LineView.armed left :)
  obtain ⟨s2, told, same2⟩ := State.tellHome_heard (g := g) quiet1 check'
  rw [told]
  dsimp -zeta only
  extract_lets s3 s4 s5
  have same2 : s2.view g line = { s.view g line with l1 := m, wbuf := w } := (same2 g).trans left
  have entry : s2.dirOf line = s.dirOf line := (congrArg LineView.dir same2 :)
  have number : s2.intervalOf line = s.intervalOf line := (congrArg LineView.num same2 :)
  obtain ⟨e, reported, is⟩ := State.view_reported (s := s2) (line := line) (.core g) keeps wasM (by rwa [entry]) g
  have same3 : s3.view g line = { s.view g line with
      dir := e, num := if keeps then (s.intervalOf line + 1) % 2 ^ 32 else s.intervalOf line, l1 := m, wbuf := w } := by
    rw [reported, same2, number]
  have lines : (s3.core g).l1 = m := (congrArg LineView.l1 same3 :)
  have same4 : s4.view g line = { s3.view g line with
      l1 := ((s3.core g).numbered line (s3.intervalOf line)).l1, wbuf := ((s3.core g).numbered line (s3.intervalOf line)).wbuf } :=
    State.view_updCore_self (f := fun c => c.numbered line (s3.intervalOf line)) (Core.still_numbered ..)
  have busy4 : s4.busyOf line = some b :=
    ((congrArg LineView.busy same4 :).trans (congrArg LineView.busy same3 :)).trans busy
  have same5 : s5.view g line = { s4.view g line with busy := some { b with report := some (s.digestOf line) } } := by
    dsimp only [s5]
    rw [busy4]
    dsimp only
    rw [State.view_setBusy, digest]
  have quiet5 : NoInjector s5 := noInjector_of_view quiet
    (((congrArg LineView.armed same5 :).trans (congrArg LineView.armed same4 :)).trans (congrArg LineView.armed same3 :))
  obtain ⟨t, came, same6⟩ := State.receive_arrives (line := line) quiet5 (dieOf r) 3 (agentId (.core g)) (agentId (.core r)) dg
  dsimp -zeta only [Option.bind_some, Option.map_some]
  rw [came, andThen_cohOf_none]
  refine ⟨_, e, ((s3.core g).numbered line (s3.intervalOf line)).l1, ((s3.core g).numbered line (s3.intervalOf line)).wbuf, rfl, ?_,
    (Core.st_numbered ..).trans (by rw [lines]; exact after), entry ▸ is⟩
  rw [State.view_carry, same6, same5, same4, same3]

/-! ## An invalidation arrives (R90, R92) -/

/-- A holder that is told of a write gives its copy up, and the home removes it. -/
theorem State.giveUp_leaves {l : L1Line} (quiet : NoInjector s) (has : AMap.find? (s.core g).l1 line = some l)
    (check : s.homeCheck line 6 (.core g) l.interval (s.digestOf line) = none) (stamp : Nat) :
    ∃ t, s.giveUp (.core g) line stamp false = .ok t
      ∧ t.view g line = { (s.view g line).drop line with dir := (s.dirOf line).without (.core g) } := by
  unfold State.giveUp
  dsimp -zeta only [l1Core]
  rw [State.passMessage_eq_self quiet]
  extract_lets s1 dg
  have heard : s1.view g line = s.view g line := State.view_l1Hears
  have had : (s1.core g).held line = some l := by
    refine Core.held_of_l1 ?_
    rwa [show (s1.core g).l1 = (s.core g).l1 from (congrArg LineView.l1 heard :)]
  have digest : dg = s.digestOf line := (congrArg LineView.digest heard :)
  have gone : (s1.dropL1 (.core g) line).view g line = (s.view g line).drop line := by
    rw [State.view_dropL1, if_pos (by rfl), heard]
  have check' : (s1.dropL1 (.core g) line).homeCheck line 6 (.core g) l.interval dg = none := by
    rw [digest]
    exact State.homeCheck_congr check (congrArg LineView.dir gone :) (congrArg LineView.num gone :) (congrArg LineView.digest gone :)
  obtain ⟨t, told, same⟩ := State.tellHome_heard (g := g) (noInjector_of_view quiet (congrArg LineView.armed gone :)) check'
  have entry : t.dirOf line = s.dirOf line := (congrArg LineView.dir ((same g).trans gone) :)
  rw [had]
  dsimp -zeta only
  extract_lets dirty
  rw [if_neg (by simp), andThen_cohOf_none, told]
  exact ⟨_, rfl, by rw [State.unhold, State.view_setDir, same, gone, entry]⟩

/-! ## The last acknowledgement brings the grant (R88, R90) -/

section
variable {b' : Busy} {m : Msg} {st : L1State} {data : Bool} (busy : s.busyOf line = some b) (rest : b.msgs.erase m = [.grant a st data])
  (done : (s.setBusy line { b with msgs := b.msgs.erase m }).deliver line m b = .ok t) (msgs : b'.msgs = [.grant a st data])
include busy rest done msgs

theorem receiveMsg_grants {v : LineView} {ss : List (Agent × Nat)} (granted : (t.sendGrant line).view k line = v)
    (stamped : v.busy = some { b' with stamps := ss }) (sound : v.dir.st ≠ .n) :
    (receiveMsg line m s).view k line = v ∧ Event.grantReceipt a line ∈ (receiveMsg line m s).agenda := by
  have only : ∀ x ∈ b'.msgs, x.isGrant = true := by simp [msgs, Msg.isGrant]
  have busy' : (t.sendGrant line).busyOf line = some { b' with stamps := ss } := (congrArg LineView.busy granted : _).trans stamped
  have sound' : ((t.sendGrant line).dirOf line).st ≠ .n := (congrArg (·.dir.st) granted : ((t.sendGrant line).dirOf line).st = _) ▸ sound
  rw [receiveMsg_granted busy (by simp [rest]) done sound' busy' only]
  refine ⟨(State.view_announce ..).trans granted, ?_⟩
  exact State.mem_agenda_announce (m := .grant a st data) busy' (by simp [msgs]) (.inr only)

variable (left : t.busyOf line = some b') (unsent : ∀ p ∈ b'.stamps, p.1 ≠ a)
include left unsent

theorem receiveMsg_shares (shares : st = .s) (shared : (t.dirOf line).st = .o ∨ (t.dirOf line).st = .s) (k : Nat) :
    ∃ e ss, (receiveMsg line m s).view k line = { t.view k line with dir := e, busy := some { b' with stamps := ss } }
      ∧ e.st = (t.dirOf line).st ∧ e.owner = (t.dirOf line).owner ∧ a ∈ e.sharers ∧ (∀ x ∈ (t.dirOf line).sharers, x ∈ e.sharers)
      ∧ Event.grantReceipt a line ∈ (receiveMsg line m s).agenda := by
  obtain ⟨e, ss, granted, is, owner, joined, stay⟩ := State.view_sendGrant_shares left msgs unsent k shares
    (by rcases shared with o | s <;> simp [*])
  have state : e.st = (t.dirOf line).st := by
    rw [is]
    exact if_neg (by rcases shared with o | s <;> simp [*])
  obtain ⟨view, event⟩ := receiveMsg_grants busy rest done msgs granted rfl
    (by rw [state]; rcases shared with o | s <;> simp [*])
  exact ⟨e, ss, view, state, owner, joined, stay, event⟩

theorem receiveMsg_writes (writes : st ≠ .s) (alone : ∀ x ∈ (t.dirOf line).holders, x = a) (k : Nat) :
    ∃ e ss, (receiveMsg line m s).view k line = { t.view k line with
        dir := e, num := (t.intervalOf line + 1) % 2 ^ 32, busy := some { b' with stamps := ss } }
      ∧ e.st = .x ∧ e.owner = some a ∧ Event.grantReceipt a line ∈ (receiveMsg line m s).agenda := by
  obtain ⟨e, ss, granted, is, owner, -⟩ := State.view_sendGrant_writes left msgs unsent k writes alone
  obtain ⟨view, event⟩ := receiveMsg_grants busy rest done msgs granted rfl (by simp [is])
  exact ⟨e, ss, view, is, owner, event⟩

end

/-! ## The steps of a holder (R90 to R93) -/

theorem DirEntry.mem_holders_without {e : DirEntry} {x : Agent} (mem : x ∈ (e.without a).holders) : x ∈ e.holders ∧ x ≠ a := by
  rcases List.mem_append.1 mem with own | share
  · have owner : (if e.owner = some a then none else e.owner) = some x := by simpa [DirEntry.without] using own
    split at owner
    next => cases owner
    next other => exact ⟨List.mem_append_left _ (by simp [owner]), fun eq => other (eq ▸ owner)⟩
  · obtain ⟨sharer, other⟩ := List.mem_filter.1 share
    exact ⟨List.mem_append_right _ sharer, by simpa using other⟩

/-- The first of two messages arrives; the second is the grant. -/
theorem exec_forwardReceipt_first {m : Msg} {st : L1State} {r : Nat} (busy : s.busyOf line = some b)
    (msgs : b.msgs = [m, .grant (.core r) st false]) (ack : m.isGrant = false) (target : m.target = a) :
    exec (.forwardReceipt a line) s = .next (receiveMsg line m s) ∧ b.msgs.erase m = [.grant (.core r) st false]
      ∧ b.requester = some (.core r) := by
  refine ⟨?_, by rw [msgs, List.erase_cons_head], by rw [Busy.requester, msgs, List.find?_cons_of_neg (by simp [ack])]; rfl⟩
  change execForwardReceipt a line s = _
  rw [execForwardReceipt, busy]
  simp [msgs, ack, target]

section
variable {l : L1Line} {r : Nat} (quiet : NoInjector s) (unsent : ∀ p ∈ b.stamps, p.1 ≠ .core r)
  (has : AMap.find? (s.core g).l1 line = some l) (sorted : AMap.sorted (s.core g).l1 = true) (busy : s.busyOf line = some b)
include quiet unsent has sorted busy

/-- A forward from state X: the dirty owner keeps ownership in O, a clean one becomes a sharer, and the requester joins (R90). -/
theorem exec_forwardReceipt_shares (msgs : b.msgs = [.fwdS (.core g), .grant (.core r) .s false]) (owned : (s.dirOf line).st = .x)
    (check : s.homeCheck line 4 (.core g) l.interval (s.digestOf line) = none) :
    Reaches (exec (.forwardReceipt (.core g) line) s) fun t => Event.grantReceipt (.core r) line ∈ t.agenda
      ∧ msgsOf t line = some [.grant (.core r) .s false]
      ∧ (AMap.find? (t.core g).l1 line).map (·.st) = some (if l.st = .m ∨ l.st = .o then .o else .s)
      ∧ (t.dirOf line).st = (if l.st = .m ∨ l.st = .o then .o else .s)
      ∧ t.intervalOf line = (s.intervalOf line + 1) % 2 ^ 32
      ∧ .core r ∈ (t.dirOf line).sharers ∧ .core g ∈ (t.dirOf line).holders := by
  obtain ⟨step, rest, requester⟩ := exec_forwardReceipt_first (a := .core g) busy msgs rfl rfl
  obtain ⟨t, e, m, w, done, answered, kept, is, holders⟩ :=
    State.forwarded_answers (s := s.setBusy line { b with msgs := b.msgs.erase (.fwdS (.core g)) })
      (noInjector_setBusy quiet _ _) has sorted (by rw [State.digestOf_setBusy]; exact State.homeCheck_setBusy check _)
      (State.busyOf_setBusy ..) true (fun _ => by rwa [State.dirOf_setBusy]) (b.stampTo (.core g)) r
  rw [State.view_setBusy, State.intervalOf_setBusy, State.digestOf_setBusy, if_pos rfl] at answered
  rw [← requester] at done
  have entry : t.dirOf line = e := (congrArg LineView.dir answered :)
  obtain ⟨e', ss, view, state, owner, joined, stay, event⟩ := receiveMsg_shares (m := .fwdS (.core g)) busy rest done
    rest (congrArg LineView.busy answered :) unsent rfl (by rw [entry, is]; split <;> simp) g
  rw [entry] at state owner stay
  rw [answered] at view
  generalize receiveMsg line (.fwdS (.core g)) s = u at step view event
  have entry' : u.dirOf line = e' := (congrArg LineView.dir view :)
  have lines : (u.core g).l1 = m := (congrArg LineView.l1 view :)
  have dirty : (if l.st == .m || l.st == .o then L1State.o else .s) = if l.st = .m ∨ l.st = .o then .o else .s := by simp
  refine ⟨u, step, event, ?_, ?_, ?_, (congrArg LineView.num view :), by rwa [entry'], ?_⟩
  · exact (msgsOf_of_busy (congrArg LineView.busy view :)).trans (congrArg some rest)
  · rw [lines, kept, if_pos rfl, dirty]
  · rw [entry', state, is]; simp
  · rw [entry', DirEntry.holders, owner]
    have member : .core g ∈ e.holders := by rw [holders]; exact List.mem_singleton.2 rfl
    exact List.mem_append.2 ((List.mem_append.1 member).imp_right (stay _))

omit quiet has sorted in
/-- The holder has given the line up, and the writer has it to itself. -/
theorem receiveMsg_givesWay {m : Msg} {t : State} {b' : Busy} (rest : b.msgs.erase m = [.grant (.core r) .m false])
    (others : ∀ x ∈ (s.dirOf line).holders, x = .core g ∨ x = .core r)
    (done : (s.setBusy line { b with msgs := b.msgs.erase m }).deliver line m b = .ok t)
    (left : t.busyOf line = some b') (msgs : b'.msgs = b.msgs.erase m) (stamps : b'.stamps = b.stamps)
    (entry : t.dirOf line = (s.dirOf line).without (.core g)) (number : t.intervalOf line = s.intervalOf line)
    (gone : AMap.find? (t.core g).l1 line = none) :
    Event.grantReceipt (.core r) line ∈ (receiveMsg line m s).agenda
      ∧ msgsOf (receiveMsg line m s) line = some [.grant (.core r) .m false]
      ∧ AMap.find? ((receiveMsg line m s).core g).l1 line = none ∧ OwnedBy s (receiveMsg line m s) line (.core r) := by
  have alone : ∀ x ∈ (t.dirOf line).holders, x = .core r := fun x mem =>
    have ⟨was, other⟩ := DirEntry.mem_holders_without (entry ▸ mem)
    (others x was).resolve_left other
  obtain ⟨e, ss, view, x, owner, event⟩ := receiveMsg_writes busy rest done (msgs.trans rest) left (stamps ▸ unsent) (by decide) alone g
  generalize receiveMsg line m s = u at view event
  have lines : (u.core g).l1 = (t.core g).l1 := (congrArg LineView.l1 view :)
  have count : u.intervalOf line = (s.intervalOf line + 1) % 2 ^ 32 := by
    rw [← number]
    exact (congrArg LineView.num view :)
  exact ⟨event, (msgsOf_of_busy (congrArg LineView.busy view :)).trans (congrArg some (msgs.trans rest)), lines ▸ gone,
    ownedBy_of (congrArg LineView.dir view :) count x owner⟩

/-- A forward or an invalidation for a writer takes the line away, and the last one brings its grant (R90). -/
theorem exec_forwardReceipt_givesWay {m : Msg} (which : m = .fwdX (.core g) ∨ m = .inv (.core g))
    (msgs : b.msgs = [m, .grant (.core r) .m false]) (others : ∀ x ∈ (s.dirOf line).holders, x = .core g ∨ x = .core r)
    (check : s.homeCheck line (if m = .fwdX (.core g) then 4 else 6) (.core g) l.interval (s.digestOf line) = none) :
    Reaches (exec (.forwardReceipt (.core g) line) s) fun t => Event.grantReceipt (.core r) line ∈ t.agenda
      ∧ msgsOf t line = some [.grant (.core r) .m false] ∧ AMap.find? (t.core g).l1 line = none ∧ OwnedBy s t line (.core r) := by
  rcases which with rfl | rfl
  · rw [if_pos rfl] at check
    obtain ⟨step, rest, requester⟩ := exec_forwardReceipt_first (a := .core g) busy msgs rfl rfl
    obtain ⟨t, e, m, w, done, answered, gone, after⟩ :=
      State.forwarded_answers (s := s.setBusy line { b with msgs := b.msgs.erase (.fwdX (.core g)) })
        (noInjector_setBusy quiet _ _) has sorted (by rw [State.digestOf_setBusy]; exact State.homeCheck_setBusy check _)
        (State.busyOf_setBusy ..) false (fun keeps => nomatch keeps) (b.stampTo (.core g)) r
    rw [State.view_setBusy, State.intervalOf_setBusy, if_neg (by decide)] at answered
    rw [State.dirOf_setBusy] at after
    rw [← requester] at done
    have lines : (t.core g).l1 = m := (congrArg LineView.l1 answered :)
    refine ⟨_, step, receiveMsg_givesWay (m := .fwdX (.core g)) unsent busy rest others done (congrArg LineView.busy answered :) rfl rfl
      ((congrArg LineView.dir answered :).trans after) (congrArg LineView.num answered :) ?_⟩
    rw [lines]
    exact Option.map_eq_none_iff.1 gone
  · rw [if_neg (by simp)] at check
    obtain ⟨step, rest, -⟩ := exec_forwardReceipt_first (a := .core g) busy msgs rfl rfl
    obtain ⟨t, done, left⟩ := State.giveUp_leaves (s := s.setBusy line { b with msgs := b.msgs.erase (.inv (.core g)) })
      (noInjector_setBusy quiet _ _) has (by rw [State.digestOf_setBusy]; exact State.homeCheck_setBusy check _) (b.stampTo (.core g))
    rw [State.view_setBusy, State.dirOf_setBusy] at left
    refine ⟨_, step, receiveMsg_givesWay unsent busy rest others done (congrArg LineView.busy left :) rfl rfl
      (congrArg LineView.dir left :) (congrArg LineView.num left :) ?_⟩
    rw [show (t.core g).l1 = AMap.erase (s.core g).l1 line from (congrArg LineView.l1 left :)]
    exact AMap.find?_erase_self sorted

end
end
end Sys2Proof.Machine
end

-- ==== Sys2Proof/Proofs/EvictionsAndRecalls.lean ====

section
set_option Elab.async false
namespace Sys2Proof.Machine

open Sys2Proof.Claims

section
variable {s t : State} {k g line : Nat} {a : Agent} {l : L1Line}

/-! ## The home has an eviction notice (R90, R91) -/

theorem State.hostLeft_of_device (device : isHostLine s line = false) : s.hostLeft line = s := by
  simp [State.hostLeft, device]

theorem State.hostTakes_of_device (device : isHostLine s line = false) : s.hostTakes line = s := by
  simp [State.hostTakes, device]

/-- A memory-side copy that is present stays. -/
theorem State.fillMsc_of_view {d : Nat} (home : (s.view k line).home = some d) (copy : (s.view k line).msc = true) : s.fillMsc line = s := by
  have at_ : homeDie s (line * 128) = some d := home
  have listed : AMap.has (s.die d).msc line = true := by
    have here : s.lineDie line = d := by rw [State.lineDie, at_]; rfl
    rw [← here]
    exact copy
  simp [State.fillMsc, at_, listed]

/-- The owner of a line in X has given it up (R90, R93). -/
def State.ownerLeaves (s : State) (a : Agent) (line : Nat) : State :=
  let s1 := s.advance line 1 (agentId a) []
  (s1.setDir line { s1.dirOf line with st := .i, owner := none }).hostLeft line

theorem State.view_ownerLeaves (device : isHostLine s line = false) (a : Agent) (k : Nat) :
    ∃ e, (s.ownerLeaves a line).view k line = { s.view k line with dir := e, num := (s.intervalOf line + 1) % 2 ^ 32 }
      ∧ e.st = .i ∧ e.owner = none := by
  obtain ⟨e, advanced, -⟩ := State.view_advance s k line 1 (agentId a) []
  have c : CohFrame s (s.advance line 1 (agentId a) []) := (CohFrame.refl s).advance
  refine ⟨{ (s.advance line 1 (agentId a) []).dirOf line with st := .i, owner := none }, ?_, rfl, rfl⟩
  rw [State.ownerLeaves, State.hostLeft_of_device ((c.setDir.isHostLine line).trans device), State.view_setDir, advanced]

/-- What a write-back leaves at the home: no owner, I from X, S or I from O. -/
def DirEntry.WrittenBack (e e' : DirEntry) : Prop :=
  (e.st = .x → e'.owner = none ∧ e'.st = .i) ∧ (e.st = .o → e'.owner = none ∧ e'.st = if e.sharers = [] then .i else .s)

/-- What a clean eviction leaves at the home: one holder less, and I when none remains. -/
def DirEntry.EvictedClean (e e' : DirEntry) (a : Agent) : Prop :=
  (e.st = .x → e'.st = .i) ∧ (e.st = .s → e'.sharers = e.sharers.filter (· != a) ∧ (e'.sharers = [] → e'.st = .i))

theorem State.view_homeWbD {d : Nat} (home : (s.view k line).home = some d) (copy : (s.view k line).msc = true)
    (device : isHostLine s line = false) (a : Agent) :
    ∃ e n, (s.homeWbD a line).view k line = { s.view k line with dir := e, num := n } ∧ (s.dirOf line).WrittenBack e
      ∧ ((s.dirOf line).st = .x → n = (s.intervalOf line + 1) % 2 ^ 32) := by
  have filled : s.fillMsc line = s := State.fillMsc_of_view home copy
  cases st : (s.dirOf line).st
  case x =>
    obtain ⟨e, left, is, owner⟩ := State.view_ownerLeaves device a k
    have step : s.homeWbD a line = s.ownerLeaves a line := by simp only [State.homeWbD, filled, st, State.ownerLeaves]
    exact ⟨e, _, step ▸ left, ⟨fun _ => ⟨owner, is⟩, by simp [st]⟩, fun _ => rfl⟩
  case o =>
    have device' e : isHostLine (s.setDir line e) line = false := ((CohFrame.refl s).setDir.isHostLine line).trans device
    have step : s.homeWbD a line
        = s.setDir line { s.dirOf line with st := if (s.dirOf line).sharers.isEmpty then .i else .s, owner := none } := by
      simp only [State.homeWbD, filled, st, State.hostLeft_of_device (device' _), State.hostTakes_of_device (device' _), ite_self]
    exact ⟨_, _, step ▸ State.view_setDir .., ⟨by simp [st], fun _ => ⟨rfl, by simp⟩⟩, by simp⟩
  all_goals
    have step : s.homeWbD a line = s := by simp only [State.homeWbD, filled, st]
    exact ⟨_, _, by rw [step], ⟨by simp [st], by simp [st]⟩, by simp⟩

theorem State.view_homeEvC (device : isHostLine s line = false) (a : Agent) (k : Nat) :
    ∃ e n, (s.homeEvC a line).view k line = { s.view k line with dir := e, num := n } ∧ (s.dirOf line).EvictedClean e a := by
  cases st : (s.dirOf line).st
  case x =>
    obtain ⟨e, left, is, -⟩ := State.view_ownerLeaves device a k
    have step : s.homeEvC a line = s.ownerLeaves a line := by simp only [State.homeEvC, st, State.ownerLeaves]
    exact ⟨e, _, step ▸ left, fun _ => is, by simp [st]⟩
  case s =>
    have device' e : isHostLine (s.setDir line e) line = false := ((CohFrame.refl s).setDir.isHostLine line).trans device
    have step : s.homeEvC a line = s.setDir line { s.dirOf line with
        st := if ((s.dirOf line).sharers.filter (· != a)).isEmpty then .i else .s, sharers := (s.dirOf line).sharers.filter (· != a) } := by
      simp only [State.homeEvC, st, State.hostLeft_of_device (device' _)]
    refine ⟨_, _, step ▸ State.view_setDir .., by simp [st], fun _ => ⟨rfl, fun none_ => ?_⟩⟩
    exact if_pos (List.isEmpty_iff.2 none_)
  case o =>
    have step : s.homeEvC a line = s.setDir line { s.dirOf line with sharers := (s.dirOf line).sharers.filter (· != a) } := by
      simp only [State.homeEvC, st]
    exact ⟨_, _, step ▸ State.view_setDir .., by simp [st], by simp [st]⟩
  all_goals
    have step : s.homeEvC a line = s := by simp only [State.homeEvC, st]
    exact ⟨_, _, by rw [step], by simp [st], by simp [st]⟩

/-! ## An L1 gives a line up (R91) -/

/-- The L1's record closes, and the line leaves the write-back buffer. -/
theorem State.view_leavesBuffer (s : State) (a : Agent) (g line : Nat) (l : L1Line) :
    ((s.closeL1 g line l a).updCore g fun c => { c with wbuf := AMap.erase c.wbuf line }).view g line
      = { s.view g line with wbuf := AMap.erase (s.core g).wbuf line } := by
  generalize shut : s.closeL1 g line l a = s1
  have closed : s1.view g line = s.view g line := shut ▸ State.view_closeL1
  have l1 : (s1.core g).l1 = (s.core g).l1 := (congrArg LineView.l1 closed :)
  have wbuf : (s1.core g).wbuf = (s.core g).wbuf := (congrArg LineView.wbuf closed :)
  rw [State.view_updCore_self (by rfl), closed, l1, wbuf]
  rfl

/-- The home of a write-back whose data and report pass their checks. -/
theorem State.takeNotice_dirty (quiet : NoInjector s) (dirty : l.st = .m ∨ l.st = .o)
    (check : s.homeCheck line 7 a l.interval (s.digestOf line) = none) :
    ∃ s3 : State, s3.view g line = { s.view g line with wbuf := AMap.erase (s.core g).wbuf line }
      ∧ (s.takeNotice a g line l).view g line = (s3.homeWbD a line).view g line := by
  have out := State.view_leavesBuffer s a g line l
  unfold State.takeNotice
  extract_lets src s1 dg ack s2
  have sent : s2.view g line = { s.view g line with wbuf := AMap.erase (s.core g).wbuf line } := State.view_l1Sends.trans out
  obtain ⟨s3, came, same⟩ := State.receive_arrives (line := line) (noInjector_of_view quiet (congrArg LineView.armed sent :))
    (s2.lineDie line) 7 (agentId a) noHolderId dg
  have arrived := (same g).trans sent
  have check' : s3.homeCheck line 7 a l.interval dg = none := State.homeCheck_congr check (congrArg LineView.dir arrived :)
    (congrArg LineView.num arrived :) (congrArg LineView.digest arrived :)
  refine ⟨s3.homeHears g line 7 l.interval dg, State.view_homeHears.trans arrived, ?_⟩
  rcases dirty with st | st
  all_goals
    rw [st]
    dsimp -zeta only
    rw [came]
    dsimp -zeta only
    rw [check']
    exact State.view_carry

/-- The home of a clean eviction whose notice passes its check. -/
theorem State.takeNotice_clean (quiet : NoInjector s) (clean : l.st = .e ∨ l.st = .s)
    (check : s.homeCheck line 8 a l.interval (s.digestOf line) = none) :
    ∃ s3 : State, s3.view g line = { s.view g line with wbuf := AMap.erase (s.core g).wbuf line }
      ∧ (s.takeNotice a g line l).view g line = (s3.homeEvC a line).view g line := by
  have out := State.view_leavesBuffer s a g line l
  unfold State.takeNotice
  extract_lets src s1 dg ack s2
  have check' : s1.homeCheck line 8 a l.interval dg = none := State.homeCheck_congr check (congrArg LineView.dir out :)
    (congrArg LineView.num out :) (congrArg LineView.digest out :)
  obtain ⟨s3, told, same⟩ := State.tellHome_heard (g := g) (noInjector_of_view quiet (congrArg LineView.armed out :)) check'
  refine ⟨s3, (same g).trans out, ?_⟩
  rcases clean with st | st
  all_goals
    rw [st]
    dsimp -zeta only
    rw [told]
    exact State.view_carry

theorem State.homeCheck_leftL1 {m : AMap L1Line} {type interval : Nat} (gone : t.view g line = { s.view g line with l1 := m })
    (check : s.homeCheck line type a interval (s.digestOf line) = none) : t.homeCheck line type a interval (t.digestOf line) = none := by
  have digest : t.digestOf line = s.digestOf line := (congrArg LineView.digest gone :)
  rw [digest]
  exact State.homeCheck_congr check (congrArg LineView.dir gone :) (congrArg LineView.num gone :) digest

section
variable (quiet : NoInjector s) (ready : LineReady s line) (has : AMap.find? (s.core g).l1 line = some l)
  (sorted : AMap.sorted (s.core g).l1 = true) (unqueued : AMap.find? (s.core g).wbuf line = none)

/-- The line has left the L1, and its notice is not taken yet. -/
theorem State.view_leavesL1 (s : State) (g line : Nat) :
    (s.updCore g fun c => { c with l1 := AMap.erase c.l1 line }).view g line = { s.view g line with l1 := AMap.erase (s.core g).l1 line } := by
  rw [State.view_updCore_self (by rfl)]
  rfl

include ready has unqueued in
theorem evictionNotice_leaves {dirty : Bool} (own : l.st ≠ .sr) (fits : (l.st == .m || l.st == .o) = dirty) :
    evictionNotice dirty (.core g) line s
      = (s.updCore g fun c => { c with l1 := AMap.erase c.l1 line }).takeNotice (.core g) g line l := by
  obtain ⟨-, idle, -⟩ := ready
  have free : (s.updCore g fun c => { c with l1 := AMap.erase c.l1 line }).busyLine line = false := State.busyLine_eq_false (s := s) idle
  have evicted : s.evictL1 (.core g) line
      = (s.updCore g fun c => { c with l1 := AMap.erase c.l1 line }).takeNotice (.core g) g line l := by
    simp only [State.evictL1, l1Core, has, own, free, if_false, Bool.false_eq_true]
  simp only [evictionNotice, l1Core, unqueued, has, fits, evicted, bne, beq_self_eq_true]
  simp [own]

include quiet ready has sorted unqueued

/-- A line that leaves the L1 with an eviction notice: what the home then makes of the entry and the number. -/
theorem evictionNotice_view {dirty : Bool} {p : DirEntry → Nat → Prop} (own : l.st ≠ .sr) (fits : (l.st == .m || l.st == .o) = dirty)
    (home : ∀ s1 : State, NoInjector s1 → s1.view g line = { s.view g line with l1 := AMap.erase (s.core g).l1 line } →
      ∃ e n, (s1.takeNotice (.core g) g line l).view g line
        = { s.view g line with l1 := AMap.erase (s.core g).l1 line, wbuf := AMap.erase (s.core g).wbuf line, dir := e, num := n } ∧ p e n) :
    AMap.find? ((evictionNotice dirty (.core g) line s).core g).l1 line = none
      ∧ p ((evictionNotice dirty (.core g) line s).dirOf line) ((evictionNotice dirty (.core g) line s).intervalOf line) := by
  rw [evictionNotice_leaves ready has unqueued own fits]
  have gone := State.view_leavesL1 s g line
  generalize (s.updCore g fun c => { c with l1 := AMap.erase c.l1 line }) = s1 at gone
  obtain ⟨e, n, left, is⟩ := home s1 (noInjector_of_view quiet (congrArg LineView.armed gone :)) gone
  generalize s1.takeNotice (.core g) g line l = t at left
  rw [show (t.core g).l1 = AMap.erase (s.core g).l1 line from (congrArg LineView.l1 left :),
    show t.dirOf line = e from (congrArg LineView.dir left :), show t.intervalOf line = n from (congrArg LineView.num left :)]
  exact ⟨AMap.find?_erase_self sorted, is⟩

/-- A dirty eviction (R90, R91, R93). -/
theorem exec_wbd_leaves (dirty : l.st = .m ∨ l.st = .o) (st : (s.dirOf line).st = .x ∨ (s.dirOf line).st = .o)
    (check : s.homeCheck line 7 (.core g) l.interval (s.digestOf line) = none) :
    Reaches (exec (.wbd (.core g) line) s) fun t => AMap.find? (t.core g).l1 line = none ∧ (t.dirOf line).owner = none
      ∧ ((s.dirOf line).st = .x → (t.dirOf line).st = .i ∧ t.intervalOf line = (s.intervalOf line + 1) % 2 ^ 32)
      ∧ ((s.dirOf line).st = .o → (t.dirOf line).st = if (s.dirOf line).sharers = [] then .i else .s) := by
  have own : l.st ≠ .sr := by rcases dirty with m | o <;> simp [*]
  obtain ⟨gone, written, number⟩ := evictionNotice_view (dirty := true)
    (p := fun e n => (s.dirOf line).WrittenBack e ∧ ((s.dirOf line).st = .x → n = (s.intervalOf line + 1) % 2 ^ 32))
    quiet ready has sorted unqueued own (by simpa using dirty) fun s1 quiet1 gone => by
      have wbuf : (s1.core g).wbuf = (s.core g).wbuf := (congrArg LineView.wbuf gone :)
      obtain ⟨s3, same, taken⟩ := State.takeNotice_dirty quiet1 dirty (State.homeCheck_leftL1 gone check)
      rw [gone, wbuf] at same
      have entry : s3.dirOf line = s.dirOf line := (congrArg LineView.dir same :)
      have count : s3.intervalOf line = s.intervalOf line := (congrArg LineView.num same :)
      obtain ⟨home, -, -, -, device, -, copy⟩ := ready
      obtain ⟨e, n, view, written, number⟩ := State.view_homeWbD (s := s3) (k := g) ((congrArg LineView.home same :).trans home)
        ((congrArg LineView.msc same :).trans copy) ((congrArg LineView.host same :).trans device) (.core g)
      rw [entry, count] at number
      exact ⟨e, n, taken.trans (by rw [view, same]), entry ▸ written, number⟩
  exact ⟨_, rfl, gone, st.elim (fun x => (written.1 x).1) (fun o => (written.2 o).1), fun x => ⟨(written.1 x).2, number x⟩,
    fun o => (written.2 o).2⟩

/-- A clean eviction (R90, R91, R93). -/
theorem exec_evc_leaves (clean : l.st = .e ∨ l.st = .s) (check : s.homeCheck line 8 (.core g) l.interval (s.digestOf line) = none) :
    Reaches (exec (.evc (.core g) line) s) fun t => AMap.find? (t.core g).l1 line = none
      ∧ ((s.dirOf line).st = .x → (t.dirOf line).st = .i)
      ∧ ((s.dirOf line).st = .s → (t.dirOf line).sharers = (s.dirOf line).sharers.filter (· != .core g)
        ∧ ((t.dirOf line).sharers = [] → (t.dirOf line).st = .i)) := by
  have own : l.st ≠ .sr := by rcases clean with e | s <;> simp [*]
  obtain ⟨gone, evicted⟩ := evictionNotice_view (dirty := false) (p := fun e _ => (s.dirOf line).EvictedClean e (.core g))
    quiet ready has sorted unqueued own (by rcases clean with e | s <;> simp [*]) fun s1 quiet1 gone => by
      have wbuf : (s1.core g).wbuf = (s.core g).wbuf := (congrArg LineView.wbuf gone :)
      obtain ⟨s3, same, taken⟩ := State.takeNotice_clean quiet1 clean (State.homeCheck_leftL1 gone check)
      rw [gone, wbuf] at same
      have entry : s3.dirOf line = s.dirOf line := (congrArg LineView.dir same :)
      obtain ⟨-, -, -, -, device, -⟩ := ready
      obtain ⟨e, n, view, evicted⟩ := State.view_homeEvC (s := s3) ((congrArg LineView.host same :).trans device) (.core g) g
      exact ⟨e, n, taken.trans (by rw [view, same]), entry ▸ evicted⟩
  exact ⟨_, rfl, gone, evicted⟩

end

end
end Sys2Proof.Machine
end

-- ==== Sys2Proof/Proofs/Recalls.lean ====

section
set_option Elab.async false
namespace Sys2Proof.Machine

open Sys2Proof.Claims

section
variable {s t : State} {k line : Nat}

/-! ## Checks that may stop a line (R163, R172, R488)

A transfer or a message of a holder either fails a check, which leaves the line in N, or changes nothing that a view shows but an
injector that has fired. -/

theorem State.violate_stuck (home : (homeDie s (line * 128)).isSome = true) (ck : Nat × Nat × Nat) (p : Nat) :
    ((s.violate ck line p).dirOf line).st = .n := by
  unfold State.violate
  extract_lets s1
  rw [home, Bool.true_or, if_pos rfl]
  unfold State.enterN
  extract_lets e s2 s3 s4 s5
  exact congrArg DirEntry.st (State.dirOf_setDir_self ..)

/-- A view without what it shows of the injectors. -/
def LineView.disarmed (v : LineView) : LineView := { v with armed := fun _ => false }

theorem State.view_fireInjector (s : State) (die k line : Nat) :
    ((s.fireInjector die).view k line).disarmed = (s.view k line).disarmed := by
  have c : CohFrame s (s.fireInjector die) := (CohFrame.refl s).fireInjector
  generalize fired : s.fireInjector die = t at c
  have at_ d : ∃ n, t.die d = { s.die d with eictl := n } := by
    rw [← fired]
    by_cases here : d = die
    · exact ⟨_, by rw [here, State.fireInjector, State.updDie_die_self]⟩
    · exact ⟨_, by rw [State.fireInjector, State.updDie_die_ne _ _ _ _ here]⟩
  have dir d : (t.die d).dir = (s.die d).dir := by obtain ⟨m, e⟩ := at_ d; rw [e]
  have busy d : (t.die d).busy = (s.die d).busy := by obtain ⟨m, e⟩ := at_ d; rw [e]
  have msc d : (t.die d).msc = (s.die d).msc := by obtain ⟨m, e⟩ := at_ d; rw [e]
  have rest : t.ctl = s.ctl ∧ t.intervals = s.intervals ∧ t.core k = s.core k := by rw [← fired]; exact ⟨rfl, rfl, rfl⟩
  simp only [LineView.disarmed, State.view, c.homeDie, c.isHostLine, c.digestOf, State.dirOf, State.intervalOf, State.busyOf,
    c.lineDie, busy, dir, msc, rest]

theorem State.view_passMessage (s : State) (die x type k line : Nat) :
    ((s.passMessage die x type).view k line).disarmed = (s.view k line).disarmed := by
  unfold State.passMessage
  split
  · exact State.view_fireInjector ..
  · rfl

section
variable (home : (homeDie s (line * 128)).isSome = true) (k : Nat)
include home

theorem State.receive_cases (die type sender receiver good : Nat) :
    ∃ t, (∃ p, s.receive die line type sender receiver good = (t, some p) ∧ (t.dirOf line).st = .n)
      ∨ s.receive die line type sender receiver good = (t, none) ∧ (t.view k line).disarmed = (s.view k line).disarmed := by
  unfold State.receive State.receiveAt
  split
  · exact ⟨_, .inr ⟨rfl, congrArg LineView.disarmed (State.view_ite (State.view_updDie rfl rfl) rfl)⟩⟩
  · extract_lets s1 p
    split
    · exact ⟨_, .inr ⟨rfl, State.view_fireInjector ..⟩⟩
    · exact ⟨_, .inl ⟨_, rfl, State.violate_stuck (s := s1) home ..⟩⟩

theorem State.tellHome_cases (a : Agent) (g type interval digest : Nat) :
    ∃ t, (∃ p, s.tellHome a g line type interval digest = (t, some p) ∧ (t.dirOf line).st = .n)
      ∨ s.tellHome a g line type interval digest = (t, none) ∧ (t.view k line).disarmed = (s.view k line).disarmed := by
  unfold State.tellHome
  extract_lets s1
  have passed : (s1.view k line).disarmed = (s.view k line).disarmed :=
    (State.view_passMessage ..).trans (congrArg LineView.disarmed State.view_l1Sends)
  split
  · have home' : (homeDie s1 (line * 128)).isSome = true := (congrArg (·.home.isSome) passed : _).trans home
    exact ⟨_, .inl ⟨_, rfl, State.violate_stuck home' ..⟩⟩
  · exact ⟨_, .inr ⟨rfl, (congrArg LineView.disarmed State.view_homeHears).trans passed⟩⟩

/-! ## A recall reaches a holder (R90) -/

omit home in
theorem State.view_dropL1_disarmed (h : Agent) : ((s.dropL1 h line).view k line).disarmed
    = if l1Core h line = some k then (s.view k line).disarmed.drop line else (s.view k line).disarmed := by
  rw [State.view_dropL1]
  split <;> rfl

omit home in
theorem State.view_unhold_disarmed (h : Agent) : ((s.unhold h line).view k line).disarmed
    = { (s.view k line).disarmed with dir := (s.view k line).disarmed.dir.without h } := by
  rw [State.unhold, State.view_setDir]
  rfl

/-- Core k's view once holder `h` has given the line up. -/
def LineView.leave (v : LineView) (k : Nat) (h : Agent) (line : Nat) : LineView :=
  { (if l1Core h line = some k then v.drop line else v) with dir := v.dir.without h }

theorem State.giveUp_cases (h : Agent) (stamp : Nat) (data : Bool) :
    ∃ t, (∃ p, s.giveUp h line stamp data = .contain p t ∧ (t.dirOf line).st = .n)
      ∨ s.giveUp h line stamp data = .ok t ∧ (t.view k line).disarmed = ((s.view k line).disarmed.leave k h line) := by
  unfold State.giveUp
  cases at_ : l1Core h line with
  | none =>
    refine ⟨_, .inr ⟨rfl, ?_⟩⟩
    rw [State.view_unhold_disarmed, LineView.leave, at_, if_neg (by simp)]
  | some g =>
    dsimp -zeta only
    extract_lets s1 dg
    have heard : (s1.view k line).disarmed = (s.view k line).disarmed :=
      (congrArg LineView.disarmed State.view_l1Hears).trans (State.view_passMessage ..)
    have home' : (homeDie s1 (line * 128)).isSome = true := (congrArg (·.home.isSome) heard : _).trans home
    cases held : (s1.core g).held line with
    | none =>
      refine ⟨_, .inr ⟨rfl, ?_⟩⟩
      rw [State.view_unhold_disarmed, heard, LineView.leave, at_]
      split
      next here =>
        cases here
        obtain ⟨l1, wbuf⟩ := Core.held_eq_none_iff.1 held
        rw [LineView.drop_of_absent ((congrArg LineView.l1 heard : _) ▸ l1) ((congrArg LineView.wbuf heard : _) ▸ wbuf)]
      next => rfl
    | some l =>
      dsimp -zeta only
      extract_lets dirty
      obtain ⟨t1, arrived⟩ : ∃ t1, (∃ p, (if data = true ∧ dirty then s1.receive (s1.lineDie line) line 6 (agentId h) noHolderId dg
            else (s1, none)) = (t1, some p) ∧ (t1.dirOf line).st = .n)
          ∨ (if data = true ∧ dirty then s1.receive (s1.lineDie line) line 6 (agentId h) noHolderId dg else (s1, none)) = (t1, none)
            ∧ (t1.view k line).disarmed = (s1.view k line).disarmed := by
        split
        · exact State.receive_cases home' k ..
        · exact ⟨_, .inr ⟨rfl, rfl⟩⟩
      rcases arrived with ⟨p, came, stuck⟩ | ⟨came, same⟩
      · rw [came]
        exact ⟨_, .inl ⟨_, rfl, stuck⟩⟩
      rw [came, andThen_cohOf_none]
      have dropped := State.view_dropL1_disarmed (s := t1) (line := line) k h
      rw [same, heard] at dropped
      have home'' : (homeDie (t1.dropL1 h line) (line * 128)).isSome = true := by
        refine (congrArg (·.home.isSome) dropped : _).trans ?_
        split <;> exact home
      obtain ⟨t2, ⟨p, told, stuck⟩ | ⟨told, same2⟩⟩ := State.tellHome_cases home'' k h g 6 l.interval dg
      · rw [told]
        exact ⟨_, .inl ⟨_, rfl, stuck⟩⟩
      · rw [told]
        refine ⟨_, .inr ⟨rfl, ?_⟩⟩
        rw [State.view_unhold_disarmed, same2, dropped, LineView.leave, at_]
        split <;> rfl

theorem State.recallOne_cases (h : Agent) : ((s.recallOne h line).dirOf line).st = .n
    ∨ ((s.recallOne h line).view k line).disarmed = (s.view k line).disarmed.leave k h line := by
  unfold State.recallOne
  cases at_ : l1Core h line with
  | none =>
    right
    dsimp only
    rw [State.view_unhold_disarmed, LineView.leave, at_, if_neg (by simp)]
  | some g =>
    dsimp -zeta only
    extract_lets s1
    have sent : s1.view k line = s.view k line := State.view_homeSends
    have home' : (homeDie s1 (line * 128)).isSome = true := (congrArg (·.home.isSome) sent : _).trans home
    obtain ⟨t, ⟨p, answered, stuck⟩ | ⟨answered, left⟩⟩ := State.giveUp_cases home' k h (s1.clockOf (homeUnit s1 line)) true
    · rw [answered]
      exact .inl stuck
    · rw [answered]
      exact .inr (by rw [left, sent])

/-! ## A recall reaches every holder (R90) -/

/-- What recalls leave as it was, and that they take the line out of the L1 of core k where it is one of the holders. -/
structure LineView.Recalled (v v' : LineView) (k line : Nat) (hs : List Agent) : Prop where
  home : v'.home = v.home
  msc : v'.msc = v.msc
  sorted : AMap.sorted v.l1 = true → AMap.sorted v'.l1 = true
  gone : AMap.sorted v.l1 = true → (AMap.find? v.l1 line = none ∨ ∃ h ∈ hs, l1Core h line = some k) → AMap.find? v'.l1 line = none

omit home in
theorem LineView.recalled_leave (v : LineView) (h : Agent) : v.Recalled (v.leave k h line) k line [h] := by
  unfold LineView.leave
  by_cases here : l1Core h line = some k
  · rw [if_pos here]
    exact ⟨rfl, rfl, AMap.sorted_erase, fun sorted _ => AMap.find?_erase_self sorted⟩
  · rw [if_neg here]
    exact ⟨rfl, rfl, id, fun _ none_ => none_.resolve_right (by simpa using here)⟩

omit home in
theorem LineView.Recalled.trans {v v' v'' : LineView} {hs hs' : List Agent} (first : v.Recalled v' k line hs)
    (next : v'.Recalled v'' k line hs') : v.Recalled v'' k line (hs ++ hs') := by
  refine ⟨next.home.trans first.home, next.msc.trans first.msc, next.sorted ∘ first.sorted, fun sorted none_ => ?_⟩
  refine next.gone (first.sorted sorted) ?_
  rcases none_ with none_ | ⟨h, mem, here⟩
  · exact .inl (first.gone sorted (.inl none_))
  · exact (List.mem_append.1 mem).imp (fun mem => first.gone sorted (.inr ⟨h, mem, here⟩)) fun mem => ⟨h, mem, here⟩

/-- The holders of a line that is not in N are recalled in turn. -/
def State.recallAll (s : State) (line : Nat) (hs : List Agent) : State :=
  hs.foldl (fun s a => if (s.dirOf line).st = .n then s else s.recallOne a line) s

omit home in
theorem State.recallAll_stuck (stuck : (s.dirOf line).st = .n) (hs : List Agent) : s.recallAll line hs = s := by
  induction hs with
  | nil => rfl
  | cons h hs ih => rw [State.recallAll, List.foldl_cons, if_pos stuck]; exact ih

theorem State.recallAll_cases (hs : List Agent) : ((s.recallAll line hs).dirOf line).st = .n
    ∨ (s.view k line).disarmed.Recalled ((s.recallAll line hs).view k line).disarmed k line hs := by
  induction hs generalizing s with
  | nil => exact .inr ⟨rfl, rfl, id, fun _ none_ => none_.resolve_right (by simp)⟩
  | cons h hs ih =>
    by_cases stuck : (s.dirOf line).st = .n
    · exact .inl (by rw [State.recallAll_stuck stuck]; exact stuck)
    have next : s.recallAll line (h :: hs) = (s.recallOne h line).recallAll line hs := by
      rw [State.recallAll, List.foldl_cons, if_neg stuck]
      rfl
    rw [next]
    rcases State.recallOne_cases home k h with stuck | left
    · exact .inl (by rw [State.recallAll_stuck stuck]; exact stuck)
    have first : (s.view k line).disarmed.Recalled ((s.recallOne h line).view k line).disarmed k line [h] := by
      rw [left]
      exact LineView.recalled_leave k _ h
    exact (ih ((congrArg Option.isSome first.home : _).trans home)).imp_right first.trans

end

/-! ## The line after a recall (R90, R93) -/

theorem State.recallLine_cases {d : Nat} (home : homeDie s (line * 128) = some d) (copy : (s.view k line).msc = true)
    (clear : (s.dirOf line).st ≠ .i) (sound : (s.dirOf line).st ≠ .n) : ((s.recallLine line).dirOf line).st = .n
    ∨ ((s.recallLine line).dirOf line).st = .i ∧ ((s.recallLine line).dirOf line).holders = []
      ∧ ∃ v, (s.view k line).disarmed.Recalled v k line (s.dirOf line).holders ∧ ((s.recallLine line).core k).l1 = v.l1 := by
  unfold State.recallLine
  extract_lets e s1 s2
  rw [if_neg (by simp [e, clear, sound])]
  split
  next stuck => exact .inl stuck
  next left =>
    have recalled := (State.recallAll_cases (by rw [home]; rfl) k e.holders).resolve_left left
    have same : s2 = s1 := State.fillMsc_of_view (k := k) (recalled.home.trans home) (recalled.msc.trans copy)
    rw [same]
    refine .inr ⟨?_, ?_, _, recalled, ?_⟩
    · rw [State.dirOf_setDir_self]
    · rw [State.dirOf_setDir_self]; rfl
    · rw [State.setDir_core]; rfl

theorem State.recallOut_idle (idle : (s.dirOf line).st = .i) : s.recallOut line = s := by
  simp [State.recallOut, State.recallLine, idle]

theorem State.recallOut_cases {d : Nat} (home : homeDie s (line * 128) = some d) (copy : (s.view k line).msc = true)
    (clear : (s.dirOf line).st ≠ .i) (sound : (s.dirOf line).st ≠ .n) (left : ((s.recallOut line).dirOf line).st ≠ .n) :
    ((s.recallOut line).dirOf line).st = .i ∧ ((s.recallOut line).dirOf line).holders = []
      ∧ ∃ v, (s.view k line).disarmed.Recalled v k line (s.dirOf line).holders ∧ ((s.recallOut line).core k).l1 = v.l1 := by
  have line_ := State.recallLine_cases home copy clear sound
  by_cases out : (s.dirOf line).st = .x ∧ ((s.recallLine line).dirOf line).st ≠ .n
  · rw [show s.recallOut line = (s.recallLine line).advance line 1 (s.dirOf line).holder [] from if_pos out]
    obtain ⟨is, none_, v, recalled, l1⟩ := line_.resolve_left out.2
    obtain ⟨e, advanced, -, st, owner, sharers⟩ := State.view_advance (s.recallLine line) k line 1 (s.dirOf line).holder []
    generalize (s.recallLine line).advance line 1 (s.dirOf line).holder [] = t at advanced
    have entry : t.dirOf line = e := (congrArg LineView.dir advanced :)
    have lines : (t.core k).l1 = ((s.recallLine line).core k).l1 := (congrArg LineView.l1 advanced :)
    rw [entry, lines]
    refine ⟨st.trans is, ?_, v, recalled, l1⟩
    rw [DirEntry.holders, owner, sharers]
    exact none_
  · rw [show s.recallOut line = s.recallLine line from if_neg out] at left ⊢
    exact line_.resolve_left left

theorem State.homeWork_ready {ev : Event} {f : State → State} (ready : LineReady s line) : s.homeWork line ev f = .next (f s) := by
  obtain ⟨-, idle, clean, -⟩ := ready
  rw [State.homeWork, State.busyLine_eq_false idle, clean]
  rfl

/-- A recall and an eviction of the directory leave the line in I, and in no L1 (R87, R90). -/
theorem exec_recall_clears (ready : LineReady s line) (left : ((s.recallOut line).dirOf line).st ≠ .n) {i : Instr}
    (which : i ∈ [Instr.recall line, .directoryEviction line]) :
    Reaches (exec i s) fun t => (t.dirOf line).st = .i ∧ ((s.dirOf line).st ≠ .i → (t.dirOf line).holders = [])
      ∧ ∀ g, .core g ∈ (s.dirOf line).holders → (s.dirOf line).st ≠ .i → AMap.sorted (s.core g).l1 = true →
        AMap.find? (t.core g).l1 line = none := by
  have device : isHostLine s line = false := ready.2.2.2.2.1
  have step : exec i s = .next (s.recallOut line) := by
    simp only [List.mem_cons, List.mem_nil_iff, or_false] at which
    rcases which with rfl | rfl
    · have stays : (s.recallOut line).hostLeft line = s.recallOut line :=
        State.hostLeft_of_device (((CohFrame.refl s).recallOut.isHostLine line).trans device)
      change s.homeWork line (.recall line) (fun s => (s.recallOut line).hostLeft line) = _
      rw [State.homeWork_ready ready, stays]
    · exact (if_neg (by simp [device])).trans (State.homeWork_ready ready)
  obtain ⟨home, -, clean, -, -, -, copy⟩ := ready
  have sound := State.sound_of_homePoison clean
  refine ⟨_, step, ?_⟩
  by_cases clear : (s.dirOf line).st = .i
  · rw [State.recallOut_idle clear]
    exact ⟨clear, fun some_ => absurd clear some_, fun _ _ some_ => absurd clear some_⟩
  · obtain ⟨is, none_, -⟩ := State.recallOut_cases (k := 0) home copy clear sound left
    refine ⟨is, fun _ => none_, fun g holds _ sorted => ?_⟩
    obtain ⟨-, -, v, recalled, l1⟩ := State.recallOut_cases (k := g) home copy clear sound left
    rw [l1]
    exact recalled.gone sorted (.inr ⟨_, holds, rfl⟩)

/-! ## The snoop filter and the memory controller (R97 to R99) -/

/-- A filter entry that leaves sends the line to the host, with its data where memory is not current (R99). -/
theorem exec_filterEviction_asks {f : FilterEntry} (host : isHostLine s line = true) (free : s.homeFree line = true)
    (entry : AMap.find? s.ctl.filter line = some f) (stays : f.evicting = false) (idle : f.dir.st = .i) :
    Reaches (exec (.filterEviction line) s) fun t => OutMsg.hostEvict line
        (if AMap.has s.backing line then some (s.lineBytes line) else none) ∈ t.outbox
      ∧ (AMap.find? t.ctl.filter line).map (·.evicting) = some true := by
  have dir : s.dirOf line = f.dir := by simp [State.dirOf, host, entry]
  have listed : AMap.has s.ctl.filter line = true := by simp [AMap.has, entry]
  obtain ⟨notBusy, clean⟩ : s.busyLine line = false ∧ s.homePoison line = none := by simpa [State.homeFree] using free
  have step : exec (.filterEviction line) s = .next (s.evictToHost line) := by
    refine (if_pos (by simp [host, listed])).trans ?_
    rw [State.homeWork, notBusy, clean, State.returnHost, State.recallOut_idle (dir ▸ idle)]
    rfl
  refine ⟨_, step, ?_⟩
  unfold State.evictToHost
  rw [entry]
  dsimp only
  rw [if_neg (by simp [stays, dir, idle])]
  exact ⟨List.mem_append_right _ (List.mem_singleton.2 rfl), by simp⟩

theorem deviceMem_home (device : deviceMem s (line * 128) = true) :
    homeDie s (line * 128) = some (homeOf s line) ∧ isIntakeLine s line = false := by
  have region : regionOf s (line * 128) = .hbm ∨ regionOf s (line * 128) = .ddr := by simpa [deviceMem] using device
  rcases region with region | region <;> simp [homeOf, homeDie, isIntakeLine, region]

theorem State.numberCheck_current (device : isHostLine s line = false) : s.numberCheck line (s.intervalOf line) = none := by
  simp [State.numberCheck, State.intervalOf, device]

theorem State.fillMsc_fills {d : Nat} (home : homeDie s (line * 128) = some d) (device : isHostLine s line = false)
    (intake : isIntakeLine s line = false) : AMap.has ((s.fillMsc line).die d).msc line = true := by
  unfold State.fillMsc
  rw [home, device, intake]
  dsimp only
  split
  next has => simpa using has
  next => rw [State.updDie_die_self]; exact AMap.has_set_self ..

/-- A read of memory for the home ends with the memory-side copy present. -/
theorem State.memFetch_fills {d : Nat} (quiet : NoInjector s) (home : homeDie s (line * 128) = some d) (device : isHostLine s line = false)
    (intake : isIntakeLine s line = false) : ∃ t, s.memFetch line = .ok t ∧ AMap.has (t.die d).msc line = true := by
  by_cases copy : AMap.has (s.die d).msc line = true
  · exact ⟨s, State.memFetch_of_copy home copy, copy⟩
  · unfold State.memFetch
    rw [home]
    dsimp -zeta only
    rw [if_neg (by simp [device, intake, copy])]
    extract_lets s1
    have read : CohFrame s s1 := (CohFrame.refl s).carry.perform.carry
    have same : s1.view 0 line = s.view 0 line := State.view_carry.trans (State.view_perform.trans State.view_carry)
    obtain ⟨s2, came, -⟩ := State.receive_arrives (line := line) (noInjector_of_view quiet (congrArg LineView.armed same)) d 12 noHolderId
      noHolderId (s1.digestOf line)
    have had : CohFrame s s2 := read.receive.of_fst came
    rw [State.numberCheck_current ((read.isHostLine line).trans device)]
    dsimp only
    rw [came, andThen_cohOf_none]
    refine ⟨_, rfl, State.fillMsc_fills ((had.homeDie _).trans home) ((had.isHostLine line).trans device) ?_⟩
    rw [isIntakeLine, had.regionOf]
    exact intake

@[simp] theorem State.backing_setClock (s : State) (u : Clocked) (n : Nat) : (s.setClock u n).backing = s.backing := by
  cases u <;> rfl

@[simp] theorem State.backing_carry (s : State) (a b : Clocked) : (s.carry a b).backing = s.backing := by
  unfold State.carry
  split
  · rfl
  · simp [State.hears, State.tick]

/-- An accepted write leaves no older image of the line. -/
theorem State.memAccept_current (quiet : NoInjector s) (sorted : AMap.sorted s.backing = true) :
    AMap.find? (s.memAccept line).backing line = none := by
  unfold State.memAccept
  extract_lets s1 s2 s0
  have kept : s0.backing = s.backing := by
    dsimp only [s0]
    split
    · have quiet1 : NoInjector s1 := noInjector_of_view (k := 0) (line := line) quiet (congrArg LineView.armed State.view_carry)
      have arrived : s2.backing = s1.backing := by
        dsimp only [s2]
        rw [State.receiveAt, State.injected_eq_none quiet1]
        dsimp only
        split <;> rfl
      rw [State.backing_carry, State.perform, State.backing_setClock, arrived, State.backing_carry]
    · rfl
  rw [kept]
  exact AMap.find?_erase_self sorted

section
variable (quiet : NoInjector s) (free : s.homeFree line = true) (device : deviceMem s (line * 128) = true)
include quiet free device

/-- Memory answers a read, and the home has its copy (R86, R97). -/
theorem exec_acceptance_fills (bias : isHostLine s line = false) :
    Reaches (exec (.memoryControllerAcceptance line false) s) fun t => AMap.has (t.die (homeOf s line)).msc line = true := by
  obtain ⟨home, intake⟩ := deviceMem_home device
  obtain ⟨t, fetched, copy⟩ := State.memFetch_fills quiet home bias intake
  refine ⟨t, ?_, copy⟩
  refine (if_neg (by simp [device, free])).trans ((if_neg (by decide)).trans ?_)
  rw [fetched]

/-- An accepted write makes memory current (R97). -/
theorem exec_acceptance_current (sorted : AMap.sorted s.backing = true) (clean : (s.dirOf line).dirty = false) :
    Reaches (exec (.memoryControllerAcceptance line true) s) fun t => AMap.find? t.backing line = none :=
  ⟨_, (if_neg (by simp [device, free])).trans ((if_pos rfl).trans (if_neg (by simp [clean]))), State.memAccept_current quiet sorted⟩

end
end

/-- Settles O51: each row of the coherence protocol, by the lemmas above. -/
theorem coherenceOfLines : Obligations.CoherenceOfLines := by
  unfold Obligations.CoherenceOfLines
  intro s line a
  refine ⟨fun w kind e step => exec_coherence_dataKept s line a w kind e step,
    fun b busy exists_ absent => ⟨exec_rds_waits exists_ absent busy, exec_rdx_waits exists_ absent busy⟩,
    fun ready exists_ absent => ⟨exec_rds_idle exists_ absent ready, exec_rds_shared exists_ absent ready,
      fun o => exec_rds_owned exists_ absent ready, fun i => exec_rdx_unowned exists_ absent ready,
      fun o => exec_rdx_owned exists_ absent ready⟩,
    fun l ready exists_ has reads recorded _ => exec_upg_recorded ready exists_ has reads recorded,
    fun x o ready engine owner st => exec_engineRead_owned ready engine owner st,
    ?_, fun b m busy mem ack => exec_grantReceipt_waits busy mem ack a, ?_,
    fun ready left e => exec_recall_clears ready left,
    fun f host free entry stays idle => exec_filterEviction_asks host free entry stays idle,
    fun quiet free device bias => ⟨exec_acceptance_fills quiet free device bias, exec_acceptance_current quiet free device⟩⟩
  · rintro g st data queue ss rp rfl quiet report busy tidy check room
    exact (execGrantReceipt_inFrame (.core g) line s).busy_at_home (exec_grantReceipt_installs quiet report busy rfl tidy check room)
  · rintro g r l gr ss rp quiet rfl unsent device has sorted unqueued
    refine ⟨fun busy owned check => exec_forwardReceipt_shares quiet unsent has sorted busy rfl owned check,
      fun m which busy others check => ?_,
      fun ready dirty _ st check => exec_wbd_leaves quiet ready has sorted unqueued dirty st check,
      fun ready clean check => exec_evc_leaves quiet ready has sorted unqueued clean check⟩
    exact exec_forwardReceipt_givesWay quiet unsent has sorted busy (by simpa using which) rfl others check

end Sys2Proof.Machine
end

-- ==== Sys2Proof/Proofs/EngineCommands.lean ====

section
set_option Elab.async false
namespace Sys2Proof.Machine

open Sys2Proof.Claims

/-! ## Clocks carried between units (R143 to R145) -/

/-- `t` differs from `s` in what coherence keeps of its cores, its dies and the control die, and in nothing else. -/
structure ClocksOnly (s t : State) : Prop where
  coh : CohFrame s t
  rest : { t with cores := s.cores, dies := s.dies, ctl := s.ctl } = s

section
variable {s0 s t : State}

theorem ClocksOnly.refl (s : State) : ClocksOnly s s := ⟨CohFrame.refl s, rfl⟩
theorem ClocksOnly.mem (k : ClocksOnly s t) : t.mem = s.mem := k.coh.mem
theorem ClocksOnly.spm (k : ClocksOnly s t) (g : Nat) : (t.core g).spm = (s.core g).spm := k.coh.spm g
theorem ClocksOnly.allocs (k : ClocksOnly s t) (g : Nat) : (t.core g).allocs = (s.core g).allocs :=
  (congrArg Core.allocs (k.coh.core g) :)
theorem ClocksOnly.commands (k : ClocksOnly s t) : t.commands = s.commands := (congrArg State.commands k.rest :)
theorem ClocksOnly.cluster (k : ClocksOnly s t) (x : Nat) : t.cluster x = s.cluster x :=
  (congrArg (fun u => State.cluster u x) k.rest :)

theorem ClocksOnly.setClock {u n} (k : ClocksOnly s0 s) : ClocksOnly s0 (s.setClock u n) :=
  ⟨k.coh.setClock, by cases u <;> exact k.rest⟩

theorem ClocksOnly.carry {a b} (k : ClocksOnly s0 s) : ClocksOnly s0 (s.carry a b) := by
  unfold State.carry
  split
  · exact k
  · exact k.setClock.setClock

theorem ClocksOnly.perform {u n} (k : ClocksOnly s0 s) : ClocksOnly s0 (s.perform u n).1 := k.setClock

theorem ClocksOnly.bankStamp {u g n} (k : ClocksOnly s0 s) : ClocksOnly s0 (s.bankStamp u g n).1 := by
  cases u with
  | none => exact k.perform
  | some u => exact k.carry.perform.carry

theorem ClocksOnly.trans (k : ClocksOnly s0 s) (l : ClocksOnly s t) : ClocksOnly s0 t :=
  ⟨⟨l.mem.trans k.mem, l.coh.ctl.trans k.coh.ctl, fun g => (l.coh.core g).trans (k.coh.core g),
      fun d => (l.coh.die d).trans (k.coh.die d)⟩,
    (congrArg (fun u : State => { u with cores := s0.cores, dies := s0.dies, ctl := s0.ctl }) l.rest :).trans k.rest⟩

/-- Where an address of the team's space lies depends on no clock (R41). -/
theorem ClocksOnly.resolve_team (k : ClocksOnly s t) {c : AccCtx} {ea n : Nat} {a : Acc} {hostOk : Bool} {x : Target}
    (found : s.resolve c .team ea n a hostOk = .ok x s) : t.resolve c .team ea n a hostOk = .ok x t := by
  have alloc : t.teamAlloc c.core c.grid c.team = s.teamAlloc c.core c.grid c.team := by
    simp only [State.teamAlloc, k.cluster, k.allocs]
  simp only [State.resolve, alloc] at found ⊢
  split at found
  · split at found
    next fits =>
      cases found
      rw [if_pos fits]
    · cases found
  · cases found

end

/-! ## Accesses of an engine at a scratchpad (R41, R127) -/

/-- Bytes put into the scratchpad partition of a core. -/
def State.putSpm (s : State) (k a : Nat) (bs : List Byte) : State :=
  s.updCore k fun x => { x with spm := Memory.writeBytes x.spm a bs }

theorem State.putSpm_spm_self (s : State) (k a : Nat) (bs : List Byte) :
    ((s.putSpm k a bs).core k).spm = Memory.writeBytes (s.core k).spm a bs := by
  rw [State.putSpm, State.updCore_core_self]

theorem State.putSpm_core_ne (s : State) {j k : Nat} (a : Nat) (bs : List Byte) (ne : j ≠ k) :
    (s.putSpm k a bs).core j = s.core j := State.updCore_core_ne _ _ _ _ ne

theorem Memory.length_readBytes (m : Memory) (a n : Nat) : (Memory.readBytes m a n).length = n := by
  induction n generalizing a with
  | zero => rfl
  | succ n ih => exact congrArg (· + 1) (ih (a + 1))

theorem Memory.read_eq_of_readBytes_eq {m m' : Memory} {a a' n j : Nat}
    (same : Memory.readBytes m a n = Memory.readBytes m' a' n) (inside : j < n) :
    Memory.read m (a + j) = Memory.read m' (a' + j) := by
  induction n generalizing a a' j with
  | zero => omega
  | succ n ih =>
    obtain ⟨first, others⟩ := List.cons.inj same
    cases j with
    | zero => exact first
    | succ j => simpa only [Nat.add_assoc, Nat.add_comm 1 j] using ih others (Nat.lt_of_succ_lt_succ inside)

section
variable {s : State} {c : Command} {sp : Space} {ea n k a : Nat}

theorem Command.read_spm (lies : s.resolve c.ctx sp ea n .load true = .ok (.spm k a n) s) :
    ∃ s1 st, ClocksOnly s s1 ∧ c.read s sp ea n = .ok s1 (Memory.readBytes (s.core k).spm a n) st := by
  refine ⟨(s.bankStamp (c.ctx.unit 0) k (sectorCount a n)).1, (s.bankStamp (c.ctx.unit 0) k (sectorCount a n)).2,
    (ClocksOnly.refl s).bankStamp, ?_⟩
  rw [Command.read, lies]
  rfl

theorem Command.write_spm {bs : List Byte} (lies : s.resolve c.ctx sp ea bs.length .store true = .ok (.spm k a bs.length) s) :
    ∃ s1 st, ClocksOnly s s1 ∧ c.write s sp ea bs = .ok (s1.putSpm k a bs) [] st := by
  refine ⟨(s.bankStamp (c.ctx.unit 0) k (sectorCount a bs.length)).1, (s.bankStamp (c.ctx.unit 0) k (sectorCount a bs.length)).2,
    (ClocksOnly.refl s).bankStamp, ?_⟩
  rw [Command.write, lies]
  rfl

end

/-! ## One element of a copy within a scratchpad (R409) -/

theorem State.find?_setCmd {s : State} {id : Nat} (c : Command) (listed : AMap.has s.commands id = true) :
    AMap.find? (s.setCmd id c).commands id = some c := by
  simp [State.setCmd, listed]

/-- The command `c'` is `c` but for the stamps of its accesses and the bytes it keeps for its later reads. -/
structure SameCopy (c c' : Command) : Prop where
  body : c'.body = c.body
  st : c'.st = c.st
  off : c'.off = c.off
  pos : c'.pos = c.pos
  reported : c'.reported = c.reported
  ctx : c'.ctx = c.ctx

theorem SameCopy.trans {c c' c'' : Command} (h : SameCopy c c') (h' : SameCopy c' c'') : SameCopy c c'' :=
  ⟨h'.body.trans h.body, h'.st.trans h.st, h'.off.trans h.off, h'.pos.trans h.pos, h'.reported.trans h.reported, h'.ctx.trans h.ctx⟩

theorem Command.sameCopy_stamped (c : Command) (st : Nat × Nat) : SameCopy c (c.stamped st) := by
  unfold Command.stamped
  split <;> exact ⟨rfl, rfl, rfl, rfl, rfl, rfl⟩

section
variable {s : State} {id : Nat} {c : Command} {sp : Space} {ea n k a : Nat}

/-- A reported command that has written nothing yet reads the bytes as they stand, and goes on. -/
theorem cmdFetch_spm (next : State → Command → List Byte → State) (reported : c.reported = true) (old : c.old = [])
    (lies : s.resolve c.ctx sp ea n .load true = .ok (.spm k a n) s) :
    ∃ s1 c1, ClocksOnly s s1 ∧ SameCopy c c1
      ∧ cmdFetch s id c sp ea n next = next s1 c1 (Memory.readBytes (s.core k).spm a n) := by
  obtain ⟨s1, st, clocks, read⟩ := Command.read_spm lies
  have same := c.sameCopy_stamped st
  refine ⟨s1, { c.stamped st with reported := true }, clocks,
    ⟨same.body, same.st, same.off, same.pos, reported.symm, same.ctx⟩, ?_⟩
  simp [cmdFetch, read, reported, old]

/-- A reported command writes the bytes of a move, and its place advances. -/
theorem cmdStore_spm {m : Move} {bs : List Byte} (reported : c.reported = true) (dst : m.dst = some (sp, ea))
    (lies : s.resolve c.ctx sp ea bs.length .store true = .ok (.spm k a bs.length) s) :
    ∃ s1 c1, ClocksOnly s s1 ∧ SameCopy c c1
      ∧ cmdStore s id c m bs = ((s1.putSpm k a bs).setCmd id { c1.moved m with reported := true }).push [.commandComplete id] := by
  obtain ⟨s1, st, clocks, wrote⟩ := Command.write_spm lies
  have same := c.sameCopy_stamped st
  refine ⟨s1, (c.stamped st).keepOld s (c.locs s sp ea bs.length .store), clocks,
    ⟨same.body, same.st, same.off, same.pos, same.reported, same.ctx⟩, ?_⟩
  simp [cmdStore, dst, wrote, reported]

end

/-- `t` is `s` with `n` bytes of core k's scratchpad copied from a1 to a2, and no other byte changed. -/
structure CopiedWithin (s t : State) (k a1 a2 n : Nat) : Prop where
  mem : t.mem = s.mem
  inside : ∀ j < n, Memory.read (t.core k).spm (a2 + j) = Memory.read (s.core k).spm (a1 + j)
  outside : ∀ j b, (j ≠ k ∨ b < a2 ∨ a2 + n ≤ b) → Memory.read (t.core j).spm b = Memory.read (s.core j).spm b

theorem copiedWithin_putSpm {s s1 : State} {k a1 a2 n : Nat} (clocks : ClocksOnly s s1) (wf : Memory.wf (s.core k).spm = true) :
    CopiedWithin s (s1.putSpm k a2 (Memory.readBytes (s.core k).spm a1 n)) k a1 a2 n := by
  refine ⟨clocks.mem, fun j inside => ?_, fun j b out => ?_⟩
  · have back := Memory.readBytes_writeBytes a2 (Memory.readBytes (s.core k).spm a1 n) wf
    rw [Memory.length_readBytes] at back
    rw [State.putSpm_spm_self, clocks.spm]
    exact Memory.read_eq_of_readBytes_eq back inside
  · by_cases at_ : j = k
    · subst at_
      have out : b < a2 ∨ a2 + n ≤ b := out.resolve_left fun ne => ne rfl
      rw [State.putSpm_spm_self, clocks.spm, Memory.read_writeBytes_outside wf (by rwa [Memory.length_readBytes])]
    · rw [State.putSpm_core_ne _ _ _ at_, clocks.spm]

/-- A `cpyl` within one scratchpad copies the bytes up to the next boundary of 128 of its source or its destination. -/
theorem copyStep_cpyl_spm {s : State} {id src dst len k a1 a2 n : Nat} {c : Command} (body : c.body = .cpyl src dst .team .team len)
    (size : n = min (len - c.pos) (min (128 - (src + c.pos) % 2 ^ 64 % 128) (128 - (dst + c.pos) % 2 ^ 64 % 128)))
    (got : c.got = none) (reported : c.reported = true) (old : c.old = []) (wf : Memory.wf (s.core k).spm = true)
    (listed : AMap.has s.commands id = true)
    (source : s.resolve c.ctx .team ((src + c.pos) % 2 ^ 64) n .load true = .ok (.spm k a1 n) s)
    (dest : s.resolve c.ctx .team ((dst + c.pos) % 2 ^ 64) n .store true = .ok (.spm k a2 n) s) :
    CopiedWithin s (copyStep s id c) k a1 a2 n
      ∧ ∃ c', AMap.find? (copyStep s id c).commands id = some c' ∧ c'.pos = c.pos + n ∧ c'.off = c.off + n ∧ c'.st = c.st
        ∧ c'.body = c.body := by
  let m : Move := { src := some (.team, (src + c.pos) % 2 ^ 64), dst := some (.team, (dst + c.pos) % 2 ^ 64), n := n }
  have step : copyStep s id c = cmdFetch s id c .team ((src + c.pos) % 2 ^ 64) n fun s1 c1 bs => cmdStore s1 id c1 m bs := by
    simp only [copyStep, body, CmdBody.move, got, ← size, m]
  obtain ⟨s1, c1, clocks1, same1, fetched⟩ :=
    cmdFetch_spm (id := id) (fun s1 c1 bs => cmdStore s1 id c1 m bs) reported old source
  have dest1 := clocks1.resolve_team dest
  rw [← same1.ctx, ← Memory.length_readBytes (s.core k).spm a1 n] at dest1
  obtain ⟨s2, c2, clocks2, same2, stored⟩ := cmdStore_spm (id := id) (m := m) (same1.reported.trans reported) rfl dest1
  rw [step, fetched, stored]
  have copied := copiedWithin_putSpm (a1 := a1) (a2 := a2) (n := n) (clocks1.trans clocks2) wf
  have same := same1.trans same2
  have listed2 : AMap.has (s2.putSpm k a2 (Memory.readBytes (s.core k).spm a1 n)).commands id = true :=
    (clocks1.trans clocks2).commands ▸ listed
  refine ⟨⟨copied.mem, copied.inside, copied.outside⟩, _, State.find?_setCmd _ listed2, ?_, ?_, same.st, same.body⟩
  · simp [Command.moved, CmdBody.stride, same.body, same.pos, body, m]
  · simp [Command.moved, same.off, m]

/-! ## The end of a command (R407, R408, R416) -/

@[simp] theorem State.updEngine_mem (s : State) (c : Command) (f : EngineDebug → EngineDebug) : (s.updEngine c f).mem = s.mem := by
  unfold State.updEngine
  split <;> rfl

@[simp] theorem State.updEngine_commands (s : State) (c : Command) (f : EngineDebug → EngineDebug) :
    (s.updEngine c f).commands = s.commands := by
  unfold State.updEngine
  split <;> rfl

/-- An engine that records nothing may stop after a command, and does nothing else (R481). -/
theorem State.engineDone_of_unrecorded {s : State} {c : Command} (unrecorded : bitN (s.engineOf c).ectl 0 = false) (status : Nat) :
    (s.engineDone c status).mem = s.mem ∧ (s.engineDone c status).commands = s.commands := by
  simp only [State.engineDone, unrecorded, Bool.false_eq_true, if_false]
  split
  · exact ⟨s.updEngine_mem .., s.updEngine_commands ..⟩
  · exact ⟨rfl, rfl⟩

/-- A command with neither counter nor packet ends: it is gone, and its future is to complete with the status. -/
theorem State.finishCmd_ends {s : State} {id f : Nat} {c : Command} (uncounted : c.cnt = none) (fut : c.fut = some f)
    (unpacked : c.packet = none) (unrecorded : bitN (s.engineOf c).ectl 0 = false) (sorted : AMap.sorted s.commands = true)
    (status : Nat) :
    (s.finishCmd id c status).mem = s.mem ∧ AMap.find? (s.finishCmd id c status).commands id = none
      ∧ Event.futureComplete f status ∈ (s.finishCmd id c status).agenda := by
  obtain ⟨mem, commands⟩ := State.engineDone_of_unrecorded unrecorded status
  have counted : (countUp s c).map (fun s => s.engineDone c status) = .ok (s.engineDone c status) := by
    rw [countUp, uncounted]
    rfl
  unfold State.finishCmd
  split
  next e => cases counted.symm.trans e
  next e =>
    cases counted.symm.trans e
    extract_lets waiting later s0 s2 us tell told s3
    have tells {x v} (k : ClocksOnly s2 x) : ClocksOnly s2 (tell x v) := by
      dsimp only [tell, us]
      split
      · exact k.carry
      · exact k
    have all : ClocksOnly s2 (tell told ((s.cmdSlot id).map fun x => Clocked.core x.1)) :=
      tells (List.foldlRecOn waiting _ (ClocksOnly.refl s2) fun _ k _ _ => tells k)
    simp only [unpacked]
    refine ⟨all.mem.trans mem, ?_, ?_⟩
    · have gone := AMap.find?_erase_self (n := id) sorted
      rw [State.push_commands, all.commands]
      change AMap.find? ((AMap.erase (s.engineDone c status).commands id).map _) id = none
      rw [commands, AMap.find?_map (fun x : Command => if x.deps.contains id then { x with floor := later x.floor } else x), gone]
      rfl
    · exact List.mem_append_right _ (List.mem_append_left _ (by simp [fut]))

/-! ## Steps of a command -/

section
variable {s : State} {id : Nat} {c : Command}

/-- A command that nothing holds back runs; `single` rules out the arm of the collectives, which wait for their ranks. -/
theorem exec_commandStart_starts (found : AMap.find? s.commands id = some c) (queued : c.st = .queued)
    (single : ∀ o b k n m, c.body ≠ .coll o b k n m) (may : c.mayStart s = true) (runs : (s.engineOf c).stopped = false)
    (unsaved : c.saved = false) (on : s.dieHalted c.engineDie = false) (free : s.stopsAt c false = false) :
    exec (.commandStart id) s = .next ((s.setCmd id { c with st := .running, started := s.clock }).push [.commandComplete id]) := by
  change execCommandStart id s = _
  simp [execCommandStart, found, queued, may, runs, unsaved, on, free]

theorem exec_commandStart_waits (found : AMap.find? s.commands id = some c) (held : c.mayStart s = false) :
    exec (.commandStart id) s = .next s := by
  change execCommandStart id s = _
  simp [execCommandStart, found, held]

theorem exec_commandComplete_cancelled (found : AMap.find? s.commands id = some c) (running : c.st = .running)
    (cancel : c.cancel = true) (answered : c.asked = false) :
    exec (.commandComplete id) s = .next (s.finishCmd id c (cancelStatus c.off)) := by
  change execCommandComplete id s = _
  simp [execCommandComplete, found, running, cancel, answered]

theorem exec_commandComplete_owned (found : AMap.find? s.commands id = some c) (suspended : c.st = .suspended)
    (owned : s.cmdOwned id = true) : exec (.commandComplete id) s = .next s := by
  change execCommandComplete id s = _
  simp [execCommandComplete, found, suspended, owned]

/-- A running `cpyl` that nothing stops ends at its length, and else takes one more step (R409). -/
theorem exec_commandComplete_cpyl {src dst len : Nat} {ss ds : Space} (found : AMap.find? s.commands id = some c)
    (body : c.body = .cpyl src dst ss ds len) (running : c.st = .running) (kept : c.cancel = false) (answered : c.asked = false)
    (unsaved : c.saved = false) (on : s.dieHalted c.engineDie = false) :
    exec (.commandComplete id) s = .next (if len ≤ c.pos then s.finishCmd id c 0 else copyStep s id c) := by
  change execCommandComplete id s = _
  have count : c.body.count = len := by rw [body]; rfl
  simp only [execCommandComplete, found, running, kept, answered, unsaved, on, count, Bool.false_eq_true, false_and, or_self, if_false]
  split
  · rfl
  · rw [body]

end

/-- Settles O44: each clause from the equation of its step; the end of a command by `finishCmd_ends`, the move of bytes by
`copyStep_cpyl_spm`. -/
theorem engineCommandsRun : Obligations.EngineCommandsRun := by
  unfold Obligations.EngineCommandsRun
  intro s id c found sorted
  have listed : AMap.has s.commands id = true := by rw [AMap.has, found]; rfl
  refine ⟨fun queued single may runs unsaved on free => ?_, fun _ held => exec_commandStart_waits found held,
    fun src dst ss ds len f body running kept answered unsaved on passed uncounted fut unpacked unrecorded => ?_,
    fun f running cancel answered uncounted fut unpacked unrecorded => ?_, fun src dst len k a1 a2 => ?_,
    fun suspended owned => exec_commandComplete_owned found suspended owned⟩
  · exact ⟨_, exec_commandStart_starts found queued single may runs unsaved on free, rfl, State.find?_setCmd _ listed,
      List.mem_append_right _ (List.mem_singleton_self _)⟩
  · have step := exec_commandComplete_cpyl found body running kept answered unsaved on
    rw [if_pos passed] at step
    exact ⟨_, step, State.finishCmd_ends uncounted fut unpacked unrecorded sorted 0⟩
  · exact ⟨_, exec_commandComplete_cancelled found running cancel answered,
      State.finishCmd_ends uncounted fut unpacked unrecorded sorted _⟩
  · intro n body running kept answered unsaved on more got reported old wf source onto
    have step := exec_commandComplete_cpyl found body running kept answered unsaved on
    rw [if_neg (by omega)] at step
    obtain ⟨copied, c', now, pos, off, st, same⟩ := copyStep_cpyl_spm body rfl got reported old wf listed source onto
    exact ⟨_, step, copied.mem, ⟨c', now, pos, off, st.trans running, same⟩, copied.inside, copied.outside⟩

end Sys2Proof.Machine
end
